-- ==== Sys2Proof/Word.lean ====
section
/-! DEFINITION. Words and their plainest arithmetic: bytes, little-endian grouping (00 R7) and bit ranges written
[msb:lsb]. -/

namespace Sys2Proof

/-- Eight bits: the smallest addressable unit of every memory of the device. -/
abbrev Byte := BitVec 8

/-- A 64-bit payload word W0 to W29 of a command packet (12 R300). -/
abbrev Word := BitVec 64

/-- A context number: partition in bits [10:8], local index in bits [7:0] (01 R21). -/
abbrev CtxNo := BitVec 11

namespace Bits

/-- Bits [hi:lo] of a value, as a natural number. -/
def range (w : Nat) (hi lo : Nat) : Nat := (w >>> lo) % 2 ^ (hi + 1 - lo)

/-- Whether bit i of a natural number is 1. -/
def bit (w i : Nat) : Bool := w.testBit i

/-- 1 for true, 0 for false. -/
def ofBool (b : Bool) : Nat := if b then 1 else 0

/-- The little-endian bytes of a value, n of them (00 R7). -/
def toBytes : (n : Nat) → Nat → List Byte
  | 0, _ => []
  | n + 1, w => BitVec.ofNat 8 w :: toBytes n (w / 256)

/-- The value of little-endian bytes (00 R7). -/
def ofBytes : List Byte → Nat
  | [] => 0
  | b :: bs => b.toNat + 256 * ofBytes bs

/-- The smallest multiple of m that is at least n (m above 0). -/
def roundUp (n m : Nat) : Nat := ((n + m - 1) / m) * m

/-- ceil(n / m). -/
def ceilDiv (n m : Nat) : Nat := (n + m - 1) / m

/-- A two's-complement reading of the low w bits. -/
def signed (w : Nat) (n : Nat) : Int :=
  let r := n % 2 ^ w
  if r < 2 ^ (w - 1) then (r : Int) else (r : Int) - (2 ^ w : Nat)

/-- The low w bits of an integer. -/
def ofInt (w : Nat) (z : Int) : Nat := (z % ((2 ^ w : Nat) : Int)).toNat

/-- A count that stops at its largest value. -/
def satAdd (w n k : Nat) : Nat := min (n + k) (2 ^ w - 1)

end Bits

namespace Lists

/-- Replace the element at index i, where there is one. -/
def setAt {α : Type} : List α → Nat → α → List α
  | [], _, _ => []
  | _ :: xs, 0, y => y :: xs
  | x :: xs, n + 1, y => x :: setAt xs n y

/-- Change every element that meets p. -/
def modifyIf {α : Type} (p : α → Bool) (f : α → α) (xs : List α) : List α :=
  xs.map fun x => if p x then f x else x

/-- The lowest number below n that is not in the list. -/
def lowestFree (n : Nat) (used : List Nat) : Option Nat :=
  (List.range n).find? fun k => !used.contains k

/-- Insert into a list ascending by key, after entries of an equal key. -/
def insertBy {α : Type} (le : α → α → Bool) (x : α) : List α → List α
  | [] => [x]
  | y :: ys => if le y x then y :: insertBy le x ys else x :: y :: ys

/-- Insertion sort, stable. -/
def sortBy {α : Type} (le : α → α → Bool) : List α → List α
  | [] => []
  | x :: xs => insertBy (fun a b => le a b && !le b a) x (sortBy le xs)

/-- The longest head of the list that has at most n elements, kept from the end: the newest n of an ascending log. -/
def lastN {α : Type} (n : Nat) (xs : List α) : List α := xs.drop (xs.length - n)

end Lists
end Sys2Proof
end

