-- ==== Sys2Proof/Syntax.lean ====
section
/-! DEFINITION. The commands of the block: one constructor of Instr for every row of the table of operations and
events, with the row's operands. Ring commands carry the header of their packet (12 Table CMD.3) and the payload fields
of 12 Table CMD.8 and of the chapters it names; device steps carry which unit acts; events from outside carry what
arrives. -/

namespace Sys2Proof

/-- A host port, 0 or 1 (18 R443). -/
abbrev HostPort := Fin 2
/-- A partition number (01 R24). -/
abbrev Ptn := Fin 8
/-- A cluster of the device (01 R13). -/
abbrev Cluster := Fin 8
/-- A tile of a cluster: 0 to 7 presses, 8 to 13 reels (05 Table SPD.8). -/
abbrev Tile := Fin 14
/-- A Felt port (13 R317). -/
abbrev FeltPort := Fin 8
/-- A memory stack (08 R177). -/
abbrev Stack := Fin 6
/-- An island (15 Table PWR.5). -/
abbrev Island := Fin 152
/-- A store die (17 R422). -/
abbrev Die := Fin 8

/-- A submission ring and its completion ring: a host ring (12 R293) or the ring pair of a context (12 R292). -/
inductive Ring where
  | host (port : HostPort)
  | ctx (c : CtxNo)
  deriving DecidableEq, Repr

/-- Who runs a DBG command: a ring, or the TAP (20 R494). -/
inductive DbgPort where
  | host (port : HostPort)
  | jtag
  deriving DecidableEq, Repr

/-- The header of a packet (12 Table CMD.3), with the ring it stands in and the submission counter of its first unit,
which names it among the ring's accepted commands. -/
structure Req where
  ring : Ring
  idx : BitVec 32
  tag : BitVec 16
  ordered : Bool
  fenceBefore : Bool
  fenceAfter : Bool
  notify : Bool
  counters : Bool
  watch : Bool
  fbScope : BitVec 2
  faScope : BitVec 2
  deadline : BitVec 32
  deriving DecidableEq, Repr

/-- The object descriptor as OBJ.CREATE carries it (07 Table TIR.3). -/
structure ObjDesc where
  kind : BitVec 4
  home : BitVec 2
  pin : Bool
  prot : Bool
  comp : Bool
  elem : BitVec 2
  tile : Bool
  budget : BitVec 11
  drop : BitVec 2
  clu : BitVec 3
  length : BitVec 48
  vbase : BitVec 42
  deriving DecidableEq, Repr

/-- The payload of SEQ.OPEN (12 Table CMD.8). -/
structure SeqOpenArgs where
  kvFmt : BitVec 4
  hd : BitVec 4
  layers : BitVec 8
  heads : BitVec 8
  layout : Bool
  shardLog2 : BitVec 3
  memberLog2 : BitVec 3
  rank : BitVec 6
  fromHandle : Bool
  w : BitVec 17
  input : BitVec 42
  handle : BitVec 64
  deriving DecidableEq, Repr

/-- The payload of SCHED.RUN and SCHED.STEP (12 Table CMD.9). -/
structure RunArgs where
  image : BitVec 42
  list : BitVec 42
  objOff : BitVec 32
  nObj : BitVec 9
  bindOff : BitVec 32
  nBind : BitVec 9
  q : BitVec 4
  result : BitVec 42
  verify : Bool
  noFill : Bool
  deriving DecidableEq, Repr

/-- Where a weight version comes from (12 Table CMD.8, WGT.LOAD and WGT.SWAP): a session and its reader's Felt address,
or an entry of the device's own library. -/
structure WgtSource where
  isLocal : Bool
  session : BitVec 32
  reader : BitVec 16
  modelId : BitVec 64
  version : BitVec 32
  deriving DecidableEq, Repr

/-- The payload of WATCH.SET (20 Table OBS.5). -/
structure WatchArgs where
  index : BitVec 4
  digest : Bool
  tileTarget : Bool
  fmt : BitVec 4
  base : BitVec 42
  offset : BitVec 42
  bytes : BitVec 30
  cluster : BitVec 3
  tile : BitVec 4
  space : BitVec 4
  word : BitVec 24
  beat : BitVec 32
  tileBytes : BitVec 17
  deriving DecidableEq, Repr

/-- What DBG.READ and DBG.WRITE name (20 Table OBS.10). -/
structure DbgTarget where
  space : BitVec 2
  offset : BitVec 24
  cluster : BitVec 3
  tile : BitVec 4
  store : BitVec 4
  word : BitVec 24
  physical : BitVec 36
  host : BitVec 64
  bytes : BitVec 13
  deriving DecidableEq, Repr

/-- The payload of FAB.GROUP (13 Table FAB.12). -/
structure GroupArgs where
  group : BitVec 32
  index : BitVec 8
  count : BitVec 9
  lockstep : Bool
  list : BitVec 42
  listOff : BitVec 42
  receive : BitVec 42
  deriving DecidableEq, Repr

/-- A Felt frame as it reaches a port (13 Table FAB.2): header fields, payload and authentication tag. The payload is
held in the clear; the tag speaks for the encrypted frame. -/
structure Frame where
  ctr : BitVec 64
  dst : BitVec 16
  src : BitVec 16
  type : BitVec 4
  dpart : BitVec 3
  spart : BitVec 3
  hops : BitVec 4
  kp : Bool
  rsvd : BitVec 4
  length : BitVec 13
  seq : BitVec 32
  offset : BitVec 48
  tree : BitVec 48
  payload : List Byte
  tag : BitVec 128
  deriving DecidableEq, Repr

/-- A join frame of a Felt group (13 R338). -/
structure JoinInfo where
  group : BitVec 32
  count : BitVec 9
  lockstep : Bool
  digest : BitVec 256
  deriving DecidableEq, Repr

/-- One device's flooded link state (13 R329): its serial, its address or none, whether it is anchor and has claimed,
and the neighbour serial of each of its ports that is up. -/
structure LinkState where
  serial : BitVec 64
  addr : Option (BitVec 16)
  anchor : Bool
  claimed : Bool
  peers : List (Nat × BitVec 64)
  deriving DecidableEq, Repr

/-- What a read of memory met (08 R188 to R191). -/
inductive ReadOutcome where
  /-- No error. -/
  | clean
  /-- A single bad symbol, corrected and written back. -/
  | corrected
  /-- Command parity failed once and the retry succeeded (08 R190). -/
  | retried
  /-- An uncorrectable data or command error of one rank. -/
  | uncorrectable
  /-- An error that no rank can be blamed for (08 R198). -/
  | unattributed
  deriving DecidableEq, Repr

/-- What the accesses of a headbox transaction meet: its reads of tier 1 and its writes to it (08 R191). -/
structure TxnOutcome where
  read : ReadOutcome
  written : ReadOutcome
  deriving DecidableEq, Repr

/-- A host link that connects: its port and whether it runs at Gen 4 (15 R374, 18 Table LNK.1). -/
structure HostLink where
  port : HostPort
  gen4 : Bool
  deriving DecidableEq, Repr

/-- A host port that detaches, and whether its link stays up (18 R450). -/
structure PortLoss where
  port : HostPort
  linkUp : Bool
  deriving DecidableEq, Repr

/-- How a flash operation ended (17 R423). -/
inductive FlashOp where
  | program
  | erase
  deriving DecidableEq, Repr

/-- What a flash read of a shard met (11 R274, 17 R425): for its pages, by number in the shard, the most corrections that
any 1 KiB needed, above 72 an uncorrectable page; and the bytes that uncorrectable pages brought, at their places in the
shard. -/
structure FlashRead where
  bytes : List Byte
  pages : List (Nat × Nat)
  deriving DecidableEq, Repr

/-- A received CAN frame (18 R456, R458): identifier, flags of its form, and its bytes. -/
structure CanFrame where
  ident : BitVec 11
  fd : Bool
  data : List Byte
  deriving DecidableEq, Repr

/-- Words that the runtime or the host places where the device can read them, made visible with a doorbell write
(12 R296): an address of host memory and its byte. -/
abbrev HostBytes := List (Nat × Byte)

/-- The commands of the block, one constructor for each row of spec/opcode_table.json, in the table's order. -/
inductive Instr where
  -- ring commands (12 Table CMD.8)
  | devNop (q : Req)
  | devHello (q : Req) (version : BitVec 32)
  | devQuery (q : Req)
  | devAttest (q : Req) (nonce : BitVec 64) (host : BitVec 64) (bytes : BitVec 32)
  | devCommit (q : Req) (sel : BitVec 8)
  | ptnCreate (q : Req) (mask : BitVec 8) (share : BitVec 21) (n : BitVec 17) (want : BitVec 3) (useWant : Bool)
      (vector : BitVec 16)
  | ptnDestroy (q : Req) (p : BitVec 3)
  | ptnBind (q : Req) (token : BitVec 64)
  | ptnQuery (q : Req) (p : BitVec 3)
  | ptnStage (q : Req) (offset : BitVec 20) (region : BitVec 4) (p : BitVec 3) (value mask : BitVec 64)
  | ptnCommit (q : Req) (sel : BitVec 8) (p : BitVec 3)
  | ctxCreate (q : Req) (n : BitVec 17) (mirror : Bool) (mirrorAt : BitVec 64) (vector : BitVec 16)
  | ctxDestroy (q : Req) (c : CtxNo)
  | ctxLimit (q : Req) (c : CtxNo) (t0 : BitVec 12) (t1 : BitVec 23)
  | ctxQuery (q : Req) (c : CtxNo)
  | ctxSample (q : Req) (c : CtxNo) (record : BitVec 16) (base offset : BitVec 42) (bytes : BitVec 32)
  | memWrite (q : Req) (base offset : BitVec 42) (host : BitVec 64) (bytes : BitVec 32)
  | memRead (q : Req) (base offset : BitVec 42) (host : BitVec 64) (bytes : BitVec 32)
  | memCopy (q : Req) (src srcOff dst dstOff : BitVec 42) (bytes : BitVec 32)
  | memFill (q : Req) (base offset : BitVec 42) (pattern bytes : BitVec 32)
  | objCreate (q : Req) (desc : ObjDesc)
  | objFree (q : Req) (base : BitVec 42)
  | objPin (q : Req) (base : BitVec 42)
  | objUnpin (q : Req) (base : BitVec 42)
  | objPlace (q : Req) (base : BitVec 42) (home : BitVec 2)
  | objQuery (q : Req) (base : BitVec 42)
  | seqOpen (q : Req) (a : SeqOpenArgs)
  | seqClose (q : Req) (seq : BitVec 32)
  | seqQuery (q : Req) (seq : BitVec 32) (host : BitVec 64)
  | kvGlobal (q : Req) (seq : BitVec 32) (n : BitVec 7) (clear : Bool) (base offset : BitVec 42)
  | kvCommit (q : Req) (seq : BitVec 32) (a : BitVec 5)
  | kvRollback (q : Req) (seq : BitVec 32)
  | kvDrop (q : Req) (seq : BitVec 32) (n : BitVec 24)
  | pfxRegister (q : Req) (seq : BitVec 32) (p : BitVec 23)
  | pfxRelease (q : Req) (handle : BitVec 64)
  | schedLoad (q : Req) (image : BitVec 42)
  | schedUnload (q : Req) (image : BitVec 42)
  | schedRun (q : Req) (a : RunArgs)
  | schedStepset (q : Req) (base offset : BitVec 42) (count : BitVec 4)
  | schedStepfree (q : Req) (set : BitVec 4)
  | schedStep (q : Req) (a : RunArgs)
  | wgtStore (q : Req) (base : BitVec 42)
  | wgtDelete (q : Req) (modelId : BitVec 64) (version : BitVec 32)
  | wgtServe (q : Req) (modelId : BitVec 64) (version session : BitVec 32) (group linger : BitVec 16)
  | wgtLoad (q : Req) (src : WgtSource) (protect : Bool)
  | wgtReader (q : Req) (base : BitVec 42) (session : BitVec 32) (reader : BitVec 16)
  | wgtSwap (q : Req) (base : BitVec 42) (deadline : BitVec 14) (src : WgtSource)
  | wgtQuery (q : Req) (base : BitVec 42)
  | wgtFree (q : Req) (base : BitVec 42)
  | fenceBarrier (q : Req)
  | syncCreate (q : Req) (value : BitVec 64)
  | syncSignal (q : Req) (n : BitVec 12) (increment : BitVec 64)
  | syncWait (q : Req) (n : BitVec 12) (target : BitVec 64)
  | syncFree (q : Req) (n : BitVec 12)
  | syncQuery (q : Req) (n : BitVec 12)
  | watchSet (q : Req) (a : WatchArgs)
  | watchClear (q : Req) (mask : BitVec 16)
  | watchRead (q : Req) (index : BitVec 4) (host : BitVec 64)
  | watchTrace (q : Req) (base offset : BitVec 42) (bytes : BitVec 32)
  | ctrRead (q : Req) (kind : BitVec 2) (host : BitVec 64)
  | ctrClear (q : Req)
  | pwrCap (q : Req) (hostCap floor : BitVec 10)
  | pwrEnter (q : Req) (target : BitVec 3)
  | pwrMode (q : Req) (mode drizzle clear : Bool) (p : BitVec 3)
  | pwrQuery (q : Req) (kind : BitVec 2) (p : BitVec 3) (island : BitVec 8) (point : BitVec 4)
  | fabAnchor (q : Req) (claim : Bool) (host : BitVec 64) (entries : BitVec 17)
  | fabQuery (q : Req) (kind : BitVec 2) (port : BitVec 3)
  | fabGroup (q : Req) (a : GroupArgs)
  | fabLeave (q : Req)
  | fabPut (q : Req) (src srcOff : BitVec 42) (member : BitVec 8) (offset : BitVec 48) (bytes : BitVec 32)
  | fabRotate (q : Req) (port : BitVec 4)
  | fwStage (q : Req) (host : BitVec 64) (offset : BitVec 22) (bytes : BitVec 23)
  | fwVerify (q : Req)
  | fwActivate (q : Req)
  | fwQuery (q : Req)
  | dbgChallenge (q : Req) (host : BitVec 64)
  | dbgRespond (q : Req) (host : BitVec 64)
  | dbgRead (q : Req) (t : DbgTarget)
  | dbgWrite (q : Req) (t : DbgTarget)
  | dbgSample (q : Req) (p : BitVec 3) (record : BitVec 16) (host : BitVec 64) (bytes : BitVec 32)
  | dbgUnretire (q : Req) (stack : BitVec 3) (rank : BitVec 2)
  -- the TAP (20 R494)
  | jtagDbgChal
  | jtagDbgResp (response : BitVec 29856)
  | jtagDbgCmd (packet : BitVec 512)
  | jtagDbgData (shiftIn : BitVec 32768)
  | jtagExtest
  | jtagSamplePreload
  | jtagBypass (code : BitVec 8)
  -- doorbells, packets, events and deadlines (12)
  | sqTailWrite (port : HostPort) (ring : Ring) (value : BitVec 32) (units : List (BitVec 512)) (host : HostBytes)
  | cqHeadWrite (port : HostPort) (ring : Ring) (value : BitVec 32)
  | packetAccept (ring : Ring)
  | eventDeliver (ring : Ring)
  | commandDeadline (ring : Ring) (idx : BitVec 32)
  -- register accesses (21)
  | ptnCommitWrite (port : HostPort) (p : Ptn) (value : BitVec 32)
  | devCommitWrite (port : HostPort) (value : BitVec 32)
  | stagedRegisterWrite (port : HostPort) (offset : BitVec 24) (wide : Bool) (value : BitVec 64)
  | memcSpareCfgWrite (port : HostPort) (value : BitVec 32)
  | devFldCfgWrite (port : HostPort) (value : BitVec 32)
  | devBarStatClear (port : HostPort) (value : BitVec 64)
  | recoveryGo (port : HostPort) (value : BitVec 32) (host : HostBytes)
  | registerWrite (port : HostPort) (offset : BitVec 24) (wide : Bool) (value : BitVec 64)
  | wideRegisterRead (port : HostPort) (offset : BitVec 24)
  | unsupportedAccess (port : HostPort) (offset : BitVec 24) (write : Bool)
  -- runs and beats (05, 10, 15)
  | runDispatch (p : Ptn)
  | drizzleRampDone (p : Ptn)
  | memberCollect (c : Cluster) (member : Fin 15)
  | beatRelease (p : Ptn) (ns : BitVec 32)
  | runComplete (p : Ptn)
  | slip (p : Ptn)
  | slipAbandon (p : Ptn)
  -- tile operations (03 Table TIL.2)
  | mm (c : Cluster) (t : Tile)
  | mmb (c : Cluster) (t : Tile)
  | ptbuild (c : Cluster) (t : Tile)
  | scload (c : Cluster) (t : Tile)
  | cbload (c : Cluster) (t : Tile)
  | move (c : Cluster) (t : Tile)
  | fill (c : Cluster) (t : Tile)
  | filler (c : Cluster) (t : Tile)
  | mms (c : Cluster) (t : Tile)
  | attd (c : Cluster) (t : Tile)
  | lsbuild (c : Cluster) (t : Tile)
  | lscan (c : Cluster) (t : Tile)
  | lselect (c : Cluster) (t : Tile)
  | rescore (c : Cluster) (t : Tile)
  | smerge (c : Cluster) (t : Tile)
  | rowsum (c : Cluster) (t : Tile)
  | resultCoding (c : Cluster) (t : Tile)
  | narrowStore (c : Cluster) (t : Tile) (space : BitVec 4) (byte : BitVec 24) (size : BitVec 2) (value : BitVec 32)
      (tag : Option CtxNo)
  | narrowLoad (c : Cluster) (t : Tile) (space : BitVec 4) (byte : BitVec 24) (size : BitVec 2)
  | coalesceWriteback (c : Cluster) (t : Tile) (space : BitVec 4) (line : BitVec 16)
  -- the headbox (01, 05, 06, 09, 10, 13)
  | headboxMove (c : Cluster)
  | compressingMove (c : Cluster)
  | codedCopy (c : Cluster)
  | pageRunMove (c : Cluster)
  | couchRun (c : Cluster)
  | peerMove (c : Cluster)
  | hbTxnIssue (c : Cluster) (move : Nat)
  | hbTxnRetire (c : Cluster) (move : Nat) (chunk : Nat) (outcome : TxnOutcome)
  -- the memory controller (08)
  | rankCopyDone (s : Stack)
  | keeperPoisonAction (c : Cluster) (line : Nat)
  | patrolScrub (c : Cluster) (line : Nat) (outcome : ReadOutcome)
  | refresh (s : Stack) (celsius : BitVec 8)
  -- limits, estimates and ageing (15)
  | tempReadout (die : BitVec 8) (temps : Vector (BitVec 8) 6)
  | ceilingStep
  | inputUndervoltage
  | railOvercurrent
  | thermalTrip (die stack : BitVec 8)
  | refclkLoss
  | powerEstimate (p : Ptn) (milliwatts : Nat)
  | ageingReplan (i : Island) (margins : Vector (BitVec 16) 4)
  -- the keepers (07)
  | tileMigrate (c : CtxNo) (base : BitVec 42) (tile : Nat)
  | tilePromote (p : Ptn)
  | quotaReclaim (p : Ptn)
  -- resets, cores and watchdogs (16)
  | contextReset (c : CtxNo)
  | slotSettle (p : Ptn)
  | partitionReset (p : Ptn)
  | coreRestart (i : Island)
  | coreException (i : Island)
  | txnWatchdog (c : Cluster) (move : Nat) (chunk : Nat)
  | coreHeartbeatWatchdog (i : Island)
  | coreProgressWatchdog (i : Island)
  | ctxResetWatchdog (c : CtxNo)
  | ptnResetWatchdog (p : Ptn)
  | coreRestartWatchdog (i : Island)
  -- weights (11)
  | shardReceive (c : CtxNo) (base : BitVec 42) (tile : Nat) (bytes : List Byte)
  | waveRelease (p : Ptn)
  | shardMissing (c : CtxNo) (base : BitVec 42) (tile : Nat)
  | shardOverdue (c : CtxNo) (base : BitVec 42) (tile : Nat)
  | resendRequest (session : BitVec 32) (receiver : BitVec 16) (tile : Nat)
  | sessionLingerExpiry (session : BitVec 32)
  -- Felt (13)
  | linkSignal (k : FeltPort)
  | trainingTimeout (k : FeltPort)
  | refusedRetry (k : FeltPort)
  | helloFrame (k : FeltPort) (f : Frame) (serial : BitVec 64) (nonce iface : BitVec 32) (addr : Option (BitVec 16))
  | proofFrame (k : FeltPort) (f : Frame) (proof : BitVec 256)
  | rotateFrame (k : FeltPort) (f : Frame) (epoch : BitVec 64)
  | keyRotationDue (k : FeltPort)
  | rotationAckTimeout (k : FeltPort)
  | dataFrame (k : FeltPort) (f : Frame)
  | multicastFrame (k : FeltPort) (f : Frame)
  | ackFrame (k : FeltPort) (f : Frame) (first count : BitVec 32) (beyond : Bool)
  | idleFrame (k : FeltPort)
  | linkStateFrame (k : FeltPort) (f : Frame) (ls : LinkState)
  | addressAssign (serial : BitVec 64) (addr : BitVec 16)
  | frameResendTimer (part : Ptn) (dst : BitVec 16) (dpart : BitVec 3) (seq : BitVec 32)
  | portSilenceTimeout (k : FeltPort)
  | fecLockLoss (k : FeltPort)
  | routeInstall
  | joinFrame (k : FeltPort) (f : Frame) (j : JoinInfo)
  | groupFormTimeout (p : Ptn)
  | leaveFrame (k : FeltPort) (f : Frame) (moved : Bool)
  | doneFrame (k : FeltPort) (f : Frame) (beat : BitVec 64) (admitted : Option (BitVec 64 × BitVec 32))
  | releaseFrame (k : FeltPort) (f : Frame) (beat : BitVec 64)
  | heldFrame (k : FeltPort) (f : Frame)
  | abortFrame (k : FeltPort) (f : Frame)
  | treeJoin (k : FeltPort) (f : Frame) (reader : BitVec 16) (group : BitVec 16)
  | branchPrune (reader : BitVec 16) (group : BitVec 16) (k : FeltPort)
  -- power states, supplies and boot (15, 17, 19)
  | autoLull
  | powerStateEntry
  | wakeLine
  | hostLinkConnect (link : HostLink)
  | thaw
  | tier1Ready
  | powerOn
  | powerRemove
  | fieldPowerOn
  | bootRomStart
  | flashOpComplete (d : Die) (block : BitVec 14) (op : FlashOp) (failed : Bool)
  | flashPatrol (stripe : BitVec 12) (pages : List (Nat × Nat))
  -- host ports (18)
  | portAttach (port : HostPort) (gen4 : Bool)
  | portDetach (loss : PortLoss)
  | functionLevelReset (port : HostPort)
  | orphanExpiry (p : Ptn)
  -- the field port (18)
  | shedDirective (f : CanFrame)
  | shedPin (level : Bool)
  | capRequest (f : CanFrame)
  | fieldWake (f : CanFrame)
  | attestationRequest (f : CanFrame)
  | quoteFragment
  | fieldUnknownFrame (f : CanFrame)
  | beacon
  | faultSummary
  | busOff
  | wardenHeartbeatLoss
  -- timers and lines of their own
  | slotDue (p : Ptn)
  | rngHealthFail
  | rngReseed
  | debugSessionExpiry (ch : DbgPort)
  | refclkPresent
  | fieldVddLoss
  | inputVoltageRestored
  | linkTrainingComplete (k : FeltPort)
  | rotateAcknowledgement (k : FeltPort) (f : Frame)
  | uncorrectableFecCodeword (k : FeltPort)
  | portHealthRestored (k : FeltPort)
  | linkCredit (k : FeltPort) (hopClass : BitVec 4) (channel : BitVec 4) (count : BitVec 8)
  | flashReadComplete (model : BitVec 64) (version : BitVec 32) (tile : Nat) (r : FlashRead)
  deriving DecidableEq, Repr

end Sys2Proof
end

