-- ==== Sys2Proof/Decode.lean ====
section
/-! DEFINITION. Reading and writing command packets (12 R300, R309, Table CMD.3, Table CMD.8, Table CMD.9 and the payload
tables of the chapters that Table CMD.8 names), and decodeTableWord. The table of operations and events gives no row any
bits, so decodeTableWord spells no command. -/

namespace Sys2Proof

/-- The command that a word spells by the table's bits: the table gives no row bits, so none. -/
def decodeTableWord (_nbits _w : Nat) : Option Instr := none

namespace Packet

/-! ### Layouts: fields and reserved gaps in ascending bit order -/

/-- A part of a packed word: a field that carries a value, or reserved bits (00 R11). -/
structure Part where
  field : Bool
  width : Nat
  deriving DecidableEq, Repr

/-- A field of w bits. -/
def f (w : Nat) : Part := ⟨true, w⟩
/-- w reserved bits. -/
def z (w : Nat) : Part := ⟨false, w⟩

/-- The field values of a word under a layout, least significant first. -/
def fields : List Part → Nat → List Nat
  | [], _ => []
  | p :: ps, w =>
    if p.field then (w % 2 ^ p.width) :: fields ps (w / 2 ^ p.width) else fields ps (w / 2 ^ p.width)

/-- Whether every reserved bit, and every bit above the layout, is 0 (00 R11). -/
def reservedZero : List Part → Nat → Bool
  | [], w => w == 0
  | p :: ps, w => (p.field || w % 2 ^ p.width == 0) && reservedZero ps (w / 2 ^ p.width)

/-- The word that holds given field values under a layout, reserved bits 0. -/
def pack : List Part → List Nat → Nat
  | [], _ => 0
  | p :: ps, vs =>
    if p.field then vs.headD 0 % 2 ^ p.width + 2 ^ p.width * pack ps vs.tail
    else 2 ^ p.width * pack ps vs

/-! ### The header (12 Table CMD.3) -/

/-- Bytes 0 to 15 of unit 0. -/
def header : List Part :=
  [f 8, f 2, f 1, f 1, f 1, f 1, f 1, f 1, f 2, f 2, z 12, f 16, z 16, f 32, z 32]

/-- A payload word that holds a base or an offset (12 R309). -/
def addr : List Part := [f 42, z 22]

/-- The payload of SCHED.RUN and SCHED.STEP (12 Table CMD.9). -/
def runLayout : List Part :=
  [f 42, z 22, f 42, z 22, f 32, f 9, z 23, f 32, f 9, f 4, z 19, f 42, f 1, f 1, z 84]

/-- The layout of an opcode's payload (12 Table CMD.8); v chooses among the forms of WATCH.SET (bit 5 of W0) and of
DBG.READ and DBG.WRITE (bits [1:0] of W0). -/
def payload (op v : Nat) : Option (List Part) :=
  match op with
  | 0x00 => some []
  | 0x01 => some [f 32]
  | 0x02 => some []
  | 0x03 => some [f 64, f 64, f 32]
  | 0x04 => some [f 8]
  | 0x10 => some [f 8, f 21, z 3, f 17, z 1, f 3, f 1, z 10, f 16]
  | 0x11 => some [f 3]
  | 0x12 => some [f 64]
  | 0x13 => some [f 3]
  | 0x14 => some [f 20, f 4, f 3, z 37, f 64, f 64]
  | 0x15 => some [f 8, f 3]
  | 0x18 => some [f 17, z 15, f 1, z 31, f 64, f 16]
  | 0x19 => some [f 11]
  | 0x1A => some [f 11, z 53, f 12, z 52, f 23]
  | 0x1B => some [f 11]
  | 0x1C => some ([f 11, z 5, f 16, z 32] ++ addr ++ addr ++ [f 32])
  | 0x20 => some (addr ++ addr ++ [f 64, f 32])
  | 0x21 => some (addr ++ addr ++ [f 64, f 32])
  | 0x22 => some (addr ++ addr ++ addr ++ addr ++ [f 32])
  | 0x23 => some (addr ++ addr ++ [f 32, z 32, f 32])
  | 0x30 => some [f 4, f 2, f 1, f 1, f 1, f 2, f 1, f 11, f 2, f 3, z 4, f 48, f 42, z 134]
  | 0x31 => some addr
  | 0x32 => some addr
  | 0x33 => some addr
  | 0x34 => some (addr ++ [f 2])
  | 0x35 => some addr
  | 0x40 => some ([f 4, f 4, f 8, f 8, f 1, f 3, f 3, f 6, f 1, z 26, f 17, z 47] ++ addr ++ [f 64])
  | 0x41 => some [f 32]
  | 0x42 => some [f 32, z 32, f 64]
  | 0x48 => some ([f 32, f 7, f 1, z 24] ++ addr ++ addr)
  | 0x49 => some [f 32, f 5]
  | 0x4A => some [f 32]
  | 0x4B => some [f 32, f 24]
  | 0x50 => some [f 32, f 23]
  | 0x51 => some [f 64]
  | 0x60 => some addr
  | 0x61 => some addr
  | 0x62 => some runLayout
  | 0x63 => some (addr ++ addr ++ [f 4])
  | 0x64 => some [f 4]
  | 0x65 => some runLayout
  | 0x80 => some addr
  | 0x81 => some [f 64, f 32]
  | 0x82 => some [f 64, f 32, f 32, f 16, f 16]
  | 0x83 => some [f 1, f 1, z 62, f 32, f 16, z 16, f 64, f 32]
  | 0x84 => some (addr ++ [f 32, f 16])
  | 0x85 => some (addr ++ [f 14, f 1, z 49, f 32, f 16, z 16, f 64, f 32])
  | 0x86 => some addr
  | 0x87 => some addr
  | 0x90 => some []
  | 0x98 => some [f 64]
  | 0x99 => some [f 12, z 52, f 64]
  | 0x9A => some [f 12, z 52, f 64]
  | 0x9B => some [f 12]
  | 0x9C => some [f 12]
  | 0xA0 =>
    if v / 32 % 2 = 0 then some ([f 4, f 1, f 1, f 4, z 54] ++ addr ++ addr ++ [f 30])
    else some [f 4, f 1, f 1, f 4, z 54, f 3, f 4, f 4, f 24, z 29, f 32, z 32, f 17]
  | 0xA1 => some [f 16]
  | 0xA2 => some [f 4, z 60, f 64]
  | 0xA3 => some (addr ++ addr ++ [f 32])
  | 0xA8 => some [f 2, z 62, f 64]
  | 0xA9 => some []
  | 0xB0 => some [f 10, z 6, f 10]
  | 0xB1 => some [f 3]
  | 0xB2 => some [f 1, f 1, f 1, z 1, f 3]
  | 0xB3 => some [f 2, z 2, f 3, z 1, f 8, f 4]
  | 0xC0 => some [f 1, z 63, f 64, f 17]
  | 0xC1 => some [f 2, z 2, f 3]
  | 0xC2 => some ([f 32, f 8, f 9, f 1, z 14] ++ addr ++ addr ++ addr)
  | 0xC3 => some []
  | 0xC4 => some (addr ++ addr ++ [f 8, z 56, f 48, z 16, f 32])
  | 0xC5 => some [f 4]
  | 0xD0 => some [f 64, f 22, z 42, f 23]
  | 0xD1 => some []
  | 0xD2 => some []
  | 0xD3 => some []
  | 0xE0 => some [f 64]
  | 0xE1 => some [f 64]
  | 0xE2 => dbg v
  | 0xE3 => dbg v
  | 0xE4 => some [f 3, z 13, f 16, z 32, f 64, f 32]
  | 0xE5 => some [f 3, f 2]
  | _ => none
where
  /-- DBG.READ and DBG.WRITE by their space (20 Table OBS.10); space 3 is reserved. -/
  dbg (v : Nat) : Option (List Part) :=
    match v % 4 with
    | 0 => some [f 2, z 62, f 24, z 40, z 64, f 64, f 13]
    | 1 => some [f 2, z 62, f 3, f 4, f 4, f 24, z 29, z 64, f 64, f 13]
    | 2 => some [f 2, z 62, f 3, z 61, f 36, z 28, f 64, f 13]
    | _ => none

/-- Field i of a list as a bit vector. -/
def bv (w : Nat) (fs : List Nat) (i : Nat) : BitVec w := BitVec.ofNat w (fs.getD i 0)
/-- Field i of a list as a flag. -/
def bl (fs : List Nat) (i : Nat) : Bool := fs.getD i 0 == 1

/-- The header of a packet, with the ring it stands in and its submission counter. -/
def req (ring : Ring) (idx : BitVec 32) (h : List Nat) : Req where
  ring := ring
  idx := idx
  tag := bv 16 h 10
  ordered := bl h 2
  fenceBefore := bl h 3
  fenceAfter := bl h 4
  notify := bl h 5
  counters := bl h 6
  watch := bl h 7
  fbScope := bv 2 h 8
  faScope := bv 2 h 9
  deadline := bv 32 h 11

/-- The payload of SCHED.RUN and SCHED.STEP from its fields. -/
def runArgs (p : List Nat) : RunArgs where
  image := bv 42 p 0
  list := bv 42 p 1
  objOff := bv 32 p 2
  nObj := bv 9 p 3
  bindOff := bv 32 p 4
  nBind := bv 9 p 5
  q := bv 4 p 6
  result := bv 42 p 7
  verify := bl p 8
  noFill := bl p 9

/-- What DBG.READ and DBG.WRITE name, from its fields; the fields of the other spaces are 0. -/
def dbgTarget (p : List Nat) : DbgTarget :=
  match p.getD 0 0 with
  | 0 => ⟨0, bv 24 p 1, 0, 0, 0, 0, 0, bv 64 p 2, bv 13 p 3⟩
  | 1 => ⟨1, 0, bv 3 p 1, bv 4 p 2, bv 4 p 3, bv 24 p 4, 0, bv 64 p 5, bv 13 p 6⟩
  | _ => ⟨2, 0, bv 3 p 1, 0, 0, 0, bv 36 p 2, bv 64 p 3, bv 13 p 4⟩

/-- The payload of WATCH.SET from its fields; the fields of the other target are 0. -/
def watchArgs (p : List Nat) : WatchArgs :=
  if bl p 2 then
    ⟨bv 4 p 0, bl p 1, true, bv 4 p 3, 0, 0, 0, bv 3 p 4, bv 4 p 5, bv 4 p 6, bv 24 p 7, bv 32 p 8, bv 17 p 9⟩
  else
    ⟨bv 4 p 0, bl p 1, false, bv 4 p 3, bv 42 p 4, bv 42 p 5, bv 30 p 6, 0, 0, 0, 0, 0, 0⟩

/-- The command of an opcode, a header and its payload fields (12 Table CMD.8). -/
def build (q : Req) (op : Nat) (p : List Nat) : Option Instr :=
  match op with
  | 0x00 => some (.devNop q)
  | 0x01 => some (.devHello q (bv 32 p 0))
  | 0x02 => some (.devQuery q)
  | 0x03 => some (.devAttest q (bv 64 p 0) (bv 64 p 1) (bv 32 p 2))
  | 0x04 => some (.devCommit q (bv 8 p 0))
  | 0x10 => some (.ptnCreate q (bv 8 p 0) (bv 21 p 1) (bv 17 p 2) (bv 3 p 3) (bl p 4) (bv 16 p 5))
  | 0x11 => some (.ptnDestroy q (bv 3 p 0))
  | 0x12 => some (.ptnBind q (bv 64 p 0))
  | 0x13 => some (.ptnQuery q (bv 3 p 0))
  | 0x14 => some (.ptnStage q (bv 20 p 0) (bv 4 p 1) (bv 3 p 2) (bv 64 p 3) (bv 64 p 4))
  | 0x15 => some (.ptnCommit q (bv 8 p 0) (bv 3 p 1))
  | 0x18 => some (.ctxCreate q (bv 17 p 0) (bl p 1) (bv 64 p 2) (bv 16 p 3))
  | 0x19 => some (.ctxDestroy q (bv 11 p 0))
  | 0x1A => some (.ctxLimit q (bv 11 p 0) (bv 12 p 1) (bv 23 p 2))
  | 0x1B => some (.ctxQuery q (bv 11 p 0))
  | 0x1C => some (.ctxSample q (bv 11 p 0) (bv 16 p 1) (bv 42 p 2) (bv 42 p 3) (bv 32 p 4))
  | 0x20 => some (.memWrite q (bv 42 p 0) (bv 42 p 1) (bv 64 p 2) (bv 32 p 3))
  | 0x21 => some (.memRead q (bv 42 p 0) (bv 42 p 1) (bv 64 p 2) (bv 32 p 3))
  | 0x22 => some (.memCopy q (bv 42 p 0) (bv 42 p 1) (bv 42 p 2) (bv 42 p 3) (bv 32 p 4))
  | 0x23 => some (.memFill q (bv 42 p 0) (bv 42 p 1) (bv 32 p 2) (bv 32 p 3))
  | 0x30 => some (.objCreate q ⟨bv 4 p 0, bv 2 p 1, bl p 2, bl p 3, bl p 4, bv 2 p 5, bl p 6, bv 11 p 7, bv 2 p 8,
      bv 3 p 9, bv 48 p 10, bv 42 p 11⟩)
  | 0x31 => some (.objFree q (bv 42 p 0))
  | 0x32 => some (.objPin q (bv 42 p 0))
  | 0x33 => some (.objUnpin q (bv 42 p 0))
  | 0x34 => some (.objPlace q (bv 42 p 0) (bv 2 p 1))
  | 0x35 => some (.objQuery q (bv 42 p 0))
  | 0x40 => some (.seqOpen q ⟨bv 4 p 0, bv 4 p 1, bv 8 p 2, bv 8 p 3, bl p 4, bv 3 p 5, bv 3 p 6, bv 6 p 7, bl p 8,
      bv 17 p 9, bv 42 p 10, bv 64 p 11⟩)
  | 0x41 => some (.seqClose q (bv 32 p 0))
  | 0x42 => some (.seqQuery q (bv 32 p 0) (bv 64 p 1))
  | 0x48 => some (.kvGlobal q (bv 32 p 0) (bv 7 p 1) (bl p 2) (bv 42 p 3) (bv 42 p 4))
  | 0x49 => some (.kvCommit q (bv 32 p 0) (bv 5 p 1))
  | 0x4A => some (.kvRollback q (bv 32 p 0))
  | 0x4B => some (.kvDrop q (bv 32 p 0) (bv 24 p 1))
  | 0x50 => some (.pfxRegister q (bv 32 p 0) (bv 23 p 1))
  | 0x51 => some (.pfxRelease q (bv 64 p 0))
  | 0x60 => some (.schedLoad q (bv 42 p 0))
  | 0x61 => some (.schedUnload q (bv 42 p 0))
  | 0x62 => some (.schedRun q (runArgs p))
  | 0x63 => some (.schedStepset q (bv 42 p 0) (bv 42 p 1) (bv 4 p 2))
  | 0x64 => some (.schedStepfree q (bv 4 p 0))
  | 0x65 => some (.schedStep q (runArgs p))
  | 0x80 => some (.wgtStore q (bv 42 p 0))
  | 0x81 => some (.wgtDelete q (bv 64 p 0) (bv 32 p 1))
  | 0x82 => some (.wgtServe q (bv 64 p 0) (bv 32 p 1) (bv 32 p 2) (bv 16 p 3) (bv 16 p 4))
  | 0x83 => some (.wgtLoad q ⟨bl p 0, bv 32 p 2, bv 16 p 3, bv 64 p 4, bv 32 p 5⟩ (bl p 1))
  | 0x84 => some (.wgtReader q (bv 42 p 0) (bv 32 p 1) (bv 16 p 2))
  | 0x85 => some (.wgtSwap q (bv 42 p 0) (bv 14 p 1) ⟨bl p 2, bv 32 p 3, bv 16 p 4, bv 64 p 5, bv 32 p 6⟩)
  | 0x86 => some (.wgtQuery q (bv 42 p 0))
  | 0x87 => some (.wgtFree q (bv 42 p 0))
  | 0x90 => some (.fenceBarrier q)
  | 0x98 => some (.syncCreate q (bv 64 p 0))
  | 0x99 => some (.syncSignal q (bv 12 p 0) (bv 64 p 1))
  | 0x9A => some (.syncWait q (bv 12 p 0) (bv 64 p 1))
  | 0x9B => some (.syncFree q (bv 12 p 0))
  | 0x9C => some (.syncQuery q (bv 12 p 0))
  | 0xA0 => some (.watchSet q (watchArgs p))
  | 0xA1 => some (.watchClear q (bv 16 p 0))
  | 0xA2 => some (.watchRead q (bv 4 p 0) (bv 64 p 1))
  | 0xA3 => some (.watchTrace q (bv 42 p 0) (bv 42 p 1) (bv 32 p 2))
  | 0xA8 => some (.ctrRead q (bv 2 p 0) (bv 64 p 1))
  | 0xA9 => some (.ctrClear q)
  | 0xB0 => some (.pwrCap q (bv 10 p 0) (bv 10 p 1))
  | 0xB1 => some (.pwrEnter q (bv 3 p 0))
  | 0xB2 => some (.pwrMode q (bl p 0) (bl p 1) (bl p 2) (bv 3 p 3))
  | 0xB3 => some (.pwrQuery q (bv 2 p 0) (bv 3 p 1) (bv 8 p 2) (bv 4 p 3))
  | 0xC0 => some (.fabAnchor q (bl p 0) (bv 64 p 1) (bv 17 p 2))
  | 0xC1 => some (.fabQuery q (bv 2 p 0) (bv 3 p 1))
  | 0xC2 => some (.fabGroup q ⟨bv 32 p 0, bv 8 p 1, bv 9 p 2, bl p 3, bv 42 p 4, bv 42 p 5, bv 42 p 6⟩)
  | 0xC3 => some (.fabLeave q)
  | 0xC4 => some (.fabPut q (bv 42 p 0) (bv 42 p 1) (bv 8 p 2) (bv 48 p 3) (bv 32 p 4))
  | 0xC5 => some (.fabRotate q (bv 4 p 0))
  | 0xD0 => some (.fwStage q (bv 64 p 0) (bv 22 p 1) (bv 23 p 2))
  | 0xD1 => some (.fwVerify q)
  | 0xD2 => some (.fwActivate q)
  | 0xD3 => some (.fwQuery q)
  | 0xE0 => some (.dbgChallenge q (bv 64 p 0))
  | 0xE1 => some (.dbgRespond q (bv 64 p 0))
  | 0xE2 => some (.dbgRead q (dbgTarget p))
  | 0xE3 => some (.dbgWrite q (dbgTarget p))
  | 0xE4 => some (.dbgSample q (bv 3 p 0) (bv 16 p 1) (bv 64 p 2) (bv 32 p 3))
  | 0xE5 => some (.dbgUnretire q (bv 3 p 0) (bv 2 p 1))
  | _ => none

/-- The command that unit 0 of a packet spells, or none where a reserved bit is not 0, the opcode is reserved or the units
field is not the opcode's (12 R300, R309; every opcode has 1 unit). -/
def decode (ring : Ring) (idx : BitVec 32) (w : Nat) : Option Instr :=
  let h := fields header (w % 2 ^ 128)
  let pay := w / 2 ^ 128
  match payload (h.getD 0 0) (pay % 2 ^ 64) with
  | none => none
  | some lay =>
    if reservedZero header (w % 2 ^ 128) && reservedZero lay pay && h.getD 1 0 == 0 then
      build (req ring idx h) (h.getD 0 0) (fields lay pay)
    else none

/-! ### The encoder -/

/-- A ring command's header, opcode and payload fields; none for the other rows. -/
def parts : Instr → Option (Req × Nat × List Nat)
  | .devNop q => some (q, 0x00, [])
  | .devHello q v => some (q, 0x01, [v.toNat])
  | .devQuery q => some (q, 0x02, [])
  | .devAttest q n h b => some (q, 0x03, [n.toNat, h.toNat, b.toNat])
  | .devCommit q s => some (q, 0x04, [s.toNat])
  | .ptnCreate q m sh n w u v =>
    some (q, 0x10, [m.toNat, sh.toNat, n.toNat, w.toNat, u.toNat, v.toNat])
  | .ptnDestroy q p => some (q, 0x11, [p.toNat])
  | .ptnBind q t => some (q, 0x12, [t.toNat])
  | .ptnQuery q p => some (q, 0x13, [p.toNat])
  | .ptnStage q o r p v m => some (q, 0x14, [o.toNat, r.toNat, p.toNat, v.toNat, m.toNat])
  | .ptnCommit q s p => some (q, 0x15, [s.toNat, p.toNat])
  | .ctxCreate q n m a v => some (q, 0x18, [n.toNat, m.toNat, a.toNat, v.toNat])
  | .ctxDestroy q c => some (q, 0x19, [c.toNat])
  | .ctxLimit q c t0 t1 => some (q, 0x1A, [c.toNat, t0.toNat, t1.toNat])
  | .ctxQuery q c => some (q, 0x1B, [c.toNat])
  | .ctxSample q c r b o n => some (q, 0x1C, [c.toNat, r.toNat, b.toNat, o.toNat, n.toNat])
  | .memWrite q b o h n => some (q, 0x20, [b.toNat, o.toNat, h.toNat, n.toNat])
  | .memRead q b o h n => some (q, 0x21, [b.toNat, o.toNat, h.toNat, n.toNat])
  | .memCopy q a ao b bo n => some (q, 0x22, [a.toNat, ao.toNat, b.toNat, bo.toNat, n.toNat])
  | .memFill q b o x n => some (q, 0x23, [b.toNat, o.toNat, x.toNat, n.toNat])
  | .objCreate q d =>
    some (q, 0x30, [d.kind.toNat, d.home.toNat, d.pin.toNat, d.prot.toNat, d.comp.toNat, d.elem.toNat, d.tile.toNat,
      d.budget.toNat, d.drop.toNat, d.clu.toNat, d.length.toNat, d.vbase.toNat])
  | .objFree q b => some (q, 0x31, [b.toNat])
  | .objPin q b => some (q, 0x32, [b.toNat])
  | .objUnpin q b => some (q, 0x33, [b.toNat])
  | .objPlace q b h => some (q, 0x34, [b.toNat, h.toNat])
  | .objQuery q b => some (q, 0x35, [b.toNat])
  | .seqOpen q a =>
    some (q, 0x40, [a.kvFmt.toNat, a.hd.toNat, a.layers.toNat, a.heads.toNat, a.layout.toNat, a.shardLog2.toNat,
      a.memberLog2.toNat, a.rank.toNat, a.fromHandle.toNat, a.w.toNat, a.input.toNat, a.handle.toNat])
  | .seqClose q n => some (q, 0x41, [n.toNat])
  | .seqQuery q n h => some (q, 0x42, [n.toNat, h.toNat])
  | .kvGlobal q s n c b o => some (q, 0x48, [s.toNat, n.toNat, c.toNat, b.toNat, o.toNat])
  | .kvCommit q s a => some (q, 0x49, [s.toNat, a.toNat])
  | .kvRollback q s => some (q, 0x4A, [s.toNat])
  | .kvDrop q s n => some (q, 0x4B, [s.toNat, n.toNat])
  | .pfxRegister q s p => some (q, 0x50, [s.toNat, p.toNat])
  | .pfxRelease q h => some (q, 0x51, [h.toNat])
  | .schedLoad q b => some (q, 0x60, [b.toNat])
  | .schedUnload q b => some (q, 0x61, [b.toNat])
  | .schedRun q a => some (q, 0x62, run a)
  | .schedStepset q b o n => some (q, 0x63, [b.toNat, o.toNat, n.toNat])
  | .schedStepfree q n => some (q, 0x64, [n.toNat])
  | .schedStep q a => some (q, 0x65, run a)
  | .wgtStore q b => some (q, 0x80, [b.toNat])
  | .wgtDelete q m v => some (q, 0x81, [m.toNat, v.toNat])
  | .wgtServe q m v s g l => some (q, 0x82, [m.toNat, v.toNat, s.toNat, g.toNat, l.toNat])
  | .wgtLoad q s p =>
    some (q, 0x83, [s.isLocal.toNat, p.toNat, s.session.toNat, s.reader.toNat, s.modelId.toNat, s.version.toNat])
  | .wgtReader q b s r => some (q, 0x84, [b.toNat, s.toNat, r.toNat])
  | .wgtSwap q b d s =>
    some (q, 0x85, [b.toNat, d.toNat, s.isLocal.toNat, s.session.toNat, s.reader.toNat, s.modelId.toNat,
      s.version.toNat])
  | .wgtQuery q b => some (q, 0x86, [b.toNat])
  | .wgtFree q b => some (q, 0x87, [b.toNat])
  | .fenceBarrier q => some (q, 0x90, [])
  | .syncCreate q v => some (q, 0x98, [v.toNat])
  | .syncSignal q n i => some (q, 0x99, [n.toNat, i.toNat])
  | .syncWait q n t => some (q, 0x9A, [n.toNat, t.toNat])
  | .syncFree q n => some (q, 0x9B, [n.toNat])
  | .syncQuery q n => some (q, 0x9C, [n.toNat])
  | .watchSet q a =>
    some (q, 0xA0, if a.tileTarget then
      [a.index.toNat, a.digest.toNat, 1, a.fmt.toNat, a.cluster.toNat, a.tile.toNat, a.space.toNat, a.word.toNat,
        a.beat.toNat, a.tileBytes.toNat]
      else [a.index.toNat, a.digest.toNat, 0, a.fmt.toNat, a.base.toNat, a.offset.toNat, a.bytes.toNat])
  | .watchClear q m => some (q, 0xA1, [m.toNat])
  | .watchRead q i h => some (q, 0xA2, [i.toNat, h.toNat])
  | .watchTrace q b o n => some (q, 0xA3, [b.toNat, o.toNat, n.toNat])
  | .ctrRead q k h => some (q, 0xA8, [k.toNat, h.toNat])
  | .ctrClear q => some (q, 0xA9, [])
  | .pwrCap q c fl => some (q, 0xB0, [c.toNat, fl.toNat])
  | .pwrEnter q t => some (q, 0xB1, [t.toNat])
  | .pwrMode q m d c p => some (q, 0xB2, [m.toNat, d.toNat, c.toNat, p.toNat])
  | .pwrQuery q k p i pt => some (q, 0xB3, [k.toNat, p.toNat, i.toNat, pt.toNat])
  | .fabAnchor q c h n => some (q, 0xC0, [c.toNat, h.toNat, n.toNat])
  | .fabQuery q k p => some (q, 0xC1, [k.toNat, p.toNat])
  | .fabGroup q a =>
    some (q, 0xC2, [a.group.toNat, a.index.toNat, a.count.toNat, a.lockstep.toNat, a.list.toNat, a.listOff.toNat,
      a.receive.toNat])
  | .fabLeave q => some (q, 0xC3, [])
  | .fabPut q s so m o n => some (q, 0xC4, [s.toNat, so.toNat, m.toNat, o.toNat, n.toNat])
  | .fabRotate q p => some (q, 0xC5, [p.toNat])
  | .fwStage q h o n => some (q, 0xD0, [h.toNat, o.toNat, n.toNat])
  | .fwVerify q => some (q, 0xD1, [])
  | .fwActivate q => some (q, 0xD2, [])
  | .fwQuery q => some (q, 0xD3, [])
  | .dbgChallenge q h => some (q, 0xE0, [h.toNat])
  | .dbgRespond q h => some (q, 0xE1, [h.toNat])
  | .dbgRead q t => some (q, 0xE2, dbg t)
  | .dbgWrite q t => some (q, 0xE3, dbg t)
  | .dbgSample q p r h n => some (q, 0xE4, [p.toNat, r.toNat, h.toNat, n.toNat])
  | .dbgUnretire q s r => some (q, 0xE5, [s.toNat, r.toNat])
  | _ => none
where
  /-- Fields of 12 Table CMD.9. -/
  run (a : RunArgs) : List Nat :=
    [a.image.toNat, a.list.toNat, a.objOff.toNat, a.nObj.toNat, a.bindOff.toNat, a.nBind.toNat, a.q.toNat,
      a.result.toNat, a.verify.toNat, a.noFill.toNat]
  /-- Fields of DBG.READ and DBG.WRITE. -/
  dbg (t : DbgTarget) : List Nat :=
    if t.space = 0 then [0, t.offset.toNat, t.host.toNat, t.bytes.toNat]
    else if t.space = 1 then
      [1, t.cluster.toNat, t.tile.toNat, t.store.toNat, t.word.toNat, t.host.toNat, t.bytes.toNat]
    else [2, t.cluster.toNat, t.physical.toNat, t.host.toNat, t.bytes.toNat]

/-- The fields of a header (12 Table CMD.3), one unit. -/
def headerFields (q : Req) (op : Nat) : List Nat :=
  [op, 0, q.ordered.toNat, q.fenceBefore.toNat, q.fenceAfter.toNat, q.notify.toNat, q.counters.toNat, q.watch.toNat,
    q.fbScope.toNat, q.faScope.toNat, q.tag.toNat, q.deadline.toNat]

/-- The form of the payload that field values choose (see payload). -/
def variantOf (op : Nat) (p : List Nat) : Nat :=
  if op = 0xA0 then 32 * p.getD 2 0 else p.getD 0 0

/-- The packet of a ring command; 0 for the other rows. -/
def encode (i : Instr) : Nat :=
  match parts i with
  | none => 0
  | some (q, op, p) =>
    match payload op (variantOf op p) with
    | none => 0
    | some lay => pack header (headerFields q op) + 2 ^ 128 * pack lay p

end Packet

namespace Instr

/-- The header of a ring command. -/
def req? (i : Instr) : Option Req := (Packet.parts i).map (·.1)
/-- The opcode of a ring command (12 Table CMD.8); 0 for the other rows. -/
def opcode (i : Instr) : Nat := ((Packet.parts i).map (·.2.1)).getD 0

end Instr
end Sys2Proof
end

