-- ==== Sys2Proof/Config.lean ====
section
/-! DEFINITION. What an implementation or the factory fixes, and the free values: constants without a body, of which
nothing in Lean can prove a value (log entries 3 to 7). -/

namespace Sys2Proof.Config

/-! ### Factory values of the OTP row (14 R361 Table PTN.2), log entry 4 -/

/-- Device serial; the device never holds 0 here. -/
opaque serialRaw : BitVec 64
/-- Device serial, never 0 (14 Table PTN.2). -/
def serial : BitVec 64 := if serialRaw = 0 then 1 else serialRaw
/-- Customer's fleet identifier. -/
opaque fleetId : BitVec 64
/-- Fleet link root of 13 R321, secret. -/
opaque linkRoot : BitVec 256
/-- Model-key digests of slots 0 to 3. -/
opaque modelKey : Nat → BitVec 256
/-- SHA3-256 of the operator's public key. -/
opaque opKey : BitVec 256
/-- Seed of the identity key (14 R365, Table PTN.2), secret. -/
opaque idSeed : BitVec 256
/-- The anti-rollback field as the part leaves the factory (17 R436). -/
opaque factoryRollback : BitVec 128
/-- Manufacture data of the OTP row of store die 0, bits [32767:8192]. -/
opaque mfg : BitVec 24576
/-- Serials and manufacture data of the OTP rows of store dies 1 to 7 (14 R361), used for no key. -/
opaque storeSerial : Fin 7 → BitVec 64
/-- As storeSerial: the rest of those rows. -/
opaque storeMfg : Fin 7 → BitVec 32704
/-- Firmware-key digest held in the boot ROM (17 R433). -/
opaque firmwareKey : BitVec 256
/-- SHA3-256 of the boot ROM (14 Table PTN.3). -/
opaque romDigest : BitVec 256
/-- The bytes of the image the module ships with, as its boot area holds it (17 R433). -/
opaque factoryImage : List Byte

/-! ### Cryptographic functions the manual names and does not give, log entry 5 -/

/-- SHA3-256 of FIPS 202. -/
opaque sha3 : List Byte → BitVec 256
/-- KMAC256 of NIST SP 800-185: key, X, S and the output read as 512 bits. -/
opaque kmac : BitVec 256 → List Byte → String → BitVec 512
/-- ML-DSA-44 verification: public key, signature, signed digest. -/
opaque mldsaVerify : List Byte → List Byte → BitVec 256 → Bool
/-- ML-DSA-44 key generation of FIPS 204 from a seed: the public key of 1,312 bytes and the private key. -/
opaque mldsaKeyGen : BitVec 256 → List Byte × List Byte
/-- ML-DSA-44 signature of FIPS 204 under a private key over a digest, with the hedging randomness of a draw: 2,420
bytes. -/
opaque mldsaSign : List Byte → BitVec 256 → Nat → List Byte
/-- The AES-256-GCM tag of a frame under a key: key, counter, header bits, encrypted payload. -/
opaque gcmTag : BitVec 256 → BitVec 64 → BitVec 256 → List Byte → BitVec 128
/-- Byte i of the AES-256-GCM key stream of a frame under a key: key, counter, i. -/
opaque gcmStream : BitVec 256 → BitVec 64 → Nat → BitVec 8

/-- The identity public key (14 R365): the key pair that key generation derives from id_seed. -/
def identityKey : List Byte := (mldsaKeyGen idSeed).1
/-- A signature under the identity key. -/
def identitySign (digest : BitVec 256) (k : Nat) : List Byte := mldsaSign (mldsaKeyGen idSeed).2 digest k

/-- The OTP row of store die 0 (14 Table PTN.2) with an anti-rollback field. -/
def otpRow (rollback : BitVec 128) : Nat :=
  serial.toNat + fleetId.toNat * 2 ^ 64 + idSeed.toNat * 2 ^ 128 + linkRoot.toNat * 2 ^ 384 +
    ((List.range 4).foldl (fun w k => w + (modelKey k).toNat * 2 ^ (640 + 256 * k)) 0) + opKey.toNat * 2 ^ 1664 +
    rollback.toNat * 2 ^ 1920 + mfg.toNat * 2 ^ 8192

/-- Digest of OTP bits [127:0] followed by bits [1919:640] (14 Tables PTN.2, PTN.3): serial, fleet identifier, the four
model-key digests and the operator-key digest; the anti-rollback field lies outside them. -/
def otpDigest : BitVec 256 := sha3 (Bits.toBytes 16 (otpRow 0) ++ Bits.toBytes 160 (otpRow 0 / 2 ^ 640))

/-! ### Random draws (14 R364), log entry 6 -/

/-- Draw k of the device's random generator. -/
opaque draw : Nat → BitVec 256

/-! ### Values the manual leaves open, log entry 3 -/

/-- The most corrections that any 1 KiB of a page needs as the store core or the boot ROM reads it for itself (17 R425):
the number of the read's free value and the page; above 72 it is uncorrectable. Free. -/
opaque pageErrors : Nat → Nat → Nat

/-- Free value k: what the device picks where the manual does not say which. -/
opaque free : Nat → BitVec 64

/-- Activation functions inside [-16, 16], whose 512-segment tables the manual does not give (04 R101): code of
Table CHN.2 and FP32 input. -/
opaque activation : Nat → BitVec 32 → BitVec 32

/-! ### Implementation tables (15), log entry 7 -/

/-- Point n of an island's fused table (15 R392): frequency in 6.25 MHz units and voltage in 2.5 mV steps. -/
opaque tablePoint : Nat → Nat → Nat × Nat
/-- An island's fused voltage ceiling in 2.5 mV steps (15 R392). -/
opaque voltageCeiling : Nat → Nat
/-- The fewest 2.5 mV steps that restore an island's fused timing target from its smallest sentinel margin, 0 when it is
met (15 R393). -/
opaque restoreSteps : Nat → BitVec 16 → Nat
/-- The barometer's predicted power in mW of a partition's next beat, base share included: its clusters, the phase entry's
values followed by its islands' ageing offsets, and a frequency in 6.25 MHz units (15 R381, R386). -/
opaque predictedPower : Nat → List Nat → Nat → Nat
/-- The current of a cluster with every tile at full activity, normalised (15 R385). -/
opaque fullCurrent : Nat → Nat
/-- The current and busy fraction that the rail monitor shows for a cluster in a beat (15 R385), by free-value count. -/
opaque measuredCurrent : Nat → Nat
/-- Input power in W, averaged over the last 1 ms (15 Table PWR.10), by free-value count. -/
opaque inputWatts : Nat → BitVec 10

/-! ### Felt (13), log entry 19 -/

/-- The seq value of a stream's first frame (13 R332). -/
opaque firstSeq : BitVec 32
/-- The credit of a hop class and virtual channel when a link comes up (13 R331), by the key of creditKey. -/
opaque initialCredit : Nat → Nat

/-- The payload of frame i of a control message, whose layout the manual does not give (13 R319): which message, its
fields, i. Free (log entry 147). -/
opaque controlPayload : Nat → List Nat → Nat → BitVec 128

/-- The multicast group that a reader's WGT.SERVE gave a session, as a receiver learns it (11 R274, 13 R345), log entry
21. -/
opaque sessionGroup : BitVec 16 → BitVec 32 → BitVec 16

/-! ### Translation (09) -/

/-- The set of a page translation cache in which a space's page or granule lies (09 R210), which the manual does not
give. -/
opaque cacheSet : Nat → Nat → Nat
/-- Whether an input object of a size in bytes holds a row, whose length the manual does not give (09 R206, R228). Free
(log entry 146). -/
opaque inputRow : Nat → Nat → Bool
/-- What a byte reads as where a sequence holds no page and the manual gives no value: count of free values, page, byte.
-/
opaque missingByte : Nat → Nat → Nat → BitVec 8

/-- A byte of a unit as it is allocated, which the manual leaves undefined (14 R353): number of the allocation's free
value, key of the byte. -/
opaque tileByte : Nat → Nat → BitVec 8

/-- What an access of a 64-byte line of tier 1 by a host-link command meets (08 R188, R191): the number of the command's
free value and the line; 1 corrected, 2 a command that a retry saved, 3 uncorrectable, 4 uncorrectable and of no one rank,
else nothing. Free (log entry 145). -/
opaque accessOutcome : Nat → Nat → BitVec 3

/-- Whether a line cannot be read while its rank is copied to the spare (08 R195), or the zeroing of a poisoned line fails
(14 R359): the number of the free value taken for it and the line. Free (log entry 145). -/
opaque copyFails : Nat → Nat → Bool

end Sys2Proof.Config
end

