-- ==== Sys2Proof/Machine/State.lean ====
section
/-! DEFINITION. The state of the device as plain data: rings and hosts, partitions and contexts, objects and the three
tiers, runs and beats, sequences, weights, the Felt fabric, power, faults, cores and flash, the field port, observation,
and the queue of commands that wait. -/

namespace Sys2Proof.Machine

/-- A byte store: cells with strictly rising addresses, none equal to 0, which an unlisted address reads as (log entry
10). -/
abbrev Mem := List Host.Cell

/-- Values by key, keys strictly rising; an unlisted key has the value its reader names. -/
abbrev Table (α : Type) := List (Nat × α)

/-! ### Rings, events and hosts (12, 18) -/

/-- A ring pair (12 R292, R295): entries, free-running counters, vector and mirror. base is the ring-pair object of a
context, 0 for a host ring. -/
structure RingPair where
  n : Nat := 64
  sqTail : BitVec 32 := 0
  sqHead : BitVec 32 := 0
  cqHead : BitVec 32 := 0
  cqTail : BitVec 32 := 0
  vector : BitVec 16 := 0
  mirror : Option (BitVec 64) := none
  base : BitVec 42 := 0
  deriving DecidableEq, Repr

/-- An event waiting in a buffer (12 Table CMD.5). -/
structure Event where
  number : BitVec 16
  code : BitVec 16
  arg0 : BitVec 64 := 0
  arg1 : BitVec 64 := 0
  arg2 : BitVec 64 := 0
  deriving DecidableEq, Repr

/-- An event buffer of 64 events, the number of the next event and the events dropped since the last EV_OVERFLOW
(12 R302). -/
structure EventBuf where
  waiting : List Event := []
  number : BitVec 16 := 0
  dropped : Nat := 0
  deriving DecidableEq, Repr

/-- A command that a ring has accepted and that has not completed (12 R297): its packet, the moment of acceptance,
whether it has started, the counters latched at its start (20 R484), whether its host ring's port has detached since
(18 R450), and whether it is a fence of host scope that has waited while the owning host was detached (01 R38). -/
structure Accepted where
  q : Req
  cmd : Instr
  since : Nat
  started : Bool := false
  latch : List (BitVec 64) := []
  void : Bool := false
  cutOff : Bool := false
  deriving DecidableEq, Repr

/-- A host port (18): whether its ring was the last one served (12 R298), whether it is
attached, its link's rate (Table LNK.7: 0 down, 1 40 Gbit/s, 2 80 Gbit/s), its host ring pair in warden memory
(12 R293), the host memory behind it, its MSI-X structures, DEV_BAR_STAT, shadow of wide registers, HELLO record and
failed binds. -/
structure HostSide where
  served : Bool := false
  attached : Bool := false
  rate : BitVec 2 := 0
  ring : RingPair := {}
  events : EventBuf := {}
  wardenMem : Mem := []
  mem : Mem := []
  msix : Table (BitVec 128) := []
  msixPending : List Nat := []
  barCount : BitVec 16 := 0
  barLastOff : BitVec 24 := 0
  barLastWr : Bool := false
  shadow : Table (BitVec 64) := []
  rtVer : BitVec 32 := 0
  hello : Bool := false
  badBinds : List Nat := []
  deriving DecidableEq, Repr

/-! ### Staged configuration (12 R313 to R316) -/

/-- The RS registers of a partition block and of the partition in the PWR, FAB and OBS regions (12 Table CMD.11). -/
structure PtnRegs where
  beat : BitVec 64 := 0
  quotaT0 : BitVec 64 := 0
  quotaT1 : BitVec 64 := 0
  quotaCfg : BitVec 64 := 0
  mem : BitVec 64 := 0
  srv : BitVec 64 := 0
  pfx : BitVec 64 := 0
  pwr : BitVec 64 := 0
  fab : BitVec 64 := 0
  obs : BitVec 64 := 0
  deriving DecidableEq, Repr

/-- The device-scope RS registers (21 R503): PWR_CFG, PWR_CAP, FLT_SQUALL, the eight FLT_PTN_CFG_p, FAB_CFG, OBS_CFG. -/
structure DevRegs where
  pwrCfg : BitVec 64 := 0
  pwrCap : BitVec 64 := 0
  squall : BitVec 64 := 0
  fltPtn : Vector (BitVec 64) 8 := Vector.replicate 8 0
  fab : BitVec 64 := 0
  obs : BitVec 64 := 0
  deriving DecidableEq, Repr

/-- PTN_COMMIT_STAT and DEV_COMMIT_STAT (12 Table CMD.12). -/
structure CommitStat where
  state : BitVec 2 := 0
  seq : BitVec 8 := 0
  status : BitVec 16 := 0
  field : BitVec 32 := 0
  deriving DecidableEq, Repr

/-- A commit that has passed and not yet applied (12 R315), with the PTN.COMMIT that waits on it, and whether it was made
after the collect token of the open beat had returned, so that it waits for one boundary more (05 R125). -/
structure PendingCommit where
  sel : BitVec 8
  snap : PtnRegs
  cmd : Option Req := none
  late : Bool := false
  deriving DecidableEq, Repr

/-! ### Faults and observation (16, 20) -/

/-- A fault record (16 Table FLT.3), with the length of the sample or dump stored for it and the tier-1 units that hold
it, as cluster and unit. -/
structure FaultRecord where
  number : BitVec 16
  ctx : CtxNo
  bits : BitVec 512
  sample : Option Nat := none
  units : List (Nat × Nat) := []
  deriving DecidableEq, Repr

/-- A context reset or a partition reset in progress (16 R403, R407): trigger time, and the record that started it. -/
structure ResetInProgress where
  since : Nat
  number : BitVec 16
  ctx : Option CtxNo := none
  deriving DecidableEq, Repr

/-- A watch point of a context and its last result (20 Tables OBS.5, OBS.6). -/
structure Watch where
  args : Option WatchArgs := none
  result : BitVec 512 := 0
  deriving DecidableEq, Repr

/-- The trace buffer of a context (20 R490). -/
structure Trace where
  base : BitVec 42
  offset : BitVec 42
  bytes : BitVec 32
  next : BitVec 32 := 0
  wraps : BitVec 32 := 0
  deriving DecidableEq, Repr

/-! ### Objects and schedules (05, 07) -/

/-- Where a residence tile or page lies: tier 0 or 1, cluster of the device, first 64 KiB unit. -/
structure Place where
  tier : Nat
  cluster : Nat
  unit : Nat
  deriving DecidableEq, Repr

/-- A residence tile (07 R155, R164): its place and its last use. -/
structure ResTile where
  place : Place
  lastUse : BitVec 64
  deriving DecidableEq, Repr

/-- An object of a context (07 Table TIR.3): its descriptor with vbase the base, its tiles in ascending address order, and
the cluster physical offset of a poisoned tree node above it (16 R409). -/
structure Obj where
  ctx : CtxNo
  desc : ObjDesc
  tiles : List ResTile
  broken : Option Nat := none
  deriving DecidableEq, Repr

/-- A migration in progress (07 R161): the copy is made and the switch waits for the next beat boundary. -/
structure Migration where
  ctx : CtxNo
  base : BitVec 42
  tile : Nat
  dest : Place
  deriving DecidableEq, Repr

/-- A loaded schedule image (05 R130 to R133): the header words, and the sections as their records. -/
structure Image where
  ctx : CtxNo
  base : BitVec 42
  header : BitVec 512
  ops : List ((Nat × Nat) × List (BitVec 512))
  moves : List (Nat × List (BitVec 256))
  chains : List (BitVec 2560)
  marks : List (Nat × Nat)
  budgets : List (BitVec 128)
  deriving DecidableEq, Repr

/-! ### Felt (13) -/

/-- A partition's Felt group (13 R338): identifier, own index, members, state (1 forming, 2 formed, 3 dissolved;
FAB_GRP_p), the list with its digest, the receive object (none: no data frames), when FAB.GROUP completed, the members
whose join matches, the dones and helds that the conductor holds for the beat in progress, since when some member is held,
and whether this member has sent its own done. -/
structure Group where
  id : BitVec 32
  index : Nat
  count : Nat
  lockstep : Bool
  state : BitVec 2 := 1
  members : List (BitVec 16 × BitVec 3) := []
  digest : BitVec 256 := 0
  receive : BitVec 42 := 0
  since : Nat := 0
  joined : List Nat := []
  dones : List (Nat × Option (BitVec 64 × BitVec 32)) := []
  helds : List Nat := []
  heldAt : Option Nat := none
  doneSent : Bool := false
  deriving DecidableEq, Repr

/-- The port states of 13 Table FAB.8. -/
inductive LinkPhase where
  | down | training | hello | authentication | up | refused | failed
  deriving DecidableEq, Repr

/-- A Felt port (13 R317 to R324, R330, R331): its state and counters (FAB_PORT_k), the peer's hello, keys as epochs,
the transmitter's counter and key phase, the receiver's highest accepted counters, a rotation that waits for its
acknowledgement, the drops of the last 1 ms, the credit of each hop class and virtual channel, the credit given back to
the peer, and the place in the turns of the data channels that comes next (13 R335). -/
structure Port where
  phase : LinkPhase := .down
  signal : Bool := false
  healthy : Bool := false
  since : Nat := 0
  refusals : BitVec 12 := 0
  tagFail : BitVec 16 := 0
  fecUnc : BitVec 16 := 0
  rotations : BitVec 16 := 0
  peer : BitVec 64 := 0
  nonce : BitVec 32 := 0
  peerNonce : BitVec 32 := 0
  peerIface : BitVec 32 := 0
  peerAddr : Option (BitVec 16) := none
  epoch : BitVec 64 := 0
  next : Option (BitVec 64) := none
  txEpoch : BitVec 64 := 0
  txKp : Bool := false
  txCtr : BitVec 64 := 1
  rxKp : Bool := false
  rxTop : BitVec 64 := 0
  nextTop : BitVec 64 := 0
  rotSince : Option Nat := none
  keysSince : Nat := 0
  drops : List Nat := []
  lastValid : Nat := 0
  lastSent : Nat := 0
  lastUnc : Option Nat := none
  credits : Table Nat := []
  returned : Table Nat := []
  slotAt : Nat := 0
  deriving DecidableEq, Repr

/-- What a frame of this device carries besides its header. -/
inductive FeltBody where
  | data (seq : BitVec 32) (offset : BitVec 48) (payload : List Byte)
  | multicast (reader group : BitVec 16) (seq : BitVec 32) (offset : BitVec 48) (payload : List Byte)
  | ack (first count : BitVec 32) (beyond : Bool)
  | hello (serial : BitVec 64) (nonce iface : BitVec 32) (addr : Option (BitVec 16))
  | proof (bits : BitVec 256)
  | rotate (epoch : BitVec 64)
  | rotateAck
  | linkState (ls : LinkState)
  | assign (serial : BitVec 64) (addr : BitVec 16)
  | join (j : JoinInfo)
  | leave (moved : Bool)
  | done (beat : BitVec 64) (admitted : Option (BitVec 64 × BitVec 32))
  | release (beat : BitVec 64)
  | held
  | abort
  | treeJoin (reader group : BitVec 16)
  | request (session : BitVec 32) (tile : Nat)
  | idle
  deriving DecidableEq, Repr

/-- A frame to be sent: its addresses, hops and virtual channel (13 Table FAB.2, R334), the port it is bound to where it
does not follow a route, and of a frame that came in the port and credit key of the buffer that it holds there. -/
structure Outgoing where
  dst : BitVec 16
  src : BitVec 16
  dpart : BitVec 3
  spart : BitVec 3
  hops : Nat := 0
  channel : Nat
  port : Option Nat := none
  body : FeltBody
  owes : Option (Fin 8 × Nat)
  deriving DecidableEq, Repr

/-- A frame as it left a port (13 R319, R320): what it carries, and the header, the encrypted payload and the tag on the
wire. -/
structure Sent where
  port : Nat
  frame : Outgoing
  header : BitVec 256
  payload : List Byte
  tag : BitVec 128
  deriving DecidableEq, Repr

/-- A data frame that its source keeps until it is acknowledged (13 R332), with the FAB.PUT or the peer move it belongs
to. -/
structure Unacked where
  spart : BitVec 3
  dst : BitVec 16
  dpart : BitVec 3
  seq : BitVec 32
  offset : BitVec 48
  payload : List Byte
  sentAt : Nat
  port : Option Nat
  q : Option Req := none
  move : Option Nat := none
  deriving DecidableEq, Repr

/-- A route entry (13 Table FAB.4). -/
structure Route where
  primary : BitVec 4 := 0xF
  alt1 : BitVec 4 := 0xF
  alt2 : BitVec 4 := 0xF
  hops : BitVec 4 := 0
  deriving DecidableEq, Repr

/-- A join frame that a partition has received from a member (13 R338). -/
structure JoinSeen where
  part : BitVec 3
  src : BitVec 16
  spart : BitVec 3
  info : JoinInfo
  deriving DecidableEq, Repr

/-- A multicast tree on this device (13 R345): its branches with the time of their last join, and whether the device
itself receives it. -/
structure Tree where
  reader : BitVec 16
  group : BitVec 16
  branches : List (Nat × Nat) := []
  leaf : Bool := false
  deriving DecidableEq, Repr

/-- The Felt side of the device (13). keptBy is the anchor of the part of the fabric in which the device holds its
address; merging says that devices have come into reach since routes were last installed, so that parts may be joining
(R328); routesAt is when that was (R346). -/
structure Felt where
  ports : Vector Port 8 := Vector.replicate 8 {}
  addr : Option (BitVec 16) := none
  claimed : Bool := false
  anchorSn : BitVec 64 := 0
  keptBy : BitVec 64 := 0
  merging : Bool := false
  routesAt : Option Nat := none
  plan : List (BitVec 64 × BitVec 16) := []
  assigned : List (BitVec 64 × BitVec 16) := []
  states : List LinkState := []
  groupTab : Table Route := []
  memberTab : Table Route := []
  txSeq : Table (BitVec 32) := []
  rxSeq : Table (BitVec 32) := []
  rxHeld : List Frame := []
  unacked : List Unacked := []
  waiting : List Outgoing := []
  own : List Outgoing := []
  sent : List Sent := []
  joins : List JoinSeen := []
  trees : List Tree := []
  hopDrops : Nat := 0
  foreignDrops : Nat := 0
  beyondDrops : Nat := 0
  deriving DecidableEq, Repr

/-! ### Power and ageing (15), the field port (18) -/

/-- The power states (15 Table PWR.1). -/
inductive PowerState where
  | run | lull | calm | still | frost | off
  deriving DecidableEq, Repr

/-- A phase entry (15 R385): image, phase number, and the currents and busy fractions as averaged. Entries stand in order
of use, the least recent first. -/
structure PhaseEntry where
  image : CtxNo × BitVec 42
  phase : Nat
  values : List Nat
  deriving DecidableEq, Repr

/-- A partition's power state (15 Table PWR.13): share in mW; partition frequency of the open beat and of the one before
it, in 6.25 MHz units (0 before the first beat); frequency of the last beat and whether it lay below f_g; its phase; phase
entries; the last ten estimates in mW; steps taken off by R379; whether an integrity limit has been reported (10
R266); and the lowest frequency of the die interconnect in the open beat (05 R121). -/
structure PtnPower where
  shareMw : Nat := 0
  fNow : Nat := 0
  fBefore : Nat := 0
  fSet : Nat := 0
  belowFg : Bool := false
  phase : Nat := 0
  entries : List PhaseEntry := []
  estimates : List Nat := []
  lower : Nat := 0
  limited : Bool := false
  dieMin : Nat := 200
  deriving DecidableEq, Repr

/-- The clock of an island that has no partition frequency (01 R29): its frequency before the last change, its frequency,
and when that change was made. -/
structure IslandClock where
  before : Nat
  set : Nat
  since : Nat := 0
  deriving DecidableEq, Repr

/-- The age of an island (15 R392 to R394): ageing offset in 2.5 mV steps, f_max in 6.25 MHz units, whether it is
exhausted, the offsets of the last 1,024 re-plans, and which of the events of R394 have been sent. -/
structure IslandAge where
  offset : Nat := 0
  fMax : Nat
  exhausted : Bool := false
  offsets : List Nat := []
  low : Bool := false
  atCeiling : Bool := false
  forecast : Nat := 0xFFFFFFFF
  deriving DecidableEq, Repr

/-- The limits of the device (15 R390): temperatures, limits acting (one bit for each row of 15 Table PWR.4), the device
ceiling in 6.25 MHz units, the state that PWR.ENTER asked for, the ages of islands that have been re-planned, the island
that the re-plan in turn comes to, the time in Run or Lull before the present power state and when in that time the last
round of re-plans began (15 R393), and the clocks of the die interconnect's, the sequencers' and the control cores'
islands that have left their nominal frequency (01 R29). -/
structure Power where
  die : BitVec 8 := 0
  stackTemps : Vector (BitVec 8) 6 := Vector.replicate 6 0
  acting : BitVec 5 := 0
  ceiling : Nat := 250
  target : Option PowerState := none
  ages : Table IslandAge := []
  replan : Nat := 0
  active : Nat := 0
  replanned : Nat := 0
  clocks : Table IslandClock := []
  deriving DecidableEq, Repr

/-- A fault item (18 Table LNK.14). -/
structure FieldItem where
  code : Nat
  arg0 : Nat
  arg1 : Nat
  arg2 : Nat
  deriving DecidableEq, Repr

/-- The field side (18 R453 to R463): supply and firmware; DEV_FLD_CFG as written and as the field core took it at its
start; last sequence bytes received and sent, by identifier; the gate's counters; the shed sources; the item queue,
items lost and the last summary; the quote being sent (no bytes while it is still to be made) with the next fragment and
its nonce; the warden's heartbeat and the thermal trip; the frames sent; and the section in the core's own memory (17
R419, R437). -/
structure Field where
  vdd : Bool := true
  firmware : Bool := true
  cfg : BitVec 10 := 0x310
  rej : Bool := false
  inUse : BitVec 10 := 0x310
  rxSeq : Table (BitVec 8) := []
  txSeq : Table (BitVec 8) := []
  unknownId : BitVec 16 := 0
  badForm : BitVec 16 := 0
  repeats : BitVec 16 := 0
  badValue : BitVec 16 := 0
  accepted : BitVec 32 := 0
  busOff : BitVec 16 := 0
  shedPin : Bool := false
  shedMsg : Bool := false
  items : List FieldItem := []
  lost : Nat := 0
  summaryNo : BitVec 16 := 0
  summary : List Byte := []
  summaryAt : Nat := 0
  quote : Option (List Byte × Nat) := none
  quoteNonce : BitVec 64 := 0
  quoteAt : Nat := 0
  beaconAt : Nat := 0
  heartbeat : Bool := true
  tripped : Bool := false
  sent : List (Nat × List Byte) := []
  code : List Byte := []
  deriving DecidableEq, Repr

/-! ### Contexts and partitions (01, 14) -/

/-- A context (01 R21): ring pair, events, limits of CTX.LIMIT, whether a reset has taken its tiles out of a reclaim in
progress (07 R174), counters, watch points, trace, whether R5 holds for it
(14 R369), and whether a CTX.DESTROY has begun (01 R26). -/
structure Context where
  no : CtxNo
  ring : RingPair
  events : EventBuf := {}
  limT0 : Option Nat := none
  limT1 : Option Nat := none
  overLimit : Bool := false
  reclaiming : Bool := false
  reclaimOff : Bool := false
  counters : List (BitVec 64) := List.replicate 32 0
  watches : Vector Watch 16 := Vector.replicate 16 {}
  trace : Option Trace := none
  undefinedState : Bool := false
  removing : Bool := false
  reset : Option ResetInProgress := none
  deriving DecidableEq, Repr

/-- A SYNC object (12 R311). -/
structure Sync where
  no : BitVec 12
  value : BitVec 64
  deriving DecidableEq, Repr

/-- What a partition is doing (16 Table FLT.12). -/
inductive PtnStatus where
  | running
  | resetting
  | outOfService
  deriving DecidableEq, Repr

/-- The beat ring of a partition (05 R120 to R128). count is PTN_BEAT_COUNT; since is when the beat in progress opened;
closed: its work is done and the boundary waits for a hold to end; applied: what the boundary applies is done; collected
holds the members that have passed the collect token, cluster and member (0 to 13 tiles, 14 headbox); slip is the time a
slip was raised in the open beat, and late the member and record that it names; paused is how long a held member of the
group has stopped the slip timer in the open beat (13 R342); fMin, lastNs and slips are PTN_BEAT_STAT. -/
structure BeatRing where
  count : BitVec 64 := 0
  since : Nat := 0
  closed : Bool := false
  applied : Bool := false
  collected : List (Nat × Nat) := []
  slip : Option Nat := none
  late : Nat × Nat := (0, 0)
  paused : Nat := 0
  fMin : BitVec 8 := 0
  lastNs : BitVec 16 := 0
  slips : BitVec 8 := 0
  deriving DecidableEq, Repr

/-- A page of a sequence range (09 R204, Table KV.4): its number, the unit of tier 1 that holds it, and its marks. A
dropped page has no unit. -/
structure Page where
  no : Nat
  cluster : Nat
  unit : Nat
  tentative : Bool := false
  shared : Bool := false
  dropped : Bool := false
  keep : Bool := false
  deriving DecidableEq, Repr

/-- A recompute chunk in a partition's queue (09 R226). -/
structure Chunk where
  seq : BitVec 32
  t0 : Nat
  m : Nat
  deriving DecidableEq, Repr

/-- A binding of a run (12 Table CMD.10, 10 R243): ream slot, sequence, final tokens and drafts, or a recompute chunk of m
positions from t0; whether RECOMPUTE_FILL added it; and, once admitted, c before admission, the pages that admission
allocated or copied, the entries that stood in their place, the log values that it overwrote, the former shape, mixed and
written, the pages that were dropped, and the chunks that stood behind its own in the recompute queue (10 R246). -/
structure Slot where
  no : Nat
  seq : BitVec 32
  nNew : Nat := 0
  drafts : Nat := 0
  recompute : Bool := false
  logOff : Nat := 0
  t0 : Nat := 0
  m : Nat := 0
  added : Bool := false
  done : Bool := false
  cPrev : Nat := 0
  allocated : List Nat := []
  prior : List Page := []
  oldLog : List Nat := []
  oldShape : BitVec 32 × Bool × Bool := (0, false, false)
  droppedAt : List Nat := []
  behind : Option (List Chunk) := none
  deriving DecidableEq, Repr

/-- A run of a partition, queued or in progress (05 R135, 10 R259): its command, image, bindings and, once admitted, the
beat it is in, the next operation record of each tile, the move records already issued, the results already coded (06
R148), the weight objects for which it is an old-version run (11 R280), whether it is discarded at the boundary (11
R288), has closed its last beat, or has slipped in some beat, and what its trace record of the open beat needs (20
R490). reserved: the slot that a reserved step takes, with the time it fell due. -/
structure Run where
  q : Req
  ctx : CtxNo
  isStep : Bool
  image : BitVec 42
  variant : Nat := 0
  args : RunArgs
  objs : List (BitVec 42) := []
  slots : List Slot := []
  added : Nat := 0
  oldFor : List (BitVec 42) := []
  reserved : Option (Nat × Nat) := none
  admitted : Bool := false
  released : Bool := false
  drizzle : Bool := false
  beat : Nat := 0
  nextOp : Table Nat := []
  issued : List (Nat × Nat) := []
  coded : List Nat := []
  stopped : Bool := false
  slipped : Bool := false
  discard : Bool := false
  ended : Bool := false
  faulted : Bool := false
  macAt : BitVec 64 := 0
  t1At : BitVec 64 := 0
  wasHeld : Bool := false
  deriving DecidableEq, Repr

/-- A step-set entry (10 Table SRV.1). -/
structure Variant where
  image : BitVec 42
  gMax : Nat
  k : Nat
  rows : Nat
  deriving DecidableEq, Repr

/-- A step set of a partition (10 R241). -/
structure StepSet where
  no : Nat
  ctx : CtxNo
  variants : List Variant
  deriving DecidableEq, Repr

/-- What waits for a slot of a Guarded partition, or holds a partition (10 R262 to R265, 11 R283, 13 R342, 15 R390):
each flag is a condition of its own, and the partition is held while any is set. -/
structure Holds where
  grant : Bool := false
  shed : Bool := false
  wave : Bool := false
  group : Bool := false
  input : Bool := false
  deriving DecidableEq, Repr

/-- A node of a translation tree (09 R208): its space (directory index, or 2^20 + context), level (0 root, 1 mid, 2 leaf),
which node of that level it is, and its place in the partition's node pool. -/
structure TreeNode where
  space : Nat
  level : Nat
  key : Nat
  place : Nat
  deriving DecidableEq, Repr

/-- A partition (01 R20 to R27): clusters low to low + n - 1; directory share and its first index (09 R200); token,
owner and orphan state (18); its registers; tree nodes of its reserve (09 R208); the beat ring, runs, step sets, SYNC
objects and recompute queue; faults (16); quota state (07); guarantee state (10); the context whose ring the lead
sequencer served last (12 R298). -/
structure Partition where
  low : Nat
  n : Nat
  share : Nat
  dirBase : Nat
  reserve : Nat := 0
  tree : List TreeNode := []
  token : BitVec 64
  owner : Option (Fin 2) := none
  orphanedAt : Option Nat := none
  binds : BitVec 16 := 0
  hostCfg : BitVec 32 := 0
  secCfg : BitVec 32 := 0
  destroying : Bool := false
  staged : PtnRegs := {}
  live : PtnRegs := {}
  devSeen : DevRegs := {}
  commits : List PendingCommit := []
  commitStat : CommitStat := {}
  beat : BeatRing := {}
  queue : List Run := []
  run : Option Run := none
  settling : List Run := []
  stepSets : List StepSet := []
  syncs : List Sync := []
  recompute : List Chunk := []
  status : PtnStatus := .running
  reset : Option ResetInProgress := none
  records : List FaultRecord := []
  recNo : BitVec 16 := 0
  ctxResets : List Nat := []
  ptnResets : List Nat := []
  overT0 : Bool := false
  overT1 : Bool := false
  reclaiming : Bool := false
  residT0 : BitVec 12 := 0
  residT1 : BitVec 23 := 0
  slotBase : Nat := 0
  slotNo : Nat := 0
  slots : BitVec 32 := 0
  breaches : BitVec 16 := 0
  degraded : Bool := false
  holds : Holds := {}
  group : Option Group := none
  power : PtnPower := {}
  turn : Option CtxNo := none
  deriving DecidableEq, Repr

/-! ### Sequences and prefix handles (09, 10) -/

/-- The state of a directory entry (09 R202). -/
inductive SeqState where
  | opened
  | closing
  | lost
  deriving DecidableEq, Repr

/-- The fields of a sequence that a prefix handle records (09 R233). -/
structure SeqShape where
  kvFmt : BitVec 4
  hd : BitVec 4
  layers : BitVec 8
  heads : BitVec 8
  layout : Bool
  shardLog2 : BitVec 3
  memberLog2 : BitVec 3
  rank : BitVec 6
  deriving DecidableEq, Repr

/-- A directory entry that is not free (09 Table KV.1), with its pages in ascending number and its global list. -/
structure Seq where
  index : Nat
  gen : BitVec 12
  ctx : CtxNo
  state : SeqState := .opened
  shape : SeqShape
  mixed : Bool := false
  c : Nat := 0
  d : Nat := 0
  w : BitVec 17
  glob : List Nat := []
  stamp : BitVec 64 := 0
  shapeId : BitVec 32 := 0
  written : Bool := false
  input : BitVec 42 := 0
  pages : List Page := []
  deriving DecidableEq, Repr

/-- A prefix handle (09 R233, 10 R253): the 64-bit handle, partition, registering context, length, pages, global list,
recorded fields; released handles stay while sequences map their pages (09 R236); ended: the registering context is gone
and the partition alone is charged (01 R26). -/
structure Handle where
  handle : BitVec 64
  ptn : Nat
  ctx : CtxNo
  p : Nat
  glob : List Nat
  shape : SeqShape
  pages : List Page
  released : Bool := false
  ended : Bool := false
  deriving DecidableEq, Repr

/-! ### Weights (11) -/

/-- A shard entry of a manifest (11 Table WGT.2). -/
structure Shard where
  layer : Nat
  cluster : Nat
  tile : Nat
  length : Nat
  digest : BitVec 256
  deriving DecidableEq, Repr

/-- A well-formed manifest (11 Table WGT.1, R270), with its bytes. -/
structure Manifest where
  modelId : BitVec 64
  version : BitVec 32
  nLayers : Nat
  clusters : Nat
  keySlot : Nat
  shards : List Shard
  raw : List Byte
  deriving DecidableEq, Repr

/-- Where a version's shards come from (11 R276, R279): a session of a reader, or the device's own library. -/
inductive ShardSource where
  | session (no : BitVec 32) (reader : BitVec 16)
  | library
  deriving DecidableEq, Repr

/-- The state of a weight object (11 Table WGT.3). -/
inductive WeightPhase where
  | loading | ready | swapping | rollingBack | lost
  deriving DecidableEq, Repr

/-- A shard that a load, swap or reload still needs: whether the receiver is ready for it and since when it awaits it (log
entry 27), how often the present reader's copy was refused, how often it was asked for again and when last, and whether
that reader is asked no more. -/
structure Wanted where
  tile : Nat
  ready : Bool := false
  from_ : Option Nat := none
  refused : Nat := 0
  asked : Nat := 0
  last : Nat := 0
  gaveUp : Bool := false
  deriving DecidableEq, Repr

/-- The refetch of a poisoned weight tile (08 R193): its new place, and whether the shard has arrived there. -/
structure Refetch where
  tile : Nat
  dest : Place
  got : Bool := false
  deriving DecidableEq, Repr

/-- A weight object (11): its current version with its source, the version being received, the shards wanted, the shards
that the new version has overwritten, and the refetches of poisoned tiles (08 R193). -/
structure WeightObj where
  ctx : CtxNo
  base : BitVec 42
  manifest : Manifest
  source : ShardSource
  phase : WeightPhase
  q : Option Req := none
  next : Option Manifest := none
  nextSource : ShardSource := .library
  deadline : Nat := 0
  effective : Bool := false
  wasLost : Bool := false
  wanted : List Wanted := []
  overwritten : List Nat := []
  refetch : List Refetch := []
  deriving DecidableEq, Repr

/-- A WGT.LOAD or WGT.SWAP that waits for its manifest from a session's reader: the bytes received so far and which of
them have arrived. -/
structure Awaited where
  q : Req
  cmd : Instr
  session : BitVec 32
  reader : BitVec 16
  bytes : Mem := []
  got : List (Nat × Nat) := []
  deriving DecidableEq, Repr

/-- A library entry (11 R272, 17 R427): an authentic manifest, and the stripes whose pages hold it and its shards. -/
structure LibraryEntry where
  manifest : Manifest
  stripes : List Nat := []
  deriving DecidableEq, Repr

/-! ### The flash store and firmware (17) -/

/-- What a firmware image's header and digest say (17 Table FW.5). -/
structure FwInfo where
  imgVer : BitVec 32
  rbIndex : BitVec 8
  iface : BitVec 32
  digest : BitVec 256
  deriving DecidableEq, Repr

/-- The value of n bytes of an image from a byte on. -/
def imageField (image : List Byte) (at_ n : Nat) : Nat := Bits.ofBytes ((image.drop at_).take n)

/-- The section of a core in an image, by the image's section table (17 Table FW.6). -/
def imageSection (image : List Byte) (core : Nat) : List Byte :=
  match (List.range 6).find? fun i => imageField image (1472 + 64 * i) 1 == core with
  | some i => (image.drop (imageField image (1472 + 64 * i + 4) 4)).take (imageField image (1472 + 64 * i + 8) 4)
  | none => []

/-- The image that the module ships with, as its header says; its interface version is 1.0 (12 Table CMD.2). -/
def FwInfo.shipped : FwInfo where
  imgVer := BitVec.ofNat 32 (imageField Config.factoryImage 8 4)
  rbIndex := BitVec.ofNat 8 (imageField Config.factoryImage 6 1)
  iface := 0x10000
  digest := Config.sha3 (Config.factoryImage.take (imageField Config.factoryImage 24 4))

/-- The configuration record written on entry to Frost (15 R376): staged and live device-scope registers and the spare
policy. -/
structure ConfigRecord where
  staged : DevRegs
  live : DevRegs
  policy : Bool
  deriving DecidableEq, Repr

/-- The state of one stack's ranks (08 Table STK.4), with the bytes of the retiring rank copied so far (08 R195). -/
structure RankState where
  ranks : Vector (BitVec 2) 4 := #v[0, 0, 0, 1]
  spareFor : BitVec 2 := 0
  spareUsed : Bool := false
  spareSpent : Bool := false
  copied : Nat := 0
  deriving DecidableEq, Repr

/-- A record of the records log (17 R429, 18 R457): rank states, ageing records, the configuration record, the Becalmed
cause, the firmware state (the image that the boot area holds), the library index with the free stripes that hold old
pages, and DEV_FLD_CFG. -/
inductive LogRecord where
  | ranks (x : Vector RankState 6)
  | ages (x : Table IslandAge)
  | config (x : ConfigRecord)
  | cause (x : Nat)
  | firmware (boot : Option FwInfo)
  | library (entries : List LibraryEntry) (freed : List Nat)
  | fieldCfg (x : BitVec 10)
  deriving DecidableEq, Repr

/-- What a page of a store die holds (17 R422): nothing, bytes from its first on, a record of the records log under its
sequence number and check, or what a program that was cut off left, which fails every check. -/
inductive FlashPage where
  | blank
  | bytes (bs : List Byte)
  | log (seq : BitVec 64) (r : LogRecord)
  | cut
  deriving DecidableEq, Repr

/-- What an operation of a die is for: a page of an entry being stored, or of a stripe being copied, with where it comes
from; a page of a slot of the boot area; the erase of a library stripe's block, of a boot slot, of the records log's
oldest block, or of the other journal block. -/
inductive FlashUse where
  | store (q : Req) (page : Nat)
  | copy (key : Nat)
  | boot (page : Nat)
  | stripe
  | slot
  | log
  | swap
  deriving DecidableEq, Repr

/-- How far an erase is (17 R431): it waits, its intent record is being programmed, the intent has verified, or the erase
has and its completion record is being programmed. -/
inductive EraseStage where
  | waiting
  | intent
  | cleared
  | completing
  deriving DecidableEq, Repr

/-- A program or erase that the store core wants or has issued: its number, die, block, page and kind; what it is for; how
far an erase is, with the number and count of its journal records; and what a program that is issued writes. -/
structure FlashJob where
  no : Nat := 0
  die : Nat
  block : Nat
  page : Nat := 0
  op : FlashOp
  use : FlashUse
  stage : EraseStage := .waiting
  issued : Bool := false
  seq : BitVec 64 := 0
  count : Nat := 0
  data : FlashPage := .blank
  deriving DecidableEq, Repr

/-- A journal record being programmed: the erase it belongs to, its page and its bytes. -/
structure JournalWrite where
  job : Nat
  page : Nat
  bytes : List Byte
  deriving DecidableEq, Repr

/-- A die's erase journal (17 R431): active and other block, records in the active one, the last sequence number, and the
record being programmed. -/
structure Journal where
  active : Nat := 4
  other : Nat := 5
  used : Nat := 0
  seq : BitVec 64 := 0
  writing : Option JournalWrite := none
  deriving DecidableEq, Repr

/-- The records log on a die (17 R429): its blocks in turn, the one being written first; that block's next page; the
records to be written, oldest first; how many of them are copies forward; the one being programmed; and whether no good
block is left for it. -/
structure LogDie where
  blocks : List Nat := [6, 7, 8, 9, 10, 11, 12, 13]
  next : Nat := 0
  queue : List (BitVec 64 × LogRecord) := []
  copies : Nat := 0
  writing : Option (BitVec 64 × LogRecord) := none
  dead : Bool := false
  deriving DecidableEq, Repr

/-- The counts of STORE_DIE_k that are not computed (17 Table FW.12). -/
structure DieStat where
  progFail : BitVec 16 := 0
  eraseFail : BitVec 16 := 0
  half : BitVec 15 := 0
  blankFailed : Bool := false
  eccCorr : BitVec 32 := 0
  uncorr : BitVec 8 := 0
  deriving DecidableEq, Repr

/-- A WGT.STORE in progress (11 R272): its command, its data object, the manifest, the stripes in order, and the number of
the index record once that is being written. -/
structure Storing where
  q : Req
  ctx : CtxNo
  base : BitVec 42
  manifest : Manifest
  stripes : List Nat
  recording : Option (BitVec 64) := none
  deriving DecidableEq, Repr

/-- A stripe that is copied to another (17 R425). -/
structure Copying where
  src : Nat
  dst : Nat
  deriving DecidableEq, Repr

/-- The end of an operation that the store core has not looked at, as it restarts. -/
structure FlashEnd where
  die : Fin 8
  block : BitVec 14
  op : FlashOp
  failed : Bool
  deriving DecidableEq, Repr

/-- The pages of the boot area as the module ships (17 R434): in block 0 of every die a slice header, then the image's
pages. -/
def shippedPages : Table FlashPage :=
  (List.range 8).flatMap fun d => (List.range 33).map fun p =>
    (d * 16384 * 1024 + p,
      if p = 0 then .bytes (Bits.toBytes 64 (0x42537160 + d * 2 ^ 32 + FwInfo.shipped.digest.toNat * 2 ^ 256))
      else .bytes ((Config.factoryImage.drop ((d + 8 * (p - 1)) * 16384)).take 16384))

/-- The flash store (17 R422 to R432). Blocks are named die x 16,384 + block, pages 1,024 times that + page: what the
pages hold; operations in order, with the next number; erases of each block; retired blocks; withdrawn stripes; dirty
stripes; free stripes that hold old pages; each plane's program-fail and erase-fail flags, by 4 x die + plane; journals;
the records log of dies 0 and 1, with its last number; counts; WGT.STORE commands in progress; copies of stripes; and
ended operations that wait for a restart of the store core. -/
structure Flash where
  pages : Table FlashPage := shippedPages
  jobs : List FlashJob := []
  jobNo : Nat := 0
  erases : Table Nat := []
  retired : List Nat := []
  withdrawn : List Nat := []
  dirty : List Nat := []
  freed : List Nat := []
  flags : Table (Bool × Bool) := []
  journals : Vector Journal 8 := Vector.replicate 8 {}
  logs : Vector LogDie 2 := Vector.replicate 2 {}
  logSeq : BitVec 64 := 0
  dies : Vector DieStat 8 := Vector.replicate 8 {}
  storing : List Storing := []
  copying : List Copying := []
  ended : List FlashEnd := []
  deriving DecidableEq, Repr

/-- A session that the device serves (11 R274, R275): its command, entry, multicast group, linger time in us, the next
shard to send, failed reads of each shard, and when the linger time began. -/
structure Serving where
  q : Req
  session : BitVec 32
  modelId : BitVec 64
  version : BitVec 32
  group : BitVec 16
  linger : Nat
  position : Nat := 0
  fails : Table Nat := []
  lingerFrom : Option Nat := none
  resends : List (BitVec 16 × Nat) := []
  deriving DecidableEq, Repr

/-- FW.ACTIVATE in progress (17 R439): its command, or none where a recovery writes the boot area; the image; the cores
restarted so far; the boot area's rewrites so far; and the number of the firmware state's record once that is being
written. -/
structure Activation where
  q : Option Req
  image : FwInfo
  cores : Nat := 0
  rewrites : Nat := 0
  recording : Option (BitVec 64) := none
  deriving DecidableEq, Repr

/-- The firmware (17 R419 to R421, R433 to R439): the image that runs, the one in the boot area (none: it holds no valid
image), the staging area with its bytes and state (0 empty, 1 partial, 2 verified) and the image it was verified as, an
activation, the anti-rollback field of the OTP row (R436), the sections in the code area of the keep region in the order
of 17 Table FW.6, and the section digests in force. -/
structure Firmware where
  running : FwInfo
  boot : Option FwInfo
  staged : Mem := []
  staging : BitVec 2 := 0
  verified : Option FwInfo := none
  activation : Option Activation := none
  rollback : BitVec 128
  code : Vector (List Byte) 6
  digests : Vector (BitVec 256) 6
  deriving DecidableEq, Repr

/-- The anti-rollback steps spent: the lowest bit that reads 0, or 128 (17 R436). -/
def Firmware.steps (f : Firmware) : Nat := ((List.range 128).find? fun i => !f.rollback.getLsbD i).getD 128

/-- The firmware after the boot of the image that the module ships with: each section in the code area, its digest in
force. -/
def Firmware.shipped : Firmware :=
  let sections := (Vector.range 6).map fun i => imageSection Config.factoryImage (i + 1)
  { running := FwInfo.shipped, boot := some FwInfo.shipped, code := sections, digests := sections.map Config.sha3
    rollback := Config.factoryRollback ||| BitVec.ofNat 128 (2 ^ FwInfo.shipped.rbIndex.toNat - 1) }

/-- The registers of recovery (17 Table FW.10); go reads 1 in states 2 to 4. -/
structure Recovery where
  addr : BitVec 64 := 0
  len : BitVec 23 := 0
  state : BitVec 3 := 1
  fail : BitVec 8 := 0
  port : Fin 2 := 0
  deriving DecidableEq, Repr

/-- Whether an image is being loaded: go reads 1. -/
def Recovery.busy (r : Recovery) : Bool := 2 ≤ r.state.toNat

/-! ### Memory and moves (05, 08) -/

/-- A headbox move in flight (01 R16, 05 R132): cluster and number; the context it works for; the record; its kind of
row; the bytes it moves, as 128-byte transactions: the next to issue, those outstanding with the time of issue, and
those retired; the last beat it may take; for a couch run, the rows that wait in the couch buffer (10 R247). -/
structure Move where
  id : Nat
  cluster : Nat
  ctx : CtxNo
  ptn : Nat
  record : BitVec 256
  index : Nat
  bytes : Nat
  next : Nat := 0
  outstanding : List (Nat × Nat) := []
  lastBeat : Nat := 0
  couch : List Byte := []
  deriving DecidableEq, Repr

/-- The translation caches of a cluster (09 R210): leaf entries as space, page or granule and what they map, and the
interior entries held, each in order of use, the least recent first. -/
structure PageCache where
  leaves : List (Nat × Nat × Place) := []
  nodes : List (Nat × Nat × Nat) := []
  deriving DecidableEq, Repr

/-- The memory controller (08): spare policy (true: one), rejected-write flag, rank states, regions in service, doubled
refresh of each stack, and the corrected-error and command-retry counts of each channel (20 Table OBS.4). -/
structure MemCtl where
  policy : Bool := true
  rej : Bool := false
  ranks : Vector RankState 6 := Vector.replicate 6 {}
  regions : BitVec 4 := 0xF
  doubled : Vector Bool 6 := Vector.replicate 6 false
  corrected : Table (BitVec 40) := []
  cmdRetry : Table (BitVec 16) := []
  deriving DecidableEq, Repr

/-- The group counters of a cluster (20 Table OBS.3). -/
structure GroupCounters where
  pressBusy : BitVec 64 := 0
  reelBusy : BitVec 64 := 0
  hbBytes : BitVec 64 := 0
  filler : BitVec 64 := 0
  laneCyc : BitVec 64 := 0
  beats : BitVec 64 := 0
  deriving DecidableEq, Repr

/-- An entry of a store's coalescing buffer (05 R119): its store and line, the bytes written with their place in the
line, and the context they are written for. -/
structure Coalesced where
  cluster : Nat
  tile : Nat
  space : Nat
  line : Nat
  bytes : Mem
  ctx : Option CtxNo
  deriving DecidableEq, Repr

/-- What an operation of the open beat loads for later beats (02 R57, 03 R79): 0 scale registers, 1 codebook store, 2
product-table store, with the tile's key, the first byte and the bytes; 3 the clearing of a selector, of as many positions
as first says; 4 bytes of a correction vector in space 0x3, written for a context. -/
structure PendingLoad where
  store : Nat
  key : Nat
  first : Nat
  bytes : List Byte
  ctx : Option CtxNo := none
  deriving DecidableEq, Repr

/-- What a STATS stage has gathered of a heavy operation (04 R102): the tile, the chain's number and the slot; the column
that its sums take next, and the columns that ended before that one: first column, how many, and the values row by row. -/
structure Gathering where
  cluster : Nat
  tile : Nat
  chain : Nat
  slot : Nat
  next : Nat
  waiting : List (Nat × Nat × List (BitVec 32))
  deriving DecidableEq, Repr

/-- The tile stores of the device: bytes by key (cluster, tile, space and byte address), tags and clear bits by line
(14 R355), with the stores that no word address reaches (14 R359, 21 R508). -/
structure Stores where
  bytes : Mem := []
  tags : Table CtxNo := []
  cleared : List (Nat × Nat) := []
  scales : Mem := []
  codebooks : Mem := []
  products : Mem := []
  scores : Mem := []
  selectors : Table (List (Nat × BitVec 32)) := []
  loads : List PendingLoad := []
  coalesced : List Coalesced := []
  gathers : List Gathering := []
  deriving DecidableEq, Repr

/-- An operator channel (14 R367): host port 0, host port 1 or JTAG. -/
structure Session where
  challenge : Option (BitVec 256) := none
  lockUntil : Nat := 0
  openedAt : Option Nat := none
  deriving DecidableEq, Repr

/-- A control-core restart in progress (16 R411). -/
structure CoreRestart where
  island : Nat
  since : Nat
  deriving DecidableEq, Repr

/-- Work that reaches a core while it restarts, and waits (16 Table FLT.6, 21 R498): for the warden a 32-bit register
write of a port that needs it, as offset and value, or a cap request that the message gate has accepted; for the linker
an accepted frame of bring-up, rotation or group formation, a link's signal, or the end of its training. -/
inductive HeldWork where
  | write (port : Fin 2) (off value : Nat)
  | cap (watts : Nat) (emergency : Bool)
  | frame (port : Fin 8) (f : Frame) (body : FeltBody)
  | signal (port : Fin 8)
  | trained (port : Fin 8)
  deriving DecidableEq, Repr

/-- The supplies and the wake (15 R374, R376; 19 R472, R474, R476): whether VIN48 is present, since when REFCLK is,
whether a wake trigger has come in Still or Frost, whether the boot ROM is to start, and when the present power state
was entered. -/
structure Supplies where
  vin : Bool := true
  refSince : Option Nat := some 0
  waking : Bool := false
  booting : Bool := false
  stateSince : Nat := 0
  deriving DecidableEq, Repr

/-- The random generator (14 R364): whether a health test fails, the outputs since the last reseed, and its time. -/
structure Rng where
  failing : Bool := false
  outputs : Nat := 0
  seededAt : Nat := 0
  deriving DecidableEq, Repr

/-- The TAP (20 R494): its instruction, the data window, the completion entry of DBG_STAT, the bypass bit, and the
challenges that wait for a draw (14 R364): of DBG_CHAL, and of packets. -/
structure Tap where
  ir : BitVec 8 := 0xFF
  window : Mem := []
  stat : BitVec 256 := 0
  bypass : Bool := false
  chal : Bool := false
  cmds : List (BitVec 512) := []
  deriving DecidableEq, Repr

/-- The device's fault state (16): records of core and device scope, restarts, squall windows, Becalmed. -/
structure FaultState where
  records : List FaultRecord := []
  recNo : BitVec 16 := 0
  bootAt : Nat := 0
  restarting : List CoreRestart := []
  restartTimes : Table (List Nat) := []
  lastCore : Nat := 0
  restarts : BitVec 16 := 0
  outTimes : List Nat := []
  becalmed : Bool := false
  cause : Nat := 0
  lastCause : Nat := 0
  deriving DecidableEq, Repr

/-- Why a step may stop: the device has no fault that stops the machine, every fault of 16 Table FLT.1 is a change of
state. No meaning raises this one. -/
inductive Fault where
  /-- Raised by no meaning; safe, since nothing stops. -/
  | none
  deriving DecidableEq, Repr

/-- Why a command may be refused by the model. -/
inductive Refusal where
  /-- Raised by exec alone, for a command without a meaning; safe, since the model stops where the device goes on. -/
  | notModelled (mnemonic : String)
  deriving DecidableEq, Repr

/-- The state of the device. -/
structure State where
  pending : List Instr
  now : Nat
  free : Nat
  hosts : Vector HostSide 2
  primary : Option (Fin 2)
  ptns : Vector (Option Partition) 8
  ctxs : List Context
  accepted : List Accepted
  objs : List Obj
  images : List Image
  migrations : List Migration
  moves : List Move
  moveNo : Nat
  caches : Vector PageCache 8
  tier1 : Mem
  undef : Table Nat
  poison : List Nat
  poisonReports : List Nat
  memc : MemCtl
  groups : Vector GroupCounters 8
  seqs : List Seq
  gens : Table (BitVec 12)
  handles : List Handle
  layer : Mem
  stores : Stores
  staged : DevRegs
  live : DevRegs
  devCommit : CommitStat
  interrupts : List (Fin 2 × BitVec 16)
  lastRead : BitVec 64
  heldWork : List HeldWork
  flt : FaultState
  power : PowerState
  idleSince : Nat
  pwr : Power
  field : Field
  fieldCap : Nat
  fieldEmerg : Bool
  tier1Ready : Bool
  sessions : Vector Session 3
  authFail : BitVec 16
  draws : Nat
  felt : Felt
  weights : List WeightObj
  awaited : List Awaited
  library : List LibraryEntry
  serving : List Serving
  flash : Flash
  fw : Firmware
  recovery : Option Recovery
  supplies : Supplies
  rng : Rng
  tap : Tap
  deriving DecidableEq, Repr

/-- The device-scope RS registers at their reset values (15 Tables PWR.8 and PWR.9, 16 Table FLT.9, 13 Table FAB.5, 20
Table OBS.8). -/
def DevRegs.reset : DevRegs where
  pwrCfg := 0x322#64
  pwrCap := 0x780258#64
  squall := 0x258203c18144#64
  fab := 0x21000#64
  obs := 3#64

/-- The device after reset: command-ready in Run after a cold start (19 R474), no host attached. -/
def State.reset : State where
  pending := []
  now := 0
  free := 0
  hosts := Vector.replicate 2 {}
  primary := none
  ptns := Vector.replicate 8 none
  ctxs := []
  accepted := []
  objs := []
  images := []
  migrations := []
  moves := []
  moveNo := 0
  caches := Vector.replicate 8 {}
  tier1 := []
  undef := []
  poison := []
  poisonReports := []
  memc := {}
  groups := Vector.replicate 8 {}
  seqs := []
  gens := []
  handles := []
  layer := []
  stores := {}
  staged := DevRegs.reset
  live := DevRegs.reset
  devCommit := {}
  interrupts := []
  lastRead := 0
  heldWork := []
  flt := {}
  power := .run
  idleSince := 0
  pwr := {}
  field := {}
  fieldCap := 600
  fieldEmerg := false
  tier1Ready := false
  sessions := Vector.replicate 3 {}
  authFail := 0
  draws := 0
  felt := {}
  weights := []
  awaited := []
  library := []
  serving := []
  flash := {}
  fw := Firmware.shipped
  recovery := none
  supplies := {}
  rng := {}
  tap := {}

end Sys2Proof.Machine
end

