-- ==== Sys2Proof/Machine/Memory.lean ====
section
/-! DEFINITION. Byte stores and tables: reading, writing and clearing, each keeping the canonical form; and where bytes of
the three tiers and of the tile stores lie. -/

namespace Sys2Proof.Machine

namespace Mem

/-- The byte at an address; 0 where nothing is listed (log entry 10). -/
def get : Mem → Nat → Byte
  | [], _ => 0
  | (k, v) :: m, a => if k = a then v else get m a

/-- Write one byte; writing 0 removes the cell. -/
def put : Mem → Nat → Byte → Mem
  | [], a, b => if b = 0 then [] else [(a, b)]
  | (k, v) :: m, a, b =>
    if a < k then (if b = 0 then (k, v) :: m else (a, b) :: (k, v) :: m)
    else if a = k then (if b = 0 then m else (a, b) :: m)
    else (k, v) :: put m a b

/-- n bytes from an address on. -/
def read (m : Mem) (a : Nat) : Nat → List Byte
  | 0 => []
  | n + 1 => get m a :: read m (a + 1) n

/-- Write bytes from an address on. -/
def write (m : Mem) (a : Nat) : List Byte → Mem
  | [] => m
  | b :: bs => write (put m a b) (a + 1) bs

/-- Zero every byte from lo up to, but not including, hi. -/
def clear (m : Mem) (lo hi : Nat) : Mem := m.filter fun c => !(lo ≤ c.1 && c.1 < hi)

/-- The little-endian value of n bytes (00 R7). -/
def word (m : Mem) (a n : Nat) : Nat := Bits.ofBytes (read m a n)

/-- The canonical form: strictly rising addresses, no byte 0. -/
def wf : Mem → Bool
  | [] => true
  | (k, v) :: m =>
    v != 0 && (match m with
      | [] => true
      | c :: _ => k < c.1) && wf m

end Mem

namespace Table

/-- The value of a key, or d. -/
def get {α : Type} (d : α) : Table α → Nat → α
  | [], _ => d
  | (k, v) :: t, a => if k = a then v else get d t a

/-- Give a key a value. -/
def set {α : Type} : Table α → Nat → α → Table α
  | [], a, x => [(a, x)]
  | (k, v) :: t, a, x =>
    if a < k then (a, x) :: (k, v) :: t
    else if a = k then (a, x) :: t
    else (k, v) :: set t a x

/-- Take a key out. -/
def erase {α : Type} (t : Table α) (a : Nat) : Table α := t.filter fun c => c.1 != a

end Table

/-! ### Where bytes lie -/

/-- Bytes of a cluster's physical range (08 R178): 36 GiB. -/
def clusterSpan : Nat := 38654705664
/-- Bytes of a layer store (07 R152): 24 MiB. -/
def layerSpan : Nat := 25165824
/-- Bytes of a 64 KiB unit (07 R166). -/
def unitBytes : Nat := 65536
/-- Units of a cluster's tier 1 and tier 0 (07 Tables TIR.1, TIR.4). -/
def tierUnits (tier : Nat) : Nat := if tier = 0 then 384 else 589824
/-- Units of a region of a cluster (08 R179). -/
def regionUnits : Nat := 147456

/-- The key of a byte of tier 1 or tier 0: cluster and byte offset. -/
def tierKey (tier cluster off : Nat) : Nat := cluster * (if tier = 0 then layerSpan else clusterSpan) + off

/-! ### Locations (08 Table STK.2) -/

/-- Where a line lies: stack, global channel, pseudo-channel, rank and index in the rank, with the bank, column block and
row that the index names. -/
structure Location where
  stack : Nat
  channel : Nat
  pch : Nat
  rank : Nat
  v : Nat
  bank : Nat
  column : Nat
  row : Nat
  deriving DecidableEq, Repr

/-- The location of a byte offset of a cluster's physical range. -/
def locate (cluster a : Nat) : Location :=
  let q := a / 128 % 48
  let u := a / 128 / 48
  let v := u % 1572864
  ⟨q / 2 % 6, 32 * (q / 2 % 6) + 4 * cluster + q / 2 / 6, q % 2, u / 1572864, v, v % 16, v / 16 % 8, v / 128⟩

/-- The number of the 64-byte line of tier 1 that holds a byte, over all clusters. -/
def lineOf (cluster off : Nat) : Nat := (cluster * clusterSpan + off) / 64

/-- Size in bytes of a tile's store (05 Table SPD.1); 0 for a space that no store has. -/
def storeBytes (tile space : Nat) : Nat :=
  if tile < 8 then
    match space with
    | 1 => 1572864 | 2 => 1048576 | 3 => 524288 | _ => 0
  else
    match space with
    | 1 => 1048576 | 2 => 1048576 | 3 => 262144 | _ => 0

/-- Bytes of a line of a store (05 Table SPD.1). -/
def lineBytes (tile space : Nat) : Nat := if tile < 8 ∧ space = 3 then 512 else 256

/-- The key of byte b of a store. -/
def storeKey (cluster tile space b : Nat) : Nat := ((cluster * 14 + tile) * 4 + space) * 2097152 + b

/-- The key of the line that holds byte b of a store. -/
def storeLine (cluster tile space b : Nat) : Nat :=
  ((cluster * 14 + tile) * 4 + space) * 8192 + b / lineBytes tile space

/-! ### Tile stores: tags and clear bits (14 R355) -/

/-- Whether a line's clear bit is set. -/
def Stores.isCleared (st : Stores) (line : Nat) : Bool := st.cleared.any fun (lo, hi) => lo ≤ line && line < hi

/-- Take one line out of the ranges whose clear bits are set. -/
def unclear (line : Nat) (rs : List (Nat × Nat)) : List (Nat × Nat) :=
  rs.flatMap fun (lo, hi) =>
    if lo ≤ line && line < hi then
      (if lo < line then [(lo, line)] else []) ++ (if line + 1 < hi then [(line + 1, hi)] else [])
    else [(lo, hi)]

/-- A byte of a store as a port reads it: 0 while the line's clear bit is set. -/
def Stores.readByte (st : Stores) (c t sp b : Nat) : Byte :=
  if st.isCleared (storeLine c t sp b) then 0 else Mem.get st.bytes (storeKey c t sp b)

/-- n bytes of a store. -/
def Stores.read (st : Stores) (c t sp b : Nat) : Nat → List Byte
  | 0 => []
  | n + 1 => st.readByte c t sp b :: st.read c t sp (b + 1) n

/-- Write one byte of a store: a line whose clear bit is set is zeroed first and its bit cleared; the tag becomes the
context of the run, or stays (none: an operator write). -/
def Stores.writeByte (st : Stores) (tag : Option CtxNo) (c t sp b : Nat) (v : Byte) : Stores :=
  let line := storeLine c t sp b
  let first := storeKey c t sp (b / lineBytes t sp * lineBytes t sp)
  let bytes := if st.isCleared line then Mem.clear st.bytes first (first + lineBytes t sp) else st.bytes
  { st with
    bytes := Mem.put bytes (storeKey c t sp b) v
    cleared := if st.isCleared line then unclear line st.cleared else st.cleared
    tags := match tag with
      | none => st.tags
      | some x => Table.set st.tags line x }

/-- Write bytes of a store. -/
def Stores.write (st : Stores) (tag : Option CtxNo) (c t sp b : Nat) : List Byte → Stores
  | [] => st
  | v :: vs => (st.writeByte tag c t sp b v).write tag c t sp (b + 1) vs

/-- Lines of a store in all. -/
def storeLines (tile space : Nat) : Nat := storeBytes tile space / lineBytes tile space

/-- Zero the bytes of a line of a store, by its key. -/
def clearLine (m : Mem) (line : Nat) : Mem :=
  let store := line / 8192
  let n := lineBytes (store / 4 % 14) (store % 4)
  Mem.clear m (store * 2097152 + line % 8192 * n) (store * 2097152 + line % 8192 * n + n)

/-- Set the clear bit of every line tagged with a context in the given clusters, and remove the tags; the cells are
overwritten with zeros with it (14 R356, log entry 163). -/
def Stores.clearContext (st : Stores) (lo n : Nat) (x : CtxNo) : Stores :=
  let mine := st.tags.filter fun (line, c) => c == x && lo * 14 * 4 * 8192 ≤ line && line < (lo + n) * 14 * 4 * 8192
  { st with
    bytes := mine.foldl (fun m x => clearLine m x.1) st.bytes
    cleared := st.cleared ++ mine.map fun (line, _) => (line, line + 1)
    coalesced := st.coalesced.filter fun y => y.ctx != some x
    loads := st.loads.filter fun y => y.ctx != some x || !(lo * 14 ≤ y.key && y.key < (lo + n) * 14)
    tags := st.tags.filter fun (line, c) => !(c == x && lo * 14 * 4 * 8192 ≤ line && line < (lo + n) * 14 * 4 * 8192) }

/-- Set the clear bit of every line of the clusters, zero their cells, and zero the stores that no word address reaches
(14 R359, 16 R407, 21 R508). -/
def Stores.clearClusters (st : Stores) (lo n : Nat) : Stores :=
  let a := lo * 14 * 4 * 8192
  let z := (lo + n) * 14 * 4 * 8192
  let byTile := fun (m : Mem) => Mem.clear m (lo * 14 * 2097152) ((lo + n) * 14 * 2097152)
  { bytes := Mem.clear st.bytes (lo * 14 * 4 * 2097152) ((lo + n) * 14 * 4 * 2097152)
    tags := st.tags.filter fun (line, _) => !(a ≤ line && line < z)
    cleared := st.cleared ++ [(a, z)]
    scales := byTile st.scales
    codebooks := byTile st.codebooks
    products := byTile st.products
    scores := byTile st.scores
    selectors := st.selectors.filter fun (k, _) => !(lo * 14 ≤ k && k < (lo + n) * 14)
    loads := st.loads.filter fun x => !(lo * 14 ≤ x.key && x.key < (lo + n) * 14)
    coalesced := st.coalesced.filter fun x => !(lo ≤ x.cluster && x.cluster < lo + n)
    gathers := st.gathers.filter fun x => !(lo ≤ x.cluster && x.cluster < lo + n) }

/-- The key of byte b of a hidden store of a tile: scale registers, codebook, product-table and score-table stores. -/
def tileKey (cluster tile b : Nat) : Nat := (cluster * 14 + tile) * 2097152 + b

/-! ### Tier 0 and tier 1 -/

/-- The number of the unit of a tier that holds a byte: units of tier 0 first, then those of tier 1. -/
def unitKey (tier cluster off : Nat) : Nat := (if tier = 0 then 0 else 4096) + tierKey tier cluster off / 65536

/-- What stands over a byte of a tier: 0, or in a unit that has been allocated since it was zeroed last a free byte, so
that a byte nobody has written reads as one (14 R353). -/
def veil (undef : Table Nat) (tier cluster off : Nat) : Byte :=
  match Table.get 0 undef (unitKey tier cluster off) with
  | 0 => 0
  | k + 1 => Config.tileByte k (tierKey tier cluster off)

/-- Bytes with what stands over them from an offset of a tier on; lifting it off is the same step. -/
def veiled (undef : Table Nat) (tier cluster off : Nat) : List Byte → List Byte
  | [] => []
  | b :: bs => (b ^^^ veil undef tier cluster off) :: veiled undef tier cluster (off + 1) bs

/-- n bytes of a tier. -/
def State.readTier (s : State) (tier cluster off n : Nat) : List Byte :=
  veiled s.undef tier cluster off (Mem.read (if tier = 0 then s.layer else s.tier1) (tierKey tier cluster off) n)

/-- Allocate k units of a tier: what they hold is undefined (14 R353). -/
def State.undefineUnits (s : State) (tier cluster unit k : Nat) : State :=
  let set := fun (t : Table Nat) (i : Nat) => Table.set t (unitKey tier cluster ((unit + i) * 65536)) (s.free + 1)
  { s with undef := (List.range k).foldl set s.undef, free := s.free + 1 }

/-- The number under which the poison of the 64-byte line at an offset of a tier stands: lines of tier 1 by their number
over all clusters, lines of tier 0 after all of those (log entry 141). -/
def poisonLineOf (tier cluster off : Nat) : Nat :=
  if tier = 0 then 2 ^ 48 + tierKey 0 cluster off / 64 else tierKey 1 cluster off / 64

/-- The lines that a write of n bytes from an offset covers whole lose their poison; a line it covers in part keeps it (08
R191). -/
def State.cleanLines (s : State) (tier cluster off n : Nat) : State :=
  let first := poisonLineOf tier cluster (off + 63)
  let last := poisonLineOf tier cluster (off + n)
  { s with poison := s.poison.filter fun l => !(first ≤ l && l < last) }

/-- Write bytes of a tier. -/
def State.writeTier (s : State) (tier cluster off : Nat) (bs : List Byte) : State :=
  let s := s.cleanLines tier cluster off bs.length
  if tier = 0 then { s with layer := Mem.write s.layer (tierKey 0 cluster off) (veiled s.undef 0 cluster off bs) }
  else { s with tier1 := Mem.write s.tier1 (tierKey 1 cluster off) (veiled s.undef 1 cluster off bs) }

/-- Zero whole units of a tier; poison goes with the lines. -/
def State.zeroTier (s : State) (tier cluster off n : Nat) : State :=
  let bare := s.undef.filter fun x => !(unitKey tier cluster off ≤ x.1 && x.1 < unitKey tier cluster (off + n + 65535))
  let s := { s.cleanLines tier cluster off n with undef := bare }
  if tier = 0 then { s with layer := Mem.clear s.layer (tierKey 0 cluster off) (tierKey 0 cluster off + n) }
  else { s with tier1 := Mem.clear s.tier1 (tierKey 1 cluster off) (tierKey 1 cluster off + n) }

/-- The first poisoned line that a range of a tier touches: its byte address in the tier's keys, over 64. -/
def State.poisonIn (s : State) (tier cluster off n : Nat) : Option Nat :=
  if n = 0 then none
  else
    let first := poisonLineOf tier cluster off
    let last := poisonLineOf tier cluster (off + n - 1)
    (s.poison.filter fun l => first ≤ l && l ≤ last).min?.map fun l => l - poisonLineOf tier cluster 0 + tierKey tier cluster 0 / 64

/-- The copy of k lines to another place, while they stay in use, is poisoned as they are, and reported as they are (08
R191). -/
def State.copyPoison (s : State) (from_ to_ k : Nat) : State :=
  let copies := fun (ls : List Nat) => ls ++ (ls.filter fun l => from_ ≤ l && l < from_ + k).map fun l => l - from_ + to_
  { s with poison := copies s.poison, poisonReports := copies s.poisonReports }

/-- The copy of k lines to another place takes their poison along, and the keeper's reports on them name the copy (08
R193). -/
def State.movePoison (s : State) (from_ to_ k : Nat) : State :=
  let here := fun (l : Nat) => from_ ≤ l && l < from_ + k
  let move := fun (l : Nat) => if here l then l - from_ + to_ else l
  { s with poison := s.poison ++ (s.poison.filter here).map move, poisonReports := s.poisonReports.map move }

end Sys2Proof.Machine
end

