-- ==== Sys2Proof/WellFormed.lean ====
section
/-! DEFINITION. Well-formed commands: the checks a packet meets at acceptance that need no device state (12 R298, R300,
Table CMD.8 and the rules each row names), and the ranges of the operands of the other rows. A packet that is not
well-formed is refused with ST_BAD_FIELD when it is accepted. -/

namespace Sys2Proof.Instr

/-- Opcodes of class D, which alone may carry a deadline (12 R307, Table CMD.8). -/
def classD (op : Nat) : Bool := [0x20, 0x21, 0x22, 0x23, 0x62, 0x65, 0x90, 0x9A].contains op

/-- A ring size: a power of two from 64 to 65,536 (12 R292). -/
def ringSizeOk (n : Nat) : Bool := 64 ≤ n && n ≤ 65536 && n == 2 ^ Nat.log2 n

/-- An interrupt vector of a partition's ring: 1 to 2,047 (18 R446). -/
def vectorOk (v : Nat) : Bool := 1 ≤ v && v ≤ 2047

/-- Header requirements of 12 Table CMD.3 and R307. -/
def headerOk (q : Req) (op : Nat) : Bool :=
  let onHost := match q.ring with
    | .host _ => true
    | .ctx _ => false
  (!q.counters || !onHost) &&
  (!q.watch || op == 0x62 || op == 0x65) &&
  (q.fbScope == 0 || q.fenceBefore || op == 0x90) &&
  (q.faScope == 0 || q.fenceAfter) &&
  (q.deadline == 0 || classD op)

/-- A weight source: a local source names no session, a session names no library entry (12 Table CMD.8). -/
def sourceOk (s : WgtSource) : Bool := s.isLocal || (s.modelId == 0 && s.version == 0)

/-- SEQ.OPEN against 09 Tables KV.1, KV.2 and KV.9; handle fields are compared when the command starts. -/
def seqOpenOk (a : SeqOpenArgs) : Bool :=
  1 ≤ a.kvFmt.toNat && a.kvFmt.toNat ≤ 6 &&
  (a.kvFmt.toNat < 4 || a.hd == 7) &&
  a.layers != 0 && a.heads != 0 &&
  a.shardLog2.toNat ≤ 6 && a.memberLog2.toNat ≤ 6 &&
  (a.layout || a.shardLog2 == 0) &&
  a.rank.toNat < 2 ^ a.memberLog2.toNat &&
  (!a.layout || a.memberLog2.toNat ≤ a.shardLog2.toNat) &&
  a.w.toNat ≤ 65536

/-- The run payload of 12 Table CMD.9; step is true for SCHED.STEP. -/
def runOk (step : Bool) (a : RunArgs) : Bool :=
  a.objOff.toNat % 8 == 0 && a.bindOff.toNat % 16 == 0 &&
  a.nObj.toNat ≤ 256 && a.nBind.toNat ≤ 256 &&
  (a.list != 0 || (a.nObj == 0 && a.nBind == 0 && a.q == 0)) &&
  (a.verify || a.result == 0) &&
  (if step then a.image.toNat < 16 else a.q == 0 && !a.verify && !a.noFill)

/-- The object descriptor checks of 07 R157 that need no partition: kind, comp with its fields, drop, vbase, home and
length. A length of 0 does not excuse them (00 R11). -/
def descOk (d : ObjDesc) : Bool :=
  (d.kind == 1 || d.kind == 2) &&
  d.home.toNat ≤ 1 &&
  !(d.comp && d.prot) &&
  (d.comp || (d.elem == 0 && d.budget == 0)) &&
  (!d.comp || (16 ≤ d.budget.toNat && d.budget.toNat ≤ 1024)) &&
  (!d.comp || d.elem.toNat ≤ 2) &&
  d.drop == 0 && d.length.toNat ≤ 2 ^ 42 && d.vbase == 0

/-- A watch point of 20 R488, Table OBS.5: a statistics format is not a codebook or INT4 format; the fields of the other
target are 0. -/
def watchOk (a : WatchArgs) : Bool :=
  (a.digest || [1, 2, 3, 4, 5, 6, 10].contains a.fmt.toNat) &&
  (1 ≤ a.fmt.toNat && a.fmt.toNat ≤ 10) &&
  (if a.tileTarget then
    a.tileBytes.toNat % 4 == 0 && a.tileBytes.toNat ≤ 65536 && a.base == 0 && a.offset == 0 && a.bytes == 0
  else a.cluster == 0 && a.tile == 0 && a.space == 0 && a.word == 0 && a.beat == 0 && a.tileBytes == 0)

/-- What DBG.READ and DBG.WRITE name (20 R493): at most 4,096 bytes, no reserved space, the fields of the other spaces
0. -/
def dbgOk (t : DbgTarget) : Bool :=
  t.bytes.toNat ≤ 4096 &&
  match t.space.toNat with
  | 0 => t.cluster == 0 && t.tile == 0 && t.store == 0 && t.word == 0 && t.physical == 0
  | 1 => t.offset == 0 && t.physical == 0 && 1 ≤ t.store.toNat && t.store.toNat ≤ 3
  | 2 => t.offset == 0 && t.tile == 0 && t.store == 0 && t.word == 0
  | _ => false

/-- A cluster set that a partition may hold: n = 1, 2, 4 or 8 clusters from a multiple of n on (01 R20). -/
def maskOk (m : Nat) : Bool :=
  [1, 2, 4, 8].any fun n => (List.range (8 / n)).any fun k => m == (2 ^ n - 1) * 2 ^ (k * n)

/-- Whether an offset names an RS register of partition p (21 Tables MAP.1, MAP.6, MAP.7; R502, R506): in the partition's
block, or the partition's of an indexed one. -/
def stageOk (region off p : Nat) : Bool :=
  (region == 1 && [0x200, 0x300, 0x304, 0x308, 0x400, 0x600, 0x608].any fun x => off == p * 0x10000 + x) ||
    ((region == 4 || region == 5 || region == 7) && off == 0x100 + p * 0x10) || (region == 6 && off == 0x200 + p * 0x10)

/-- The partition of PTN.STAGE: the field names it for a host ring; a context stages its own (12 Table CMD.8, R313). -/
def stagedPtn (r : Ring) (p : BitVec 3) : Nat :=
  match r with
  | .host _ => p.toNat
  | .ctx c => c.toNat / 256

/-- Payload checks of a ring command; true for the other rows. -/
def payloadOk : Instr → Bool
  | .devHello _ v => v != 0
  | .devAttest _ _ _ n => n == 0 || 4096 ≤ n.toNat
  | .devCommit _ s => s.toNat < 16
  | .ptnCreate _ m sh n _ _ v =>
    maskOk m.toNat && sh.toNat % 4096 == 0 && sh.toNat ≤ 1048576 && ringSizeOk n.toNat && vectorOk v.toNat
  | .ptnStage q off region p _ _ => stageOk region.toNat off.toNat (stagedPtn q.ring p)
  | .ctxCreate _ n m a v => ringSizeOk n.toNat && (m || a == 0) && vectorOk v.toNat
  | .memFill _ _ _ _ n => n.toNat % 4 == 0
  | .objCreate _ d => descOk d
  | .objPlace _ _ h => h.toNat ≤ 1
  | .seqOpen _ a => seqOpenOk a
  | .kvGlobal _ _ n _ _ _ => n.toNat ≤ 64
  | .schedRun _ a => runOk false a
  | .schedStepset _ _ _ n => n.toNat ≤ 8
  | .schedStep _ a => runOk true a
  | .wgtServe _ _ _ _ _ l => l.toNat ≤ 3600
  | .wgtLoad _ s _ => sourceOk s
  | .wgtSwap _ _ d s => d.toNat ≤ 10000 && sourceOk s
  | .watchSet _ a => watchOk a
  | .watchTrace _ _ _ n => n.toNat % 64 == 0 && (n == 0 || 128 ≤ n.toNat)
  | .ctrRead _ k _ => k.toNat ≤ 1
  | .pwrCap _ c _ => c != 0
  | .pwrEnter _ t => t.toNat ≤ 4
  | .fabQuery _ k _ => k.toNat ≤ 2
  | .fabGroup _ a => a.index.toNat < a.count.toNat + 1 && a.count.toNat ≤ 255
  | .fabRotate _ p => p.toNat < 8 || p == 15
  | .fwStage _ _ o n => o.toNat + n.toNat ≤ 4194304
  | .dbgRead _ t => dbgOk t
  | .dbgWrite _ t => dbgOk t
  | .dbgUnretire _ s _ => s.toNat < 6
  | _ => true

/-- The ranges of the operands of rows that are not ring commands: an access of the narrow port is of 8, 16 or 32 bits
(05 R119), and a frame's length field names its payload (13 Table FAB.2). -/
def eventOk : Instr → Bool
  | .narrowStore _ _ _ _ size _ _ => size.toNat ≤ 2
  | .narrowLoad _ _ _ _ size => size.toNat ≤ 2
  | .dataFrame _ f => f.length.toNat == f.payload.length
  | .multicastFrame _ f => f.length.toNat == f.payload.length
  | _ => true

/-- A command that the device takes: a ring command meets its header and payload checks, another row its operand
ranges. -/
def wellFormed (i : Instr) : Bool :=
  match i.req? with
  | some q => headerOk q i.opcode && payloadOk i
  | none => eventOk i

end Sys2Proof.Instr
end

