-- ==== Sys2Proof/Machine/Ops.lean ====
section
/-! DEFINITION. Shared operations: partitions, contexts and hosts by name; events, interrupts and completion entries
(12 R297 to R303); the start of a ring command (12 R306, 01 R33 to R36) and its completion (12 R301). -/

namespace Sys2Proof.Machine

/-! ### Status codes (12 Table CMD.6) -/

def stOk : Nat := 0x0000
def stOkEmpty : Nat := 0x0001
def stBadField : Nat := 0x0100
def stLimit : Nat := 0x0101
def stQuota : Nat := 0x0102
def stNoObject : Nat := 0x0103
def stInUse : Nat := 0x0104
def stAuth : Nat := 0x0105
def stDenied : Nat := 0x0106
def stSeqState : Nat := 0x0107
def stKvLost : Nat := 0x0108
def stWgtLost : Nat := 0x0109
def stConflict : Nat := 0x010A
def stAborted : Nat := 0x0200
def stDeadline : Nat := 0x0201
def stPoison : Nat := 0x0202
def stPeerLost : Nat := 0x0203
def stHostDetached : Nat := 0x0204
def stSwapRollback : Nat := 0x0205

/-- A word with values at given least significant bits. -/
def packBits : List (Nat × Nat) → Nat
  | [] => 0
  | (v, lsb) :: r => v * 2 ^ lsb + packBits r

/-! ### Free values and random draws -/

/-- Take the next free value (log entry 3). -/
def State.takeFree (s : State) : BitVec 64 × State := (Config.free s.free, { s with free := s.free + 1 })

/-- Take the next random draw (14 R364, log entry 6). -/
def State.takeDraw (s : State) : BitVec 256 × State :=
  (Config.draw s.draws, { s with draws := s.draws + 1, rng := { s.rng with outputs := s.rng.outputs + 1 } })

/-! ### Names -/

/-- The partition of a context number (01 R21). -/
def ptnOf (c : CtxNo) : Nat := c.toNat / 256
/-- The management context of a partition (01 R22). -/
def mgmt (p : Nat) : CtxNo := BitVec.ofNat 11 (p * 256)
/-- Whether a context is its partition's management context. -/
def isMgmt (c : CtxNo) : Bool := c.toNat % 256 == 0

/-- Partition p, where one exists. -/
def State.ptn? (s : State) (p : Nat) : Option Partition := (s.ptns[p]?).join
/-- Replace partition p. -/
def State.setPtn (s : State) (p : Nat) (x : Option Partition) : State := { s with ptns := s.ptns.setIfInBounds p x }
/-- Change partition p, where one exists. -/
def State.modPtn (s : State) (p : Nat) (f : Partition → Partition) : State :=
  match s.ptn? p with
  | none => s
  | some x => s.setPtn p (some (f x))
/-- The numbers of the partitions that exist. -/
def State.ptnNos (s : State) : List Nat := (List.range 8).filter fun p => (s.ptn? p).isSome

/-- A context by its number. -/
def State.ctx? (s : State) (c : CtxNo) : Option Context := s.ctxs.find? fun x => x.no == c
/-- Change a context. -/
def State.modCtx (s : State) (c : CtxNo) (f : Context → Context) : State :=
  { s with ctxs := Lists.modifyIf (fun x => x.no == c) f s.ctxs }
/-- The contexts of a partition, in ascending number. -/
def State.ctxsOf (s : State) (p : Nat) : List Context := s.ctxs.filter fun x => ptnOf x.no == p

/-- A host port's side of the device. -/
def State.host (s : State) (h : Fin 2) : HostSide := s.hosts[h]
/-- Change a host port's side. -/
def State.modHost (s : State) (h : Fin 2) (f : HostSide → HostSide) : State := { s with hosts := s.hosts.set h (f s.hosts[h]) }

/-- The partition that holds a cluster of the device. -/
def State.ptnOfCluster (s : State) (c : Nat) : Option Nat :=
  s.ptnNos.find? fun p =>
    match s.ptn? p with
    | some x => x.low ≤ c && c < x.low + x.n
    | none => false

/-- The port that owns partition p; none while it is orphaned (18 R448). -/
def State.owner (s : State) (p : Nat) : Option (Fin 2) :=
  match s.ptn? p with
  | some x => if x.orphanedAt.isSome then none else x.owner
  | none => none

/-- The port that a ring's entries and interrupts reach: the ring's own port, or the owner of the context's partition. -/
def State.ringPort (s : State) : Ring → Option (Fin 2)
  | .host p => some p
  | .ctx c => s.owner (ptnOf c)

/-- The ring pair of a ring. -/
def State.ring? (s : State) : Ring → Option RingPair
  | .host p => some (s.host p).ring
  | .ctx c => (s.ctx? c).map (·.ring)
/-- Change a ring pair. -/
def State.modRing (s : State) (r : Ring) (f : RingPair → RingPair) : State :=
  match r with
  | .host p => s.modHost p fun h => { h with ring := f h.ring }
  | .ctx c => s.modCtx c fun x => { x with ring := f x.ring }

/-- The event buffer of a ring (log entry 12 for a host ring's). -/
def State.events? (s : State) : Ring → Option EventBuf
  | .host p => some (s.host p).events
  | .ctx c => (s.ctx? c).map (·.events)
/-- Change an event buffer. -/
def State.modEvents (s : State) (r : Ring) (f : EventBuf → EventBuf) : State :=
  match r with
  | .host p => s.modHost p fun h => { h with events := f h.events }
  | .ctx c => s.modCtx c fun x => { x with events := f x.events }

/-! ### Counters of a context (20 Table OBS.1) -/

/-- Add to counter i of a context, modulo 2^64 (20 R483). -/
def State.count (s : State) (c : CtxNo) (i k : Nat) : State :=
  s.modCtx c fun x =>
    { x with counters := Lists.setAt x.counters i (x.counters.getD i 0 + BitVec.ofNat 64 k) }

/-! ### Objects and their bytes -/

/-- Bytes of an object's residence tiles (07 R155). -/
def tileBytes (d : ObjDesc) : Nat := if d.tile then 2097152 else 65536
/-- Units of a residence tile. -/
def tileUnits (d : ObjDesc) : Nat := tileBytes d / unitBytes

/-- The bytes that commands and moves address in an object: its length, or the whole of its coded tiles (log entry
16). -/
def Obj.size (o : Obj) : Nat := if o.desc.comp then o.tiles.length * tileBytes o.desc else o.desc.length.toNat

/-- An object of a context by its base. -/
def State.obj? (s : State) (c : CtxNo) (base : BitVec 42) : Option Obj :=
  s.objs.find? fun o => o.ctx == c && o.desc.vbase == base
/-- Change an object. -/
def State.modObj (s : State) (c : CtxNo) (base : BitVec 42) (f : Obj → Obj) : State :=
  { s with objs := Lists.modifyIf (fun o => o.ctx == c && o.desc.vbase == base) f s.objs }

/-- Where a byte of an object lies: tier, cluster, offset in the cluster's range or layer store. -/
def Obj.locate (o : Obj) (off : Nat) : Option (Nat × Nat × Nat) :=
  (o.tiles[off / tileBytes o.desc]?).map fun t =>
    (t.place.tier, t.place.cluster, t.place.unit * unitBytes + off % tileBytes o.desc)

/-- A byte of an object. -/
def State.objByte (s : State) (o : Obj) (off : Nat) : Byte :=
  match o.locate off with
  | none => 0
  | some (t, c, a) => (s.readTier t c a 1).headD 0

/-- n bytes of an object. -/
def State.readObj (s : State) (o : Obj) (off n : Nat) : List Byte := (List.range n).map fun i => s.objByte o (off + i)

/-- Split a range of an object at its residence tiles: offset and length of each piece. -/
def pieces (size : Nat) : Nat → Nat → Nat → List (Nat × Nat)
  | 0, _, _ => []
  | fuel + 1, off, n =>
    if n = 0 then []
    else
      let k := min n (size - off % size)
      (off, k) :: pieces size fuel (off + k) (n - k)

/-- The pieces of a range of an object. -/
def Obj.pieces (o : Obj) (off n : Nat) : List (Nat × Nat) :=
  Machine.pieces (tileBytes o.desc) (n / tileBytes o.desc + 2) off n

/-- Write bytes of an object, residence tile by residence tile. -/
def State.writeObj (s : State) (o : Obj) (off : Nat) (bs : List Byte) : State :=
  (o.pieces off bs.length).foldl (fun st (a, k) =>
    match o.locate a with
    | none => st
    | some (t, c, x) => st.writeTier t c x ((bs.drop (a - off)).take k)) s

/-- The offset in an object of the first poisoned line that a range touches (08 R192); an object below a poisoned tree
node is out of reach as a whole (16 R409). -/
def State.objPoison (s : State) (o : Obj) (off n : Nat) : Option Nat :=
  if o.broken.isSome && n != 0 then some off
  else (o.pieces off n).foldl (fun found (a, k) =>
    match found with
    | some x => some x
    | none =>
      match o.locate a with
      | none => none
      | some (t, c, x) =>
        (s.poisonIn t c x k).map fun l => a + (max (l * 64) (tierKey t c x) - tierKey t c x)) none

/-! ### Host memory -/

/-- Bytes of a host's memory as the device reads them. -/
def State.readHost (s : State) (h : Fin 2) (a n : Nat) : List Byte := Mem.read (s.host h).mem a n

/-- A write of the device to host memory; discarded while the host is detached (01 R38). -/
def State.writeHost (s : State) (h : Fin 2) (a : Nat) (bs : List Byte) : State :=
  if (s.host h).attached then s.modHost h fun x => { x with mem := Mem.write x.mem a bs } else s

/-- The port beside a port. -/
def otherPort (h : Fin 2) : Fin 2 := if h = 0 then 1 else 0

/-- The port whose host memory a command's host addresses name: the ring's own port, or the partition's owner. A
partition that is orphaned has none. -/
def State.hostOf (s : State) (q : Req) : Option (Fin 2) := s.ringPort q.ring

/-- Whether a host reaches a command: the ring's port is attached and owns the partition. -/
def State.hostUp (s : State) (q : Req) : Bool :=
  match s.hostOf q with
  | some h => (s.host h).attached
  | none => false

/-- Write to the host memory of a command's host; discarded where it has none. -/
def State.writeHostOf (s : State) (q : Req) (a : BitVec 64) (bs : List Byte) : State :=
  match s.hostOf q with
  | none => s
  | some h => s.writeHost h a.toNat bs

/-! ### Ring memory (12 R292, R293, 18 R447) -/

/-- Read bytes of a ring pair from its base. -/
def State.readRing (s : State) (r : Ring) (off n : Nat) : List Byte :=
  match r with
  | .host p => Mem.read (s.host p).wardenMem off n
  | .ctx c =>
    match s.ctx? c with
    | none => []
    | some x =>
      match s.obj? c x.ring.base with
      | none => []
      | some o => s.readObj o off n

/-- Write bytes of a ring pair; one below a poisoned tree node is out of reach (16 R409). -/
def State.writeRing (s : State) (r : Ring) (off : Nat) (bs : List Byte) : State :=
  match r with
  | .host p => s.modHost p fun h => { h with wardenMem := Mem.write h.wardenMem off bs }
  | .ctx c =>
    match s.ctx? c with
    | none => s
    | some x =>
      match s.obj? c x.ring.base with
      | none => s
      | some o => if o.broken.isSome then s else s.writeObj o off bs

/-- Submission entries of a ring pair, then its completion entries, then its counter records (12 R292). -/
def RingPair.cqOffset (r : RingPair) (i : Nat) : Nat := r.n * 64 + 32 * i
/-- Where counter record i lies. -/
def RingPair.ctrOffset (r : RingPair) (i : Nat) : Nat := r.n * 96 + 256 * i

/-- Free completion slots (12 R297). -/
def RingPair.freeSlots (r : RingPair) : Nat := r.n - (r.cqTail - r.cqHead).toNat
/-- The phase of the entry written at the completion counter (12 R297). -/
def RingPair.phase (r : RingPair) : Nat := (r.cqTail.toNat / r.n + 1) % 2

/-! ### Interrupts (12 R303, 18 R446) -/

/-- The vector-control mask bit of an MSI-X entry; masked after reset (log entry 13). -/
def msixMasked (h : HostSide) (v : Nat) : Bool := (Table.get (1#128 <<< 96) h.msix v).getLsbD 96

/-- Raise a vector of a port: sent where its entry is not masked, else its pending bit is set. Nothing is raised on a
port that no host is attached to (18 R446). -/
def State.interrupt (s : State) (h : Fin 2) (v : BitVec 16) : State :=
  if !(s.host h).attached then s
  else if msixMasked (s.host h) v.toNat then
    s.modHost h fun x => { x with msixPending := if x.msixPending.contains v.toNat then x.msixPending
      else x.msixPending ++ [v.toNat] }
  else { s with interrupts := s.interrupts ++ [(h, v)] }

/-! ### Entries and events -/

/-- Mirror an entry to host memory, where the ring has a mirror and a host (12 R301). -/
def State.mirrorEntry (s : State) (r : Ring) (rp : RingPair) (bs : List Byte) : State :=
  match rp.mirror, s.ringPort r with
  | some m, some h => s.writeHost h (m.toNat + 32 * (rp.cqTail.toNat % rp.n)) bs
  | _, _ => s

/-- Raise a ring's vector on the port it reaches (12 R303). -/
def State.ringInterrupt (s : State) (r : Ring) (v : BitVec 16) : State :=
  match s.ringPort r with
  | some h => s.interrupt h v
  | none => s

/-- Write one entry at the completion counter of a ring: the entry, its mirror, the counter, the interrupt, in that
order (12 R297, R301, R303). body is the entry without its phase bit. -/
def State.writeEntry (s : State) (r : Ring) (body : Nat) (raise : Bool) : State :=
  match s.ring? r with
  | none => s
  | some rp =>
    let bs := Bits.toBytes 32 (body + rp.phase * 2 ^ 52)
    let s := s.writeRing r (rp.cqOffset (rp.cqTail.toNat % rp.n)) bs
    let s := s.mirrorEntry r rp bs
    let s := s.modRing r fun x => { x with cqTail := x.cqTail + 1 }
    if raise then s.ringInterrupt r rp.vector else s

/-- Put an event into a ring's buffer; it is numbered even where the full buffer drops it (12 R302). -/
def State.event (s : State) (r : Ring) (code a0 a1 a2 : Nat) : State :=
  s.modEvents r fun b =>
    let e : Event := ⟨b.number, BitVec.ofNat 16 code, BitVec.ofNat 64 a0, BitVec.ofNat 64 a1, BitVec.ofNat 64 a2⟩
    if b.waiting.length < 64 then { b with waiting := b.waiting ++ [e], number := b.number + 1 }
    else { b with number := b.number + 1, dropped := b.dropped + 1 }

/-- An event to the management context of every partition. -/
def State.eventMgmts (s : State) (code a0 a1 a2 : Nat) : State :=
  s.ptnNos.foldl (fun st p => st.event (.ctx (mgmt p)) code a0 a1 a2) s

/-- A device-wide event: to the host ring of every attached port (12 R302). -/
def State.eventHosts (s : State) (code a0 a1 a2 : Nat) : State :=
  ([0, 1] : List (Fin 2)).foldl (fun st h =>
    if (st.host h).attached then st.event (.host h) code a0 a1 a2 else st) s

/-- Queue a fault item for the field core's summaries; one that finds 16 queued is lost (18 R462). -/
def State.report (s : State) (code a0 a1 a2 : Nat) : State :=
  if !(s.field.vdd && s.field.firmware) then s
  else if s.field.items.length < 16 then
    { s with field := { s.field with items := s.field.items ++ [⟨code, a0 % 2 ^ 32, a1 % 2 ^ 32, a2 % 2 ^ 32⟩] } }
  else { s with field := { s.field with lost := s.field.lost + 1 } }

/-- The body of an event entry (12 Table CMD.5). -/
def eventBody (e : Event) : Nat :=
  packBits [(e.number.toNat, 0), (e.code.toNat, 16), (1, 54), (e.arg0.toNat, 64), (e.arg1.toNat, 128),
    (e.arg2.toNat, 192)]

/-- The issuer of a ring's entries (12 Table CMD.4). -/
def issuer : Ring → Nat
  | .host p => 0x800 + p.val
  | .ctx c => c.toNat

/-- The body of a completion entry (12 Table CMD.4). -/
def completionBody (r : Ring) (tag opcode status res0 res1 time : Nat) (ctr : Bool) : Nat :=
  packBits [(tag, 0), (status, 16), (opcode, 32), (issuer r, 40), (Bits.ofBool ctr, 53), (res0 % 2 ^ 64, 64),
    (res1 % 2 ^ 64, 128), (min time (2 ^ 32 - 1), 192)]

/-- The accepted commands of a ring, in ring order, without those of a host ring that a detach has ended. -/
def State.acceptedOf (s : State) (r : Ring) : List Accepted := s.accepted.filter fun a => a.q.ring == r && !a.void

/-- The 32 counter differences of a command, end minus start modulo 2^64 (20 R484). -/
def State.latchDiff (s : State) (r : Ring) (latch : List (BitVec 64)) : List (BitVec 64) :=
  match r with
  | .host _ => []
  | .ctx c =>
    match s.ctx? c with
    | none => []
    | some x => (List.range 32).map fun i => x.counters.getD i 0 - latch.getD i 0

/-- Write the counter record of a packet at its completion counter, where the counters flag is set (12 R301). -/
def State.counterRecord (s : State) (q : Req) (latch : List (BitVec 64)) : State :=
  match q.counters, s.ring? q.ring with
  | true, some rp =>
    s.writeRing q.ring (rp.ctrOffset (rp.cqTail.toNat % rp.n))
      ((s.latchDiff q.ring latch).flatMap fun (d : BitVec 64) => Bits.toBytes 8 d.toNat)
  | _, _ => s

/-- Write the completion of a packet: the counter record first where the counters flag is set, then the entry
(12 R301). -/
def State.complete (s : State) (q : Req) (opcode since : Nat) (latch : List (BitVec 64)) (status res0 res1 : Nat) :
    State :=
  { (s.counterRecord q latch).writeEntry q.ring
      (completionBody q.ring q.tag.toNat opcode status res0 res1 (s.now - since) q.counters) q.notify with idleSince := s.now }

/-- Complete an accepted command: it leaves the accepted commands and its entry is written. The completion of a command
whose port has detached is discarded (18 R450). -/
def State.finish (s : State) (q : Req) (status res0 res1 : Nat) : State :=
  match s.accepted.find? fun a => a.q == q with
  | none => s
  | some a =>
    if a.void then { s with accepted := s.accepted.filter fun x => x.q != q, idleSince := s.now }
    else
    { s with accepted := s.accepted.filter fun x => x.q != q }.complete q a.cmd.opcode a.since a.latch status res0 res1

/-! ### The start of a command -/

/-- What a started command comes to. -/
inductive Ran where
  /-- It took effect and completes with a status and two results. -/
  | done (s : State) (status res0 res1 : Nat)
  /-- A wait of its own rule has not ended: nothing happens yet. -/
  | waits
  /-- It has started and completes later. -/
  | goesOn (s : State)
  /-- It has begun work that it waits for: the row, run again, carries it on. -/
  | again (s : State)

/-- A completion with a status alone. -/
def Ran.status (s : State) (st : Nat) : Ran := .done s st 0 0

/-- The entries of a list before the first that meets p. -/
def before {α : Type} (p : α → Bool) (xs : List α) : List α := xs.takeWhile fun x => !p x

/-- Whether one packet of a ring stands before another. -/
def precedes (x y : Req) : Bool := x.ring == y.ring && x.idx != y.idx && (y.idx - x.idx).toNat < 2 ^ 31

/-- Whether Felt frames of earlier commands hold a command back: under a fence before of fabric scope any that is not
acknowledged, otherwise those of a command that flagged a fence after itself of that scope (01 R35, R36). -/
def State.feltHolds (s : State) (a : Accepted) : Bool :=
  let fence := (a.q.fenceBefore || a.cmd.opcode == 0x90) && a.q.fbScope == 2
  s.felt.unacked.any fun u =>
    match u.q with
    | some x => precedes x a.q && (fence || (x.fenceAfter && x.faScope == 2))
    | none => false

/-- The control core beside the accepting one that a command's start waits for while it restarts (01 Table ORG.2, 16 Table
FLT.6): the warden for the DEV, PTN, PWR and FW groups; the partition's keeper for what allocates, migrates or drops; the
linker for FAB.ANCHOR, FAB.GROUP and FAB.ROTATE. -/
def coreWanted (op : Nat) (r : Ring) : Option Nat :=
  if op ≤ 0x15 || (0xB0 ≤ op && op ≤ 0xB3) || (0xD0 ≤ op && op ≤ 0xD3) then some 129
  else if [0xC0, 0xC2, 0xC5].contains op then some 132
  else
    match r with
    | .ctx c => if [0x18, 0x1A, 0x30, 0x32, 0x34, 0x40, 0x4B, 0x60].contains op then some (130 + ptnOf c % 2) else none
    | .host _ => none

/-- Whether no core that a command's start waits for is restarting. -/
def State.coresRun (s : State) (a : Accepted) : Bool :=
  match coreWanted a.cmd.opcode a.q.ring with
  | some i => s.flt.restarting.all fun r => r.island != i
  | none => true

/-- Whether R34 and R36 of 01 let a command start: no earlier command of its ring that flags a fence after itself, none
at all under a fence before, and none flagged ordered where it is ordered; a fence of fabric scope also waits for the
acknowledgement of every frame that earlier commands sent. Every other effect reaches every scope when its command
completes (log entry 11). A restart of a core that the command needs holds it back (16 R411). -/
def State.orderAllows (s : State) (a : Accepted) : Bool :=
  let earlier := before (fun x => x.q == a.q) (s.accepted.filter fun x => x.q.ring == a.q.ring && x.void == a.void)
  let fence := a.q.fenceBefore || a.cmd.opcode == 0x90
  s.coresRun a && !s.feltHolds a && earlier.all fun x => !x.q.fenceAfter && !fence && !(a.q.ordered && x.q.ordered)

/-- The counters of a ring's context as a command's start latches them (20 R484). -/
def State.latchOf (s : State) (q : Req) : List (BitVec 64) :=
  match q.counters, q.ring with
  | true, .ctx c => ((s.ctx? c).map (·.counters)).getD []
  | _, _ => []

/-- Mark an accepted command as started, with its latch. -/
def State.start (s : State) (q : Req) : State :=
  let mark := fun (a : Accepted) => { a with started := true, latch := s.latchOf q }
  { s with accepted := Lists.modifyIf (fun a => a.q == q) mark s.accepted }

/-- Let the row of a command that has begun work run again. -/
def State.resume (s : State) (q : Req) : State :=
  let mark := fun (a : Accepted) => { a with started := false }
  { s with accepted := Lists.modifyIf (fun a => a.q == q) mark s.accepted }

/-- The accepted command that a row names and that has not started. -/
def State.startable (s : State) (i : Instr) : Option Accepted :=
  s.accepted.find? fun a => a.cmd == i && !a.started

/-- Run a ring command: it acts only once accepted (01 R33) and allowed to start (12 R306); otherwise the row changes
nothing. -/
def runCommand (i : Instr) (s : State) (body : State → Req → Ran) : State :=
  match s.startable i with
  | none => s
  | some a =>
    if s.orderAllows a then
      match body (s.start a.q) a.q with
      | .done s' st r0 r1 => s'.finish a.q st r0 r1
      | .waits => s
      | .goesOn s' => s'
      | .again s' => s'.resume a.q
    else s

end Sys2Proof.Machine
end

