-- ==== Sys2Proof/Machine/Flags.lean ====
section
/-! DEFINITION. Fields of registers and conditions computed from state: the RS registers' fields, the operator session,
core restarts in progress, and who may issue an opcode (12 R294, 16 R414, R415). -/

namespace Sys2Proof.Machine

/-- Bits [hi:lo] of a register value. -/
def fld {w : Nat} (x : BitVec w) (hi lo : Nat) : Nat := Bits.range x.toNat hi lo

/-! ### Partition registers (05 SPD.4, 07 TIR.5 to TIR.7, 08 STK.5, 10 SRV.5 and SRV.7, 13 FAB.6, 15 PWR.12, 20 OBS.9) -/

def PtnRegs.beatLen (r : PtnRegs) : Nat := fld r.beat 16 0
def PtnRegs.latMode (r : PtnRegs) : Nat := fld r.beat 17 17
def PtnRegs.slipCeiling (r : PtnRegs) : Nat := fld r.beat 21 18
def PtnRegs.tier0 (r : PtnRegs) : Nat := fld r.quotaT0 11 0
def PtnRegs.tier1 (r : PtnRegs) : Nat := fld r.quotaT1 22 0
def PtnRegs.pool (r : PtnRegs) : Bool := fld r.quotaCfg 0 0 == 1
def PtnRegs.cls (r : PtnRegs) : Nat := fld r.srv 1 0
def PtnRegs.gCtx (r : PtnRegs) : Nat := fld r.srv 15 8
def PtnRegs.grantW (r : PtnRegs) : Nat := fld r.srv 31 16
def PtnRegs.periodUs (r : PtnRegs) : Nat := fld r.srv 51 32
def PtnRegs.fG (r : PtnRegs) : Nat := fld r.srv 59 52
def PtnRegs.pfxLimit (r : PtnRegs) : Nat := fld r.pfx 16 0
def PtnRegs.fixedW (r : PtnRegs) : Nat := fld r.pwr 9 0
def PtnRegs.slots (r : PtnRegs) : Nat := fld r.fab 5 0
def PtnRegs.weight (r : PtnRegs) : Nat := fld r.fab 11 8
def PtnRegs.watchEn (r : PtnRegs) : Bool := fld r.obs 0 0 == 1
def PtnRegs.traceEn (r : PtnRegs) : Bool := fld r.obs 1 1 == 1

/-- Guarded, Assured and Ordinary partitions (10 R256). -/
def PtnRegs.guarded (r : PtnRegs) : Bool := r.cls == 2
def PtnRegs.assured (r : PtnRegs) : Bool := r.cls == 1

/-! ### Device registers (15 PWR.8 and PWR.9, 16 FLT.9 and FLT.11, 13 FAB.5, 20 OBS.8) -/

def DevRegs.fixedMode (r : DevRegs) : Bool := fld r.pwrCfg 0 0 == 1
def DevRegs.drizzle (r : DevRegs) : Bool := fld r.pwrCfg 1 1 == 1
def DevRegs.autoLull (r : DevRegs) : Bool := fld r.pwrCfg 2 2 == 1
def DevRegs.lullIdle (r : DevRegs) : Nat := fld r.pwrCfg 12 3
def DevRegs.hostCap (r : DevRegs) : Nat := fld r.pwrCap 9 0
def DevRegs.floor (r : DevRegs) : Nat := fld r.pwrCap 25 16
def DevRegs.ctxN (r : DevRegs) : Nat := fld r.squall 4 0
def DevRegs.ctxWin (r : DevRegs) : Nat := fld r.squall 14 5
def DevRegs.ptnN (r : DevRegs) : Nat := fld r.squall 19 15
def DevRegs.ptnWin (r : DevRegs) : Nat := fld r.squall 31 20
def DevRegs.outN (r : DevRegs) : Nat := fld r.squall 35 32
def DevRegs.outWin (r : DevRegs) : Nat := fld r.squall 52 36
def DevRegs.unit (r : DevRegs) (p : Nat) : Nat := (r.fltPtn[p]?.map fun x => fld x 0 0).getD 0
def DevRegs.fixedShare (r : DevRegs) : Bool := fld r.fab 0 0 == 1
def DevRegs.transitSlots (r : DevRegs) : Nat := fld r.fab 14 8
def DevRegs.transitWt (r : DevRegs) : Nat := fld r.fab 18 15
def DevRegs.watchAllow (r : DevRegs) : Bool := fld r.obs 0 0 == 1
def DevRegs.traceAllow (r : DevRegs) : Bool := fld r.obs 1 1 == 1

/-! ### Sessions and cores -/

/-- Whether an operator session is open on a channel, 0 to 2 (14 R367). -/
def State.sessionOpen (s : State) (ch : Nat) : Bool := (s.sessions[ch]?.map fun x => x.openedAt.isSome).getD false

/-- Islands of the control cores (15 Table PWR.5). -/
def sequencerIsland (c : Nat) : Nat := 121 + c
def wardenIsland : Nat := 129
def keeperIsland (p : Nat) : Nat := 130 + p % 2
def linkerIsland : Nat := 132
def storeIsland : Nat := 133
def fieldIsland : Nat := 151

/-- Whether an island is a control core. -/
def isCore (i : Nat) : Bool := (121 ≤ i && i ≤ 133) || i == fieldIsland

/-- Whether a control core is restarting, so that work addressed to it waits (16 R411). -/
def State.restarting (s : State) (island : Nat) : Bool := s.flt.restarting.any fun r => r.island == island

/-- Whether the stacks serve accesses of their own: scrub and copy pause from Calm on (08 R199). The store core issues no
operation then either. -/
def State.stacksRun (s : State) : Bool := s.power == .run || s.power == .lull
/-- Whether the host side runs, so that the warden enforces the limits: Run, Lull and Calm (15 Table PWR.1). -/
def State.wardenRuns (s : State) : Bool := s.power == .run || s.power == .lull || s.power == .calm
/-- Whether entries can be written to a ring (15 Table PWR.1): a host ring lies in the warden's memory, a context's in
tier 1. -/
def State.writesTo (s : State) : Ring → Bool
  | .host _ => s.wardenRuns
  | .ctx _ => s.stacksRun

/-- The core that accepts a ring's packets: the lead sequencer, or the warden for a host ring (12 R298). -/
def State.acceptingCore (s : State) : Ring → Nat
  | .host _ => wardenIsland
  | .ctx c => sequencerIsland ((s.ptn? (ptnOf c)).map (·.low) |>.getD 0)

/-! ### Who may issue an opcode (12 R294, Table CMD.8) -/

/-- The rings of an opcode: H, M, C, O. -/
structure Rings where
  h : Bool := false
  m : Bool := false
  c : Bool := false
  o : Bool := false
  deriving DecidableEq, Repr

/-- The Ring column of 12 Table CMD.8. -/
def ringsOf (op : Nat) : Rings :=
  if op = 0x00 then { h := true, c := true }
  else if op ≤ 0x12 then { h := true }
  else if op ≤ 0x15 then { h := true, m := true }
  else if op = 0x1B then { c := true }
  else if op ≤ 0x1C then { m := true }
  else if op = 0x80 ∨ op = 0x81 then { m := true }
  else if op ≤ 0xA9 then { c := true }
  else if op ≤ 0xB2 then { h := true }
  else if op = 0xB3 ∨ op = 0xC1 then { h := true, m := true }
  else if op = 0xC0 ∨ op = 0xC5 then { h := true }
  else if op = 0xC4 then { c := true }
  else if op ≤ 0xC3 then { m := true }
  else if op ≤ 0xE1 then { h := true }
  else { o := true }

/-- Whether a ring may issue an opcode (12 R294); a management context is also a context. -/
def State.ringAllowed (s : State) (r : Ring) (op : Nat) : Bool :=
  let k := ringsOf op
  match r with
  | .host p => k.h || (k.o && s.sessionOpen p.val)
  | .ctx c => k.c || (k.m && isMgmt c)

/-- Whether a ring is a context's. -/
def Ring.isCtx : Ring → Bool
  | .ctx _ => true
  | .host _ => false

/-- What a Becalmed device's host rings accept (16 R415). -/
def becalmedAllows (s : State) : Instr → Bool
  | .devQuery _ => true
  | .devAttest .. => true
  | .pwrQuery .. => true
  | .fwQuery _ => true
  | .ptnDestroy .. => true
  | .pwrEnter _ t => t == 4 && s.ptnNos.isEmpty
  | .dbgChallenge .. => true
  | .dbgRespond .. => true
  | .dbgRead .. => true
  | .dbgWrite .. => true
  | .dbgSample .. => true
  | .dbgUnretire .. => true
  | _ => false

/-- The partition that a host-ring command names, where it names one. -/
def namedPtn : Instr → Option Nat
  | .ptnDestroy _ p => some p.toNat
  | .ptnQuery _ p => some p.toNat
  | .ptnStage _ _ _ p _ _ => some p.toNat
  | .ptnCommit _ _ p => some p.toNat
  | .pwrQuery _ k p _ _ => if k = 1 then some p.toNat else none
  | .pwrMode _ _ _ clear p => if clear then some p.toNat else none
  | _ => none

/-- Whether partition p is out of service (16 R414). -/
def State.outOfService (s : State) (p : Nat) : Bool :=
  match s.ptn? p with
  | some x => x.status == .outOfService
  | none => false

/-- What the rings accept while a partition is out of service (16 R414): its management ring CTX.QUERY, CTX.SAMPLE and
PTN.QUERY, the host rings PTN.QUERY and PTN.DESTROY for it; those of a Becalmed device what R415 lets them accept. -/
def outAllows (s : State) (r : Ring) (i : Instr) : Bool :=
  match r with
  | .ctx c =>
    !s.outOfService (ptnOf c) ||
      (isMgmt c && match i with
        | .ctxQuery .. => true
        | .ctxSample .. => true
        | .ptnQuery .. => true
        | _ => false)
  | .host h =>
    match namedPtn i with
    | none => true
    | some p =>
      s.owner p != some h || !s.outOfService p || s.flt.becalmed ||
        match i with
        | .ptnQuery .. => true
        | .ptnDestroy .. => true
        | _ => false

/-- Whether the watch flag is permitted on a ring (20 R492). -/
def State.watchAllowed (s : State) : Ring → Bool
  | .host _ => false
  | .ctx c =>
    match s.ptn? (ptnOf c) with
    | none => false
    | some x => s.live.watchAllow && x.live.watchEn

/-- The host-ring commands that 18 Table LNK.3 reserves to the primary port. -/
def primaryOnly (op : Nat) : Bool := [0xB0, 0xB1, 0xB2, 0xC0, 0xC5, 0xD0, 0xD1, 0xD2].contains op

/-- Whether a ring is the host ring of a port that is not the primary one (18 R449). -/
def State.notPrimary (s : State) : Ring → Bool
  | .host p => s.primary != some p
  | .ctx _ => false

/-- Whether a target of DBG.READ or DBG.WRITE exists and the transfer stays in its line or 4 KiB (20 R493). -/
def targetOk (t : DbgTarget) : Bool :=
  let n := t.bytes.toNat
  match t.space.toNat with
  | 0 => t.offset.toNat % 4096 + n ≤ 4096
  | 1 =>
    let b := t.word.toNat * 4
    let line := lineBytes t.tile.toNat t.store.toNat
    t.tile.toNat < 14 && b + n ≤ storeBytes t.tile.toNat t.store.toNat && b % line + n ≤ line
  | _ => t.physical.toNat % 4096 + n ≤ 4096 && t.physical.toNat + n ≤ clusterSpan

/-- Whether the tile target of a watch point lies in a store (20 R487); which clusters there are is device state. -/
def watchStoreOk (a : WatchArgs) : Bool :=
  !a.tileTarget || (a.tile.toNat < 14 && storeBytes a.tile.toNat a.space.toNat != 0 &&
    a.word.toNat * 4 + a.tileBytes.toNat ≤ storeBytes a.tile.toNat a.space.toNat)

/-- Checks of fields against the stores and ranges that every device has: they need no device state, so that acceptance
makes them (12 R298). A transfer of no bytes is no access. -/
def rangesOk : Instr → Bool
  | .dbgRead _ t => t.bytes == 0 || targetOk t
  | .dbgWrite _ t => t.bytes == 0 || targetOk t
  | .watchSet _ a => watchStoreOk a
  | _ => true

/-- The status that acceptance refuses a command with, if any (12 R298, R294; 16 R414, R415; 20 R492). -/
def State.refusal (s : State) (r : Ring) (i : Instr) : Option Nat :=
  if !s.ringAllowed r i.opcode then some stDenied
  else if primaryOnly i.opcode && s.notPrimary r then some stDenied
  else if !i.wellFormed || !rangesOk i then some stBadField
  else if s.flt.becalmed && !Ring.isCtx r && !becalmedAllows s i then some stDenied
  else if !outAllows s r i then some stDenied
  else
    match i.req? with
    | some q => if q.watch && !s.watchAllowed r then some stDenied else none
    | none => none

end Sys2Proof.Machine
end

