-- ==== Sys2Proof/Machine/Dies.lean ====
section
/-! DEFINITION. The store dies (17 R422 to R432): pages and planes, the operations of a die, the erase journal, the records
log, and the stripes of the library with what is written to them. -/

namespace Sys2Proof.Machine

/-! ### Blocks, planes and pages (17 R422, R426) -/

/-- The name of a die's block. -/
def blockName (die block : Nat) : Nat := die * 16384 + block
/-- The number of a page over all dies. -/
def pageKey (die block page : Nat) : Nat := blockName die block * 1024 + page
/-- The die, block and page that a page's number names. -/
def keyDie (k : Nat) : Nat := k / 1024 / 16384
def keyBlock (k : Nat) : Nat := k / 1024 % 16384
/-- The plane of its die in which a block lies (17 Table FW.2). -/
def planeOf (block : Nat) : Nat := block % 4
/-- Bytes of a page. -/
def pageBytes : Nat := 16384
/-- The 32 blocks of a stripe, as die and block. -/
def stripeBlocks (i : Nat) : List (Nat × Nat) := (List.range 8).flatMap fun d => (List.range 4).map fun k => (d, 4 * i + k)
/-- Where page p of a stripe lies (17 R426). -/
def stripeKey (i p : Nat) : Nat := pageKey (p % 8) (4 * i + p / 8 % 4) (p / 32)
/-- Whether a block serves the library. -/
def libraryBlock (block : Nat) : Bool := 64 ≤ block

/-- Change the flash store. -/
def State.modFlash (s : State) (f : Flash → Flash) : State := { s with flash := f s.flash }
/-- Change the counts of a die. -/
def State.modDie (s : State) (d : Nat) (f : DieStat → DieStat) : State :=
  s.modFlash fun x => { x with dies := x.dies.mapFinIdx fun i y _ => if i = d then f y else y }
/-- Erases of a block. -/
def State.erasesOf (s : State) (b : Nat) : Nat := Table.get 0 s.flash.erases b
/-- What a page holds. -/
def State.page (s : State) (key : Nat) : FlashPage := Table.get .blank s.flash.pages key
/-- A page's bytes: what was not programmed reads 0xFF. -/
def FlashPage.data (x : FlashPage) : List Byte :=
  let bs := match x with
    | .bytes bs => bs
    | _ => []
  (bs ++ List.replicate pageBytes 0xFF).take pageBytes
/-- Whether a block holds programmed pages. -/
def Flash.holds (f : Flash) (b : Nat) : Bool := f.pages.any fun e => e.1 / 1024 == b
/-- Whether a stripe holds programmed pages. -/
def Flash.written (f : Flash) (i : Nat) : Bool := f.pages.any fun e => keyBlock e.1 / 4 == i
/-- Program a page. -/
def State.programPage (s : State) (key : Nat) (x : FlashPage) : State := s.modFlash fun f => { f with pages := Table.set f.pages key x }
/-- Take every page of a block away. -/
def State.blankBlock (s : State) (b : Nat) : State := s.modFlash fun f => { f with pages := f.pages.filter fun e => e.1 / 1024 != b }
/-- Whether a block is retired (17 R423). -/
def State.isRetired (s : State) (d block : Nat) : Bool := s.flash.retired.contains (blockName d block)

/-- One step of the CRC-32 of the IEEE 802.3 polynomial, least significant bit first. -/
def crc32Bit (c : Nat) : Nat := if c % 2 = 1 then (c / 2) ^^^ 0xEDB88320 else c / 2
/-- The CRC-32 of a list of bytes (17 R429, Table FW.4). -/
def crc32 (bs : List Byte) : Nat :=
  bs.foldl (fun c b => (List.range 8).foldl (fun x _ => crc32Bit x) (c ^^^ b.toNat)) 0xFFFFFFFF ^^^ 0xFFFFFFFF

/-! ### Which plane is busy -/

/-- The block of a die's records log that is written now. -/
def LogDie.block (x : LogDie) : Nat := x.blocks.headD 6
/-- Whether a plane of a die programs or erases (17 R424). -/
def State.planeBusy (s : State) (d plane : Nat) : Bool :=
  (s.flash.jobs.any fun j => j.issued && j.die == d && planeOf j.block == plane) ||
    ((s.flash.journals[d]?).any fun x => x.writing.isSome && planeOf x.active == plane) ||
    ((s.flash.logs[d]?).any fun x => x.writing.isSome && planeOf x.block == plane)
/-- Whether a die programs or erases. -/
def State.dieBusy (s : State) (d : Nat) : Bool := (List.range 4).any (s.planeBusy d)
/-- Whether a page lies in a busy plane, so that its read waits (17 R424). -/
def State.keyBusy (s : State) (key : Nat) : Bool := s.planeBusy (keyDie key) (planeOf (keyBlock key))

/-! ### Counts of reads (17 R425, Table FW.12) -/

/-- Count the pages of a read: page and the most corrections in any of its 1 KiB; above 72 it is uncorrectable. -/
def State.countPages (s : State) (errors : List (Nat × Nat)) : State :=
  errors.foldl (fun st (k, e) => st.modDie (keyDie k) fun x =>
    if e = 0 then x
    else if e ≤ 72 then { x with eccCorr := BitVec.ofNat 32 (Bits.satAdd 32 x.eccCorr.toNat 1) }
    else { x with uncorr := BitVec.ofNat 8 (Bits.satAdd 8 x.uncorr.toNat 1) }) s

/-! ### The records log (17 R429) -/

/-- The kind of a record. -/
def LogRecord.kind : LogRecord → Nat
  | .ranks _ => 0 | .ages _ => 1 | .config _ => 2 | .cause _ => 3 | .firmware _ => 4 | .library .. => 5 | .fieldCfg _ => 6

/-- The pages of the log that are valid on a die, with where they lie. -/
def State.logPages (s : State) (d : Nat) : List (Nat × BitVec 64 × LogRecord) :=
  s.flash.pages.filterMap fun (k, x) =>
    match x with
    | .log seq r => if keyDie k == d then some (k, seq, r) else none
    | _ => none

/-- The newest of some pages. -/
def newestLog : List (Nat × BitVec 64 × LogRecord) → Option (Nat × BitVec 64 × LogRecord)
  | [] => none
  | x :: xs =>
    match newestLog xs with
    | some y => if x.2.1.toNat < y.2.1.toNat then some y else some x
    | none => some x

/-- The newest record of a kind that is valid on either die. -/
def State.recorded (s : State) (kind : Nat) : Option LogRecord :=
  (newestLog ((s.logPages 0 ++ s.logPages 1).filter fun x => x.2.2.kind == kind)).map fun x => x.2.2

/-- The live records of a die: the newest page of each kind, as they are copied forward. -/
def State.liveLog (s : State) (d : Nat) : List (Nat × BitVec 64 × LogRecord) :=
  (List.range 7).filterMap fun k => newestLog ((s.logPages d).filter fun x => x.2.2.kind == k)

/-- Queue a record for the log, on dies 0 and 1 alike. -/
def State.record (s : State) (r : LogRecord) : State :=
  s.modFlash fun f => { f with
    logSeq := f.logSeq + 1
    logs := f.logs.map fun x => if x.dead then x else { x with queue := x.queue ++ [(f.logSeq + 1, r)] } }

/-- Whether a record is still to be verified on a die. -/
def State.recordWaits (s : State) (seq : BitVec 64) : Bool :=
  s.flash.logs.toList.any fun x => x.queue.any fun y => y.1 == seq

/-- Record the library index: its entries, and the free stripes that hold old pages. -/
def State.recordLibrary (s : State) : State :=
  s.record (.library s.library (s.flash.freed.filter fun i => s.flash.written i))

/-! ### Manifests and the pages of an entry (17 R427) -/

/-- Bytes of a manifest of n shards. -/
def manifestBytes (n : Nat) : Nat := 1408 + 64 * n + 2420
/-- Bytes of a residence tile of a weight object, and the largest length of a shard. -/
def shardTile : Nat := 2097152
/-- Slots of 2 MiB that a manifest takes before its shards. -/
def manifestSlots (m : Manifest) : Nat := Bits.ceilDiv (manifestBytes m.shards.length) shardTile
/-- The stripes of an entry. -/
def stripesFor (m : Manifest) : Nat := Bits.ceilDiv (manifestSlots m + m.shards.length) 256
/-- The pages of an entry that hold the manifest. -/
def manifestPages (m : Manifest) : List Nat := List.range (Bits.ceilDiv (manifestBytes m.shards.length) pageBytes)
/-- The pages of an entry that hold a shard. -/
def shardPages (m : Manifest) (tile : Nat) : List Nat :=
  match m.shards[tile]? with
  | some x => (List.range (Bits.ceilDiv x.length pageBytes)).map fun k => (manifestSlots m + tile) * 128 + k
  | none => []
/-- The pages of an entry that hold anything. -/
def entryPages (m : Manifest) : List Nat := manifestPages m ++ (List.range m.shards.length).flatMap (shardPages m)
/-- Where a page of an entry lies. -/
def entryKey (stripes : List Nat) (p : Nat) : Option Nat := (stripes[p / 32768]?).map fun i => stripeKey i (p % 32768)

/-- Where the shards of a manifest lie in the data object: each from a 64-byte-aligned offset, in order. -/
def shardOffsets (from_ : Nat) : List Shard → List Nat
  | [] => []
  | x :: xs => Bits.roundUp from_ 64 :: shardOffsets (Bits.roundUp from_ 64 + x.length) xs

/-- The bytes of the data object that a page of an entry holds: offset and length. -/
def pageSource (m : Manifest) (p : Nat) : Nat × Nat :=
  let head := manifestBytes m.shards.length
  if p / 128 < manifestSlots m then (p * pageBytes, min pageBytes (head - p * pageBytes))
  else
    let i := p / 128 - manifestSlots m
    let at_ := (shardOffsets head m.shards).getD i 0
    let len := ((m.shards[i]?).map (·.length)).getD 0
    let k := p % 128 * pageBytes
    (at_ + k, min pageBytes (len - k))

/-- The bytes of a shard as the library holds them: of a page with more errors than its code corrects, what the read
brought (17 R425). -/
def State.readShard (s : State) (stripes : List Nat) (m : Manifest) (tile : Nat) (errors : List (Nat × Nat)) (raw : List Byte) : List Byte :=
  let len := ((m.shards[tile]?).map (·.length)).getD 0
  let bs := ((shardPages m tile).zipIdx).flatMap fun (p, k) =>
    let stored := ((entryKey stripes p).map fun key => (s.page key).data).getD (List.replicate pageBytes 0xFF)
    if 72 < Table.get 0 errors k then ((raw.drop (k * pageBytes)).take pageBytes ++ List.replicate pageBytes 0).take pageBytes else stored
  bs.take len

/-! ### Stripes (17 R427, R430) -/

/-- The stripes of entries recorded, being stored, or copied to. -/
def State.stripesUsed (s : State) : List Nat :=
  s.library.flatMap (·.stripes) ++ (s.flash.storing.flatMap fun x => x.stripes) ++ s.flash.copying.map (·.dst)
/-- The free stripes (17 R427). -/
def State.freeStripes (s : State) : List Nat :=
  let taken := s.stripesUsed ++ s.flash.withdrawn ++ s.flash.dirty
  (List.range' 16 4080).filter fun i => !taken.contains i
/-- The erase count of a stripe: the highest among its blocks. -/
def State.stripeErases (s : State) (i : Nat) : Nat :=
  (stripeBlocks i).foldl (fun m (d, b) => max m (s.erasesOf (blockName d b))) 0
/-- The free stripes in the order in which a new entry takes them: the lowest erase counts first. -/
def State.stripeOrder (s : State) : List Nat := Lists.sortBy (fun a b => decide (s.stripeErases a ≤ s.stripeErases b)) s.freeStripes

/-! ### Operations of the dies (17 R423, R424, R431) -/

/-- Queue an operation. -/
def State.addJob (s : State) (j : FlashJob) : State :=
  s.modFlash fun f => { f with jobs := f.jobs ++ [{ j with no := f.jobNo }], jobNo := f.jobNo + 1 }
/-- Queue operations in order. -/
def State.addJobs (s : State) (js : List FlashJob) : State := js.foldl State.addJob s
/-- Change an operation. -/
def State.modJob (s : State) (no : Nat) (f : FlashJob → FlashJob) : State :=
  s.modFlash fun x => { x with jobs := Lists.modifyIf (fun j => j.no == no) f x.jobs }
/-- Take an operation out. -/
def State.dropJob (s : State) (no : Nat) : State := s.modFlash fun x => { x with jobs := x.jobs.filter fun j => j.no != no }
/-- Whether an operation has begun: its intent is being recorded, or it is issued. One that has is never taken back, as
nothing suspends it (17 R424). -/
def FlashJob.begun (j : FlashJob) : Bool := j.issued || j.stage != .waiting
/-- Whether an operation works on a slot of the boot area. -/
def FlashJob.boot (j : FlashJob) : Bool :=
  match j.use with
  | .boot _ => true
  | .slot => true
  | _ => false
/-- Give up the operations that meet a condition and have not begun. -/
def State.dropJobs (s : State) (p : FlashJob → Bool) : State :=
  s.modFlash fun x => { x with jobs := x.jobs.filter fun j => j.begun || !p j }

/-- Erases of the blocks of a stripe that no erase waits for. -/
def State.eraseStripe (s : State) (i : Nat) : List FlashJob :=
  ((stripeBlocks i).filter fun (d, b) => !s.flash.jobs.any fun j => j.die == d && j.block == b && j.op == .erase).map fun (d, b) =>
    { die := d, block := b, op := .erase, use := .stripe }

/-- The manifest whose shards an object is receiving. -/
def WeightObj.target (w : WeightObj) : Manifest := if w.phase = .swapping then w.next.getD w.manifest else w.manifest
/-- Where those shards come from. -/
def WeightObj.targetSource (w : WeightObj) : ShardSource := if w.phase = .swapping then w.nextSource else w.source

/-- Whether the library is being read, so that no library erase is issued: a session, a local load or swap, or a refetch
(17 R424). -/
def State.libraryRead (s : State) : Bool :=
  !s.serving.isEmpty || s.weights.any fun w =>
    ((w.phase == .loading || w.phase == .swapping || w.phase == .rollingBack) && w.targetSource == .library) || !w.refetch.isEmpty

/-- A page of the boot area as it is to be written: the slice header, or the image's pages that lie in the die (17
R434). -/
def slicePage (image : Mem) (digest : BitVec 256) (d p : Nat) : List Byte :=
  if p = 0 then Bits.toBytes 64 (packBits [(0x42537160, 0), (d, 32), (digest.toNat, 256)])
  else Mem.read image ((d + 8 * (p - 1)) * pageBytes) pageBytes

/-- What a program is to write, read as it is issued; none where it cannot be read. -/
def State.jobData (s : State) (j : FlashJob) : Option FlashPage :=
  match j.use with
  | .store q p =>
    match s.flash.storing.find? fun x => x.q == q with
    | none => none
    | some x =>
      let (a, n) := pageSource x.manifest p
      match s.obj? x.ctx x.base with
      | none => none
      | some o => if (s.objPoison o a n).isSome then none else some (.bytes (s.readObj o a n))
  | .copy key => some (s.page key)
  | .boot p => some (.bytes (slicePage s.fw.staged ((s.fw.activation.map fun a => a.image.digest).getD 0) j.die p))
  | _ => none

/-- Begin or issue one operation where nothing holds it: what comes before it on its block, a busy plane, another erase of
the die, a library being read; a page of the boot area waits for the erases of the slots before it (17 R439). An erase
begins with its intent record, and is issued once that has verified (17 R431). -/
def State.tryJob (s : State) (no : Nat) : State :=
  match s.flash.jobs.find? fun j => j.no == no with
  | none => s
  | some j =>
    let before := s.flash.jobs.takeWhile fun x => x.no != no
    let free := !s.planeBusy j.die (planeOf j.block)
    let reading := j.use == .stripe && s.libraryRead
    if j.issued || before.any fun x => x.die == j.die && x.block == j.block then s
    else if j.op == .program then
      if !free || (j.boot && before.any fun x => x.use == .slot) then s
      else
        match s.jobData j with
        | some x => s.modJob no fun y => { y with issued := true, data := x }
        | none => s
    else
      match j.stage with
      | .waiting =>
        let copies := j.use == .log && ((s.flash.logs[j.die]?).map fun x => x.copies != 0).getD false
        let other := s.flash.jobs.any fun x => x.die == j.die && x.op == .erase && x.use != .swap && x.stage != .waiting
        if reading || copies || other then s else s.modJob no fun y => { y with stage := .intent }
      | .cleared =>
        let other := s.flash.jobs.any fun x => x.die == j.die && x.op == .erase && x.issued
        if reading || other || !free then s
        else
          let s := s.modJob no fun y => { y with issued := true }
          -- the first erase of a boot slot ends the old image (17 R440)
          if j.use == .slot then { s with fw := { s.fw with boot := none } } else s
      | _ => s

/-- A record of the erase journal (17 Table FW.4). -/
def journalRecord (kind die block : Nat) (seq : BitVec 64) (count : Nat) : List Byte :=
  let body := Bits.toBytes 60 (packBits [(0x4A527160, 0), (kind, 32), (die, 40), (block, 48), (seq.toNat, 64), (count % 4096, 128)])
  body ++ Bits.toBytes 4 (crc32 body)

/-- Begin to program the record that an erase needs, at a page of the active block. -/
def State.writeJournal (s : State) (d : Nat) (x : Journal) (j : FlashJob) (page : Nat) : State :=
  let intent := j.stage == .intent
  let seq := if intent then x.seq + 1 else j.seq
  let count := if intent then s.erasesOf (blockName d j.block) else j.count
  let rec_ := journalRecord (if intent then 1 else 2) d j.block seq count
  let y := { x with seq := if intent then seq else x.seq, writing := some ⟨j.no, page, rec_⟩ }
  (s.modFlash fun f => { f with journals := f.journals.setIfInBounds d y }).modJob j.no fun z => { z with seq := seq, count := count }

/-- The next record of a die's journal is programmed: in the next free page, or, once 1,022 are full, those of the other
block's erase in the last two (17 R431). -/
def State.journalTurn (s : State) (d : Nat) : State :=
  match s.flash.journals[d]? with
  | none => s
  | some x =>
    if x.writing.isSome || s.isRetired d x.active || s.planeBusy d (planeOf x.active) then s
    else
      let wants := s.flash.jobs.filter fun j => j.die == d && (j.stage == .intent || j.stage == .completing)
      match wants.find? fun j => j.use == .swap with
      | some j => s.writeJournal d x j (if j.stage == .intent then 1022 else 1023)
      | none =>
        match wants.head? with
        | none => s
        | some j =>
          if x.used < 1022 then s.writeJournal d { x with used := x.used + 1 } j x.used
          else if s.flash.jobs.any fun y => y.die == d && y.use == .swap then s
          else
            let k : FlashJob := { no := s.flash.jobNo, die := d, block := x.other, op := .erase, use := .swap, stage := .intent }
            (s.addJob k).writeJournal d x k 1022

/-- The block of a die's records log is full: the next one is written, the live records first, and the full one, which is
then the oldest, is erased (17 R429). -/
def State.logAdvance (s : State) (d : Nat) (x : LogDie) : State :=
  let live := (s.liveLog d).map fun y => y.2
  let y := { x with blocks := x.blocks.drop 1 ++ x.blocks.take 1, next := 0, copies := live.length, queue := live ++ x.queue }
  (s.modFlash fun f => { f with logs := f.logs.setIfInBounds d y }).addJob { die := d, block := x.block, op := .erase, use := .log }

/-- The next record of a die's log is programmed. -/
def State.logTurn (s : State) (d : Nat) : State :=
  match s.flash.logs[d]? with
  | none => s
  | some x =>
    if x.dead || x.writing.isSome || x.queue.isEmpty then s
    else
      let next := (x.blocks.drop 1).headD 6
      if 1024 ≤ x.next && ((s.flash.holds (blockName d next)) || s.flash.jobs.any fun j => j.die == d && j.block == next) then s
      else
        let s := if 1024 ≤ x.next then s.logAdvance d x else s
        match s.flash.logs[d]? with
        | none => s
        | some y =>
          match y.queue with
          | [] => s
          | r :: _ =>
            if s.planeBusy d (planeOf y.block) then s
            else s.modFlash fun f => { f with logs := f.logs.setIfInBounds d { y with writing := some r } }

/-- The store core issues what it may. A restart holds new operations back, and below Lull none is issued. -/
def State.issueFlash (s : State) : State :=
  if s.restarting storeIsland || !s.stacksRun then s
  else
    let s := (s.flash.jobs.map (·.no)).foldl State.tryJob s
    let s := (List.range 8).foldl State.journalTurn s
    (List.range 2).foldl State.logTurn s

/-- Leave stripes dirty: the store core erases them and returns them to the free list (17 R428, R430). -/
def State.leaveDirty (s : State) (is : List Nat) : State :=
  let left := is.filter fun i => !s.flash.withdrawn.contains i
  let s := (s.modFlash fun f => { f with dirty := f.dirty ++ left.filter fun i => !f.dirty.contains i }).dropJobs fun j =>
    libraryBlock j.block && left.contains (j.block / 4)
  left.foldl (fun st i => st.addJobs (st.eraseStripe i)) s

/-- Queue the pages of an entry that lie in its stripe of a position, after an erase where the stripe holds old pages. -/
def State.writeStripe (s : State) (q : Req) (m : Manifest) (pos i : Nat) : State :=
  let s := if s.flash.written i then s.addJobs (s.eraseStripe i) else s
  let pages := (entryPages m).filter fun p => p / 32768 == pos
  s.addJobs (pages.map fun p =>
    let k := stripeKey i (p % 32768)
    { die := keyDie k, block := keyBlock k, page := k % 1024, op := .program, use := .store q p })

/-- Queue the copy of a stripe's pages to another. -/
def State.writeCopy (s : State) (src dst : Nat) : State :=
  let s := if s.flash.written dst then s.addJobs (s.eraseStripe dst) else s
  let pages := s.flash.pages.filter fun e => keyBlock e.1 / 4 == src
  s.addJobs (pages.map fun e =>
    { die := keyDie e.1, block := 4 * dst + keyBlock e.1 % 4, page := e.1 % 1024, op := .program, use := .copy e.1 })

/-- Begin to copy a stripe of the library to the free stripe with the lowest erase count (17 R425). -/
def State.startCopy (s : State) (i : Nat) : State :=
  if !(s.library.any fun e => e.stripes.contains i) || s.flash.copying.any fun c => c.src == i then s
  else
    match s.stripeOrder with
    | [] => s
    | k :: _ => ((s.modFlash fun f => { f with copying := f.copying ++ [⟨i, k⟩], freed := f.freed.filter (· != k) }).writeCopy i k).issueFlash

/-- Copy the stripes of which a read needed more than 48 corrections in some 1 KiB. -/
def State.copyWorn (s : State) (errors : List (Nat × Nat)) : State :=
  ((errors.filterMap fun (k, e) => if 48 < e && libraryBlock (keyBlock k) then some (keyBlock k / 4) else none).eraseDups).foldl State.startCopy s

end Sys2Proof.Machine
end

