-- ==== Sys2Proof/Machine/Capacity.lean ====
section
/-! DEFINITION. Capacity: which units are taken, what is charged to whom, allocation and its eviction, and the dropping
and recompute queue of key-value pages (07 R159, R163 to R171; 09 R203, R204, R208, R223 to R226). -/

namespace Sys2Proof.Machine

/-! ### The shape of a sequence (09 R203, R204, R237) -/

/-- Head dimension (09 Table KV.1). -/
def SeqShape.dim (x : SeqShape) : Nat := 16 * (x.hd.toNat + 1)
/-- Parts of a format: keys, values and, in the paired formats, codes (09 R203). -/
def SeqShape.parts (x : SeqShape) : Nat := if 4 ≤ x.kvFmt.toNat then 3 else 2
/-- Bytes per position per head of a part (09 Table KV.2). -/
def SeqShape.e (x : SeqShape) (part : Nat) : Nat :=
  match x.kvFmt.toNat, part with
  | 2, 1 => x.dim / 2
  | 4, 2 => 32
  | 5, 1 => 64
  | 5, 2 => 32
  | 6, 2 => 32
  | _, _ => x.dim
/-- Positions per page of a part: the largest power of two that does not exceed 65,536 / e. -/
def SeqShape.perPage (x : SeqShape) (part : Nat) : Nat := 2 ^ Nat.log2 (65536 / x.e part)
/-- Heads held on this device, H (09 R237). -/
def SeqShape.localHeads (x : SeqShape) : Nat :=
  if x.layout then x.heads.toNat
  else ((List.range x.heads.toNat).filter fun h => h % 2 ^ x.memberLog2.toNat == x.rank.toNat).length
/-- Lanes, N = layers x H (09 R204). -/
def SeqShape.lanes (x : SeqShape) : Nat := x.layers.toNat * x.localHeads
/-- The length limit L_max (09 R205). -/
def SeqShape.limit (x : SeqShape) : Nat :=
  if x.lanes = 0 then 4194304
  else (List.range x.parts).foldl (fun m i => min m (4194304 / x.lanes * x.perPage i)) 4194304
/-- The number of the page that holds a position of a lane of a part (09 R204). -/
def SeqShape.pageNo (x : SeqShape) (part lane t : Nat) : Nat := part * 4194304 + t / x.perPage part * x.lanes + lane
/-- The first page of the log lane. -/
def logLane : Nat := 3 * 4194304
/-- The part of a page; 3 is the log lane. -/
def partOf (n : Nat) : Nat := n / 4194304
/-- The first position of a page of parts 0 to 2. -/
def SeqShape.firstPos (x : SeqShape) (n : Nat) : Nat := n % 4194304 / x.lanes * x.perPage (partOf n)
/-- The first token entry of a log page: bytes 0 to 255 of the first hold the global list (09 R206). -/
def logFirst (n : Nat) : Nat := if n = logLane then 0 else ((n - logLane) * 65536 - 256) / 4
/-- The log page that holds token t. -/
def logPage (t : Nat) : Nat := logLane + (256 + 4 * t) / 65536
/-- The cluster, among n, of a page of parts 0 to 2: that of its global head (09 R207). -/
def SeqShape.pageCluster (x : SeqShape) (n page : Nat) : Nat :=
  let local_ := if x.localHeads = 0 then 0 else page % 4194304 % x.lanes % x.localHeads
  let head := if x.layout then local_ else local_ * 2 ^ x.memberLog2.toNat + x.rank.toNat
  head % n

/-- A sequence by its number (09 R201). -/
def State.seq? (s : State) (no : BitVec 32) : Option Seq :=
  s.seqs.find? fun x => x.index == no.toNat % 1048576 && x.gen.toNat == no.toNat / 1048576
/-- The number of a sequence. -/
def Seq.no (x : Seq) : BitVec 32 := BitVec.ofNat 32 (x.gen.toNat * 1048576 + x.index)
/-- Change a sequence. -/
def State.modSeq (s : State) (index : Nat) (f : Seq → Seq) : State :=
  { s with seqs := Lists.modifyIf (fun x => x.index == index) f s.seqs }
/-- Whether a sequence holds a dropped page. -/
def Seq.incomplete (x : Seq) : Bool := x.pages.any (·.dropped)
/-- How many pages are dropped. -/
def Seq.dropCount (x : Seq) : Nat := (x.pages.filter (·.dropped)).length
/-- Insert a page in ascending number, or replace it. -/
def putPage (g : Page) : List Page → List Page
  | [] => [g]
  | x :: xs => if g.no < x.no then g :: x :: xs else if g.no = x.no then g :: xs else x :: putPage g xs
/-- A page by its number. -/
def Seq.page? (x : Seq) (n : Nat) : Option Page := x.pages.find? fun g => g.no == n

/-- Whether a page lies in the local window of an open sequence (09 R223). -/
def Seq.inWindow (x : Seq) (g : Page) : Bool :=
  x.state == .opened && x.w != 0 && partOf g.no < 3 &&
    x.shape.firstPos g.no < x.c && x.c < x.shape.firstPos g.no + x.shape.perPage (partOf g.no) + x.w.toNat

/-! ### Units in use (07 R152, R166) -/

/-- Sequences of a partition. -/
def State.seqsOf (s : State) (p : Nat) : List Seq := s.seqs.filter fun x => ptnOf x.ctx == p

/-- Units of tier-1 taken in a cluster, as first unit and length: regions that are unusable or out of service, the
reserve, objects, pages, samples and the destinations of migrations and refetches. -/
def State.taken (s : State) (tier cluster : Nat) : List (Nat × Nat) :=
  let at_ := fun (pl : Place) (k : Nat) => if pl.tier = tier ∧ pl.cluster = cluster then [(pl.unit, k)] else []
  let objs := s.objs.flatMap fun o => o.tiles.flatMap fun t => at_ t.place (tileUnits o.desc)
  let mig := s.migrations.flatMap fun m =>
    match s.obj? m.ctx m.base with
    | some o => at_ m.dest (tileUnits o.desc)
    | none => []
  if tier = 0 then objs ++ mig
  else
    let regions := (List.range 4).flatMap fun r =>
      if s.memc.regions.getLsbD r && (r < 3 || !s.memc.policy) then [] else [(r * regionUnits, regionUnits)]
    let pages := fun (gs : List Page) => gs.flatMap fun g =>
      if g.cluster = cluster ∧ !g.dropped then [(g.unit, 1)] else []
    let reserve := s.ptnNos.flatMap fun p =>
      match s.ptn? p with
      | some x => if x.low = cluster then [(x.reserve, x.n * 64 + 4 * (x.share / 4096))] else []
      | none => []
    let samples := s.ptnNos.flatMap fun p =>
      match s.ptn? p with
      | some x => x.records.flatMap fun r => r.units.flatMap fun (c, u) => if c = cluster then [(u, 1)] else []
      | none => []
    let refetch := s.weights.flatMap fun w => w.refetch.flatMap fun x => at_ x.dest 32
    regions ++ objs ++ mig ++ refetch ++ samples ++ reserve ++ s.seqs.flatMap (fun x => pages x.pages) ++
      s.handles.flatMap fun h => pages h.pages

/-- The lowest free run of k units of a cluster's tier, aligned to align units (log entry 14). -/
def State.freeUnit (s : State) (tier cluster k align : Nat) : Option Nat :=
  let used := s.taken tier cluster
  let fits := fun (u : Nat) => u + k ≤ tierUnits tier && used.all fun (a, n) => u + k ≤ a || a + n ≤ u
  let cands := 0 :: used.map fun (a, n) => Bits.roundUp (a + n) align
  (cands.filter fits).min?

/-! ### Charges (07 R167) -/

/-- The units behind a handle that are charged to it: its pages that no older handle holds (log entry 22). -/
def ownPages (older : List Handle) (h : Handle) : Nat :=
  (h.pages.filter fun g => !g.dropped && !(older.any fun o => o.pages.any fun y =>
    !y.dropped && y.cluster == g.cluster && y.unit == g.unit)).length

/-- The units of the handles that meet p, each page counted once. -/
def handleUnits (p : Handle → Bool) : List Handle → List Handle → Nat
  | _, [] => 0
  | older, h :: hs => (if p h then ownPages older h else 0) + handleUnits p (older ++ [h]) hs

/-- The tier-1 units of pages charged to a context: its own unshared pages, and the pages it registered. -/
def State.pageCharge (s : State) (c : CtxNo) : Nat :=
  let own := s.seqs.foldl (fun n x =>
    if x.ctx = c then n + (x.pages.filter fun g => !g.dropped && !g.shared).length else n) 0
  own + handleUnits (fun h => h.ctx == c && !h.ended) [] s.handles

/-- The charge of a context in a tier, in units. -/
def State.ctxCharge (s : State) (c : CtxNo) (tier : Nat) : Nat :=
  let tiles := s.objs.foldl (fun n o =>
    if o.ctx = c then n + (o.tiles.filter fun t => t.place.tier == tier).length * tileUnits o.desc else n) 0
  if tier = 0 then tiles else tiles + s.pageCharge c

/-- The charge of a partition in a tier: its contexts, its samples, and handles of contexts that have ended (01 R26). -/
def State.charge (s : State) (p tier : Nat) : Nat :=
  let ctxs := (s.ctxsOf p).foldl (fun n x => n + s.ctxCharge x.no tier) 0
  if tier = 0 then ctxs
  else
    let samples := match s.ptn? p with
      | some x => x.records.foldl (fun n r => n + r.units.length) 0
      | none => 0
    let ended := handleUnits (fun h => h.ptn == p && h.ended) [] s.handles
    ctxs + samples + ended

/-- The quota of a partition in a tier. -/
def State.quota (s : State) (p tier : Nat) : Nat :=
  match s.ptn? p with
  | some x => if tier = 0 then x.live.tier0 else x.live.tier1
  | none => 0

/-- The limit of a context in a tier: CTX.LIMIT's, or the quota (07 R169). -/
def State.ctxLimit (s : State) (c : CtxNo) (tier : Nat) : Nat :=
  match s.ctx? c with
  | some x => (if tier = 0 then x.limT0 else x.limT1).getD (s.quota (ptnOf c) tier)
  | none => 0

/-- Whether a partition is in privileged pool mode (07 R170). -/
def State.pooled (s : State) (p : Nat) : Bool := ((s.ptn? p).map (·.live.pool)).getD false

/-- Whether a partition, or the context, is over quota, so that every allocation fails (07 R171, R175); a partition in
pool mode applies no limit of a context (R170). -/
def State.overQuota (s : State) (p : Nat) (c : Option CtxNo) : Bool :=
  ((s.ptn? p).map fun x => x.overT0 || x.overT1).getD false ||
    (!s.pooled p && match c with
    | some c => ((s.ctx? c).map (·.overLimit)).getD false
    | none => false)

/-- Units that a partition's migrations under way carry from one tier to the other; of one context where it is named. -/
def State.carried (s : State) (p : Nat) (c : Option CtxNo) (from_ : Nat) : Nat :=
  (s.migrations.filter fun m => ptnOf m.ctx == p && c.all (· == m.ctx)).foldl (fun n m =>
    match (s.obj? m.ctx m.base).bind fun o => (o.tiles[m.tile]?).map fun t => (o, t) with
    | some (o, t) => if t.place.tier = from_ ∧ m.dest.tier ≠ from_ then n + tileUnits o.desc else n
    | none => n) 0

/-- Whether k units more would keep within quota and limit (07 R169), what migrations under way bring into the tier
included; a partition in pool mode applies no limit of a context. -/
def State.within (s : State) (p : Nat) (c : Option CtxNo) (tier k : Nat) : Bool :=
  s.charge p tier + s.carried p none (1 - tier) + k ≤ s.quota p tier &&
    (s.pooled p || match c with
      | some c => s.ctxCharge c tier + s.carried p (some c) (1 - tier) + k ≤ s.ctxLimit c tier
      | none => true)

/-- Whether a unit of tier 1 lies in a region that is out of service or holds no allocation (08 R197). -/
def State.unitOut (s : State) (unit : Nat) : Bool :=
  let r := unit / regionUnits
  !s.memc.regions.getLsbD r || (r == 3 && s.memc.policy)

/-- Units charged to a partition that lie in regions out of service (08 R197). -/
def State.stranded (s : State) (p : Nat) : Nat :=
  let tiles := (s.objs.filter fun o => ptnOf o.ctx == p).foldl (fun n o =>
    n + (o.tiles.filter fun t => t.place.tier == 1 && s.unitOut t.place.unit).length * tileUnits o.desc) 0
  (s.seqs.filter fun x => ptnOf x.ctx == p).foldl (fun n x =>
    n + (x.pages.filter fun g => !g.dropped && s.unitOut g.unit).length) tiles

/-- Leave the over-quota state where the charge lies within both quotas (07 R171), and a context's where it lies within
its limits (07 R175); residual excess that is freed is reported no more (07 R172). -/
def State.quotaClear (s : State) (p : Nat) : State :=
  match s.ptn? p with
  | none => s
  | some x =>
    let r0 := min x.residT0.toNat (s.charge p 0 - s.quota p 0)
    let r1 := min x.residT1.toNat (max (s.charge p 1 - s.quota p 1) (s.stranded p))
    let t := s.modPtn p fun y => { y with residT0 := BitVec.ofNat 12 r0, residT1 := BitVec.ofNat 23 r1 }
    let t := if (x.overT0 || x.overT1) && !x.reclaiming && s.charge p 0 ≤ s.quota p 0 && s.charge p 1 ≤ s.quota p 1 then
        (t.modPtn p fun y => { y with overT0 := false, overT1 := false }).event (.ctx (mgmt p)) 0x0022 0xFFF 0 0
      else t
    (s.ctxsOf p).foldl (fun st c =>
      if c.overLimit && !c.reclaiming && s.ctxCharge c.no 0 ≤ s.ctxLimit c.no 0 && s.ctxCharge c.no 1 ≤ s.ctxLimit c.no 1 then
        (st.modCtx c.no fun z => { z with overLimit := false }).event (.ctx (mgmt p)) 0x0022 c.no.toNat 0 0
      else st) t

/-! ### Tree nodes (09 R208, 07 R166) -/

/-- Distinct values of n / 2^sh, in the order in which they first come. -/
def distinctKeys (sh : Nat) (ns : List Nat) : List Nat := (ns.map fun n => n / 2 ^ sh).eraseDups

/-- The space of a context's object range, beside those of the sequences, which are their directory indices. -/
def objSpace (c : CtxNo) : Nat := 1048576 + c.toNat

/-- The granules that a context's objects map, in steps that meet every node. -/
def State.granules (s : State) (c : CtxNo) : List Nat :=
  (s.objs.filter fun o => o.ctx == c).flatMap fun o =>
    (List.range o.tiles.length).map fun i => (o.desc.vbase.toNat + i * tileBytes o.desc) / 65536

/-- The nodes that a space needs: its root, and the mid and leaf nodes of the numbers that it maps (09 Table KV.3). -/
def nodesOf (space : Nat) (ns : List Nat) : List (Nat × Nat × Nat) :=
  (space, 0, 0) :: ((distinctKeys 18 ns).map fun k => (space, 1, k)) ++ (distinctKeys 9 ns).map fun k => (space, 2, k)

/-- The nodes that the trees of a partition need. -/
def State.nodesNeeded (s : State) (p : Nat) : List (Nat × Nat × Nat) :=
  (s.ctxsOf p).flatMap (fun c => nodesOf (objSpace c.no) (s.granules c.no)) ++
    (s.seqsOf p).flatMap fun x => nodesOf x.index (x.pages.map (·.no))

/-- Whether a partition's node pool of n x 64 units of 16 nodes holds its trees (07 R166). -/
def State.nodesFit (s : State) (p : Nat) : Bool :=
  match s.ptn? p with
  | some x => (s.nodesNeeded p).length ≤ x.n * 64 * 16
  | none => false

/-- Whether a node stands for a needed one. -/
def TreeNode.is (y : TreeNode) (n : Nat × Nat × Nat) : Bool := y.space == n.1 && y.level == n.2.1 && y.key == n.2.2

/-- Give a node a place of the pool: a free value where that place is unused, else the lowest unused one (log entry 3). -/
def TreeNode.choose (tree : List TreeNode) (total want : Nat) : Nat :=
  let used := tree.map (·.place)
  if total = 0 then 0
  else if used.contains (want % total) then ((List.range (used.length + 1)).find? fun i => !used.contains i).getD 0
  else want % total

/-- Lay a partition's trees out in its node pool: nodes that are needed no more are freed, and new ones get places (09
R208). -/
def State.layNodes (s : State) (p : Nat) : State :=
  match s.ptn? p with
  | none => s
  | some x =>
    let needed := s.nodesNeeded p
    let kept := x.tree.filter fun y => needed.any y.is
    let fresh := needed.filter fun n => !(kept.any fun y => y.is n)
    let add := fun (acc : State × List TreeNode) (n : Nat × Nat × Nat) =>
      let (v, t) := acc.1.takeFree
      (t, acc.2 ++ [⟨n.1, n.2.1, n.2.2, TreeNode.choose acc.2 (x.n * 64 * 16) v.toNat⟩])
    let (s, tree) := fresh.foldl add (s, kept)
    s.modPtn p fun y => { y with tree := tree }

/-- Where a node of a partition lies: unit of its lowest cluster, and node within the unit. -/
def Partition.nodePlace (x : Partition) (space level key : Nat) : Option (Nat × Nat) :=
  (x.tree.find? fun y => y.is (space, level, key)).map fun y => (x.reserve + y.place / 16, y.place % 16)

/-- Invalidate leaf entries of a space in the caches of a partition's clusters (09 R211). -/
def State.invalidate (s : State) (p space : Nat) (hit : Nat → Bool) : State :=
  match s.ptn? p with
  | none => s
  | some x =>
    let cut := fun (i : Nat) (y : PageCache) =>
      if x.low ≤ i && i < x.low + x.n then { y with leaves := y.leaves.filter fun e => !(e.1 == space && hit e.2.1) } else y
    { s with caches := s.caches.mapFinIdx fun i y _ => cut i y }

/-! ### Candidates and dropping (07 R164, R165; 09 R223, R224, R226) -/

/-- The objects that a run binds (07 R164): its image, its list and the objects of the list, and the result object of a
step. -/
def Run.binds (r : Run) : List (BitVec 42) :=
  r.image :: r.args.list :: r.objs ++ if r.isStep && r.args.result != 0 then [r.args.result] else []

/-- The objects that a partition's run in progress binds. -/
def State.boundObjs (s : State) (p : Nat) : List (CtxNo × BitVec 42) :=
  match s.ptn? p with
  | none => []
  | some x =>
    match x.run with
    | none => []
    | some r => r.binds.map fun b => (r.ctx, b)

/-- Whether the run in progress of a partition, or a run that waits to be settled (16 R405), binds a sequence. -/
def State.seqBound (s : State) (x : Seq) : Bool :=
  match s.ptn? (ptnOf x.ctx) with
  | none => false
  | some pt => (pt.run.toList ++ pt.settling).any fun r => r.slots.any fun sl => sl.seq == x.no

/-- Whether two pages are one unit. -/
def Page.same (g h : Page) : Bool := g.cluster == h.cluster && g.unit == h.unit

/-- Whether a page lies behind a prefix handle that has not been released (07 R165). -/
def State.behindHandle (s : State) (g : Page) : Bool :=
  s.handles.any fun h => !h.released && h.pages.any fun y => !y.dropped && y.same g

/-- The sequences that map a shared page. -/
def State.mappersOf (s : State) (g : Page) : List Seq :=
  if g.shared then s.seqs.filter fun x => x.pages.any fun y => y.shared && !y.dropped && y.same g else []

/-- Whether a page may be dropped (07 R165) but for the run in progress: mapped, of parts 0 to 2, not tentative, behind no
handle, and outside the window of every sequence that maps it. -/
def State.spared (s : State) (x : Seq) (g : Page) : Bool :=
  g.dropped || g.keep || g.tentative || 3 ≤ partOf g.no || x.inWindow g || (g.shared && s.behindHandle g) ||
    (s.mappersOf g).any fun y => y.inWindow g

/-- Whether the run in progress binds a sequence that maps a page. -/
def State.pageBound (s : State) (x : Seq) (g : Page) : Bool := s.seqBound x || (s.mappersOf g).any s.seqBound

/-- Whether a page is a droppable candidate (07 R165). -/
def State.droppable (s : State) (x : Seq) (g : Page) : Bool := !s.spared x g && !s.pageBound x g

/-- Sequences in age order (09 R223): stamp, context, directory index. -/
def seqOlder (a b : Seq) : Bool :=
  a.stamp.toNat < b.stamp.toNat ||
    (a.stamp == b.stamp && (a.ctx.toNat < b.ctx.toNat || (a.ctx == b.ctx && a.index ≤ b.index)))

/-- Droppable pages in age order, of a partition's contexts that meet p. -/
def State.dropOrder (s : State) (pt : Nat) (ok : Seq → Page → Bool) : List (Nat × Page) :=
  (Lists.sortBy seqOlder (s.seqsOf pt)).flatMap fun x =>
    (x.pages.filter fun g => s.droppable x g && ok x g).map fun g => (x.index, g)

/-- Q and S of a sequence's recompute grid (09 R226). -/
def SeqShape.gridQ (x : SeqShape) : Nat := (List.range x.parts).foldl (fun m i => max m (x.perPage i)) 1
/-- Positions of a chunk of the grid. -/
def SeqShape.gridS (x : SeqShape) : Nat := 8192 / x.gridQ * x.gridQ

/-- Whether chunk j of the grid holds a dropped position below c. -/
def Seq.chunkDropped (x : Seq) (j : Nat) : Bool :=
  let lo := j * x.shape.gridS
  let hi := min (lo + x.shape.gridS) x.c
  x.pages.any fun g => g.dropped && partOf g.no < 3 &&
    x.shape.firstPos g.no < hi && lo < x.shape.firstPos g.no + x.shape.perPage (partOf g.no)

/-- Whether chunk a stands before chunk b in a queue: sequences in age order, positions ascending. -/
def State.chunkBefore (s : State) (a b : Chunk) : Bool :=
  if a.seq = b.seq then a.t0 ≤ b.t0
  else
    match s.seq? a.seq, s.seq? b.seq with
    | some x, some y => seqOlder x y
    | _, _ => false

/-- Queue the recompute chunks of a sequence's dropped positions (09 R226): its chunks in the queue are laid out anew. -/
def State.queueRecompute (s : State) (index : Nat) : State :=
  match s.seqs.find? fun x => x.index == index with
  | none => s
  | some x =>
    let n := if x.shape.gridS = 0 then 0 else Bits.ceilDiv x.c x.shape.gridS
    let s := s.modPtn (ptnOf x.ctx) fun pt => { pt with recompute := pt.recompute.filter fun ch => ch.seq != x.no }
    (List.range n).foldl (fun st j =>
      if x.chunkDropped j then
        let ch : Chunk := ⟨x.no, j * x.shape.gridS, min x.shape.gridS (x.c - j * x.shape.gridS)⟩
        st.modPtn (ptnOf x.ctx) fun pt => { pt with recompute := Lists.insertBy st.chunkBefore ch pt.recompute }
      else st) s

/-- Put a chunk back into its partition's queue in front of the chunks that stood behind it (10 R246). -/
def State.putChunk (s : State) (p : Nat) (ch : Chunk) (behind : List Chunk) : State :=
  let put := fun (qs : List Chunk) =>
    let rest := qs.filter fun y => !(y.seq == ch.seq && y.t0 == ch.t0)
    rest.takeWhile (fun y => !behind.contains y) ++ ch :: rest.dropWhile fun y => !behind.contains y
  s.modPtn p fun pt => { pt with recompute := put pt.recompute }

/-- Write bytes into a page of a sequence that is present. -/
def State.writePage (s : State) (g : Page) (off : Nat) (bs : List Byte) : State :=
  s.writeTier 1 g.cluster (g.unit * unitBytes + off) bs

/-- Bytes of a page. -/
def State.readPage (s : State) (g : Page) (off n : Nat) : List Byte :=
  s.readTier 1 g.cluster (g.unit * unitBytes + off) n

/-- Copy a page's unit to another, its poison with it; the keeper's reports on it name the copy too (08 R191, R193). -/
def State.copyPage (s : State) (g h : Page) : State :=
  (s.writePage h 0 (s.readPage g 0 unitBytes)).copyPoison (poisonLineOf 1 g.cluster (g.unit * unitBytes))
    (poisonLineOf 1 h.cluster (h.unit * unitBytes)) (unitBytes / 64)

/-- A present page of a sequence. -/
def Seq.present? (x : Seq) (n : Nat) : Option Page := (x.page? n).filter fun g => !g.dropped

/-- Log entry t of a sequence (09 R206); 0 where its page is not present. -/
def State.logEntry (s : State) (x : Seq) (t : Nat) : Nat :=
  match x.present? (logPage t) with
  | some g => Bits.ofBytes (s.readPage g ((256 + 4 * t) % 65536) 4)
  | none => 0

/-- Whether a recompute chunk of a sequence needs a log page that is poisoned, or an input object that is gone (09
R228). -/
def State.inputsGone (s : State) (x : Seq) : Bool :=
  let n := if x.shape.gridS = 0 then 0 else Bits.ceilDiv x.c x.shape.gridS
  (List.range n).any fun j =>
    x.chunkDropped j && (List.range (min x.shape.gridS (x.c - j * x.shape.gridS))).any fun i =>
      let t := j * x.shape.gridS + i
      let bad := match x.present? (logPage t) with
        | some g => (s.poisonIn 1 g.cluster (g.unit * unitBytes) unitBytes).isSome
        | none => false
      let e := s.logEntry x t
      bad || (e / 2 ^ 30 == 1 && !(s.obj? x.ctx x.input).any fun o => Config.inputRow o.size (e % 2 ^ 30))

/-- A sequence whose recompute inputs are gone becomes lost, with EV_KV_LOST. -/
def State.loseIfGone (s : State) (index : Nat) : State :=
  match s.seqs.find? fun x => x.index == index with
  | none => s
  | some x =>
    if x.state == .opened && x.incomplete && s.inputsGone x then
      let s := s.modSeq index fun y => { y with state := .lost }
      let s := s.modPtn (ptnOf x.ctx) fun pt => { pt with recompute := pt.recompute.filter fun ch => ch.seq != x.no }
      s.event (.ctx x.ctx) 0x0042 x.no.toNat 0 0
    else s

/-- Drop pages of one sequence (09 R224): the entries' valid bits fall, the units and charges are freed, the event names
the count, recompute is queued, and a sequence whose recompute inputs are gone becomes lost. -/
def State.dropOwn (s : State) (index : Nat) (nos : List Nat) : State :=
  match s.seqs.find? fun x => x.index == index with
  | none => s
  | some x =>
    let hit := (x.pages.filter fun g => nos.contains g.no && !g.dropped).length
    if hit = 0 then s
    else
      let mark := fun (g : Page) => if nos.contains g.no then { g with dropped := true, shared := false } else g
      let s := s.modSeq index fun y => { y with pages := y.pages.map mark }
      let s := (s.invalidate (ptnOf x.ctx) index nos.contains).count x.ctx 30 hit
      let s := s.event (.ctx x.ctx) 0x0040 x.no.toNat hit 0
      (s.queueRecompute index).loseIfGone index

/-- Drop pages of a sequence; a shared one in every sequence that maps it, and behind its handles (09 R236). The freed
units may leave the partition within its quotas (07 R171). -/
def State.dropPages (s : State) (index : Nat) (nos : List Nat) : State :=
  match s.seqs.find? fun x => x.index == index with
  | none => s
  | some x =>
    let gone := x.pages.filter fun g => nos.contains g.no && !g.dropped && g.shared
    let hit := fun (g : Page) => g.shared && !g.dropped && gone.any g.same
    let others := s.seqs.filter fun y => y.index != index && y.pages.any hit
    let s := others.foldl (fun st y => st.dropOwn y.index ((y.pages.filter hit).map (·.no))) (s.dropOwn index nos)
    let mark := fun (g : Page) => if gone.any g.same then { g with dropped := true } else g
    let s := if gone.isEmpty then s else { s with handles := s.handles.map fun h => { h with pages := h.pages.map mark } }
    s.quotaClear (ptnOf x.ctx)

/-! ### Shared pages (09 R236) -/

/-- Whether some sequence maps a page of a handle. -/
def State.mapped (s : State) (g : Page) : Bool :=
  s.seqs.any fun x => x.pages.any fun y => y.shared && !y.dropped && y.cluster == g.cluster && y.unit == g.unit

/-- Free the pages of released handles that no sequence maps (09 R236). -/
def State.settleHandles (s : State) : State :=
  { s with handles := s.handles.filterMap fun h =>
      if h.released then
        let left := h.pages.filter fun g => !g.dropped && s.mapped g
        if left.isEmpty then none else some { h with pages := left }
      else some h }

/-- Whether a shared page is held by a handle or a sequence. -/
def State.shareHeld (s : State) (g : Page) : Bool :=
  s.mapped g || s.handles.any fun h => h.pages.any fun y => !y.dropped && y.cluster == g.cluster && y.unit == g.unit

/-! ### Poisoned pages (08 R193, 09 R228) -/

/-- Drop a page wherever it is mapped, log pages excepted; a sequence whose recompute inputs are gone becomes lost (09
R228). -/
def State.pagePoisoned (s : State) (cluster unit : Nat) : State :=
  let here := fun (g : Page) => !g.dropped && g.cluster == cluster && g.unit == unit
  let mapping := s.seqs.filter fun x => x.pages.any here
  let drop := fun (g : Page) => if here g && partOf g.no < 3 then { g with dropped := true } else g
  let handle := fun (h : Handle) => { h with pages := h.pages.map drop }
  let s := mapping.foldl (fun st x => st.dropPages x.index ((x.pages.filter fun g => here g && partOf g.no < 3).map (·.no))) s
  let s := { s with handles := s.handles.map handle }
  s.ptnNos.foldl State.quotaClear (mapping.foldl (fun st x => st.loseIfGone x.index) s)

/-- Whether the run in progress binds a sequence that maps a page of parts 0 to 2 in a unit: its drop waits until that run
ends (09 R228). -/
def State.pageHeld (s : State) (cluster unit : Nat) : Bool :=
  s.seqs.any fun x => s.seqBound x && x.pages.any fun g =>
    !g.dropped && g.cluster == cluster && g.unit == unit && partOf g.no < 3

/-- Act on the reported lines of pages that a run held: the drop is made as the run ends (09 R228). -/
def State.dropHeld (s : State) (p : Nat) : State :=
  match s.ptn? p with
  | none => s
  | some x =>
    let hits := s.poisonReports.filterMap fun l =>
      let cluster := l / (clusterSpan / 64)
      let unit := l % (clusterSpan / 64) * 64 / unitBytes
      let mapped := s.seqs.any fun y => y.pages.any fun g => !g.dropped && g.cluster == cluster && g.unit == unit && partOf g.no < 3
      if x.low ≤ cluster && cluster < x.low + x.n && mapped && !s.pageHeld cluster unit then some (l, cluster, unit) else none
    hits.foldl (fun st (l, cluster, unit) =>
      ({ st with poisonReports := st.poisonReports.filter fun y => y != l } : State).pagePoisoned cluster unit) s

/-! ### Ends of runs (07 R164, 09 R223) -/

/-- Raise the stamps of a run's sequences and the last use of its objects' tiles to the beat count, as the run ends. -/
def State.stampRun (s : State) (p : Nat) (r : Run) : State :=
  if !r.admitted then s
  else
    let now_ := ((s.ptn? p).map (·.beat.count)).getD 0
    let s := r.slots.foldl (fun st sl => match st.seq? sl.seq with
      | some x => st.modSeq x.index fun y => { y with stamp := now_ }
      | none => st) s
    r.binds.eraseDups.foldl (fun st b =>
      st.modObj r.ctx b fun o => { o with tiles := o.tiles.map fun t => { t with lastUse := now_ } }) s

/-! ### Migration (07 R161) -/

/-- Whether a loaded image lies in an object. -/
def State.loaded (s : State) (c : CtxNo) (base : BitVec 42) : Bool := s.images.any fun i => i.ctx == c && i.base == base

/-- Whether a tile is being migrated. -/
def State.migrating (s : State) (c : CtxNo) (base : BitVec 42) (i : Nat) : Bool :=
  s.migrations.any fun m => m.ctx == c && m.base == base && m.tile == i

/-- Whether any tile of an object is being migrated. -/
def State.objMigrates (s : State) (c : CtxNo) (base : BitVec 42) : Bool := s.migrations.any fun m => m.ctx == c && m.base == base

/-- Start a migration: the copy is made, and the translation switches at the partition's next boundary. -/
def State.startMigration (s : State) (c : CtxNo) (base : BitVec 42) (i : Nat) (dest : Place) : State :=
  { s with migrations := s.migrations ++ [⟨c, base, i, dest⟩] }

/-- Give up the migrations of an object that meet a condition: its tiles stay where they lie. -/
def State.cancelMigrations (s : State) (c : CtxNo) (base : BitVec 42) (p : Migration → Bool) : State :=
  { s with migrations := s.migrations.filter fun m => !(m.ctx == c && m.base == base && p m) }

/-- The oldest tier-0 tiles of a partition first (07 R164): of objects that are not pinned, not loaded images and not
bound to the run in progress (R165), and that no migration moves. -/
def State.oldestTiles (s : State) (p : Nat) : List (Obj × ResTile × Nat) :=
  let bound := s.boundObjs p
  let mine := s.objs.filter fun o => ptnOf o.ctx == p && !o.desc.pin && !s.loaded o.ctx o.desc.vbase &&
    !bound.contains (o.ctx, o.desc.vbase)
  let tiles := mine.flatMap fun o =>
    (o.tiles.zipIdx.filter fun (t, i) => t.place.tier == 0 && !s.migrating o.ctx o.desc.vbase i).map fun (t, i) => (o, t, i)
  let key := fun (x : Obj × ResTile × Nat) => (x.2.1.lastUse.toNat, x.1.ctx.toNat, x.1.desc.vbase.toNat, x.2.2)
  let le := fun (x y : Obj × ResTile × Nat) =>
    let a := key x
    let b := key y
    a.1 < b.1 || (a.1 == b.1 && (a.2.1 < b.2.1 || (a.2.1 == b.2.1 &&
      (a.2.2.1 < b.2.2.1 || (a.2.2.1 == b.2.2.1 && a.2.2.2 ≤ b.2.2.2)))))
  Lists.sortBy le tiles

/-- Move the bytes of a residence tile and its poison to another place, and its translation with them (07 R161), which the
caches lose (09 R211). The unit left behind is zeroed where the object is protected (14 R358). -/
def State.moveTile (s : State) (c : CtxNo) (base : BitVec 42) (i : Nat) (dest : Place) : State :=
  match s.obj? c base with
  | none => s
  | some o =>
    match o.tiles[i]? with
    | none => s
    | some t =>
      let n := tileBytes o.desc
      let bs := s.readTier t.place.tier t.place.cluster (t.place.unit * unitBytes) n
      let s := s.writeTier dest.tier dest.cluster (dest.unit * unitBytes) bs
      let s := s.movePoison (poisonLineOf t.place.tier t.place.cluster (t.place.unit * unitBytes))
        (poisonLineOf dest.tier dest.cluster (dest.unit * unitBytes)) (n / 64)
      let s := s.modObj c base fun x => { x with tiles := Lists.setAt x.tiles i { t with place := dest } }
      let granule := base.toNat / unitBytes + i * tileUnits o.desc
      let s := (s.invalidate (ptnOf c) (objSpace c) fun g => g == granule).count c 31 1
      if o.desc.prot then s.zeroTier t.place.tier t.place.cluster (t.place.unit * unitBytes) n else s

/-- The objects as they will lie when every migration under way has switched. -/
def State.settled (s : State) : State :=
  let put := fun (st : State) (m : Migration) =>
    st.modObj m.ctx m.base fun o =>
      match o.tiles[m.tile]? with
      | some t => { o with tiles := Lists.setAt o.tiles m.tile { t with place := m.dest } }
      | none => o
  { s.migrations.foldl put s with migrations := [] }

/-! ### Allocation -/

/-- Find k units of tier 1 in a cluster within the quota of a partition in pool mode, dropping the oldest droppable pages
one after another (07 R170), at most fuel of them. -/
def State.poolRoom (s : State) (p cluster k align : Nat) : Nat → State × Option Nat
  | 0 => (s, none)
  | fuel + 1 =>
    match (if s.within p none 1 k then s.freeUnit 1 cluster k align else none) with
    | some u => (s, some u)
    | none =>
      match s.dropOrder p fun _ _ => true with
      | [] => (s, none)
      | (idx, g) :: _ => (s.dropPages idx [g.no]).poolRoom p cluster k align fuel

/-- One eviction of tier 0 in pool mode (07 R170): the oldest candidate tile for which tier 1 of its cluster has room, or
finds it by dropping, begins to migrate there. False where no candidate is left; pages dropped on the way stay dropped. -/
def State.evictTile (s : State) (p : Nat) : List (Obj × ResTile × Nat) → State × Bool
  | [] => (s, false)
  | (o, t, i) :: rest =>
    let k := tileUnits o.desc
    match s.poolRoom p t.place.cluster k k (s.charge p 1 + 1) with
    | (s', some u) => (s'.startMigration o.ctx o.desc.vbase i ⟨1, t.place.cluster, u⟩, true)
    | (s', none) => s'.evictTile p rest

/-- How many tiles of k units a cluster's tier has free places for. -/
def State.freeSlots (s : State) (tier cluster k : Nat) : Nat :=
  let used := s.taken tier cluster
  ((List.range (tierUnits tier / k)).filter fun i => used.all fun (a, n) => i * k + k ≤ a || a + n ≤ i * k).length

/-- Whether n tiles of k units will find room in tier 0 of a cluster, within quota, when the migrations under way have
switched. -/
def State.willFit (s : State) (p cluster k n : Nat) : Bool :=
  s.settled.within p none 0 (k * n) && n ≤ s.settled.freeSlots 0 cluster k

/-- Begin evictions of tier 0 until n tiles of k units will fit, or no candidate is left, at most fuel of them (07
R170). -/
def State.evictFor (s : State) (p cluster k n : Nat) : Nat → State
  | 0 => s
  | fuel + 1 =>
    if s.willFit p cluster k n then s
    else
      match s.evictTile p (s.oldestTiles p) with
      | (s', false) => s'
      | (s', true) => s'.evictFor p cluster k n fuel

/-- In pool mode, begin the evictions that n tiles of k units need in tier 0 of a cluster (07 R159, R170); the room is
there once the migrations have switched. In quota mode nothing is evicted. -/
def State.makeRoom (s : State) (p cluster k n : Nat) : State :=
  if s.pooled p && !s.overQuota p none then s.evictFor p cluster k n (s.charge p 0 + 1) else s

/-- Allocate k units of a tier in a cluster for a context or, with none, for the partition: a unit, or none where
07 R169 to R171 refuse it. Pages dropped on the way stay dropped; room in tier 0 is made before (makeRoom). -/
def State.alloc (s : State) (p : Nat) (c : Option CtxNo) (tier cluster k align : Nat) : State × Option Nat :=
  if s.overQuota p c then (s, none)
  else if s.pooled p && tier == 1 then s.poolRoom p cluster k align (s.charge p 1 + 1)
  else if s.within p c tier k then (s, s.freeUnit tier cluster k align)
  else (s, none)

end Sys2Proof.Machine
end

