-- ==== Sys2Proof/Machine/Faults.lean ====
section
/-! DEFINITION. Faults as shared operations (16): records, samples and dumps, the commands and regions that a reset
clears, the squall window, and the response to a fault of each kind. -/

namespace Sys2Proof.Machine

/-- What a fault names (16 Table FLT.3); island is used by kind 0x0B. -/
structure FaultInfo where
  kind : Nat
  ptn : Option Nat := none
  ctx : Option CtxNo := none
  unit : Nat := 15
  cluster : Nat := 0
  chain : Nat := 0
  beat : Nat := 0
  record : Nat := 0
  address : Nat := 0
  channel : Nat := 0
  pch : Nat := 0
  rank : Nat := 0
  island : Nat := 0
  deriving DecidableEq, Repr

/-- The scope of a record: context, partition, core or device. -/
def FaultInfo.scope (f : FaultInfo) : Nat :=
  if f.kind = 0x0B then 2 else if f.ctx.isSome then 0 else if f.ptn.isSome then 1 else 3

/-- A fault record's 64 bytes (16 Table FLT.3). -/
def FaultInfo.bits (f : FaultInfo) (number : BitVec 16) (when_ : Nat) (sampled : Bool) : BitVec 512 :=
  BitVec.ofNat 512 (packBits [(number.toNat, 0), ((f.ctx.map BitVec.toNat).getD 0, 16), (f.scope, 27),
    (Bits.ofBool sampled, 29), (f.kind, 32), (f.unit, 40), (f.cluster, 44), (f.chain % 65536, 48),
    (f.beat % 2 ^ 32, 64), (f.record % 65536, 96), (f.address % 2 ^ 64, 128), (f.channel, 192), (f.pch, 200),
    (f.rank, 201), (f.island, 203), (when_ % 2 ^ 64, 256)])

/-- The records kept: those with a sample, and the newest 256 (16 R400). -/
def keepRecords (rs : List FaultRecord) : List FaultRecord :=
  let old := rs.length - 256
  (rs.zipIdx.filter fun (r, i) => r.sample.isSome || old ≤ i).map (·.1)

/-- EV_FAULT's arguments (16 Table FLT.4). -/
def FaultInfo.arg0 (f : FaultInfo) (number : BitVec 16) : Nat :=
  packBits [(number.toNat, 0), (f.kind, 16), ((f.ctx.map BitVec.toNat).getD 0, 24), (f.scope, 35)]

/-- Take a fault record and deliver EV_FAULT (16 R400, R401). -/
def State.takeRecord (s : State) (f : FaultInfo) : State × BitVec 16 :=
  let a2 := packBits [(f.beat % 2 ^ 32, 0), (f.record % 65536, 32)]
  match f.ptn with
  | some p =>
    match s.ptn? p with
    | none => (s, 0)
    | some x =>
      let no := x.recNo
      let r : FaultRecord := ⟨no, f.ctx.getD 0, f.bits no x.beat.count.toNat false, none, []⟩
      let s := s.modPtn p fun y => { y with records := keepRecords (y.records ++ [r]), recNo := y.recNo + 1 }
      let s := s.event (.ctx (mgmt p)) 0x0011 (f.arg0 no) f.address a2
      let s := match f.ctx with
        | some c => if isMgmt c then s else s.event (.ctx c) 0x0011 (f.arg0 no) f.address a2
        | none => s
      (s, no)
  | none =>
    let no := s.flt.recNo
    let r : FaultRecord := ⟨no, 0, f.bits no (s.now - s.flt.bootAt) false, none, []⟩
    let s := { s with flt := { s.flt with records := keepRecords (s.flt.records ++ [r]), recNo := no + 1 } }
    (s.eventHosts 0x0011 (f.arg0 no) f.address a2, no)

/-! ### Samples and dumps (16 R406, R408) -/

/-- The regions of a context in a tile: space, first line and lines, ascending (14 R355). -/
def Stores.regions (st : Stores) (x : CtxNo) (cluster tile : Nat) : List (Nat × Nat × Nat) :=
  [1, 2, 3].flatMap fun sp =>
    let base := ((cluster * 14 + tile) * 4 + sp) * 8192
    let lines := (st.tags.filter fun (l, c) => c == x && base ≤ l && l < base + 8192).map fun (l, _) => l - base
    (lines.foldl (fun acc l =>
      match acc with
      | (a, n) :: r => if l = a + n then (a, n + 1) :: r else (l, 1) :: acc
      | [] => [(l, 1)]) ([] : List (Nat × Nat))).reverse.map fun (a, n) => (sp, a, n)

/-- A section header (16 Table FLT.5). A section of more than 255 entries, which n cannot say, reads 255 (log entry 15).
-/
def sectionHeader (unit cluster : Nat) (words : Bool) (kind n held bytes : Nat) : List Byte :=
  Bits.toBytes 32 (packBits [(unit, 0), (cluster, 4), (Bits.ofBool words, 7), (kind, 8), (min n 255, 16), (min held 255, 24),
    (bytes, 32)])

/-- The data that a sample takes of a region: its first 512 and last 512 words, or every word of fewer than 1,024. -/
def Stores.regionData (st : Stores) (cluster tile sp first words : Nat) : List Byte :=
  if words < 1024 then st.read cluster tile sp (first * 4) (words * 4)
  else st.read cluster tile sp (first * 4) 2048 ++ st.read cluster tile sp ((first + words - 512) * 4) 2048

/-- The sample's section of a tile; nothing where the context holds no region in it. -/
def Stores.sampleTile (st : Stores) (x : CtxNo) (low k tile : Nat) (word : Option (Nat × Nat)) : List Byte :=
  let rs := st.regions x (low + k) tile
  if rs.isEmpty then []
  else
    let shown := rs.take 16
    let body := shown.flatMap fun (sp, a, n) =>
      let w := lineBytes tile sp / 4
      Bits.toBytes 16 (packBits [(sp, 0), (a * w, 4), (n * w, 28)]) ++
        st.regionData (low + k) tile sp (a * w) (n * w)
    let tail := match word with
      | none => []
      | some (sp, w) =>
        let lo := w - 8
        let hi := min (w + 8) (storeBytes tile sp / 4)
        st.read (low + k) tile sp (lo * 4) ((hi - lo) * 4)
    sectionHeader tile k word.isSome 1 shown.length rs.length (body.length + tail.length) ++ body ++ tail

/-- The tile sections of a context's sample (16 R406): faulting is the tile that the record names, as cluster within the
partition and tile, with the fault word. -/
def State.sampleSections (s : State) (x : Partition) (c : CtxNo) (faulting : Option (Nat × Nat × Nat × Nat)) : List Byte :=
  (List.range x.n).flatMap fun k => (List.range 14).flatMap fun t =>
    let word := match faulting with
      | some (fk, ft, sp, w) => if fk = k ∧ ft = t then some (sp, w) else none
      | none => none
    s.stores.sampleTile c x.low k t word

/-- The sections of a partition's dump (16 R408); the layout of their entries is the model's (log entry 15). -/
def State.dumpSections (s : State) (p : Nat) (x : Partition) : List Byte :=
  let beat := (x.run.map (·.beat)).getD 0
  let engines := (List.range x.n).flatMap fun k => (List.range 15).flatMap fun u =>
    let out := if u = 14 then
        (s.moves.filter fun m => m.cluster == x.low + k).foldl (fun n m => n + m.outstanding.length) 0
      else 0
    let rec_ := if u = 14 then ((s.moves.find? fun m => m.cluster == x.low + k).map (·.index)).getD 0
      else (x.run.map fun r => Table.get 0 r.nextOp (k * 16 + u)).getD 0
    sectionHeader u k false 2 1 0 32 ++ Bits.toBytes 32 (packBits [(rec_, 0), (beat, 32), (out, 64)])
  let rings := (s.ctxsOf p).flatMap fun (c : Context) =>
    Bits.toBytes 32 (packBits [(c.no.toNat, 0), (c.ring.sqTail.toNat, 32), (c.ring.cqHead.toNat, 64),
      (c.ring.sqHead.toNat, 96), (c.ring.cqTail.toNat, 128), ((s.acceptedOf (.ctx c.no)).length, 160)])
  let syncs := x.syncs.flatMap fun (y : Sync) =>
    let waiting := (s.accepted.filter fun a =>
      match a.cmd, a.q.ring with
      | .syncWait _ n _, .ctx c => a.started && n == y.no && ptnOf c == p
      | _, _ => false).length
    Bits.toBytes 16 (packBits [(y.no.toNat, 0), (waiting, 16), (y.value.toNat, 64)])
  engines ++ sectionHeader 15 0 false 3 (s.ctxsOf p).length 0 rings.length ++ rings ++
    sectionHeader 15 0 false 4 x.syncs.length 0 syncs.length ++ syncs

/-- Change the newest record of a partition with a number. -/
def State.modRecord (s : State) (p : Nat) (number : BitVec 16) (f : FaultRecord → FaultRecord) : State :=
  s.modPtn p fun y =>
    match y.records.reverse.findIdx? fun r => r.number == number with
    | none => y
    | some i => { y with records := (y.records.reverse.modify i f).reverse }

/-- Allocate units of a cluster to the sample of a record, one by one, and charge them to the partition; none is kept
where one is not to be had. -/
def State.sampleUnits (s : State) (p cluster : Nat) (number : BitVec 16) : Nat → State × Bool
  | 0 => (s, true)
  | n + 1 =>
    match s.alloc p none 1 cluster 1 1 with
    | (s', none) => (s'.modRecord p number fun r => { r with units := [] }, false)
    | (s', some u) => (s'.modRecord p number fun r => { r with units := r.units ++ [(cluster, u)] }).sampleUnits p cluster number n

/-- Write bytes to a list of units in turn. -/
def State.writeUnits (s : State) (bs : List Byte) : List (Nat × Nat) → State
  | [] => s
  | (c, u) :: rest => (s.writeTier 1 c (u * unitBytes) (bs.take unitBytes)).writeUnits (bs.drop unitBytes) rest

/-- The first n bytes that a list of units holds. -/
def State.readUnits (s : State) (n : Nat) : List (Nat × Nat) → List Byte
  | [] => []
  | (c, u) :: rest => s.readTier 1 c (u * unitBytes) (min n unitBytes) ++ s.readUnits (n - unitBytes) rest

/-- Store a sample with the record that started a reset: at most 64 in a partition, in units of its lowest cluster
(16 R406). It starts with the record. -/
def State.storeSample (s : State) (p : Nat) (number : BitVec 16) (body : List Byte) : State :=
  match s.ptn? p with
  | none => s
  | some x =>
    match x.records.reverse.find? fun r => r.number == number with
    | none => s
    | some r =>
      if r.sample.isSome || 64 ≤ (x.records.filter fun r => r.sample.isSome).length then s
      else
        let bs := Bits.toBytes 64 (r.bits ||| (1#512 <<< 29)).toNat ++ body
        match s.sampleUnits p x.low number (Bits.ceilDiv bs.length unitBytes) with
        | (s', false) => s'
        | (s', true) =>
          let s := s'.modRecord p number fun r => { r with bits := r.bits ||| (1#512 <<< 29), sample := some bs.length }
          match ((s.ptn? p).bind fun y => y.records.reverse.find? fun r => r.number == number) with
          | some r => s.writeUnits bs r.units
          | none => s

/-! ### Ending commands -/

/-- Complete every accepted command that meets p with ST_ABORTED, and count them. -/
def State.abortWhere (s : State) (p : Accepted → Bool) : State × Nat :=
  let qs := (s.accepted.filter p).map (·.q)
  (qs.foldl (fun st q => st.finish q stAborted 0 0) s, qs.length)

/-- The commands that a context reset ends (16 R404): every run, and the MEM, FENCE.BARRIER and SYNC.WAIT commands in
progress; a barrier is in progress while it waits. -/
def resetEnds (a : Accepted) : Bool :=
  match a.cmd with
  | .schedRun .. => true
  | .schedStep .. => true
  | .fenceBarrier _ => true
  | .syncWait .. => a.started
  | .memWrite .. => a.started
  | .memRead .. => a.started
  | .memCopy .. => a.started
  | .memFill .. => a.started
  | _ => false

/-! ### The results of watch points (20 R487, Table OBS.6) -/

/-- Set the result of watch point i of a context. -/
def State.setWatchResult (s : State) (c : CtxNo) (i : Nat) (v : Nat) : State :=
  s.modCtx c fun x =>
    match x.watches[i]? with
    | some w => { x with watches := x.watches.setIfInBounds i { w with result := BitVec.ofNat 512 v } }
    | none => x

/-- The defined watch points of a context that meet p. -/
def State.watchesOf (s : State) (c : CtxNo) (p : WatchArgs → Bool) : List (Nat × WatchArgs) :=
  match s.ctx? c with
  | none => []
  | some x => x.watches.toList.zipIdx.filterMap fun (w, i) => (w.args.filter p).map fun a => (i, a)

/-- The watch points of a run that ends aborted, in whose beats they act, read state 3. -/
def State.abortWatches (s : State) (r : Run) : State :=
  if r.q.watch && r.released then
    (s.watchesOf r.ctx fun _ => true).foldl (fun st (i, a) =>
      st.setWatchResult r.ctx i (packBits [(3, 0), (Bits.ofBool a.digest, 2), (r.q.tag.toNat, 16)])) s
  else s

/-! ### Ending runs -/

/-- Take a context's runs out of its partition: a run in progress that was admitted waits to be settled (16 R405), and
its headbox moves are discarded (16 R403). -/
def State.removeRuns (s : State) (c : CtxNo) : State :=
  let p := ptnOf c
  let s := match (s.ptn? p).bind (·.run) with
    | some r => if r.ctx = c then (s.stampRun p r).abortWatches r else s
    | none => s
  let s := s.modPtn p fun x =>
    let x := { x with queue := x.queue.filter fun r => r.ctx != c }
    match x.run with
    | some r =>
      if r.ctx = c then
        { x with run := none, settling := if r.admitted then x.settling ++ [r] else x.settling }
      else x
    | none => x
  { s with moves := s.moves.filter fun m => m.ctx != c }.dropHeld p

/-- The run in progress that a context's fault stops (16 R403 step 1). -/
def State.stopRun (s : State) (p : Nat) : State :=
  s.modPtn p fun x => { x with run := x.run.map fun r => { r with stopped := true } }

/-! ### The squall window (16 R413) -/

/-- The times of a count that lie within a window of w seconds that ends now. -/
def inWindow (now w : Nat) (ts : List Nat) : List Nat := ts.filter fun t => now ≤ t + w * 1000000

/-- The times of a count that lie within a window of w seconds that ends at the newest of them (16 R413). -/
def lastWindow (w : Nat) (ts : List Nat) : List Nat := inWindow (ts.foldl max 0) w ts

/-- A Felt port goes down: its keys, counters, credit and rotation are gone (13 R324, R331). -/
def Port.dropped (x : Port) (now : Nat) (phase : LinkPhase) : Port :=
  { x with phase := phase, healthy := false, since := now, next := none, rotSince := none, txCtr := 1, rxTop := 0,
           txKp := false, rxKp := false, credits := [], drops := [], peerAddr := none }

/-- Every Felt port that is not down goes down (15 R375, 16 R415). -/
def State.portsDown (s : State) : State :=
  let down := fun (x : Port) => if x.phase = .down then x else x.dropped s.now .down
  { s with felt := { s.felt with ports := s.felt.ports.map down } }

/-- A partition that a record of the device sequence takes out of service keeps a copy of it, with which its dump is
stored (log entry 162). -/
def State.copyRecord (s : State) (p : Nat) : State :=
  match s.flt.records.getLast? with
  | some r => s.modPtn p fun y => { y with records := keepRecords (y.records ++ [{ r with sample := none, units := [] }]) }
  | none => s

/-- The device becomes Becalmed (16 R415): every partition stops and goes out of service, which PARTITION_RESET carries
out; the Felt ports go down; the cause is recorded. -/
def State.becalm (s : State) (cause : Nat) : State :=
  if s.flt.becalmed then s
  else
    let number := s.flt.recNo - 1
    let s := { s with flt := { s.flt with becalmed := true, cause := cause, lastCause := cause } }.record (.cause cause)
    let s := s.ptnNos.foldl (fun st p =>
      match st.ptn? p with
      | none => st
      | some x =>
        if x.status == .outOfService then st
        else
          ((st.stopRun p).copyRecord p).modPtn p fun y =>
            { y with status := .outOfService, reset := some ({ since := s.now, number := number, ctx := none } : ResetInProgress), ctxResets := [], ptnResets := [] }) s
    let s := s.portsDown
    (s.eventHosts 0x0015 cause number.toNat 0).report 0x04 cause number.toNat 0

/-- A partition goes out of service (16 R413, R414): it stops, and PARTITION_RESET carries the stop out. Where this
brings the device's count to out_n, the device becomes Becalmed in its place. -/
def State.goOut (s : State) (p : Nat) (number : BitVec 16) (c : Option CtxNo) : State :=
  let outs := inWindow s.now s.live.outWin s.flt.outTimes
  let s := { s with flt := { s.flt with outTimes := outs ++ [s.now] } }
  let s := s.stopRun p
  let s := s.modPtn p fun x =>
    { x with status := .outOfService, reset := some ⟨s.now, number, c⟩, ctxResets := [], ptnResets := [] }
  if s.live.outN ≤ outs.length + 1 then s.becalm 1 else s

/-- A partition reset is due (16 R413): performed, or the partition goes out of service in its place. -/
def State.startPtnReset (s : State) (p : Nat) (number : BitVec 16) (c : Option CtxNo) : State :=
  match s.ptn? p with
  | none => s
  | some x =>
    if x.reset.isSome ∨ x.status = .outOfService then s
    else
      let ts := inWindow s.now s.live.ptnWin x.ptnResets
      if s.live.ptnN ≤ ts.length + 1 then s.goOut p number c
      else
        (s.stopRun p).modPtn p fun y =>
          { y with status := .resetting, reset := some ⟨s.now, number, c⟩, ctxResets := [], ptnResets := ts ++ [s.now] }

/-- A context reset is due (16 R402, R413): performed, or a partition reset in its place. It takes the context's tiles
out of a reclaim in progress (07 R174). -/
def State.startCtxReset (s : State) (c : CtxNo) (number : BitVec 16) : State :=
  let p := ptnOf c
  match s.ptn? p, s.ctx? c with
  | some x, some y =>
    if y.reset.isSome ∨ x.reset.isSome ∨ x.status = .outOfService then s
    else if s.live.unit p = 1 then s.startPtnReset p number (some c)
    else
      let ts := inWindow s.now s.live.ctxWin x.ctxResets
      if s.live.ctxN ≤ ts.length + 1 then s.startPtnReset p number (some c)
      else
        let s := match x.run with
          | some r => if r.ctx = c then s.stopRun p else s
          | none => s
        let s := s.modCtx c fun z =>
          { z with reset := some ⟨s.now, number, some c⟩, reclaimOff := z.reclaimOff || x.reclaiming || z.reclaiming }
        s.modPtn p fun z => { z with ctxResets := ts ++ [s.now] }
  | _, _ => s

/-- A control core restarts (16 R411, R416): three restarts within 60 s put a sequencer's partition out of service and
make the device Becalmed for the warden, a keeper, the linker or the store core. -/
def State.startRestart (s : State) (island : Nat) : State :=
  if s.restarting island then s
  else
    let ts := inWindow s.now 60 (Table.get [] s.flt.restartTimes island) ++ [s.now]
    let again := s.flt.restarting ++ [({ island := island, since := s.now } : CoreRestart)]
    let s := { s with flt := { s.flt with
      restarting := again
      restartTimes := Table.set s.flt.restartTimes island ts
      lastCore := island
      restarts := BitVec.ofNat 16 (Bits.satAdd 16 s.flt.restarts.toNat 1) } }
    let s := s.report 0x09 island s.flt.restarts.toNat 0
    if ts.length < 3 then s
    else if 121 ≤ island ∧ island ≤ 128 then
      match s.ptnOfCluster (island - 121) with
      | some p => if s.outOfService p then s else (s.copyRecord p).goOut p (s.flt.recNo - 1) none
      | none => s
    else if 129 ≤ island ∧ island ≤ 133 then s.becalm 4
    else s

/-- Detect a fault: take its record and answer it with the response of 16 Table FLT.1. -/
def State.raiseFault (s : State) (f : FaultInfo) : State :=
  let (s, no) := s.takeRecord f
  if f.kind = 0x0B then s.startRestart f.island
  else if f.kind = 0x0C then s.becalm 2
  else if f.kind = 0x05 ∨ f.kind = 0x09 ∨ f.kind = 0x0A then
    match f.ptn with
    | some p => s.startPtnReset p no f.ctx
    | none => s
  else
    match f.ctx with
    | some c => s.startCtxReset c no
    | none => s

/-- An access of an object mapped below a poisoned tree node faults its context (16 R409). -/
def State.nodeFault (s : State) (o : Obj) : State :=
  match o.broken, s.ptn? (ptnOf o.ctx) with
  | some a, some x =>
    let l := locate x.low a
    s.raiseFault { kind := 0x04, ptn := some (ptnOf o.ctx), ctx := some o.ctx, address := a, channel := l.channel, pch := l.pch, rank := l.rank }
  | _, _ => s

/-- The object of a ring pair that lies below a poisoned tree node. -/
def State.brokenRing (s : State) (r : Ring) : Option Obj :=
  match r with
  | .host _ => none
  | .ctx c => ((s.ctx? c).bind fun x => s.obj? c x.ring.base).bind fun o => if o.broken.isSome then some o else none

end Sys2Proof.Machine
end

