-- ==== Sys2Proof/Machine/Rings.lean ====
section
/-! DEFINITION. Doorbells, acceptance of packets and delivery of events (12 R295 to R303). -/

namespace Sys2Proof.Machine

/-- The outcome of every row: the device goes on. -/
abbrev Result := Host.Outcome State Fault Refusal

/-- Whether the Felt ports may be up: in Run and Lull (15 Table PWR.1). -/
def State.linksRun (s : State) : Bool := s.power == .run || s.power == .lull

/-- The links are brought up again on exit from a state that took them down (15 R375): each port that has signal starts
training (13 R324). -/
def State.raiseLinks (s : State) : State :=
  let up := fun (x : Port) =>
    if x.signal && x.phase == .down then { x with phase := .training, since := s.now } else x
  if Config.linkRoot = 0 || s.flt.becalmed then s else { s with felt := { s.felt with ports := s.felt.ports.map up } }

/-- Enter a power state; time in Run and Lull is counted (15 R393). -/
def State.enterState (s : State) (x : PowerState) : State :=
  let ran := if s.power == .run || s.power == .lull then s.now - s.supplies.stateSince else 0
  { s with power := x, supplies := { s.supplies with stateSince := s.now }, pwr := { s.pwr with active := s.pwr.active + ran } }

/-- A wake of the device from Lull or Calm to Run (15 R374): on exit from Calm the orphan timers go on from where they
paused, and the links are brought up (15 R375). -/
def State.wake (s : State) : State :=
  match s.power with
  | .lull => { s.enterState .run with idleSince := s.now }
  | .calm =>
    let pause := s.now - s.supplies.stateSince
    let later := fun (x : Option Partition) => x.map fun y => { y with orphanedAt := y.orphanedAt.map (· + pause) }
    { s.enterState .run with idleSince := s.now, ptns := s.ptns.map later }.raiseLinks
  | _ => s

/-- PWR.ENTER to Calm or deeper has completed, and the device is about to enter the state (15 R373). -/
def State.entering (s : State) : Bool := s.pwr.target == some .calm || s.pwr.target == some .still || s.pwr.target == some .frost

/-- Whether a port writes a ring's doorbells: its own host ring, or a context of a partition it owns (12 R295, 18
R448). -/
def State.ringsDoorbell (s : State) (h : Fin 2) (r : Ring) : Bool := (s.host h).attached && s.ringPort r == some h

/-- Store the units that the runtime wrote through the ring window, from the entry at sq_tail on (18 R447). -/
def State.storeUnits (s : State) (r : Ring) : Nat → List (BitVec 512) → State
  | _, [] => s
  | k, u :: us =>
    match s.ring? r with
    | none => s
    | some rp => (s.writeRing r (k % rp.n * 64) (Bits.toBytes 64 u.toNat)).storeUnits r (k + 1) us

/-- A new sq_tail is taken unless it would expose more than n entries or go back (12 R296). -/
def RingPair.tailOk (rp : RingPair) (v : BitVec 32) : Bool :=
  (v - rp.sqHead).toNat ≤ rp.n && (v - rp.sqTail).toNat < 2 ^ 31

/-- A write of sq_tail by a port that may write it (12 R296), after the units that the runtime wrote into the ring. -/
def State.takeTail (s : State) (r : Ring) (v : BitVec 32) (units : List (BitVec 512)) : State :=
  match s.ring? r with
  | none => s
  | some rp =>
    let s := s.storeUnits r rp.sqTail.toNat units
    if rp.tailOk v then s.modRing r fun x => { x with sqTail := v } else s.event r 0x0002 1 v.toNat 0

/-- SQ_TAIL_WRITE (12 R295, R296): what the runtime made visible before the doorbell write, then the write itself. -/
def sqTailEffect (h : Fin 2) (r : Ring) (v : BitVec 32) (units : List (BitVec 512)) (host : HostBytes) (s : State) :
    State :=
  let s := s.wake
  let s := s.modHost h fun x => { x with mem := host.foldl (fun m (a, b) => Mem.put m a b) x.mem }
  if !s.ringsDoorbell h r then s else s.takeTail r v units

def execSqTailWrite (h : Fin 2) (r : Ring) (v : BitVec 32) (units : List (BitVec 512)) (host : HostBytes) (s : State) :
    Result := .next (sqTailEffect h r v units host s)

/-- A new cq_head is taken unless it passes cq_tail (12 R296). -/
def RingPair.headOk (rp : RingPair) (v : BitVec 32) : Bool := (v - rp.cqHead).toNat ≤ (rp.cqTail - rp.cqHead).toNat

/-- A write of cq_head by a port that may write it (12 R296). -/
def State.takeHead (s : State) (r : Ring) (v : BitVec 32) : State :=
  match s.ring? r with
  | none => s
  | some rp => if rp.headOk v then s.modRing r fun x => { x with cqHead := v } else s.event r 0x0002 2 v.toNat 0

/-- CQ_HEAD_WRITE (12 R295, R296). -/
def cqHeadEffect (h : Fin 2) (r : Ring) (v : BitVec 32) (s : State) : State :=
  let s := s.wake
  if !s.ringsDoorbell h r then s else s.takeHead r v

def execCqHeadWrite (h : Fin 2) (r : Ring) (v : BitVec 32) (s : State) : Result := .next (cqHeadEffect h r v s)

/-- Whether a ring's packets are accepted now: the device in Run and not about to enter a state below Lull (15 R373), the
accepting core not restarting, and, for a context, neither its destruction begun nor a reset in progress (01 R26, 16 R404,
R411). -/
def State.accepts (s : State) (r : Ring) : Bool :=
  s.power == .run && !s.entering && !s.restarting (s.acceptingCore r) &&
    match r with
    | .host _ => true
    | .ctx c =>
      ((s.ctx? c).map fun x => !x.removing && x.reset.isNone).getD false &&
        ((s.ptn? (ptnOf c)).map fun x => x.reset.isNone || x.status == .outOfService).getD false

/-- The units that a packet's header names (12 R300). -/
def unitsOf (w : Nat) : Nat := Bits.range w 9 8 + 1

/-- Whether a packet of u units may be taken: all of them are exposed (12 R296), and a completion slot is free beyond
those held for accepted commands (12 R297). -/
def State.roomFor (s : State) (r : Ring) (rp : RingPair) (u : Nat) : Bool :=
  u ≤ (rp.sqTail - rp.sqHead).toNat && (s.acceptedOf r).length < rp.freeSlots

/-- A refused packet completes at once; on a host ring there is no counter record. -/
def State.refuse (s : State) (r : Ring) (idx : BitVec 32) (w status : Nat) : State :=
  let q := Packet.req r idx (Packet.fields Packet.header (w % 2 ^ 128))
  let q := { q with counters := q.counters && match r with
    | .host _ => false
    | .ctx _ => true }
  s.complete q (w % 256) s.now (s.latchOf q) status 0 0

/-- Whether a ring has a packet that its core may take now. -/
def State.takes (s : State) (r : Ring) : Bool :=
  match s.ring? r with
  | none => false
  | some rp =>
    s.accepts r && rp.sqTail != rp.sqHead &&
      s.roomFor r rp (unitsOf (Bits.ofBytes (s.readRing r (rp.sqHead.toNat % rp.n * 64) 64)))

/-- How far a context stands behind the one served last, going round its partition in ascending number. -/
def turnsTo (last : Option CtxNo) (c : CtxNo) : Nat :=
  match last with
  | none => c.toNat % 256
  | some l => (c.toNat % 256 + 255 - l.toNat % 256) % 256

/-- Whether it is a ring's turn (12 R298): rings are served round-robin, a partition's in ascending context number, one
packet a turn, and a ring that has none to take is passed over. -/
def State.isTurn (s : State) (r : Ring) : Bool :=
  match r with
  | .ctx c =>
    let last := (s.ptn? (ptnOf c)).bind (·.turn)
    (s.ctxsOf (ptnOf c)).all fun x => x.no == c || !s.takes (.ctx x.no) || turnsTo last c ≤ turnsTo last x.no
  | .host h => !(s.host h).served || !s.takes (.host (otherPort h))

/-- Note that a ring was served. -/
def State.serve (s : State) (r : Ring) : State :=
  match r with
  | .ctx c => s.modPtn (ptnOf c) fun x => { x with turn := some c }
  | .host h => (s.modHost h fun x => { x with served := true }).modHost (otherPort h) fun x => { x with served := false }

/-- PACKET_ACCEPT (12 R297, R298, R300): the next packet of a ring is accepted, or refused and completed; that of a ring
out of reach faults its context (16 R409). -/
def packetAcceptEffect (r : Ring) (s : State) : State :=
  match s.ring? r with
  | none => s
  | some rp =>
    let w := Bits.ofBytes (s.readRing r (rp.sqHead.toNat % rp.n * 64) 64)
    if !s.takes r || !s.isTurn r then s
    else match s.brokenRing r with
    | some o => (s.serve r).nodeFault o
    | none =>
      let s := (s.serve r).modRing r fun x => { x with sqHead := x.sqHead + BitVec.ofNat 32 (unitsOf w) }
      match Packet.decode r rp.sqHead w with
      | none => s.refuse r rp.sqHead w stBadField
      | some i =>
        match s.refusal r i with
        | some st => s.refuse r rp.sqHead w st
        | none =>
          let q := Packet.req r rp.sqHead (Packet.fields Packet.header (w % 2 ^ 128))
          { s with accepted := s.accepted ++ [{ q := q, cmd := i, since := s.now,
                                                cutOff := i.opcode == 0x90 && q.fbScope == 3 && !s.hostUp q }] }

def execPacketAccept (r : Ring) (s : State) : Result := .next (packetAcceptEffect r s)

/-- EVENT_DELIVER (12 R302): where entries can be written, the oldest event goes into a slot that R297 does not hold; once
there is room again, EV_OVERFLOW follows the events that were dropped. -/
def eventDeliverEffect (r : Ring) (s : State) : State :=
  match s.ring? r, s.events? r with
  | some rp, some b =>
    match b.waiting with
    | [] => s
    | e :: rest =>
      if !s.writesTo r || rp.freeSlots ≤ (s.acceptedOf r).length then s
      else
        let s := s.modEvents r fun x => { x with waiting := rest }
        let s := if b.dropped = 0 then s
          else (s.modEvents r fun x => { x with dropped := 0 }).event r 0x0001 b.dropped 0 0
        s.writeEntry r (eventBody e) true
  | _, _ => s

def execEventDeliver (r : Ring) (s : State) : Result := .next (eventDeliverEffect r s)

end Sys2Proof.Machine
end

