-- ==== Sys2Proof/Machine/Staging.lean ====
section
/-! DEFINITION. Staged configuration (12 R313 to R316): the RS registers by name and offset, writes to staged copies, the
checks of a commit and its application. -/

namespace Sys2Proof.Machine

/-- The RS registers of a partition (21 Tables MAP.6 and MAP.7). -/
inductive PReg where
  | beat | quotaT0 | quotaT1 | quotaCfg | mem | srv | pfx | pwr | fab | obs
  deriving DecidableEq, Repr

/-- The RS registers of device scope (21 R503); FLT_PTN_CFG_p has a partition's number. -/
inductive DReg where
  | pwrCfg | pwrCap | squall | fltPtn (p : Fin 8) | fab | obs
  deriving DecidableEq, Repr

/-- Every RS register of a partition. -/
def PReg.all : List PReg := [.beat, .quotaT0, .quotaT1, .quotaCfg, .mem, .srv, .pfx, .pwr, .fab, .obs]

/-- The copy of a register among a partition's registers. -/
def PReg.get (r : PReg) (x : PtnRegs) : BitVec 64 :=
  match r with
  | .beat => x.beat | .quotaT0 => x.quotaT0 | .quotaT1 => x.quotaT1 | .quotaCfg => x.quotaCfg | .mem => x.mem
  | .srv => x.srv | .pfx => x.pfx | .pwr => x.pwr | .fab => x.fab | .obs => x.obs

/-- Replace a register's copy. -/
def PReg.put (r : PReg) (v : BitVec 64) (x : PtnRegs) : PtnRegs :=
  match r with
  | .beat => { x with beat := v } | .quotaT0 => { x with quotaT0 := v } | .quotaT1 => { x with quotaT1 := v }
  | .quotaCfg => { x with quotaCfg := v } | .mem => { x with mem := v } | .srv => { x with srv := v }
  | .pfx => { x with pfx := v } | .pwr => { x with pwr := v } | .fab => { x with fab := v }
  | .obs => { x with obs := v }

/-- The bits of a register that are not reserved (00 R11). -/
def PReg.mask : PReg → BitVec 64
  | .beat => 0x3FFFFF | .quotaT0 => 0xFFF | .quotaT1 => 0x7FFFFF | .quotaCfg => 1 | .mem => 0xFF
  | .srv => 0x0FFFFFFFFFFFFF03 | .pfx => 0x1FFFF | .pwr => 0x3FF | .fab => 0xF3F | .obs => 3

/-- The commit bit that selects a register (12 Table CMD.11). -/
def PReg.sel : PReg → Nat
  | .beat => 0 | .quotaT0 => 1 | .quotaT1 => 1 | .quotaCfg => 1 | .mem => 2 | .srv => 3 | .pfx => 4 | .pwr => 5
  | .fab => 6 | .obs => 7

/-- Whether the register is 64 bits wide. -/
def PReg.wide : PReg → Bool
  | .srv => true
  | _ => false

/-- Region number and offset within the region of partition p's register (21 Tables MAP.1, MAP.6, MAP.7). -/
def PReg.offset (r : PReg) (p : Nat) : Nat × Nat :=
  match r with
  | .beat => (1, p * 0x10000 + 0x0200) | .quotaT0 => (1, p * 0x10000 + 0x0300) | .quotaT1 => (1, p * 0x10000 + 0x0304)
  | .quotaCfg => (1, p * 0x10000 + 0x0308) | .mem => (1, p * 0x10000 + 0x0400) | .srv => (1, p * 0x10000 + 0x0600)
  | .pfx => (1, p * 0x10000 + 0x0608) | .pwr => (4, 0x0100 + p * 0x10) | .fab => (6, 0x0200 + p * 0x10)
  | .obs => (7, 0x0100 + p * 0x10)

/-- The copy of a device-scope register. -/
def DReg.get (r : DReg) (x : DevRegs) : BitVec 64 :=
  match r with
  | .pwrCfg => x.pwrCfg | .pwrCap => x.pwrCap | .squall => x.squall | .fltPtn p => x.fltPtn[p] | .fab => x.fab
  | .obs => x.obs

/-- Replace a device-scope register's copy. -/
def DReg.put (r : DReg) (v : BitVec 64) (x : DevRegs) : DevRegs :=
  match r with
  | .pwrCfg => { x with pwrCfg := v } | .pwrCap => { x with pwrCap := v } | .squall => { x with squall := v }
  | .fltPtn p => { x with fltPtn := x.fltPtn.set p v } | .fab => { x with fab := v } | .obs => { x with obs := v }

/-- The bits of a device-scope register that are not reserved. -/
def DReg.mask : DReg → BitVec 64
  | .pwrCfg => 0x1FFF | .pwrCap => 0x3FF03FF | .squall => 0x1FFFFFFFFFFFFF | .fltPtn _ => 1 | .fab => 0x7FF01
  | .obs => 3

/-- The commit bit that selects a device-scope register (21 Table MAP.4). -/
def DReg.sel : DReg → Nat
  | .pwrCfg => 0 | .pwrCap => 0 | .squall => 1 | .fltPtn _ => 1 | .fab => 2 | .obs => 3

/-- Whether the register is 64 bits wide. -/
def DReg.wide : DReg → Bool
  | .squall => true
  | _ => false

/-- Region number and offset of a device-scope register. -/
def DReg.offset : DReg → Nat × Nat
  | .pwrCfg => (4, 0) | .pwrCap => (4, 8) | .squall => (5, 0) | .fltPtn p => (5, 0x100 + p.val * 0x10) | .fab => (6, 0)
  | .obs => (7, 0)

/-- Every RS register of device scope. -/
def DReg.all : List DReg :=
  [.pwrCfg, .pwrCap, .squall, .fab, .obs] ++ (List.finRange 8).map .fltPtn

/-- The registers that the sel bits of DEV_COMMIT or DEV.COMMIT select (21 R503). -/
def DReg.chosen (sel : Nat) : List DReg := DReg.all.filter fun r => sel.testBit r.sel

/-- A value written under a mask into a copy, reserved bits dropped. -/
def maskWrite (old value mask allowed : BitVec 64) : BitVec 64 := (old &&& ~~~mask) ||| (value &&& mask &&& allowed)

/-- Write a staged copy of a partition's register (12 R313). -/
def State.stagePtn (s : State) (p : Nat) (r : PReg) (value mask : BitVec 64) : State :=
  s.modPtn p fun x => { x with staged := r.put (maskWrite (r.get x.staged) value mask r.mask) x.staged }

/-- Write a staged copy of a device-scope register. -/
def State.stageDev (s : State) (r : DReg) (value mask : BitVec 64) : State :=
  { s with staged := r.put (maskWrite (r.get s.staged) value mask r.mask) s.staged }

/-! ### Checks (12 R314) -/

/-- A field identifier (12 R314). -/
def fieldId (at_ : Nat × Nat) (lsb : Nat) : Nat := at_.2 + lsb * 2 ^ 20 + at_.1 * 2 ^ 28

/-- The selected registers' staged copies, the others' live ones. -/
def Partition.snapshot (x : Partition) (sel : Nat) : PtnRegs :=
  PReg.all.foldl (fun r k => if sel.testBit k.sel then k.put (k.get x.staged) r else r) x.live

/-- Overlay the blocks that sel selects of a snapshot. -/
def PtnRegs.overlay (sel : Nat) (snap live : PtnRegs) : PtnRegs :=
  PReg.all.foldl (fun r k => if sel.testBit k.sel then k.put (k.get snap) r else r) live

/-- The live values of a partition as amended by its pending commits. -/
def Partition.amended (x : Partition) : PtnRegs :=
  x.commits.foldl (fun r c => PtnRegs.overlay c.sel.toNat c.snap r) x.live

/-- The registers of partition p as reset leaves them (21 R501): n clusters, share entries, and tier-1 regions usable. -/
def PtnRegs.reset (n share regions : Nat) : PtnRegs where
  beat := BitVec.ofNat 64 (packBits [(0x1000, 0), (if n ≤ 2 then 0 else 1, 17), (4, 18)])
  quotaT0 := BitVec.ofNat 64 (n * 384)
  quotaT1 := BitVec.ofNat 64 (n * regionUnits * regions - (n * 64 + 4 * (share / 4096)))
  mem := 0x40
  pfx := 0x10000
  fab := 0x106
  obs := 3

/-- Usable regions in service (08 R179). -/
def State.usableRegions (s : State) : Nat :=
  ((List.range (if s.memc.policy then 3 else 4)).filter fun r => s.memc.regions.getLsbD r).length

/-- The largest tier-1 quota of a partition (07 Table TIR.4). -/
def State.largestT1 (s : State) (x : Partition) : Nat :=
  x.n * regionUnits * s.usableRegions - (x.n * 64 + 4 * (x.share / 4096))

/-- The cap in force in W (15 R377). -/
def State.capInForce (s : State) : Nat := min s.live.hostCap s.fieldCap

/-- A sum over the partitions that exist, of their amended registers, with partition p's replaced by r. -/
def State.sumPtns (s : State) (p : Nat) (r : PtnRegs) (f : PtnRegs → Nat) : Nat :=
  s.ptnNos.foldl (fun n q =>
    if q = p then n + f r
    else
      match s.ptn? q with
      | some x => n + f x.amended
      | none => n) 0

/-- W_G and W_A of 10 R257. -/
def guardedW (r : PtnRegs) : Nat := if r.guarded then r.grantW else 0
def assuredW (r : PtnRegs) : Nat := if r.assured then r.grantW else 0

/-- The slots of every partition, those that do not exist holding their reset slots (13 R336). -/
def State.sumSlots (s : State) (p : Nat) (r : Option PtnRegs) : Nat :=
  (List.range 8).foldl (fun n q =>
    match s.ptn? q with
    | some x => n + (if q = p then (r.getD x.amended).slots else x.amended.slots)
    | none => n + 6) 0

/-- The loaded images of a partition's contexts. -/
def State.imagesOf (s : State) (p : Nat) : List Image := s.images.filter fun i => ptnOf i.ctx == p
/-- Fields of an image header (05 Table SPD.7). -/
def Image.nBeats (i : Image) : Nat := fld i.header 127 96
def Image.latMode (i : Image) : Nat := fld i.header 264 264
def Image.beatLen (i : Image) : Nat := fld i.header 288 272

/-- The longest n_beats of a step set's variants (10 R258). -/
def State.longest (s : State) (x : StepSet) : Nat :=
  x.variants.foldl (fun m v =>
    match s.images.find? fun i => i.ctx == x.ctx && i.base == v.image with
    | some i => max m i.nBeats
    | none => m) 0

/-- Whether S = n_max x L / f_g is at most T (10 R258): f_g in 6.25 MHz units, T in us. -/
def slotFits (nMax beatLen fG periodUs : Nat) : Bool := nMax * beatLen * 100 ≤ periodUs * fG * 625

/-- The checks of a partition commit (05 R129, 07 R168, 10 R257, 13 R336, 15 R378 and R380): field identifiers and
whether the field passes. -/
def State.ptnChecks (s : State) (p : Nat) (x : Partition) (sel : Nat) : List (Nat × Bool) :=
  let r := x.snapshot sel
  let imgs := s.imagesOf p
  let others := fun (f : PtnRegs → Bool) => (s.ptnNos.filter fun q =>
    q != p && ((s.ptn? q).map fun y => f y.amended).getD false).length
  let id := fun (k : PReg) (lsb : Nat) => fieldId (k.offset p) lsb
  let setsFit := !r.guarded || x.stepSets.all fun st =>
    ptnOf st.ctx != p || slotFits (s.longest st) r.beatLen r.fG r.periodUs
  let wG := s.sumPtns p r guardedW
  let wA := s.sumPtns p r assuredW
  let beat : List (Nat × Bool) := if sel.testBit 0 then
    [(id .beat 0, 256 ≤ r.beatLen && r.beatLen ≤ 65536 && imgs.all (fun i => i.beatLen ≤ r.beatLen) &&
        (sel.testBit 3 || setsFit)),
      (id .beat 17, (x.n ≤ 2 || r.latMode == 1) && imgs.all fun i => i.latMode == r.latMode),
      (id .beat 18, 2 ≤ r.slipCeiling && r.slipCeiling ≤ 8)] else []
  let quota : List (Nat × Bool) := if sel.testBit 1 then
    [(id .quotaT0 0, r.tier0 ≤ x.n * 384), (id .quotaT1 0, r.tier1 ≤ s.largestT1 x),
      (id .quotaCfg 0, !r.pool || others (·.pool) < 2)] else []
  let srv : List (Nat × Bool) := if sel.testBit 3 then
    [(id .srv 0, r.cls ≤ 2 && (!r.guarded || others (·.guarded) < 2)),
      (id .srv 8, r.guarded || r.gCtx == 0),
      (id .srv 16, (match r.cls with
          | 0 => r.grantW == 0
          | 1 => r.grantW ≤ 540
          | _ => 1 ≤ r.grantW && r.grantW ≤ 540) &&
        60 + wG ≤ s.live.floor && 60 + wG + wA ≤ s.capInForce),
      (id .srv 32, if r.guarded then 100 ≤ r.periodUs && r.periodUs ≤ 1000000 else r.periodUs == 0),
      (id .srv 52, (if r.guarded then 0x96 ≤ r.fG && r.fG ≤ 0xFA else r.fG == 0) && setsFit)] else []
  let pfx : List (Nat × Bool) := if sel.testBit 4 then [(id .pfx 0, r.pfxLimit ≤ 65536)] else []
  let pwr : List (Nat × Bool) := if sel.testBit 5 then
    [(id .pwr 0, r.fixedW ≤ 540 &&
      (!s.live.fixedMode ||
        ((r.fixedW ≤ x.live.fixedW || 60 + s.sumPtns p r (·.fixedW) ≤ s.live.hostCap) &&
          (r.cls == 0 || r.grantW ≤ r.fixedW))))] else []
  let fab : List (Nat × Bool) := if sel.testBit 6 then
    [(id .fab 0, r.slots ≤ 60 && s.sumSlots p (some r) + s.live.transitSlots ≤ 64), (id .fab 8, 1 ≤ r.weight)] else []
  beat ++ quota ++ srv ++ pfx ++ pwr ++ fab

/-- The checks of a device-scope commit of some registers (13 R336, 15 R378, R380 and Table PWR.8, 16 R418). -/
def State.devChecks (s : State) (regs : List DReg) : List (Nat × Bool) :=
  let r := s.staged
  let hasCfg := regs.contains .pwrCfg
  let hasCap := regs.contains .pwrCap
  let mode := if hasCfg then r.fixedMode else s.live.fixedMode
  let none_ : PtnRegs := {}
  let wG := s.sumPtns 8 none_ guardedW
  let fixed := s.sumPtns 8 none_ (·.fixedW)
  let granted := s.ptnNos.all fun q =>
    ((s.ptn? q).map fun y => y.amended.cls == 0 || y.amended.grantW ≤ y.amended.fixedW).getD true
  let switches := r.fixedMode && !s.live.fixedMode
  let cfg : List (Nat × Bool) := if hasCfg then
    [(fieldId (4, 0) 0, !switches || (granted && (hasCap || 60 + fixed ≤ s.live.hostCap))),
      (fieldId (4, 0) 3, r.lullIdle ≤ 1000 && (!r.autoLull || 1 ≤ r.lullIdle))] else []
  let cap : List (Nat × Bool) := if hasCap then
    [(fieldId (4, 8) 0, 120 ≤ r.hostCap && r.hostCap ≤ 600 && (!mode || 60 + fixed ≤ r.hostCap)),
      (fieldId (4, 8) 16, 120 ≤ r.floor && r.floor ≤ r.hostCap && 60 + wG ≤ r.floor)] else []
  let flt : List (Nat × Bool) := if regs.contains .squall then
    [(fieldId (5, 0) 0, 2 ≤ r.ctxN && r.ctxN ≤ 16), (fieldId (5, 0) 5, 1 ≤ r.ctxWin && r.ctxWin ≤ 600),
      (fieldId (5, 0) 15, 2 ≤ r.ptnN && r.ptnN ≤ 16), (fieldId (5, 0) 20, 1 ≤ r.ptnWin && r.ptnWin ≤ 3600),
      (fieldId (5, 0) 32, 1 ≤ r.outN && r.outN ≤ 8), (fieldId (5, 0) 36, 1 ≤ r.outWin && r.outWin ≤ 86400)] else []
  let fab : List (Nat × Bool) := if regs.contains .fab then
    [(fieldId (6, 0) 8, 4 ≤ r.transitSlots && r.transitSlots ≤ 64 && s.sumSlots 8 none + r.transitSlots ≤ 64),
      (fieldId (6, 0) 15, 1 ≤ r.transitWt)] else []
  cfg ++ cap ++ flt ++ fab

/-- The identifier of the first field that fails, in ascending identifier. -/
def firstConflict (cs : List (Nat × Bool)) : Option Nat :=
  ((cs.filter fun c => !c.2).map (·.1)).min?

/-! ### Commits (12 R314 to R316) -/

/-- Count a commit and set its outcome. -/
def CommitStat.next (c : CommitStat) (state status field : Nat) : CommitStat :=
  ⟨BitVec.ofNat 2 state, c.seq + 1, BitVec.ofNat 16 status, BitVec.ofNat 32 field⟩

/-- The members of a partition in ring order: cluster by cluster, in each the tiles 0 to 13 and then the headbox. The spec
speaks of a fixed order and prints none: DESIGN CHOICE (log entry 142). -/
def Partition.members (x : Partition) : List (Nat × Nat) :=
  (List.range x.n).flatMap fun k => (List.range 15).map fun m => (x.low + k, m)

/-- Whether the collect token has returned (05 R120). -/
def Partition.collectedAll (x : Partition) : Bool := x.members.all fun m => x.beat.collected.contains m

/-- A commit of a partition's blocks: empty, refused with a field, or pending until the boundary that 05 R125 names. The
status of a commit that ends at once, with the field. -/
def State.commitPtn (s : State) (p sel : Nat) (cmd : Option Req) : State × Option (Nat × Nat) :=
  match s.ptn? p with
  | none => (s, some (stNoObject, 0))
  | some x =>
    if sel = 0 then
      (s.modPtn p fun y => { y with commitStat := y.commitStat.next 2 stOkEmpty 0 }, some (stOkEmpty, 0))
    else
      match firstConflict (s.ptnChecks p x sel) with
      | some f => (s.modPtn p fun y => { y with commitStat := y.commitStat.next 3 stConflict f }, some (stConflict, f))
      | none =>
        let c : PendingCommit := ⟨BitVec.ofNat 8 sel, x.staged, cmd, x.collectedAll⟩
        (s.modPtn p fun y => { y with commitStat := y.commitStat.next 1 stOk 0, commits := y.commits ++ [c] }, none)

/-- A device-scope commit of some registers: empty, refused, or applied as it passes (12 R316). -/
def State.commitDev (s : State) (regs : List DReg) : State × Nat × Nat :=
  if regs.isEmpty then ({ s with devCommit := s.devCommit.next 2 stOkEmpty 0 }, stOkEmpty, 0)
  else
    match firstConflict (s.devChecks regs) with
    | some f => ({ s with devCommit := s.devCommit.next 3 stConflict f }, stConflict, f)
    | none =>
      let live := regs.foldl (fun r k => k.put (k.get s.staged) r) s.live
      ({ s with live := live, devCommit := s.devCommit.next 2 stOk 0 }, stOk, 0)

end Sys2Proof.Machine
end

