-- ==== Sys2Proof/Machine/Stacks.lean ====
section
/-! DEFINITION. The stacks as every access of tier 1 meets them (08): where a line lies, the state of ranks and regions,
and errors with what they start. -/

namespace Sys2Proof.Machine

/-! ### Locations (08 Table STK.2) -/

/-- The number over all clusters of a 64-byte line of a stack: channel in the stack, pseudo-channel, rank, index in the
rank, and which half of the 128 bytes (08 Table STK.2, backwards). -/
def lineAt (stack h pch rank v half : Nat) : Nat :=
  lineOf (h / 4) (128 * (48 * (rank * 1572864 + v) + 2 * (6 * (h % 4) + stack) + pch) + 64 * half)

/-- 64-byte lines of a cluster's physical range. -/
def clusterLines : Nat := clusterSpan / 64

/-! ### Ranks and regions (08 R179, R182, Table STK.4) -/

/-- The state of a rank: 0 in service, 1 spare, 2 retiring, 3 retired. -/
def RankState.rank (x : RankState) (r : Nat) : Nat := ((x.ranks[r]?).map BitVec.toNat).getD 3
/-- Set a rank's state. -/
def RankState.setRank (x : RankState) (r k : Nat) : RankState := { x with ranks := x.ranks.setIfInBounds r (BitVec.ofNat 2 k) }
/-- Whether the spare carries or receives the lines of rank r. -/
def RankState.spares (x : RankState) (r : Nat) : Bool := x.spareUsed && x.spareFor.toNat == r
/-- Whether the rank that holds the stack's lines of region r is not retired: the spare for the rank it replaces, and no
rank for region 3 while the spare is in use (08 R179, R181). -/
def RankState.holds (x : RankState) (r : Nat) : Bool :=
  if x.spares r then x.rank 3 != 3 else x.rank r != 3 && !(r == 3 && x.spareUsed)

/-- MEMC_RANK_STAT_s (08 Table STK.4). -/
def RankState.stat (x : RankState) : Nat :=
  packBits [(packBits (x.ranks.toList.zipIdx.map fun (r, i) => (r.toNat, 2 * i)), 0), (x.spareFor.toNat, 8), (Bits.ofBool x.spareUsed, 10),
    (Bits.ofBool x.spareSpent, 11), (x.copied / 1048576, 16)]

/-- Change a stack's ranks, and the regions in service with them; the store core records every change of MEMC_RANK_STAT
(08 R199). -/
def State.modRanks (s : State) (stack : Nat) (f : RankState → RankState) : State :=
  let ranks := s.memc.ranks.mapFinIdx fun i x _ => if i = stack then f x else x
  let up := fun (r : Nat) => ranks.toList.all fun x => x.holds r
  let bits := packBits ((List.range 4).map fun r => (Bits.ofBool (up r), r))
  let t := { s with memc := { s.memc with ranks := ranks, regions := BitVec.ofNat 4 bits } }
  if ranks.map RankState.stat == s.memc.ranks.map RankState.stat then t else t.record (.ranks ranks)

/-- The ranks of a stack. -/
def State.stackRanks (s : State) (stack : Nat) : RankState := (s.memc.ranks[stack]?).getD {}

/-- Set a partition's tier-1 quota to the largest one at its next boundary, where it lies above it (07 R176). -/
def State.cutToCapacity (s : State) (p : Nat) : State :=
  match s.ptn? p with
  | none => s
  | some x =>
    let top := s.largestT1 x
    if x.amended.tier1 ≤ top then s
    else
      let snap := { x.amended with quotaT1 := BitVec.ofNat 64 top }
      let sel := BitVec.ofNat 8 (2 ^ PReg.sel .quotaT1)
      s.modPtn p fun y => { y with commits := y.commits ++ [⟨sel, snap, none, false⟩] }

/-- A change of the ranks that may take regions out of service (08 R197): every partition's capacity falls, and a device
without a usable region becomes Becalmed. -/
def State.regionsFell (s : State) : State :=
  let s := s.ptnNos.foldl (fun st p => st.cutToCapacity p) s
  if s.usableRegions = 0 then s.raiseFault { kind := 0x0C } else s

/-- EV_RANK_RETIRE and its fault item (08 R194). -/
def State.rankEvent (s : State) (stack rank case_ : Nat) : State :=
  (s.eventMgmts 0x0030 stack rank case_).report 0x01 stack rank case_

/-- An uncorrectable error in a rank of a stack (08 R194, R198). -/
def State.rankFails (s : State) (stack r : Nat) : State :=
  let x := s.stackRanks stack
  match x.rank r with
  | 0 =>
    if x.rank 3 = 1 ∧ !x.spareUsed ∧ !x.spareSpent then
      let s := s.modRanks stack fun y =>
        { y.setRank r 2 with spareUsed := true, spareFor := BitVec.ofNat 2 r, spareSpent := true, copied := 0 }
      s.rankEvent stack r 0
    else
      let s := s.modRanks stack fun y => { y.setRank r 3 with spareSpent := true }
      (s.rankEvent stack r 1).regionsFell
  | 1 =>
    if x.spareUsed then
      let s := s.modRanks stack fun y => { (y.setRank 3 3).setRank y.spareFor.toNat 3 with spareSpent := true }
      (s.rankEvent stack 3 1).regionsFell
    else s.modRanks stack fun y => { y.setRank 3 3 with spareSpent := true }
  | _ => s

/-! ### Errors (08 R188 to R191) -/

/-- Poison a line, by its number over all clusters, and report it to the keeper. -/
def State.poisonLine (s : State) (line : Nat) : State :=
  { s with poison := if s.poison.contains line then s.poison else s.poison ++ [line],
           poisonReports := if s.poisonReports.contains line then s.poisonReports else s.poisonReports ++ [line] }

/-- The rank that serves a line: while a copy runs the spare serves the lines already copied, ascending in every
pseudo-channel at once, 8 KiB of a stack for one index (08 R195, log entry 44). -/
def State.servedBy (s : State) (l : Location) : Nat :=
  let x := s.stackRanks l.stack
  if x.spares l.rank && (x.rank l.rank != 2 || 8192 * (l.v + 1) ≤ x.copied) then 3 else l.rank

/-- The cluster that a global channel belongs to (01 R14, 08 Table STK.2). -/
def channelCluster (h : Nat) : Nat := h % 32 / 4

/-- Count a corrected line of a channel, or a command retry that succeeded (20 Table OBS.4). -/
def State.countCorrected (s : State) (channel : Nat) : State :=
  { s with memc := { s.memc with corrected := Table.set s.memc.corrected channel (Table.get 0 s.memc.corrected channel + 1) } }
def State.countRetry (s : State) (channel : Nat) : State :=
  let n := BitVec.ofNat 16 (Bits.satAdd 16 (Table.get 0 s.memc.cmdRetry channel).toNat 1)
  { s with memc := { s.memc with cmdRetry := Table.set s.memc.cmdRetry channel n } }

/-- What an access of the line at an offset of a cluster met: corrections are counted; an uncorrectable error poisons the
line and fails its rank; one that no rank can be blamed for is uncontained (08 R198). A read of a line that is poisoned
already returns it as poisoned and not as an error (R188). -/
def State.meets (s : State) (cluster off : Nat) (read : Bool) (o : ReadOutcome) : State :=
  let l := locate cluster off
  let known := read && s.poison.contains (lineOf cluster off)
  match o with
  | .clean => s
  | .corrected => if known then s else s.countCorrected l.channel
  | .retried => s.countRetry l.channel
  | .uncorrectable => if known then s else (s.poisonLine (lineOf cluster off)).rankFails l.stack (s.servedBy l)
  | .unattributed => s.raiseFault { kind := 0x0C }

/-- What a transaction met, which is performed as accesses of 64-byte lines (08 R178): the outcome is that of one or more
of them, and a free value says of which (log entry 3). -/
def State.meetsLines (s : State) (lines : List (Nat × Nat)) (read : Bool) (o : ReadOutcome) : State :=
  if o = .clean ∨ lines = [] then s
  else
    let (v, s) := s.takeFree
    let hit := (lines.zipIdx.filter fun (_, i) => v.getLsbD i).map (·.1)
    (if hit.isEmpty then lines.take 1 else hit).foldl (fun st (c, a) => st.meets c a read o) s

/-- The outcome that a number names. -/
def outcomeOf (n : Nat) : ReadOutcome :=
  match n with
  | 1 => .corrected
  | 2 => .retried
  | 3 => .uncorrectable
  | 4 => .unattributed
  | _ => .clean

/-- What a host-link access of a range of an object meets in each of its lines of tier 1: a free value (08 R188, R191). -/
def State.hostMeets (s : State) (o : Obj) (off n : Nat) (read : Bool) : State :=
  let k := s.free
  (o.pieces off n).foldl (fun st (a, len) =>
    match o.locate a with
    | some (1, c, x) =>
      ((List.range ((x + len + 63) / 64 - x / 64)).map fun i => (x / 64 + i) * 64).foldl
        (fun st y => st.meets c y read (outcomeOf (Config.accessOutcome k (lineOf c y)).toNat)) st
    | _ => st) s.takeFree.2

end Sys2Proof.Machine
end

