-- ==== Sys2Proof/Machine/Objects.lean ====
section
/-! DEFINITION. Objects and their bytes: the OBJ commands (07 R157 to R163) and the MEM commands (12 R312). -/

namespace Sys2Proof.Machine

/-! ### Names of objects -/

/-- Source bytes that a residence tile of a compressible object codes (07 Table TIR.2). -/
def sourcePerTile (d : ObjDesc) : Nat := if d.tile then 2090944 else 65280

/-- Residence tiles of an object: the last one is allocated in full (07 R155, R156). -/
def tilesOf (d : ObjDesc) : Nat := Bits.ceilDiv d.length.toNat (if d.comp then sourcePerTile d else tileBytes d)

/-- The kinds of 07 Table TIR.3. -/
def kindData : BitVec 4 := 1
def kindImage : BitVec 4 := 2
def kindRing : BitVec 4 := 3
def kindWeights : BitVec 4 := 4

/-- Objects that a context holds, its page runs counted as one for each sequence (07 R154, log entry 17). -/
def State.objCount (s : State) (c : CtxNo) : Nat :=
  (s.objs.filter fun o => o.ctx == c).length + (s.seqs.filter fun x => x.ctx == c).length

/-- Whether a base is free for an object of some tiles: aligned, within the range, apart from every other object, and
sharing no 32 MiB span with tiles of the other size (07 R154, 09 R208); 0 names nothing. -/
def State.baseFree (s : State) (c : CtxNo) (size span b : Nat) : Bool :=
  b != 0 && b % size == 0 && b + span ≤ 2 ^ 42 &&
    (s.objs.filter fun o => o.ctx == c).all fun o =>
      let ob := o.desc.vbase.toNat
      let oe := ob + o.tiles.length * tileBytes o.desc
      (b + span ≤ ob || oe ≤ b) &&
        (tileBytes o.desc == size || (b + span - 1) / 33554432 < ob / 33554432 || (oe - 1) / 33554432 < b / 33554432)

/-- A base for a new object: a free value where it is a free base, else the lowest free one (07 R154, log entry 3). -/
def State.chooseBase (s : State) (c : CtxNo) (size span : Nat) : State × Option (BitVec 42) :=
  let (v, s') := s.takeFree
  let want := v.toNat % 2 ^ 42 / size * size
  if s.baseFree c size span want then (s', some (BitVec.ofNat 42 want))
  else
    let ends := (s.objs.filter fun o => o.ctx == c).flatMap fun o =>
      let e := o.desc.vbase.toNat + o.tiles.length * tileBytes o.desc
      [Bits.roundUp e size, Bits.roundUp e 33554432]
    (s', (((size :: 33554432 :: ends).filter fun b => s.baseFree c size span b).min?).map (BitVec.ofNat 42))

/-! ### Placing tiles -/

/-- Add a tile to an object. -/
def Obj.addTile (t : ResTile) (o : Obj) : Obj := { o with tiles := o.tiles ++ [t] }

/-- Place the tiles of an object one at a time in ascending address (07 R159): in the home tier, or displaced in tier 1
where an unpinned object finds no room in tier 0. False where a tile finds no room. -/
def State.placeTiles (s : State) (p : Nat) (c : CtxNo) (base : BitVec 42) (d : ObjDesc) (pin : Bool) (cluster : Nat) :
    Nat → State × Bool
  | 0 => (s, true)
  | k + 1 =>
    let now_ := ((s.ptn? p).map (·.beat.count)).getD 0
    let put := fun (st : State) (tier u : Nat) =>
      (st.modObj c base (Obj.addTile ⟨⟨tier, cluster, u⟩, now_⟩)).undefineUnits tier cluster u (tileUnits d)
    match s.alloc p (some c) d.home.toNat cluster (tileUnits d) (tileUnits d) with
    | (s', some u) => (put s' d.home.toNat u).placeTiles p c base d pin cluster k
    | (s', none) =>
      if d.home = 0 ∧ !pin then
        match s'.alloc p (some c) 1 cluster (tileUnits d) (tileUnits d) with
        | (s'', some u) => (put s'' 1 u).placeTiles p c base d pin cluster k
        | (s'', none) => (s'', false)
      else (s', false)

/-- Take an object out, with its migrations and its translations; the units of a protected one are zeroed before they are
free (14 R358). -/
def State.dropObj (s : State) (c : CtxNo) (base : BitVec 42) : State :=
  match s.obj? c base with
  | none => s
  | some o =>
    let s := (s.cancelMigrations c base fun _ => true).invalidate (ptnOf c) (objSpace c) fun g =>
      base.toNat / unitBytes ≤ g && g < base.toNat / unitBytes + o.tiles.length * tileUnits o.desc
    let s := { s with objs := s.objs.filter fun x => !(x.ctx == c && x.desc.vbase == base) }
    if o.desc.prot then
      o.tiles.foldl (fun st t => st.zeroTier t.place.tier t.place.cluster (t.place.unit * unitBytes) (tileBytes o.desc)) s
    else s

/-- Create an object of some tiles for a context in a cluster: its base, or the status that refuses it (07 R154, R159,
R166). -/
def State.createObj (s : State) (p : Nat) (c : CtxNo) (d : ObjDesc) (tiles cluster : Nat) : State × Except Nat (BitVec 42) :=
  if 65536 ≤ s.objCount c then (s, .error stLimit)
  else
    match s.chooseBase c (tileBytes d) (tiles * tileBytes d) with
    | (s', none) => (s', .error stLimit)
    | (s', some base) =>
      let o : Obj := ⟨c, { d with vbase := base }, [], none⟩
      let gone := fun (t : State) => { t with objs := t.objs.filter fun x => !(x.ctx == c && x.desc.vbase == base) }
      match ({ s' with objs := s'.objs ++ [o] }).placeTiles p c base d d.pin cluster tiles with
      | (t, false) => (gone t, .error stQuota)
      | (t, true) => if t.nodesFit p then (t.layNodes p, .ok base) else (gone t, .error stQuota)

/-- A descriptor of a kind that the device creates itself (07 R158). -/
def deviceDesc (kind : BitVec 4) (home drop : BitVec 2) (pin tile prot : Bool) (length : Nat) : ObjDesc where
  kind := kind
  home := home
  pin := pin
  prot := prot
  comp := false
  elem := 0
  tile := tile
  budget := 0
  drop := drop
  clu := 0
  length := BitVec.ofNat 48 length
  vbase := 0

/-- Create a ring pair of n entries (12 R292): an object of kind 0x3, pinned in tier 1 of the lowest cluster. -/
def State.newRingPair (s : State) (p : Nat) (c : CtxNo) (n : Nat) : State × Except Nat (BitVec 42) :=
  match s.ptn? p with
  | none => (s, .error stNoObject)
  | some x => s.createObj p c (deviceDesc kindRing 1 0 true false false (352 * n)) (Bits.ceilDiv (352 * n) unitBytes) x.low

/-! ### The issuing context of a command -/

/-- The context of a ring; a host ring has none. -/
def ctxOf : Ring → Option CtxNo
  | .ctx c => some c
  | .host _ => none

/-- A body that names objects of the issuing context. -/
def withCtx (q : Req) (s : State) (f : CtxNo → Ran) : Ran :=
  match ctxOf q.ring with
  | some c => f c
  | none => .status s stDenied

/-- A body that names one object of the issuing context (12 R294). -/
def withNamed (q : Req) (base : BitVec 42) (s : State) (f : Obj → Ran) : Ran :=
  withCtx q s fun c =>
    match s.obj? c base with
    | some o => f o
    | none => .status s stNoObject

/-- A body that names one object and reaches it: one below a poisoned tree node is out of reach (16 R409). -/
def withObj (q : Req) (base : BitVec 42) (s : State) (f : Obj → Ran) : Ran :=
  withNamed q base s fun o => if o.broken.isSome then .status s stPoison else f o

/-- Whether the run in progress of the object's partition binds it. -/
def State.bound (s : State) (o : Obj) : Bool := (s.boundObjs (ptnOf o.ctx)).contains (o.ctx, o.desc.vbase)

/-- Whether an object is of a kind that the device alone creates. -/
def Obj.ofDevice (o : Obj) : Bool := o.desc.kind != kindData && o.desc.kind != kindImage

/-! ### OBJ commands -/

/-- The evictions that a new object with home tier 0 begins in pool mode (07 R159, R170). -/
def State.createRoom (s : State) (p : Nat) (d : ObjDesc) (cluster : Nat) : State :=
  if d.home = 0 then s.makeRoom p cluster (tileUnits d) (tilesOf d) else s

/-- Whether a context can hold one object more, of some tiles: within 65,536 objects, with a free span of its range (07
R154). -/
def State.objFits (s : State) (c : CtxNo) (d : ObjDesc) (tiles : Nat) : Bool :=
  s.objCount c < 65536 && (s.chooseBase c (tileBytes d) (tiles * tileBytes d)).2.isSome

/-- OBJ.CREATE (07 R157, R159). A length of 0 creates nothing, with a descriptor that keeps R157. In pool mode an object
with home tier 0 waits until the migrations that make room for it have switched (R161, R170). -/
def objCreateBody (d : ObjDesc) (s : State) (q : Req) : Ran :=
  withCtx q s fun c =>
    let p := ptnOf c
    match s.ptn? p with
    | none => .status s stNoObject
    | some x =>
      if x.n ≤ d.clu.toNat then .status s stBadField
      else if d.length = 0 then .status s stOkEmpty
      else if !s.objFits c d (tilesOf d) then .status s stLimit
      else
        let room := s.createRoom p d (x.low + d.clu.toNat)
        if d.home = 0 && room.carried p none 0 != 0 && s.pooled p then .again room
        else
          match room.createObj p c d (tilesOf d) (x.low + d.clu.toNat) with
          | (s', .ok base) => .done s' stOk base.toNat 0
          | (s', .error st) => .status s' st

def execObjCreate (q : Req) (d : ObjDesc) (s : State) : Result := .next (runCommand (.objCreate q d) s (objCreateBody d))

/-- OBJ.FREE (07 R158, 14 R358). -/
def objFreeBody (base : BitVec 42) (s : State) (q : Req) : Ran :=
  withNamed q base s fun o =>
    if o.ofDevice then .status s stBadField
    else if s.loaded o.ctx base then .status s stInUse
    else
      let users := s.seqs.filter fun x => x.ctx == o.ctx && x.input == base
      .status (users.foldl (fun st x => st.loseIfGone x.index) ((s.dropObj o.ctx base).quotaClear (ptnOf o.ctx))) stOk

def execObjFree (q : Req) (base : BitVec 42) (s : State) : Result := .next (runCommand (.objFree q base) s (objFreeBody base))

/-- The tiles of an object that lie outside its home tier, by number. -/
def Obj.away (o : Obj) : List Nat :=
  (o.tiles.zipIdx.filter fun (t, _) => t.place.tier != o.desc.home.toNat).map (·.2)

/-- Begin to bring tiles of an object into its home tier (07 R159, R161); false where one does not fit. -/
def State.homeTiles (s : State) (p : Nat) (c : CtxNo) (base : BitVec 42) : List Nat → State × Bool
  | [] => (s, true)
  | i :: is =>
    match (s.obj? c base).bind fun o => (o.tiles[i]?).map fun t => (o, t) with
    | none => (s, false)
    | some (o, t) =>
      if s.migrating c base i then s.homeTiles p c base is
      else
        match s.alloc p (some c) o.desc.home.toNat t.place.cluster (tileUnits o.desc) (tileUnits o.desc) with
        | (s', some u) => (s'.startMigration c base i ⟨o.desc.home.toNat, t.place.cluster, u⟩).homeTiles p c base is
        | (s', none) => (s', false)

/-- Set the pin bit of an object. -/
def State.setPin (s : State) (c : CtxNo) (base : BitVec 42) (on : Bool) : State :=
  s.modObj c base fun x => { x with desc := { x.desc with pin := on } }

/-- In pool mode, begin the evictions that the tiles of an object to be pinned need in tier 0, cluster by cluster (07
R170). -/
def State.roomForPin (s : State) (p : Nat) (o : Obj) : State :=
  if o.desc.home != 0 then s
  else
    let away := o.away.filterMap fun i => (o.tiles[i]?).map fun t => t.place.cluster
    away.eraseDups.foldl (fun st k => st.makeRoom p k (tileUnits o.desc) (away.filter (· == k)).length) s

/-- Pin an object whose tiles do not all lie in its home tier (07 R159, R161): it stands as pinned while they move, so
that none of its own is evicted; migrations that would carry a tile away from home are given up (R165). Where a tile
does not fit the object is left unpinned, and nothing else has changed (R169) but, in pool mode, what was evicted and the
migrations given up (R170). -/
def State.pinAway (s : State) (p : Nat) (o : Obj) : State × Option Nat :=
  let base := o.desc.vbase
  let t := (s.setPin o.ctx base true).cancelMigrations o.ctx base fun m => m.dest.tier != o.desc.home.toNat
  let room := t.roomForPin p o
  if s.pooled p && room.carried p none 0 != 0 then (room, none)
  else
    match room.homeTiles p o.ctx base o.away with
    | (u, true) => (u, none)
    | (u, false) =>
      if s.pooled p then ((u.setPin o.ctx base false).cancelMigrations o.ctx base fun m => !room.migrations.contains m, some stQuota)
      else (s.setPin o.ctx base false, some stQuota)

/-- OBJ.PIN (07 R158, R159). It waits while the run in progress binds an object with tiles to move, and until the tiles
that it moves have switched (07 R161). -/
def objPinBody (base : BitVec 42) (s : State) (q : Req) : Ran :=
  withObj q base s fun o =>
    if o.ofDevice then .status s stBadField
    else if s.loaded o.ctx base then .status (s.setPin o.ctx base true) stOk
    else if o.away.isEmpty then
      .status ((s.setPin o.ctx base true).cancelMigrations o.ctx base fun m => m.dest.tier != o.desc.home.toNat) stOk
    else if s.bound o then .waits
    else
      match s.pinAway (ptnOf o.ctx) o with
      | (t, some st) => .status t st
      | (t, none) => .again t

def execObjPin (q : Req) (base : BitVec 42) (s : State) : Result := .next (runCommand (.objPin q base) s (objPinBody base))

/-- Carry a reclaim that has ended with residual excess on, where tiles have become candidates (07 R172). -/
def State.reopenReclaim (s : State) (c : CtxNo) : State :=
  let s := s.modPtn (ptnOf c) fun x => if (x.overT0 || x.overT1) && !x.reclaiming then { x with reclaiming := true } else x
  s.modCtx c fun x => if x.overLimit && !x.reclaiming then { x with reclaiming := true } else x

/-- OBJ.UNPIN (07 R158): residual excess that the object was part of is reclaimed (R172). -/
def objUnpinBody (base : BitVec 42) (s : State) (q : Req) : Ran :=
  withObj q base s fun o =>
    if o.ofDevice then .status s stBadField
    else if s.loaded o.ctx base then .status s stInUse
    else .status ((s.setPin o.ctx base false).reopenReclaim o.ctx) stOk

def execObjUnpin (q : Req) (base : BitVec 42) (s : State) : Result :=
  .next (runCommand (.objUnpin q base) s (objUnpinBody base))

/-- Begin to move the tiles of an object that lie outside its home tier and fit there (07 R163); tiles that find no unit
stay. -/
def State.placeHome (s : State) (p : Nat) (c : CtxNo) (base : BitVec 42) : List Nat → State
  | [] => s
  | i :: is =>
    match (s.obj? c base).bind fun o => (o.tiles[i]?).map fun t => (o, t) with
    | none => s
    | some (o, t) =>
      let home := o.desc.home.toNat
      if s.migrating c base i || (s.overQuota p (some c) && home = 0) || !s.within p (some c) home (tileUnits o.desc) then
        s.placeHome p c base is
      else
        match s.freeUnit home t.place.cluster (tileUnits o.desc) (tileUnits o.desc) with
        | some u => (s.startMigration c base i ⟨home, t.place.cluster, u⟩).placeHome p c base is
        | none => s.placeHome p c base is

/-- Give an object its new home, and begin to move its tiles there (07 R163). -/
def State.giveHome (s : State) (o : Obj) (home : BitVec 2) : State :=
  let base := o.desc.vbase
  let t := (s.modObj o.ctx base fun x => { x with desc := { x.desc with home := home } }).cancelMigrations o.ctx base
    fun m => m.dest.tier != home.toNat
  t.placeHome (ptnOf o.ctx) o.ctx base ({ o with desc := { o.desc with home := home } } : Obj).away

/-- OBJ.PLACE (07 R158, R163): it waits until the tiles that it moves have switched (R161); res0 is the number of tiles
left outside the new home. Of an image that is both pinned and loaded R163 gives ST_BAD_FIELD and R158 ST_IN_USE: DESIGN
CHOICE, the pin is tested first (log entry 164). -/
def objPlaceBody (base : BitVec 42) (home : BitVec 2) (s : State) (q : Req) : Ran :=
  withObj q base s fun o =>
    if o.ofDevice || o.desc.pin then .status s stBadField
    else if s.loaded o.ctx base then .status s stInUse
    else if s.bound o then .waits
    else
      let t := s.giveHome o home
      if t.objMigrates o.ctx base then .again t
      else
        .done (t.quotaClear (ptnOf o.ctx)) stOk (o.tiles.filter fun k => k.place.tier != home.toNat).length 0

def execObjPlace (q : Req) (base : BitVec 42) (home : BitVec 2) (s : State) : Result :=
  .next (runCommand (.objPlace q base home) s (objPlaceBody base home))

/-- Descriptor bits [31:0] (07 Table TIR.3). -/
def ObjDesc.low (d : ObjDesc) : Nat :=
  packBits [(d.kind.toNat, 0), (d.home.toNat, 4), (d.pin.toNat, 6), (d.prot.toNat, 7), (d.comp.toNat, 8),
    (d.elem.toNat, 9), (d.tile.toNat, 11), (d.budget.toNat, 12), (d.drop.toNat, 23), (d.clu.toNat, 25)]

/-- OBJ.QUERY (07 R157). -/
def objQueryBody (base : BitVec 42) (s : State) (q : Req) : Ran :=
  withObj q base s fun o => .done s stOk (ObjDesc.low o.desc) o.desc.length.toNat

def execObjQuery (q : Req) (base : BitVec 42) (s : State) : Result :=
  .next (runCommand (.objQuery q base) s (objQueryBody base))

/-! ### MEM commands (12 R312) -/

/-- Whether a MEM command on an object waits: a run in progress binds it, or a tile of it migrates. -/
def State.memWaits (s : State) (o : Obj) : Bool :=
  s.bound o || s.migrations.any fun m => m.ctx == o.ctx && m.base == o.desc.vbase

/-- Count the bytes that a range of an object brings from, or to, each tier (20 Table OBS.1: counters 18 to 21). -/
def State.countTiers (s : State) (o : Obj) (off n : Nat) (write : Bool) : State :=
  (o.pieces off n).foldl (fun st (a, k) =>
    match o.locate a with
    | some (t, _, _) => st.count o.ctx (18 + 2 * t + Bits.ofBool write) k
    | none => st) s

/-- Bytes of the host memory that a command names. -/
def State.readHostOf (s : State) (q : Req) (a : BitVec 64) (n : Nat) : List Byte :=
  match s.hostOf q with
  | some h => s.readHost h a.toNat n
  | none => []

/-- MEM.WRITE: host to object; a line whose write failed is left poisoned (08 R191). -/
def memWriteBody (base off : BitVec 42) (host : BitVec 64) (n : BitVec 32) (s : State) (q : Req) : Ran :=
  if n = 0 then .status s stOkEmpty
  else
    withObj q base s fun o =>
      if o.desc.kind = kindWeights then .status s stBadField
      else if o.size < off.toNat + n.toNat then .status s stBadField
      else if s.memWaits o then .waits
      else if !s.hostUp q then .status s stHostDetached
      else
        let s := (s.writeObj o off.toNat (s.readHostOf q host n.toNat)).hostMeets o off.toNat n.toNat false
        .status ((s.countTiers o off.toNat n.toNat true).count o.ctx 25 n.toNat) stOk

def execMemWrite (q : Req) (base off : BitVec 42) (host : BitVec 64) (n : BitVec 32) (s : State) : Result :=
  .next (runCommand (.memWrite q base off host n) s (memWriteBody base off host n))

/-- MEM.READ: object to host; it stops at a poisoned line (08 R192). -/
def memReadBody (base off : BitVec 42) (host : BitVec 64) (n : BitVec 32) (s : State) (q : Req) : Ran :=
  if n = 0 then .status s stOkEmpty
  else
    withObj q base s fun o =>
      if o.size < off.toNat + n.toNat then .status s stBadField
      else if s.memWaits o then .waits
      else
        let s := s.hostMeets o off.toNat n.toNat true
        let bad := s.objPoison o off.toNat n.toNat
        let k := match bad with
          | some b => b - off.toNat
          | none => n.toNat
        let s' := s.writeHostOf q host (s.readObj o off.toNat k)
        .status ((s'.countTiers o off.toNat k false).count o.ctx 25 k) (if bad.isSome then stPoison else stOk)

def execMemRead (q : Req) (base off : BitVec 42) (host : BitVec 64) (n : BitVec 32) (s : State) : Result :=
  .next (runCommand (.memRead q base off host n) s (memReadBody base off host n))

/-- MEM.COPY: the source is read whole before the destination is written (log entry 18); a poisoned source line ends it
as it ends MEM.READ. -/
def memCopyBody (src srcOff dst dstOff : BitVec 42) (n : BitVec 32) (s : State) (q : Req) : Ran :=
  if n = 0 then .status s stOkEmpty
  else
    withObj q src s fun a => withObj q dst s fun b =>
      if b.desc.kind = kindWeights then .status s stBadField
      else if a.size < srcOff.toNat + n.toNat ∨ b.size < dstOff.toNat + n.toNat then .status s stBadField
      else if s.memWaits a || s.memWaits b then .waits
      else
        let s := s.hostMeets a srcOff.toNat n.toNat true
        let bad := s.objPoison a srcOff.toNat n.toNat
        let k := match bad with
          | some x => x - srcOff.toNat
          | none => n.toNat
        let s' := (s.writeObj b dstOff.toNat (s.readObj a srcOff.toNat k)).hostMeets b dstOff.toNat k false
        .status ((s'.countTiers a srcOff.toNat k false).countTiers b dstOff.toNat k true)
          (if bad.isSome then stPoison else stOk)

def execMemCopy (q : Req) (src srcOff dst dstOff : BitVec 42) (n : BitVec 32) (s : State) : Result :=
  .next (runCommand (.memCopy q src srcOff dst dstOff n) s (memCopyBody src srcOff dst dstOff n))

/-- A 32-bit pattern repeated over n bytes. -/
def patternBytes (pattern : BitVec 32) (n : Nat) : List Byte :=
  (List.range n).map fun i => BitVec.ofNat 8 (pattern.toNat / 256 ^ (i % 4))

/-- MEM.FILL. -/
def memFillBody (base off : BitVec 42) (pattern n : BitVec 32) (s : State) (q : Req) : Ran :=
  if n = 0 then .status s stOkEmpty
  else
    withObj q base s fun o =>
      if o.desc.kind = kindWeights then .status s stBadField
      else if o.size < off.toNat + n.toNat then .status s stBadField
      else if s.memWaits o then .waits
      else
        .status (((s.writeObj o off.toNat (patternBytes pattern n.toNat)).hostMeets o off.toNat n.toNat false).countTiers o
          off.toNat n.toNat true) stOk

def execMemFill (q : Req) (base off : BitVec 42) (pattern n : BitVec 32) (s : State) : Result :=
  .next (runCommand (.memFill q base off pattern n) s (memFillBody base off pattern n))

end Sys2Proof.Machine
end

