-- ==== Sys2Proof/Machine/Sync.lean ====
section
/-! DEFINITION. SYNC objects and FENCE.BARRIER (12 R311, 01 R36 to R38), and the commands of the DEV group that change
no configuration (12 R299, Table CMD.8; 14 R365, R366). -/

namespace Sys2Proof.Machine

/-! ### SYNC -/

/-- A SYNC object of the partition that a context belongs to. -/
def State.sync? (s : State) (p : Nat) (n : BitVec 12) : Option Sync :=
  (s.ptn? p).bind fun x => x.syncs.find? fun y => y.no == n

/-- A body that names a SYNC object of the issuer's partition; no such object answers ST_NO_OBJECT (12 R294, R311). -/
def withSync (q : Req) (n : BitVec 12) (s : State) (f : Nat → Sync → Ran) : Ran :=
  withCtx q s fun c =>
    match s.sync? (ptnOf c) n with
    | some y => f (ptnOf c) y
    | none => .status s stNoObject

/-- SYNC.CREATE: the number is a free value where it is free, else the lowest free one (log entry 3). -/
def syncCreateBody (value : BitVec 64) (s : State) (q : Req) : Ran :=
  withCtx q s fun c =>
    match s.ptn? (ptnOf c) with
    | none => .status s stNoObject
    | some x =>
      let used := x.syncs.map fun y => y.no.toNat
      let (v, s') := s.takeFree
      let want := v.toNat % 4096
      match (if used.contains want then Lists.lowestFree 4096 used else some want) with
      | none => .status s stLimit
      | some n =>
        let y : Sync := ⟨BitVec.ofNat 12 n, value⟩
        .done (s'.modPtn (ptnOf c) fun z => { z with syncs := z.syncs ++ [y] }) stOk n 0

def execSyncCreate (q : Req) (value : BitVec 64) (s : State) : Result :=
  .next (runCommand (.syncCreate q value) s (syncCreateBody value))

/-- The pending waits of a partition on a SYNC object, in order of acceptance, with their targets. -/
def State.waitsOn (s : State) (p : Nat) (n : BitVec 12) : List (Req × BitVec 64) :=
  s.accepted.filterMap fun a =>
    match a.cmd, a.q.ring with
    | .syncWait _ m t, .ctx c => if a.started && m == n && ptnOf c == p then some (a.q, t) else none
    | _, _ => none

/-- SYNC.SIGNAL: the value saturates, and the waits that it reaches complete. -/
def syncSignalBody (n : BitVec 12) (inc : BitVec 64) (s : State) (q : Req) : Ran :=
  if inc = 0 then .status s stOkEmpty
  else
    withSync q n s fun p y =>
      let v := BitVec.ofNat 64 (Bits.satAdd 64 y.value.toNat inc.toNat)
      let s := s.modPtn p fun x => { x with syncs := Lists.modifyIf (fun z => z.no == n) (fun z => { z with value := v }) x.syncs }
      let met := (s.waitsOn p n).filter fun w => w.2.toNat ≤ v.toNat
      .status (met.foldl (fun st w => st.finish w.1 stOk 0 0) s) stOk

def execSyncSignal (q : Req) (n : BitVec 12) (inc : BitVec 64) (s : State) : Result :=
  .next (runCommand (.syncSignal q n inc) s (syncSignalBody n inc))

/-- SYNC.WAIT: a target already met completes at once, another waits for a signal. -/
def syncWaitBody (n : BitVec 12) (target : BitVec 64) (s : State) (q : Req) : Ran :=
  withSync q n s fun _ y => if target.toNat ≤ y.value.toNat then .status s stOk else .goesOn s

def execSyncWait (q : Req) (n : BitVec 12) (target : BitVec 64) (s : State) : Result :=
  .next (runCommand (.syncWait q n target) s (syncWaitBody n target))

/-- SYNC.FREE: every pending wait on the object completes with ST_NO_OBJECT. -/
def syncFreeBody (n : BitVec 12) (s : State) (q : Req) : Ran :=
  withSync q n s fun p _ =>
    let s := (s.waitsOn p n).foldl (fun st w => st.finish w.1 stNoObject 0 0) s
    .status (s.modPtn p fun x => { x with syncs := x.syncs.filter fun z => z.no != n }) stOk

def execSyncFree (q : Req) (n : BitVec 12) (s : State) : Result :=
  .next (runCommand (.syncFree q n) s (syncFreeBody n))

/-- SYNC.QUERY. -/
def syncQueryBody (n : BitVec 12) (s : State) (q : Req) : Ran :=
  withSync q n s fun _ y => .done s stOk y.value.toNat 0

def execSyncQuery (q : Req) (n : BitVec 12) (s : State) : Result :=
  .next (runCommand (.syncQuery q n) s (syncQueryBody n))

/-! ### FENCE.BARRIER -/

/-- FENCE.BARRIER (01 R36 to R38): it starts once the effects of the earlier commands have reached its scope; of host
scope, where the owning host was detached since it was issued, it completes with ST_HOST_DETACHED. A fence whose
acknowledgements a lost device owes ends as the device is lost. -/
def fenceBarrierBody (s : State) (q : Req) : Ran :=
  if q.fbScope = 3 && (!s.hostUp q || s.accepted.any fun a => a.q == q && a.cutOff) then .status s stHostDetached else .status s stOk

def execFenceBarrier (q : Req) (s : State) : Result := .next (runCommand (.fenceBarrier q) s fenceBarrierBody)

/-! ### DEV -/

/-- DEV.NOP. -/
def devNopBody (s : State) (_ : Req) : Ran := .status s stOk

def execDevNop (q : Req) (s : State) : Result := .next (runCommand (.devNop q) s devNopBody)

/-- The interface version of the firmware that runs (12 R299). -/
def State.iface (s : State) : BitVec 32 := s.fw.running.iface
/-- Whether a runtime's version matches the firmware's: equal majors, and a minor that does not exceed it. -/
def State.versionMatches (s : State) (rt : BitVec 32) : Bool :=
  rt.toNat / 65536 == s.iface.toNat / 65536 && rt.toNat % 65536 ≤ s.iface.toNat % 65536

/-- DEV.HELLO (12 R299). -/
def devHelloBody (version : BitVec 32) (s : State) (q : Req) : Ran :=
  match q.ring with
  | .host h => .done (s.modHost h fun x => { x with rtVer := version, hello := true }) stOk s.iface.toNat 0
  | .ctx _ => .status s stDenied

def execDevHello (q : Req) (version : BitVec 32) (s : State) : Result :=
  .next (runCommand (.devHello q version) s (devHelloBody version))

/-- DEV_ID (00 R4). -/
def devId : Nat := 0x71601100

/-- DEV.QUERY. -/
def devQueryBody (s : State) (_ : Req) : Ran := .done s stOk Config.serial.toNat devId

def execDevQuery (q : Req) (s : State) : Result := .next (runCommand (.devQuery q) s devQueryBody)

end Sys2Proof.Machine
end

