-- ==== Sys2Proof/Machine/Felt.lean ====
section
/-! DEFINITION. The Felt fabric (13): keys and the checks of received frames, sending by route and credit, bring-up,
rotation, link state, addresses, routes, data streams and multicast trees. The rows of groups stand in Groups.lean. -/

namespace Sys2Proof.Machine

/-! ### Ports -/

/-- A Felt port. -/
def State.port (s : State) (k : Fin 8) : Port := s.felt.ports[k]
/-- Change the Felt side of the device. -/
def State.modFelt (s : State) (f : Felt → Felt) : State := { s with felt := f s.felt }
/-- Change a Felt port. -/
def State.modPort (s : State) (k : Fin 8) (f : Port → Port) : State :=
  s.modFelt fun x => { x with ports := x.ports.set k (f x.ports[k]) }
/-- The numbers of the ports that are up. -/
def State.portsUp (s : State) : List (Fin 8) := (List.finRange 8).filter fun k => (s.port k).phase == .up

/-! ### Keys and tags (13 R320 to R322) -/

/-- A 64-bit value as 8 little-endian bytes. -/
def le8 (x : BitVec 64) : List Byte := Bits.toBytes 8 x.toNat

/-- The key of the frames that a device with serial sender sends on the link to serial other, in an epoch (13 R321). -/
def linkKey (sender other epoch : BitVec 64) : BitVec 256 :=
  let lo := if sender.toNat ≤ other.toNat then sender else other
  let hi := if sender.toNat ≤ other.toNat then other else sender
  let k := (Config.kmac Config.linkRoot (le8 lo ++ le8 hi ++ le8 epoch) "FELT-LINK").toNat
  BitVec.ofNat 256 (if sender.toNat ≤ other.toNat then k else k / 2 ^ 256)

/-- The proof that a device with serial own sends to serial peer (13 R324 step 3). -/
def linkProof (own peer epoch : BitVec 64) : BitVec 256 :=
  BitVec.ofNat 256 (Config.kmac Config.linkRoot (le8 own ++ le8 peer ++ le8 epoch) "FELT-PROVE").toNat

/-- The header of a frame as its 256 bits (13 Table FAB.2). -/
def frameHeader (f : Frame) : BitVec 256 :=
  BitVec.ofNat 256 (packBits [(f.ctr.toNat, 0), (f.dst.toNat, 64), (f.src.toNat, 80), (f.type.toNat, 96),
    (f.dpart.toNat, 100), (f.spart.toNat, 103), (f.hops.toNat, 106), (Bits.ofBool f.kp, 110), (f.rsvd.toNat % 2, 111),
    (f.length.toNat, 112), (f.rsvd.toNat / 2, 125), (f.seq.toNat, 128), (f.offset.toNat, 160), (f.tree.toNat, 208)])

/-- Whether a frame's form is sound (13 R319): a type in use, no reserved bit, a length that agrees with the frame. -/
def frameFormOk (f : Frame) : Bool :=
  1 ≤ f.type.toNat && f.type.toNat ≤ 5 && f.rsvd == 0 && f.length.toNat ≤ 4096 && f.length.toNat == f.payload.length &&
    (f.type.toNat ≤ 2 || f.length == 16) && (f.type.toNat ≤ 2 || f.tree == 0) && (f.type.toNat != 1 || f.tree == 0)

/-- Encrypt or decrypt a payload under a key and counter (13 R320). -/
def frameCrypt (key : BitVec 256) (ctr : BitVec 64) (bs : List Byte) : List Byte :=
  bs.zipIdx.map fun (b, i) => b ^^^ Config.gcmStream key ctr i

/-- Whether a frame's tag verifies under a key. -/
def frameTagOk (f : Frame) (key : BitVec 256) : Bool := Config.gcmTag key f.ctr (frameHeader f) f.payload == f.tag

/-- The key and highest accepted counter that a received frame is checked against; true where it is the next key. -/
def Port.rxKey (x : Port) (f : Frame) : Option (BitVec 256 × BitVec 64 × Bool) :=
  match x.phase with
  | .hello => some (0, x.rxTop, false)
  | .authentication => some (0, x.rxTop, false)
  | .up =>
    if f.kp = x.rxKp then some (linkKey x.peer Config.serial x.epoch, x.rxTop, false)
    else x.next.map fun e => (linkKey x.peer Config.serial e, x.nextTop, true)
  | _ => none

/-- Whether a port accepts a frame (13 R319, R322), and whether under the next key. -/
def Port.accepts (x : Port) (f : Frame) : Option Bool :=
  match x.rxKey f with
  | none => none
  | some (key, top, isNext) => if frameFormOk f && frameTagOk f key && top.toNat < f.ctr.toNat then some isNext else none

/-- A received frame with its payload decrypted. -/
def Port.opened (x : Port) (f : Frame) : Frame :=
  match x.rxKey f with
  | none => f
  | some (key, _, _) => { f with payload := frameCrypt key f.ctr f.payload }

/-- The key of the frames that a port sends (13 R321, R324). -/
def Port.txKey (x : Port) : BitVec 256 := if x.phase = .up then linkKey Config.serial x.peer x.txEpoch else 0

/-! ### What frames carry (13 R319) -/

/-- The type of a message's frames (13 Table FAB.2). -/
def FeltBody.type : FeltBody → Nat
  | .data .. => 1 | .multicast .. => 2 | .ack .. => 3
  | .done .. => 5 | .release .. => 5 | .held => 5 | .abort => 5
  | _ => 4

/-- Whether a message is link or route control, which a device without an address sends too (13 R325). -/
def FeltBody.linkControl : FeltBody → Bool
  | .hello .. => true | .proof .. => true | .rotate .. => true | .rotateAck => true | .linkState .. => true
  | .assign .. => true | .treeJoin .. => true | .idle => true
  | _ => false

/-- A control message as its number, its fields and its length in bytes: it leaves as as many frames of 16 bytes as that
takes, in an encoding that the manual does not give (log entry 147). -/
def FeltBody.fields : FeltBody → Nat × List Nat × Nat
  | .data .. => (0, [], 0)
  | .multicast .. => (1, [], 0)
  | .ack first n beyond => (2, [first.toNat, n.toNat, Bits.ofBool beyond], 9)
  | .hello serial nonce iface addr =>
    (3, [serial.toNat, nonce.toNat, iface.toNat, (addr.map BitVec.toNat).getD 0, Bits.ofBool addr.isSome], 19)
  | .proof bits => (4, [bits.toNat], 32)
  | .rotate epoch => (5, [epoch.toNat], 8)
  | .rotateAck => (6, [], 0)
  | .linkState ls =>
    (7, [ls.serial.toNat, (ls.addr.map BitVec.toNat).getD 0, Bits.ofBool ls.addr.isSome, Bits.ofBool ls.anchor,
      Bits.ofBool ls.claimed] ++ ls.peers.flatMap (fun (k, x) => [k, x.toNat]), 11 + 9 * ls.peers.length)
  | .assign serial addr => (8, [serial.toNat, addr.toNat], 10)
  | .join j => (9, [j.group.toNat, j.count.toNat, Bits.ofBool j.lockstep, j.digest.toNat], 39)
  | .leave moved => (10, [Bits.ofBool moved], 1)
  | .done beat admitted =>
    (11, beat.toNat :: match admitted with
      | some (shape, n) => [1, shape.toNat, n.toNat]
      | none => [0], 21)
  | .release beat => (12, [beat.toNat], 8)
  | .held => (13, [], 0)
  | .abort => (14, [], 0)
  | .treeJoin reader group => (15, [reader.toNat, group.toNat], 4)
  | .request session tile => (16, [session.toNat, tile], 8)
  | .idle => (17, [], 0)

/-- The payloads of a message's frames, in order. -/
def FeltBody.payloads : FeltBody → List (List Byte)
  | .data _ _ bs => [bs]
  | .multicast _ _ _ _ bs => [bs]
  | b =>
    let (no, fs, n) := b.fields
    (List.range (max 1 (Bits.ceilDiv n 16))).map fun i => Bits.toBytes 16 (Config.controlPayload no fs i).toNat

/-- A frame of a message as its sender forms it, before encryption: its header fields and payload. -/
def Outgoing.frame (o : Outgoing) (ctr : BitVec 64) (kp : Bool) (bs : List Byte) : Frame :=
  let (seq, offset, tree) : BitVec 32 × BitVec 48 × BitVec 48 :=
    match o.body with
    | .data seq off _ => (seq, off, 0)
    | .multicast reader group seq off _ => (seq, off, BitVec.ofNat 48 (packBits [(group.toNat, 0), (reader.toNat, 16)]))
    | _ => (0, 0, 0)
  { ctr := ctr, dst := o.dst, src := o.src, type := BitVec.ofNat 4 o.body.type, dpart := o.dpart, spart := o.spart,
    hops := BitVec.ofNat 4 o.hops, kp := kp, rsvd := 0, length := BitVec.ofNat 13 bs.length, seq := seq, offset := offset,
    tree := tree, payload := bs, tag := 0 }

/-- A message's frames as they leave a port: each takes the next counter of the key, is encrypted and carries its tag (13
R320, R322). -/
def Port.wire (x : Port) (k : Nat) (o : Outgoing) : List Sent :=
  o.body.payloads.zipIdx.map fun (bs, i) =>
    let ctr := x.txCtr + BitVec.ofNat 64 i
    let header := frameHeader (o.frame ctr x.txKp bs)
    let cipher := frameCrypt x.txKey ctr bs
    ⟨k, o, header, cipher, Config.gcmTag x.txKey ctr header cipher⟩

/-! ### Sending -/

/-- A link state of this device (13 R329). -/
def State.ownState (s : State) : LinkState where
  serial := Config.serial
  addr := s.felt.addr
  anchor := s.felt.anchorSn == Config.serial
  claimed := s.felt.claimed
  peers := s.portsUp.map fun k => (k.val, (s.port k).peer)

/-- The route entry of a destination (13 R329): none for the device itself. -/
def State.route? (s : State) (dst : BitVec 16) : Route :=
  match s.felt.addr with
  | some a =>
    if a.toNat / 256 = dst.toNat / 256 then Table.get {} s.felt.memberTab (dst.toNat % 256)
    else Table.get {} s.felt.groupTab (dst.toNat / 256)
  | none => Table.get {} s.felt.groupTab (dst.toNat / 256)

/-- Whether an entry leads to a destination. -/
def State.reaches (s : State) (dst : BitVec 16) : Bool := s.felt.addr == some dst || (s.route? dst).primary != 0xF

/-- The ports of an entry in the order that a frame tries them. -/
def Route.ports (r : Route) : List (Fin 8) :=
  [r.primary, r.alt1, r.alt2].filterMap fun p => if h : p.toNat < 8 then some ⟨p.toNat, h⟩ else none

/-- The key of a credit: hop class at the next device and virtual channel. -/
def creditKey (hopClass channel : Nat) : Nat := hopClass * 16 + channel

/-- Whether a port has room for a frame: the control room of a slot always has (13 R318); a data channel needs credit of
the class that the next device buffers it in, that of the hops it leaves with (13 R331), and in fixed-share mode a slot
(13 R335). -/
def State.hasRoom (s : State) (k : Fin 8) (o : Outgoing) : Bool :=
  9 ≤ o.channel ||
    (0 < Table.get 0 (s.port k).credits (creditKey o.hops o.channel) &&
      (!s.live.fixedShare || 8 ≤ o.channel || ((s.ptn? o.channel).map fun x => x.live.slots != 0).getD false))

/-- The turns of a port's data channels (13 R335): each channel as often as its weight in shared mode, as often as it has
slots of a cycle in fixed-share mode; partitions ascending, then transit. Idle slots pass unseen (log entry 155). -/
def State.slotCycle (s : State) : List Nat :=
  let fixed := s.live.fixedShare
  let share := fun (p : Nat) => ((s.ptn? p).map fun x => if fixed then x.live.slots else x.live.weight).getD 0
  (List.range 8).flatMap (fun p => List.replicate (share p) p) ++
    List.replicate (if fixed then s.live.transitSlots else s.live.transitWt) 8

/-- The turns from a place on, once round. -/
def turnsFrom (cycle : List Nat) (at_ : Nat) : List (Nat × Nat) :=
  (List.range cycle.length).filterMap fun i => (cycle[(at_ + i) % cycle.length]?).map fun c => ((at_ + i) % cycle.length, c)

/-- The place after the next turn of a channel. -/
def afterTurn (cycle : List Nat) (at_ channel : Nat) : Nat :=
  (((turnsFrom cycle at_).find? fun t => t.2 == channel).map fun t => t.1 + 1).getD at_

/-- Frames in the order in which their channels take turns, those of one channel in their own order. -/
def byTurns (cycle : List Nat) : Nat → Nat → List Outgoing → List Outgoing
  | 0, _, os => os
  | fuel + 1, at_, os =>
    match (turnsFrom cycle at_).findSome? fun t => (os.find? fun o => o.channel == t.2).map fun o => (t.1, o) with
    | none => os
    | some (i, o) => o :: byTurns cycle fuel (i + 1) (os.erase o)

/-- The port that a frame leaves by now: its own, or the first healthy one of its entry that has room (13 R330). -/
def State.egress (s : State) (o : Outgoing) : Option (Fin 8) :=
  match o.port with
  | some n => if h : n < 8 then some ⟨n, h⟩ else none
  | none => ((s.route? o.dst).ports.find? fun k => (s.port k).healthy).filter fun k => s.hasRoom k o

/-- A message leaves a port: its frames take the next counters of the key, and a data frame its credit and its turn. -/
def State.putOut (s : State) (k : Fin 8) (o : Outgoing) : State :=
  let out := (s.port k).wire k.val o
  let s := s.modFelt fun f => { f with sent := f.sent ++ out }
  s.modPort k fun x =>
    let key := creditKey o.hops o.channel
    { x with
      txCtr := x.txCtr + BitVec.ofNat 64 out.length
      lastSent := s.now
      slotAt := if 9 ≤ o.channel then x.slotAt else afterTurn s.slotCycle x.slotAt o.channel
      credits := if 9 ≤ o.channel then x.credits else Table.set x.credits key (Table.get 0 x.credits key - 1) }

/-- Give the credit of a buffer back to the peer of a port (13 R331). How credit travels is not given: it is counted
here, and that of the peer comes with LINK_CREDIT (log entry 167). -/
def State.giveCredit (s : State) (x : Option (Fin 8 × Nat)) : State :=
  match x with
  | some (k, key) => s.modPort k fun y => { y with returned := Table.set y.returned key (Table.get 0 y.returned key + 1) }
  | none => s

/-- The buffer that a data frame holds at the port it came in by: its class is its hops, its channel its source
partition's on the first hop and transit from then on (13 R331, R334). -/
def frameBuffer (k : Fin 8) (f : Frame) : Option (Fin 8 × Nat) :=
  some (k, creditKey f.hops.toNat (if f.hops = 0 then f.spart.toNat else 8))

/-- Mark a data frame as sent by a port now. -/
def State.markSent (s : State) (k : Fin 8) (o : Outgoing) : State :=
  match o.body with
  | .data seq _ _ =>
    let mine := fun (u : Unacked) => u.spart == o.spart && u.dst == o.dst && u.dpart == o.dpart && u.seq == seq &&
      s.felt.addr == some o.src
    s.modFelt fun f => { f with unacked := Lists.modifyIf mine (fun u => { u with sentAt := s.now, port := some k.val }) f.unacked }
  | _ => s

/-- Mark a data frame to the device itself as sent now. -/
def State.markHere (s : State) (o : Outgoing) : State :=
  match o.body with
  | .data seq _ _ =>
    let mine := fun (u : Unacked) => u.spart == o.spart && u.dst == o.dst && u.dpart == o.dpart && u.seq == seq
    s.modFelt fun f => { f with unacked := Lists.modifyIf mine (fun u => { u with sentAt := s.now }) f.unacked }
  | _ => s

/-- The branches of a multicast tree as ports. -/
def Tree.ports (t : Tree) : List (Fin 8) :=
  t.branches.filterMap fun b => if h : b.1 < 8 then some ⟨b.1, h⟩ else none

/-- A multicast tree by its name. -/
def State.tree? (s : State) (reader group : BitVec 16) : Option Tree :=
  s.felt.trees.find? fun t => t.reader == reader && t.group == group

/-- The shard that a weight object takes from the tree next: the lowest wanted one of which nothing has come. -/
def WeightObj.nextShard (w : WeightObj) : Option Wanted := w.wanted.find? fun x => !w.overwritten.contains x.tile

/-- Whether a session's tree carries the shards that an object receives. -/
def WeightObj.fedBy (w : WeightObj) (reader group : BitVec 16) : Bool :=
  match if w.phase = .swapping then w.nextSource else w.source with
  | .session no r => r == reader && Config.sessionGroup r no == group && !w.wanted.isEmpty
  | .library => false

/-- Whether a weight object of the device that is not ready for the next shard holds back its branch of a tree, and with
it the tree (11 R282, 13 R346): the shard starts at offset 0. -/
def State.holdsTree (s : State) (reader group : BitVec 16) (offset : BitVec 48) : Bool :=
  offset == 0 && s.weights.any fun w => w.fedBy reader group && w.nextShard.any fun x => !x.ready

/-- Whether a message may leave: none but link and route control without an address (13 R325), and a multicast frame only
behind those of its tree, while no branch is held back. -/
def State.maySend (s : State) (o : Outgoing) : Bool :=
  (s.felt.addr.isSome || o.body.linkControl) &&
    match o.body with
    | .multicast reader group _ off _ =>
      !s.holdsTree reader group off && s.felt.waiting.all fun y => match y.body with
        | .multicast r g _ _ _ => !(r == reader && g == group)
        | _ => true
    | _ => true

/-- A frame for the device itself, which is delivered and never looked up (13 R329), as a tree's frame is to a leaf. -/
def State.deliverHere (s : State) (o : Outgoing) : State := s.modFelt fun f => { f with own := f.own ++ [o] }

/-- Send a message, or leave it in its queue. A multicast frame leaves on every branch at once, when all have credit (13
R345), and reaches a leaf with it; a message for the device itself is delivered. -/
def State.send (s : State) (o : Outgoing) : State :=
  let wait := s.modFelt fun f => { f with waiting := f.waiting ++ [o] }
  if !s.maySend o then wait
  else
    match o.body with
    | .multicast reader group .. =>
      match s.tree? reader group with
      | none => s.giveCredit o.owes
      | some t =>
        if t.ports.all fun k => (s.port k).phase == .up && s.hasRoom k o then
          let s := (t.ports.foldl (fun st k => st.putOut k o) s).giveCredit o.owes
          if t.leaf then s.deliverHere o else s
        else wait
    | _ =>
      if o.port.isNone && s.felt.addr == some o.dst then (s.markHere o).deliverHere o
      else
        match s.egress o with
        | some k => ((s.putOut k o).markSent k o).giveCredit o.owes
        | none => wait

/-- The port that a waiting frame would leave by, with or without room; of a multicast frame the first branch. -/
def State.facing (s : State) (o : Outgoing) : Option (Fin 8) :=
  match o.body with
  | .multicast reader group .. => (s.tree? reader group).bind fun t => t.ports.head?
  | _ => (s.route? o.dst).ports.find? fun k => (s.port k).healthy

/-- Send every waiting frame that can leave now: control frames in order, data frames as their channels take turns at each
port (13 R335). -/
def State.flush (s : State) : State :=
  let data := s.felt.waiting.filter fun o => o.channel < 9
  let turns := (List.finRange 8).flatMap fun k =>
    byTurns s.slotCycle data.length (s.port k).slotAt (data.filter fun o => s.facing o == some k)
  let order := (s.felt.waiting.filter fun o => 9 ≤ o.channel) ++ turns ++ data.filter fun o => (s.facing o).isNone
  order.foldl (fun st o => st.send o) (s.modFelt fun f => { f with waiting := [] })

/-- A control frame on a link. -/
def State.sendLink (s : State) (k : Fin 8) (body : FeltBody) : State :=
  s.send ⟨(s.port k).peerAddr.getD 0, s.felt.addr.getD 0, 0, 0, 0, 9, some k.val, body, none⟩

/-- A control frame on every link that is up but one. -/
def State.flood (s : State) (except : Option (Fin 8)) (body : FeltBody) : State :=
  (s.portsUp.filter fun k => except != some k).foldl (fun st k => st.sendLink k body) s

/-- A control frame between partitions. -/
def State.sendControl (s : State) (spart : Nat) (dst : BitVec 16) (dpart : BitVec 3) (body : FeltBody) : State :=
  s.send ⟨dst, s.felt.addr.getD 0, dpart, BitVec.ofNat 3 spart, 0, 9, none, body, none⟩

/-! ### Loss of a link (13 R330, R332) -/

/-- Send a frame again, unless a copy of it waits to leave already. -/
def State.resend (s : State) (u : Unacked) : State :=
  let o : Outgoing := ⟨u.dst, s.felt.addr.getD 0, u.dpart, u.spart, 0, u.spart.toNat, none, .data u.seq u.offset u.payload, none⟩
  if s.felt.waiting.contains o then s else s.send o

/-- Send again, at once, every unacknowledged frame that a port sent last. -/
def State.resendFrom (s : State) (k : Fin 8) : State :=
  (s.felt.unacked.filter fun u => u.port == some k.val).foldl (fun st u =>
    st.resend u) s

/-- A link goes down, or fails: its keys are gone, and its frames move to alternates. -/
def State.linkDown (s : State) (k : Fin 8) (phase : LinkPhase) : State :=
  let was := (s.port k).phase
  let s := s.modPort k fun x => x.dropped s.now phase
  if was = .up then ((s.flood none (.linkState s.ownState)).resendFrom k).flush else s

/-- A frame is dropped with no response (13 R322): counted in tag_fail; four drops within 1 ms make the port unhealthy, so
that waiting frames may leave by an alternate (R330), sixteen take the link down as failed. -/
def State.dropFrame (s : State) (k : Fin 8) : State :=
  let ds := ((s.port k).drops.filter fun t => s.now < t + 1000) ++ [s.now]
  let s := s.modPort k fun x =>
    { x with tagFail := BitVec.ofNat 16 (Bits.satAdd 16 x.tagFail.toNat 1), drops := ds,
             healthy := x.healthy && ds.length < 4 }
  if 16 ≤ ds.length then s.linkDown k .failed else if 4 ≤ ds.length then s.flush else s

/-- Receive a frame on a port: none where it is dropped. Under the next key, the old one is discarded (13 R323). -/
def State.receive (s : State) (k : Fin 8) (f : Frame) : State × Bool :=
  match (s.port k).accepts f with
  | none => (s.dropFrame k, false)
  | some isNext =>
    let take := fun (x : Port) =>
      if isNext then
        { x with epoch := x.next.getD x.epoch, next := none, rxKp := !x.rxKp, rxTop := f.ctr, nextTop := 0, lastValid := s.now }
      else { x with rxTop := f.ctr, lastValid := s.now }
    (s.modPort k take, true)

/-- A row that a received frame drives; what it does sees the payload decrypted. -/
def onFrame (k : Fin 8) (f : Frame) (s : State) (body : Frame → State → State) : State :=
  match s.receive k f with
  | (s', false) => s'
  | (s', true) => body ((s.port k).opened f) s'

/-! ### Bring-up (13 R324) -/

/-- Refuse a link: counted, and tried again after 1 s. -/
def State.refuseLink (s : State) (k : Fin 8) : State :=
  s.modPort k fun x =>
    { x with phase := .refused, healthy := false, since := s.now, refusals := BitVec.ofNat 12 (Bits.satAdd 12 x.refusals.toNat 1) }

/-- Work for the linker: it waits while the linker restarts (16 R411, Table FLT.6). -/
def State.forLinker (s : State) (w : HeldWork) (act : State → State) : State :=
  if s.restarting linkerIsland then { s with heldWork := s.heldWork ++ [w] } else act s

/-- Start training on a port that is down or failed, unless the fleet link root reads all zeros (13 R321, R324). -/
def State.startTraining (s : State) (k : Fin 8) : State :=
  if Config.linkRoot = 0 || s.flt.becalmed || !s.linksRun then s
  else
    match (s.port k).phase with
    | .down => s.modPort k fun x => { x with phase := .training, since := s.now }
    | .failed => s.modPort k fun x => { x with phase := .training, since := s.now }
    | _ => s

/-- LINK_SIGNAL. -/
def linkSignalEffect (k : Fin 8) (s : State) : State :=
  (s.modPort k fun x => { x with signal := true }).forLinker (.signal k) fun s => s.startTraining k

def execLinkSignal (k : Fin 8) (s : State) : Result := .next (linkSignalEffect k s)

/-- The port draws its nonce and sends its hello. -/
def State.sendHello (s : State) (k : Fin 8) : State :=
  if (s.port k).phase != .training || s.now > (s.port k).since + 40000 || s.rng.failing then s
  else
    let (d, s) := s.takeDraw
    let nonce := BitVec.ofNat 32 d.toNat
    let s := s.modPort k fun x => { x with phase := .hello, nonce := nonce, peer := 0, txCtr := 1, rxTop := 0, txKp := false, rxKp := false }
    s.sendLink k (.hello Config.serial nonce s.iface s.felt.addr)

/-- LINK_TRAINING_COMPLETE. -/
def linkTrainingCompleteEffect (k : Fin 8) (s : State) : State := s.forLinker (.trained k) fun s => s.sendHello k

def execLinkTrainingComplete (k : Fin 8) (s : State) : Result := .next (linkTrainingCompleteEffect k s)

/-- TRAINING_TIMEOUT: training that has not finished within 40 ms. -/
def trainingTimeoutEffect (k : Fin 8) (s : State) : State :=
  if (s.port k).phase == .training && (s.port k).since + 40000 ≤ s.now && !s.restarting linkerIsland then s.refuseLink k else s

def execTrainingTimeout (k : Fin 8) (s : State) : Result := .next (trainingTimeoutEffect k s)

/-- REFUSED_RETRY: a refused port retries after 1 s. -/
def refusedRetryEffect (k : Fin 8) (s : State) : State :=
  if (s.port k).phase == .refused && (s.port k).since + 1000000 ≤ s.now && !s.restarting linkerIsland then
    s.modPort k fun x => { x with phase := .training, since := s.now }
  else s

def execRefusedRetry (k : Fin 8) (s : State) : Result := .next (refusedRetryEffect k s)

/-- The epoch that two hellos fix (13 R321). -/
def helloEpoch (own peer : BitVec 64) (nOwn nPeer : BitVec 32) : BitVec 64 :=
  let lo := if own.toNat ≤ peer.toNat then nOwn else nPeer
  let hi := if own.toNat ≤ peer.toNat then nPeer else nOwn
  BitVec.ofNat 64 (lo.toNat * 2 ^ 32 + hi.toNat)

/-- The peer's serial, nonce, interface version and address; a peer with the device's own serial is refused. -/
def State.takeHello (s : State) (k : Fin 8) (serial : BitVec 64) (nonce iface : BitVec 32) (addr : Option (BitVec 16)) : State :=
  if (s.port k).phase != .hello then s
  else if serial = Config.serial then s.refuseLink k
  else
    let e := helloEpoch Config.serial serial (s.port k).nonce nonce
    let s := s.modPort k fun x =>
      { x with phase := .authentication, peer := serial, peerNonce := nonce, peerIface := iface, peerAddr := addr, epoch := e }
    s.sendLink k (.proof (linkProof Config.serial serial e))

/-- HELLO_FRAME. -/
def helloFrameEffect (k : Fin 8) (f : Frame) (serial : BitVec 64) (nonce iface : BitVec 32) (addr : Option (BitVec 16))
    (s : State) : State :=
  if (s.port k).phase != .hello then s
  else
    onFrame k f s fun f s =>
      s.forLinker (.frame k f (.hello serial nonce iface addr)) fun s => s.takeHello k serial nonce iface addr

def execHelloFrame (k : Fin 8) (f : Frame) (serial : BitVec 64) (nonce iface : BitVec 32) (addr : Option (BitVec 16))
    (s : State) : Result := .next (helloFrameEffect k f serial nonce iface addr s)

/-! ### Link state, the anchor and addresses (13 R326 to R329) -/

/-- The flooded states with the device's own. -/
def State.fabric (s : State) : List LinkState := s.ownState :: s.felt.states.filter fun x => x.serial != Config.serial

/-- Serials at each distance from a start, up to fuel hops, never through the serials in avoid: serial and distance. -/
def spread (ls : List LinkState) (avoid : List (BitVec 64)) : Nat → Nat → List (BitVec 64) → List (BitVec 64 × Nat) →
    List (BitVec 64 × Nat)
  | 0, _, _, seen => seen
  | fuel + 1, d, front, seen =>
    let nextOf := fun (x : BitVec 64) => ((ls.find? fun l => l.serial == x).map fun l => l.peers.map (·.2)).getD []
    let found := ((front.flatMap nextOf).eraseDups).filter fun x => !(seen.any fun y => y.1 == x) && !avoid.contains x
    match found with
    | [] => seen
    | _ => spread ls avoid fuel (d + 1) found (seen ++ found.map fun x => (x, d + 1))

/-- The serials that the device reaches, itself included. -/
def State.reachable (s : State) : List (BitVec 64) :=
  (spread s.fabric [] (s.felt.states.length + 1) 0 [Config.serial] [(Config.serial, 0)]).map (·.1)

/-- The least of some serials. -/
def leastSerial : List (BitVec 64) → Option (BitVec 64)
  | [] => none
  | x :: xs =>
    match leastSerial xs with
    | none => some x
    | some y => some (if x.toNat ≤ y.toNat then x else y)

/-- Choose the anchor (13 R326 to R328): the claimed device of lower serial among those that reach one another, else the
lowest serial; the device's own claim is withdrawn where another prevails. -/
def State.elect (s : State) : State :=
  let here := s.reachable
  let claims := (s.fabric.filter fun l => l.claimed && here.contains l.serial).map (·.serial)
  match leastSerial claims with
  | some a =>
    s.modFelt fun f =>
      { f with anchorSn := a, claimed := f.claimed && a == Config.serial, plan := if a = Config.serial then f.plan else [] }
  | none => s.modFelt fun f => { f with anchorSn := if here.length ≤ 1 && f.anchorSn == 0 then 0 else (leastSerial here).getD 0 }

/-- While no parts of the fabric join, the device holds its address in the part of the anchor that it knows. -/
def State.keepAddress (s : State) : State := if s.felt.merging then s else s.modFelt fun x => { x with keptBy := x.anchorSn }

/-- Tell every neighbour this device's link state. -/
def State.announce (s : State) : State := s.flood none (.linkState s.ownState)

/-- Choose the anchor, and tell the neighbours where the device's own claim or its place as anchor changed (13 R327). -/
def State.settleAnchor (s : State) : State :=
  let t := s.elect
  if t.ownState == s.ownState then t else t.announce

/-! ### Groups that end (13 R328, R339, R347) -/

/-- Whether a partition belongs to a Felt group. -/
def Group.inForce (g : Group) : Bool := g.state == 1 || g.state == 2

/-- The group of a partition in force. -/
def State.group? (s : State) (p : Nat) : Option Group := ((s.ptn? p).bind (·.group)).filter Group.inForce

/-- Change a partition's group. -/
def State.modGroup (s : State) (p : Nat) (f : Group → Group) : State := s.modPtn p fun x => { x with group := x.group.map f }

/-- The other members of a group. -/
def Group.others (g : Group) : List (BitVec 16 × BitVec 3) := (g.members.zipIdx.filter fun (_, i) => i != g.index).map (·.1)

/-- The index of a member. -/
def Group.indexOf (g : Group) (addr : BitVec 16) (part : BitVec 3) : Option Nat :=
  (g.members.zipIdx.find? fun (m, _) => m == (addr, part)).map (·.2)

/-- Forget the joins that came for a partition's group. -/
def State.dropJoins (s : State) (p : Nat) : State :=
  s.modFelt fun f => { f with joins := f.joins.filter fun j => j.part.toNat != p }

/-- Give up the frames of a partition that a lost device owes an acknowledgement for, with their FAB.PUT commands (13
R347). -/
def State.endPuts (s : State) (p : Nat) (addr : BitVec 16) : State :=
  let mine := fun (u : Unacked) => u.spart.toNat == p && u.dst == addr
  let puts := (s.felt.unacked.filter mine).filterMap (·.q)
  let s := s.modFelt fun f => { f with unacked := f.unacked.filter fun u => !mine u }
  puts.foldl (fun st q => match st.accepted.find? fun a => a.q == q with
    | some a => match a.cmd with
      | .fabPut .. => st.finish q stPeerLost 0 0
      | _ => st
    | none => st) s

/-- Dissolve a partition's group: FAB_GRP_p reads dissolved, and EV_PEER_LOST goes to the management context. -/
def State.dissolve (s : State) (p : Nat) (addr : BitVec 16) (reason : Nat) : State :=
  match s.group? p with
  | none => s
  | some g =>
    let s := s.modGroup p fun x => { x with state := 3, joined := [], dones := [], helds := [], doneSent := false }
    (s.dropJoins p).event (.ctx (mgmt p)) 0x0070 addr.toNat g.id.toNat reason

/-- End a partition's run in progress, a group run of a formed lockstep group, with a context reset (13 R343, R347). -/
def State.endGroupRun (s : State) (p : Nat) : State :=
  match s.group? p, (s.ptn? p).bind (·.run) with
  | some g, some r => if g.state = 2 ∧ g.lockstep then s.startCtxReset r.ctx (((s.ptn? p).map (·.recNo)).getD 0) else s
  | _, _ => s

/-- The partition leaves its group, or its address moves: a leave frame to every other member (13 R347). -/
def State.sendLeave (s : State) (p : Nat) (moved : Bool) : State :=
  match s.group? p with
  | none => s
  | some g => g.others.foldl (fun st m => st.sendControl p m.1 m.2 (.leave moved)) s

/-- Every group of the device ends because its address changed (13 R328, R347 reason 3). -/
def State.addressMoved (s : State) : State :=
  s.ptnNos.foldl (fun st p =>
    if (st.group? p).isSome then ((st.sendLeave p true).endGroupRun p).dissolve p (st.felt.addr.getD 0) 3 else st) s

/-! ### Rows of links and routes -/

/-- The right proof brings the link up under the keys of R321; another puts the port in refused. -/
def State.takeProof (s : State) (k : Fin 8) (proof : BitVec 256) : State :=
  let x := s.port k
  if x.phase != .authentication then s
  else if proof != linkProof x.peer Config.serial x.epoch then s.refuseLink k
  else
    let credits := (List.range 256).map fun i => (i, Config.initialCredit i)
    let up := fun (y : Port) =>
      { y with phase := .up, healthy := true, rotations := 0, txEpoch := y.epoch, txCtr := 1, txKp := false, rxKp := false,
               rxTop := 0, nextTop := 0, next := none, drops := [], lastUnc := none, lastValid := s.now, keysSince := s.now,
               credits := credits, returned := [] }
    let s := ((s.modPort k up).elect).announce
    let s := s.modFelt fun x => { x with merging := true }
    -- the neighbour learns the states that the device holds of the others (R329)
    s.felt.states.foldl (fun st l => if l.serial = x.peer then st else st.sendLink k (.linkState l)) s

/-- PROOF_FRAME. -/
def proofFrameEffect (k : Fin 8) (f : Frame) (proof : BitVec 256) (s : State) : State :=
  if (s.port k).phase != .authentication then s
  else onFrame k f s fun f s => s.forLinker (.frame k f (.proof proof)) fun s => s.takeProof k proof

def execProofFrame (k : Fin 8) (f : Frame) (proof : BitVec 256) (s : State) : Result := .next (proofFrameEffect k f proof s)

/-- Start a rotation on a port that is up: the rotate frame carries the next epoch (13 R323). -/
def State.rotate (s : State) (k : Fin 8) : State :=
  let x := s.port k
  if x.phase != .up || x.rotSince.isSome || x.next.isSome || s.restarting linkerIsland then s
  else
    let e := x.txEpoch + 1
    (s.modPort k fun y => { y with next := some e, nextTop := 0, rotSince := some s.now }).sendLink k (.rotate e)

/-- A transmitter switches to the next key: kp inverted, ctr from 1 (13 R323 step 3). -/
def State.switchKey (s : State) (k : Fin 8) (e : BitVec 64) : State :=
  s.modPort k fun y =>
    { y with txEpoch := e, txKp := !y.txKp, txCtr := 1, rotSince := none, keysSince := s.now,
             rotations := BitVec.ofNat 16 (Bits.satAdd 16 y.rotations.toNat 1) }

/-- The next keys are derived, the acknowledgement goes out and the transmitter switches. -/
def State.takeRotate (s : State) (k : Fin 8) (epoch : BitVec 64) : State :=
  if (s.port k).phase != .up || epoch != (s.port k).txEpoch + 1 then s
  else
    let s := s.modPort k fun y => { y with next := some epoch, nextTop := 0 }
    (s.sendLink k .rotateAck).switchKey k epoch

/-- ROTATE_FRAME. -/
def rotateFrameEffect (k : Fin 8) (f : Frame) (epoch : BitVec 64) (s : State) : State :=
  if (s.port k).phase != .up then s
  else onFrame k f s fun f s => s.forLinker (.frame k f (.rotate epoch)) fun s => s.takeRotate k epoch

def execRotateFrame (k : Fin 8) (f : Frame) (epoch : BitVec 64) (s : State) : Result := .next (rotateFrameEffect k f epoch s)

/-- The transmitter that started the rotation switches. -/
def State.takeRotateAck (s : State) (k : Fin 8) : State :=
  if (s.port k).phase == .up && (s.port k).rotSince.isSome then s.switchKey k ((s.port k).txEpoch + 1) else s

/-- ROTATE_ACKNOWLEDGEMENT. -/
def rotateAcknowledgementEffect (k : Fin 8) (f : Frame) (s : State) : State :=
  if (s.port k).phase != .up then s
  else onFrame k f s fun f s => s.forLinker (.frame k f .rotateAck) fun s => s.takeRotateAck k

def execRotateAcknowledgement (k : Fin 8) (f : Frame) (s : State) : Result := .next (rotateAcknowledgementEffect k f s)

/-- KEY_ROTATION_DUE: the device of the lower serial rotates at 2^48 - 2^24 frames or after 3,590 s of key use. -/
def keyRotationDueEffect (k : Fin 8) (s : State) : State :=
  let x := s.port k
  if Config.serial.toNat < x.peer.toNat &&
      (2 ^ 48 - 2 ^ 24 ≤ x.txCtr.toNat || 2 ^ 48 - 2 ^ 24 ≤ x.rxTop.toNat || x.keysSince + 3590000000 ≤ s.now) then s.rotate k
  else s

def execKeyRotationDue (k : Fin 8) (s : State) : Result := .next (keyRotationDueEffect k s)

/-- ROTATION_ACK_TIMEOUT: a rotation not acknowledged within 1 ms fails the link. -/
def rotationAckTimeoutEffect (k : Fin 8) (s : State) : State :=
  match (s.port k).rotSince with
  | some t => if t + 1000 ≤ s.now then s.linkDown k .failed else s
  | none => s

def execRotationAckTimeout (k : Fin 8) (s : State) : Result := .next (rotationAckTimeoutEffect k s)

/-- IDLE_FRAME: a port that is up and has sent nothing for 1 us sends an idle frame (13 R318). -/
def idleFrameEffect (k : Fin 8) (s : State) : State :=
  if (s.port k).phase == .up && (s.port k).lastSent + 1 ≤ s.now then s.sendLink k .idle else s

def execIdleFrame (k : Fin 8) (s : State) : Result := .next (idleFrameEffect k s)

/-- PORT_SILENCE_TIMEOUT: 8 us without a valid frame (13 R330). -/
def portSilenceTimeoutEffect (k : Fin 8) (s : State) : State :=
  if (s.port k).phase == .up && (s.port k).lastValid + 8 ≤ s.now then s.linkDown k .down else s

def execPortSilenceTimeout (k : Fin 8) (s : State) : Result := .next (portSilenceTimeoutEffect k s)

/-- FEC_LOCK_LOSS. -/
def fecLockLossEffect (k : Fin 8) (s : State) : State :=
  match (s.port k).phase with
  | .down => s
  | .refused => s
  | .failed => s
  | _ => s.linkDown k .down

def execFecLockLoss (k : Fin 8) (s : State) : Result := .next (fecLockLossEffect k s)

/-- UNCORRECTABLE_FEC_CODEWORD: counted, and the port is not healthy, so that waiting frames may leave by an alternate (13
R330). -/
def uncorrectableFecCodewordEffect (k : Fin 8) (s : State) : State :=
  (s.modPort k fun x =>
    { x with fecUnc := BitVec.ofNat 16 (Bits.satAdd 16 x.fecUnc.toNat 1), lastUnc := some s.now, healthy := false }).flush

def execUncorrectableFecCodeword (k : Fin 8) (s : State) : Result := .next (uncorrectableFecCodewordEffect k s)

/-- PORT_HEALTH_RESTORED: up, fewer than 4 drops and no uncorrectable codeword in the last 1 ms (13 R330); frames return
to its route. -/
def portHealthRestoredEffect (k : Fin 8) (s : State) : State :=
  let x := s.port k
  let quiet := match x.lastUnc with
    | some t => t + 1000 ≤ s.now
    | none => true
  if x.phase == .up && quiet && (x.drops.filter fun t => s.now < t + 1000).length < 4 then
    (s.modPort k fun y => { y with healthy := true }).flush
  else s

def execPortHealthRestored (k : Fin 8) (s : State) : Result := .next (portHealthRestoredEffect k s)

/-- LINK_CREDIT: credit comes back, and waiting frames are sent (13 R331, R345). -/
def linkCreditEffect (k : Fin 8) (hopClass channel : BitVec 4) (n : BitVec 8) (s : State) : State :=
  if (s.port k).phase != .up then s
  else
    let key := creditKey hopClass.toNat channel.toNat
    (s.modPort k fun x => { x with credits := Table.set x.credits key (Table.get 0 x.credits key + n.toNat) }).flush

def execLinkCredit (k : Fin 8) (hopClass channel : BitVec 4) (n : BitVec 8) (s : State) : Result :=
  .next (linkCreditEffect k hopClass channel n s)

/-- Give up the device's address where another device of the fabric has it too and the anchor of another part prevails
over the one in whose part the device holds it (13 R328). -/
def State.settleAddress (s : State) : State :=
  let here := s.reachable
  let taken := s.felt.addr.isSome && s.felt.keptBy != s.felt.anchorSn &&
    s.felt.states.any fun y => y.addr == s.felt.addr && y.serial != Config.serial && here.contains y.serial
  if taken then
    (s.addressMoved.modFelt fun x => { x with addr := none, assigned := x.assigned.filter fun y => y.1 != Config.serial }).announce
  else s

/-- LINK_STATE_FRAME: a new state is kept, passed on, and settles claims, anchors and addresses (13 R327 to R329). -/
def linkStateFrameEffect (k : Fin 8) (f : Frame) (ls : LinkState) (s : State) : State :=
  if (s.port k).phase != .up then s
  else
    onFrame k f s fun _ s =>
      if ls.serial = Config.serial || s.felt.states.contains ls then s
      else
        let before_ := s.reachable
        let had := s.felt.states.any fun y => y.serial == ls.serial && y.addr.isSome
        let s := s.modFelt fun x => { x with
          states := (x.states.filter fun y => y.serial != ls.serial) ++ [ls]
          assigned := match ls.addr with
            | some a => (x.assigned.filter fun y => y.1 != ls.serial) ++ [(ls.serial, a)]
            | none => if had then x.assigned.filter fun y => y.1 != ls.serial else x.assigned }
        let grown := s.reachable.any fun x => !before_.contains x
        let s := s.modFelt fun x => { x with merging := x.merging || grown }
        (s.settleAnchor.keepAddress.flood (some k) (.linkState ls)).settleAddress

def execLinkStateFrame (k : Fin 8) (f : Frame) (ls : LinkState) (s : State) : Result :=
  .next (linkStateFrameEffect k f ls s)

/-- The address that the anchor assigns next to a device (13 R326): the plan's, or the lowest free one in ascending
order of serial; none where the device is not due. -/
def State.addressFor (s : State) (serial : BitVec 64) : Option Nat :=
  let here := s.reachable
  let held := s.felt.assigned.filter fun y => here.contains y.1
  let listed := fun (x : BitVec 64) => s.felt.plan.find? fun y => y.1 == x
  if !here.contains serial || held.any (fun y => y.1 == serial) then none
  else
    match listed serial with
    | some (_, a) => some a.toNat
    | none =>
      let waiting := here.filter fun x => (listed x).isNone && !(held.any fun y => y.1 == x)
      if leastSerial waiting != some serial then none
      else
        let used := (held ++ s.felt.plan).map fun y => y.2.toNat
        Lists.lowestFree 65536 used

/-- ADDRESS_ASSIGN: the anchor assigns an address that is due; on another device the assignment is recorded and passed on,
so that every device holds the anchor's table (13 R326). A device whose address changes ends its groups; one that gets an
address sends what waited for it. -/
def addressAssignEffect (serial : BitVec 64) (addr : BitVec 16) (s : State) : State :=
  let isAnchor := s.felt.anchorSn == Config.serial
  if (isAnchor && s.addressFor serial != some addr.toNat) ||
      (!isAnchor && (s.felt.anchorSn == 0 || s.felt.assigned.contains (serial, addr))) then s
  else
    let moved := serial == Config.serial && s.felt.addr.isSome && s.felt.addr != some addr
    let s := if moved then s.addressMoved else s
    let s := s.modFelt fun x => { x with
      assigned := (x.assigned.filter fun y => y.1 != serial) ++ [(serial, addr)]
      addr := if serial = Config.serial then some addr else x.addr
      keptBy := if serial = Config.serial then x.anchorSn else x.keptBy }
    let s := s.flood none (.assign serial addr)
    if serial = Config.serial then s.announce.flush else s

def execAddressAssign (serial : BitVec 64) (addr : BitVec 16) (s : State) : Result := .next (addressAssignEffect serial addr s)

/-! ### Routes (13 R329, R333, R347) -/

/-- The distance through a port to the nearest of some serials, where there is a path of at most 15 hops. -/
def State.throughPort (s : State) (k : Fin 8) (targets : List (BitVec 64)) : Option Nat :=
  let first := (s.port k).peer
  let ds := spread s.fabric [Config.serial] 14 1 [first] [(first, 1)]
  ((ds.filter fun x => targets.contains x.1).map (·.2)).min?

/-- Choose among candidates by a free value. -/
def pickBy {α : Type} (v : BitVec 64) (xs : List α) : Option α := xs[v.toNat % xs.length]?

/-- The entry that leads to some serials: a shortest path, and two alternates through other ports; which of several equal
ones is free (log entry 3). -/
def State.routeTo (s : State) (v : BitVec 64) (targets : List (BitVec 64)) : Option Route :=
  let cands := s.portsUp.filterMap fun k => (s.throughPort k targets).map fun d => (k.val, d)
  match (cands.map (·.2)).min? with
  | none => none
  | some d =>
    match pickBy v (cands.filter fun c => c.2 == d) with
    | none => none
    | some (p, _) =>
      let rest := cands.filter fun c => c.1 != p
      let a1 := pickBy (v >>> 8) rest
      let rest2 := rest.filter fun c => some c.1 != a1.map (·.1)
      let a2 := pickBy (v >>> 16) rest2
      let nib := fun (x : Option (Nat × Nat)) => BitVec.ofNat 4 ((x.map (·.1)).getD 15)
      some ⟨BitVec.ofNat 4 p, nib a1, nib a2, BitVec.ofNat 4 d⟩

/-- The entries of one table: the keys that have a path. -/
def State.tableOf (s : State) (v : BitVec 64) (keys : List (Nat × List (BitVec 64))) : Table Route :=
  keys.foldl (fun t (a, ts) =>
    match s.routeTo v ts with
    | some r => Table.set t a r
    | none => t) []

/-- Install recomputed routes: the whole of both tables at once, between two frames. -/
def State.installRoutes (s : State) : State :=
  let (v, s) := s.takeFree
  let own := s.felt.addr
  let others := s.felt.states.filterMap fun l => if l.serial = Config.serial then none else l.addr.map fun a => (a.toNat, l.serial)
  let groupOf := fun (a : Nat) => a / 256
  let mine := (own.map fun a => groupOf a.toNat)
  let members := (others.filter fun o => some (groupOf o.1) == mine).map fun o => (o.1 % 256, [o.2])
  let groups := ((others.map fun o => groupOf o.1).eraseDups.filter fun g => some g != mine).map fun g =>
    (g, (others.filter fun o => groupOf o.1 == g).map (·.2))
  s.modFelt fun f => { f with memberTab := s.tableOf v members, groupTab := s.tableOf v groups }

/-- Complete the FENCE.BARRIER commands of fabric scope that wait on frames of earlier commands which a lost device's
group leaves without an acknowledgement (01 R38). -/
def State.endFences (s : State) (owed : List Req) : State :=
  let waits := fun (a : Accepted) => a.cmd.opcode == 0x90 && a.q.fbScope == 2 && owed.any fun q => precedes q a.q
  ((s.accepted.filter waits).map (·.q)).foldl (fun st q => st.finish q stPeerLost 0 0) s

/-- A device of a partition's group is lost (13 R347): the group is dissolved, its FAB.PUT commands and fences complete,
and a fault starts a partition reset. -/
def State.loseMember (s : State) (p : Nat) (addr : BitVec 16) : State :=
  let owed := (s.felt.unacked.filter fun u => u.spart.toNat == p && u.dst == addr).filterMap (·.q)
  let s := (s.endPuts p addr).dissolve p addr 1
  let s := s.endFences owed
  s.raiseFault { kind := 0x09, ptn := some p, address := addr.toNat }

/-- Whether the device is a receiver of a tree: a manifest or shards of its session are still to come. -/
def State.receives (s : State) (t : Tree) : Bool :=
  (s.awaited.any fun a => a.reader == t.reader && Config.sessionGroup a.reader a.session == t.group) ||
    s.weights.any fun w => w.fedBy t.reader t.group

/-- ROUTE_INSTALL: the new routes, the devices they no longer reach, the joins of multicast receivers and the frames that
waited for a route (13 R333, R346, R347). -/
def routeInstallEffect (s : State) : State :=
  if s.restarting linkerIsland then s
  else
    let s := s.settleAnchor.installRoutes.settleAddress
    let here := s.reachable
    let s := s.modFelt fun f => { f with
      assigned := f.assigned.filter fun y => here.contains y.1
      merging := false
      routesAt := some s.now
      keptBy := f.anchorSn }
    let s := s.ptnNos.foldl (fun st p =>
      match st.group? p with
      | none => st
      | some g =>
        match g.others.find? fun m => !st.reaches m.1 with
        | some m => st.loseMember p m.1
        | none => st) s
    -- every receiver sends its join again; a device that has received all leaves its trees (R346)
    let s := s.modFelt fun f => { f with trees := (f.trees.map fun t => { t with leaf := t.leaf && s.receives t }).filter fun t =>
      t.leaf || !t.branches.isEmpty }
    let s := s.felt.trees.foldl (fun st t =>
      if !t.leaf || st.felt.addr == some t.reader then st
      else st.send ⟨t.reader, st.felt.addr.getD 0, 0, 0, 0, 9, none, .treeJoin t.reader t.group, none⟩) s
    s.flush

def execRouteInstall (s : State) : Result := .next (routeInstallEffect s)

/-! ### Data streams (13 R331, R332, R334, R340) -/

/-- The key of a stream that this device sends. -/
def txKey (spart : Nat) (dst : BitVec 16) (dpart : BitVec 3) : Nat := (spart * 65536 + dst.toNat) * 8 + dpart.toNat
/-- The key of a stream that this device receives. -/
def rxKey (f : Frame) : Nat := (f.dpart.toNat * 65536 + f.src.toNat) * 8 + f.spart.toNat

/-- Split bytes into frame payloads of at most 4,096 bytes, with their offsets. -/
def frameCuts : Nat → Nat → List Byte → List (Nat × List Byte)
  | 0, _, _ => []
  | fuel + 1, off, bs =>
    if bs.isEmpty then [] else (off, bs.take 4096) :: frameCuts fuel (off + 4096) (bs.drop 4096)

/-- Send one data frame of a stream; it is kept until acknowledged. -/
def State.sendData (s : State) (spart : Nat) (dst : BitVec 16) (dpart : BitVec 3) (off : Nat) (bs : List Byte)
    (q : Option Req) (move : Option Nat) : State :=
  let key := txKey spart dst dpart
  let seq := Table.get Config.firstSeq s.felt.txSeq key
  let u : Unacked := ⟨BitVec.ofNat 3 spart, dst, dpart, seq, BitVec.ofNat 48 off, bs, s.now, none, q, move⟩
  let s := s.modFelt fun f => { f with txSeq := Table.set f.txSeq key (seq + 1), unacked := f.unacked ++ [u] }
  s.send ⟨dst, s.felt.addr.getD 0, dpart, BitVec.ofNat 3 spart, 0, spart, none, .data seq (BitVec.ofNat 48 off) bs, none⟩

/-- The receive object of a partition's group. -/
def State.receiveObj (s : State) (p : Nat) : Option Obj := (s.group? p).bind fun g => s.obj? (mgmt p) g.receive

/-- Write a payload into a partition's receive object: false, and nothing written, where it runs beyond the object. A
weight object that has come to lie at its base is not written (11 R268). -/
def State.writeReceived (s : State) (p : Nat) (off : Nat) (bs : List Byte) : State × Bool :=
  match s.receiveObj p with
  | none => (s, false)
  | some o =>
    if o.broken.isSome then (s.nodeFault o, true)
    else if o.desc.kind = kindWeights then (s, true)
    else if o.size < off + bs.length then (s.modFelt fun f => { f with beyondDrops := f.beyondDrops + 1 }, false)
    else ((s.writeObj o off bs).count (mgmt p) 24 bs.length, true)

/-- Whether a data frame belongs to a weight session of the destination partition (13 R334): it comes from the reader of
an object that still receives, alone to this receiver (11 R277). -/
def State.sessionTakes (s : State) (f : Frame) : Bool :=
  s.weights.any fun w => ptnOf w.ctx == f.dpart.toNat && !(w.wanted.isEmpty && w.refetch.isEmpty) &&
    [w.source, w.nextSource].any fun x => match x with
      | .session _ reader => reader == f.src
      | .library => false

/-- Whether a data frame comes from a member of the destination partition's group (13 R334), into a receive object. -/
def State.groupTakes (s : State) (f : Frame) : Bool :=
  match s.group? f.dpart.toNat with
  | some g => (g.indexOf f.src f.spart).isSome && g.receive != 0
  | none => false

/-- Deliver the frame that a stream expects, and acknowledge it; of a session's frames the shard is made up (log entry
148). -/
def State.deliver (s : State) (f : Frame) : State :=
  let (s, ok) := if s.groupTakes f then s.writeReceived f.dpart.toNat f.offset.toNat f.payload else (s, true)
  let s := s.modFelt fun x => { x with rxSeq := Table.set x.rxSeq (rxKey f) (f.seq + 1) }
  s.sendControl f.dpart.toNat f.src f.spart (.ack f.seq 1 (!ok))

/-- Deliver frames held out of order as long as the expected one is among them. -/
def State.deliverHeld (s : State) (key : Nat) : Nat → State
  | 0 => s
  | fuel + 1 =>
    let want := Table.get Config.firstSeq s.felt.rxSeq key
    match s.felt.rxHeld.find? fun f => rxKey f == key && f.seq == want with
    | none => s
    | some f =>
      let s := s.modFelt fun x => { x with rxHeld := x.rxHeld.filter fun y => !(rxKey y == key && y.seq == want) }
      (s.deliver f).deliverHeld key fuel

/-- Forward a received frame (13 R331): one hop more, on the transit channel for data, the control channel otherwise. A
buffer that it holds at its port is free once it has left, or is dropped. -/
def State.forward (s : State) (f : Frame) (body : FeltBody) (owes : Option (Fin 8 × Nat) := none) : State :=
  if 15 ≤ f.hops.toNat then (s.modFelt fun x => { x with hopDrops := x.hopDrops + 1 }).giveCredit owes
  else s.send ⟨f.dst, f.src, f.dpart, f.spart, f.hops.toNat + 1, if f.type.toNat ≤ 2 then 8 else 9, none, body, owes⟩

/-- A Felt frame addressed to the device ends Lull (15 R374). -/
def State.feltWake (s : State) : State := if s.power = .lull then s.wake else s

/-- Whether a data frame of the group runs beyond the receive object. -/
def State.runsBeyond (s : State) (f : Frame) : Bool :=
  s.groupTakes f && (s.receiveObj f.dpart.toNat).all fun o =>
    o.desc.kind != kindWeights && o.size < f.offset.toNat + f.payload.length

/-- Take a data frame that is addressed to the device: it is dropped, or delivered in seq order; a duplicate is
acknowledged again, as it was, and discarded. -/
def State.takeData (s : State) (f : Frame) : State :=
  let s := s.feltWake
  if !s.groupTakes f && !s.sessionTakes f then s.modFelt fun x => { x with foreignDrops := x.foreignDrops + 1 }
  else
    let key := rxKey f
    let want := Table.get Config.firstSeq s.felt.rxSeq key
    if f.seq = want then
      let s := s.deliver f
      s.deliverHeld key s.felt.rxHeld.length
    else if (f.seq - want).toNat < 2 ^ 31 then
      if s.felt.rxHeld.any fun y => rxKey y == key && y.seq == f.seq then s
      else s.modFelt fun x => { x with rxHeld := x.rxHeld ++ [f] }
    else s.sendControl f.dpart.toNat f.src f.spart (.ack f.seq 1 (s.runsBeyond f))

/-- DATA_FRAME: forwarded, or taken. -/
def dataFrameEffect (k : Fin 8) (f : Frame) (s : State) : State :=
  if (s.port k).phase != .up then s
  else
    onFrame k f s fun f s =>
      if f.type != 1 then s
      else if s.felt.addr != some f.dst then s.forward f (.data f.seq f.offset f.payload) (frameBuffer k f)
      else (s.takeData f).giveCredit (frameBuffer k f)

def execDataFrame (k : Fin 8) (f : Frame) (s : State) : Result := .next (dataFrameEffect k f s)

/-- FRAME_RESEND_TIMER: 20 us after the last send with no acknowledgement; a frame that has not left yet was not sent. -/
def frameResendTimerEffect (part : Fin 8) (dst : BitVec 16) (dpart : BitVec 3) (seq : BitVec 32) (s : State) : State :=
  match s.felt.unacked.find? fun u => u.spart.toNat == part.val && u.dst == dst && u.dpart == dpart && u.seq == seq with
  | none => s
  | some u =>
    if u.sentAt + 20 ≤ s.now then s.resend u else s

def execFrameResendTimer (part : Fin 8) (dst : BitVec 16) (dpart : BitVec 3) (seq : BitVec 32) (s : State) : Result :=
  .next (frameResendTimerEffect part dst dpart seq s)

/-- A fault that a headbox move met, against the context it works for. -/
def State.moveFault (s : State) (x : Move) (kind address : Nat) : FaultInfo where
  kind := kind
  ptn := some x.ptn
  ctx := some x.ctx
  unit := 14
  cluster := x.cluster - ((s.ptn? x.ptn).map (·.low)).getD 0
  beat := ((s.ptn? x.ptn).bind (·.run)).elim 0 (·.beat)
  record := x.index
  address := address

/-- Whether every transaction of a move has retired (01 R16). -/
def Move.retired (x : Move) : Bool := x.outstanding.isEmpty && x.bytes ≤ 128 * x.next

/-- An acknowledged frame is let go; the last one of a FAB.PUT completes it, the last one of a peer move retires it. One
that ran beyond the receive object ends a FAB.PUT with ST_BAD_FIELD and faults a peer move's context (13 R340, R350). -/
def State.takeAck (s : State) (beyond : Bool) (u : Unacked) : State :=
  let same := fun (x : Unacked) => x.spart == u.spart && x.dst == u.dst && x.dpart == u.dpart && x.seq == u.seq
  let s := s.modFelt fun f => { f with unacked := f.unacked.filter fun x => !same x }
  match u.move, u.q with
  | some m, _ =>
    let left := s.felt.unacked.any fun x => x.move == some m
    let mv := s.moves.find? fun x => x.id == m
    let s := if left || !(mv.elim true Move.retired) then s else { s with moves := s.moves.filter fun x => x.id != m }
    match mv with
    | some x =>
      if beyond then
        s.raiseFault (s.moveFault x 0x07 u.offset.toNat)
      else s
    | none => s
  | none, some q =>
    if beyond then
      let s := s.modFelt fun f => { f with unacked := f.unacked.filter fun x => x.q != some q || x.move.isSome }
      s.finish q stBadField 0 0
    else if s.felt.unacked.any fun x => x.q == some q && x.move.isNone then s
    else s.finish q stOk 0 0
  | none, none => s

/-- Take an acknowledgement of frames first to first + count - 1 of the stream toward its sender. -/
def State.takeAcks (s : State) (f : Frame) (first n : BitVec 32) (beyond : Bool) : State :=
  let hit := s.felt.unacked.filter fun u =>
    u.spart == f.dpart && u.dst == f.src && u.dpart == f.spart && (u.seq - first).toNat < n.toNat
  hit.foldl (fun st u => st.takeAck beyond u) s.feltWake

/-- ACK_FRAME: forwarded, or taken. -/
def ackFrameEffect (k : Fin 8) (f : Frame) (first n : BitVec 32) (beyond : Bool) (s : State) : State :=
  if (s.port k).phase != .up then s
  else
    onFrame k f s fun f s =>
      if s.felt.addr != some f.dst then s.forward f (.ack first n beyond) else s.takeAcks f first n beyond

def execAckFrame (k : Fin 8) (f : Frame) (first n : BitVec 32) (beyond : Bool) (s : State) : Result :=
  .next (ackFrameEffect k f first n beyond s)

/-! ### Multicast trees (13 R345, R346) -/

/-- Record a branch of a tree, or refresh it; false where the device holds 256 trees already. -/
def State.addBranch (s : State) (reader group : BitVec 16) (k : Fin 8) : State × Bool :=
  match s.tree? reader group with
  | some _ =>
    let upd := fun (t : Tree) => { t with branches := (t.branches.filter fun b => b.1 != k.val) ++ [(k.val, s.now)] }
    (s.modFelt fun f => { f with trees := Lists.modifyIf (fun t => t.reader == reader && t.group == group) upd f.trees }, true)
  | none =>
    if 256 ≤ s.felt.trees.length then (s, false)
    else (s.modFelt fun f => { f with trees := f.trees ++ [{ reader := reader, group := group, branches := [(k.val, s.now)] }] }, true)

/-- TREE_JOIN: each device of the path records the port as a branch and passes the join toward the reader. -/
def treeJoinEffect (k : Fin 8) (f : Frame) (reader group : BitVec 16) (s : State) : State :=
  if (s.port k).phase != .up then s
  else
    onFrame k f s fun f s =>
      match s.addBranch reader group k with
      | (s', false) => s'
      | (s', true) =>
        if s'.felt.addr == some reader then s'.feltWake else s'.forward { f with dst := reader } (.treeJoin reader group)

def execTreeJoin (k : Fin 8) (f : Frame) (reader group : BitVec 16) (s : State) : Result := .next (treeJoinEffect k f reader group s)

/-- BRANCH_PRUNE: a branch that no join has refreshed within 5 ms of a change of routes (13 R346). -/
def branchPruneEffect (reader group : BitVec 16) (k : Fin 8) (s : State) : State :=
  let keep := fun (b : Nat × Nat) => b.1 != k.val || s.felt.routesAt.all fun t => t ≤ b.2 || s.now < t + 5000
  let upd := fun (t : Tree) =>
    if t.reader = reader ∧ t.group = group then { t with branches := t.branches.filter keep } else t
  s.modFelt fun f => { f with trees := (f.trees.map upd).filter fun t => t.leaf || !t.branches.isEmpty }

def execBranchPrune (reader group : BitVec 16) (k : Fin 8) (s : State) : Result := .next (branchPruneEffect reader group k s)

/-! ### FAB commands (13 R327, R350) -/

/-- The entries of an address plan in host memory: none where a reserved bit is set. -/
def readPlan (bs : List Byte) (n : Nat) : Option (List (BitVec 64 × BitVec 16)) :=
  (List.range n).mapM fun i =>
    let w := Bits.ofBytes ((bs.drop (16 * i)).take 16)
    if w / 2 ^ 80 = 0 then some (BitVec.ofNat 64 w, BitVec.ofNat 16 (w / 2 ^ 64)) else none

/-- FAB.ANCHOR. -/
def fabAnchorBody (claim : Bool) (host : BitVec 64) (n : BitVec 17) (s : State) (q : Req) : Ran :=
  if claim then
    let here := s.reachable
    if s.felt.states.any fun l => l.claimed && l.serial != Config.serial && here.contains l.serial then .status s stInUse
    else
      match readPlan (s.readHostOf q host (16 * n.toNat)) n.toNat with
      | none => .status s stBadField
      | some plan =>
        .status ((s.modFelt fun f => { f with claimed := true, anchorSn := Config.serial, plan := plan }).keepAddress.announce) stOk
  else if s.felt.claimed then
    .status ((s.modFelt fun f => { f with claimed := false, plan := [] }).elect.keepAddress.announce) stOk
  else .status s stOkEmpty

def execFabAnchor (q : Req) (claim : Bool) (host : BitVec 64) (n : BitVec 17) (s : State) : Result :=
  .next (runCommand (.fabAnchor q claim host n) s (fabAnchorBody claim host n))

/-- FAB_ADDR (13 Table FAB.13). -/
def State.fabAddr (s : State) : Nat :=
  packBits [((s.felt.addr.map BitVec.toNat).getD 0, 0), (Bits.ofBool s.felt.addr.isSome, 16),
    (Bits.ofBool (s.felt.anchorSn == Config.serial), 17), (Bits.ofBool s.felt.claimed, 18)]

/-- The code of a port state (13 Table FAB.8). -/
def LinkPhase.code : LinkPhase → Nat
  | .down => 0 | .training => 1 | .hello => 2 | .authentication => 3 | .up => 4 | .refused => 5 | .failed => 6

/-- FAB_PORT_k bits [63:0] (13 Table FAB.8). -/
def Port.low (x : Port) : Nat :=
  packBits [(x.phase.code, 0), (Bits.ofBool (x.healthy && x.phase == .up), 3), (x.refusals.toNat, 4), (x.tagFail.toNat, 16),
    (x.fecUnc.toNat, 32), (x.rotations.toNat, 48)]

/-- FAB_GRP_p (13 Table FAB.9). -/
def State.fabGrp (s : State) (p : Nat) : Nat :=
  match (s.ptn? p).bind (·.group) with
  | some g => packBits [(g.id.toNat, 0), (g.index, 32), (g.count - 1, 40), (g.state.toNat, 48), (Bits.ofBool g.lockstep, 50)]
  | none => 0

/-- FAB.QUERY; kind 2 names the group of the issuer's partition, which a host ring has none of (log entry 20). -/
def fabQueryBody (kind : BitVec 2) (port : BitVec 3) (s : State) (q : Req) : Ran :=
  if kind = 0 then .done s stOk s.fabAddr s.felt.anchorSn.toNat
  else if kind = 1 then
    .done s stOk (s.port port.toFin).low (s.port port.toFin).peer.toNat
  else
    match ctxOf q.ring with
    | some c => .done s stOk (s.fabGrp (ptnOf c)) 0
    | none => .status s stBadField

def execFabQuery (q : Req) (kind : BitVec 2) (port : BitVec 3) (s : State) : Result :=
  .next (runCommand (.fabQuery q kind port) s (fabQueryBody kind port))

/-- FAB.ROTATE: one port, or all; a port that is not up has no keys to rotate. It waits while the linker restarts. -/
def fabRotateBody (port : BitVec 4) (s : State) (_ : Req) : Ran :=
  let ks := s.portsUp.filter fun k => port == 15 || k.val == port.toNat
  if s.restarting linkerIsland then .waits
  else if ks.isEmpty then .status s stOkEmpty else .status (ks.foldl (fun st k => st.rotate k) s) stOk

def execFabRotate (q : Req) (port : BitVec 4) (s : State) : Result := .next (runCommand (.fabRotate q port) s (fabRotateBody port))

/-- FAB.PUT: the bytes go out as data frames; it completes when all are acknowledged. Beyond the receive object of a
member on this device nothing is written; on another device each frame is tested by itself, since no header field tells
the extent of what it is a part of: DESIGN CHOICE (log entry 168). -/
def fabPutBody (src srcOff : BitVec 42) (member : BitVec 8) (off : BitVec 48) (n : BitVec 32) (s : State) (q : Req) : Ran :=
  if n = 0 then .status s stOkEmpty
  else
    withObj q src s fun o =>
      let p := ptnOf o.ctx
      match (s.group? p).filter fun g => g.state == 2 with
      | none => .status s stNoObject
      | some g =>
        match g.members[member.toNat]? with
        | none => .status s stNoObject
        | some m =>
          if o.size < srcOff.toNat + n.toNat then .status s stBadField
          else if (s.objPoison o srcOff.toNat n.toNat).isSome then .status s stPoison
          else
            let bs := s.readObj o srcOff.toNat n.toNat
            let s := (s.countTiers o srcOff.toNat n.toNat false).count o.ctx 23 n.toNat
            let here := s.felt.addr == some m.1 && member.toNat != g.index
            if here && (s.receiveObj m.2.toNat).any fun r => r.size < off.toNat + n.toNat then
              .status (s.modFelt fun f => { f with beyondDrops := f.beyondDrops + 1 }) stBadField
            else if member.toNat = g.index then
              match s.writeReceived p off.toNat bs with
              | (s', true) => .status s' stOk
              | (s', false) => .status s' stBadField
            else
              .goesOn ((frameCuts (n.toNat / 4096 + 1) off.toNat bs).foldl (fun st (a, b) =>
                st.sendData p m.1 m.2 a b (some q) none) s)

def execFabPut (q : Req) (src srcOff : BitVec 42) (member : BitVec 8) (off : BitVec 48) (n : BitVec 32) (s : State) : Result :=
  .next (runCommand (.fabPut q src srcOff member off n) s (fabPutBody src srcOff member off n))

end Sys2Proof.Machine
end

