-- ==== Sys2Proof/Machine/Records.lean ====
section
/-! DEFINITION. The records of a schedule image (05 R130 to R133): header, directory, operation records, move records and
their endpoints, phase marks; and reading an image out of its object. -/

namespace Sys2Proof.Machine

/-- A 64-byte operation record (05 Table SPD.9). -/
abbrev OpRec := BitVec 512
/-- A 32-byte move record (05 Table SPD.11). -/
abbrev MoveRec := BitVec 256

/-! ### Image header (05 Table SPD.7) -/

def Image.magic (i : Image) : Nat := fld i.header 31 0
def Image.version (i : Image) : Nat := fld i.header 47 32
def Image.nSections (i : Image) : Nat := fld i.header 63 48
def Image.bytes (i : Image) : Nat := fld i.header 95 64
def Image.shapeId (i : Image) : BitVec 64 := BitVec.ofNat 64 (fld i.header 191 128)
def Image.seed (i : Image) : BitVec 64 := BitVec.ofNat 64 (fld i.header 255 192)
def Image.clusters (i : Image) : Nat := fld i.header 263 256
def Image.nChains (i : Image) : Nat := fld i.header 319 304

/-! ### Operation records (05 Table SPD.9) -/

namespace Op
def code (r : OpRec) : Nat := fld r 7 0
def fmtA (r : OpRec) : Nat := fld r 11 8
def fmtB (r : OpRec) : Nat := fld r 15 12
def fmtC (r : OpRec) : Nat := fld r 19 16
def ta (r : OpRec) : Bool := r.getLsbD 20
def tb (r : OpRec) : Bool := r.getLsbD 21
def acc (r : OpRec) : Bool := r.getLsbD 22
def first (r : OpRec) : Bool := r.getLsbD 23
def scaleMode (r : OpRec) : Nat := fld r 25 24
def causal (r : OpRec) : Bool := r.getLsbD 26
def chain (r : OpRec) : Nat := fld r 47 32
def ptSlot (r : OpRec) : Nat := fld r 51 48
def ptGroup (r : OpRec) : Nat := fld r 55 52
def extM (r : OpRec) : Nat := fld r 84 64
def extK (r : OpRec) : Nat := fld r 105 85
def extN (r : OpRec) : Nat := fld r 126 106
def batch (r : OpRec) : Nat := fld r 140 128
def headDim (r : OpRec) : Nat := fld r 149 141
def zpA (r : OpRec) : Int := Bits.signed 8 (fld r 157 150)
def beat (r : OpRec) : Nat := fld r 191 160
def aBase (r : OpRec) : Nat := fld r 215 192
def aSpace (r : OpRec) : Nat := fld r 219 216
def aStride (r : OpRec) : Nat := fld r 255 224
def bBase (r : OpRec) : Nat := fld r 279 256
def bSpace (r : OpRec) : Nat := fld r 283 280
def bStride (r : OpRec) : Nat := fld r 319 288
def cBase (r : OpRec) : Nat := fld r 343 320
def cSpace (r : OpRec) : Nat := fld r 347 344
def cStride (r : OpRec) : Nat := fld r 383 352
def bindA (r : OpRec) : Nat := fld r 399 384
def bindB (r : OpRec) : Nat := fld r 415 400
def colBase (r : OpRec) : Nat := fld r 427 416
def entA (r : OpRec) : Nat := fld r 429 428
def rowBase (r : OpRec) : Nat := fld r 443 432
def entB (r : OpRec) : Nat := fld r 445 444
def auxBase (r : OpRec) : Nat := fld r 471 448
def rowsumEn (r : OpRec) : Bool := r.getLsbD 472
def maxabsEn (r : OpRec) : Bool := r.getLsbD 473
def maxabsAxis (r : OpRec) : Bool := r.getLsbD 474
def maxabsBase (r : OpRec) : Nat := fld r 503 480
def zpOut (r : OpRec) : Int := Bits.signed 8 (fld r 511 504)
/-- The reserved bits of an operation record. -/
def reserved : BitVec 512 :=
  BitVec.ofNat 512 (packBits [(31, 27), (255, 56), (1, 127), (3, 158), (15, 220), (15, 284), (15, 348), (3, 430), (3, 446),
    (31, 475)])
end Op

/-! ### Bindings of codebooks (02 R47, 05 Table SPD.9) -/

namespace Bind
def slot (b : Nat) : Nat := Bits.range b 8 0
def group (b : Nat) : Nat := Bits.range b 12 9
def chan (b : Nat) : Bool := b.testBit 13
def builtin (b : Nat) : Bool := b.testBit 14
def which (b : Nat) : Bool := b.testBit 15
end Bind

/-! ### Move records (05 Table SPD.11) -/

namespace Mv
def beat (r : MoveRec) : Nat := fld r 31 0
def span (r : MoveRec) : Nat := fld r 39 32
def srcKind (r : MoveRec) : Nat := fld r 67 64
/-- The 60 endpoint bits of the source. -/
def src (r : MoveRec) : Nat := fld r 127 68
def dstKind (r : MoveRec) : Nat := fld r 131 128
/-- The 60 endpoint bits of the destination. -/
def dst (r : MoveRec) : Nat := fld r 191 132
def bytes (r : MoveRec) : Nat := fld r 223 192
def compress (r : MoveRec) : Bool := r.getLsbD 224
def budget (r : MoveRec) : Nat := fld r 255 240
/-- The last beat that a move may take (05 R123). -/
def lastBeat (r : MoveRec) : Nat := beat r + span r - 1
/-- The reserved bits of a move record. -/
def reserved : BitVec 256 := BitVec.ofNat 256 (packBits [(2 ^ 24 - 1, 40), (2 ^ 15 - 1, 225)])
end Mv

/-- An endpoint of a move record. -/
inductive Endpoint where
  | tile (cluster tile space word : Nat)
  | layer (cluster word : Nat)
  | object (slot off : Nat)
  /-- A page run (09): ream slot, part, layer, head and first position as R213 lays them out. -/
  | page (bits : Nat)
  | couch (slot part layer head row : Nat)
  | peer (member off : Nat)
  deriving DecidableEq, Repr

/-- Read an endpoint of a kind; none for a reserved kind or a reserved bit (05 Table SPD.11, 10 Table SRV.2, 13 Table
FAB.11). -/
def endpoint (kind e : Nat) : Option Endpoint :=
  match kind with
  | 1 => if e / 2 ^ 35 = 0 then some (.tile (Bits.range e 10 8) (Bits.range e 3 0) (Bits.range e 7 4) (Bits.range e 34 11)) else none
  | 2 => if e % 256 = 0 ∧ e.testBit 11 = false ∧ e / 2 ^ 35 = 0 then some (.layer (Bits.range e 10 8) (Bits.range e 34 12)) else none
  | 3 => if e / 2 ^ 56 = 0 then some (.object (Bits.range e 7 0) (Bits.range e 55 8)) else none
  | 4 => some (.page e)
  | 5 => if e / 2 ^ 39 = 0 then
      some (.couch (Bits.range e 7 0) (Bits.range e 9 8) (Bits.range e 17 10) (Bits.range e 25 18) (Bits.range e 38 26))
    else none
  | 6 => if e / 2 ^ 56 = 0 then some (.peer (Bits.range e 7 0) (Bits.range e 55 8)) else none
  | _ => none

/-- The source of a move. -/
def Mv.source (r : MoveRec) : Option Endpoint := endpoint (Mv.srcKind r) (Mv.src r)
/-- The destination of a move. -/
def Mv.dest (r : MoveRec) : Option Endpoint := endpoint (Mv.dstKind r) (Mv.dst r)

/-! ### Reading an image (05 R130, R134) -/

/-- The records of a section: size bytes each. -/
def sectionRecords (bs : List Byte) (off size : Nat) : Nat → List Nat
  | 0 => []
  | n + 1 => Bits.ofBytes ((bs.drop off).take size) :: sectionRecords bs (off + size) size n

/-- Bytes of a record of a section kind (05 Table SPD.8); none for a reserved kind. -/
def recordBytes : Nat → Option Nat
  | 1 => some 64 | 2 => some 320 | 3 => some 32 | 4 => some 8 | 5 => some 16
  | _ => none

/-- Add a section to an image; none where a rule of the directory is broken. kind, tile, cluster, offset, count. -/
def addSection (bs : List Byte) (size : Nat) (e : Nat) (i : Image) : Option Image :=
  let kind := Bits.range e 7 0
  let tile := Bits.range e 11 8
  let cl := Bits.range e 14 12
  let off := Bits.range e 63 32
  let n := Bits.range e 95 64
  match recordBytes kind with
  | none => none
  | some k =>
    if Bits.range e 31 15 != 0 || Bits.range e 127 96 != 0 || off % 64 != 0 || size < off + k * n then none
    else
      let rs := sectionRecords bs off k n
      match kind with
      | 1 =>
        if 13 < tile || i.clusters ≤ cl || i.ops.any (fun x => x.1 == (cl, tile)) then none
        else some { i with ops := i.ops ++ [((cl, tile), rs.map (BitVec.ofNat 512))] }
      | 3 =>
        if tile != 0 || i.clusters ≤ cl || i.moves.any (fun x => x.1 == cl) then none
        else some { i with moves := i.moves ++ [(cl, rs.map (BitVec.ofNat 256))] }
      | _ =>
        if tile != 0 || cl != 0 then none
        else if kind = 2 then some { i with chains := i.chains ++ rs.map (BitVec.ofNat 2560) }
        else if kind = 4 then
          if rs.any fun r => r / 2 ^ 44 != 0 then none
          else some { i with marks := i.marks ++ rs.map fun r => (Bits.range r 31 0, Bits.range r 43 32) }
        else some { i with budgets := i.budgets ++ rs.map (BitVec.ofNat 128) }

/-- Read a schedule image's bytes; none where its header or directory breaks R130. -/
def readImage (ctx : CtxNo) (base : BitVec 42) (bs : List Byte) : Option Image :=
  let h := Bits.ofBytes (bs.take 64)
  let i : Image := ⟨ctx, base, BitVec.ofNat 512 h, [], [], [], [], []⟩
  if bs.length < 64 then none
  else if i.magic != 0x53437160 || i.version != 1 || i.nSections = 0 || 256 < i.nSections || bs.length < i.bytes then none
  else if i.bytes < 64 + 16 * i.nSections then none
  else if !([1, 2, 4, 8] : List Nat).contains i.clusters || i.beatLen < 256 || 65536 < i.beatLen then none
  else if Bits.range h 271 265 != 0 || Bits.range h 303 289 != 0 || Bits.range h 511 320 != 0 then none
  else
    let entries := (List.range i.nSections).map fun k => Bits.ofBytes ((bs.drop (64 + 16 * k)).take 16)
    (entries.foldl (fun acc e => acc.bind (addSection bs i.bytes e)) (some i)).filter fun y => y.chains.length == y.nChains

/-- The records of a tile of the image. -/
def Image.opsOf (i : Image) (cl tile : Nat) : List OpRec := ((i.ops.find? fun x => x.1 == (cl, tile)).map (·.2)).getD []
/-- The move records of a cluster of the image. -/
def Image.movesOf (i : Image) (cl : Nat) : List MoveRec := ((i.moves.find? fun x => x.1 == cl).map (·.2)).getD []
/-- The chain descriptor of a number, counted from 1 (05 R130). -/
def Image.chain? (i : Image) (n : Nat) : Option (BitVec 2560) := if n = 0 then none else i.chains[n - 1]?
/-- The phase in force in a beat (05 R133); 0 before the first mark. -/
def Image.phaseAt (i : Image) (beat : Nat) : Nat :=
  ((i.marks.filter fun m => m.1 ≤ beat).getLast?.map (·.2)).getD 0

/-- A loaded image of a context. -/
def State.image? (s : State) (c : CtxNo) (base : BitVec 42) : Option Image :=
  s.images.find? fun i => i.ctx == c && i.base == base

end Sys2Proof.Machine
end

