-- ==== Sys2Proof/Machine/Serve.lean ====
section
/-! DEFINITION. Step sets and the start of runs (10 R241 to R243, 12 R310): SCHED.UNLOAD, SCHED.STEPSET, SCHED.STEPFREE,
SCHED.RUN and SCHED.STEP. A run that starts joins its partition's queue; RUN_DISPATCH admits it. -/

namespace Sys2Proof.Machine

/-! ### Bindings (12 Table CMD.10) -/

/-- The value of n bytes of an object. -/
def State.objWord (s : State) (o : Obj) (off n : Nat) : Nat := Bits.ofBytes (s.readObj o off n)

/-- Read a binding for a ream slot; none where a field breaks the table. -/
def readBinding (no v : Nat) : Option Slot :=
  let nNew := Bits.range v 45 32
  let d := Bits.range v 50 46
  let rec_ := v.testBit 51
  let log := Bits.range v 95 64
  let m := Bits.range v 109 96
  let ok := Bits.range v 63 52 == 0 && Bits.range v 127 110 == 0 && nNew ≤ 8192 && d ≤ 16 &&
    (if rec_ then nNew == 0 && d == 0 && 1 ≤ m && m ≤ 8192 else m == 0 && log % 4 == 0)
  if ok then
    some { no := no, seq := BitVec.ofNat 32 (Bits.range v 31 0), nNew := nNew, drafts := d, recompute := rec_,
           logOff := if rec_ then 0 else log, t0 := if rec_ then log else 0, m := m }
  else none

/-- Read bindings, none where one is malformed. -/
def State.readBindings (s : State) (o : Obj) (off : Nat) : List Nat → Option (List Slot)
  | [] => some []
  | no :: nos =>
    match readBinding no (s.objWord o off 16), s.readBindings o (off + 16) nos with
    | some x, some xs => some (x :: xs)
    | _, _ => none

/-- Read slot-table entries; none where a reserved bit is set. -/
def State.readSlots (s : State) (o : Obj) (off : Nat) : Nat → Option (List (BitVec 42))
  | 0 => some []
  | n + 1 =>
    let v := s.objWord o off 8
    match s.readSlots o (off + 8) n with
    | some xs => if v / 2 ^ 42 = 0 then some (BitVec.ofNat 42 v :: xs) else none
    | none => none

/-- Whether a binding's log entries lie in the list object (12 Table CMD.10). -/
def Slot.logIn (x : Slot) (o : Obj) : Bool := x.recompute || x.logOff + 4 * (x.nNew + x.drafts) ≤ o.size

/-- Whether a decode binding of SCHED.STEP keeps R243. -/
def Slot.decodes (x : Slot) : Bool := x.nNew == 1 && !x.recompute
/-- Whether a chunk binding of SCHED.STEP keeps R243. -/
def Slot.chunks (x : Slot) : Bool := x.drafts == 0 && (x.recompute || 1 ≤ x.nNew)
/-- Rows that a binding fills: n_new, or m (10 R243). -/
def Slot.rows (x : Slot) : Nat := if x.recompute then x.m else x.nNew

/-- Whether no sequence is named twice. -/
def distinctSeqs : List Slot → Bool
  | [] => true
  | x :: xs => !(xs.any fun y => y.seq == x.seq) && distinctSeqs xs

/-! ### What a binding meets -/

/-- A weight object by its base (11). -/
def State.weight? (s : State) (c : CtxNo) (base : BitVec 42) : Option WeightObj :=
  s.weights.find? fun w => w.ctx == c && w.base == base

/-- The status that the objects of a slot table refuse a run with: an entry that names no object (12 R310), a weight
object that is loading (11 R276), or lost and not yet swapped whole (11 R289). -/
def State.objsRefuse (s : State) (c : CtxNo) (objs : List (BitVec 42)) : Option Nat :=
  let named := objs.filter fun b => b != 0
  if named.any fun b => (s.obj? c b).isNone then some stNoObject
  else if named.any fun b => (s.weight? c b).any fun w => w.phase == .loading then some stInUse
  else if named.any fun b => (s.weight? c b).any fun w => w.phase == .lost || w.wasLost then some stWgtLost
  else none

/-- The status that a named sequence refuses a command or binding with (09 R201, R202, R228). -/
def State.seqRefuses (s : State) (c : CtxNo) (no : BitVec 32) : Option Nat :=
  match s.seq? no with
  | none => some stNoObject
  | some x =>
    if x.ctx != c then some stNoObject
    else match x.state with
      | .closing => some stNoObject
      | .lost => some stKvLost
      | .opened => none

/-- A step set of a context by its number (10 R242). -/
def Partition.stepSet? (x : Partition) (c : CtxNo) (no : Nat) : Option StepSet :=
  x.stepSets.find? fun t => t.ctx == c && t.no == no

/-- The variant that a step selects: the lowest that holds g decode slots, q chunks and every chunk's rows (10 R243). -/
def selectVariant (vs : List Variant) (g q : Nat) (rows : List Nat) : Option (Nat × Variant) :=
  (vs.zipIdx.find? fun (v, _) => g ≤ v.gMax && q ≤ v.k && rows.all fun r => r ≤ v.rows).map fun (v, i) => (i, v)

/-- The longest n_beats among a partition's step sets (10 R258). -/
def State.longestSet (s : State) (x : Partition) : Nat := x.stepSets.foldl (fun m t => max m (s.longest t)) 0

/-- Whether a step of context c is a reserved step (10 R258). -/
def Partition.reserves (x : Partition) (c : CtxNo) (isStep : Bool) : Bool :=
  isStep && x.live.guarded && c.toNat % 256 == x.live.gCtx

/-- Whether a Guarded partition refuses a run that would not fit beside a slot (10 R259). -/
def State.tooLong (s : State) (x : Partition) (c : CtxNo) (isStep : Bool) (nBeats : Nat) : Bool :=
  x.live.guarded && !x.reserves c isStep &&
    !slotFits (nBeats + s.longestSet x) x.live.beatLen x.live.fG x.live.periodUs

/-- The place of an accepted command among all, for the order of acceptance (10 R259). -/
def State.acceptedAt (s : State) (q : Req) : Nat := (s.accepted.takeWhile fun a => a.q != q).length

/-- Put a run into its partition's queue, in order of acceptance. -/
def State.enqueue (s : State) (p : Nat) (r : Run) : State :=
  let le := fun (a b : Run) => decide (s.acceptedAt a.q ≤ s.acceptedAt b.q)
  s.modPtn p fun x => { x with queue := Lists.insertBy le r x.queue }

/-! ### SCHED.RUN and SCHED.STEP -/

/-- What the list object of a run gives: slot table and bindings, or the status that refuses it (12 R310, 08 R192). -/
def State.readList (s : State) (c : CtxNo) (a : RunArgs) (slotNos : List Nat) : Except Nat (List (BitVec 42) × List Slot) :=
  if a.nObj = 0 ∧ slotNos.isEmpty then .ok ([], [])
  else
    match s.obj? c a.list with
    | none => .error stNoObject
    | some o =>
      let n := slotNos.length
      if o.desc.kind != kindData then .error stBadField
      else if o.size < a.objOff.toNat + 8 * a.nObj.toNat ∨ o.size < a.bindOff.toNat + 16 * n then .error stBadField
      else if (s.objPoison o a.objOff.toNat (8 * a.nObj.toNat)).isSome ∨
          (s.objPoison o a.bindOff.toNat (16 * n)).isSome then .error stPoison
      else
        match s.readSlots o a.objOff.toNat a.nObj.toNat, s.readBindings o a.bindOff.toNat slotNos with
        | some objs, some xs =>
          if xs.all fun x => x.logIn o then
            match s.objsRefuse c objs with
            | some st => .error st
            | none =>
              match xs.findSome? fun x => s.seqRefuses c x.seq with
              | some st => .error st
              | none => .ok (objs, xs)
          else .error stBadField
        | _, _ => .error stBadField

/-- SCHED.RUN (05 R135, 10 R242, R259, 12 R310): binding i takes ream slot i. It waits while a tile of its list object
migrates (07 R161). -/
def schedRunBody (a : RunArgs) (s : State) (q : Req) : Ran :=
  withCtx q s fun c =>
    match s.image? c a.image, s.ptn? (ptnOf c) with
    | some img, some x =>
      if s.objMigrates c a.list then .waits
      else match s.readList c a (List.range a.nBind.toNat) with
      | .error st => .status s st
      | .ok (objs, slots) =>
        if s.tooLong x c false img.nBeats then .status s stLimit
        else .goesOn (s.enqueue (ptnOf c) { q := q, ctx := c, isStep := false, image := a.image, args := a, objs := objs,
                                            slots := slots })
    | _, _ => .status s stNoObject

def execSchedRun (q : Req) (a : RunArgs) (s : State) : Result := .next (runCommand (.schedRun q a) s (schedRunBody a))

/-- SCHED.STEP (10 R242, R243, R251, R259): decode bindings take slots from 0, chunk bindings from 255 downward. -/
def schedStepBody (a : RunArgs) (s : State) (q : Req) : Ran :=
  let g := a.nBind.toNat
  let k := a.q.toNat
  if g = 0 ∧ k = 0 then .status s stOkEmpty
  else
    withCtx q s fun c =>
      match (s.ptn? (ptnOf c)).bind fun x => (x.stepSet? c a.image.toNat).map fun t => (x, t) with
      | none => .status s stNoObject
      | some (x, t) =>
        if 256 < g + k then .status s stLimit
        else if s.objMigrates c a.list then .waits
        else
          match s.readList c a (List.range g ++ (List.range k).map fun i => 255 - i) with
          | .error st => .status s st
          | .ok (objs, slots) =>
            let shaped := (slots.take g).all Slot.decodes && (slots.drop g).all Slot.chunks && distinctSeqs slots
            let result := if a.verify then s.obj? c a.result else none
            if !shaped then .status s stBadField
            else if a.verify && result.isNone then .status s stNoObject
            else if result.any fun o => o.size < 128 * (g + 1) || o.desc.kind == kindWeights then .status s stBadField
            else
              match selectVariant t.variants g k ((slots.drop g).map Slot.rows) with
              | none => .status s stLimit
              | some (i, v) =>
                let beats := ((s.image? c v.image).map Image.nBeats).getD 0
                if s.tooLong x c true beats then .status s stLimit
                else .goesOn (s.enqueue (ptnOf c) { q := q, ctx := c, isStep := true, image := v.image, variant := i,
                                                    args := a, objs := objs, slots := slots })

def execSchedStep (q : Req) (a : RunArgs) (s : State) : Result := .next (runCommand (.schedStep q a) s (schedStepBody a))

/-! ### SCHED.UNLOAD, SCHED.STEPSET and SCHED.STEPFREE -/

/-- SCHED.UNLOAD (10 R241, R242). -/
def schedUnloadBody (base : BitVec 42) (s : State) (q : Req) : Ran :=
  withCtx q s fun c =>
    let p := ptnOf c
    let named := (s.ptn? p).any fun x => x.stepSets.any fun t => t.ctx == c && t.variants.any fun v => v.image == base
    let used := s.accepted.any fun a =>
      match a.cmd with
      | .schedRun r b => b.image == base && r.ring == q.ring
      | _ => false
    if !s.loaded c base then .status s stNoObject
    else if named then .status s stBadField
    else if used then .status s stInUse
    else .status { s with images := s.images.filter fun i => !(i.ctx == c && i.base == base) } stOk

def execSchedUnload (q : Req) (image : BitVec 42) (s : State) : Result :=
  .next (runCommand (.schedUnload q image) s (schedUnloadBody image))

/-- Read a step-set entry (10 Table SRV.1); none where it breaks the table. -/
def readVariant (v : Nat) : Option Variant :=
  let g := Bits.range v 56 48
  let k := Bits.range v 67 64
  let rows := Bits.range v 85 72
  let ok := Bits.range v 47 42 == 0 && Bits.range v 63 57 == 0 && Bits.range v 71 68 == 0 && Bits.range v 127 86 == 0 &&
    g ≤ 256 && k ≤ 8 && (g != 0 || k != 0) && g + k ≤ 256 && ((rows == 0) == (k == 0)) && rows % 256 == 0 && rows ≤ 8192
  if ok then some ⟨BitVec.ofNat 42 (Bits.range v 41 0), g, k, rows⟩ else none

/-- Read n step-set entries. -/
def State.readVariants (s : State) (o : Obj) (off : Nat) : Nat → Option (List Variant)
  | 0 => some []
  | n + 1 =>
    match readVariant (s.objWord o off 16), s.readVariants o (off + 16) n with
    | some v, some vs => some (v :: vs)
    | _, _ => none

/-- What the images of a step set must agree in (10 R241). -/
def Image.kin (a b : Image) : Bool :=
  a.shapeId == b.shapeId && a.clusters == b.clusters && a.latMode == b.latMode && a.beatLen == b.beatLen

/-- SCHED.STEPSET (10 R241, R258); the number is a free value where it is free, else the lowest free one (log entry 3). -/
def schedStepsetBody (base off : BitVec 42) (n : BitVec 4) (s : State) (q : Req) : Ran :=
  if n = 0 then .status s stOkEmpty
  else
    withObj q base s fun o =>
      let c := o.ctx
      if o.size < off.toNat + 16 * n.toNat then .status s stBadField
      else if s.objMigrates c base then .waits
      else if (s.objPoison o off.toNat (16 * n.toNat)).isSome then .status s stPoison
      else
        match s.readVariants o off.toNat n.toNat, s.ptn? (ptnOf c) with
        | some vs, some x =>
          let imgs := vs.filterMap fun v => s.image? c v.image
          let kin := match imgs with
            | [] => false
            | i :: is => is.all fun j => i.kin j
          let fits := !x.live.guarded || slotFits (imgs.foldl (fun m i => max m i.nBeats) 0) x.live.beatLen x.live.fG x.live.periodUs
          if imgs.length != vs.length || !kin then .status s stBadField
          else if !fits then .status s stLimit
          else
            let (v, s) := s.takeFree
            let used := x.stepSets.map (·.no)
            let want := v.toNat % 16
            match if used.contains want then Lists.lowestFree 16 used else some want with
            | none => .status s stLimit
            | some no =>
              .done (s.modPtn (ptnOf c) fun y => { y with stepSets := y.stepSets ++ [⟨no, c, vs⟩] }) stOk no 0
        | _, _ => .status s stBadField

def execSchedStepset (q : Req) (base off : BitVec 42) (n : BitVec 4) (s : State) : Result :=
  .next (runCommand (.schedStepset q base off n) s (schedStepsetBody base off n))

/-- SCHED.STEPFREE (10 R241, R242). -/
def schedStepfreeBody (no : BitVec 4) (s : State) (q : Req) : Ran :=
  withCtx q s fun c =>
    let used := s.accepted.any fun a =>
      match a.cmd with
      | .schedStep r b => b.image.toNat == no.toNat && r.ring == q.ring
      | _ => false
    if ((s.ptn? (ptnOf c)).bind fun x => x.stepSet? c no.toNat).isNone then .status s stNoObject
    else if used then .status s stInUse
    else
      .status (s.modPtn (ptnOf c) fun x =>
        { x with stepSets := x.stepSets.filter fun t => !(t.ctx == c && t.no == no.toNat) }) stOk

def execSchedStepfree (q : Req) (no : BitVec 4) (s : State) : Result :=
  .next (runCommand (.schedStepfree q no) s (schedStepfreeBody no))

end Sys2Proof.Machine
end

