-- ==== Sys2Proof/Machine/Kv.lean ====
section
/-! DEFINITION. Sequences and prefix handles: the SEQ, KV and PFX commands (09 R200 to R240, 10 R253 and R254). -/

namespace Sys2Proof.Machine

/-! ### Log pages -/

/-- Write log entry t where its page is present. -/
def State.putLog (s : State) (x : Seq) (t v : Nat) : State :=
  match x.present? (logPage t) with
  | some g => s.writePage g ((256 + 4 * t) % 65536) (Bits.toBytes 4 v)
  | none => s

/-- Write log entries from position t on. -/
def State.putLogs (s : State) (x : Seq) (t : Nat) : List Nat → State
  | [] => s
  | v :: vs => (s.putLog x t v).putLogs x (t + 1) vs

/-- Write the global list into the first log page, where that page is present and private (09 R206, log entry 23). -/
def State.putGlob (s : State) (index : Nat) : State :=
  match s.seqs.find? fun x => x.index == index with
  | none => s
  | some x =>
    match x.present? logLane with
    | some g =>
      if g.shared then s
      else s.writePage g 0 ((List.range 64).flatMap fun (i : Nat) => Bits.toBytes 4 (x.glob.getD i 0))
    | none => s

/-! ### Directory entries (09 Table KV.1) -/

/-- The directory index of entry k of a partition's share, and the entry of an index. -/
def Partition.dirIndex (x : Partition) (k : Nat) : Nat := x.dirBase + k
def Partition.dirPlace (x : Partition) (index : Nat) : Nat := index - x.dirBase

/-- The state field. -/
def SeqState.code : SeqState → Nat
  | .opened => 1 | .closing => 2 | .lost => 3

/-- The 64 bytes of a directory entry, whose root node lies at a unit and node of a cluster. -/
def Seq.entry (x : Seq) (unit cluster slot : Nat) : Nat :=
  packBits [(x.state.code, 0), (Bits.ofBool x.incomplete, 2), (Bits.ofBool x.mixed, 3), (Bits.ofBool x.shape.layout, 4),
    (x.ctx.toNat, 8), (x.gen.toNat, 19), (x.shape.kvFmt.toNat, 32), (x.shape.hd.toNat, 36), (x.shape.layers.toNat, 40),
    (x.shape.heads.toNat, 48), (x.c, 64), (x.d, 87), (x.w.toNat, 96), (x.glob.length, 113), (x.shape.shardLog2.toNat, 128),
    (x.shape.memberLog2.toNat, 131), (x.shape.rank.toNat, 134), (x.dropCount, 144), (x.stamp.toNat, 192),
    (unit, 256), (cluster, 276), (slot, 279), (x.shapeId.toNat, 320), (x.input.toNat, 384)]

/-- The directory entry of a sequence as its partition's reserve holds it (09 R200). -/
def State.entryOf (s : State) (x : Seq) : Nat :=
  match s.ptn? (ptnOf x.ctx) with
  | none => 0
  | some pt =>
    let root := (pt.nodePlace x.index 0 0).getD (0, 0)
    x.entry root.1 pt.low root.2

/-! ### The reserve as it lies in tier 1 (09 R200, R208, R209) -/

/-- A tree entry (09 Table KV.4). -/
def treeEntry (tier cluster unit slot : Nat) (valid large tentative shared dropped keep : Bool) : Nat :=
  packBits [(Bits.ofBool valid, 0), (tier, 1), (cluster, 2), (unit, 5), (slot, 25), (Bits.ofBool large, 29),
    (Bits.ofBool tentative, 30), (Bits.ofBool shared, 31), (Bits.ofBool dropped, 32), (Bits.ofBool keep, 33)]

/-- The leaf entry of page n of a sequence; 0 where the page was never written. -/
def Seq.leafEntry (x : Seq) (n : Nat) : Nat :=
  match x.page? n with
  | none => 0
  | some g =>
    if g.dropped then treeEntry 0 0 0 0 false false false false true g.keep
    else treeEntry 1 g.cluster g.unit 0 true false g.tentative g.shared false g.keep

/-- The object of a context that maps a granule of its range, with the residence tile. -/
def State.granuleTile (s : State) (c : CtxNo) (g : Nat) : Option (Obj × ResTile) :=
  s.objs.findSome? fun o =>
    let base := o.desc.vbase.toNat / 65536
    if o.ctx = c ∧ base ≤ g then (o.tiles[(g - base) / tileUnits o.desc]?).map fun t => (o, t) else none

/-- Entry i of a node of a partition's trees (09 Tables KV.3 and KV.4). -/
def State.nodeEntry (s : State) (x : Partition) (y : TreeNode) (i : Nat) : Nat :=
  let next := if y.level = 0 then i else y.key * 512 + i
  if y.level < 2 then
    match x.nodePlace y.space (y.level + 1) next with
    | none => 0
    | some (u, k) =>
      let has := (s.objs.filter fun o => objSpace o.ctx == y.space && o.desc.tile).any fun o =>
        y.level == 1 && o.desc.vbase.toNat / 33554432 ≤ next &&
          next ≤ (o.desc.vbase.toNat + o.tiles.length * tileBytes o.desc - 1) / 33554432
      treeEntry 1 x.low u k true has false false false false
  else if y.space < objSpace 0 then
    ((s.seqs.find? fun z => z.index == y.space).map fun z => z.leafEntry next).getD 0
  else
    match s.granuleTile (BitVec.ofNat 11 y.space) (y.key * 512 + i) with
    | some (o, t) =>
      if o.desc.tile then 0 else treeEntry t.place.tier t.place.cluster t.place.unit 0 true false false false false false
    | none => 0

/-- Entry i of a leaf node that maps tiles of 2 MiB: entries 0 to 15 (09 Table KV.3). -/
def State.largeEntry (s : State) (y : TreeNode) (i : Nat) : Option Nat :=
  if y.level = 2 ∧ objSpace 0 ≤ y.space then
    match s.granuleTile (BitVec.ofNat 11 y.space) (y.key * 512 + i * 32) with
    | some (o, t) =>
      if o.desc.tile && i < 16 then some (treeEntry t.place.tier t.place.cluster t.place.unit 0 true false false false false false)
      else none
    | none => none
  else none

/-- A byte of a partition's reserve (07 R166): the nodes of its trees, then the entries of its directory share; the node
pool beyond them is as it lies in tier 1. -/
def State.reserveByte (s : State) (x : Partition) (off : Nat) : Byte :=
  let pool := x.n * 64 * unitBytes
  if off < pool then
    match x.tree.find? fun y => y.place == off / 4096 with
    | none => (s.readTier 1 x.low (x.reserve * unitBytes + off) 1).headD 0
    | some y =>
      let i := off % 4096 / 8
      BitVec.ofNat 8 ((s.largeEntry y i).getD (s.nodeEntry x y i) / 256 ^ (off % 8))
  else
    let index := x.dirIndex ((off - pool) / 64)
    let entry := match s.seqs.find? fun y => y.index == index with
      | some y => s.entryOf y
      | none => (Table.get 0 s.gens index).toNat * 2 ^ 19
    BitVec.ofNat 8 (entry / 256 ^ ((off - pool) % 64))

/-- n bytes of a cluster's tier 1, those of a partition's reserve among them (20 R493). -/
def State.readPhysical (s : State) (cluster off n : Nat) : List Byte :=
  (List.range n).map fun i =>
    let a := off + i
    match (s.ptnOfCluster cluster).bind s.ptn? with
    | some x =>
      let lo := x.reserve * unitBytes
      if x.low = cluster ∧ lo ≤ a ∧ a < lo + (x.n * 64 + 4 * (x.share / 4096)) * unitBytes then s.reserveByte x (a - lo)
      else (s.readTier 1 cluster a 1).headD 0
    | none => (s.readTier 1 cluster a 1).headD 0

/-- A command on an open sequence of the issuing context (09 R201, R202, R228). -/
def withSeq (q : Req) (no : BitVec 32) (s : State) (f : CtxNo → Seq → Ran) : Ran :=
  withCtx q s fun c =>
    match s.seqRefuses c no, s.seq? no with
    | some st, _ => .status s st
    | none, some x => f c x
    | none, none => .status s stNoObject

/-- A command that waits while a run in progress binds its sequence (09 R232). -/
def withIdleSeq (q : Req) (no : BitVec 32) (s : State) (f : CtxNo → Seq → Ran) : Ran :=
  withSeq q no s fun c x => if s.seqBound x then .waits else f c x

/-! ### Handles -/

/-- A handle that is valid for a partition (10 R253). -/
def State.handle? (s : State) (p : Nat) (v : BitVec 64) : Option Handle :=
  s.handles.find? fun h => h.handle == v && h.ptn == p && !h.released

/-! ### SEQ commands -/

/-- A free directory index of a partition's share: a free value where it is free, else the lowest free one (log entry
3). -/
def State.chooseIndex (s : State) (p : Nat) (x : Partition) : State × Option Nat :=
  let (v, s) := s.takeFree
  let used := (s.seqsOf p).map (·.index)
  if x.share ≤ used.length then (s, none)
  else
    let want := x.dirIndex (v.toNat % x.share)
    if used.contains want then
      (s, ((List.range (used.length + 1)).map x.dirIndex).find? fun i => !used.contains i)
    else (s, some want)

/-- The recorded fields of a request (09 R233). -/
def seqShape (a : SeqOpenArgs) : SeqShape where
  kvFmt := a.kvFmt
  hd := a.hd
  layers := a.layers
  heads := a.heads
  layout := a.layout
  shardLog2 := a.shardLog2
  memberLog2 := a.memberLog2
  rank := a.rank

/-- Mark a page shared. -/
def sharePage (g : Page) : Page := { g with shared := true }

/-- SEQ.OPEN (09 R202, R205, R223, R234, R239). -/
def seqOpenBody (a : SeqOpenArgs) (s : State) (q : Req) : Ran :=
  withCtx q s fun c =>
    let p := ptnOf c
    match s.ptn? p with
    | none => .status s stNoObject
    | some x =>
      let handle := if a.fromHandle then s.handle? p a.handle else none
      if a.fromHandle && handle.isNone then .status s stNoObject
      else if a.input != 0 && (s.obj? c a.input).isNone then .status s stNoObject
      else if handle.any fun h => h.shape != seqShape a then .status s stBadField
      else if 65536 ≤ s.objCount c then .status s stLimit
      else
        match s.chooseIndex p x with
        | (s, none) => .status s stLimit
        | (s, some index) =>
          let seq : Seq := { index := index, gen := Table.get 0 s.gens index, ctx := c, shape := seqShape a, w := a.w,
                             stamp := x.beat.count, input := a.input }
          let seq := match handle with
            | some h => { seq with c := h.p, glob := h.glob, pages := h.pages.map sharePage }
            | none => seq
          let t := { s with seqs := s.seqs ++ [seq] }
          if t.nodesFit p then
            .done (if seq.incomplete then (t.layNodes p).queueRecompute index else t.layNodes p) stOk seq.no.toNat 0
          else .status s stQuota

def execSeqOpen (q : Req) (a : SeqOpenArgs) (s : State) : Result := .next (runCommand (.seqOpen q a) s (seqOpenBody a))

/-- Close a sequence and free its entry: private pages, references, nodes and queued chunks go, and the generation
moves on (09 R201, R239). -/
def State.closeSeq (s : State) (x : Seq) : State :=
  let s := { s with seqs := s.seqs.filter (fun y => y.index != x.index), gens := Table.set s.gens x.index (x.gen + 1) }
  let s := s.invalidate (ptnOf x.ctx) x.index fun _ => true
  let s := s.modPtn (ptnOf x.ctx) fun pt => { pt with recompute := pt.recompute.filter fun ch => ch.seq != x.no }
  s.settleHandles

/-- SEQ.CLOSE; a lost sequence may be closed (09 R228). -/
def seqCloseBody (no : BitVec 32) (s : State) (q : Req) : Ran :=
  withCtx q s fun c =>
    match s.seq? no with
    | none => .status s stNoObject
    | some x =>
      if x.ctx != c || x.state == .closing then .status s stNoObject
      else if s.seqBound x then .waits
      else .status ((s.closeSeq x).quotaClear (ptnOf c)) stOk

def execSeqClose (q : Req) (no : BitVec 32) (s : State) : Result := .next (runCommand (.seqClose q no) s (seqCloseBody no))

/-- SEQ.QUERY: the entry goes to host memory. -/
def seqQueryBody (no : BitVec 32) (host : BitVec 64) (s : State) (q : Req) : Ran :=
  withCtx q s fun c =>
    match s.seq? no with
    | none => .status s stNoObject
    | some x =>
      if x.ctx != c || x.state == .closing then .status s stNoObject
      else .status (s.writeHostOf q host (Bits.toBytes 64 (s.entryOf x))) stOk

def execSeqQuery (q : Req) (no : BitVec 32) (host : BitVec 64) (s : State) : Result :=
  .next (runCommand (.seqQuery q no host) s (seqQueryBody no host))

/-! ### KV commands -/

/-- Whether positions rise strictly and lie below c. -/
def ascendingBelow (c : Nat) : List Nat → Bool
  | [] => true
  | [a] => a < c
  | a :: b :: r => a < b && ascendingBelow c (b :: r)

/-- KV.GLOBAL (09 Table KV.9). -/
def kvGlobalBody (no : BitVec 32) (n : BitVec 7) (clear : Bool) (base off : BitVec 42) (s : State) (q : Req) : Ran :=
  if n = 0 ∧ !clear then .status s stOkEmpty
  else
    withIdleSeq q no s fun _ x =>
      let put := fun (l : List Nat) (st : State) => (st.modSeq x.index fun y => { y with glob := l }).putGlob x.index
      if n = 0 then .status (put [] s) stOk
      else
        withObj q base s fun o =>
          if o.size < off.toNat + 4 * n.toNat then .status s stBadField
          else if s.objMigrates o.ctx base then .waits
          else if (s.objPoison o off.toNat (4 * n.toNat)).isSome then .status s stPoison
          else
            let l := (List.range n.toNat).map fun i => s.objWord o (off.toNat + 4 * i) 4
            if ascendingBelow x.c l then .status (put l s) stOk else .status s stBadField

def execKvGlobal (q : Req) (no : BitVec 32) (n : BitVec 7) (clear : Bool) (base off : BitVec 42) (s : State) : Result :=
  .next (runCommand (.kvGlobal q no n clear base off) s (kvGlobalBody no n clear base off))

/-- The first position of a page, log pages included. -/
def SeqShape.first (x : SeqShape) (n : Nat) : Nat := if partOf n = 3 then logFirst n else x.firstPos n

/-- Accept a tentative tokens of a sequence (09 R230). -/
def Seq.commitDrafts (x : Seq) (a : Nat) : Seq :=
  let c := x.c + a
  let settle := fun (g : Page) => if x.shape.first g.no < c then { g with tentative := false } else g
  { x with c := c, d := x.d - a, pages := x.pages.map settle }

/-- Accept tentative tokens; where pages are dropped, the recompute chunks are laid out to the new c (09 R226). -/
def State.commitDrafts (s : State) (x : Seq) (a : Nat) : State :=
  let s := s.modSeq x.index fun y => y.commitDrafts a
  if x.incomplete then s.queueRecompute x.index else s

/-- KV.COMMIT. -/
def kvCommitBody (no : BitVec 32) (a : BitVec 5) (s : State) (q : Req) : Ran :=
  if a = 0 then .status s stOkEmpty
  else
    withIdleSeq q no s fun _ x =>
      if x.d < a.toNat then .status s stBadField
      else .status (s.commitDrafts x a.toNat) stOk

def execKvCommit (q : Req) (no : BitVec 32) (a : BitVec 5) (s : State) : Result :=
  .next (runCommand (.kvCommit q no a) s (kvCommitBody no a))

/-- Discard the tentative tokens of a sequence (09 R231): their log entries are zeroed and tentative pages freed, with
their translations (R211). -/
def State.rollback (s : State) (x : Seq) : State :=
  let s := s.putLogs x x.c (List.replicate x.d 0)
  let s := s.invalidate (ptnOf x.ctx) x.index fun n => x.pages.any fun g => g.tentative && g.no == n
  s.modSeq x.index fun y => { y with d := 0, pages := y.pages.filter fun g => !g.tentative }

/-- KV.ROLLBACK. -/
def kvRollbackBody (no : BitVec 32) (s : State) (q : Req) : Ran :=
  withIdleSeq q no s fun c x =>
    if x.d = 0 then .status s stOkEmpty else .status ((s.rollback x).quotaClear (ptnOf c)) stOk

def execKvRollback (q : Req) (no : BitVec 32) (s : State) : Result := .next (runCommand (.kvRollback q no) s (kvRollbackBody no))

/-- KV.DROP: the oldest candidate pages of the sequence, in ascending page number (09 R223, R225). -/
def kvDropBody (no : BitVec 32) (n : BitVec 24) (s : State) (q : Req) : Ran :=
  if n = 0 then .status s stOkEmpty
  else
    withIdleSeq q no s fun c x =>
      let hit := ((x.pages.filter fun g => s.droppable x g).take n.toNat).map (·.no)
      .done ((s.dropPages x.index hit).quotaClear (ptnOf c)) stOk hit.length 0

def execKvDrop (q : Req) (no : BitVec 32) (n : BitVec 24) (s : State) : Result :=
  .next (runCommand (.kvDrop q no n) s (kvDropBody no n))

/-! ### PFX commands -/

/-- Whether a page holds a position, or a log entry, below p. -/
def SeqShape.holdsBelow (x : SeqShape) (p n : Nat) : Bool := x.first n < p

/-- PFX.REGISTER (09 R233, 10 R253, R254). -/
def pfxRegisterBody (no : BitVec 32) (p : BitVec 23) (s : State) (q : Req) : Ran :=
  if p = 0 then .status s stOkEmpty
  else
    withIdleSeq q no s fun c x =>
      let live := s.handles.filter fun h => !h.released
      let mine := (live.filter fun h => h.ptn == ptnOf c).length
      let limit := ((s.ptn? (ptnOf c)).map (·.live.pfxLimit)).getD 0
      if x.d != 0 then .status s stSeqState
      else if x.c < p.toNat then .status s stBadField
      else if 65536 ≤ live.length ∨ limit ≤ mine then .status s stLimit
      else if s.rng.failing then .waits
      else
        let (v, s) := s.takeFree
        let used := live.map fun h => h.handle.toNat % 65536
        let want := v.toNat % 65536
        match if used.contains want then Lists.lowestFree 65536 used else some want with
        | none => .status s stLimit
        | some i =>
          let (d, s) := s.takeDraw
          let handle := BitVec.ofNat 64 (i + d.toNat % 2 ^ 48 * 65536)
          let share := fun (g : Page) => if x.shape.holdsBelow p.toNat g.no then sharePage g else g
          let pages := x.pages.filter fun g => x.shape.holdsBelow p.toNat g.no
          let h : Handle := { handle := handle, ptn := ptnOf c, ctx := c, p := p.toNat,
                              glob := x.glob.filter fun t => t < p.toNat, shape := x.shape, pages := pages.map sharePage }
          let s := { s with handles := s.handles ++ [h] }
          .done (s.modSeq x.index fun y => { y with pages := y.pages.map share }) stOk handle.toNat 0

def execPfxRegister (q : Req) (no : BitVec 32) (p : BitVec 23) (s : State) : Result :=
  .next (runCommand (.pfxRegister q no p) s (pfxRegisterBody no p))

/-- PFX.RELEASE (10 R254, 09 R236): by the registering context or the management context. -/
def pfxReleaseBody (v : BitVec 64) (s : State) (q : Req) : Ran :=
  withCtx q s fun c =>
    match s.handle? (ptnOf c) v with
    | none => .status s stNoObject
    | some h =>
      if (h.ctx == c && !h.ended) || isMgmt c then
        let s := { s with handles := Lists.modifyIf (fun y => y.handle == v) (fun y => { y with released := true }) s.handles }
        .status (s.settleHandles.quotaClear (ptnOf c)) stOk
      else .status s stNoObject

def execPfxRelease (q : Req) (v : BitVec 64) (s : State) : Result := .next (runCommand (.pfxRelease q v) s (pfxReleaseBody v))

end Sys2Proof.Machine
end

