-- ==== Sys2Proof/Machine/Numbers.lean ====
section
/-! DEFINITION. Number formats (02): encodings, exact values, rounding to nearest even, FP32 arithmetic, conversions,
codebook tables, stochastic rounding, and the functions exp2, rsqrt, reciprocal and the activations. -/

namespace Sys2Proof.Machine

/-- The formats of 02 Table FMT.1. -/
inductive Fmt where
  | fp32 | fp16 | bf16 | e4m3 | e5m2 | int8 | int4 | c4 | c8 | int32
  deriving DecidableEq, Repr

/-- Format codes (02 R41); the reserved codes name no format. -/
def Fmt.ofCode : Nat → Option Fmt
  | 1 => some .fp32 | 2 => some .fp16 | 3 => some .bf16 | 4 => some .e4m3 | 5 => some .e5m2
  | 6 => some .int8 | 7 => some .int4 | 8 => some .c4 | 9 => some .c8 | 10 => some .int32
  | _ => none

/-- Bits per element (02 Table FMT.1). -/
def Fmt.bits : Fmt → Nat
  | .fp32 => 32 | .int32 => 32 | .fp16 => 16 | .bf16 => 16 | .int4 => 4 | .c4 => 4 | _ => 8

/-- Whether the format is a codebook format. -/
def Fmt.isCode : Fmt → Bool
  | .c4 => true | .c8 => true | _ => false

/-- Whether the format is a two's-complement operand format. -/
def Fmt.isInt : Fmt → Bool
  | .int8 => true | .int4 => true | _ => false

/-- The fields of a floating-point encoding (02 Table FMT.2): exponent bits, fraction bits, bias, and whether the
all-ones exponent encodes infinity and NaN (E4M3 keeps it for finite values, with one NaN pattern). -/
structure FloatEnc where
  ebits : Nat
  fbits : Nat
  bias : Nat
  ieee : Bool
  deriving DecidableEq, Repr

namespace FloatEnc
/-- binary32. -/
def fp32 : FloatEnc := ⟨8, 23, 127, true⟩
/-- binary16. -/
def fp16 : FloatEnc := ⟨5, 10, 15, true⟩
/-- BF16. -/
def bf16 : FloatEnc := ⟨8, 7, 127, true⟩
/-- FP8 E4M3. -/
def e4m3 : FloatEnc := ⟨4, 3, 7, false⟩
/-- FP8 E5M2. -/
def e5m2 : FloatEnc := ⟨5, 2, 15, true⟩
/-- binary64, used by watch-point statistics only (20 R488). -/
def fp64 : FloatEnc := ⟨11, 52, 1023, true⟩

/-- The encoding with every exponent bit 1 and fraction 0. -/
def infCode (f : FloatEnc) : Nat := (2 ^ f.ebits - 1) * 2 ^ f.fbits
/-- The largest finite magnitude code. -/
def maxCode (f : FloatEnc) : Nat := if f.ieee then f.infCode - 1 else 2 ^ (f.ebits + f.fbits) - 2
/-- The canonical quiet NaN (02 Table FMT.2). -/
def nanCode (f : FloatEnc) : Nat := if f.ieee then f.infCode + 2 ^ (f.fbits - 1) else 2 ^ (f.ebits + f.fbits) - 1
/-- The sign bit's weight. -/
def signBit (f : FloatEnc) : Nat := 2 ^ (f.ebits + f.fbits)
end FloatEnc

/-- The encoding of a floating format; none for integers and codes. -/
def Fmt.float : Fmt → Option FloatEnc
  | .fp32 => some .fp32 | .fp16 => some .fp16 | .bf16 => some .bf16 | .e4m3 => some .e4m3 | .e5m2 => some .e5m2
  | _ => none

/-- A value: NaN, a signed infinity, or (-1)^neg * m * 2^e exactly. -/
inductive FVal where
  | nan
  | inf (neg : Bool)
  | fin (neg : Bool) (m : Nat) (e : Int)
  deriving DecidableEq, Repr

namespace FVal

/-- The value of a code; subnormals are never flushed (02 R42). -/
def decode (f : FloatEnc) (code : Nat) : FVal :=
  let c := code % (2 * f.signBit)
  let neg := decide (c ≥ f.signBit)
  let mag := c % f.signBit
  if mag > f.maxCode then
    if f.ieee && mag == f.infCode then .inf neg else .nan
  else
    let ex := mag / 2 ^ f.fbits
    let fr := mag % 2 ^ f.fbits
    if ex = 0 then .fin neg fr (1 - (f.bias : Int) - f.fbits)
    else .fin neg (2 ^ f.fbits + fr) ((ex : Int) - f.bias - f.fbits)

/-- Shift a natural number right by n places, rounding to nearest, ties to even. -/
def shiftRne (m n : Nat) : Nat :=
  let q := m / 2 ^ n
  let r := m % 2 ^ n
  if 2 * r > 2 ^ n then q + 1
  else if 2 * r = 2 ^ n ∧ n ≠ 0 then q + q % 2
  else q

/-- m * 2^e divided by the quantum 2^q, rounded to nearest even. -/
def quanta (m : Nat) (e q : Int) : Nat :=
  if e ≥ q then m * 2 ^ (e - q).toNat else shiftRne m (q - e).toNat

/-- The exponent of the quantum of format f at magnitude m * 2^e, m above 0 (subnormal spacing at the bottom). -/
def quantum (f : FloatEnc) (m : Nat) (e : Int) : Int :=
  max ((Nat.log2 m : Int) + e) (1 - (f.bias : Int)) - f.fbits

/-- The magnitude code of n quanta of size 2^q in format f; it may lie beyond the largest finite code. -/
def magCode (f : FloatEnc) (n : Nat) (q : Int) : Nat :=
  ((q + f.fbits - (1 - (f.bias : Int))).toNat) * 2 ^ f.fbits + n

/-- A magnitude code beyond the largest finite one becomes infinity, or the largest finite value in E4M3 (02 R64). -/
def clampCode (f : FloatEnc) (mag : Nat) : Nat :=
  if mag > f.maxCode then (if f.ieee then f.infCode else f.maxCode) else mag

/-- Encode a value under round-to-nearest-even (02 R62, R64 Table FMT.6). -/
def encode (f : FloatEnc) : FVal → Nat
  | .nan => f.nanCode
  | .inf neg => (if neg then f.signBit else 0) + (if f.ieee then f.infCode else f.maxCode)
  | .fin neg m e =>
    (if neg then f.signBit else 0) +
      (if m = 0 then 0 else
        let q := quantum f m e
        clampCode f (magCode f (quanta m e q) q))

/-- Encode under stochastic rounding with draw u (02 R66): up when u is below the 16 bits beneath the last place. -/
def encodeStochastic (f : FloatEnc) (u : Nat) : FVal → Nat
  | .nan => f.nanCode
  | .inf neg => (if neg then f.signBit else 0) + (if f.ieee then f.infCode else f.maxCode)
  | .fin neg m e =>
    (if neg then f.signBit else 0) +
      (if m = 0 then 0 else
        let q := quantum f m e
        if e ≥ q then clampCode f (magCode f (m * 2 ^ (e - q).toNat) q)
        else
          let n := (q - e).toNat
          let frac := (m % 2 ^ n) * 65536 / 2 ^ n
          clampCode f (magCode f (m / 2 ^ n + (if u < frac then 1 else 0)) q))

/-- Exact comparison of two finite magnitudes or signed values: m1*2^e1 and m2*2^e2 as integers over 2^min. -/
def toInt (neg : Bool) (m : Nat) (e base : Int) : Int :=
  let v : Int := (m * 2 ^ (e - base).toNat : Nat)
  if neg then -v else v

/-- The sum of two values before rounding (02 R63): infinities and NaN, exact otherwise; a zero sum is +0 unless both
terms are -0. -/
def add : FVal → FVal → FVal
  | .nan, _ => .nan
  | _, .nan => .nan
  | .inf a, .inf b => if a = b then .inf a else .nan
  | .inf a, _ => .inf a
  | _, .inf b => .inf b
  | .fin n1 m1 e1, .fin n2 m2 e2 =>
    let base := min e1 e2
    let z := toInt n1 m1 e1 base + toInt n2 m2 e2 base
    if z = 0 then .fin (n1 && n2 && m1 == 0 && m2 == 0) 0 0 else .fin (z < 0) z.natAbs base

/-- The exact product (02 R63). -/
def mul : FVal → FVal → FVal
  | .nan, _ => .nan
  | _, .nan => .nan
  | .inf a, .inf b => .inf (a != b)
  | .inf a, .fin b m _ => if m = 0 then .nan else .inf (a != b)
  | .fin a m _, .inf b => if m = 0 then .nan else .inf (a != b)
  | .fin a m1 e1, .fin b m2 e2 => .fin (a != b) (m1 * m2) (e1 + e2)

/-- Whether x < y; false when either is NaN. -/
def lt : FVal → FVal → Bool
  | .nan, _ => false
  | _, .nan => false
  | .inf a, .inf b => a && !b
  | .inf a, .fin .. => a
  | .fin .., .inf b => !b
  | .fin n1 m1 e1, .fin n2 m2 e2 =>
    let base := min e1 e2
    decide (toInt n1 m1 e1 base < toInt n2 m2 e2 base)

/-- The value without its sign. -/
def abs : FVal → FVal
  | .nan => .nan
  | .inf _ => .inf false
  | .fin _ m e => .fin false m e

/-- The value with its sign turned. -/
def negate : FVal → FVal
  | .nan => .nan
  | .inf a => .inf (!a)
  | .fin a m e => .fin (!a) m e

/-- Whether the value is finite. -/
def isFin : FVal → Bool
  | .fin .. => true
  | _ => false

/-- A finite value rounded to an integer, ties to even; 0 for the others. -/
def toIntRne : FVal → Int
  | .fin neg m e =>
    let n : Int := (quanta m e 0 : Nat)
    if neg then -n else n
  | _ => 0

/-- The value of an integer. -/
def ofInt (z : Int) : FVal := .fin (z < 0) z.natAbs 0

end FVal

/-! ### FP32 arithmetic, one rounding to nearest even each (02 R53, R63) -/

/-- An FP32 value as its bits. -/
abbrev F32 := BitVec 32

namespace F32
/-- The exact value. -/
def val (x : F32) : FVal := FVal.decode .fp32 x.toNat
/-- Round a value to FP32. -/
def round (v : FVal) : F32 := BitVec.ofNat 32 (FVal.encode .fp32 v)
/-- fp32(a + b). -/
def add (a b : F32) : F32 := round (FVal.add a.val b.val)
/-- fp32(a * b). -/
def mul (a b : F32) : F32 := round (FVal.mul a.val b.val)
/-- fp32(a - b). -/
def sub (a b : F32) : F32 := round (FVal.add a.val b.val.negate)
/-- fp32 of an integer. -/
def ofInt (z : Int) : F32 := round (FVal.ofInt z)
/-- Whether the value is a NaN. -/
def isNaN (x : F32) : Bool := x.val == .nan
/-- a < b. -/
def lt (a b : F32) : Bool := FVal.lt a.val b.val
/-- The larger of two values that are not NaN, the first when they are equal. -/
def max (a b : F32) : F32 := if lt a b then b else a
/-- The canonical quiet NaN. -/
def nan : F32 := 0x7FC00000#32
/-- Minus infinity. -/
def negInf : F32 := 0xFF800000#32
/-- Plus infinity. -/
def posInf : F32 := 0x7F800000#32
/-- One. -/
def one : F32 := 0x3F800000#32
/-- The value with sign bit 0. -/
def abs (x : F32) : F32 := x &&& 0x7FFFFFFF#32
end F32

/-! ### Correctly rounded functions -/

/-- floor(sqrt n), by fuel bits from the top. -/
def isqrtFrom : Nat → Nat → Nat → Nat
  | 0, _, r => r
  | k + 1, n, r =>
    let t := r + 2 ^ k
    isqrtFrom k n (if t * t ≤ n then t else r)

/-- floor(sqrt n). -/
def isqrt (n : Nat) : Nat := isqrtFrom (Nat.log2 n / 2 + 1) n 0

/-- The value nearest 1/x for FP32 x, ties to even (03 R90). -/
def F32.recip (x : F32) : F32 :=
  match x.val with
  | .nan => F32.nan
  | .inf neg => F32.round (.fin neg 0 0)
  | .fin neg m e =>
    if m = 0 then F32.round (.inf neg)
    else
      let num := 2 ^ (Nat.log2 m + 64)
      let sticky := if num % m = 0 then 0 else 1
      F32.round (.fin neg (2 * (num / m) + sticky) (-e - (Nat.log2 m + 64 : Nat) - 1))

/-- The value nearest 1/sqrt(x), ties to even, with the special cases of 04 R103. -/
def F32.rsqrt (x : F32) : F32 :=
  match x.val with
  | .nan => F32.nan
  | .inf neg => if neg then F32.nan else 0#32
  | .fin neg m e =>
    if m = 0 then (if neg then F32.negInf else F32.posInf)
    else if neg then F32.nan
    else
      let m' := if e % 2 = 0 then m else 2 * m
      let e' := if e % 2 = 0 then e else e - 1
      let k := Nat.log2 m' + 64
      let q := 2 ^ (2 * k) / m'
      let r := isqrt q
      let sticky := if r * r * m' = 2 ^ (2 * k) then 0 else 1
      F32.round (.fin false (2 * r + sticky) (-(e' / 2) - (k : Nat) - 1))

/-- Working precision of exp2, in fraction bits. -/
def expBits : Nat := 160

/-- 2^(2^-k) in fixed point with expBits fraction bits, by k square roots of 2. -/
def rootOfTwo : Nat → Nat
  | 0 => 2 * 2 ^ expBits
  | k + 1 => isqrt (rootOfTwo k * 2 ^ expBits)

/-- Multiply an accumulator by 2^(2^-i) for every set bit of a fraction, most significant first: fraction of n bits. -/
def exp2Frac : Nat → Nat → Nat → Nat → Nat
  | 0, _, _, acc => acc
  | n + 1, fr, root, acc =>
    let root' := isqrt (root * 2 ^ expBits)
    exp2Frac n fr root' (if fr.testBit n then acc * root' / 2 ^ expBits else acc)

/-- The FP32 value nearest 2^x, ties to even; +0 for minus infinity (03 R90). Log entry 8. -/
def F32.exp2 (x : F32) : F32 :=
  match x.val with
  | .nan => F32.nan
  | .inf neg => if neg then 0#32 else F32.posInf
  | .fin neg m e =>
    if m = 0 then F32.one
    else if (Nat.log2 m : Int) + e < -26 then F32.one
    else if (Nat.log2 m : Int) + e > 8 then (if neg then 0#32 else F32.posInf)
    else
      let n := (-e).toNat
      let z : Int := if neg then -((m * 2 ^ e.toNat : Nat) : Int) else (m * 2 ^ e.toNat : Nat)
      let whole := z / (2 ^ n : Nat)
      let fr := (z % ((2 ^ n : Nat) : Int)).toNat
      let acc := exp2Frac n fr (2 * 2 ^ expBits) (2 ^ expBits)
      if fr = 0 then F32.round (.fin false 1 whole)
      else F32.round (.fin false (2 * acc + 1) (whole - (expBits : Nat) - 1))

/-! ### Built-in codebook tables (02 R48) -/

/-- The FP16 code nearest 2^(a/16), ties to even, for a at most 0: 16th powers of midpoints decide each bit exactly. -/
def fp16PowerOfTwo (a : Int) : Nat :=
  let ex := a / 16
  let r := (a % 16).toNat
  let k := 64
  let root := match r with
    | 0 => 2 ^ k
    | _ => isqrt (isqrt (isqrt (isqrt (2 ^ r * 2 ^ (16 * k)))))
  let sticky := if r = 0 then 0 else 1
  FVal.encode .fp16 (.fin false (2 * root + sticky) (ex - (k : Nat) - 1))

/-- SLOG8: sign in bit 7, magnitude 2^((m - 127)/8), +0 at m = 0 (02 R48). -/
def slog8 (i : Nat) : Nat :=
  let m := i % 128
  if m = 0 then 0 else (if i ≥ 128 then 2 ^ 15 else 0) + fp16PowerOfTwo (2 * ((m : Int) - 127))

/-- ULOG8: 2^((i - 255)/16), 0 at i = 0 (02 R48). -/
def ulog8 (i : Nat) : Nat := if i = 0 then 0 else fp16PowerOfTwo ((i : Int) - 255)

/-! ### Conversions to stored formats -/

/-- The outcome of a conversion: the code, and how many format exceptions it counts. -/
structure Conv where
  code : Nat
  exceptions : Nat
  deriving DecidableEq, Repr

/-- Saturate an integer to a two's-complement width and give its code. -/
def satCode (w : Nat) (z : Int) : Nat :=
  let lo : Int := -((2 ^ (w - 1) : Nat) : Int)
  let hi : Int := ((2 ^ (w - 1) : Nat) : Int) - 1
  Bits.ofInt w (max lo (min hi z))

/-- The integer a value rounds to, nearest even or stochastic (02 R66). -/
def roundInt (draw : Option Nat) : FVal → Int
  | .fin neg m e =>
    match draw with
    | none => FVal.toIntRne (.fin neg m e)
    | some u =>
      let n : Int :=
        if e ≥ 0 then ((m * 2 ^ e.toNat : Nat) : Int)
        else
          let k := (-e).toNat
          let frac := (m % 2 ^ k) * 65536 / 2 ^ k
          ((m / 2 ^ k + (if u < frac then 1 else 0) : Nat) : Int)
      if neg then -n else n
  | _ => 0

/-- Conversion to INT8 or INT4 of width w with zero point zp (02 R58, Table FMT.6). DESIGN CHOICE (log entry 135): an
integer beyond the format whose sum with the zero point is not takes the sum, as R58 says; only the sum saturates. -/
def toIntCode (w : Nat) (zp : Int) (draw : Option Nat) (v : FVal) : Conv :=
  match v with
  | .nan => ⟨satCode w zp, 1⟩
  | .inf neg => ⟨if neg then 2 ^ (w - 1) else 2 ^ (w - 1) - 1, 0⟩
  | .fin .. => ⟨satCode w (roundInt draw v + zp), 0⟩

/-- The finite entries of a table with their indices. -/
def finiteEntries (tab : List FVal) : List (Nat × FVal) :=
  (tab.zipIdx.map fun (v, i) => (i, v)).filter fun (_, v) => v.isFin

/-- The lowest index of a least element under a strict order. -/
def leastBy (lt : FVal → FVal → Bool) : List (Nat × FVal) → Option (Nat × FVal)
  | [] => none
  | x :: xs =>
    match leastBy lt xs with
    | none => some x
    | some y => if lt y.2 x.2 then some y else some x

/-- The distance of two values, exact. -/
def FVal.dist (a b : FVal) : FVal := (FVal.add a b.negate).abs

/-- Conversion to a codebook format (02 R49, R64, R66). DESIGN CHOICE (log entry 136): of two entries equally far from
zero on the two sides of a value, the upper one is the neighbour nearer zero. -/
def toCode (tab : List FVal) (draw : Option Nat) (v : FVal) : Conv :=
  let es := finiteEntries tab
  match es with
  | [] => ⟨0, 1⟩
  | _ =>
    let smallest := leastBy FVal.lt es
    let largest := leastBy (fun a b => FVal.lt b a) es
    match v, smallest, largest with
    | .nan, _, _ => ⟨0, 1⟩
    | .inf neg, some lo, some hi => ⟨if neg then lo.1 else hi.1, 1⟩
    | .fin .., some lo, some hi =>
      if FVal.lt hi.2 v then ⟨hi.1, 1⟩
      else if FVal.lt v lo.2 then ⟨lo.1, 1⟩
      else
        match draw with
        | none =>
          match leastBy FVal.lt (es.map fun (i, x) => (i, FVal.dist x v)) with
          | some best => ⟨best.1, 0⟩
          | none => ⟨0, 1⟩
        | some u =>
          let below := leastBy (fun a b => FVal.lt b a) (es.filter fun (_, x) => !FVal.lt v x)
          let above := leastBy FVal.lt (es.filter fun (_, x) => !FVal.lt x v)
          match below, above with
          | some x, some y =>
            let xNear := FVal.lt x.2.abs y.2.abs
            let a := if xNear then x else y
            let b := if xNear then y else x
            let num := F32.round (FVal.dist v a.2)
            let den := F32.round (FVal.dist b.2 a.2)
            match num.val, (F32.recip den).val with
            | .fin _ 0 _, _ => ⟨a.1, 0⟩
            | .fin _ m e, _ =>
              match den.val with
              | .fin _ md ed =>
                if md = 0 then ⟨a.1, 0⟩
                else
                  -- fp32(num / den), then floor of it times 2^16
                  let k := 96
                  let qn := (m * 2 ^ k) / md
                  let st := if (m * 2 ^ k) % md = 0 then 0 else 1
                  match (F32.round (.fin false (2 * qn + st) (e - ed - (k : Nat) - 1))).val with
                  | .fin _ mq eq =>
                    let f := if eq + 16 ≥ 0 then mq * 2 ^ (eq + 16).toNat else mq / 2 ^ (-(eq + 16)).toNat
                    ⟨if u < f then b.1 else a.1, 0⟩
                  | _ => ⟨a.1, 0⟩
              | _ => ⟨a.1, 0⟩
            | _, _ => ⟨a.1, 0⟩
          | _, _ => ⟨0, 1⟩
    | _, _, _ => ⟨0, 1⟩

/-- Conversion of an FP32 value to a stored format (02 R64): the table is the bound codebook's, used by C4 and C8 only. -/
def convert (f : Fmt) (zp : Int) (tab : List FVal) (draw : Option Nat) (x : F32) : Conv :=
  match f.float with
  | some enc =>
    if enc = .fp32 then ⟨FVal.encode .fp32 x.val, 0⟩
    else match draw with
      | none => ⟨FVal.encode enc x.val, 0⟩
      | some u => ⟨FVal.encodeStochastic enc u x.val, 0⟩
  | none =>
    match f with
    | .int8 => toIntCode 8 zp draw x.val
    | .int4 => toIntCode 4 zp draw x.val
    | .int32 => ⟨satCode 32 (roundInt draw x.val), 0⟩
    | _ => toCode tab draw x.val

/-- The value a stored code has in a format that is not a codebook format. -/
def codeVal (f : Fmt) (code : Nat) : FVal :=
  match f.float with
  | some enc => FVal.decode enc code
  | none => FVal.ofInt (Bits.signed f.bits code)

/-- The random draw of an output element (02 R65). -/
def stochasticDraw (seed : BitVec 64) (stream index : Nat) : Nat :=
  let x0 : BitVec 64 := seed + 0x9E3779B97F4A7C15#64 * BitVec.ofNat 64 (stream * 2 ^ 40 + index + 1)
  let x1 := (x0 ^^^ (x0 >>> 30)) * 0xBF58476D1CE4E5B9#64
  let x2 := (x1 ^^^ (x1 >>> 27)) * 0x94D049BB133111EB#64
  let x3 := x2 ^^^ (x2 >>> 31)
  x3.toNat % 65536

/-! ### Integer accumulation (02 R54) -/

/-- Bounds of INT32. -/
def int32Max : Int := 2147483647
/-- Bounds of INT32. -/
def int32Min : Int := -2147483648

/-- One INT32 addition: exact until it meets a bound, where the sum stays; a saturation counts once (log entry 9). -/
def int32Add (acc : Int × Nat) (x : Int) : Int × Nat :=
  if acc.1 = int32Max ∨ acc.1 = int32Min then acc
  else
    let z := acc.1 + x
    if z > int32Max then (int32Max, acc.2 + 1)
    else if z < int32Min then (int32Min, acc.2 + 1)
    else (z, acc.2)

/-- The zero-point correction of 02 R60: 64-bit intermediates, one saturation to INT32. -/
def zeroPointCorrect (acc zpW r zA colsum k : Int) : Int × Nat :=
  let z := acc - zpW * r - zA * colsum + k * zA * zpW
  if z > int32Max then (int32Max, 1) else if z < int32Min then (int32Min, 1) else (z, 0)

/-! ### Activations (04 R101 Table CHN.2) -/

/-- Fraction bits of the reference evaluation of the activation functions. -/
def actBits : Nat := 256

/-- One in the reference evaluation. -/
def actOne : Int := 2 ^ actBits

/-- The product of two reference values. -/
def actMul (a b : Int) : Int := a * b / actOne

/-- The quotient of two reference values. -/
def actDiv (a b : Int) : Int := a * actOne / b

/-- The sum of terms, each the one before it times x times num k over den k. -/
def actSeries (x : Int) (num den : Nat → Int) : Nat → Nat → Int → Int
  | 0, _, term => term
  | fuel + 1, k, term => term + actSeries x num den fuel (k + 1) (actMul term x * num k / den k)

/-- e^(-x) for x at least 0: 16 squarings of the series at x / 2^16. -/
def actExpNeg (x : Int) : Int :=
  (List.range 16).foldl (fun y _ => actMul y y) (actSeries (-(x / 65536)) (fun _ => 1) (fun k => k + 1) 24 0 actOne)

/-- The inverse tangent of 1/n, and with sign 1 in place of -1 the inverse hyperbolic tangent of a value x = 1/n. -/
def actArc (x sign : Int) (terms : Nat) : Int :=
  ((List.range terms).foldl (fun (s : Int × Int) k => (s.1 + s.2 / (2 * (k : Int) + 1), sign * actMul (actMul s.2 x) x)) (0, x)).1

/-- Pi. -/
def actPi : Int := 16 * actArc (actOne / 5) (-1) 120 - 4 * actArc (actOne / 239) (-1) 60

/-- The square root of a reference value. -/
def actSqrt (x : Int) : Int := (isqrt (x.toNat * 2 ^ actBits) : Nat)

/-- 1 / (1 + e^(-x)). -/
def actSigmoid (x : Int) : Int :=
  let e := actExpNeg x.natAbs
  if x < 0 then actDiv e (actOne + e) else actDiv actOne (actOne + e)

/-- tanh x. -/
def actTanh (x : Int) : Int := 2 * actSigmoid (2 * x) - actOne

/-- ln(1 + e^x). -/
def actSoftplus (x : Int) : Int :=
  let e := actExpNeg x.natAbs
  max x 0 + 2 * actArc (actDiv e (2 * actOne + e)) 1 170

/-- erf x, by its series with positive terms. -/
def actErf (x : Int) : Int :=
  let z : Int := x.natAbs
  let s := actSeries (2 * actMul z z) (fun _ => 1) (fun k => 2 * k + 3) 700 0 z
  let y := actMul (actDiv (2 * actOne) (actSqrt actPi)) (actMul (actExpNeg (actMul z z)) s)
  if x < 0 then -y else y

/-- The functions of 04 Table CHN.2 within 2^-128 of their exact values, on an argument in [-16, 16]. The constant
0.044715 of the tanh form of GELU is log entry 134. -/
def actExact (code : Nat) (x : Int) : Int :=
  match code with
  | 2 =>
    let inner := actMul (actSqrt (actDiv (2 * actOne) actPi)) (x + actMul (actMul x x) x * 44715 / 1000000)
    actMul x (actOne + actTanh inner) / 2
  | 3 => actMul x (actOne + actErf (actDiv x (actSqrt (2 * actOne)))) / 2
  | 4 => actMul x (actSigmoid x)
  | 5 => actSigmoid x
  | 6 => actTanh x
  | _ => actSoftplus x

/-- A finite FP32 value as a reference value, exact. -/
def actOf (m : Nat) (e : Int) (neg : Bool) : Int :=
  let v : Int := (m * 2 ^ (e + actBits).toNat : Nat)
  if neg then -v else v

/-- Whether a result lies within 2^-20 relative or 2^-40 absolute of the exact value, whichever is larger (04 R101). -/
def actWithin (exact : Int) (y : F32) : Bool :=
  match y.val with
  | .fin neg m e =>
    let d : Int := (actOf m e neg - exact).natAbs
    decide (d * 2 ^ 20 ≤ exact.natAbs) || decide (d * 2 ^ 40 ≤ actOne)
  | _ => false

/-- The result of a table function inside [-16, 16]: the free value of the table, which the manual does not print, where
it keeps the bound that the manual states, and else the value nearest the exact one (log entry 134). -/
def actInside (code : Nat) (x : F32) : F32 :=
  match x.val with
  | .fin neg m e =>
    let exact := actExact code (actOf m e neg)
    let y := Config.activation code x
    if actWithin exact y then y else F32.round (.fin (exact < 0) exact.natAbs (-(actBits : Int)))
  | _ => F32.nan

/-- The activation function of a code on an FP32 value: NaN to NaN, ReLU exact, the asymptotic form beyond 16 in
magnitude, and the table function inside. -/
def activate (code : Nat) (x : F32) : F32 :=
  if x.isNaN then F32.nan
  else if code = 1 then (if F32.lt 0#32 x then x else 0#32)
  else
    let above := F32.lt 0x41800000#32 x
    let below := F32.lt x 0xC1800000#32
    if above then
      (if code = 5 ∨ code = 6 then F32.one else x)
    else if below then
      (if code = 4 then 0x80000000#32 else if code = 6 then 0xBF800000#32 else 0#32)
    else actInside code x

end Sys2Proof.Machine
end

