-- ==== Sys2Proof/Machine/Observe.lean ====
section
/-! DEFINITION. Observation (20): watch points and what they gather, trace records, what observation adds to a beat, and
the WATCH and CTR commands. -/

namespace Sys2Proof.Machine

/-! ### Statistics and digests (20 R487, R488) -/

/-- What statistics gather, in element order. -/
structure Stats where
  count : Nat := 0
  low : Option F32 := none
  high : Option F32 := none
  peak : Option F32 := none
  sum : FVal := .fin false 0 0
  sumsq : FVal := .fin false 0 0
  nans : Nat := 0
  infs : Nat := 0
  deriving DecidableEq, Repr

/-- Round to FP64. -/
def fp64Round (v : FVal) : FVal := FVal.decode .fp64 (FVal.encode .fp64 v)

/-- Gather one element: min, max and max-abs leave NaNs out, the sums are FP64 additions (20 R488). -/
def Stats.add (t : Stats) (x : F32) : Stats :=
  let v := x.val
  let pick := fun (better : F32 → F32 → Bool) (cur : Option F32) (y : F32) =>
    match cur with
    | none => some y
    | some z => if better y z then some y else some z
  { count := t.count + 1
    low := if x.isNaN then t.low else pick (fun a b => F32.lt a b) t.low x
    high := if x.isNaN then t.high else pick (fun a b => F32.lt b a) t.high x
    peak := if x.isNaN then t.peak else pick (fun a b => F32.lt b a) t.peak x.abs
    sum := fp64Round (FVal.add t.sum v)
    sumsq := fp64Round (FVal.add t.sumsq (fp64Round (FVal.mul v v)))
    nans := t.nans + Bits.ofBool x.isNaN
    infs := t.infs + match v with
      | .inf _ => 1
      | _ => 0 }

/-- The elements of a byte string in a format of whole bytes, each widened to FP32. -/
def widened (f : Fmt) : Nat → List Byte → List F32
  | 0, _ => []
  | n + 1, bs => F32.round (codeVal f (Bits.ofBytes (bs.take (f.bits / 8)))) :: widened f n (bs.drop (f.bits / 8))

/-- The statistics of a target. -/
def gather (f : Fmt) (bs : List Byte) : Stats := (widened f (bs.length * 8 / f.bits) bs).foldl Stats.add {}

/-- The words of a result that statistics fill; an absent min, max or max-abs is a free value (log entry 3). -/
def Stats.words (t : Stats) (free : Nat) : Nat :=
  let or_ := fun (x : Option F32) (k : Nat) => (x.getD (BitVec.ofNat 32 (Config.free (free + k)).toNat)).toNat
  packBits [(t.count, 64), (or_ t.low 0, 128), (or_ t.high 1, 160), (or_ t.peak 2, 192), (FVal.encode .fp64 t.sum, 256),
    (FVal.encode .fp64 t.sumsq, 320), (min t.nans (2 ^ 32 - 1), 384), (min t.infs (2 ^ 32 - 1), 416)]

/-- The words of a result that a digest fills (20 Table OBS.6). -/
def digestWords (d : BitVec 256) (n : Nat) : Nat :=
  packBits [(n, 64), (d.toNat % 2 ^ 128, 128), (d.toNat / 2 ^ 128, 256)]

/-! ### Taking a watch point -/

/-- The bytes of a watch point's target, none where it is missing or poisoned (20 R487). -/
def State.watched (s : State) (c : CtxNo) (a : WatchArgs) : Option (List Byte) :=
  if a.tileTarget then
    match s.ptn? (ptnOf c) with
    | none => none
    | some x =>
      some (s.stores.read (x.low + a.cluster.toNat) a.tile.toNat a.space.toNat (a.word.toNat * 4) a.tileBytes.toNat)
  else
    match s.obj? c a.base with
    | none => none
    | some o =>
      if o.size < a.offset.toNat + a.bytes.toNat ∨ (s.objPoison o a.offset.toNat a.bytes.toNat).isSome then none
      else some (s.readObj o a.offset.toNat a.bytes.toNat)

/-- Take watch point i for the run of a command with a tag. -/
def State.takeWatch (s : State) (c : CtxNo) (i : Nat) (a : WatchArgs) (tag : Nat) : State :=
  let head := fun (st : Nat) => packBits [(st, 0), (Bits.ofBool a.digest, 2), (tag, 16)]
  match s.watched c a with
  | none => s.setWatchResult c i (head 2)
  | some bs =>
    if a.digest then s.setWatchResult c i (head 1 + digestWords (Config.sha3 bs) bs.length)
    else
      let s' := s.setWatchResult c i (head 1 + (gather ((Fmt.ofCode a.fmt.toNat).getD .fp32) bs).words s.free)
      { s' with free := s'.free + 3 }

/-- Take, in index order, the watch points of a run's context that meet p, where the run carries the watch flag. -/
def State.takeWatches (s : State) (r : Run) (p : WatchArgs → Bool) : State :=
  if r.q.watch then
    (s.watchesOf r.ctx p).foldl (fun st (i, a) => st.takeWatch r.ctx i a r.q.tag.toNat) s
  else s

/-- The tile targets of the beat that a run is in (20 R487). -/
def State.tileWatches (s : State) (r : Run) : State := s.takeWatches r fun a => a.tileTarget && a.beat.toNat == r.beat

/-! ### Trace (20 R490) and the extension of a beat (20 R491) -/

/-- A context's trace, where it is in force for a run. -/
def State.traceOf (s : State) (r : Run) : Option Trace :=
  if r.q.watch then (s.ctx? r.ctx).bind (·.trace) else none

/-- The extension X of a run's beats in cycles. -/
def State.extension (s : State) (r : Run) : Nat :=
  if !r.q.watch then 0
  else
    let beats := ((s.image? r.ctx r.image).map Image.nBeats).getD 0
    let targets := (s.watchesOf r.ctx fun a => a.tileTarget && a.beat.toNat < beats).map (·.2)
    let load := fun (a : WatchArgs) =>
      (targets.filter fun b => b.beat == a.beat && b.cluster == a.cluster).foldl (fun n b => n + b.tileBytes.toNat) 0
    64 + 32 * Bits.ofBool (s.traceOf r).isSome + targets.foldl (fun m a => max m (Bits.ceilDiv (load a) 64)) 0

/-- The multiply-accumulates of a context so far, indices 0 to 4 of 20 Table OBS.1. -/
def Context.macs (x : Context) : BitVec 64 := (x.counters.take 5).foldl (fun a b => a + b) 0
/-- The tier-1 bytes of a context so far. -/
def Context.t1Bytes (x : Context) : BitVec 64 := x.counters.getD 20 0 + x.counters.getD 21 0

/-- Write the trace record of the beat that closes (20 R490, Table OBS.7). -/
def State.writeTrace (s : State) (r : Run) (ns fMin phase : Nat) : State :=
  match s.traceOf r, s.ctx? r.ctx with
  | some t, some x =>
    match s.obj? r.ctx t.base with
    | none => s
    | some o =>
      let n := t.bytes.toNat / 64 - 1
      let rec_ := packBits [(r.beat % 2 ^ 32, 0), (min ns (2 ^ 32 - 1), 32), (fMin % 256, 64), (phase % 4096, 72),
        (Bits.ofBool r.slipped, 84), (Bits.ofBool r.wasHeld, 85), ((x.macs - r.macAt).toNat, 128),
        ((x.t1Bytes - r.t1At).toNat, 192)]
      let next := (t.next.toNat + 1) % n
      let wraps := t.wraps + (if t.next.toNat + 1 = n then 1 else 0)
      -- what lies at the base may have become a weight object, which only WGT commands write (11 R268)
      let s := if o.broken.isSome then s.nodeFault o
        else if o.desc.kind = kindWeights then s
        else (s.writeObj o (t.offset.toNat + 64 + 64 * t.next.toNat) (Bits.toBytes 64 rec_)).writeObj o t.offset.toNat
          (Bits.toBytes 8 (packBits [(next, 0), (wraps.toNat, 32)]))
      s.modCtx r.ctx fun y => { y with trace := some { t with next := BitVec.ofNat 32 next, wraps := wraps } }
  | _, _ => s

/-! ### WATCH commands (20 R489) -/

/-- Whether a run of a context is in progress. -/
def State.running (s : State) (c : CtxNo) : Bool :=
  ((s.ptn? (ptnOf c)).bind (·.run)).any fun r => r.ctx == c

/-- Whether a target exists: an object with the range, or a range of a store of the partition. -/
def State.targetStatus (s : State) (c : CtxNo) (a : WatchArgs) : Nat :=
  if a.tileTarget then
    let n := ((s.ptn? (ptnOf c)).map (·.n)).getD 0
    if a.cluster.toNat < n ∧ a.tile.toNat < 14 ∧ storeBytes a.tile.toNat a.space.toNat ≠ 0 ∧
        a.word.toNat * 4 + a.tileBytes.toNat ≤ storeBytes a.tile.toNat a.space.toNat then stOk
    else stBadField
  else
    match s.obj? c a.base with
    | none => stNoObject
    | some o => if a.offset.toNat + a.bytes.toNat ≤ o.size ∧ a.bytes.toNat ≤ 2 ^ 30 then stOk else stBadField

/-- WATCH.SET. -/
def watchSetBody (a : WatchArgs) (s : State) (q : Req) : Ran :=
  withCtx q s fun c =>
    if s.targetStatus c a ≠ stOk then .status s (s.targetStatus c a)
    else if s.running c then .waits
    else .status (s.modCtx c fun x => { x with watches := x.watches.setIfInBounds a.index.toNat ⟨some a, 0⟩ }) stOk

def execWatchSet (q : Req) (a : WatchArgs) (s : State) : Result := .next (runCommand (.watchSet q a) s (watchSetBody a))

/-- WATCH.CLEAR. -/
def watchClearBody (mask : BitVec 16) (s : State) (q : Req) : Ran :=
  if mask = 0 then .status s stOkEmpty
  else
    withCtx q s fun c =>
      if s.running c then .waits
      else
        let cleared := fun (i : Nat) (w : Watch) => if mask.getLsbD i then {} else w
        .status (s.modCtx c fun x => { x with watches := x.watches.mapFinIdx fun i w _ => cleared i w }) stOk

def execWatchClear (q : Req) (mask : BitVec 16) (s : State) : Result :=
  .next (runCommand (.watchClear q mask) s (watchClearBody mask))

/-- WATCH.READ. -/
def watchReadBody (i : BitVec 4) (host : BitVec 64) (s : State) (q : Req) : Ran :=
  withCtx q s fun c =>
    let v := ((s.ctx? c).bind fun x => x.watches[i.toNat]?).map (·.result)
    .status (s.writeHostOf q host (Bits.toBytes 64 (v.getD 0).toNat)) stOk

def execWatchRead (q : Req) (i : BitVec 4) (host : BitVec 64) (s : State) : Result :=
  .next (runCommand (.watchRead q i host) s (watchReadBody i host))

/-- WATCH.TRACE (20 R490, R492). -/
def watchTraceBody (base off : BitVec 42) (n : BitVec 32) (s : State) (q : Req) : Ran :=
  withCtx q s fun c =>
    if n = 0 then .status (s.modCtx c fun x => { x with trace := none }) stOk
    else if !(s.live.traceAllow && ((s.ptn? (ptnOf c)).map (·.live.traceEn)).getD false) then .status s stDenied
    else
      match s.obj? c base with
      | none => .status s stNoObject
      | some o =>
        if o.desc.kind = kindWeights ∨ o.size < off.toNat + n.toNat then .status s stBadField
        else .status (s.modCtx c fun x => { x with trace := some { base := base, offset := off, bytes := n } }) stOk

def execWatchTrace (q : Req) (base off : BitVec 42) (n : BitVec 32) (s : State) : Result :=
  .next (runCommand (.watchTrace q base off n) s (watchTraceBody base off n))

/-! ### CTR commands (20 R485) -/

/-- The 64 bytes of OBS_GRP_c. -/
def GroupCounters.bits (g : GroupCounters) : Nat :=
  packBits [(g.pressBusy.toNat, 0), (g.reelBusy.toNat, 64), (g.hbBytes.toNat, 128), (g.filler.toNat, 192),
    (g.laneCyc.toNat, 256), (g.beats.toNat, 320)]

/-- OBS_ECC_h (20 Table OBS.4). -/
def State.obsEcc (s : State) (h : Nat) : Nat :=
  (Table.get (0#40) s.memc.corrected h).toNat + (Table.get (0#16) s.memc.cmdRetry h).toNat * 2 ^ 40

/-- The channels of a partition's clusters, ascending. -/
def Partition.channels (x : Partition) : List Nat :=
  (List.range 192).filter fun h => x.low ≤ channelCluster h && channelCluster h < x.low + x.n

/-- CTR.READ (20 Table OBS.2). -/
def ctrReadBody (kind : BitVec 2) (host : BitVec 64) (s : State) (q : Req) : Ran :=
  withCtx q s fun c =>
    if kind = 0 then
      let v := ((s.ctx? c).map (·.counters)).getD []
      .status (s.writeHostOf q host (v.flatMap fun (d : BitVec 64) => Bits.toBytes 8 d.toNat)) stOk
    else if !isMgmt c then .status s stDenied
    else
      match s.ptn? (ptnOf c) with
      | none => .status s stNoObject
      | some x =>
        let grp := (List.range x.n).flatMap fun k => Bits.toBytes 64 ((s.groups[x.low + k]?.map GroupCounters.bits).getD 0)
        let ecc := x.channels.flatMap fun h => Bits.toBytes 8 (s.obsEcc h)
        .status (s.writeHostOf q host (grp ++ ecc)) stOk

def execCtrRead (q : Req) (kind : BitVec 2) (host : BitVec 64) (s : State) : Result :=
  .next (runCommand (.ctrRead q kind host) s (ctrReadBody kind host))

/-- CTR.CLEAR: it waits while another command of the context that carries the counters flag is in progress. -/
def ctrClearBody (s : State) (q : Req) : Ran :=
  withCtx q s fun c =>
    if s.accepted.any fun a => a.q.ring == q.ring && a.q != q && a.started && a.q.counters then .waits
    else .status (s.modCtx c fun x => { x with counters := List.replicate 32 0 }) stOk

def execCtrClear (q : Req) (s : State) : Result := .next (runCommand (.ctrClear q) s ctrClearBody)

end Sys2Proof.Machine
end

