-- ==== Sys2Proof/Machine/Admit.lean ====
section
/-! DEFINITION. Admission of a run's slots (09 R213 to R218, R229, R235): the pages that its write endpoints can touch, the
checks of R215, the entries of the log, and the attention descriptors; and how a slot's admission is undone. -/

namespace Sys2Proof.Machine

/-! ### Page-run and couch endpoints (09 Table KV.5, 10 Table SRV.2) -/

/-- A page-run or couch endpoint: ream slot, part, layer, local head, mode of the first position (3: a couch run, whose
rows count from the binding's base) and the signed offset. -/
structure LaneRun where
  slot : Nat
  part : Nat
  layer : Nat
  head : Nat
  mode : Nat
  off : Int
  couch : Bool := false
  deriving DecidableEq, Repr

/-- The lane run of an endpoint. -/
def Endpoint.laneRun : Endpoint → Option LaneRun
  | .page e => some ⟨Bits.range e 7 0, Bits.range e 9 8, Bits.range e 17 10, Bits.range e 25 18, Bits.range e 27 26,
      Bits.signed 24 (Bits.range e 51 28), false⟩
  | .couch s p l h r => some ⟨s, p, l, h, 3, r, true⟩
  | _ => none

/-- The lane runs that a move reads or writes, and whether each is written. -/
def Mv.laneRuns (r : MoveRec) : List (LaneRun × Bool) :=
  (((Mv.source r).bind Endpoint.laneRun).map fun x => (x, false)).toList ++
    (((Mv.dest r).bind Endpoint.laneRun).map fun x => (x, true)).toList

/-- Every move record of an image. -/
def Image.allMoves (i : Image) : List MoveRec := i.moves.flatMap (·.2)

/-- Bytes of an entry of a part: e, or 4 for the log. -/
def SeqShape.entryBytes (x : SeqShape) (part : Nat) : Nat := if part = 3 then 4 else x.e part

/-- Whether the sequence holds the lane that an endpoint names (09 R213). -/
def SeqShape.holdsLane (x : SeqShape) (r : LaneRun) : Bool :=
  r.part < x.parts && r.layer < x.layers.toNat && r.head < x.localHeads

/-- The lane of an endpoint (09 R204). -/
def SeqShape.lane (x : SeqShape) (r : LaneRun) : Nat := r.layer * x.localHeads + r.head

/-- The position shard of a position under layout by position (09 R237). -/
def SeqShape.shardOf (x : SeqShape) (t : Nat) : Nat := t / x.perPage 0 % 2 ^ x.shardLog2.toNat

/-- Whether this device holds a position (09 R237). -/
def SeqShape.holdsPos (x : SeqShape) (t : Nat) : Bool :=
  !x.layout || x.shardOf t % 2 ^ x.memberLog2.toNat == x.rank.toNat

/-- The first position of a lane run; b is the base of a couch run (09 Table KV.5, 10 R248). -/
def LaneRun.first (r : LaneRun) (cPrev c b : Nat) : Int :=
  match r.mode with
  | 0 => r.off
  | 1 => (cPrev : Int) + r.off
  | 2 => (c : Int) + r.off
  | _ => (b : Int) + r.off

/-- The base position of a binding's rows (10 R248). -/
def Slot.base (sl : Slot) : Nat := if sl.recompute then sl.t0 else sl.cPrev
/-- The rows of a binding that may be kept. -/
def Slot.rowsKept (sl : Slot) : Nat := if sl.recompute then sl.m else sl.nNew + sl.drafts
/-- The attention limit of a slot's descriptors (09 R218, R226): c after admission, or the end of the chunk. -/
def Slot.limit (sl : Slot) : Nat := if sl.recompute then sl.t0 + sl.m else sl.cPrev + sl.nNew

/-- The positions of a lane run of some bytes that lie in [lo, hi). -/
def LaneRun.within (first : Int) (count lo hi : Nat) : List Nat :=
  let a := (max first (lo : Int)).toNat
  let b := (min (first + count) (hi : Int)).toNat
  (List.range (b - a)).map fun i => a + i

/-- The pages of a slot that one of the run's moves can write (09 R214 step 4, R217, 10 R248): of a recompute slot those
that are dropped and, but for couch rows, those never written that hold a position of the chunk (09 R226). -/
def Slot.pagesOf (sl : Slot) (x : SeqShape) (there : List Nat) (bytes : Nat) (r : LaneRun) : List Nat :=
  if r.slot != sl.no || r.part = 3 || !x.holdsLane r then []
  else
    let count := bytes / x.e r.part
    let first := r.first sl.cPrev (sl.cPrev + sl.nNew) sl.base
    let ts := if sl.recompute && !r.couch then LaneRun.within first count 0 (2 ^ 23)
      else LaneRun.within first count sl.base (sl.base + sl.rowsKept)
    let takes := fun (t : Nat) =>
      let n := x.pageNo r.part (x.lane r) t
      x.holdsPos t && (!sl.recompute || sl.droppedAt.contains n || (!r.couch && !there.contains n && sl.t0 ≤ t && t < sl.t0 + sl.m))
    ((ts.filter takes).map fun t => x.pageNo r.part (x.lane r) t).eraseDups

/-- Every page that an admitted slot's writes can touch, ascending: key-value pages, and the log pages of its entries. -/
def Slot.touched (sl : Slot) (y : Seq) (img : Image) : List Nat :=
  let x := y.shape
  let there := (y.pages.filter fun g => !g.dropped).map (·.no)
  let kv := img.allMoves.flatMap fun m =>
    ((Mv.laneRuns m).filter (·.2)).flatMap fun (r, _) => sl.pagesOf x there (Mv.bytes m) r
  let n := sl.nNew + sl.drafts
  let log := if n = 0 then [] else
    (List.range (logPage (sl.cPrev + n - 1) - logPage sl.cPrev + 1)).map fun i => logPage sl.cPrev + i
  Lists.sortBy (fun a b => decide (a ≤ b)) (kv ++ log).eraseDups

/-! ### Attention descriptors (09 R218, Table KV.6) -/

/-- The codes of the operations that name a descriptor. -/
def namesDescriptor (op : Nat) : Bool := op == 0x12 || op == 0x14 || op == 0x16

/-- The descriptors that an image's records name: cluster, tile, first word in space 0x2. -/
def Image.descriptors (i : Image) : List (Nat × Nat × Nat) :=
  (i.ops.flatMap fun ((cl, t), rs) =>
    (rs.filter fun r => namesDescriptor (Op.code r)).map fun r => (cl, t, Op.auxBase r)).eraseDups

namespace Desc
def slot (d : Nat) : Nat := Bits.range d 7 0
def pattern (d : Nat) : Nat := Bits.range d 10 8
def tail (d : Nat) : Bool := d.testBit 11
def stride (d : Nat) : Nat := Bits.range d 31 16
def rpp (d : Nat) : Nat := Bits.range d 38 32
def qOff (d : Nat) : Int := Bits.signed 24 (Bits.range d 63 40)
def limit (d : Nat) : Nat := Bits.range d 86 64
def qPos (d : Nat) : Int := Bits.signed 23 (Bits.range d 118 96)
def window (d : Nat) : Nat := Bits.range d 136 120
def nGlob (d : Nat) : Nat := Bits.range d 143 137
def topk (d : Nat) : Nat := Bits.range d 154 144
def shard (d : Nat) : Nat := Bits.range d 166 160
def glob (d i : Nat) : Nat := Bits.range d (512 + 32 * i + 31) (512 + 32 * i)
/-- Whether the fields that the compiler writes keep Table KV.6 and Table KV.7. -/
def ok (d : Nat) (causal : Bool) : Bool :=
  pattern d ≤ 4 && (pattern d == 0 || causal) && Bits.range d 15 12 == 0 && d.testBit 39 == false &&
    (if pattern d = 4 then 2 ≤ stride d else stride d == 0) && 1 ≤ rpp d && rpp d ≤ 64 && topk d ≤ 1024 &&
    Bits.range d 159 155 == 0 && Bits.range d 511 167 == 0
end Desc

/-- A descriptor as it stands in a tile of the device. -/
def State.descriptor (s : State) (cluster tile word : Nat) : Nat :=
  Bits.ofBytes (s.stores.read cluster tile 2 (word * 4) 320)

/-- Replace bits [hi:lo] of a value. -/
def putBits (v hi lo x : Nat) : Nat := v - Bits.range v hi lo * 2 ^ lo + x % 2 ^ (hi + 1 - lo) * 2 ^ lo

/-- The device fields of a descriptor of a bound slot (09 R218). -/
def Slot.describe (sl : Slot) (x : Seq) (d : Nat) : Nat :=
  let lim := if Desc.tail d then sl.drafts else sl.limit
  let q := if Desc.tail d then Desc.qOff d else (sl.cPrev : Int) + Desc.qOff d
  let d := putBits d 86 64 lim
  let d := putBits d 118 96 (Bits.ofInt 23 q)
  let d := putBits d 136 120 x.w.toNat
  let d := putBits d 143 137 x.glob.length
  d % 2 ^ 512 + ((List.range 64).foldl (fun n i => n + x.glob.getD i 0 * 2 ^ (32 * i)) 0) * 2 ^ 512

/-- Write the descriptors of a run's image: the device fields of a bound slot's, limit 0 in an unbound slot's (09 R218, 10
R244). -/
def State.describe (s : State) (p : Nat) (ctx : CtxNo) (img : Image) (slots : List Slot) : State :=
  match s.ptn? p with
  | none => s
  | some x =>
    img.descriptors.foldl (fun st (cl, t, w) =>
      let d := st.descriptor (x.low + cl) t w
      let d' := match slots.find? fun sl => sl.no == Desc.slot d with
        | some sl =>
          match st.seq? sl.seq with
          | some y => sl.describe y d
          | none => d
        | none => putBits d 86 64 0
      { st with stores := st.stores.write (some ctx) (x.low + cl) t 2 (w * 4) (Bits.toBytes 320 d') }) s

/-! ### Admission of one slot (09 R214, R215) -/

/-- The log entries of a binding, none where a line of the list object is poisoned (08 R192). -/
def State.bindingLog (s : State) (r : Run) (sl : Slot) : Option (List Nat) :=
  let n := if sl.recompute then 0 else sl.nNew + sl.drafts
  if n = 0 then some []
  else
    match s.obj? r.ctx r.args.list with
    | none => none
    | some o =>
      if (s.objPoison o sl.logOff (4 * n)).isSome then none
      else some ((List.range n).map fun i => s.objWord o (sl.logOff + 4 * i) 4)

/-- Whether an image's endpoints of a slot have lengths that fit the sequence's parts (09 R213, R215, 10 R247). -/
def Image.lengthsFit (img : Image) (no : Nat) (x : SeqShape) : Bool :=
  img.allMoves.all fun m => (Mv.laneRuns m).all fun (r, _) =>
    r.slot != no || (r.part != 3 && x.parts ≤ r.part) || Mv.bytes m % x.entryBytes r.part == 0

/-- The descriptors of a slot, as they stand. -/
def State.slotDescriptors (s : State) (low : Nat) (img : Image) (no : Nat) : List Nat :=
  (img.descriptors.map fun (cl, t, w) => s.descriptor (low + cl) t w).filter fun d => Desc.slot d == no

/-- The checks of 09 R215 on a slot with its log entries; none where it may be admitted. -/
def State.slotRefuses (s : State) (low : Nat) (r : Run) (img : Image) (sl : Slot) (x : Seq) (log : Option (List Nat)) :
    Option Nat :=
  let ds := s.slotDescriptors low img sl.no
  let c := x.c + sl.nNew
  let lim := if sl.recompute then sl.t0 + sl.m else c
  match s.seqRefuses r.ctx sl.seq with
  | some st => some st
  | none =>
    if x.d != 0 || (x.incomplete && !sl.recompute) then some stSeqState
    else if x.shape.limit < c + sl.drafts || (262144 < lim && ds.any fun d => Desc.pattern d == 0 && !Desc.tail d) then
      some stLimit
    else
      match log with
      | none => some stPoison
      | some l =>
        if (l.any fun v => 2 ≤ v / 2 ^ 30) || (ds.any fun d => 2 ^ x.shape.shardLog2.toNat ≤ Desc.shard d) ||
            !img.lengthsFit sl.no x.shape ||
            (sl.recompute && (sl.t0 % x.shape.gridQ != 0 || x.c < sl.t0 + sl.m)) then some stBadField
        else none

/-- Allocate or copy one page of a slot (09 R207, R229, R235); none where no unit can be had. -/
def State.admitPage (s : State) (p low n : Nat) (sl : Slot) (index page : Nat) : State × Option Slot :=
  match s.seqs.find? fun x => x.index == index with
  | none => (s, none)
  | some x =>
    let old := x.page? page
    let stays := match old with
      | some g => !g.dropped && !g.shared
      | none => false
    if stays then (s, some sl)
    else
      let cluster := match old with
        | some g => if g.dropped then (if partOf page = 3 then low else low + x.shape.pageCluster n page) else g.cluster
        | none => if partOf page = 3 then low else low + x.shape.pageCluster n page
      match s.alloc p (some x.ctx) 1 cluster 1 1 with
      | (s', none) => (s', none)
      | (s', some u) =>
        let g : Page := { no := page, cluster := cluster, unit := u, keep := partOf page == 3,
                          tentative := !sl.recompute && sl.cPrev + sl.nNew ≤ x.shape.first page }
        let s' := match old with
          | some o => if o.shared && !o.dropped then s'.copyPage o g else s'.undefineUnits 1 cluster u 1
          | none => s'.undefineUnits 1 cluster u 1
        let s' := s'.modSeq index fun y => { y with pages := putPage g y.pages }
        let sl := { sl with allocated := sl.allocated ++ [page], prior := sl.prior ++ old.toList }
        if s'.nodesFit p then ((s'.layNodes p).count x.ctx 29 1, some sl)
        else
          -- no node: the page goes again (09 R215)
          (s'.modSeq index fun y =>
            { y with pages := old.toList.foldl (fun gs o => putPage o gs) (y.pages.filter fun k => k.no != page) }, none)

/-- Put back what the admission of a slot changed in its sequence (09 R215, 10 R288). -/
def State.restoreSlot (s : State) (sl : Slot) : State :=
  if !sl.done then s
  else
    match s.seq? sl.seq with
    | none => s
    | some x =>
      let s := s.putLogs x sl.cPrev sl.oldLog
      let s := s.invalidate (ptnOf x.ctx) x.index sl.allocated.contains
      -- a shared page that was freed since it was copied does not come back: the copy stays
      let gone := (sl.prior.filter fun g => g.shared && !g.dropped && !s.shareHeld g).map (·.no)
      let put := fun (gs : List Page) => (sl.prior.filter fun g => !gone.contains g.no).foldl (fun acc g => putPage g acc)
        (gs.filter fun g => !sl.allocated.contains g.no || gone.contains g.no)
      s.modSeq x.index fun y =>
        { y with c := sl.cPrev, d := 0, pages := put y.pages, shapeId := sl.oldShape.1, mixed := sl.oldShape.2.1,
                 written := sl.oldShape.2.2 }

/-- Allocate the pages of a slot in ascending number; none where one fails, with what was done undone. -/
def State.admitPages (s : State) (p low n index : Nat) (sl : Slot) : List Nat → State × Option Slot
  | [] => (s, some sl)
  | g :: gs =>
    match s.admitPage p low n sl index g with
    | (s', some sl') => s'.admitPages p low n index sl' gs
    | (s', none) => (s'.restoreSlot sl, none)

/-- Admit one slot (09 R214 steps 1 to 4 and 6): the slot as admitted, or the status that refuses it, with the state as
it was but for evictions. -/
def State.admitSlot (s : State) (p : Nat) (r : Run) (img : Image) (sl : Slot) : State × Except Nat Slot :=
  match s.seq? sl.seq, s.ptn? p with
  | some x, some pt =>
    let log := s.bindingLog r sl
    match s.slotRefuses pt.low r img sl x log with
    | some st => (s, .error st)
    | none =>
      let l := log.getD []
      let old := (List.range l.length).map fun i => s.logEntry x (x.c + i)
      let sl := { sl with done := true, cPrev := x.c, oldLog := old, oldShape := (x.shapeId, x.mixed, x.written),
                          droppedAt := (x.pages.filter (·.dropped)).map (·.no) }
      match s.admitPages p pt.low pt.n x.index sl (sl.touched x img) with
      | (s', none) => (s', .error stQuota)
      | (s', some sl) =>
        match s'.seq? sl.seq with
        | none => (s', .error stNoObject)
        | some y =>
          let s' := (s'.putLogs y sl.cPrev l).putGlob y.index
          let shape := BitVec.ofNat 32 img.shapeId.toNat
          let s' := s'.modSeq y.index fun z =>
            { z with c := sl.cPrev + sl.nNew, d := sl.drafts, mixed := z.mixed || (z.written && z.shapeId != shape),
                     shapeId := shape, written := true }
          if sl.recompute then
            let mine := fun (ch : Chunk) => ch.seq == sl.seq && ch.t0 == sl.t0 && ch.m ≤ sl.m
            let queue := ((s'.ptn? p).map (·.recompute)).getD []
            let behind := if queue.any mine then some ((queue.dropWhile fun ch => !mine ch).drop 1) else none
            (s'.modPtn p fun z => { z with recompute := z.recompute.filter fun ch => !mine ch }, .ok { sl with behind := behind })
          else (s', .ok sl)
  | _, _ => (s, .error stNoObject)

/-- Put the chunk of a slot back into the queue in its former order (10 R246). -/
def State.requeueSlot (s : State) (sl : Slot) : State :=
  match sl.behind, s.seq? sl.seq with
  | some behind, some x => s.putChunk (ptnOf x.ctx) ⟨sl.seq, sl.t0, sl.m⟩ behind
  | _, _ => s

/-- Undo the admission of slots, the last first. -/
def State.restoreSlots (s : State) (slots : List Slot) : State :=
  slots.reverse.foldl (fun st sl => (st.restoreSlot sl).requeueSlot sl) s

/-! ### Admission of a run -/

/-- Admit slots in ascending slot order: a refused slot that RECOMPUTE_FILL added goes alone, any other refuses the run
(09 R215, 10 R246). -/
def State.admitSlots (s : State) (p : Nat) (r : Run) (img : Image) (ok : List Slot) : List Slot → State × Except Nat (List Slot)
  | [] => (s, .ok ok)
  | sl :: rest =>
    match s.admitSlot p r img sl with
    | (s', .ok sl') => s'.admitSlots p r img (ok ++ [sl']) rest
    | (s', .error st) =>
      if sl.added then s'.admitSlots p r img ok rest else (s'.restoreSlots ok, .error st)

/-- The recompute chunks that fill a step's free chunk slots (10 R246): free slots descending, chunks of the context in
queue order, none of a bound sequence, none above the rows of the variant. -/
def State.fillSlots (s : State) (r : Run) (v : Variant) (bound : List (BitVec 32)) : List Nat → List Chunk → List Slot
  | [], _ => []
  | _, [] => []
  | no :: nos, ch :: chs =>
    let mine := (s.seq? ch.seq).any fun x => x.ctx == r.ctx
    if mine && !bound.contains ch.seq && ch.m ≤ v.rows then
      { no := no, seq := ch.seq, recompute := true, t0 := ch.t0, m := ch.m, added := true } ::
        s.fillSlots r v (ch.seq :: bound) nos chs
    else s.fillSlots r v bound (no :: nos) chs

/-- The slots of a run with the chunks that ride in it. -/
def State.slotsOf (s : State) (p : Nat) (r : Run) : List Slot :=
  if !r.isStep || r.args.noFill then r.slots
  else
    match (s.ptn? p).bind fun x => (x.stepSet? r.ctx r.args.image.toNat).bind fun t => (t.variants[r.variant]?).map fun v => (x, v) with
    | none => r.slots
    | some (x, v) =>
      let free := (List.range (v.k - r.args.q.toNat)).map fun i => 255 - r.args.q.toNat - i
      r.slots ++ s.fillSlots r v (r.slots.map (·.seq)) free x.recompute

/-- Admit a run (09 R214): the run with its slots and descriptors written, or the status that ends it. -/
def State.admitRun (s : State) (p : Nat) (r : Run) : State × Except Nat Run :=
  match s.image? r.ctx r.image with
  | none => (s, .error stNoObject)
  | some img =>
    let slots := Lists.sortBy (fun a b => decide (a.no ≤ b.no)) (s.slotsOf p r)
    match s.admitSlots p r img [] slots with
    | (s', .error st) => (s', .error st)
    | (s', .ok sls) =>
      (s'.settleHandles.describe p r.ctx img sls, .ok { r with admitted := true, slots := sls, added := (sls.filter (·.added)).length })

end Sys2Proof.Machine
end

