-- ==== Sys2Proof/Machine/Power.lean ====
section
/-! DEFINITION. Power (15): the division of the cap among partitions, the plan of a partition's next beat, phase entries,
device-integrity limits, the ageing re-plan, and PWR.CAP, PWR.MODE and PWR.QUERY. -/

namespace Sys2Proof.Machine

/-! ### Islands (15 Table PWR.5, 01 Table ORG.4) -/

/-- Whether an island's frequency moves. -/
def movingIsland (i : Nat) : Bool := i ≤ 133
/-- The top and bottom of an island's range and its step of R393, in 6.25 MHz units; a fixed island has its one point. -/
def islandTop (i : Nat) : Nat := if i ≤ 120 then 250 else if i ≤ 133 then 160 else (Config.tablePoint i 0).1
def islandBottom (i : Nat) : Nat := if i ≤ 120 then 150 else if i ≤ 133 then 96 else (Config.tablePoint i 0).1
def islandStep (i : Nat) : Nat := if i ≤ 120 then 5 else 4

/-- The frequency of point n of a moving island's table: sixteen in ascending order within the island's range (15 R392).
Which ones they are is a free value. -/
def pointFrequency (i : Nat) : Nat → Nat
  | 0 => max (islandBottom i) (min (islandTop i - 15) (Config.tablePoint i 0).1)
  | n + 1 => max (pointFrequency i n + 1) (min (islandTop i - 15 + (n + 1)) (Config.tablePoint i (n + 1)).1)

/-- Point n of an island's fused table: frequency in 6.25 MHz units and voltage in 2.5 mV steps (15 R391, R392). -/
def islandPoint (i n : Nat) : Nat × Nat :=
  (if movingIsland i then pointFrequency i n else (Config.tablePoint i 0).1, (Config.tablePoint i n).2)

/-- The age of an island; one never re-planned has its range's top and no offset. -/
def State.age (s : State) (i : Nat) : IslandAge := Table.get { fMax := islandTop i } s.pwr.ages i

/-- The clock of an island that has no partition frequency (01 R28, R29): nominal 1,250 MHz for the die interconnect, 800
MHz for a sequencer, the warden, a keeper, the linker and the store core. -/
def State.clock (s : State) (i : Nat) : IslandClock :=
  let nominal := if i = 120 then 200 else 128
  Table.get ⟨nominal, nominal, 0⟩ s.pwr.clocks i

/-- The frequency that an island runs at: until a change has settled, which takes the microsecond in which it is made, the
lower of the old and the new one (01 R29). -/
def IslandClock.runs (x : IslandClock) (now : Nat) : Nat := if now ≤ x.since then min x.before x.set else x.set

/-- The frequency of the die interconnect. -/
def State.dieFrequency (s : State) : Nat := (s.clock 120).runs s.now

/-- f_min of a partition's open beat (05 R121): the lower of the partition frequency before and after the boundary that
opened it, and for more than one cluster the lowest that the die interconnect ran at in the beat. -/
def Partition.fMin (x : Partition) : Nat :=
  let f := if x.power.fBefore = 0 then x.power.fNow else min x.power.fBefore x.power.fNow
  let f := if f = 0 then 150 else f
  if x.n = 1 then f else min f x.power.dieMin

/-- What the die interconnect is asked to run at (log entry 26): its nominal frequency, or what a partition of more than
one cluster runs at, or guarantees, above it (10 R260). -/
def State.dieDemand (s : State) : Nat :=
  s.ptnNos.foldl (fun m p =>
    match s.ptn? p with
    | some x => if x.n = 1 || x.status == .outOfService then m
        else max m (max x.power.fNow (if x.live.guarded then x.live.fG else 0))
    | none => m) 200

/-- What the barometer sets an island that has no partition frequency to (log entry 26): the lowest of its nominal
frequency, the device ceiling and its f_max; the die interconnect as high as partitions ask, and never below the f_min of
a partition with an open beat (05 R121). -/
def State.clockTarget (s : State) (i : Nat) : Nat :=
  let want := min (if i = 120 then s.dieDemand else 128) (min s.pwr.ceiling (s.age i).fMax)
  if i != 120 then want
  else
    let floor := s.ptnNos.foldl (fun m p =>
      match s.ptn? p with
      | some x => if x.beat.closed || x.status == .outOfService then m else max m x.fMin
      | none => m) 0
    max want (min floor (s.clock 120).set)

/-- The barometer sets the clocks of some islands. While the warden restarts they are held, but for a limit (16 Table
FLT.6). -/
def State.setIslands (s : State) (is : List Nat) : State :=
  let set := fun (cs : Table IslandClock) (i : Nat) =>
    let x := s.clock i
    let to_ := if s.restarting wardenIsland then min x.set (s.clockTarget i) else s.clockTarget i
    if x.set = to_ then cs else Table.set cs i ⟨x.runs s.now, to_, s.now⟩
  { s with pwr := { s.pwr with clocks := is.foldl set s.pwr.clocks } }

/-- The barometer sets the islands outside every partition (01 R29); an open beat keeps the lowest frequency that the die
interconnect had in it. -/
def State.setClocks (s : State) : State :=
  let s := s.setIslands [120, 129, 130, 131, 132, 133]
  s.ptnNos.foldl (fun st p => st.modPtn p fun x =>
    { x with power := { x.power with dieMin := min x.power.dieMin s.dieFrequency } }) s

/-- The islands of a partition's tiles and cluster crossbars. -/
def Partition.islands (x : Partition) : List Nat :=
  (List.range x.n).flatMap fun k =>
    let c := x.low + k
    (List.range 8).map (fun t => 8 * c + t) ++ (List.range 6).map (fun t => 64 + 6 * c + t) ++ [112 + c]

/-- The islands of a partition's sequencers. -/
def Partition.sequencers (x : Partition) : List Nat := (List.range x.n).map fun k => sequencerIsland (x.low + k)

/-- The voltage of an island's table at a frequency, in 2.5 mV steps (15 R392): linear between the points around it,
rounded up. -/
def tableVoltage (i f : Nat) : Nat :=
  let pts := (List.range (if movingIsland i then 16 else 1)).map (islandPoint i)
  match (pts.filter fun p => p.1 ≤ f).getLast?, pts.find? fun p => f ≤ p.1 with
  | some a, some b => if b.1 ≤ a.1 then a.2 else a.2 + Bits.ceilDiv ((b.2 - a.2) * (f - a.1)) (b.1 - a.1)
  | some a, none => a.2
  | none, some b => b.2
  | none, none => 0

/-- The voltage of an island at a frequency (15 R392): its table's with the ageing offset added, at most the ceiling. -/
def State.voltageAt (s : State) (i f : Nat) : Nat := min (Config.voltageCeiling i) (tableVoltage i f + (s.age i).offset)

/-- The frequency that an island is set to: its own clock, its partition's frequency, or its one point; an island of an
unowned cluster stands at the bottom of its range (log entry 26). -/
def State.setFrequency (s : State) (i : Nat) : Nat :=
  if 120 ≤ i ∧ i ≤ 133 then (s.clock i).set
  else if 134 ≤ i then islandTop i
  else
    let c := if i < 64 then i / 8 else if i < 112 then (i - 64) / 6 else i - 112
    match (s.ptnOfCluster c).bind s.ptn? with
    | some x => max x.power.fNow 150
    | none => 150

/-- The voltage of an island (15 R392): that of the frequency it is set to. A raise of the frequency or of the offset
raises it at once, and it falls with the frequency change that permits it; while the generator settles the island already
has the voltage of the higher of the two frequencies. -/
def State.voltage (s : State) (i : Nat) : Nat :=
  let x := s.clock i
  if 120 ≤ i ∧ i ≤ 133 ∧ s.now ≤ x.since then s.voltageAt i (max x.before x.set) else s.voltageAt i (s.setFrequency i)

/-! ### Classes and demands (10 R256, 15 R381) -/

/-- Whether a partition takes part in the division of power. -/
def Partition.powered (x : Partition) : Bool := x.status != .outOfService

/-- Whether a condition other than the grant itself holds a partition (10 R264): the shed directive, an input or thermal
limit, a wave hold or its group. -/
def Partition.heldElse (x : Partition) : Bool := x.holds.shed || x.holds.wave || x.holds.group || x.holds.input

/-- Whether a partition is held (10 R264). -/
def Partition.held (x : Partition) : Bool := x.heldElse || x.holds.grant

/-- The grant of a partition above its base share, in mW. -/
def Partition.grantMw (x : Partition) : Nat := if x.live.cls = 0 then 0 else x.live.grantW * 1000
/-- The base share in mW (15 R380). -/
def Partition.baseMw (x : Partition) : Nat := 7500 * x.n

/-- The phase entry that a partition's next beat uses (15 R385, R386): its values, full current for a new phase, none for
an idle beat. -/
def State.planValues (s : State) (x : Partition) (next : Option (Run × Nat)) : List Nat :=
  match next with
  | none => []
  | some (r, beat) =>
    let phase := ((s.image? r.ctx r.image).map fun i => i.phaseAt beat).getD 0
    match x.power.entries.find? fun e => e.image == (r.ctx, r.image) && e.phase == phase with
    | some e => e.values
    | none => (List.range x.n).flatMap fun k => [Config.fullCurrent (x.low + k), 65536]

/-- The barometer's predicted power of a partition's next beat at a frequency: from the phase entry and each island's
voltage at that frequency (15 R386). -/
def State.predicted (s : State) (x : Partition) (next : Option (Run × Nat)) (f : Nat) : Nat :=
  Config.predictedPower x.n (s.planValues x next ++ x.islands.map fun i => s.voltageAt i f) f

/-- The highest frequency that the limits and f_max allow a partition (15 R386). -/
def State.limitFrequency (s : State) (x : Partition) : Nat :=
  max 150 (x.islands.foldl (fun m i => min m (s.age i).fMax) s.pwr.ceiling)

/-- The highest f_min that the limits and f_max leave a partition (05 R121): that frequency, and for more than one cluster
the f_max of the die interconnect. -/
def State.limitMin (s : State) (x : Partition) : Nat :=
  if x.n = 1 then s.limitFrequency x else min (s.limitFrequency x) (s.age 120).fMax

/-- The highest frequency that a partition may use, before its share is looked at: an idle beat's is the lowest (15
R384). -/
def State.topFrequency (s : State) (x : Partition) (next : Option (Run × Nat)) : Nat :=
  if next.isNone then 150 else s.limitFrequency x

/-- A partition's demand above its base share in mW. -/
def State.demandMw (s : State) (x : Partition) (next : Option (Run × Nat)) : Nat :=
  s.predicted x next (s.topFrequency x next) - x.baseMw

/-- The run and beat that a partition is about to open, as far as the open beat shows it. -/
def Partition.nextBeat (x : Partition) : Option (Run × Nat) :=
  match x.run with
  | some r => if r.admitted then some (r, if r.released then r.beat + 1 else 0) else none
  | none => none

/-! ### Dividing the cap (10 R262, R263, 15 R380 to R382) -/

/-- The available power in mW. -/
def State.availableMw (s : State) : Nat := (s.capInForce - 60) * 1000
/-- Whether the cap in force lies below the floor cap (10 R263). -/
def State.belowFloor (s : State) : Bool := s.capInForce < s.live.floor

/-- The partitions that share power. -/
def State.sharers (s : State) : List (Nat × Partition) :=
  s.ptnNos.filterMap fun p => (s.ptn? p).bind fun x => if x.powered then some (p, x) else none

/-- Share out watts among claimants with a weight and a most that each may take: in proportion to the weights, and what
the most of one does not let it take goes to the others (15 R381 steps 2 and 3). -/
def shareOut : Nat → Nat → List (Nat × Nat × Nat) → List (Nat × Nat)
  | 0, _, _ => []
  | fuel + 1, left, xs =>
    let total := xs.foldl (fun n (_, w, _) => n + w) 0
    let (full, rest) := xs.partition fun (_, w, most) => most * total ≤ left * w
    if full.isEmpty then rest.map fun (k, w, _) => (k, left * w / total)
    else full.map (fun (k, _, most) => (k, most)) ++ shareOut fuel (left - full.foldl (fun n (_, _, m) => n + m) 0) rest

/-- Divide what is left among outstanding amounts, in proportion and none above its own. -/
def proportion (left total out : Nat) : Nat := if total ≤ left then out else left * out / total

/-- What the cap in force gives a partition as its grant (10 R262, R263): below the floor cap a Guarded one receives
grant_w x (cap - 60) / W_G, and no other one receives any. -/
def State.grantedMw (s : State) (x : Partition) : Nat :=
  let wG := s.sharers.foldl (fun n y => if y.2.live.guarded then n + y.2.grantMw else n) 0
  let wA := s.sharers.foldl (fun n y => if y.2.live.assured then n + y.2.grantMw else n) 0
  let left := s.availableMw
  if x.live.guarded then (if s.belowFloor then x.grantMw * left / wG else proportion left wG x.grantMw)
  else if x.live.assured && !s.belowFloor then proportion (left - wG) wA x.grantMw
  else 0

/-- What is left once every grant is met in fixed-grant mode, whatever each partition's load (15 R382). -/
def State.afterGrants (s : State) : Nat := s.availableMw - s.sharers.foldl (fun n y => n + s.grantedMw y.2) 0

/-- The demand of a partition at its next beat: none while something beside the division at hand holds it. -/
def State.wants (s : State) (x : Partition) (next : Option (Run × Nat)) (self : Bool) : Nat :=
  if x.heldElse || (s.belowFloor && !x.live.guarded) || (!self && x.holds.grant) then 0 else s.demandMw x next

/-- A partition's share in barometer mode (15 R381): its grant as far as its demand goes, then its part of what every
partition's grant leaves, in proportion to the demands of the partitions that are not held, none above its own; watts that
a higher class leaves unused go to the others (10 R261). -/
def State.barometerShare (s : State) (x : Partition) (next : Option (Run × Nat)) : Nat :=
  let want := fun (y : Partition) => if y.low = x.low then s.wants y next true else s.wants y y.nextBeat false
  let met := fun (y : Partition) => min (s.grantedMw y) (want y)
  let left := s.availableMw - s.sharers.foldl (fun n y => n + met y.2) 0
  let parts := shareOut 8 left (s.sharers.map fun (p, y) => (p, want y, want y - met y))
  let mine := (s.sharers.find? fun y => y.2.low == x.low).bind fun y => (parts.find? fun z => z.1 == y.1).map (·.2)
  x.baseMw + met x + mine.getD 0

/-- What a class's partitions still lack of their targets in fixed-grant mode. -/
def State.lacking (s : State) (cls : Nat) : Nat :=
  s.sharers.foldl (fun n y => if y.2.live.cls = cls then n + (y.2.live.fixedW * 1000 - s.grantedMw y.2) else n) 0

/-- A partition's share in fixed-grant mode (15 R382): its target, or grants and a top-up in the order Guarded, Assured,
Ordinary. -/
def State.fixedShare (s : State) (x : Partition) : Nat :=
  let targets := s.sharers.foldl (fun n y => n + y.2.live.fixedW * 1000) 0
  if targets ≤ s.availableMw then x.baseMw + x.live.fixedW * 1000
  else
    let g := s.grantedMw x
    let mine := x.live.fixedW * 1000 - g
    let left := match x.live.cls with
      | 2 => s.afterGrants
      | 1 => s.afterGrants - s.lacking 2
      | _ => s.afterGrants - s.lacking 2 - s.lacking 1
    x.baseMw + g + proportion left (s.lacking x.live.cls) mine

/-- The share of a partition for its next beat, in mW. -/
def State.shareFor (s : State) (x : Partition) (next : Option (Run × Nat)) : Nat :=
  if !x.powered then x.baseMw
  else if s.live.fixedMode then s.fixedShare x else s.barometerShare x next

/-! ### Guarantees (10 R262 to R266) -/

/-- An event of a partition's guarantee: to the management context, and to g_ctx of a Guarded partition (10 R266). -/
def State.guaranteeEvent (s : State) (p code a0 slot late : Nat) : State :=
  match s.ptn? p with
  | none => s
  | some x =>
    let s := s.event (.ctx (mgmt p)) code a0 slot late
    if x.live.guarded && x.live.gCtx != 0 then s.event (.ctx (BitVec.ofNat 11 (p * 256 + x.live.gCtx))) code a0 slot late
    else s

/-- EV_GUARANTEE_BREACH; out of service, a Guarded partition raises none (16 R414). -/
def State.breach (s : State) (p reason late : Nat) (slot : Option Nat := none) : State :=
  match s.ptn? p with
  | none => s
  | some x =>
    if x.status == .outOfService then s
    else
      let s := s.modPtn p fun y => { y with breaches := BitVec.ofNat 16 (Bits.satAdd 16 y.breaches.toNat 1) }
      s.guaranteeEvent p 0x0050 reason (if x.live.guarded then slot.getD (x.slotNo - 1) else 0) late

/-- EV_GUARANTEE_RESTORED. -/
def State.restored (s : State) (p : Nat) : State :=
  match s.ptn? p with
  | none => s
  | some x => s.guaranteeEvent p 0x0051 0 (if x.live.guarded then x.slotNo - 1 else 0) 0

/-- Set or clear degraded as what the cap gives a partition falls below its grant or regains it, a Guarded one also while
the cap lies below the floor cap (10 R262, R263, R266). -/
def State.setDegraded (s : State) (p : Nat) (x : Partition) : State :=
  let short := x.live.cls != 0 && (s.grantedMw x < x.grantMw || (x.live.guarded && s.belowFloor))
  if short && !x.degraded then
    (s.modPtn p fun y => { y with degraded := true }).breach p (if x.live.guarded then 1 else 2) 0
  else if !short && x.degraded then (s.modPtn p fun y => { y with degraded := false }).restored p
  else s

/-- The reason of a late reserved step (10 Table SRV.8): the cap, a limit or an f_max below f_g, a fault, else the step's
own length. -/
def State.lateReason (s : State) (x : Partition) (r : Run) : Nat :=
  if s.belowFloor then 1
  else if s.pwr.acting != 0 || s.limitMin x < x.live.fG then 4
  else if r.faulted then 5 else 7

/-- A reserved step that ends more than T after its slot fell due is a breach. -/
def State.checkReserved (s : State) (p : Nat) (r : Run) : State :=
  match r.reserved, s.ptn? p with
  | some (k, due), some x =>
    if due + x.live.periodUs < s.now then s.breach p (s.lateReason x r) (s.now - due - x.live.periodUs) (some k) else s
  | _, _ => s

/-- Runs of a context that a reset or the end of its context ends: their reserved steps may be late. -/
def State.checkEnded (s : State) (c : CtxNo) : State :=
  match s.ptn? (ptnOf c) with
  | none => s
  | some x =>
    ((x.run.toList ++ x.queue).filter fun r => r.ctx == c).foldl (fun st r => st.checkReserved (ptnOf c) { r with faulted := true }) s

/-! ### Planning a beat (15 R383, R384, R386) -/

/-- Whether a Guarded partition's clocks are kept for reserved steps (10 R260): the cap in force is at or above the floor
cap and no level-1 demand acts. -/
def State.keepsFg (s : State) (x : Partition) : Bool := x.live.guarded && !s.belowFloor && s.pwr.acting == 0

/-- When slot k of a Guarded partition falls due, in us. -/
def Partition.slotTime (x : Partition) (k : Nat) : Nat := x.slotBase + k * x.live.periodUs

/-- Whether a Guarded partition has a reserved step whose slot has fallen due or falls due at this boundary, in its queue
or in progress. -/
def State.reservedDue (s : State) (x : Partition) : Bool :=
  x.live.guarded && (x.run.any (·.reserved.isSome) || x.queue.any fun r => r.reserved.isSome ||
    (x.reserves r.ctx r.isStep && x.slotTime x.slotNo ≤ s.now))

/-- The frequency below which the next beat of a partition may not fall: f_g for a reserved step (10 R260), also in the
beats in which it is admitted, so that its first beat does not count at a lower old frequency (05 R121, log entry 143). -/
def State.leastFrequency (s : State) (x : Partition) : Nat :=
  if s.keepsFg x && s.reservedDue x then min x.live.fG (s.limitFrequency x) else 150

/-- The partition frequency of the next beat: the highest step whose predicted power the share covers, at least the
lowest clock; R379 takes steps off. -/
def State.planFrequency (s : State) (x : Partition) (next : Option (Run × Nat)) (share : Nat) : Nat :=
  let top := s.topFrequency x next
  let ok := (List.range (top - 150 + 1)).filter fun k => s.predicted x next (150 + k) ≤ share
  max (s.leastFrequency x) (150 + (ok.getLast?.getD 0) - x.power.lower)

/-- Whether a partition's share cannot carry its next beat, or the cap below the floor holds it (10 R262, R263, 15
R383). -/
def State.starved (s : State) (x : Partition) (next : Option (Run × Nat)) (share : Nat) : Bool :=
  share < s.predicted x next 150 || (s.belowFloor && !x.live.guarded)

/-- Divide the cap at a partition's boundary: its share, whether it is held for want of power, and its guarantee. -/
def State.divideAt (s : State) (p : Nat) (next : Option (Run × Nat)) : State :=
  match s.ptn? p with
  | none => s
  | some x =>
    let share := s.shareFor x next
    let s := s.modPtn p fun y =>
      { y with power := { y.power with shareMw := share }, holds := { y.holds with grant := s.starved x next share } }
    s.setDegraded p x

/-- Update the entry of the phase of the beat that closes (15 R385): averages weighted 1/8 toward the newest beat. -/
def State.updatePhase (s : State) (p : Nat) (r : Run) : State :=
  match s.ptn? p, s.image? r.ctx r.image with
  | some x, some img =>
    let key := (r.ctx, r.image)
    let phase := img.phaseAt r.beat
    let old := (x.power.entries.find? fun e => e.image == key && e.phase == phase).map (·.values)
    let start := (List.range x.n).flatMap fun k => [Config.fullCurrent (x.low + k), 65536]
    let newest := (List.range (2 * x.n)).map fun i => Config.measuredCurrent (s.free + i)
    let values := ((old.getD start).zip newest).map fun (o, v) => (7 * o + v) / 8
    let rest := x.power.entries.filter fun e => !(e.image == key && e.phase == phase)
    let rest := rest.drop (rest.length - 4095)
    let s := { s with free := s.free + 2 * x.n }
    s.modPtn p fun y => { y with power := { y.power with entries := rest ++ [⟨key, phase, values⟩], phase := phase } }
  | _, _ => s

/-! ### Estimates (15 R379) -/

/-- POWER_ESTIMATE: a partition whose last ten estimates average more than its share plus 2 % gives up a step at its next
boundary; one that fits takes it back. The warden makes no estimate while it restarts (16 Table FLT.6). -/
def powerEstimateEffect (p : Fin 8) (mw : Nat) (s : State) : State :=
  if s.restarting wardenIsland then s else
  s.modPtn p.val fun x =>
    let es := Lists.lastN 10 (x.power.estimates ++ [mw])
    { x with power := { x.power with estimates := es } }

def execPowerEstimate (p : Fin 8) (mw : Nat) (s : State) : Result := .next (powerEstimateEffect p mw s)

/-- The steps of R379 at a boundary: one more while the average of a full 100 us exceeds the share plus 2 %. -/
def PtnPower.lowered (w : PtnPower) : Nat :=
  let above := w.estimates.length == 10 && (w.estimates.foldl (· + ·) 0) * 100 > 10 * w.shareMw * 102
  if above then w.lower + 1 else 0

/-! ### Device-integrity limits (15 R390, 10 R266) -/

/-- A temperature in degrees. -/
def celsius (b : BitVec 8) : Int := Bits.signed 8 b.toNat

/-- The hottest stack's reading and number. -/
def Power.hottest (w : Power) : Int × Nat :=
  (List.range 6).foldl (fun m i =>
    match w.stackTemps[i]? with
    | some t => if celsius t > m.1 then (celsius t, i) else m
    | none => m) (celsius w.stackTemps[0], 0)

/-- Whether a limit acts (rows 0 to 4 of 15 Table PWR.4). -/
def Power.acts (w : Power) (row : Nat) : Bool := w.acting.getLsbD row

/-- The frequency that an Assured partition's grant would carry (10 R266). -/
def State.grantFrequency (s : State) (x : Partition) : Nat :=
  150 + (((List.range 101).filter fun k => s.predicted x x.nextBeat (150 + k) ≤ x.baseMw + x.grantMw).getLast?.getD 0)

/-- Whether an integrity limit takes from a partition what its class grants (10 R266, 15 R393). -/
def State.limitsHit (s : State) (x : Partition) : Bool :=
  let top := s.limitMin x
  if x.live.guarded then top < x.live.fG
  else x.live.assured && s.pwr.acting != 0 && (x.holds.input || top < s.grantFrequency x)

/-- Report reason 4 where a limit begins to take from a guaranteed partition, and the restoration when it ends. -/
def State.guardLimits (s : State) : State :=
  s.ptnNos.foldl (fun st p =>
    match st.ptn? p with
    | none => st
    | some x =>
      let hit := st.limitsHit x
      if hit == x.power.limited then st
      else
        let st := st.modPtn p fun y => { y with power := { y.power with limited := hit } }
        if hit then st.breach p 4 0 else if x.degraded then st else st.restored p) s

/-- Whether the shed directive is in force (18 R459): by its pin or by message. -/
def State.shedInForce (s : State) : Bool := s.field.shedPin || s.field.shedMsg

/-- The holds that device-wide conditions set on a partition that is not Guarded: the shed directive (10 R265) and rows 1
and 3 of the limits (15 R390). An Assured partition learns of a shed by reason 3, and of its end. -/
def State.refreshHolds (s : State) : State :=
  let input := s.pwr.acting.getLsbD 1 || s.pwr.acting.getLsbD 3
  s.ptnNos.foldl (fun st p =>
    match st.ptn? p with
    | none => st
    | some x =>
      let shed := st.shedInForce && !x.live.guarded
      let st := st.modPtn p fun y => { y with holds := { y.holds with shed := shed, input := input && !y.live.guarded } }
      if shed && !x.holds.shed && x.live.assured then st.breach p 3 0
      else if !shed && x.holds.shed && x.live.assured && !x.degraded && !x.power.limited then st.restored p
      else st) s

/-- Change the limits acting and the ceiling: EV_THROTTLE and the fault item, the hold of partitions that are not Guarded,
and the guarantees (15 R390, R396). -/
def State.setLimits (s : State) (acting : BitVec 5) (ceiling : Nat) : State :=
  if !s.wardenRuns then s else
  let changed := acting != s.pwr.acting
  let s := ({ s with pwr := { s.pwr with acting := acting, ceiling := max 150 (min 250 ceiling) } } : State).setClocks
  let s := s.refreshHolds
  let die := Bits.ofInt 64 (celsius s.pwr.die)
  let s := if changed then
      let s := (s.eventHosts 0x0080 acting.toNat die s.pwr.ceiling).eventMgmts 0x0080 acting.toNat die s.pwr.ceiling
      s.report 0x05 acting.toNat die s.pwr.ceiling
    else s
  s.guardLimits

/-- Set or clear a row of the limits. -/
def withRow (a : BitVec 5) (row : Nat) (on : Bool) : BitVec 5 :=
  if on then a ||| (1#5 <<< row) else a &&& ~~~(1#5 <<< row)

/-- TEMP_READOUT: the readings, the refresh rate of each stack (08 R186), rows 0 and 1, and the release of a thermal
trip, which a die at or below 90 degrees allows (row 2). While the warden restarts the device ceiling is held (16 Table
FLT.6). -/
def tempReadoutEffect (die : BitVec 8) (temps : Vector (BitVec 8) 6) (s : State) : State :=
  let doubled := Vector.ofFn fun i : Fin 6 =>
    if celsius temps[i] > 85 then true else if celsius temps[i] ≤ 82 then false else s.memc.doubled[i]
  let s := { s with pwr := { s.pwr with die := die, stackTemps := temps }, memc := { s.memc with doubled := doubled } }
  let d := celsius die
  let s := { s with field := { s.field with tripped := s.field.tripped && 90 < d } }
  let hot := s.pwr.hottest.1
  let row0 := if d ≥ 105 || hot ≥ 95 then true else if d ≤ 100 && hot ≤ 90 then false else s.pwr.acts 0
  let row1 := if d ≥ 112 then true else if d ≤ 105 then false else s.pwr.acts 1
  if s.restarting wardenIsland then s
  else s.setLimits (withRow (withRow s.pwr.acting 0 row0) 1 row1) (if d ≥ 112 then 150 else s.pwr.ceiling)

def execTempReadout (die : BitVec 8) (temps : Vector (BitVec 8) 6) (s : State) : Result := .next (tempReadoutEffect die temps s)

/-- CEILING_STEP: down 31.25 MHz while the temperature condition holds, and down 6.25 MHz while the rail limit acts (a
free value says when the current has stayed below 90 %, which releases it); up 31.25 MHz once every limit is released.
The ceiling is held while the warden restarts (16 Table FLT.6). -/
def ceilingStepEffect (s : State) : State :=
  if s.restarting wardenIsland then s else
  let hot := s.pwr.acts 0 && (celsius s.pwr.die ≥ 105 || s.pwr.hottest.1 ≥ 95)
  let cooler := if hot then s.pwr.ceiling - 5 else s.pwr.ceiling
  if s.pwr.acts 4 then
    let (v, s) := s.takeFree
    if v.getLsbD 0 then s.setLimits (withRow s.pwr.acting 4 false) cooler
    else s.setLimits s.pwr.acting (cooler - 1)
  else if hot then s.setLimits s.pwr.acting cooler
  else if s.pwr.acting &&& 0x1B#5 = 0 then s.setLimits s.pwr.acting (s.pwr.ceiling + 5)
  else s

def execCeilingStep (s : State) : Result := .next (ceilingStepEffect s)

/-- INPUT_UNDERVOLTAGE. -/
def inputUndervoltageEffect (s : State) : State := s.setLimits (withRow s.pwr.acting 3 true) 150

def execInputUndervoltage (s : State) : Result := .next (inputUndervoltageEffect s)

/-- INPUT_VOLTAGE_RESTORED: the limit ends, and CEILING_STEP raises the ceiling. -/
def inputVoltageRestoredEffect (s : State) : State := s.setLimits (withRow s.pwr.acting 3 false) s.pwr.ceiling

def execInputVoltageRestored (s : State) : Result := .next (inputVoltageRestoredEffect s)

/-- RAIL_OVERCURRENT: the limit begins with its first step. -/
def railOvercurrentEffect (s : State) : State :=
  if s.restarting wardenIsland then s else s.setLimits (withRow s.pwr.acting 4 true) (s.pwr.ceiling - 1)

def execRailOvercurrent (s : State) : Result := .next (railOvercurrentEffect s)

/-! ### Ageing (15 R393, R394) -/

/-- The forecast in hours: headroom at f_max over the rise of the last 1,024 re-plans, which come every 10 minutes. -/
def forecastHours (i : Nat) (a : IslandAge) : Nat :=
  let v := tableVoltage i a.fMax + a.offset
  let rise := a.offset - a.offsets.headD a.offset
  if Config.voltageCeiling i ≤ v then 0
  else if rise = 0 then 0xFFFFFFFF
  else min 0xFFFFFFFF ((Config.voltageCeiling i - v) * (a.offsets.length * 10) / (60 * rise))

/-- Send one EV_AGEING and its fault item. -/
def State.ageingEvent (s : State) (i : Nat) (a : IslandAge) (code : Nat) : State :=
  let a1 := packBits [(code, 0), (a.fMax % 256, 8), (a.offset % 256, 16)]
  (s.eventHosts 0x0081 i a1 a.forecast).report 0x06 i a1 a.forecast

/-- Time in Run or Lull so far, in us. -/
def State.activeTime (s : State) : Nat :=
  s.pwr.active + if s.power == .run || s.power == .lull then s.now - s.supplies.stateSince else 0

/-- Whether the re-plan comes to an island (15 R393): in Run or Lull, island 0 once 10 minutes of such time have passed
since the last round began, the others in turn. -/
def State.replans (s : State) (i : Nat) : Bool :=
  i != fieldIsland && !s.restarting wardenIsland && (s.power == .run || s.power == .lull) && i == s.pwr.replan &&
    (i != 0 || s.pwr.replanned + 600000000 ≤ s.activeTime)

/-- AGEING_REPLAN of one island from its four sentinels' margins. -/
def ageingReplanEffect (i : Fin 152) (margins : Vector (BitVec 16) 4) (s : State) : State :=
  if !s.replans i.val then s
  else
    let began := if i.val = 0 then s.activeTime else s.pwr.replanned
    let s := { s with pwr := { s.pwr with replan := (i.val + 1) % 151, replanned := began } }
    let a := s.age i.val
    let least := margins.toList.foldl (fun m x => if (Bits.signed 16 x.toNat) < (Bits.signed 16 m.toNat) then x else m) margins[0]
    let up := Config.restoreSteps i.val least
    let top := Config.voltageCeiling i.val
    let v := tableVoltage i.val a.fMax
    let past := up != 0 && top < v + a.offset + up
    let moves := past && movingIsland i.val && islandBottom i.val < a.fMax
    let b : IslandAge := { a with
      offset := if up = 0 then a.offset else if past then max a.offset (top - v) else a.offset + up
      fMax := if moves then max (islandBottom i.val) (a.fMax - islandStep i.val) else a.fMax
      offsets := Lists.lastN 1024 (a.offsets ++ [a.offset]) }
    let full := top ≤ tableVoltage i.val b.fMax + b.offset
    let spent := if movingIsland i.val then past && !moves else full
    let b := { b with forecast := forecastHours i.val b, atCeiling := full, exhausted := a.exhausted || spent }
    let b := { b with low := a.low || b.forecast < 8760 }
    let s := ({ s with pwr := { s.pwr with ages := Table.set s.pwr.ages i.val b } } : State).setClocks
    -- the store core records the islands after every re-plan (15 R394)
    let s := if i.val = 150 then s.record (.ages s.pwr.ages) else s
    let s := if b.low && !a.low then s.ageingEvent i.val b 1 else s
    let s := if (full || past) && !a.atCeiling then s.ageingEvent i.val b 2 else s
    let s := if moves then s.ageingEvent i.val b 3 else s
    let s := if b.exhausted && !a.exhausted then s.ageingEvent i.val b 4 else s
    s.guardLimits

def execAgeingReplan (i : Fin 152) (margins : Vector (BitVec 16) 4) (s : State) : Result :=
  .next (ageingReplanEffect i margins s)

/-! ### PWR commands (15 R395) -/

/-- EV_CAP where the cap in force has changed: who changed it, 1 host, 2 field, 3 field with the emergency flag. -/
def State.capChanged (old : Nat) (who : Nat) (s : State) : State :=
  if s.capInForce = old then s
  else (s.eventHosts 0x0082 s.capInForce who s.fieldCap).eventMgmts 0x0082 s.capInForce who s.fieldCap

/-- A device-scope commit of some registers, with EV_CAP where it moves the cap. -/
def State.commitDevice (s : State) (regs : List DReg) : State × Nat × Nat :=
  let (t, r) := s.commitDev regs
  (State.capChanged s.capInForce 1 t, r)

/-- PWR.CAP stages and commits PWR_CAP (15 R378). -/
def pwrCapBody (host floor : BitVec 10) (s : State) (_ : Req) : Ran :=
  let s := s.stageDev .pwrCap (BitVec.ofNat 64 host.toNat) 0x3FF
  let s := if floor = 0 then s else s.stageDev .pwrCap (BitVec.ofNat 64 (floor.toNat * 65536)) 0x3FF0000
  match s.commitDevice [.pwrCap] with
  | (t, st, fieldNo) => .done t st fieldNo 0

def execPwrCap (q : Req) (host floor : BitVec 10) (s : State) : Result := .next (runCommand (.pwrCap q host floor) s (pwrCapBody host floor))

/-- Empty a partition's phase entries. -/
def State.clearPhases (s : State) (p : Nat) : State := s.modPtn p fun x => { x with power := { x.power with entries := [] } }

/-- Whether a ring reaches partition p by number: the host ring of the port that owns it, or its own (14 R352). -/
def State.reachesPtn (s : State) (r : Ring) (p : Nat) : Bool :=
  (s.ptn? p).isSome && match r with
    | .host h => s.owner p == some h
    | .ctx c => ptnOf c == p

/-- PWR.MODE stages and commits PWR_CFG, and empties the phase entries of a partition that the port owns (15 R395, 14
R352). -/
def pwrModeBody (mode drizzle clear : Bool) (p : BitVec 3) (s : State) (q : Req) : Ran :=
  if clear && !s.reachesPtn q.ring p.toNat then .status s stNoObject
  else
    let s := s.stageDev .pwrCfg (BitVec.ofNat 64 (Bits.ofBool mode + 2 * Bits.ofBool drizzle)) 3
    match s.commitDevice [.pwrCfg] with
    | (t, st, fieldNo) => .done (if clear && st == stOk then t.clearPhases p.toNat else t) st fieldNo 0

def execPwrMode (q : Req) (mode drizzle clear : Bool) (p : BitVec 3) (s : State) : Result :=
  .next (runCommand (.pwrMode q mode drizzle clear p) s (pwrModeBody mode drizzle clear p))

/-- The code of a power state (15 Table PWR.1); Off has none that software reads. -/
def PowerState.code : PowerState → Nat
  | .run => 0 | .lull => 1 | .calm => 2 | .still => 3 | .frost => 4 | .off => 5

/-- PWR_STAT (15 Table PWR.10); the input power is a free value. -/
def State.pwrStat (s : State) : Nat :=
  packBits [(s.power.code, 0), (s.capInForce, 3), (s.fieldCap, 13), (Bits.ofBool s.fieldEmerg, 23),
    ((Config.inputWatts s.now).toNat, 24), (s.pwr.acting.toNat, 34), (s.pwr.ceiling, 39)]

/-- PWR_PTN_STAT_p (15 Table PWR.13). -/
def State.pwrPtnStat (x : Partition) : Nat :=
  packBits [(x.power.shareMw / 1000 % 1024, 0), (x.power.fSet % 256, 10), (Bits.ofBool (x.holds.grant || x.holds.shed || x.holds.input), 18),
    (Bits.ofBool x.power.belowFg, 19), (x.power.phase % 4096, 20), (x.power.entries.length, 32)]

/-- PWR.QUERY; a host names only a partition that it owns (14 R352). -/
def pwrQueryBody (kind : BitVec 2) (p : BitVec 3) (island : BitVec 8) (point : BitVec 4) (s : State) (q : Req) : Ran :=
  let i := island.toNat
  let onHost := (ctxOf q.ring).isNone
  match kind.toNat with
  | 0 => .done s stOk s.pwrStat 0
  | 1 =>
    let n := match q.ring with
      | .ctx c => some (ptnOf c)
      | .host h => if s.owner p.toNat = some h then some p.toNat else none
    match n.bind s.ptn? with
    | some x => .done s stOk (State.pwrPtnStat x) 0
    | none => .status s stNoObject
  | 2 =>
    let a := s.age i
    if !onHost then .status s stDenied
    else if 150 < i then .status s stBadField
    else .done s stOk (packBits [(a.offset % 256, 0), (a.fMax % 256, 8), (Bits.ofBool a.exhausted, 16)]) a.forecast
  | _ =>
    if !onHost then .status s stDenied
    else if 150 < i || (!movingIsland i && point != 0) then .status s stBadField
    else
      let pt := islandPoint i point.toNat
      .done s stOk (packBits [(pt.1 % 256, 0), (pt.2 % 65536, 16)]) (Config.voltageCeiling i % 65536)

def execPwrQuery (q : Req) (kind : BitVec 2) (p : BitVec 3) (island : BitVec 8) (point : BitVec 4) (s : State) : Result :=
  .next (runCommand (.pwrQuery q kind p island point) s (pwrQueryBody kind p island point))

end Sys2Proof.Machine
end

