-- ==== Sys2Proof/Machine/Weights.lean ====
section
/-! DEFINITION. Weights (11): manifests, sessions, loads, the swap wave and its rollback, and the WGT commands that do not
write the library. -/

namespace Sys2Proof.Machine

/-! ### Manifests (11 R269 to R271) -/

/-- Read a shard entry of the manifest (11 Table WGT.2); none where a field breaks the table. -/
def readShardEntry (layers clusters e : Nat) : Option Shard :=
  let len := Bits.range e 85 64
  let ok := Bits.range e 7 0 < layers && Bits.range e 10 8 < clusters && Bits.range e 31 11 == 0 && Bits.range e 255 86 == 0 &&
    64 ≤ len && len ≤ shardTile && len % 64 == 0
  if ok then
    some ⟨Bits.range e 7 0, Bits.range e 10 8, Bits.range e 63 32, len, BitVec.ofNat 256 (Bits.range e 511 256)⟩
  else none

/-- Whether layers do not decrease, none is skipped, and every shard but the last of a layer is a whole tile. -/
def layersOk (layers : Nat) : List Shard → Bool
  | [] => false
  | [x] => x.layer + 1 == layers
  | x :: y :: r =>
    (if x.layer = y.layer then x.length == shardTile else y.layer == x.layer + 1) && layersOk layers (y :: r)

/-- Read a manifest from its bytes on; none where it is not well formed (11 R270) or a field is refused. -/
def readManifest (bs : List Byte) : Option Manifest :=
  let h := Bits.ofBytes (bs.take 64)
  let n := Bits.range h 63 48
  let layers := Bits.range h 167 160
  let clusters := Bits.range h 171 168
  let ok := 1408 ≤ bs.length && Bits.range h 31 0 == 0x574D7160 && Bits.range h 47 32 == 1 && n != 0 && layers != 0 &&
    ([1, 2, 4, 8] : List Nat).contains clusters && Bits.range h 191 174 == 0 && Bits.range h 511 288 == 0 &&
    Bits.range h 287 256 == 1408 + 64 * n && manifestBytes n ≤ bs.length
  if !ok then none
  else
    match (List.range n).mapM fun i => readShardEntry layers clusters (Bits.ofBytes ((bs.drop (1408 + 64 * i)).take 64)) with
    | none => none
    | some sh =>
      let total := match sh.getLast? with
        | some x => x.tile * shardTile + x.length
        | none => 0
      let first := (sh.head?.map (·.layer)).getD 1
      if sh.map (·.tile) == List.range n && first == 0 && layersOk layers sh && Bits.range h 255 192 == total then
        some ⟨BitVec.ofNat 64 (Bits.range h 127 64), BitVec.ofNat 32 (Bits.range h 159 128), layers, clusters,
          Bits.range h 173 172, sh, bs.take (manifestBytes n)⟩
      else none

/-- The object length that a manifest gives. -/
def Manifest.total (m : Manifest) : Nat :=
  match m.shards.getLast? with
  | some x => x.tile * shardTile + x.length
  | none => 0

/-- Whether a manifest is authentic (11 R271). -/
def Manifest.authentic (m : Manifest) : Bool :=
  let key := (m.raw.drop 64).take 1312
  let sigOff := 1408 + 64 * m.shards.length
  let slot := Config.modelKey m.keySlot
  slot != 0 && Config.sha3 key == slot &&
    Config.mldsaVerify key (m.raw.drop sigOff) (Config.sha3 (m.raw.take sigOff))

/-- The status that refuses a manifest for what it is. -/
def Manifest.check (m : Option Manifest) : Except Nat Manifest :=
  match m with
  | none => .error stBadField
  | some m => if m.authentic then .ok m else .error stAuth

/-- Whether two manifests differ in version and digests alone (11 R279). -/
def Manifest.matches_ (a b : Manifest) : Bool :=
  a.modelId == b.modelId && a.nLayers == b.nLayers && a.clusters == b.clusters &&
    a.shards.map (fun x => (x.layer, x.cluster, x.tile, x.length)) == b.shards.map fun x => (x.layer, x.cluster, x.tile, x.length)

/-- The layer of a tile. -/
def Manifest.layerOf (m : Manifest) (tile : Nat) : Nat := ((m.shards[tile]?).map (·.layer)).getD 0

/-- A library entry by its pair. -/
def State.entry? (s : State) (model : BitVec 64) (version : BitVec 32) : Option LibraryEntry :=
  s.library.find? fun e => e.manifest.modelId == model && e.manifest.version == version

/-- Change a weight object. -/
def State.modWeight (s : State) (c : CtxNo) (base : BitVec 42) (f : WeightObj → WeightObj) : State :=
  { s with weights := Lists.modifyIf (fun w => w.ctx == c && w.base == base) f s.weights }

/-! ### Layers and runs (11 R281, R282) -/

/-- Whether layer j holds no shard that is still wanted (11 R282). -/
def WeightObj.layerNew (w : WeightObj) (j : Nat) : Bool := w.wanted.all fun x => w.manifest.layerOf x.tile != j
/-- How many layers are new, for WGT.QUERY. -/
def WeightObj.layersNew (w : WeightObj) : Nat := ((List.range w.manifest.nLayers).filter w.layerNew).length

/-- The moves of an image that read layer j of an object at some slots: first beat and last beat. -/
def Image.layerBeats (img : Image) (slots : List Nat) (m : Manifest) (j : Nat) : List (Nat × Nat) :=
  img.allMoves.filterMap fun r =>
    match Mv.source r with
    | some (.object k off) =>
      if slots.contains k && 0 < Mv.bytes r &&
          ((List.range ((off + Mv.bytes r - 1) / shardTile + 1 - off / shardTile)).any fun i =>
            m.layerOf (off / shardTile + i) == j && off / shardTile + i < m.shards.length) then
        some (Mv.beat r, Mv.lastBeat r)
      else none
    | _ => none

/-- The slots of a run that name an object. -/
def Run.slotsNaming (r : Run) (base : BitVec 42) : List Nat :=
  (r.objs.zipIdx.filter fun (b, _) => b == base).map (·.2)

/-- first(j) and last(j) of a run; none where it does not read the layer. -/
def State.reads (s : State) (r : Run) (w : WeightObj) (j : Nat) : Option (Nat × Nat) :=
  match s.image? r.ctx r.image with
  | none => none
  | some img =>
    match img.layerBeats (r.slotsNaming w.base) w.manifest j with
    | [] => none
    | x :: xs => some (xs.foldl (fun m y => min m y.1) x.1, xs.foldl (fun m y => max m y.2) x.2)

/-- Whether a run has still to leave layer j, once its beat in progress is closed. -/
def State.stillReads (s : State) (r : Run) (w : WeightObj) (j : Nat) : Bool :=
  match s.reads r w j with
  | some (_, l) => !r.released || r.beat < l
  | none => false

/-- Set the readiness of an object's wanted shards at a boundary of its partition. -/
def State.readyShards (s : State) (w : WeightObj) : State :=
  if !w.effective then s
  else
    let old := ((s.ptn? (ptnOf w.ctx)).bind (·.run)).filter fun r => r.ctx == w.ctx && r.oldFor.contains w.base
    let free : Nat → Bool := fun j =>
      match old with
      | some r => !(w.phase == .swapping && s.stillReads r w j)
      | none => true
    s.modWeight w.ctx w.base fun y =>
      { y with wanted := y.wanted.map fun x => if free (y.manifest.layerOf x.tile) then { x with ready := true } else x }

/-- Begin to await the lowest shard that is wanted and that the receiver is ready for (log entry 27). -/
def WeightObj.await (w : WeightObj) (now : Nat) : WeightObj :=
  match w.wanted.find? (·.ready) with
  | none => w
  | some x =>
    let begin_ := fun (y : Wanted) =>
      if y.tile = x.tile ∧ y.from_.isNone then { y with from_ := some now, last := now } else y
    { w with wanted := w.wanted.map begin_ }

/-- Whether a run may not be released into a beat (11 R283): it would read a layer that is not new. -/
def State.waveHeld (s : State) (r : Run) (beat : Nat) : Bool :=
  s.weights.any fun w =>
    w.ctx == r.ctx && r.objs.contains w.base &&
      ((w.phase == .swapping && w.effective && !r.oldFor.contains w.base) || w.phase == .rollingBack || w.phase == .lost) &&
      (List.range w.manifest.nLayers).any fun j =>
        !w.layerNew j &&
          match s.reads r w j with
          | some (a, b) => a ≤ beat && beat ≤ b
          | none => false

/-- Whether a wave hold of a run is one on a lost object (11 R289). -/
def State.heldOnLost (s : State) (r : Run) (beat : Nat) : Bool :=
  s.weights.any fun w =>
    w.phase == .lost && w.ctx == r.ctx && r.objs.contains w.base &&
      (List.range w.manifest.nLayers).any fun j =>
        !w.layerNew j &&
          match s.reads r w j with
          | some (a, b) => a ≤ beat && beat ≤ b
          | none => false

/-! ### Discarded runs (11 R288) -/

/-- A binding as it was before admission. -/
def Slot.fresh (sl : Slot) : Slot :=
  { no := sl.no, seq := sl.seq, nNew := sl.nNew, drafts := sl.drafts, recompute := sl.recompute, logOff := sl.logOff,
    t0 := sl.t0, m := sl.m }

/-- A run as it was when it started. -/
def Run.fresh (r : Run) : Run :=
  { q := r.q, ctx := r.ctx, isStep := r.isStep, image := r.image, variant := r.variant, args := r.args, objs := r.objs,
    slots := (r.slots.filter fun sl => !sl.added).map Slot.fresh, reserved := r.reserved }

/-- The pages of a slot that its run has written: those that admission allocated and that a move issued so far can
write. -/
def State.wrotePages (s : State) (r : Run) (sl : Slot) : List Nat :=
  match s.image? r.ctx r.image, s.seq? sl.seq with
  | some img, some x =>
    let issued := r.issued.filterMap fun (k, i) => (img.movesOf k)[i]?
    let ns := issued.flatMap fun m => ((Mv.laneRuns m).filter (·.2)).flatMap fun (l, _) => sl.pagesOf x.shape [] (Mv.bytes m) l
    sl.allocated.filter fun n => ns.contains n && partOf n < 3
  | _, _ => []

/-- Drop what the recompute slots of a discarded run wrote below the restored c (11 R288). -/
def State.dropWritten (s : State) (r : Run) : State :=
  (r.slots.filter (·.recompute)).foldl (fun st sl =>
    match st.seq? sl.seq, st.wrotePages r sl with
    | some x, n :: ns => st.dropPages x.index (n :: ns)
    | _, _ => st) s

/-- Discard the run in progress of a partition at a boundary: its slots are restored and it stands at the head of the
queue again. -/
def State.discardRun (s : State) (p : Nat) : State :=
  match (s.ptn? p).bind (·.run) with
  | none => s
  | some r =>
    let s := { s with moves := s.moves.filter fun m => m.ptn != p }
    let s := ((s.stampRun p r).dropWritten r).restoreSlots r.slots
    (s.modPtn p fun x => { x with run := none, queue := r.fresh :: x.queue, holds := { x.holds with wave := false } }).dropHeld p

/-- End the run in progress of a partition with a status, its slots restored (11 R289). -/
def State.endRun (s : State) (p status : Nat) : State :=
  match (s.ptn? p).bind (·.run) with
  | none => s
  | some r =>
    let s := { s with moves := s.moves.filter fun m => m.ptn != p }
    let s := (((s.stampRun p r).abortWatches r).restoreSlots r.slots).modPtn p fun x =>
      { x with run := none, holds := { x.holds with wave := false } }
    ((s.dropHeld p).checkReserved p r).finish r.q status 0 0

/-! ### The end of a load, swap or reload -/

/-- A run that was an old-version run of an object is one no more. -/
def State.forgetOld (s : State) (c : CtxNo) (base : BitVec 42) : State :=
  s.modPtn (ptnOf c) fun x => { x with run := x.run.map fun r => { r with oldFor := r.oldFor.filter fun b => b != base } }

/-- Whatever an object was receiving, it has it all (11 R276, R285, R287 step 4). -/
def State.settleWeights (s : State) (w : WeightObj) : State :=
  if !w.wanted.isEmpty then s
  else
    let done := fun (y : WeightObj) =>
      { y with phase := .ready, q := none, next := none, effective := false, wasLost := false, overwritten := [] }
    let fin := fun (st : State) (code r0 : Nat) =>
      match w.q with
      | some q => st.finish q code r0 0
      | none => st
    match w.phase with
    | .loading => fin (s.modWeight w.ctx w.base done) stOk w.base.toNat
    | .swapping =>
      let m := w.next.getD w.manifest
      let s := (s.modWeight w.ctx w.base fun y => { done y with manifest := m, source := w.nextSource }).forgetOld w.ctx w.base
      fin (s.event (.ctx w.ctx) 0x0061 w.base.toNat m.version.toNat 0) stOk 0
    | .rollingBack =>
      let s := (s.modWeight w.ctx w.base done).forgetOld w.ctx w.base
      fin (s.event (.ctx w.ctx) 0x0063 w.base.toNat w.manifest.version.toNat 0) stSwapRollback 0
    | _ => s

/-! ### Shards (11 R276, R277, 08 R193) -/

/-- Ask the reader of a session for a shard. -/
def State.request (s : State) (c : CtxNo) (src : ShardSource) (tile : Nat) : State :=
  match src with
  | .session no reader => s.sendControl (ptnOf c) reader 0 (.request no tile)
  | .library => s

/-- The version that a tile holds, with its source (11 R290). -/
def WeightObj.holding (w : WeightObj) (tile : Nat) : Manifest × ShardSource :=
  if w.phase = .swapping ∧ w.overwritten.contains tile then (w.target, w.nextSource) else (w.manifest, w.source)

/-- Whether bytes are a shard of a manifest. -/
def Manifest.shardOk (m : Manifest) (tile : Nat) (bs : List Byte) : Bool :=
  match m.shards[tile]? with
  | some x => bs.length == x.length && Config.sha3 bs == x.digest
  | none => false

/-- Give up refetches of a weight object: the units that they were to fill are zeroed where the object is protected, as
they may hold a shard already (14 R358). -/
def State.endRefetches (s : State) (w : WeightObj) (p : Refetch → Bool) : State :=
  let s := match s.obj? w.ctx w.base with
    | some o =>
      if o.desc.prot then (w.refetch.filter p).foldl (fun (st : State) (x : Refetch) =>
        st.zeroTier x.dest.tier x.dest.cluster (x.dest.unit * unitBytes) shardTile) s
      else s
    | none => s
  s.modWeight w.ctx w.base fun y => { y with refetch := y.refetch.filter fun x => !p x }

/-- A shard reaches an object from a source: it is written in place, and becomes valid or is refused. A shard that is not
wanted, or that the receiver is not ready for, is not taken; nor is one whose tile migrates (11 R290). -/
def State.shardArrives (s : State) (fromLibrary : Bool) (w : WeightObj) (tile : Nat) (bs : List Byte) : State :=
  let own := fun (x : ShardSource) => (x == .library) == fromLibrary
  let moving := s.migrations.any fun m => m.ctx == w.ctx && m.base == w.base && m.tile == tile
  let counted := fun (st : State) =>
    if fromLibrary then st.count w.ctx 22 bs.length else (st.count w.ctx 22 bs.length).count w.ctx 24 bs.length
  match s.obj? w.ctx w.base, w.target.shards[tile]? with
  | some o, some sh =>
    match w.wanted.find? fun x => x.tile == tile && x.ready with
    | some x =>
      if moving || x.gaveUp || !own w.targetSource then s
      else
        let s := counted ((s.writeObj o (tile * shardTile) (bs.take sh.length)).countTiers o (tile * shardTile)
          (min bs.length sh.length) true)
        let written := if w.overwritten.contains tile then w.overwritten else w.overwritten ++ [tile]
        let s := (s.endRefetches w fun z => z.tile == tile).modWeight w.ctx w.base fun y => { y with overwritten := written }
        if w.target.shardOk tile bs then
          let s := s.modWeight w.ctx w.base fun y => WeightObj.await { y with wanted := y.wanted.filter fun z => z.tile != tile } s.now
          match s.weight? w.ctx w.base with
          | some y => s.settleWeights y
          | none => s
        else
          let again := fun (y : Wanted) =>
            if y.tile = tile then { y with refused := y.refused + 1, gaveUp := 3 ≤ y.refused + 1 } else y
          let s := s.modWeight w.ctx w.base fun y => { y with wanted := y.wanted.map again }
          if 3 ≤ x.refused + 1 then s.event (.ctx w.ctx) 0x0060 w.base.toNat tile 1
          else s.request w.ctx w.targetSource tile
    | none =>
      match w.refetch.find? fun x => x.tile == tile && !x.got with
      | some x =>
        let (m, src) := w.holding tile
        if !own src then s
        else if m.shardOk tile bs then
          let got := fun (y : Refetch) => if y.tile = tile then { y with got := true } else y
          counted ((s.writeTier x.dest.tier x.dest.cluster (x.dest.unit * unitBytes) bs).modWeight w.ctx w.base fun y =>
            { y with refetch := y.refetch.map got })
        else s.request w.ctx src tile
      | none => s
  | _, _ => s

/-- SHARD_RECEIVE: a shard from a session. -/
def shardReceiveEffect (c : CtxNo) (base : BitVec 42) (tile : Nat) (bs : List Byte) (s : State) : State :=
  match s.weight? c base with
  | some w => s.shardArrives false w tile bs
  | none => s

def execShardReceive (c : CtxNo) (base : BitVec 42) (tile : Nat) (bs : List Byte) (s : State) : Result :=
  .next (shardReceiveEffect c base tile bs s)

/-- SHARD_MISSING: 20 ms have passed since the receiver began to await the shard, or asked for it last. -/
def shardMissingEffect (c : CtxNo) (base : BitVec 42) (tile : Nat) (s : State) : State :=
  match s.weight? c base with
  | none => s
  | some w =>
    match w.wanted.find? fun x => x.tile == tile with
    | none => s
    | some x =>
      if x.gaveUp || x.from_.isNone || s.now < x.last + 20000 then s
      else
        let ask := fun (y : Wanted) => if y.tile = tile then { y with asked := y.asked + 1, last := s.now } else y
        let s := s.modWeight c base fun y => { y with wanted := y.wanted.map ask }
        let s := s.request c w.targetSource tile
        if (x.asked + 1) % 3 = 0 then s.event (.ctx c) 0x0060 base.toNat tile 2 else s

def execShardMissing (c : CtxNo) (base : BitVec 42) (tile : Nat) (s : State) : Result := .next (shardMissingEffect c base tile s)

/-! ### Rolling back (11 R287 to R289) -/

/-- Whether a run has reached a layer of an object. -/
def State.hasReached (s : State) (r : Run) (w : WeightObj) : Bool :=
  r.released && (List.range w.manifest.nLayers).any fun j =>
    match s.reads r w j with
    | some (a, _) => a ≤ r.beat
    | none => false

/-- The reload takes effect at a boundary, once the discarded run has left: the receiver is ready for every shard that it
reloads. With none to reload the rollback is over (11 R287 step 4). -/
def State.reloadEffect (s : State) (c : CtxNo) (base : BitVec 42) : State :=
  match s.weight? c base with
  | none => s
  | some w =>
    if w.phase != .rollingBack || w.effective then s
    else
      let y := WeightObj.await { w with effective := true, wanted := w.wanted.map fun x => { x with ready := true } } s.now
      (s.modWeight c base fun _ => y).settleWeights y

/-- Roll a swap back (11 R287): the event names a layer and shard, or a reset. A swap of an object that was lost leaves it
lost (11 R289). -/
def State.rollBackSwap (s : State) (w : WeightObj) (layer tile : Nat) : State :=
  let p := ptnOf w.ctx
  let s := s.event (.ctx w.ctx) 0x0062 w.base.toNat layer tile
  if w.wasLost then
    let all := w.manifest.shards.map fun x => ({ tile := x.tile } : Wanted)
    let s := s.modWeight w.ctx w.base fun y =>
      { y with phase := .lost, q := none, next := none, effective := false, overwritten := [], wanted := all }
    match w.q with
    | some q => s.finish q stSwapRollback 0 0
    | none => s
  else
    let tiles := Lists.sortBy (fun a b => decide (a ≤ b)) w.overwritten
    let s := (s.endRefetches w fun z => tiles.contains z.tile).modWeight w.ctx w.base fun y =>
      { y with phase := .rollingBack, effective := false, wanted := tiles.map fun t => { tile := t } }
    match (s.ptn? p).bind fun x => x.run.map fun r => (x, r) with
    | none => s.reloadEffect w.ctx w.base
    | some (x, r) =>
      let hit := r.ctx == w.ctx && r.objs.contains w.base && !r.oldFor.contains w.base && s.hasReached r w
      if !hit then s.reloadEffect w.ctx w.base
      else if x.beat.closed then (s.discardRun p).reloadEffect w.ctx w.base
      else s.modPtn p fun y => { y with run := y.run.map fun z => { z with discard := true } }

/-- A reload that cannot finish leaves the object lost (11 R289). -/
def State.loseWeights (s : State) (w : WeightObj) : State :=
  let p := ptnOf w.ctx
  let s := s.modWeight w.ctx w.base fun y => { y with phase := .lost, q := none, next := none, effective := false, overwritten := [] }
  let s := s.event (.ctx w.ctx) 0x0064 w.base.toNat 0 0
  let s := match w.q with
    | some q => s.finish q stWgtLost 0 0
    | none => s
  match (s.ptn? p).bind fun x => x.run.map fun r => (x, r) with
  | some (x, r) =>
    if x.holds.wave && x.beat.closed && s.heldOnLost r (if r.released then r.beat + 1 else 0) then s.endRun p stWgtLost else s
  | none => s

/-- SHARD_OVERDUE: the deadline has passed since the receiver began to await the shard. -/
def shardOverdueEffect (c : CtxNo) (base : BitVec 42) (tile : Nat) (s : State) : State :=
  match s.weight? c base with
  | none => s
  | some w =>
    match (w.wanted.find? fun x => x.tile == tile).bind (·.from_) with
    | none => s
    | some t =>
      if s.now < t + w.deadline * 1000 then s
      else
        match w.phase with
        | .swapping => s.rollBackSwap w (w.manifest.layerOf tile) tile
        | .rollingBack => s.loseWeights w
        | _ => s

def execShardOverdue (c : CtxNo) (base : BitVec 42) (tile : Nat) (s : State) : Result := .next (shardOverdueEffect c base tile s)

/-- WAVE_RELEASE: the layer that a held run waits for is new, and its partition is no longer held for it. -/
def waveReleaseEffect (p : Fin 8) (s : State) : State :=
  match (s.ptn? p.val).bind fun x => x.run.map fun r => (x, r) with
  | some (x, r) =>
    if x.holds.wave && !s.waveHeld r (if r.released then r.beat + 1 else 0) then
      s.modPtn p.val fun y => { y with holds := { y.holds with wave := false } }
    else s
  | none => s

def execWaveRelease (p : Fin 8) (s : State) : Result := .next (waveReleaseEffect p s)

/-! ### What a boundary brings (11 R280, R282, 08 R193) -/

/-- Switch a refetched tile to its new place and free the old one; the caches lose its translation (09 R211). -/
def State.switchRefetch (s : State) (w : WeightObj) (x : Refetch) : State :=
  match (s.obj? w.ctx w.base).bind fun o => (o.tiles[x.tile]?).map fun t => (o, t) with
  | none => s
  | some (o, t) =>
    let s := s.modObj w.ctx w.base fun y => { y with tiles := Lists.setAt y.tiles x.tile { t with place := x.dest } }
    let s := s.modWeight w.ctx w.base fun y => { y with refetch := y.refetch.filter fun z => z.tile != x.tile }
    let granule := w.base.toNat / unitBytes + x.tile * 32
    let s := s.invalidate (ptnOf w.ctx) (objSpace w.ctx) fun g => g == granule
    if o.desc.prot then s.zeroTier t.place.tier t.place.cluster (t.place.unit * unitBytes) shardTile else s

/-- At a boundary of a partition: swaps and reloads take effect, readiness grows, refetched tiles are switched. -/
def State.weightsBoundary (s : State) (p : Nat) : State :=
  (s.weights.filter fun w => ptnOf w.ctx == p).foldl (fun st w =>
    let st := (w.refetch.filter (·.got)).foldl (fun z x => z.switchRefetch w x) st
    match w.phase with
    | .swapping =>
      let st := if w.effective then st
        else
          let st := st.modWeight w.ctx w.base fun y => { y with effective := true }
          st.modPtn p fun x => { x with run := x.run.map fun r =>
            if r.released && !w.wasLost && r.ctx == w.ctx && r.objs.contains w.base then { r with oldFor := r.oldFor ++ [w.base] } else r }
      match st.weight? w.ctx w.base with
      | some y => (st.readyShards y).modWeight w.ctx w.base fun z => z.await st.now
      | none => st
    | .rollingBack => st.reloadEffect w.ctx w.base
    | _ => st) s |>.flush

/-- A reset or the end of a partition's service meets the swaps and reloads of its objects: a swap in progress rolls back
(11 R287). -/
def State.weightsReset (s : State) (p : Nat) : State :=
  (s.weights.filter fun w => ptnOf w.ctx == p && w.phase == .swapping).foldl (fun st w =>
    st.rollBackSwap w 0xFFFFFFFF 0) s

/-! ### Loading (11 R267, R276) -/

/-- Place the shards of a weight object, each in its own cluster; false where one finds no room. -/
def State.placeShards (s : State) (p low : Nat) (c : CtxNo) (base : BitVec 42) : List Shard → State × Bool
  | [] => (s, true)
  | x :: xs =>
    let now_ := ((s.ptn? p).map (·.beat.count)).getD 0
    match s.alloc p (some c) 1 (low + x.cluster) 32 32 with
    | (s', some u) =>
      ((s'.modObj c base (Obj.addTile ⟨⟨1, low + x.cluster, u⟩, now_⟩)).undefineUnits 1 (low + x.cluster) u 32).placeShards p low c
        base xs
    | (s', none) => (s', false)

/-- Create a weight object for a manifest (11 R267): its base, or the status that refuses it. -/
def State.createWeights (s : State) (p : Nat) (x : Partition) (c : CtxNo) (m : Manifest) (prot : Bool) : State × Except Nat (BitVec 42) :=
  if 65536 ≤ s.objCount c then (s, .error stLimit)
  else
    match s.chooseBase c shardTile (m.shards.length * shardTile) with
    | (s', none) => (s', .error stLimit)
    | (s', some base) =>
      let o : Obj := ⟨c, { deviceDesc kindWeights 1 2 true true prot m.total with vbase := base }, [], none⟩
      let gone := fun (t : State) => { t with objs := t.objs.filter fun y => !(y.ctx == c && y.desc.vbase == base) }
      match ({ s' with objs := s'.objs ++ [o] }).placeShards p x.low c base m.shards with
      | (t, false) => (gone t, .error stQuota)
      | (t, true) => if t.nodesFit p then (t.layNodes p, .ok base) else (gone t, .error stQuota)

/-- Load a manifest from a source for a command: the state with the object loading, or the refusal (11 R276). -/
def State.load (s : State) (q : Req) (c : CtxNo) (m : Option Manifest) (src : ShardSource) (prot : Bool) : State × Option Nat :=
  match Manifest.check m, s.ptn? (ptnOf c) with
  | .error st, _ => (s, some st)
  | .ok _, none => (s, some stNoObject)
  | .ok m, some x =>
    if m.clusters != x.n then (s, some stBadField)
    else
      match s.createWeights (ptnOf c) x c m prot with
      | (s', .error st) => (s', some st)
      | (s', .ok base) =>
        let want := fun (y : Shard) => ({ tile := y.tile, ready := true, from_ := some s.now, last := s.now } : Wanted)
        let w : WeightObj := { ctx := c, base := base, manifest := m, source := src, phase := .loading, q := some q, wanted := m.shards.map want }
        ({ s' with weights := s'.weights ++ [w] }, none)

/-- Swap an object to a manifest for a command: the state with the swap begun, or the status it completes with (11
R279). -/
def State.swap (s : State) (q : Req) (w : WeightObj) (m : Option Manifest) (src : ShardSource) (deadline : Nat) : State × Option Nat :=
  match Manifest.check m with
  | .error st => (s, some st)
  | .ok m =>
    if !w.manifest.matches_ m then (s, some stBadField)
    else if m.version = w.manifest.version ∧ w.phase ≠ .lost then (s, some stOkEmpty)
    else
      (s.modWeight w.ctx w.base fun y =>
        { y with phase := .swapping, q := some q, next := some m, nextSource := src, deadline := deadline, effective := false,
                 wasLost := w.phase == .lost, overwritten := [], wanted := m.shards.map fun x => { tile := x.tile } }, none)

/-- Join the multicast tree of a session's reader (13 R345): the device becomes a leaf and sends a join; at 256 trees it
does not. -/
def State.joinTree (s : State) (c : CtxNo) (no : BitVec 32) (reader : BitVec 16) : State :=
  let group := Config.sessionGroup reader no
  let join := fun (st : State) => st.sendControl (ptnOf c) reader 0 (.treeJoin reader group)
  match s.tree? reader group with
  | some _ =>
    let upd := fun (t : Tree) => { t with leaf := true }
    join (s.modFelt fun f => { f with trees := Lists.modifyIf (fun t => t.reader == reader && t.group == group) upd f.trees })
  | none =>
    if 256 ≤ s.felt.trees.length then s
    else join (s.modFelt fun f => { f with trees := f.trees ++ [{ reader := reader, group := group, leaf := true }] })

/-- The source that a command names, with the manifest of a library entry. -/
def WgtSource.source (x : WgtSource) : ShardSource := if x.isLocal then .library else .session x.session x.reader

/-- Carry out a load or swap whose manifest a session has brought (11 R276, R279); its command completes where it is
refused. -/
def State.manifestCame (s : State) (a : Awaited) (m : Option Manifest) : State :=
  let s := { s with awaited := s.awaited.filter fun x => x.q != a.q }
  let src : ShardSource := .session a.session a.reader
  let done := fun (r : State × Option Nat) =>
    match r with
    | (t, none) => t
    | (t, some st) => t.finish a.q st 0 0
  match a.cmd, ctxOf a.q.ring with
  | .wgtLoad _ _ prot, some c => done (s.load a.q c m src prot)
  | .wgtSwap _ base d _, some c =>
    match s.weight? c base with
    | some w => done (s.swap a.q w m src (if d = 0 then 50 else d.toNat))
    | none => s.finish a.q stNoObject 0 0
  | _, _ => s

/-- Whether the bytes from 0 up to n have all arrived. -/
def coversTo (n : Nat) (got : List (Nat × Nat)) : Bool :=
  let ends := (Lists.sortBy (fun a b => decide (a.1 ≤ b.1)) got).foldl (fun e g => if g.1 ≤ e then max e (g.1 + g.2) else e) 0
  n ≤ ends

/-- Bytes of a manifest reach a command that awaits it (log entry 28). -/
def State.manifestPart (s : State) (a : Awaited) (off : Nat) (bs : List Byte) : State :=
  let b := { a with bytes := Mem.write a.bytes off bs, got := a.got ++ [(off, bs.length)] }
  let s := { s with awaited := s.awaited.map fun x => if x.q == a.q then b else x }
  let n := manifestBytes (Mem.word b.bytes 6 2)
  if coversTo 64 b.got && coversTo n b.got then s.manifestCame b (readManifest (Mem.read b.bytes 0 n)) else s

/-- A part of a shard from the session's tree: its bytes are written in place in their tile, which has been overwritten
from its first frame on (11 R276, R287). A frame at offset 0 starts the next shard. -/
def State.shardPart (s : State) (w : WeightObj) (off : Nat) (bs : List Byte) : State :=
  let tile := if off = 0 then w.nextShard.map (·.tile) else w.overwritten.getLast?
  match (tile.bind fun i => w.wanted.find? fun x => x.tile == i && x.ready && !x.gaveUp), s.obj? w.ctx w.base with
  | some x, some o =>
    if s.migrating w.ctx w.base x.tile || ((w.target.shards[x.tile]?).map (·.length)).getD 0 < off + bs.length then s
    else
      let s := s.writeObj o (x.tile * shardTile + off) bs
      s.modWeight w.ctx w.base fun y =>
        { y with overwritten := if y.overwritten.contains x.tile then y.overwritten else y.overwritten ++ [x.tile] }
  | _, _ => s

/-- Take a frame of a tree that the device is a leaf of: its bytes are written into the shard that an object receives from
the tree, or taken by the commands of this device that await the manifest of its session. -/
def State.takeMulticast (s : State) (reader group : BitVec 16) (off : Nat) (bs : List Byte) : State :=
  let mine := s.awaited.filter fun a => a.reader == reader && Config.sessionGroup a.reader a.session == group
  let s := (s.weights.filter fun w => w.fedBy reader group).foldl (fun st w => st.shardPart w off bs) s
  mine.foldl (fun st a => st.manifestPart a off bs) s

/-- Take the frames of trees that have reached the device as a leaf. -/
def State.takeTrees (s : State) : State :=
  let tree := fun (o : Outgoing) => match o.body with
    | .multicast .. => true
    | _ => false
  (s.felt.own.filter tree).foldl (fun st o => match o.body with
    | .multicast reader group _ off bs => st.takeMulticast reader group off.toNat bs
    | _ => st) (s.modFelt fun f => { f with own := f.own.filter fun o => !tree o })

/-- MULTICAST_FRAME: forwarded on every branch once all have credit, and taken where the device is a leaf; while an
object of the device is not ready for the shard that it starts, it and the frames behind it wait (11 R282, 13 R346). -/
def multicastFrameEffect (k : Fin 8) (f : Frame) (s : State) : State :=
  if (s.port k).phase != .up then s
  else
    onFrame k f s fun f s =>
      if f.type != 2 then s
      else
        let group := BitVec.ofNat 16 f.tree.toNat
        let reader := BitVec.ofNat 16 (f.tree.toNat / 65536)
        (s.feltWake.forward f (.multicast reader group f.seq f.offset f.payload) (frameBuffer k f)).takeTrees

def execMulticastFrame (k : Fin 8) (f : Frame) (s : State) : Result := .next (multicastFrameEffect k f s)

/-! ### Serving (11 R274, R275) -/

/-- Send bytes to a session's multicast group. -/
def State.sendGroup (s : State) (x : Serving) (bs : List Byte) : State :=
  let p := ((ctxOf x.q.ring).map ptnOf).getD 0
  let own := s.felt.addr.getD 0
  (frameCuts (bs.length / 4096 + 1) 0 bs).foldl (fun st (off, b) =>
    let key := 2 ^ 24 + x.group.toNat
    let seq := Table.get Config.firstSeq st.felt.txSeq key
    let st := st.modFelt fun f => { f with txSeq := Table.set f.txSeq key (seq + 1) }
    st.send ⟨0, own, 0, BitVec.ofNat 3 p, 0, p, none, .multicast own x.group seq (BitVec.ofNat 48 off) b, none⟩) s

/-- Change the session that a WGT.SERVE opened. -/
def State.modServing (s : State) (q : Req) (f : Serving → Serving) : State :=
  { s with serving := Lists.modifyIf (fun x => x.q == q) f s.serving }

/-- End a session with the status of its WGT.SERVE. -/
def State.endSession (s : State) (x : Serving) (status : Nat) : State :=
  { s with serving := s.serving.filter fun y => y.q != x.q }.finish x.q status 0 0

/-- RESEND_REQUEST: a receiver of an open session asks for a shard; the linger time starts again. -/
def resendRequestEffect (no : BitVec 32) (receiver : BitVec 16) (tile : Nat) (s : State) : State :=
  let ask := fun (x : Serving) =>
    { x with resends := if x.resends.contains (receiver, tile) then x.resends else x.resends ++ [(receiver, tile)]
             lingerFrom := x.lingerFrom.map fun _ => s.now }
  { s with serving := Lists.modifyIf (fun x => x.session == no) ask s.serving }

def execResendRequest (no : BitVec 32) (receiver : BitVec 16) (tile : Nat) (s : State) : Result :=
  .next (resendRequestEffect no receiver tile s)

/-- SESSION_LINGER_EXPIRY: the linger time has passed with no request. -/
def sessionLingerExpiryEffect (no : BitVec 32) (s : State) : State :=
  let spent := fun (x : Serving) => x.lingerFrom.any fun t => t + x.linger ≤ s.now && x.resends.isEmpty
  match s.serving.find? fun x => x.session == no && spent x with
  | none => s
  | some x => s.endSession x stOk

def execSessionLingerExpiry (no : BitVec 32) (s : State) : Result := .next (sessionLingerExpiryEffect no s)

/-- A read of a shard reaches a session: the shard is sent to the group in its turn, or again to one receiver; a third
failure ends the session. -/
def State.serveShard (s : State) (x : Serving) (m : Manifest) (tile : Nat) (bs : List Byte) : State :=
  let turn := x.position == tile && x.position < m.shards.length
  let asked := x.resends.filter fun y => y.2 == tile
  if !turn && asked.isEmpty then s
  else if m.shardOk tile bs then
    let s := s.modServing x.q fun y => { y with fails := y.fails.filter fun z => z.1 != tile }
    if turn then
      let s := s.sendGroup x bs
      let last := x.position + 1 = m.shards.length
      s.modServing x.q fun y => { y with position := y.position + 1, lingerFrom := if last then some s.now else y.lingerFrom }
    else
      let p := ((ctxOf x.q.ring).map ptnOf).getD 0
      -- the receiver's partition, which its request names in a way that the manual does not give, is free (log entry 148)
      let (v, s) := s.takeFree
      let s := asked.foldl (fun st y =>
        (frameCuts (bs.length / 4096 + 1) 0 bs).foldl (fun z (a, b) => z.sendData p y.1 (BitVec.ofNat 3 v.toNat) a b none none) st) s
      s.modServing x.q fun y => { y with resends := y.resends.filter fun z => z.2 != tile }
  else if 3 ≤ Table.get 0 x.fails tile + 1 then s.endSession x stPoison
  else s.modServing x.q fun y => { y with fails := Table.set y.fails tile (Table.get 0 y.fails tile + 1) }

/-- FLASH_READ_COMPLETE: a read of a library shard, for every session, load, swap, reload and refetch that waits for it
(log entry 29). A read of a busy plane waits (17 R424), as does a new read while the store core restarts. Corrections are
counted, and a stripe that needed too many is copied (17 R425). -/
def flashReadCompleteEffect (model : BitVec 64) (version : BitVec 32) (tile : Nat) (r : FlashRead) (s : State) : State :=
  match s.entry? model version with
  | none => s
  | some e =>
    let at_ := fun (k : Nat) => ((shardPages e.manifest tile)[k]?).bind (entryKey e.stripes)
    let errors := r.pages.filterMap fun (k, n) => (at_ k).map fun key => (key, n)
    let keys := (shardPages e.manifest tile).filterMap (entryKey e.stripes)
    if s.restarting storeIsland || !s.stacksRun || keys.any s.keyBusy then s
    else
      let bs := s.readShard e.stripes e.manifest tile r.pages r.bytes
      let s := s.countPages errors
      let s := s.serving.foldl (fun st x =>
        if x.modelId = model ∧ x.version = version then st.serveShard x e.manifest tile bs else st) s
      let s := s.weights.foldl (fun st w =>
        let named := fun (m : Manifest) => m.modelId == model && m.version == version
        if named w.target || named w.manifest then
          match st.weight? w.ctx w.base with
          | some y => st.shardArrives true y tile bs
          | none => st
        else st) s
      s.copyWorn errors

def execFlashReadComplete (model : BitVec 64) (version : BitVec 32) (tile : Nat) (r : FlashRead) (s : State) : Result :=
  .next (flashReadCompleteEffect model version tile r s)

/-! ### WGT commands (11 R291) -/

/-- WGT.SERVE: the manifest goes to the group at once, and the shards as they are read. -/
def wgtServeBody (model : BitVec 64) (version session : BitVec 32) (group linger : BitVec 16) (s : State) (q : Req) : Ran :=
  match s.entry? model version with
  | none => .status s stNoObject
  | some e =>
    if 8 ≤ s.serving.length then .status s stLimit
    else
      let secs := if linger = 0 then 60 else linger.toNat
      let x : Serving := { q := q, session := session, modelId := model, version := version, group := group, linger := secs * 1000000 }
      .goesOn (({ s with serving := s.serving ++ [x] }).sendGroup x e.manifest.raw)

def execWgtServe (q : Req) (model : BitVec 64) (version session : BitVec 32) (group linger : BitVec 16) (s : State) : Result :=
  .next (runCommand (.wgtServe q model version session group linger) s (wgtServeBody model version session group linger))

/-- Weight objects of a context, with the loads that await their manifest. -/
def State.weightCount (s : State) (c : CtxNo) : Nat :=
  (s.weights.filter fun w => w.ctx == c).length +
    (s.awaited.filter fun a => ctxOf a.q.ring == some c && match a.cmd with
      | .wgtLoad .. => true
      | _ => false).length

/-- WGT.LOAD. -/
def wgtLoadBody (i : Instr) (src : WgtSource) (prot : Bool) (s : State) (q : Req) : Ran :=
  withCtx q s fun c =>
    if 4 ≤ s.weightCount c then .status s stLimit
    else if src.isLocal then
      match s.entry? src.modelId src.version with
      | none => .status s stNoObject
      | some e =>
        match s.load q c (some e.manifest) .library prot with
        | (t, none) => .goesOn t
        | (t, some st) => .status t st
    else
      let a : Awaited := { q := q, cmd := i, session := src.session, reader := src.reader }
      .goesOn (({ s with awaited := s.awaited ++ [a] }).joinTree c src.session src.reader)

def execWgtLoad (q : Req) (src : WgtSource) (prot : Bool) (s : State) : Result :=
  .next (runCommand (.wgtLoad q src prot) s (wgtLoadBody (.wgtLoad q src prot) src prot))

/-- WGT.SWAP. -/
def wgtSwapBody (i : Instr) (base : BitVec 42) (deadline : BitVec 14) (src : WgtSource) (s : State) (q : Req) : Ran :=
  withCtx q s fun c =>
    match s.weight? c base with
    | none => .status s stNoObject
    | some w =>
      let busy := w.phase == .loading || w.phase == .swapping || w.phase == .rollingBack ||
        s.awaited.any fun a => ctxOf a.q.ring == some c && match a.cmd with
          | .wgtSwap _ b _ _ => b == base
          | _ => false
      if busy then .status s stInUse
      else if src.isLocal then
        match s.entry? src.modelId src.version with
        | none => .status s stNoObject
        | some e =>
          match s.swap q w (some e.manifest) .library (if deadline = 0 then 50 else deadline.toNat) with
          | (t, none) => .goesOn t
          | (t, some st) => .status t st
      else
        let a : Awaited := { q := q, cmd := i, session := src.session, reader := src.reader }
        .goesOn (({ s with awaited := s.awaited ++ [a] }).joinTree c src.session src.reader)

def execWgtSwap (q : Req) (base : BitVec 42) (deadline : BitVec 14) (src : WgtSource) (s : State) : Result :=
  .next (runCommand (.wgtSwap q base deadline src) s (wgtSwapBody (.wgtSwap q base deadline src) base deadline src))

/-- WGT.READER: another reader for what a load, swap or reload still needs; it is asked for each shard at once. -/
def wgtReaderBody (base : BitVec 42) (session : BitVec 32) (reader : BitVec 16) (s : State) (q : Req) : Ran :=
  withCtx q s fun c =>
    let src : ShardSource := .session session reader
    let again := fun (x : Wanted) => { x with refused := 0, asked := 0, gaveUp := false, last := s.now }
    let swapWaits := fun (a : Awaited) => ctxOf a.q.ring == some c && match a.cmd with
      | .wgtSwap _ b _ _ => b == base
      | _ => false
    match s.weight? c base with
    | none => .status s stNoObject
    | some w =>
      let upd := fun (y : WeightObj) =>
        let y := { y with wanted := y.wanted.map again }
        if w.phase = .swapping then { y with nextSource := src } else { y with source := src }
      if w.phase == .loading || w.phase == .swapping || w.phase == .rollingBack || !w.refetch.isEmpty then
        let s := s.modWeight c base upd
        let need := (w.wanted.filter (·.ready)).map (·.tile) ++ (w.refetch.filter fun x => !x.got).map (·.tile)
        .status (need.foldl (fun st t => st.request c src t) s) stOk
      else if s.awaited.any swapWaits then
        let s := { s with awaited := s.awaited.map fun a => if swapWaits a then { a with session := session, reader := reader } else a }
        .status (s.joinTree c session reader) stOk
      else .status s stNoObject

def execWgtReader (q : Req) (base : BitVec 42) (session : BitVec 32) (reader : BitVec 16) (s : State) : Result :=
  .next (runCommand (.wgtReader q base session reader) s (wgtReaderBody base session reader))

/-- The code of a weight object's state, in the order of 11 Table WGT.3 (log entry 30). -/
def WeightPhase.code : WeightPhase → Nat
  | .loading => 0 | .ready => 1 | .swapping => 2 | .rollingBack => 3 | .lost => 4

/-- WGT.QUERY. -/
def wgtQueryBody (base : BitVec 42) (s : State) (q : Req) : Ran :=
  withCtx q s fun c =>
    match s.weight? c base with
    | none => .status s stNoObject
    | some w =>
      .done s stOk (packBits [(w.manifest.version.toNat, 0), (w.phase.code, 32), (w.layersNew, 40)]) w.manifest.modelId.toNat

def execWgtQuery (q : Req) (base : BitVec 42) (s : State) : Result := .next (runCommand (.wgtQuery q base) s (wgtQueryBody base))

/-- Take a weight object out, and end what was filling it. -/
def State.dropWeights (s : State) (c : CtxNo) (base : BitVec 42) (status : Nat) : State :=
  match s.weight? c base with
  | none => s
  | some w =>
    let s := s.endRefetches w fun _ => true
    let s := ({ s with weights := s.weights.filter fun x => !(x.ctx == c && x.base == base) }.dropObj c base)
    match w.q with
    | some q => s.finish q status 0 0
    | none => s

/-- WGT.FREE: it waits while a run in progress binds the object; a load is abandoned with the object. -/
def wgtFreeBody (base : BitVec 42) (s : State) (q : Req) : Ran :=
  withNamed q base s fun o =>
    match s.weight? o.ctx base with
    | none => .status s stNoObject
    | some w =>
      if w.phase == .swapping || w.phase == .rollingBack then .status s stInUse
      else if s.bound o then .waits
      else .status ((s.dropWeights o.ctx base stAborted).quotaClear (ptnOf o.ctx)) stOk

def execWgtFree (q : Req) (base : BitVec 42) (s : State) : Result := .next (runCommand (.wgtFree q base) s (wgtFreeBody base))

end Sys2Proof.Machine
end

