-- ==== Sys2Proof/Machine/Narrow.lean ====
section
/-! DEFINITION. The narrow port of the tile stores (05 R119): NARROW_STORE, NARROW_LOAD, COALESCE_WRITEBACK; and the loads
of registers and tables that take effect at a boundary (02 R57). -/

namespace Sys2Proof.Machine

/-- Whether an entry is that of a line. -/
def Coalesced.at_ (x : Coalesced) (c t sp line : Nat) : Bool := x.cluster == c && x.tile == t && x.space == sp && x.line == line

/-- Write an entry back as one masked line access. -/
def State.writeBack (s : State) (x : Coalesced) : State :=
  let base := x.line * lineBytes x.tile x.space
  let st := x.bytes.foldl (fun (st : Stores) b => st.write x.ctx x.cluster x.tile x.space (base + b.1) [b.2]) s.stores
  { s with stores := { st with coalesced := st.coalesced.filter fun y => !y.at_ x.cluster x.tile x.space x.line } }

/-- Write back, oldest first, the entries of a tile. -/
def State.flushTile (s : State) (c t : Nat) : State :=
  (s.stores.coalesced.filter fun x => x.cluster == c && x.tile == t).foldl (fun st x => st.writeBack x) s

/-- The bytes of an access: 1, 2 or 4. -/
def accessBytes (size : BitVec 2) : Nat := 2 ^ size.toNat

/-- Bytes laid over a mask and its values; a byte of value 0 is kept as written. -/
def layOver (m : Mem) (off : Nat) : List Byte → Mem
  | [] => m
  | b :: bs => layOver (Table.set m off b) (off + 1) bs

/-- Whether an access lies in a store, in one line of it. DESIGN CHOICE (log entry 139): an access that does not, or
that is not naturally aligned, does nothing. -/
def narrowOk (t sp b n : Nat) : Bool :=
  b + n ≤ storeBytes t sp && b % n == 0

/-- NARROW_STORE: it merges into its line's entry, or takes one of the store's 16, for which the oldest makes room. A
store of a run tags the entry with its context, an operator's leaves the entry's tag (14 R355). -/
def narrowStoreEffect (c : Fin 8) (t : Fin 14) (space : BitVec 4) (byte : BitVec 24) (size : BitVec 2) (value : BitVec 32)
    (tag : Option CtxNo) (s : State) : State :=
  let sp := space.toNat
  let b := byte.toNat
  let n := accessBytes size
  if !narrowOk t.val sp b n || 2 < size.toNat then s
  else
    let line := b / lineBytes t.val sp
    let off := b % lineBytes t.val sp
    let bs := Bits.toBytes n value.toNat
    let merge := fun (x : Coalesced) => if x.at_ c.val t.val sp line then
        { x with bytes := layOver x.bytes off bs, ctx := tag.orElse fun _ => x.ctx } else x
    if s.stores.coalesced.any fun x => x.at_ c.val t.val sp line then
      { s with stores := { s.stores with coalesced := s.stores.coalesced.map merge } }
    else
      let mine := s.stores.coalesced.filter fun x => x.cluster == c.val && x.tile == t.val && x.space == sp
      let s := match mine.head? with
        | some x => if 16 ≤ mine.length then s.writeBack x else s
        | none => s
      let e : Coalesced := ⟨c.val, t.val, sp, line, layOver [] off bs, tag⟩
      { s with stores := { s.stores with coalesced := s.stores.coalesced ++ [e] } }

def execNarrowStore (c : Fin 8) (t : Fin 14) (space : BitVec 4) (byte : BitVec 24) (size : BitVec 2) (value : BitVec 32)
    (tag : Option CtxNo) (s : State) : Result := .next (narrowStoreEffect c t space byte size value tag s)

/-- NARROW_LOAD: served from the entry that covers it, else the entry of the line is written back and the bank is read. -/
def narrowLoadEffect (c : Fin 8) (t : Fin 14) (space : BitVec 4) (byte : BitVec 24) (size : BitVec 2) (s : State) : State :=
  let sp := space.toNat
  let b := byte.toNat
  let n := accessBytes size
  if !narrowOk t.val sp b n || 2 < size.toNat then s
  else
    let line := b / lineBytes t.val sp
    let off := b % lineBytes t.val sp
    match s.stores.coalesced.find? fun x => x.at_ c.val t.val sp line with
    | some x =>
      if (List.range n).all fun i => x.bytes.any fun y => y.1 == off + i then
        { s with lastRead := BitVec.ofNat 64 (Bits.ofBytes ((List.range n).map fun i => Table.get 0 x.bytes (off + i))) }
      else
        let s := s.writeBack x
        { s with lastRead := BitVec.ofNat 64 (Bits.ofBytes (s.stores.read c.val t.val sp b n)) }
    | none => { s with lastRead := BitVec.ofNat 64 (Bits.ofBytes (s.stores.read c.val t.val sp b n)) }

def execNarrowLoad (c : Fin 8) (t : Fin 14) (space : BitVec 4) (byte : BitVec 24) (size : BitVec 2) (s : State) : Result :=
  .next (narrowLoadEffect c t space byte size s)

/-- COALESCE_WRITEBACK of the entry of a line. -/
def coalesceWritebackEffect (c : Fin 8) (t : Fin 14) (space : BitVec 4) (line : BitVec 16) (s : State) : State :=
  match s.stores.coalesced.find? fun x => x.at_ c.val t.val space.toNat line.toNat with
  | some x => s.writeBack x
  | none => s

def execCoalesceWriteback (c : Fin 8) (t : Fin 14) (space : BitVec 4) (line : BitVec 16) (s : State) : Result :=
  .next (coalesceWritebackEffect c t space line s)

/-- Make the loads of the closing beat current in the tiles of some clusters (02 R57). -/
def State.applyLoads (s : State) (low n : Nat) : State :=
  let mine := fun (x : PendingLoad) => low * 14 ≤ x.key && x.key < (low + n) * 14
  let put := fun (st : Stores) (x : PendingLoad) =>
    let a := x.key * 2097152 + x.first
    match x.store with
    | 0 => { st with scales := Mem.write st.scales a x.bytes }
    | 1 => { st with codebooks := Mem.write st.codebooks a x.bytes }
    | 2 => { st with products := Mem.write st.products a x.bytes }
    | 4 => st.write x.ctx (x.key / 14) (x.key % 14) 3 x.first x.bytes
    | _ => { st with selectors := Table.set st.selectors x.key ((Table.get [] st.selectors x.key).drop x.first) }
  let st := (s.stores.loads.filter mine).foldl put s.stores
  { s with stores := { st with loads := st.loads.filter fun x => !mine x } }

end Sys2Proof.Machine
end

