-- ==== Sys2Proof/Machine/Calender.lean ====
section
/-! DEFINITION. The calender (06): coded regions, their expansion with what makes one malformed, and the coding of a
source into a region. -/

namespace Sys2Proof.Machine

/-- Round a byte count up to granules. -/
def round64 (n : Nat) : Nat := Bits.roundUp n 64

/-- The element width w of an elem code (06 Table CMP.1). -/
def elemWidth (code : Nat) : Option Nat := if code ≤ 2 then some (2 ^ code) else none

/-! ### Regions (06 R138) -/

/-- A coded region's header as it is read. -/
structure Coded where
  w : Nat
  prot : Bool
  budget : Nat
  blocks : Nat
  lastBytes : Nat
  usedGran : Nat
  deriving DecidableEq, Repr

/-- The word of n bytes at an offset of a byte source. -/
def wordAt (rd : Nat → Byte) (off n : Nat) : Nat := Bits.ofBytes ((List.range n).map fun i => rd (off + i))

/-- Read a header; none where it is malformed (06 R145). DESIGN CHOICE (log entry 137): a length of the last block that
is no multiple of 64 from 64 to 4,096, and more than 1,048,576 blocks, make it malformed as well. -/
def readCoded (rd : Nat → Byte) : Option Coded :=
  let h := wordAt rd 0 64
  match elemWidth (Bits.range h 33 32) with
  | none => none
  | some w =>
    let c : Coded := ⟨w, h.testBit 34, Bits.range h 58 48, Bits.range h 95 64, Bits.range h 108 96, Bits.range h 159 128⟩
    if Bits.range h 31 0 != 0x434D7160 || c.blocks = 0 || 1048576 < c.blocks || c.lastBytes < 64 || 4096 < c.lastBytes ||
        c.lastBytes % 64 != 0 then none
    else some c

/-- Bytes of block i of the source. -/
def Coded.blockBytes (c : Coded) (i : Nat) : Nat := if i + 1 = c.blocks then c.lastBytes else 4096
/-- Bytes of the source. -/
def Coded.sourceBytes (c : Coded) : Nat := (c.blocks - 1) * 4096 + c.lastBytes
/-- Bytes of the header and the padded block map. -/
def mapEnd (blocks : Nat) : Nat := 64 + round64 (8 * blocks)
/-- The footprint of a source of n bytes (06 R138). -/
def footprint (n : Nat) : Nat :=
  let blocks := Bits.ceilDiv n 4096
  mapEnd blocks + 64 * Bits.ceilDiv blocks 16 + n

/-- A block map entry (06 Table CMP.2). -/
structure MapEntry where
  offset : Nat
  gran : Nat
  raw : Bool
  cyc : Nat
  deriving DecidableEq, Repr

/-- Map entry i. -/
def mapEntry (rd : Nat → Byte) (i : Nat) : MapEntry :=
  let e := wordAt rd (64 + 8 * i) 8
  ⟨Bits.range e 31 0, Bits.range e 38 32, e.testBit 39, Bits.range e 49 40⟩

/-- The leading non-zero entries of a table granule, each as its bytes (06 R145). -/
def tableValues (rd : Nat → Byte) (off w : Nat) : List (List Byte) :=
  ((List.range 16).map fun i => (List.range w).map fun j => rd (off + w * i + j)).takeWhile fun v => v.any (· != 0)

/-! ### Expansion (06 R140, R142, R144, R145) -/

/-- What the tokens of a frame decode to: the bytes, the tokens read, and whether none of them is reserved, names no value
of the table, or overruns the frame or the block. -/
structure Decoded where
  bytes : List Byte := []
  tokens : Nat := 0
  ok : Bool := true
  deriving DecidableEq, Repr

/-- Put a token's bytes before what follows it. -/
def Decoded.after (d : Decoded) (bs : List Byte) : Decoded := { d with bytes := bs ++ d.bytes, tokens := d.tokens + 1 }

/-- Decode the tokens of a frame into some elements, up to the first token that is malformed. -/
def decodeTokens (w : Nat) (tab : List (List Byte)) : Nat → List Byte → Nat → Decoded
  | _, _, 0 => {}
  | 0, _, _ + 1 => { ok := false }
  | _ + 1, [], _ + 1 => { ok := false }
  | fuel + 1, t :: bs, left + 1 =>
    let low := t.toNat % 64
    match t.toNat / 64 with
    | 0 =>
      let n := low + 1
      if left + 1 < n then { ok := false }
      else (decodeTokens w tab fuel bs (left + 1 - n)).after (List.replicate (n * w) 0)
    | 1 =>
      let n := low % 4 + 1
      match tab[low / 4]? with
      | none => { ok := false }
      | some v =>
        if left + 1 < n then { ok := false }
        else (decodeTokens w tab fuel bs (left + 1 - n)).after (List.replicate n v).flatten
    | 2 =>
      let n := low + 1
      if left + 1 < n || bs.length < n * w then { ok := false }
      else (decodeTokens w tab fuel (bs.drop (n * w)) (left + 1 - n)).after (bs.take (n * w))
    | _ => { ok := false }

/-- The expansion cost of a block of s source bytes: raw, or coded in some tokens (06 R142). -/
def blockCycles (raw : Bool) (tokens s : Nat) : Nat :=
  if raw then Bits.ceilDiv s 256 else max (Bits.ceilDiv tokens 8) (Bits.ceilDiv s 256) + 2

/-- Block i: what it decodes to, with its frame's raw flag. A group whose first map entry has offset 0 leaves no granule
for its table and is malformed: DESIGN CHOICE (log entry 137). -/
def expandBlock (rd : Nat → Byte) (c : Coded) (i : Nat) : Decoded × Bool :=
  let e := mapEntry rd i
  let n := c.blockBytes i
  let first := (mapEntry rd (i / 16 * 16)).offset
  if e.gran = 0 || 64 < e.gran || c.usedGran < e.offset + e.gran || first = 0 then ({ ok := false }, e.raw)
  else
    let frame := (List.range (e.gran * 64)).map fun j => rd (e.offset * 64 + j)
    if e.raw then ({ bytes := frame.take n, ok := decide (n ≤ frame.length) }, true)
    else (decodeTokens c.w (tableValues rd ((first - 1) * 64) c.w) (frame.length + 1) frame (n / c.w), false)

/-- What an expander did: the bytes, the blocks decoded coded and raw, its cycles, and the block it found malformed. -/
structure Expanded where
  bytes : List Byte := []
  coded : Nat := 0
  raw : Nat := 0
  cycles : Nat := 0
  bad : Option Nat := none
  deriving DecidableEq, Repr

/-- Expand blocks in ascending order: those that hold no byte read are passed over as zeros, and a malformed one ends the
expansion at its first malformed token, with zeros for the rest of the operand (06 R145). -/
def expandBlocks (rd : Nat → Byte) (c : Coded) (needed : Nat → Bool) : List Nat → Expanded → Expanded
  | [], x => x
  | i :: is, x =>
    if !needed i then expandBlocks rd c needed is { x with bytes := x.bytes ++ List.replicate (c.blockBytes i) 0 }
    else
      match expandBlock rd c i with
      | (d, raw) =>
        if !d.ok then { x with bytes := x.bytes ++ d.bytes, bad := some i }
        else
          expandBlocks rd c needed is
            { x with bytes := x.bytes ++ d.bytes, coded := x.coded + Bits.ofBool (!raw), raw := x.raw + Bits.ofBool raw,
                     cycles := x.cycles + blockCycles raw d.tokens (c.blockBytes i) }

/-- Expand the blocks of a region that hold a byte read; w is the width that the reading entry declares. DESIGN CHOICE
(log entry 137): a malformed header is reported as block 0. -/
def expandRegion (rd : Nat → Byte) (w : Nat) (needed : Nat → Bool) : Expanded :=
  match readCoded rd with
  | none => { bad := some 0 }
  | some c => if c.w != w then { bad := some 0 } else expandBlocks rd c needed (List.range c.blocks) {}

/-! ### Coding (06 R139 to R143) -/

/-- Elements of w bytes as unsigned integers. -/
def elements (w : Nat) : Nat → List Byte → List Nat
  | 0, _ => []
  | n + 1, bs => Bits.ofBytes (bs.take w) :: elements w n (bs.drop w)

/-- Count a value in a table of counts. -/
def countValue (t : Table Nat) (v : Nat) : Table Nat := Table.set t v (Table.get 0 t v + 1)

/-- The value table of a group: the values that occur at least twice, up to 16, by descending count, then ascending
value. -/
def valueTable (es : List Nat) : List Nat :=
  let counts := (es.filter (· != 0)).foldl countValue []
  let often := counts.filter fun c => 2 ≤ c.2
  ((Lists.sortBy (fun (a b : Nat × Nat) => decide (b.2 < a.2) || (a.2 == b.2 && decide (a.1 ≤ b.1))) often).take 16).map (·.1)

/-- The tokens of a block by the greedy rule, each as its bytes. -/
def codeTokens (w : Nat) (tab : List Nat) : Nat → List Nat → List (List Byte)
  | 0, _ => []
  | _, [] => []
  | fuel + 1, e :: es =>
    if e = 0 then
      let n := min 64 (1 + (es.takeWhile (· == 0)).length)
      [BitVec.ofNat 8 (n - 1)] :: codeTokens w tab fuel (es.drop (n - 1))
    else
      match tab.findIdx? (· == e) with
      | some i =>
        let n := min 4 (1 + (es.takeWhile (· == e)).length)
        [BitVec.ofNat 8 (64 + 4 * i + (n - 1))] :: codeTokens w tab fuel (es.drop (n - 1))
      | none =>
        let n := min 64 (1 + (es.takeWhile fun x => x != 0 && !tab.contains x).length)
        (BitVec.ofNat 8 (128 + n - 1) :: ((e :: es).take n).flatMap fun x => Bits.toBytes w x) ::
          codeTokens w tab fuel (es.drop (n - 1))

/-- A block as it is stored: its frame, and its raw flag and cycles. A budget of 16 makes every block raw, a short last
one too (06 R143). -/
def codeBlock (w b : Nat) (prot : Bool) (tab : List Nat) (src : List Byte) : List Byte × Bool × Nat :=
  let s := src.length
  let es := elements w (s / w) src
  let ts := codeTokens w tab es.length es
  let bytes := ts.flatten
  let c := blockCycles false ts.length s
  if prot || b ≤ 16 || b < c || Bits.ceilDiv s 64 ≤ Bits.ceilDiv bytes.length 64 then (src, true, blockCycles true 0 s)
  else (bytes ++ List.replicate (round64 bytes.length - bytes.length) 0, false, c)

/-- Cut bytes into pieces of k. -/
def chunksOf (k : Nat) : Nat → List Byte → List (List Byte)
  | 0, _ => []
  | fuel + 1, bs => if bs.isEmpty then [] else bs.take k :: chunksOf k fuel (bs.drop k)

/-- A coded region being written: its map entries, the granules after the map, and the blocks stored coded and raw. -/
structure Coding where
  entries : List Nat := []
  body : List Byte := []
  coded : Nat := 0
  raw : Nat := 0
  deriving DecidableEq, Repr

/-- Add a block to a region whose body starts at granule base. -/
def Coding.addBlock (x : Coding) (base w b : Nat) (prot : Bool) (tab : List Nat) (src : List Byte) : Coding :=
  let (frame, raw, c) := codeBlock w b prot tab src
  let e := packBits [(base + x.body.length / 64, 0), (Bits.ceilDiv frame.length 64, 32), (Bits.ofBool raw, 39), (c, 40)]
  let pad := List.replicate (round64 frame.length - frame.length) (0 : Byte)
  ⟨x.entries ++ [e], x.body ++ frame ++ pad, x.coded + Bits.ofBool (!raw), x.raw + Bits.ofBool raw⟩

/-- Add a group: its table granule and the frames of its blocks. -/
def Coding.addGroup (x : Coding) (base w b : Nat) (prot : Bool) (src : List Byte) : Coding :=
  let tab := if prot then [] else valueTable (elements w (src.length / w) src)
  let gran := (tab.flatMap fun v => Bits.toBytes w v) ++ List.replicate (64 - w * tab.length) 0
  (chunksOf 4096 17 src).foldl (fun y blk => y.addBlock base w b prot tab blk) { x with body := x.body ++ gran }

/-- The coded region of a source (06 R138, R151), with the blocks stored coded and raw. The source is a multiple of 64
bytes. -/
def codeRegion (w b : Nat) (prot : Bool) (src : List Byte) : List Byte × Nat × Nat :=
  let n := src.length
  let blocks := Bits.ceilDiv n 4096
  let base := mapEnd blocks / 64
  let x := (chunksOf 65536 (n / 65536 + 1) src).foldl (fun y grp => y.addGroup base w b prot grp) ({} : Coding)
  let last := n - (blocks - 1) * 4096
  let header := packBits [(0x434D7160, 0), (Nat.log2 w, 32), (Bits.ofBool prot, 34), (b, 48), (blocks, 64), (last, 96),
    (base + x.body.length / 64, 128)]
  let map := x.entries.flatMap fun (e : Nat) => Bits.toBytes 8 e
  (Bits.toBytes 64 header ++ map ++ List.replicate (mapEnd blocks - 64 - map.length) 0 ++ x.body, x.coded, x.raw)

/-- Cycles of a compressor lane for a source (06 R148). -/
def laneCycles (n : Nat) : Nat := Bits.ceilDiv n 256 + 320

/-! ### Budget entries (06 Table CMP.4) -/

namespace Budget
def use (r : BitVec 128) : Nat := fld r 7 0
def elem (r : BitVec 128) : Nat := fld r 9 8
def b (r : BitVec 128) : Nat := fld r 21 11
def lane (r : BitVec 128) : Nat := fld r 23 22
def tile (r : BitVec 128) : Nat := fld r 27 24
def cluster (r : BitVec 128) : Nat := fld r 30 28
def op (r : BitVec 128) : Nat := fld r 47 32
def dstBase (r : BitVec 128) : Nat := fld r 71 48
def dstSpace (r : BitVec 128) : Nat := fld r 75 72
/-- The reserved bits of an entry. -/
def reserved : BitVec 128 := BitVec.ofNat 128 (packBits [(1, 10), (1, 31), (2 ^ 52 - 1, 76)])
/-- The element width that the entry declares. -/
def width (r : BitVec 128) : Nat := 2 ^ elem r
end Budget

/-- The entry of a use that names an operand or a result of a record, with its number. -/
def Image.budgetOf (i : Image) (use cluster tile op : Nat) : Option (BitVec 128) :=
  i.budgets.find? fun r => Budget.use r == use && Budget.cluster r == cluster && Budget.tile r == tile && Budget.op r == op

end Sys2Proof.Machine
end

