-- ==== Sys2Proof/Machine/MemCtl.lean ====
section
/-! DEFINITION. The stacked-memory controller (08): patrol scrub, the copy of a retiring rank, refresh, the spare policy,
what leaves a region that is out of service, and the passing of time. -/

namespace Sys2Proof.Machine

/-- PATROL_SCRUB of one line of a cluster's range: it treats what it finds as a read does, and faults no context. A line
of a retired rank is not scrubbed. -/
def patrolScrubEffect (c : Fin 8) (line : Nat) (o : ReadOutcome) (s : State) : State :=
  let l := locate c.val (line * 64)
  if !s.stacksRun || clusterLines ≤ line || ((s.stackRanks l.stack).rank l.rank == 3 && !(s.stackRanks l.stack).spares l.rank) then s
  else s.meets c.val (line * 64) true o

def execPatrolScrub (c : Fin 8) (line : Nat) (o : ReadOutcome) (s : State) : Result := .next (patrolScrubEffect c line o s)

/-- Bytes of a rank, and those that a copy has to reach before its last lines. -/
def rankBytes : Nat := 12884901888

/-- The rank of a stack that is being copied. -/
def RankState.retiring (x : RankState) : Option Nat :=
  if x.spareUsed && x.rank x.spareFor.toNat == 2 then some x.spareFor.toNat else none

/-- Lines of a stack's rank whose index lies in a range. -/
def linesOf (stack rank first last : Nat) : List Nat :=
  (List.range (last - first)).flatMap fun i => (List.range 32).flatMap fun h => (List.range 4).map fun k =>
    lineAt stack h (k / 2) rank (first + i) (k % 2)

/-- Carry the copy of a retiring rank on until so many bytes are copied (08 R195): a line that cannot be read, as free
values say, is written to the spare as poison and reported. -/
def State.copyTo (s : State) (stack rank bytes : Nat) : State :=
  let done := (s.stackRanks stack).copied
  let bad := (linesOf stack rank (done / 8192) (bytes / 8192)).filter (Config.copyFails s.free)
  let s := bad.foldl State.poisonLine s.takeFree.2
  s.modRanks stack fun y => { y with copied := bytes }

/-- A microsecond of the copy: 32 to 100 GB/s, a free value (08 R196, log entry 44); the last lines are left to
RANK_COPY_DONE. -/
def State.copyTick (s : State) (stack : Nat) : State :=
  match (s.stackRanks stack).retiring with
  | none => s
  | some r =>
    if !s.stacksRun then s
    else
      let (v, s) := s.takeFree
      let want := (s.stackRanks stack).copied + 32000 + v.toNat % 68001
      if want ≤ rankBytes - 8192 then s.copyTo stack r want else s

/-- RANK_COPY_DONE: the last line is copied, and the rank is retired (08 R195). -/
def rankCopyDoneEffect (stack : Fin 6) (s : State) : State :=
  match (s.stackRanks stack.val).retiring with
  | none => s
  | some r =>
    if !s.stacksRun then s
    else
      let s := (s.copyTo stack.val r rankBytes).modRanks stack.val fun y => y.setRank r 3
      (s.eventMgmts 0x0031 stack.val r 0).report 0x02 stack.val r 0

def execRankCopyDone (stack : Fin 6) (s : State) : Result := .next (rankCopyDoneEffect stack s)

/-- REFRESH: a stack's reading sets the rate at which its rows are refreshed (08 R186). -/
def refreshEffect (stack : Fin 6) (reading : BitVec 8) (s : State) : State :=
  let t := celsius reading
  let was := s.memc.doubled[stack]
  { s with memc := { s.memc with doubled := s.memc.doubled.set stack (if 85 < t then true else if t ≤ 82 then false else was) } }

def execRefresh (stack : Fin 6) (reading : BitVec 8) (s : State) : Result := .next (refreshEffect stack reading s)

/-! ### The spare policy (08 R180, R181) -/

/-- The ranks of a stack under policy none. -/
def RankState.toNone (x : RankState) : RankState :=
  if x.rank 3 = 1 ∧ !x.spareUsed then { x.setRank 3 0 with spareSpent := true } else x

/-- The ranks of a stack under policy one. -/
def RankState.toOne (x : RankState) : RankState :=
  if x.rank 3 = 0 then
    match [0, 1, 2].find? fun r => x.rank r == 3 with
    | some r => { x.setRank 3 1 with spareUsed := true, spareFor := BitVec.ofNat 2 r, spareSpent := true }
    | none => { x.setRank 3 1 with spareUsed := false, spareSpent := false }
  else x

/-- A write of MEMC_SPARE_CFG: policy in bit 0, rej cleared by a 1 in bit 1. -/
def State.writeSpareCfg (s : State) (value : BitVec 32) : State :=
  let want := value.getLsbD 0
  if want = s.memc.policy then
    if value.getLsbD 1 then { s with memc := { s.memc with rej := false } } else s
  else if !s.ptnNos.isEmpty then { s with memc := { s.memc with rej := true } }
  else
    let s := { s with memc := { s.memc with policy := want, rej := s.memc.rej && !value.getLsbD 1 } }
    (List.range 6).foldl (fun st k => st.modRanks k fun x => if want then x.toOne else x.toNone) s

/-- Return a retired rank to service (08 R199, DBG.UNRETIRE). The spec does not say what becomes of the spare (log entry
166, DESIGN CHOICE): a rank whose lines the spare carries takes them back, and rank 3 stands as the spare again or, under
policy none, as an ordinary rank, unless it is itself retired; a retired rank 3 carries on with what it carried, else it
stands as the spare or, under policy none, as an ordinary rank. -/
def State.unretire (s : State) (stack rank : Nat) : State :=
  s.modRanks stack fun x =>
    if x.rank rank != 3 then x
    else if rank = 3 then
      if x.spareUsed then x.setRank 3 1
      else if s.memc.policy then { x.setRank 3 1 with spareSpent := false }
      else x.setRank 3 0
    else if x.spares rank then
      let gone := x.rank 3 == 3
      let y := if gone then x else x.setRank 3 (if s.memc.policy then 1 else 0)
      { y.setRank rank 0 with spareUsed := false, spareSpent := gone || !s.memc.policy, copied := 0 }
    else x.setRank rank 0

/-- Entry to Still: a rank still being copied becomes retired with its spare mapping complete (08 R199). -/
def RankState.settle (x : RankState) : RankState :=
  if x.spareUsed ∧ x.rank x.spareFor.toNat = 2 then { x.setRank x.spareFor.toNat 3 with copied := rankBytes } else x

/-! ### Evacuation (08 R197) -/

/-- Copy k units of a cluster's tier 1, with their poison and its reports. -/
def State.copyUnits (s : State) (cluster u v k : Nat) : State :=
  let s := s.writeTier 1 cluster (v * unitBytes) (s.readTier 1 cluster (u * unitBytes) (k * unitBytes))
  s.movePoison (poisonLineOf 1 cluster (u * unitBytes)) (poisonLineOf 1 cluster (v * unitBytes)) (k * unitBytes / 64)

/-- Give a page's unit another place, in every sequence, handle and binding that names it. -/
def State.rehome (s : State) (cluster u v : Nat) : State :=
  let f := fun (g : Page) => if g.cluster = cluster ∧ g.unit = u ∧ !g.dropped then { g with unit := v } else g
  let slot := fun (sl : Slot) => { sl with prior := sl.prior.map f }
  let run := fun (r : Run) => { r with slots := r.slots.map slot }
  let seq := fun (x : Seq) => { x with pages := x.pages.map f }
  let handle := fun (h : Handle) => { h with pages := h.pages.map f }
  let s := s.seqs.foldl (fun st x =>
    let nos := (x.pages.filter fun g => g.cluster == cluster && g.unit == u && !g.dropped).map (·.no)
    if nos.isEmpty then st else st.invalidate (ptnOf x.ctx) x.index nos.contains) s
  let s := { s with seqs := s.seqs.map seq, handles := s.handles.map handle }
  s.ptnNos.foldl (fun st p => st.modPtn p fun x => { x with run := x.run.map run, settling := x.settling.map run }) s

/-- Move a page's unit to a free unit of its cluster; it stays where none is free. -/
def State.evacuateUnit (s : State) (cluster u : Nat) : State :=
  match s.freeUnit 1 cluster 1 1 with
  | none => s
  | some v => (s.copyUnits cluster u v 1).rehome cluster u v

/-- Move the units of a partition's samples. -/
def State.evacuateSamples (s : State) (p : Nat) (x : Partition) : State :=
  let us := (x.records.flatMap (·.units)).filter fun (_, u) => s.unitOut u
  us.foldl (fun st (c, u) =>
    match st.freeUnit 1 c 1 1 with
    | none => st
    | some v =>
      let f := fun (y : Nat × Nat) => if y = (c, u) then (c, v) else y
      (st.copyUnits c u v 1).modPtn p fun y => { y with records := y.records.map fun r => { r with units := r.units.map f } }) s

/-- What the keeper evacuates beside the reserve and samples: a residence tile of an object, or the page in a unit. -/
inductive Evacuee where
  | tile (c : CtxNo) (base : BitVec 42) (i cluster k : Nat)
  | page (cluster unit : Nat)
  deriving DecidableEq, Repr

/-- Compare lists of numbers, the first that differ deciding. -/
def lexLe : List Nat → List Nat → Bool
  | [], _ => true
  | _ :: _, [] => false
  | a :: as, b :: bs => a < b || (a == b && lexLe as bs)

/-- The tiles and pages of a partition that lie in regions out of service, in the order of their evacuation (08 R197):
pinned tiles, loaded images among them, then the rest in age order (07 R164, 09 R223); what the run in progress binds is
left out (07 R161). -/
def State.evacuees (s : State) (p : Nat) : List Evacuee :=
  let bound := s.boundObjs p
  let tiles := (s.objs.filter fun o => ptnOf o.ctx == p && !bound.contains (o.ctx, o.desc.vbase)).flatMap fun o =>
    let k := tileUnits o.desc
    let held := o.desc.pin || s.loaded o.ctx o.desc.vbase
    let out := o.tiles.zipIdx.filter fun (t, i) =>
      t.place.tier == 1 && !s.migrating o.ctx o.desc.vbase i && (List.range k).any fun j => s.unitOut (t.place.unit + j)
    out.map fun (t, i) => ([if held then 0 else 1, if held then 0 else t.lastUse.toNat, o.ctx.toNat, 0, o.desc.vbase.toNat, i],
      Evacuee.tile o.ctx o.desc.vbase i t.place.cluster k)
  let held := (s.seqsOf p).flatMap fun y => if s.seqBound y then y.pages else []
  let free := fun (g : Page) => !g.dropped && s.unitOut g.unit && !(held.any fun y => y.cluster == g.cluster && y.unit == g.unit)
  let own := (s.seqsOf p).flatMap fun y => (y.pages.filter free).map fun g =>
    ([1, y.stamp.toNat, y.ctx.toNat, 1, y.index, g.no], Evacuee.page g.cluster g.unit)
  let kept := (s.handles.filter fun h => h.ptn == p).flatMap fun h => (h.pages.filter free).map fun g =>
    ([2, 0, h.ctx.toNat, 1, 0, g.no], Evacuee.page g.cluster g.unit)
  ((Lists.sortBy (fun (a b : List Nat × Evacuee) => lexLe a.1 b.1) (tiles ++ own ++ kept)).map (·.2)).eraseDups

/-- Evacuate one tile or page: a tile begins to migrate, a page moves at once. -/
def State.evacuateOne (s : State) : Evacuee → State
  | .tile c base i cluster k =>
    match s.freeUnit 1 cluster k k with
    | some u => s.startMigration c base i ⟨1, cluster, u⟩
    | none => s
  | .page cluster u => s.evacuateUnit cluster u

/-- Where a partition's reserve goes when it lies in a region out of service, if there is room for it. -/
def State.reserveDest (s : State) (x : Partition) : Option Nat :=
  let k := x.n * 64 + 4 * (x.share / 4096)
  if (List.range k).any fun i => s.unitOut (x.reserve + i) then s.freeUnit 1 x.low k 1 else none

/-- Units of one thing to be evacuated. -/
def Evacuee.units : Evacuee → Nat
  | .tile _ _ _ _ k => k
  | .page .. => 1

/-- Evacuate a partition's reserve, samples, tiles and pages at a boundary (08 R197). What found no room is reported as
residual excess (07 R172), once no reclaim that could make room for it is in progress. -/
def State.evacuate (s : State) (p : Nat) : State :=
  match s.ptn? p with
  | none => s
  | some x =>
    let s := match s.reserveDest x with
      | some v => (s.copyUnits x.low x.reserve v (x.n * 64 + 4 * (x.share / 4096))).modPtn p fun y => { y with reserve := v }
      | none => s
    let s := s.evacuateSamples p x
    let s := (s.evacuees p).foldl State.evacuateOne s
    let left := (s.evacuees p).foldl (fun n e => n + e.units) 0
    if left = 0 || x.reclaiming then s
    else s.modPtn p fun y => { y with residT1 := BitVec.ofNat 23 (max y.residT1.toNat left) }

/-- Whether nothing that the keeper evacuates before a tile finds room (08 R197): the reserve, which moves at a boundary,
samples, and the tiles and pages before it. -/
def State.evacTurn (s : State) (c : CtxNo) (base : BitVec 42) (tile : Nat) : Bool :=
  let first := (s.ptn? (ptnOf c)).all fun x => (s.reserveDest x).isNone &&
    (x.records.flatMap (·.units)).all fun (k, u) => !s.unitOut u || (s.freeUnit 1 k 1 1).isNone
  first && (before (fun e => match e with
      | Evacuee.tile d b i _ _ => d == c && b == base && i == tile
      | .page .. => false) (s.evacuees (ptnOf c))).all fun e =>
    match e with
    | .tile _ _ _ cluster k => (s.freeUnit 1 cluster k k).isNone
    | .page cluster _ => (s.freeUnit 1 cluster 1 1).isNone

end Sys2Proof.Machine
end

