-- ==== Sys2Proof/Machine/Beats.lean ====
section
/-! DEFINITION. Beats and runs (05 R120 to R135, 10 R246 to R266): dispatch and admission, collect, the boundary with all
that it applies, slips, and the end of a run with its verification. -/

namespace Sys2Proof.Machine

/-! ### The run of a partition -/

/-- The run in progress of a partition. -/
def State.run? (s : State) (p : Nat) : Option Run := (s.ptn? p).bind (·.run)
/-- Change the run in progress. -/
def State.modRun (s : State) (p : Nat) (f : Run → Run) : State := s.modPtn p fun x => { x with run := x.run.map f }
/-- Beats of a run's image. -/
def State.beatsOf (s : State) (r : Run) : Nat := ((s.image? r.ctx r.image).map Image.nBeats).getD 0

/-- Whether a partition's beat ring runs: the device is in Run and the partition is neither resetting nor out of
service (05 R120). -/
def State.ringRuns (s : State) (p : Nat) : Bool :=
  s.power == .run && ((s.ptn? p).map fun x => x.status == .running && !x.destroying).getD false

/-- Whether the lead sequencer of a partition works, so that it admits, verifies and applies commits (16 R411). -/
def State.leadWorks (s : State) (p : Nat) : Bool :=
  ((s.ptn? p).map fun x => !s.restarting (sequencerIsland x.low)).getD false

/-- Whether an image holds peer endpoints. -/
def Image.usesPeers (i : Image) : Bool := i.allMoves.any fun m => Mv.dstKind m == 6

/-- Whether a partition belongs to a formed lockstep group (13 R341). -/
def State.lockstep (s : State) (p : Nat) : Option Group := (s.group? p).filter fun g => g.state == 2 && g.lockstep

/-! ### RUN_DISPATCH (10 R246, R259) -/

/-- Whether a run of a Guarded partition waits for a slot's reserved step (10 R259): one has its slot, or the run would
end after the next slot falls due. -/
def State.passesSlot (s : State) (x : Partition) (r : Run) : Bool :=
  x.live.guarded &&
    (x.queue.any (fun y => y.reserved.isSome) ||
      (x.slotTime x.slotNo - s.now) * 1000 * x.live.fG < s.beatsOf r * x.live.beatLen * 160)

/-- The run that starts next: a reserved step whose slot has fallen due, else the oldest run that is not a reserved step,
unless it would pass the next slot. -/
def State.nextRun (s : State) (x : Partition) : Option Run :=
  match x.queue.find? fun r => r.reserved.isSome with
  | some r => some r
  | none =>
    match x.queue.find? fun r => !x.reserves r.ctx r.isStep with
    | some r => if s.passesSlot x r then none else some r
    | none => none

/-- Take a run out of a partition's queue. -/
def State.unqueue (s : State) (p : Nat) (r : Run) : State :=
  s.modPtn p fun x => { x with queue := x.queue.filter fun y => y.q != r.q }

/-- Whether a run's bindings name a sequence that waits to be settled (16 R405). -/
def Partition.settles (x : Partition) (r : Run) : Bool :=
  x.settling.any fun y => y.slots.any fun a => r.slots.any fun b => a.seq == b.seq

/-- RUN_DISPATCH: the next run is admitted, or its command completes with what refuses it. A run of no beats is held until
the next boundary, where it completes with ST_OK_EMPTY (05 R135). -/
def runDispatchEffect (p : Fin 8) (s : State) : State :=
  match s.ptn? p.val with
  | none => s
  | some x =>
    if x.run.isSome || !s.ringRuns p.val || !s.leadWorks p.val || s.restarting (keeperIsland p.val) then s
    else
      match s.nextRun x with
      | none => s
      | some r =>
        if x.settles r || ((s.ctx? r.ctx).bind (·.reset)).isSome then s
        else
          let s := s.unqueue p.val r
          if s.beatsOf r = 0 then s.modPtn p.val fun y => { y with run := some { r with ended := true } }
          else if ((s.image? r.ctx r.image).map Image.usesPeers).getD false && (s.group? p.val).isNone then
            s.finish r.q stPeerLost 0 0
          else
            let s := r.slots.foldl (fun st sl => match st.seq? sl.seq with
              | some y => st.loseIfGone y.index
              | none => st) s
            -- the run stands as the run in progress while its pages are admitted, so that none of them is evicted
            let s := s.modPtn p.val fun y => { y with run := some r }
            match s.admitRun p.val r with
            | (s', .ok r') => s'.modPtn p.val fun y => { y with run := some r' }
            | (s', .error st) => (s'.modPtn p.val fun y => { y with run := none }).finish r.q st 0 0

def execRunDispatch (p : Fin 8) (s : State) : Result := .next (runDispatchEffect p s)

/-- DRIZZLE_RAMP_DONE: the ramp before a run's first beat is complete (15 R388). -/
def drizzleRampDoneEffect (p : Fin 8) (s : State) : State :=
  s.modRun p.val fun r => if r.admitted && !r.released then { r with drizzle := true } else r

def execDrizzleRampDone (p : Fin 8) (s : State) : Result := .next (drizzleRampDoneEffect p s)

/-! ### MEMBER_COLLECT (05 R119, R120, R123) -/

/-- The run whose beat is open, as the members see it. -/
def Partition.openRun (x : Partition) : Option Run :=
  x.run.filter fun r => r.admitted && r.released && !r.ended && !r.stopped

/-- The key of a tile's position in its records. -/
def opKey (cluster tile : Nat) : Nat := cluster * 16 + tile

/-- The records of a tile that a run has still to execute up to and in the open beat. -/
def State.opsLeft (s : State) (r : Run) (k tile : Nat) : List OpRec :=
  match s.image? r.ctx r.image with
  | none => []
  | some img => ((img.opsOf k tile).drop (Table.get 0 r.nextOp (opKey k tile))).takeWhile fun o => Op.beat o ≤ r.beat

/-- The results of a run's tile that wait to be coded in the open beat (06 R148): records done, their coding not. -/
def State.toCode (s : State) (r : Run) (k tile : Nat) : List (BitVec 128 × Nat) :=
  match s.image? r.ctx r.image with
  | none => []
  | some img =>
    img.budgets.zipIdx.filter fun (e, i) =>
      Budget.use e == 2 && Budget.cluster e == k && Budget.tile e == tile &&
        Budget.op e < Table.get 0 r.nextOp (opKey k tile) && !r.coded.contains i

/-- The move records of a cluster that a run has still to issue in the open beat, with their indices. -/
def State.movesLeft (s : State) (r : Run) (k : Nat) : List (MoveRec × Nat) :=
  match s.image? r.ctx r.image with
  | none => []
  | some img => (img.movesOf k).zipIdx.filter fun (m, i) => Mv.beat m ≤ r.beat && !r.issued.contains (k, i)

/-- Whether a member of a cluster has finished its work of the open beat. -/
def State.memberDone (s : State) (p : Nat) (x : Partition) (c member : Nat) : Bool :=
  match x.openRun with
  | none => true
  | some r =>
    if member < 14 then (s.opsLeft r (c - x.low) member).isEmpty && (s.toCode r (c - x.low) member).isEmpty
    else
      (s.movesLeft r (c - x.low)).isEmpty &&
        s.moves.all fun m => m.ptn != p || m.cluster != c || r.beat < m.lastBeat

/-- MEMBER_COLLECT: the member passes the collect token on once its work is done and its buffers are written back. -/
def memberCollectEffect (c : Fin 8) (member : Fin 15) (s : State) : State :=
  match s.ptnOfCluster c.val with
  | none => s
  | some p =>
    match s.ptn? p with
    | none => s
    | some x =>
      if !s.ringRuns p || x.beat.closed || x.beat.collected.contains (c.val, member.val) then s
      else if s.memberDone p x c.val member.val then
        (s.flushTile c.val member.val).modPtn p fun y =>
          { y with beat := { y.beat with collected := y.beat.collected ++ [(c.val, member.val)] } }
      else s

def execMemberCollect (c : Fin 8) (member : Fin 15) (s : State) : Result := .next (memberCollectEffect c member s)

/-! ### Closing a beat (05 R120, R125, R127; 07 R161, R171; 20 R487, R490) -/

/-- Cycles of a beat of a partition: L and the observation extension of the run whose beat is open (05 R126). -/
def State.beatCycles (s : State) (x : Partition) : Nat :=
  x.live.beatLen + (x.openRun.map s.extension).getD 0

/-- Whether a context's charge lies above a limit that CTX.LIMIT has set (07 R169, R175): a limit that follows the quota
is the partition's affair. -/
def State.aboveLimit (s : State) (c : CtxNo) : Bool :=
  (s.ctx? c).any fun x =>
    x.limT0.any (fun l => l < s.ctxCharge c 0) || x.limT1.any fun l => l < s.ctxCharge c 1

/-- Enter the over-quota state of a context whose limits lie below its charge (07 R175). -/
def State.cutContext (s : State) (c : CtxNo) : State :=
  if s.pooled (ptnOf c) || !s.aboveLimit c then s
  else
    (s.modCtx c fun x => { x with overLimit := true, reclaiming := true, reclaimOff := false }).event
      (.ctx (mgmt (ptnOf c))) 0x0020 c.toNat 0 0

/-- End a context's reclaim, and its over-quota state, where nothing of it is left to do (07 R174, R175):
EV_QUOTA_RECLAIMED ends a reclaim in progress, EV_QUOTA_CLEAR the state. -/
def State.clearContext (s : State) (c : Context) : State :=
  let m := Ring.ctx (mgmt (ptnOf c.no))
  let s := s.modCtx c.no fun x => { x with overLimit := false, reclaiming := false, reclaimOff := false }
  let s := if c.reclaiming then s.event m 0x0021 c.no.toNat 0 0 else s
  if c.overLimit then s.event m 0x0022 c.no.toNat 0 0 else s

/-- The contexts that resets took out of a partition's reclaim take part in the next one. -/
def State.joinReclaim (s : State) (p : Nat) : State :=
  (s.ctxsOf p).foldl (fun st c => if c.reclaiming then st else st.modCtx c.no fun y => { y with reclaimOff := false }) s

/-- Apply a committed quota (07 R171, R174): over the charge it clears the over-quota state, below it enters it;
contexts above their limits follow when the partition leaves pool mode, and their own over-quota states end when it
enters it. The context argument of a partition's own events is 0xFFF. DESIGN CHOICE: a later commit that still lies
below the charge delivers EV_OVER_QUOTA again, and tiles that a context reset took out of the reclaim in progress belong
to the reclaim of the new target (log entry 165). -/
def State.applyQuota (s : State) (p : Nat) (wasPooled : Bool) : State :=
  match s.ptn? p with
  | none => s
  | some x =>
    let o0 := s.quota p 0 < s.charge p 0
    let o1 := s.quota p 1 < s.charge p 1
    let was := x.overT0 || x.overT1
    let s := if o0 || o1 then
        (s.modPtn p fun y => { y with overT0 := o0, overT1 := o1, reclaiming := true }).event
          (.ctx (mgmt p)) 0x0020 0xFFF 0 0 |>.joinReclaim p
      else if was then
        let s := s.modPtn p fun y => { y with overT0 := false, overT1 := false, reclaiming := false, residT0 := 0, residT1 := 0 }
        let s := if x.reclaiming then s.event (.ctx (mgmt p)) 0x0021 0xFFF 0 0 else s
        s.event (.ctx (mgmt p)) 0x0022 0xFFF 0 0
      else s
    if wasPooled && !x.live.pool then (s.ctxsOf p).foldl (fun st c => st.cutContext c.no) s
    else if x.live.pool && !wasPooled then (s.ctxsOf p).foldl State.clearContext s
    else s

/-- Of commits that apply together each keeps the blocks that no later one selects (05 R125, 12 R315). -/
def ownBlocks : List PendingCommit → List PendingCommit
  | [] => []
  | c :: cs => { c with sel := c.sel &&& ~~~(cs.foldl (fun m d => m ||| d.sel) 0) } :: ownBlocks cs

/-- Apply one pending commit (05 R125, 12 R315): the blocks it selects take its snapshot; a class block restarts the slot
grid (10 R258), a quota block is applied as a cut or a raise. PTN_COMMIT_STAT reads applied where no later commit was
refused or is pending still (12 Table CMD.12). -/
def State.applyCommit (s : State) (p : Nat) (c : PendingCommit) : State :=
  match s.ptn? p with
  | none => s
  | some x =>
    let live := PtnRegs.overlay c.sel.toNat c.snap x.live
    let srv := c.sel.getLsbD (PReg.sel .srv)
    let quota := c.sel.getLsbD (PReg.sel .quotaT0)
    let grid := fun (y : Partition) =>
      if srv then { y with slotBase := s.now, slotNo := 0, slots := 0, queue := y.queue.map fun r => { r with reserved := none } } else y
    let last := fun (y : Partition) =>
      if y.commitStat.state = 1 && y.commits.isEmpty then { y.commitStat with state := 2 } else y.commitStat
    let s := s.modPtn p fun y => grid { y with live := live, commitStat := last y }
    let s := if quota then s.applyQuota p x.live.pool else s
    match c.cmd with
    | some q => s.finish q stOk 0 0
    | none => s

/-- Apply the pending commits of a partition together; those made after the collect token had returned wait for the
boundary after this one (05 R125). -/
def State.applyCommits (s : State) (p : Nat) : State :=
  match s.ptn? p with
  | none => s
  | some x =>
    (ownBlocks (x.commits.filter fun c => !c.late)).foldl (fun st c => st.applyCommit p c)
      (s.modPtn p fun y => { y with commits := y.commits.filter (·.late) })

/-- Switch the migrated tiles of a partition (07 R161), which may leave it within its quotas (07 R171); this waits while
the keeper restarts (16 Table FLT.6). -/
def State.switchMigrations (s : State) (p : Nat) : State :=
  if s.restarting (keeperIsland p) then s
  else
    let mine := s.migrations.filter fun m => ptnOf m.ctx == p
    let s := mine.foldl (fun st m =>
      { st.moveTile m.ctx m.base m.tile m.dest with migrations := st.migrations.filter fun y => y != m }) s
    if mine.isEmpty then s else s.quotaClear p

/-- What the keeper moves of its own at a boundary (08 R197). -/
def State.keeperBoundary (s : State) (p : Nat) : State :=
  if s.restarting (keeperIsland p) then s else (s.switchMigrations p).evacuate p

/-- The arguments of EV_BEAT_SLIP: member in bits [7:0], record from bit 32 (log entry 31). -/
def slipArg (late : Nat × Nat) : Nat := packBits [(late.1, 0), (late.2, 32)]

/-- Filler that drizzle issued in the closing beat, in a run or in a ramp between runs: a free value in each cluster,
which the run's context counts too (15 R387, R388, 20 Table OBS.3, log entry 3). The engines act on the device registers
as they stood at the boundary that opened the beat (12 R316). -/
def State.drizzleFiller (s : State) (x : Partition) (r : Option Run) : State :=
  if !x.devSeen.drizzle then s
  else
    (List.range x.n).foldl (fun st k =>
      let (v, st) := st.takeFree
      let add := fun (i : Nat) (g : GroupCounters) => if i = x.low + k then { g with filler := g.filler + v } else g
      let st := { st with groups := st.groups.mapFinIdx fun i g _ => add i g }
      match r with
      | some y => st.count y.ctx 16 v.toNat
      | none => st) s

/-- Whether an accepted command has a deadline that has passed (12 R307). -/
def Accepted.pastDeadline (a : Accepted) (now : Nat) : Bool := a.q.deadline != 0 && a.since + a.q.deadline.toNat < now

/-- Test the deadline of a partition's run at a boundary (12 R307): a run past it completes with ST_DEADLINE, with a
record of kind 0x02 and a context reset. -/
def State.testDeadline (s : State) (p : Nat) : State :=
  match s.run? p with
  | none => s
  | some r =>
    match s.accepted.find? fun a => a.q == r.q with
    | none => s
    | some a =>
      if r.stopped || !a.pastDeadline s.now then s
      else
        ((s.checkReserved p { r with faulted := true }).finish r.q stDeadline 0 0).raiseFault
          { kind := 0x02, ptn := some p, ctx := some r.ctx, beat := r.beat, address := r.q.deadline.toNat }

/-- What the closing beat did for its run: watch points, trace, counters, the phase entry, and a slip that recovered. -/
def State.closeRunBeat (s : State) (p : Nat) (x : Partition) (r : Run) (ns fMin phase : Nat) : State :=
  let s := s.tileWatches r
  let s := ((s.drizzleFiller x (some r)).writeTrace r ns fMin phase).count r.ctx 27 1
  let s := s.updatePhase p r
  let s := if x.beat.slip.isSome then
      let s := (s.count r.ctx 28 1).event (.ctx r.ctx) 0x0010 0 r.beat (slipArg x.beat.late)
      s.modPtn p fun y => { y with beat := { y.beat with slips := y.beat.slips ||| 1 } }
    else s
  s.modRun p fun z => { z with ended := z.beat + 1 ≥ s.beatsOf r, wasHeld := false }

/-- A run of no beats completes at the boundary (05 R135). -/
def State.endEmptyRun (s : State) (p : Nat) : State :=
  match s.run? p with
  | some r =>
    if r.admitted || r.stopped || s.beatsOf r != 0 then s
    else (s.modPtn p fun x => { x with run := none }).finish r.q stOkEmpty 0 0
  | none => s

/-- Close the open beat of a partition: its work is in place. A swap takes effect and layers are left as the moves of the
beat have retired (11 R280, R281, log entry 161). -/
def State.closeBeat (s : State) (p ns : Nat) : State :=
  match s.ptn? p with
  | none => s
  | some x =>
    let f := x.fMin
    let s := match x.openRun with
      | some r => s.closeRunBeat p x r ns f x.power.phase
      | none => s.drizzleFiller x none
    let tick := fun (c : Nat) (g : GroupCounters) => if x.low ≤ c && c < x.low + x.n then { g with beats := g.beats + 1 } else g
    let s := { s with groups := s.groups.mapFinIdx fun i g _ => tick i g }
    let s := s.modPtn p fun y =>
      { y with beat := { y.beat with closed := true, fMin := BitVec.ofNat 8 f, lastNs := BitVec.ofNat 16 (min ns 65535) } }
    (s.weightsBoundary p).takeTrees

/-- What applies at the boundary that follows a closed beat, once: the beat count, what operations loaded for later beats,
migrations, commits, a run that ends or is discarded, and the test of its deadline. In a lockstep group that is the moment
of the release (13 R341); else it is done as the beat closes, and a partition that is then held only opens its next beat
later (log entry 161). -/
def State.applyBoundary (s : State) (p : Nat) : State :=
  match s.ptn? p with
  | none => s
  | some x =>
    if !x.beat.closed || x.beat.applied then s
    else
      let s := s.modPtn p fun y => { y with beat := { y.beat with count := y.beat.count + 1, applied := true } }
      let s := (s.applyLoads x.low x.n).keeperBoundary p
      let s := (if s.leadWorks p then s.applyCommits p else s).endEmptyRun p
      match s.run? p with
      | some r => if r.discard && !r.stopped then s.discardRun p else if r.released then s.testDeadline p else s
      | none => s

/-! ### Opening a beat (10 R262 to R264, 11 R283, 13 R339, 15 R379 to R388) -/

/-- The run and beat that a partition comes to next; none for an idle beat. -/
def Partition.comesTo (x : Partition) : Option (Run × Nat) :=
  match x.run with
  | none => none
  | some r =>
    if !r.admitted || r.ended || r.stopped then none
    else if r.released then some (r, r.beat + 1)
    else some (r, 0)

/-- The run and beat that a boundary would open; none for an idle beat. A run's first beat waits for its drizzle ramp,
except in a Guarded partition that has not been held (15 R388). -/
def State.candidate (s : State) (x : Partition) : Option (Run × Nat) :=
  x.comesTo.filter fun (r, _) => r.released || !s.live.drizzle || r.drizzle || (x.live.guarded && !r.wasHeld)

/-- Whether a run of a forming group is held before its first beat (13 R339). -/
def State.groupHeld (s : State) (p : Nat) (next : Option (Run × Nat)) : Bool :=
  match next, s.group? p with
  | some (r, 0), some g => g.state == 1 && ((s.image? r.ctx r.image).map Image.usesPeers).getD false
  | _, _ => false

/-- End a run that cannot go on at this boundary: one that would read a lost weight object (11 R289), or a group run whose
group is gone before its first beat (13 R339). -/
def State.endStranded (s : State) (p : Nat) : State :=
  match (s.ptn? p).bind (·.comesTo) with
  | none => s
  | some (r, b) =>
    if s.heldOnLost r b then s.endRun p stWgtLost
    else if b = 0 && ((s.image? r.ctx r.image).map Image.usesPeers).getD false && (s.group? p).isNone then s.endRun p stPeerLost
    else s

/-- Plan the boundary of a partition: steps of R379, the division of power, which the warden's restart leaves as it was
(16 Table FLT.6), and the holds. -/
def State.planBoundary (s : State) (p : Nat) : State :=
  let s := (s.endStranded p).refreshHolds
  match s.ptn? p with
  | none => s
  | some x =>
    let next := x.comesTo
    let s := s.modPtn p fun y => { y with power := { y.power with lower := y.power.lowered } }
    let s := if s.restarting wardenIsland then s else s.divideAt p next
    let wave := next.any fun (r, b) => s.waveHeld r b
    let grp := s.groupHeld p next
    s.modPtn p fun y => { y with holds := { y.holds with wave := wave, group := grp } }

/-- Open the next beat of a partition: the planned frequency, and the run's next beat or an idle one. Migrations made
since the beat closed are switched (07 R161), and commits made since its collect token returned apply at the boundary
after this one (05 R125). The partition's engines see the device registers of this moment (12 R316). While the warden
restarts the clocks are held (16 Table FLT.6). -/
def State.openBeat (s : State) (p : Nat) (idle : Bool) : State :=
  let s := s.switchMigrations p
  match s.ptn? p with
  | none => s
  | some x =>
    let next := if idle then none else s.candidate x
    let f := if s.restarting wardenIsland && x.power.fNow != 0 then min x.power.fNow (s.limitFrequency x)
      else s.planFrequency x next x.power.shareMw
    let held := x.run.any (·.wasHeld)
    let phase := next.bind fun (r, b) => (s.image? r.ctx r.image).map fun i => i.phaseAt b
    let power := { x.power with fBefore := x.power.fNow, fNow := f, fSet := f, belowFg := x.live.guarded && f < x.live.fG,
                                phase := phase.getD x.power.phase }
    let at_ := match x.run.bind fun r => s.ctx? r.ctx with
      | some c => (c.macs, c.t1Bytes)
      | none => (0, 0)
    let step := fun (r : Run) =>
      match next with
      | some (_, b) => { r with released := true, beat := b, slipped := false, macAt := at_.1, t1At := at_.2, wasHeld := held }
      | none => r
    let s := ((s.modPtn p fun y => { y with power := power }).setClocks).setIslands x.sequencers
    s.modPtn p fun y =>
      { y with run := y.run.map step, power := { power with dieMin := s.dieFrequency }, devSeen := s.live,
               commits := y.commits.map fun c => { c with late := false },
               beat := { y.beat with since := s.now, closed := false, applied := false, collected := [], slip := none, paused := 0 } }

/-- Mark the run that a hold keeps from its next beat. -/
def State.markHeld (s : State) (p : Nat) : State := s.modRun p fun r => { r with wasHeld := true }

/-! ### Group beats (13 R341, R342) -/

/-- What a member reports in its done frame: shape_id and n_beats of a run whose first beat it is ready to release. -/
def State.readyRun (s : State) (p : Nat) : Option (BitVec 64 × BitVec 32) :=
  match (s.ptn? p).bind s.candidate with
  | some (r, 0) => (s.image? r.ctx r.image).map fun i => (i.shapeId, BitVec.ofNat 32 i.nBeats)
  | _ => none

/-- The number that a release carries (log entry 32): 0 opens an idle beat, b + 1 beat b of the group run, all ones tells
that the reports differ. -/
def releaseMismatch : BitVec 64 := BitVec.allOnes 64

/-- Change which members are held. While one is, no slip timer of the group runs (13 R342). -/
def State.setHelds (s : State) (p : Nat) (f : List Nat → List Nat) : State :=
  s.modPtn p fun x =>
    match x.group with
    | none => x
    | some g =>
      let hs := f g.helds
      match g.heldAt with
      | none => { x with group := some { g with helds := hs, heldAt := if hs.isEmpty then none else some s.now } }
      | some t =>
        if hs.isEmpty then
          { x with group := some { g with helds := hs, heldAt := none },
                   beat := { x.beat with paused := x.beat.paused + (s.now - t) } }
        else { x with group := some { g with helds := hs } }

/-- What a group's partition holds of the group beat in progress is gone. -/
def State.clearDones (s : State) (p : Nat) : State :=
  (s.setHelds p fun _ => []).modGroup p fun g => { g with doneSent := false, dones := [] }

/-- Act on a release, which is the member's boundary (13 R341): what waits for it applies; then the reports differ, or an
idle beat opens, or the next beat of the run. -/
def State.takeRelease (s : State) (p : Nat) (beat : BitVec 64) : State :=
  let s := (s.clearDones p).applyBoundary p
  if beat = releaseMismatch then
    let s := match s.run? p with
      | some r => if r.released then s else s.endRun p stBadField
      | none => s
    s.openBeat p true
  else if beat = 0 && ((s.run? p).map fun r => !r.released).getD true then s.openBeat p true
  else s.openBeat p false

/-- The conductor releases once it holds the done of every member (13 R341, R342). -/
def State.conduct (s : State) (p : Nat) : State :=
  match s.lockstep p with
  | none => s
  | some g =>
    let got := fun (i : Nat) => g.dones.find? fun d => d.1 == i
    if g.index != 0 || !((List.range g.count).all fun i => (got i).isSome) then s
    else
      let reports := (List.range g.count).filterMap fun i => (got i).bind (·.2)
      let running := (s.run? p).any fun r => r.released && !r.ended
      let beat : BitVec 64 :=
        if running then BitVec.ofNat 64 ((((s.run? p).map (·.beat)).getD 0) + 2)
        else if reports.length < g.count then 0
        else if reports.all fun r => some r == reports.head? then 1 else releaseMismatch
      let s := g.others.foldl (fun st m => st.sendControl p m.1 m.2 (.release beat)) s
      s.takeRelease p beat

/-- A member reports done to the conductor, or takes its own done where it is the conductor. -/
def State.reportDone (s : State) (p : Nat) (g : Group) : State :=
  let ready := s.readyRun p
  let count := ((s.ptn? p).map (·.beat.count)).getD 0
  let s := s.modGroup p fun x => { x with doneSent := true }
  if g.index = 0 then
    ((s.modGroup p fun x => { x with dones := (x.dones.filter fun d => d.1 != 0) ++ [(0, ready)] }).setHelds p
      (·.filter (· != 0))).conduct p
  else
    match g.members[0]? with
    | some m => s.sendControl p m.1 m.2 (.done count ready)
    | none => s

/-- A member that is held tells the conductor, which tells every member (13 R342, log entry 33). -/
def State.reportHeld (s : State) (p : Nat) (g : Group) : State :=
  if g.index = 0 then
    if g.helds.contains 0 then s
    else
      g.others.foldl (fun st m => st.sendControl p m.1 m.2 .held) (s.setHelds p (· ++ [0]))
  else if g.helds.contains g.index then s
  else
    match g.members[0]? with
    | some m => (s.setHelds p (· ++ [g.index])).sendControl p m.1 m.2 .held
    | none => s

/-! ### BEAT_RELEASE -/

/-- BEAT_RELEASE: once every member has collected and the beat period has elapsed, the beat closes after ns whole
nanoseconds (log entry 63); the next one opens unless the partition is held, or waits for its group's release. The ring
runs also while a run that has been stopped waits for its reset (16 R403). -/
def beatReleaseEffect (p : Fin 8) (ns : BitVec 32) (s : State) : State :=
  match s.ptn? p.val with
  | none => s
  | some x =>
    let due := x.collectedAll && s.beatCycles x * 160 < (ns.toNat + 1) * x.fMin
    let sent := ((s.lockstep p.val).map (·.doneSent)).getD false
    if !s.ringRuns p.val || sent || !(x.beat.closed || due) then s
    else
      let s := if x.beat.closed then s else s.closeBeat p.val ns.toNat
      let s := if (s.lockstep p.val).isSome then s else s.applyBoundary p.val
      let s := s.planBoundary p.val
      let held := ((s.ptn? p.val).map (·.held)).getD false
      match s.lockstep p.val with
      | some g => if held then (s.markHeld p.val).reportHeld p.val g else s.reportDone p.val g
      | none => if held then s.markHeld p.val else s.openBeat p.val false

def execBeatRelease (p : Fin 8) (ns : BitVec 32) (s : State) : Result := .next (beatReleaseEffect p ns s)

/-! ### Slips (05 R127, R128; 13 R343) -/

/-- The record that a late member executes: its next operation; of a headbox, which may have several moves under way, the
first record not yet issued, else the first in flight: DESIGN CHOICE, the spec does not say which it names (log entry
144). -/
def State.recordOf (s : State) (p : Nat) (x : Partition) (r : Run) (c member : Nat) : Nat :=
  if member < 14 then Table.get 0 r.nextOp (opKey (c - x.low) member)
  else
    match s.movesLeft r (c - x.low), s.moves.find? fun m => m.ptn == p && m.cluster == c with
    | (_, i) :: _, _ => i
    | [], some m => m.index
    | [], none => 0

/-- How long a held member has stopped the slip timer of the open beat (13 R342). -/
def State.pausedFor (s : State) (x : Partition) : Nat :=
  x.beat.paused + ((x.group.bind (·.heldAt)).map (s.now - max · x.beat.since)).getD 0

/-- Whether a number of periods of the open beat has passed. -/
def State.elapsed (s : State) (x : Partition) (periods : Nat) : Bool :=
  periods * s.beatCycles x * 160 ≤ (s.now - x.beat.since - s.pausedFor x) * 1000 * x.fMin

/-- Whether a held member of the partition's lockstep group stops its slip timer (13 R342). -/
def State.groupWaits (s : State) (p : Nat) : Bool := (s.lockstep p).any fun g => !g.helds.isEmpty

/-- SLIP: the period has elapsed and a member of the run's beat has not collected. -/
def slipEffect (p : Fin 8) (s : State) : State :=
  match s.ptn? p.val with
  | none => s
  | some x =>
    match x.openRun, x.members.find? fun m => !x.beat.collected.contains m with
    | some r, some (c, m) =>
      if x.beat.closed || x.beat.slip.isSome || s.groupWaits p.val || !s.elapsed x 1 || !s.ringRuns p.val then s
      else
        let late := (m + 16 * (c - x.low), s.recordOf p.val x r c m)
        (s.modRun p.val fun z => { z with slipped := true, faulted := true }).modPtn p.val fun y =>
          { y with beat := { y.beat with slip := some s.now, late := late } }
    | _, _ => s

def execSlip (p : Fin 8) (s : State) : Result := .next (slipEffect p s)

/-- The chain_id of the chain that a tile's record is a piece of; 0 for another record (04 R112). -/
def State.chainOf (s : State) (r : Run) (k tile record : Nat) : Nat :=
  match (s.image? r.ctx r.image).bind fun i => ((i.opsOf k tile)[record]?).bind fun o => i.chain? (Op.chain o) with
  | some d => if tile < 14 then fld d 31 16 else 0
  | none => 0

/-- End a run whose slip reached its ceiling: EV_BEAT_SLIP, the record of kind 0x01 with the late member or, where the
group's release is missing and no member is late, 0x08 with the index of the member that aborts, and a context reset. -/
def State.abandon (s : State) (p : Nat) (x : Partition) (r : Run) (aborted : Option Nat) : State :=
  let late := if aborted.isSome then (15, 0) else x.beat.late
  let s := s.event (.ctx r.ctx) 0x0010 1 r.beat (slipArg late)
  let s := s.modPtn p fun y => { y with beat := { y.beat with slips := y.beat.slips ||| 2 } }
  s.raiseFault {
    kind := if aborted.isSome then 0x08 else 0x01
    ptn := some p
    ctx := some r.ctx
    unit := late.1 % 16
    cluster := late.1 / 16
    chain := s.chainOf r (late.1 / 16) (late.1 % 16) late.2
    beat := r.beat
    record := late.2
    address := aborted.getD 0 }

/-- SLIP_ABANDON: the ceiling is reached with a member late, or with no release of the group. -/
def slipAbandonEffect (p : Fin 8) (s : State) : State :=
  match s.ptn? p.val with
  | none => s
  | some x =>
    let late := x.beat.slip.isSome && !x.beat.closed && !x.collectedAll && !s.groupWaits p.val
    let waits := (s.lockstep p.val).any fun g => g.doneSent && g.helds.isEmpty
    let run := if waits then x.run.filter fun r => r.released && !r.stopped else x.openRun
    match run with
    | none => s
    | some r =>
      if !(late || waits) || !s.elapsed x x.live.slipCeiling || !s.ringRuns p.val then s
      else
        match s.lockstep p.val with
        | some g =>
          let s := g.others.foldl (fun st m => st.sendControl p.val m.1 m.2 .abort) s
          let s := s.clearDones p.val
          s.abandon p.val x r (if late then none else some g.index)
        | none => s.abandon p.val x r none

def execSlipAbandon (p : Fin 8) (s : State) : Result := .next (slipAbandonEffect p s)

/-! ### SLOT_DUE (10 R258, R260) -/

/-- SLOT_DUE: at a beat boundary, which is the moment a beat opens (05 R120), or in a reset by time alone, the next slot
falls due and goes to the oldest reserved step that has none; with no reserved step queued it is a breach, with reason 5
in a reset. -/
def slotDueEffect (p : Fin 8) (s : State) : State :=
  match s.ptn? p.val with
  | none => s
  | some x =>
    let resetting := x.status == .resetting
    let due := if resetting then x.slotTime x.slotNo ≤ s.now
      else !x.beat.closed && x.beat.since == s.now && x.slotTime x.slotNo ≤ s.now
    if !x.live.guarded || !due || x.status == .outOfService then s
    else
      let mine := x.queue.filter fun r => x.reserves r.ctx r.isStep
      let give := fun (r : Run) =>
        match mine.find? fun y => y.reserved.isNone with
        | some y => if r.q = y.q then { r with reserved := some (x.slotNo, s.now) } else r
        | none => r
      let s := s.modPtn p.val fun y =>
        { y with slotNo := y.slotNo + 1, slots := y.slots + 1, queue := if resetting then y.queue else y.queue.map give }
      if resetting then s.breach p.val 5 0 else if mine.isEmpty then s.breach p.val 6 0 else s

def execSlotDue (p : Fin 8) (s : State) : Result := .next (slotDueEffect p s)

/-! ### RUN_COMPLETE (05 R135, 07 R164, 09 R223, R226, 10 R251, R260) -/

/-- How many drafts a slot result record accepts (10 R251): tokens that equal the log's. -/
def acceptCount (toks log : List Nat) : Nat :=
  ((toks.zip log).takeWhile fun (t, l) => t < 2 ^ 30 && t == l).length

/-- Verify one decode slot against its result record, apply commit and rollback, and write the record's results, unless
what lies at the result object's base has become a weight object (11 R268). -/
def State.verifySlot (s : State) (o : Obj) (sl : Slot) : State :=
  match s.seq? sl.seq with
  | none => s
  | some x =>
    let at_ := 128 * sl.no
    let toks := (List.range 17).map fun i => s.objWord o (at_ + 4 * i) 4
    let log := (List.range x.d).map fun j => s.logEntry x (x.c + j)
    let a := acceptCount (toks.take x.d) log
    let s := s.commitDrafts x a
    let s := match s.seq? sl.seq with
      | some y => s.rollback y
      | none => s
    if o.broken.isSome then s.nodeFault o
    else if o.desc.kind = kindWeights then s
    else s.writeObj o (at_ + 96) (Bits.toBytes 14 (packBits [(a, 0), (toks.getD a 0, 32), (x.c + a, 64), (stOk, 96)]))

/-- Verification of a step's decode slots, ascending. -/
def State.verifyRun (s : State) (r : Run) : State :=
  if !r.args.verify then s
  else
    match s.obj? r.ctx r.args.result with
    | none => s
    | some o => (r.slots.filter fun sl => sl.no < r.args.nBind.toNat && !sl.recompute).foldl (fun st sl => st.verifySlot o sl) s

/-- Report the recompute slots of a run that leave their sequence complete; the others may have lost their inputs. The
grid of each is laid out anew over what is still dropped (09 R226). -/
def State.reportRecomputed (s : State) (r : Run) : State :=
  (r.slots.filter (·.recompute)).foldl (fun st sl => match st.seq? sl.seq with
    | some x =>
      let st := if x.state == .opened then st.queueRecompute x.index else st
      if x.incomplete then st.loseIfGone x.index else st.event (.ctx x.ctx) 0x0041 x.no.toNat 0 0
    | none => st) s

/-- RUN_COMPLETE: after the run's last beat has closed. -/
def runCompleteEffect (p : Fin 8) (s : State) : State :=
  match s.run? p.val with
  | none => s
  | some r =>
    if !r.ended || !r.admitted || r.stopped || !s.leadWorks p.val then s
    else
      let s := (s.stampRun p.val r).takeWatches r fun a => !a.tileTarget
      let s := s.verifyRun r
      let s := s.modPtn p.val fun x => { x with run := none }
      let s := ((s.reportRecomputed r).quotaClear p.val).dropHeld p.val
      let s := s.checkReserved p.val r
      let res := if r.isStep then packBits [(r.variant, 0), (r.added, 8)] else s.beatsOf r
      s.finish r.q stOk res 0

def execRunComplete (p : Fin 8) (s : State) : Result := .next (runCompleteEffect p s)

end Sys2Proof.Machine
end

