-- ==== Sys2Proof/Machine/Groups.lean ====
section
/-! DEFINITION. Felt groups (13 R338 to R347): FAB.GROUP, FAB.LEAVE, the joins that form a group, and the frames of group
beats. -/

namespace Sys2Proof.Machine

/-! ### Forming (13 R338, R339) -/

/-- A member list's entry; none where a reserved bit is set. -/
def readMember (v : Nat) : Option (BitVec 16 × BitVec 3) :=
  if v / 2 ^ 19 = 0 then some (BitVec.ofNat 16 v, BitVec.ofNat 3 (v / 2 ^ 16)) else none

/-- The join that a member has sent to a partition. -/
def State.joinOf (s : State) (p : Nat) (m : BitVec 16 × BitVec 3) : Option JoinInfo :=
  (s.felt.joins.find? fun j => j.part.toNat == p && j.src == m.1 && j.spart == m.2).map (·.info)

/-- This partition's own join. -/
def Group.join (g : Group) : JoinInfo := ⟨g.id, BitVec.ofNat 9 g.count, g.lockstep, g.digest⟩

/-- The address of the lowest-indexed member whose join is missing or differs. -/
def State.unjoined (s : State) (p : Nat) (g : Group) : Option (BitVec 16) :=
  (g.others.find? fun m => s.joinOf p m != some g.join).map (·.1)

/-- Look at the joins of a forming group: dissolved at once where one differs, formed when every one matches. -/
def State.checkJoins (s : State) (p : Nat) : State :=
  match (s.group? p).filter fun g => g.state == 1 with
  | none => s
  | some g =>
    if g.others.any fun m => (s.joinOf p m).any fun j => j != g.join then s.dissolve p ((s.unjoined p g).getD 0) 5
    else if (s.unjoined p g).isNone then s.modGroup p fun x => { x with state := 2 }
    else s

/-- Take a join: it is kept for the destination partition, and looked at. -/
def State.takeJoin (s : State) (f : Frame) (j : JoinInfo) : State :=
  let same := fun (x : JoinSeen) => x.part == f.dpart && x.src == f.src && x.spart == f.spart
  let s := s.feltWake.modFelt fun x => { x with joins := (x.joins.filter fun y => !same y) ++ [⟨f.dpart, f.src, f.spart, j⟩] }
  s.checkJoins f.dpart.toNat

/-- JOIN_FRAME: forwarded, or taken by the linker. -/
def joinFrameEffect (k : Fin 8) (f : Frame) (j : JoinInfo) (s : State) : State :=
  if (s.port k).phase != .up then s
  else
    onFrame k f s fun f s =>
      if s.felt.addr != some f.dst then s.forward f (.join j) else s.forLinker (.frame k f (.join j)) fun s => s.takeJoin f j

def execJoinFrame (k : Fin 8) (f : Frame) (j : JoinInfo) (s : State) : Result := .next (joinFrameEffect k f j s)

/-- GROUP_FORM_TIMEOUT: still forming 10 s after FAB.GROUP completed. -/
def groupFormTimeoutEffect (p : Fin 8) (s : State) : State :=
  match (s.group? p.val).filter fun g => g.state == 1 with
  | none => s
  | some g => if g.since + 10000000 ≤ s.now && !s.restarting linkerIsland then s.dissolve p.val ((s.unjoined p.val g).getD 0) 4 else s

def execGroupFormTimeout (p : Fin 8) (s : State) : Result := .next (groupFormTimeoutEffect p s)

/-- FAB.GROUP: the list names this partition at its own index; the group is forming, and a join goes to every other
member. It waits while the linker restarts. -/
def fabGroupBody (a : GroupArgs) (s : State) (q : Req) : Ran :=
  withObj q a.list s fun o =>
    let p := ptnOf o.ctx
    let n := a.count.toNat + 1
    if s.restarting linkerIsland then .waits
    else if (s.group? p).isSome then .status s stInUse
    else if a.receive != 0 && (s.obj? o.ctx a.receive).isNone then .status s stNoObject
    else if a.receive != 0 && (s.obj? o.ctx a.receive).any (fun r => r.desc.kind == kindWeights) then .status s stBadField
    else if o.size < a.listOff.toNat + 4 * n then .status s stBadField
    else if (s.objPoison o a.listOff.toNat (4 * n)).isSome then .status s stPoison
    else
      let bs := s.readObj o a.listOff.toNat (4 * n)
      match (List.range n).mapM fun i => readMember (Bits.ofBytes ((bs.drop (4 * i)).take 4)) with
      | none => .status s stBadField
      | some ms =>
        if s.felt.addr.isNone || ms[a.index.toNat]? != some (s.felt.addr.getD 0, BitVec.ofNat 3 p) then .status s stBadField
        else
          let g : Group := { id := a.group, index := a.index.toNat, count := n, lockstep := a.lockstep, members := ms,
                             digest := Config.sha3 bs, receive := a.receive, since := s.now }
          let s := s.modPtn p fun x => { x with group := some g }
          let s := g.others.foldl (fun st m => st.sendControl p m.1 m.2 (.join g.join)) s
          .status (s.checkJoins p) stOk

def execFabGroup (q : Req) (a : GroupArgs) (s : State) : Result := .next (runCommand (.fabGroup q a) s (fabGroupBody a))

/-! ### Leaving (13 R347) -/

/-- A partition leaves its group: a leave frame to every other member, its own group run ends, and FAB_GRP_p reads none.
-/
def State.leaveGroup (s : State) (p : Nat) : State :=
  match s.group? p with
  | none => s
  | some _ => (((s.sendLeave p false).endGroupRun p).dropJoins p).modPtn p fun x => { x with group := none }

/-- FAB.LEAVE. -/
def fabLeaveBody (s : State) (q : Req) : Ran :=
  withCtx q s fun c =>
    if (s.group? (ptnOf c)).isNone then .status s stOkEmpty else .status (s.leaveGroup (ptnOf c)) stOk

def execFabLeave (q : Req) (s : State) : Result := .next (runCommand (.fabLeave q) s fabLeaveBody)

/-- What a frame from a member of the destination partition's group does: partition, group and that member's index. -/
abbrev MemberAct := State → Nat → Group → Nat → State

/-- Take a frame addressed to the device that a member of the destination partition's group sent. -/
def State.takeMember (s : State) (f : Frame) (act : MemberAct) : State :=
  let s := s.feltWake
  match s.group? f.dpart.toNat with
  | none => s
  | some g =>
    match g.indexOf f.src f.spart with
    | some i => act s f.dpart.toNat g i
    | none => s

/-- A frame from a member of a group: forwarded, or taken. -/
def onMember (k : Fin 8) (f : Frame) (body : FeltBody) (s : State) (act : MemberAct) : State :=
  if (s.port k).phase != .up then s
  else onFrame k f s fun f s => if s.felt.addr != some f.dst then s.forward f body else s.takeMember f act

/-- A leave: any group run ends with a context reset, and the group is dissolved. -/
def onLeave (src : BitVec 16) (moved : Bool) : MemberAct := fun s p _ _ => (s.endGroupRun p).dissolve p src (if moved then 3 else 2)

/-- LEAVE_FRAME. -/
def leaveFrameEffect (k : Fin 8) (f : Frame) (moved : Bool) (s : State) : State :=
  onMember k f (.leave moved) s (onLeave f.src moved)

def execLeaveFrame (k : Fin 8) (f : Frame) (moved : Bool) (s : State) : Result := .next (leaveFrameEffect k f moved s)

/-! ### Group beats (13 R341 to R343) -/

/-- A done: the conductor holds it. -/
def onDone (admitted : Option (BitVec 64 × BitVec 32)) : MemberAct := fun s p g i =>
  if g.index != 0 then s
  else
    ((s.modGroup p fun x => { x with dones := (x.dones.filter fun d => d.1 != i) ++ [(i, admitted)] }).setHelds p
      (·.filter (· != i))).conduct p

/-- DONE_FRAME. -/
def doneFrameEffect (k : Fin 8) (f : Frame) (beat : BitVec 64) (admitted : Option (BitVec 64 × BitVec 32)) (s : State) : State :=
  onMember k f (.done beat admitted) s (onDone admitted)

def execDoneFrame (k : Fin 8) (f : Frame) (beat : BitVec 64) (admitted : Option (BitVec 64 × BitVec 32)) (s : State) : Result :=
  .next (doneFrameEffect k f beat admitted s)

/-- A release: the member's boundary. -/
def onRelease (beat : BitVec 64) : MemberAct := fun s p g i =>
  if i = 0 && g.doneSent && s.ringRuns p then s.takeRelease p beat else s

/-- RELEASE_FRAME. -/
def releaseFrameEffect (k : Fin 8) (f : Frame) (beat : BitVec 64) (s : State) : State :=
  onMember k f (.release beat) s (onRelease beat)

def execReleaseFrame (k : Fin 8) (f : Frame) (beat : BitVec 64) (s : State) : Result := .next (releaseFrameEffect k f beat s)

/-- A held: the group waits, and no slip timer runs; the conductor tells the other members (log entry 33). -/
def onHeld : MemberAct := fun s p g i =>
  if g.helds.contains i then s
  else
    let s := s.setHelds p (· ++ [i])
    if g.index = 0 then
      ((List.range g.count).filter fun j => j != 0 && j != i).foldl (fun st j => match g.members[j]? with
        | some m => st.sendControl p m.1 m.2 .held
        | none => st) s
    else s

/-- HELD_FRAME. -/
def heldFrameEffect (k : Fin 8) (f : Frame) (s : State) : State := onMember k f .held s onHeld

def execHeldFrame (k : Fin 8) (f : Frame) (s : State) : Result := .next (heldFrameEffect k f s)

/-- An abort: the group run ends with a context reset, on a record that names the member that aborted. -/
def onAbort : MemberAct := fun s p _ i =>
  let s := s.clearDones p
  match (s.run? p).filter fun r => r.released && !r.stopped with
  | some r => s.raiseFault { kind := 0x08, ptn := some p, ctx := some r.ctx, beat := r.beat, address := i }
  | none => s

/-- ABORT_FRAME. -/
def abortFrameEffect (k : Fin 8) (f : Frame) (s : State) : State := onMember k f .abort s onAbort

def execAbortFrame (k : Fin 8) (f : Frame) (s : State) : Result := .next (abortFrameEffect k f s)

/-! ### Frames to the device itself (13 R329), and what waited for the linker (16 Table FLT.6) -/

/-- Take a frame that the device has sent to itself, or that reaches it as a leaf of a tree. -/
def State.takeOwn (s : State) (o : Outgoing) : State :=
  let f := fun (bs : List Byte) => o.frame 0 false bs
  match o.body with
  | .data _ _ bs => s.takeData (f bs)
  | .multicast reader group _ off bs => s.takeMulticast reader group off.toNat bs
  | .ack first n beyond => s.takeAcks (f []) first n beyond
  | .join j => s.takeJoin (f []) j
  | .leave moved => s.takeMember (f []) (onLeave o.src moved)
  | .done _ admitted => s.takeMember (f []) (onDone admitted)
  | .release beat => s.takeMember (f []) (onRelease beat)
  | .held => s.takeMember (f []) onHeld
  | .abort => s.takeMember (f []) onAbort
  | .request session tile => resendRequestEffect session o.src tile s
  | _ => s

/-- Take the frames that the device has sent to itself. -/
def State.takeOwns (s : State) : State := s.felt.own.foldl State.takeOwn (s.modFelt fun f => { f with own := [] })

/-- A microsecond passes (log entry 2): the copies of retiring ranks go on, and frames to the device itself arrive. -/
def State.tick (s : State) : State := ((List.range 6).foldl State.copyTick { s with now := s.now + 1 }).takeOwns

/-- The linker acts on work that waited while it restarted; other work stays. -/
def State.linkerWork (s : State) : HeldWork → State
  | .frame k f body =>
    match body with
    | .hello serial nonce iface addr => s.takeHello k serial nonce iface addr
    | .proof proof => s.takeProof k proof
    | .rotate epoch => s.takeRotate k epoch
    | .rotateAck => s.takeRotateAck k
    | .join j => s.takeJoin f j
    | _ => s
  | .signal k => s.startTraining k
  | .trained k => s.sendHello k
  | _ => s

/-- Whether work waits for the linker. -/
def HeldWork.linkers : HeldWork → Bool
  | .frame .. => true
  | .signal _ => true
  | .trained _ => true
  | _ => false

/-- The linker acts on the work that waited while it restarted, in the order it arrived. -/
def State.takeLinkerWork (s : State) : State :=
  (s.heldWork.filter HeldWork.linkers).foldl State.linkerWork { s with heldWork := s.heldWork.filter fun w => !w.linkers }

end Sys2Proof.Machine
end

