-- ==== Sys2Proof/Machine/Operands.lean ====
section
/-! DEFINITION. Operands and results of tile operations (02, 03): where their elements lie, codebook expansion, the
operand port with its expander, products and sums, scales, row sums and max-abs gathering. -/

namespace Sys2Proof.Machine

/-- An operation record as a tile runs it: the cluster of the device and of the partition, the tile, the run's context,
beat and bindings, its image, the record and its number. -/
structure Work where
  c : Nat
  k : Nat
  t : Nat
  ctx : CtxNo
  beat : Nat
  slots : List Slot
  img : Image
  no : Nat
  r : OpRec
  deriving DecidableEq, Repr

/-- What an operation has done so far: the stores; format exceptions; codes expanded; blocks decoded coded and raw and the
expander's cycles; and the block that an expander found malformed. -/
structure Acted where
  stores : Stores
  exceptions : Nat := 0
  codes : Nat := 0
  coded : Nat := 0
  raw : Nat := 0
  cycles : Nat := 0
  bad : Option Nat := none
  deriving DecidableEq, Repr

/-- Add format exceptions. -/
def Acted.except (a : Acted) (n : Nat) : Acted := { a with exceptions := a.exceptions + n }
/-- Add what an expander did. -/
def Acted.expanded (a : Acted) (x : Expanded) : Acted :=
  { a with coded := a.coded + x.coded, raw := a.raw + x.raw, cycles := a.cycles + x.cycles, bad := a.bad <|> x.bad }

/-! ### Bytes and elements (02 R44, 03 R512) -/

/-- Bytes from a word of one of the tile's stores. -/
def Work.bytesAt (w : Work) (st : Stores) (space word : Nat) : Nat → Byte := fun i => st.readByte w.c w.t space (word * 4 + i)

/-- Write bytes at a byte address of one of the tile's stores. -/
def Work.put (w : Work) (a : Acted) (space byte : Nat) (bs : List Byte) : Acted :=
  { a with stores := a.stores.write (some w.ctx) w.c w.t space byte bs }

/-- Bytes that n elements of a format fill. -/
def Fmt.bytes (f : Fmt) (n : Nat) : Nat := Bits.ceilDiv (n * f.bits) 8

/-- Element i of packed elements, as its code. -/
def elemAt (f : Fmt) (rd : Nat → Byte) (i : Nat) : Nat :=
  if f.bits = 4 then Bits.range (rd (i / 2)).toNat (i % 2 * 4 + 3) (i % 2 * 4) else wordAt rd (i * (f.bits / 8)) (f.bits / 8)

/-- Write element i of packed elements. -/
def Work.putElem (w : Work) (a : Acted) (f : Fmt) (space word i code : Nat) : Acted :=
  if f.bits = 4 then
    let b := word * 4 + i / 2
    let old := (a.stores.readByte w.c w.t space b).toNat
    w.put a space b [BitVec.ofNat 8 (putBits old (i % 2 * 4 + 3) (i % 2 * 4) code)]
  else w.put a space (word * 4 + i * (f.bits / 8)) (Bits.toBytes (f.bits / 8) code)

/-- FP32 word i of a vector. -/
def Work.f32At (w : Work) (st : Stores) (space word i : Nat) : F32 := BitVec.ofNat 32 (wordAt (w.bytesAt st space word) (4 * i) 4)
/-- Write FP32 word i of a vector. -/
def Work.putF32 (w : Work) (a : Acted) (space word i : Nat) (x : F32) : Acted :=
  w.put a space (word * 4 + 4 * i) (Bits.toBytes 4 x.toNat)
/-- INT32 word i of a vector. -/
def Work.i32At (w : Work) (st : Stores) (space word i : Nat) : Int := Bits.signed 32 (wordAt (w.bytesAt st space word) (4 * i) 4)

/-! ### Codebooks (02 R46 to R48, R509) -/

/-- How an operand's codes are bound to tables. -/
structure Binding where
  slot : Nat
  group : Nat
  chan : Bool
  builtin : Bool
  which : Bool
  ent : Nat
  deriving DecidableEq, Repr

/-- The binding of 16 bits with an entry format code. -/
def Binding.of (b ent : Nat) : Binding := ⟨Bind.slot b, Bind.group b, Bind.chan b, Bind.builtin b, Bind.which b, ent⟩
/-- The binding of operand A. -/
def Op.bindingA (r : OpRec) : Binding := .of (Op.bindA r) (Op.entA r)
/-- The binding of operand B. -/
def Op.bindingB (r : OpRec) : Binding := .of (Op.bindB r) (Op.entB r)

/-- Entry formats by their code (05 Table SPD.9); 3 is reserved. -/
def entryFmt : Nat → Option Fmt
  | 0 => some .fp16 | 1 => some .e4m3 | 2 => some .e5m2 | _ => none

/-- Entries of a table of a code format. -/
def tableEntries (f : Fmt) : Nat := if f == .c4 then 16 else 256

/-- Bytes of a table image (02 Table FMT.3). -/
def imageBytes (f ent : Fmt) : Nat := tableEntries f * (ent.bits / 8)

/-- The key of byte b of one of a tile's two codebook stores (02 R46). -/
def bookKey (c t store b : Nat) : Nat := tileKey c t (store * 8192 + b)

/-- The entry format that a binding names. -/
def Binding.fmt (b : Binding) : Fmt := if b.builtin then .fp16 else (entryFmt b.ent).getD .fp16

/-- The value that a code has under a binding, in the channel that the binding counts. -/
def Binding.value (b : Binding) (st : Stores) (c t store : Nat) (f : Fmt) (ch code : Nat) : FVal :=
  if b.builtin then FVal.decode .fp16 (if b.which then ulog8 code else slog8 code)
  else
    let slot := b.slot + if b.chan then ch / 2 ^ b.group else 0
    let n := b.fmt.bits / 8
    codeVal b.fmt (Mem.word st.codebooks (bookKey c t store (slot * imageBytes f b.fmt + code * n)) n)

/-- The values of the whole table that serves a channel. -/
def Binding.table (b : Binding) (st : Stores) (c t store : Nat) (f : Fmt) (ch : Nat) : List FVal :=
  (List.range (tableEntries f)).map fun i => b.value st c t store f ch i

/-- The store of operand B's port: its own on a press, the expander's on a reel. -/
def portB (t : Nat) : Nat := if t < 8 then 1 else 0

/-! ### Operands -/

/-- An operand as the array receives it: its format, element (i, j) widened to FP32, and as a signed integer. -/
structure Operand where
  fmt : Fmt
  f : Nat → Nat → F32
  z : Nat → Nat → Int

/-- The bytes of an operand through the calender's expander where a budget entry of a use marks it as coded. DESIGN CHOICE
(log entry 160): a byte that an operation reads beyond the region's source is 0. -/
def Work.source (w : Work) (st : Stores) (use space word : Nat) (needed : Nat → Bool) : (Nat → Byte) × Expanded :=
  match w.img.budgetOf use w.k w.t w.no with
  | none => (w.bytesAt st space word, {})
  | some e =>
    let x := expandRegion (w.bytesAt st space word) (Budget.width e) needed
    (fun i => x.bytes.getD i 0, x)

/-- The blocks that hold a byte of some matrices of n bytes, a stride apart. -/
def neededBlocks (n stride batch : Nat) : Nat → Bool := fun i =>
  (List.range batch).any fun b => decide (b * stride < (i + 1) * 4096) && decide (i * 4096 < b * stride + n) && n != 0

/-- n bytes of operand A or B of a record from a word, through the expander where an entry of a use marks the operand as
coded (06 R144). -/
def Work.operandBytes (w : Work) (a : Acted) (use space word n : Nat) : List Byte × Acted :=
  let r := w.source a.stores use space word (neededBlocks n 0 1)
  ((List.range n).map r.1, a.expanded r.2)

/-- An operand of some columns as read from bytes that start at byte off: stored row-major or, transposed, in the other
orientation. channel picks the channel of element (i, j). -/
def Work.operand (w : Work) (st : Stores) (rd : Nat → Byte) (off : Nat) (f : Fmt) (b : Binding) (store rows cols : Nat)
    (trans : Bool) (channel : Nat → Nat → Nat) : Operand :=
  let code := fun (i j : Nat) => elemAt f (fun x => rd (off + x)) (if trans then j * rows + i else i * cols + j)
  { fmt := if f.isCode then b.fmt else f
    f := fun i j => F32.round (if f.isCode then b.value st w.c w.t store f (channel i j) (code i j) else codeVal f (code i j))
    z := fun i j => Bits.signed f.bits (code i j) }

/-! ### Products and sums (02 R52 to R54, 03 R74) -/

/-- An accumulator. -/
inductive Acc where
  | f (x : F32)
  | i (z : Int)
  deriving DecidableEq, Repr

/-- The FP32 value of an accumulator, rounded to nearest even. -/
def Acc.toF32 : Acc → F32
  | .f x => x
  | .i z => F32.ofInt z

/-- The 32 bits of an accumulator as a partial sum holds it. -/
def Acc.code : Acc → Nat
  | .f x => x.toNat
  | .i z => Bits.ofInt 32 z

/-- Accumulate FP32 products in ascending k. -/
def sumFloat (p : Nat → F32) (n : Nat) (init : F32) : F32 := (List.range n).foldl (fun acc k => F32.add acc (p k)) init
/-- Accumulate integers in ascending k: the sum, and the saturations counted. -/
def sumInt (p : Nat → Int) (n : Nat) (init : Int) : Int × Nat := (List.range n).foldl (fun acc k => int32Add acc (p k)) (init, 0)

/-- Whether two operand formats multiply in product-table mode on a tile (03 R73): C4 by C4 on a press. -/
def tableMode (t : Nat) (fa fb : Option Fmt) : Bool := t < 8 && fa == some .c4 && fb == some .c4

/-- Whether a record accumulates in INT32. -/
def Operand.isInt (x : Operand) : Bool := x.fmt.isInt

/-- Entry e of product-table slot s of a tile (02 R50). -/
def productAt (st : Stores) (c t s e : Nat) : F32 := BitVec.ofNat 32 (Mem.word st.products (tileKey c t (s * 1024 + 4 * e)) 4)

/-- A product-table lookup: the codes of the operands' element. -/
def Work.looked (w : Work) (st : Stores) (a b : Operand) (i k j : Nat) : F32 :=
  let slot := Op.ptSlot w.r + j / 2 ^ Op.ptGroup w.r
  productAt st w.c w.t slot ((a.z i k % 16).toNat * 16 + (b.z k j % 16).toNat)

/-- Output element (i, j) from an initial value over n terms of the reduction, in product-table mode or not: the
accumulator and its saturations. -/
def Work.element (w : Work) (st : Stores) (table : Bool) (a b : Operand) (n i j : Nat) (init : Nat) : Acc × Nat :=
  if a.isInt then
    let s := sumInt (fun k => a.z i k * b.z k j) n (Bits.signed 32 init)
    (.i s.1, s.2)
  else
    let p := fun (k : Nat) => if table then w.looked st a b i k j else F32.mul (a.f i k) (b.f k j)
    (.f (sumFloat p n (BitVec.ofNat 32 init)), 0)

/-- The partial sum that an element starts from (03 R74). -/
def Work.initial (w : Work) (st : Stores) (word n i j : Nat) : Nat :=
  if Op.acc w.r then wordAt (w.bytesAt st (Op.cSpace w.r) word) (4 * (i * n + j)) 4 else 0

/-! ### Scales, row sums, max-abs (02 R55 to R61) -/

/-- A scale register. -/
def scaleAt (st : Stores) (c t reg : Nat) : F32 := BitVec.ofNat 32 (Mem.word st.scales (tileKey c t (4 * reg)) 4)

/-- The dequantised value of output element (i, j) (02 R57). -/
def Work.scaled (w : Work) (st : Stores) (y : F32) (i j : Nat) : F32 :=
  let mode := Op.scaleMode w.r
  let y := if mode % 2 = 1 then F32.mul y (scaleAt st w.c w.t (Op.colBase w.r + j)) else y
  if 2 ≤ mode then F32.mul y (scaleAt st w.c w.t (Op.rowBase w.r + i)) else y

/-- Gather the row sums of a streamed operand into the vector at aux_base (03 R75 stage 4): from the stored vector or from
0. -/
def Work.rowSums (w : Work) (a : Acted) (x : Operand) (m n : Nat) (go : Bool) : Acted :=
  (List.range m).foldl (fun st i =>
    let s := sumInt (fun k => x.z i k) n (if go then w.i32At a.stores 3 (Op.auxBase w.r) i else 0)
    (w.put st 3 (Op.auxBase w.r * 4 + 4 * i) (Bits.toBytes 4 (Bits.ofInt 32 s.1))).except s.2) a

/-- The largest magnitude of values that are no NaN, +0 where there is none, and how many NaNs there were. -/
def maxAbs (ys : List F32) : F32 × Nat :=
  ys.foldl (fun (m, n) y => if y.isNaN then (m, n + 1) else (F32.max m y.abs, n)) (0, 0)

/-- Gather max-abs of a result of m rows and n columns into a vector (02 R61). -/
def Work.gatherMax (w : Work) (a : Acted) (m n batch : Nat) (y : Nat → Nat → F32) : Acted :=
  if !Op.maxabsEn w.r then a
  else
    let axis := Op.maxabsAxis w.r
    let e := if axis then n else m
    (List.range e).foldl (fun st x =>
      let g := maxAbs ((List.range (if axis then m else n)).map fun v => if axis then y v x else y x v)
      (w.putF32 st 3 (Op.maxabsBase w.r + batch * e) x g.1).except g.2) a

/-! ### The unchained multiply (05 R131) -/

/-- Put the result element of a record without a chain: the INT32 sum or the dequantised value. -/
def Work.putResult (w : Work) (a : Acted) (word n i j : Nat) (acc : Acc) (y : F32) : Acted :=
  let bits := if Fmt.ofCode (Op.fmtC w.r) == some .int32 then acc.code else y.toNat
  w.put a (Op.cSpace w.r) (word * 4 + 4 * (i * n + j)) (Bits.toBytes 4 bits)

/-- Every (i, j) of a matrix in row-major order. -/
def grid (m n : Nat) : List (Nat × Nat) := (List.range m).flatMap fun i => (List.range n).map fun j => (i, j)

/-- One batch of a multiply: row sums, every element in its format, and max-abs. -/
def Work.multiplyOne (w : Work) (a : Acted) (ra rb : Nat → Byte) (batch : Nat) : Acted :=
  let m := Op.extM w.r
  let k := Op.extK w.r
  let n := Op.extN w.r
  let st := a.stores
  let fa := (Fmt.ofCode (Op.fmtA w.r)).getD .fp32
  let fb := (Fmt.ofCode (Op.fmtB w.r)).getD .fp32
  let x := w.operand st ra (batch * Op.aStride w.r * 4) fa (Op.bindingA w.r) 0 m k (Op.ta w.r) fun _ j => j
  let y := w.operand st rb (batch * Op.bStride w.r * 4) fb (Op.bindingB w.r) (portB w.t) k n (Op.tb w.r) fun _ j => j
  let word := Op.cBase w.r + batch * Op.cStride w.r
  let table := tableMode w.t (some fa) (some fb)
  let res := (grid m n).map fun (i, j) => (i, j, w.element st table x y k i j (w.initial st word n i j))
  let val := fun (i j : Nat) =>
    match res[i * n + j]? with
    | some (_, _, e) => w.scaled st e.1.toF32 i j
    | none => 0
  let a := if Op.rowsumEn w.r then w.rowSums a x m k (Op.acc w.r || batch != 0) else a
  let a := res.foldl (fun s (i, j, e) => (w.putResult s word n i j e.1 (val i j)).except e.2) a
  w.gatherMax a m n batch val

/-- How many batches a record runs: batch for MMB, one otherwise. -/
def Work.batches (w : Work) : Nat := if Op.code w.r = 2 then Op.batch w.r else 1

/-- Codes that a multiply expands, each operand once for each batch (log entry 36): fa is the format in which the streamed
operand of some columns is read. -/
def Work.codesOf (w : Work) (fa : Option Fmt) (columns : Nat) : Nat :=
  let one := fun (f : Option Fmt) (n : Nat) => if (f.map Fmt.isCode).getD false then n else 0
  let fb := Fmt.ofCode (Op.fmtB w.r)
  if tableMode w.t fa fb then 0
  else w.batches * (one fa (Op.extM w.r * columns) + one fb (Op.extK w.r * Op.extN w.r))

/-- A multiply without a chain, batch after batch. -/
def Work.multiply (w : Work) (a : Acted) : Acted :=
  let m := Op.extM w.r
  let k := Op.extK w.r
  let n := Op.extN w.r
  let fa := (Fmt.ofCode (Op.fmtA w.r)).getD .fp32
  let fb := (Fmt.ofCode (Op.fmtB w.r)).getD .fp32
  let ra := w.source a.stores 3 (Op.aSpace w.r) (Op.aBase w.r) (neededBlocks (fa.bytes (m * k)) (Op.aStride w.r * 4) w.batches)
  let rb := w.source a.stores 4 (Op.bSpace w.r) (Op.bBase w.r) (neededBlocks (fb.bytes (k * n)) (Op.bStride w.r * 4) w.batches)
  let a := (a.expanded ra.2).expanded rb.2
  let a := { a with codes := a.codes + w.codesOf (some fa) k }
  (List.range w.batches).foldl (fun s b => w.multiplyOne s ra.1 rb.1 b) a

end Sys2Proof.Machine
end

