-- ==== Sys2Proof/Machine/Chains.lean ====
section
/-! DEFINITION. Chains (04): descriptors, pieces and their place in a heavy operation, prologue and epilogue stages, the
held and the deferred normalisation, and a multiply piece of a chain. How pieces lie in their operation is log entry 34. -/

namespace Sys2Proof.Machine

/-- A chain descriptor's 320 bytes (04 R104). -/
abbrev ChainDesc := BitVec 2560

/-- A stage record (04 Table CHN.5). -/
structure Stage where
  kind : Nat
  fmt : Nat
  rnd : Bool
  reg : Nat
  sub : Nat
  region : Nat
  space : Nat
  deriving DecidableEq, Repr

namespace Chain
def nOps (d : ChainDesc) : Nat := fld d 3 0
def normMode (d : ChainDesc) : Nat := fld d 5 4
def normOp (d : ChainDesc) : Nat := fld d 7 6
def id (d : ChainDesc) : Nat := fld d 31 16
def holdBase (d : ChainDesc) : Nat := fld d 55 32
def linkBase (d : ChainDesc) : Nat := fld d 87 64
def linkWords (d : ChainDesc) : Nat := fld d 111 88
/-- The first bit of slot s. -/
def slotBit (s : Nat) : Nat := 512 * (s + 1)
/-- Bits [hi:lo] of slot s. -/
def slotFld (d : ChainDesc) (s hi lo : Nat) : Nat := fld d (slotBit s + hi) (slotBit s + lo)
def opFirst (d : ChainDesc) (s : Nat) : Nat := slotFld d s 15 0
def opLast (d : ChainDesc) (s : Nat) : Nat := slotFld d s 31 16
def linkOut (d : ChainDesc) (s : Nat) : Bool := slotFld d s 32 32 == 1
def outBase (d : ChainDesc) (s : Nat) : Nat := slotFld d s 55 36
def outSpace (d : ChainDesc) (s : Nat) : Nat := slotFld d s 59 56
/-- Stage record j of slot s: records 0 and 1 are prologues, 2 to 6 epilogues. -/
def stage (d : ChainDesc) (s j : Nat) : Stage :=
  let r := slotFld d s (64 * j + 127) (64 * j + 64)
  ⟨Bits.range r 4 0, Bits.range r 8 5, r.testBit 9, Bits.range r 23 12, Bits.range r 31 24, Bits.range r 55 32, Bits.range r 59 56⟩
/-- The prologue stages of slot s that are not empty. -/
def prologue (d : ChainDesc) (s : Nat) : List Stage := ((List.range 2).map fun j => stage d s j).filter fun x => x.kind != 0
/-- The epilogue stages of slot s that are not empty. -/
def epilogue (d : ChainDesc) (s : Nat) : List Stage := ((List.range 5).map fun j => stage d s (j + 2)).filter fun x => x.kind != 0
/-- The format of slot s's link or output (04 R99). -/
def linkFmt (d : ChainDesc) (s : Nat) : Fmt :=
  (((epilogue d s).filter fun x => x.kind != 0x0B).getLast?.bind fun x => Fmt.ofCode x.fmt).getD .fp32
/-- Whether slot s is the normalised operation. -/
def normalised (d : ChainDesc) (s : Nat) : Bool := normMode d != 0 && normOp d == s
/-- The stage that derives the row scalar of slot s (04 R103). -/
def rowScalar (d : ChainDesc) (s : Nat) : Option Stage := (prologue d s).find? fun x => x.kind == 1 && x.sub == 2
/-- Whether the GATE of slot s stands after a prologue stage, which then acts on values and gate inputs, 2K columns. -/
def gateFollows (d : ChainDesc) (s : Nat) (g : Stage) : Bool :=
  match prologue d s with
  | [x, y] => x == g && y.kind == 4
  | _ => false
end Chain

/-! ### Pieces (04 R94 to R96) -/

/-- Whether an extent of a heavy operation's record is 0 (03 R78). -/
def Op.empty (r : OpRec) : Bool :=
  Op.extM r = 0 || Op.extK r = 0 || ((Op.code r = 1 || Op.code r = 2 || Op.code r = 0x11) && Op.extN r = 0)

/-- Whether a heavy operation's record is one of attention. -/
def Op.attends (r : OpRec) : Bool := Op.code r == 0x12 || Op.code r == 0x16

/-- Whether a piece carries on the sums or the softmax states that an earlier piece left (03 R74, R90). -/
def Op.continues (r : OpRec) : Bool := if Op.attends r then !Op.first r else Op.acc r

/-- Output columns of a heavy operation's record. -/
def Op.columns (r : OpRec) : Nat := if Op.code r = 0x12 then Op.headDim r else if Op.code r = 0x16 then 128 else Op.extN r

/-- The heavy operation that record no of a tile belongs to, where its chain is n, the records numbered from 0 (DESIGN
CHOICE, log entry 34): the slot whose range holds it; of several, a later one whose first piece reads the same A, else
the lowest. -/
def pieceSlot (d : ChainDesc) (ops : List OpRec) (n no : Nat) : Option Nat :=
  match ops[no]? with
  | none => none
  | some r =>
    if Op.chain r != n || n = 0 then none
    else
      let cands := (List.range (Chain.nOps d)).filter fun s => Chain.opFirst d s ≤ no && no ≤ Chain.opLast d s
      let same := fun (s : Nat) =>
        match ops[Chain.opFirst d s]? with
        | some q => s != 0 && Op.aBase q == Op.aBase r && Op.aSpace q == Op.aSpace r
        | none => false
      cands.find? same <|> cands.head?

/-- The pieces of slot s in listing order, with their numbers. -/
def piecesOf (d : ChainDesc) (ops : List OpRec) (n s : Nat) : List (OpRec × Nat) :=
  ops.zipIdx.filter fun (_, i) => pieceSlot d ops n i == some s

/-- The pieces of slot s that do something. -/
def livePieces (d : ChainDesc) (ops : List OpRec) (n s : Nat) : List (OpRec × Nat) :=
  (piecesOf d ops n s).filter fun (r, _) => !Op.empty r

/-- The pieces that give a heavy operation its shape: those that do something, or all where none does. -/
def shapePieces (d : ChainDesc) (ops : List OpRec) (n s : Nat) : List (OpRec × Nat) :=
  let live := livePieces d ops n s
  if live.isEmpty then piecesOf d ops n s else live

/-- Where the partial sums or states of a piece lie, and how many columns they have. -/
def Op.rangeKey (r : OpRec) : Nat × Nat × Nat := (Op.cSpace r, Op.cBase r, Op.columns r)

/-- Join a piece to the newest column range whose sums it continues; none where there is none. The newest range is the
first of the list. -/
def joinRange (x : OpRec × Nat) : List (List (OpRec × Nat)) → Option (List (List (OpRec × Nat)))
  | [] => none
  | g :: gs =>
    if g.head?.any fun y => Op.rangeKey y.1 == Op.rangeKey x.1 then some ((g ++ [x]) :: gs)
    else (joinRange x gs).map fun rest => g :: rest

/-- The column ranges of a heavy operation in the order of their first pieces, each as its pieces (04 R94, log entry
34): a piece that continues a sum belongs to the range whose sums lie where its own do, and any other piece begins a
range. -/
def columnRanges (ps : List (OpRec × Nat)) : List (List (OpRec × Nat)) :=
  (ps.foldl (fun rs x => if Op.continues x.1 then (joinRange x rs).getD ([x] :: rs) else [x] :: rs) []).reverse

/-- Columns of a range. -/
def rangeColumns (g : List (OpRec × Nat)) : Nat := (g.head?.map fun x => Op.columns x.1).getD 0

/-- Terms of the reduction that a range's pieces cover; of an attention operation, the columns of its queries. -/
def rangeTerms (g : List (OpRec × Nat)) : Nat :=
  if g.any fun x => Op.attends x.1 then rangeColumns g else (g.map fun x => Op.extK x.1).sum

/-- The shape of a heavy operation: rows, columns, and the columns of its streamed operand, of a gated one half of them.
-/
structure Shape where
  m : Nat
  n : Nat
  k : Nat
  deriving DecidableEq, Repr

/-- The shape that some pieces make. -/
def shapeOf (ps : List (OpRec × Nat)) : Shape :=
  let rs := columnRanges ps
  ⟨(ps.head?.map fun x => Op.extM x.1).getD 0, (rs.map rangeColumns).sum, (rs.head?.map rangeTerms).getD 0⟩

/-- The shape of slot s. -/
def slotShape (d : ChainDesc) (ops : List OpRec) (n s : Nat) : Shape := shapeOf (shapePieces d ops n s)

/-- The place of a piece in its operation: slot, shape, first column, first term, and whether it is the operation's first
piece, the last one of its columns, and one of the columns that end first. -/
structure Piece where
  slot : Nat
  shape : Shape
  j0 : Nat
  k0 : Nat
  first : Bool
  last : Bool
  opens : Bool
  deriving DecidableEq, Repr

/-- The place of record no. -/
def pieceOf (d : ChainDesc) (ops : List OpRec) (n no : Nat) : Option Piece :=
  (pieceSlot d ops n no).bind fun s =>
    (ops[no]?).map fun r =>
      let ps := shapePieces d ops n s
      let rs := columnRanges ps
      let has := fun (g : List (OpRec × Nat)) => g.any fun x => x.2 == no
      let mine := (rs.find? has).getD []
      { slot := s
        shape := shapeOf ps
        j0 := ((rs.takeWhile fun g => !has g).map rangeColumns).sum
        k0 := if Op.attends r then 0 else ((mine.filter fun x => x.2 < no).map fun x => Op.extK x.1).sum
        first := ps.all fun x => no ≤ x.2
        last := mine.all fun x => x.2 ≤ no
        opens := rs.all fun g => has g || g.any fun x => no < x.2 }

/-- Whether some heavy operation before slot s has no piece that does anything (04 R96). -/
def chainEnded (d : ChainDesc) (ops : List OpRec) (n s : Nat) : Bool :=
  (List.range s).any fun q => (livePieces d ops n q).isEmpty

/-- The format in which slot s's link stands in the link region: that of the SCALE stage where the held form normalises
it. -/
def Chain.regionFmt (d : ChainDesc) (s : Nat) : Fmt :=
  if Chain.normMode d = 1 && Chain.normOp d == s + 1 then
    (((Chain.rowScalar d (s + 1)).bind fun x => Fmt.ofCode x.fmt)).getD (Chain.linkFmt d s)
  else Chain.linkFmt d s

/-- Words of slot s's link. -/
def linkSize (d : ChainDesc) (ops : List OpRec) (n s : Nat) : Nat :=
  let sh := slotShape d ops n s
  Bits.ceilDiv ((Chain.regionFmt d s).bytes (sh.m * sh.n)) 4

/-- The word address of slot s's link: the links follow one another in the link region (log entry 34). -/
def linkWord (d : ChainDesc) (ops : List OpRec) (n s : Nat) : Nat :=
  Chain.linkBase d + ((List.range s).map fun q => linkSize d ops n q).sum

/-! ### Stages (04 R97 to R103) -/

/-- What a stage sees of its chain: the record, the descriptor, the tile's records and the piece. -/
structure Link where
  w : Work
  d : ChainDesc
  ops : List OpRec
  p : Piece

/-- Round to a stated format and widen again; FP32 does not round. -/
def roundTo (code : Nat) (x : F32) : F32 :=
  match Fmt.ofCode code with
  | some f => if f == .fp32 then x else F32.round (codeVal f (convert f 0 [] none x).code)
  | none => x

/-- The row scalar of row i from the sums of squares of a STATS stage (04 R103). -/
def Link.rowScale (l : Link) (st : Stores) (g : Stage) (i : Nat) : F32 :=
  let m := l.p.shape.m
  let sumsq := l.w.f32At st g.space (g.region + m) i
  F32.rsqrt (F32.add (F32.mul sumsq (scaleAt st l.w.c l.w.t g.reg)) (scaleAt st l.w.c l.w.t (g.reg + 1)))

/-- Element i of a tensor in a format code, widened. DESIGN CHOICE (log entry 40): codes are expanded by operand A's
binding and the codebook store of its port. -/
def Work.tensorAt (w : Work) (st : Stores) (space word code i : Nat) (b : Binding) (ch : Nat) : F32 :=
  let f := (Fmt.ofCode code).getD .fp32
  let c := elemAt f (w.bytesAt st space word) i
  F32.round (if f.isCode then b.value st w.c w.t 0 f ch c else codeVal f c)

/-- A prologue stage on element (i, k), k counted over the whole reduction (04 Table CHN.1). -/
def Link.prologueStage (l : Link) (st : Stores) (g : Stage) (a : Nat → Nat → F32) : Nat → Nat → F32 := fun i k =>
  let x := a i k
  let columns := if Chain.gateFollows l.d l.p.slot g then 2 * l.p.shape.k else l.p.shape.k
  match g.kind with
  | 1 =>
    let s := match g.sub with
      | 0 => scaleAt st l.w.c l.w.t (g.reg + k)
      | 1 => l.w.f32At st g.space g.region i
      | _ => l.rowScale st g i
    roundTo g.fmt (F32.mul x s)
  | 3 => roundTo g.fmt (F32.add x (l.w.tensorAt st g.space g.region (g.sub % 16) (i * columns + k) (Op.bindingA l.w.r) k))
  | 4 => roundTo g.fmt (F32.mul x (activate g.sub (a i (k + l.p.shape.k))))
  | _ => x

/-- Prologue stages in record order. -/
def Link.prologues (l : Link) (st : Stores) (gs : List Stage) (a : Nat → Nat → F32) : Nat → Nat → F32 :=
  gs.foldl (fun f g => l.prologueStage st g f) a

/-- Whether slot s gates its operand. -/
def Chain.gated (d : ChainDesc) (s : Nat) : Bool := (Chain.prologue d s).any fun g => g.kind == 4

/-- Columns of a heavy operation's streamed operand. -/
def Link.width (l : Link) : Nat := if Chain.gated l.d l.p.slot then 2 * l.p.shape.k else l.p.shape.k

/-- The prologue stages that act before the normalisation is in place, up to and with the SCALE of the held form; and
those that act on the operand path. -/
def Link.splitPrologue (l : Link) : List Stage × List Stage :=
  let gs := Chain.prologue l.d l.p.slot
  let norm := fun (g : Stage) => g.kind == 1 && g.sub == 2
  if !Chain.normalised l.d l.p.slot then ([], gs)
  else if Chain.normMode l.d = 2 then ([], gs.filter fun g => !norm g)
  else (gs.takeWhile (fun g => !norm g) ++ (gs.find? norm).toList, (gs.dropWhile fun g => !norm g).drop 1)

/-- The link that a slot reads, from its bytes: whole, k counted over the reduction; transposed, the region is read as
stored in the other orientation (03 R76). -/
def Link.operandFrom (l : Link) (st : Stores) (rd : Nat → Byte) (f : Fmt) (trans : Bool) : Operand :=
  l.w.operand st rd 0 f (Op.bindingA l.w.r) 0 l.p.shape.m l.width trans fun _ k => k

/-- The normalising pass of the held form (04 R108): hold region to link region. -/
def Link.normalise (l : Link) (a : Acted) : Acted :=
  let s := l.p.slot - 1
  let x := l.operandFrom a.stores (l.w.bytesAt a.stores 3 (Chain.holdBase l.d)) (Chain.linkFmt l.d s) false
  let f := l.prologues a.stores l.splitPrologue.1 x.f
  let fmt := Chain.regionFmt l.d s
  (grid l.p.shape.m l.width).foldl (fun st (i, k) =>
    l.w.putElem st fmt 2 (linkWord l.d l.ops (Op.chain l.w.r) s) (i * l.width + k) (convert fmt 0 [] none (f i k)).code) a

/-- The format in which the port reads the streamed operand: fmt_a, or that of the link. -/
def Link.streamFmt (l : Link) : Option Fmt :=
  if l.p.slot = 0 then Fmt.ofCode (Op.fmtA l.w.r) else some (Chain.regionFmt l.d (l.p.slot - 1))

/-- The stated format of the last value prologue on the operand path, which sets the array mode (04 R99). -/
def Link.statedFmt (l : Link) : Option Fmt :=
  ((l.splitPrologue.2.filter fun g => g.kind != 2).getLast?).bind fun g => Fmt.ofCode g.fmt

/-- Columns of the matrix that a piece of slot 0 stores at A, of a gated one half of them. -/
def Link.ownColumns (l : Link) : Nat := if Op.attends l.w.r then l.p.shape.k else Op.extK l.w.r

/-- The streamed operand as the port reads it, before the prologue stages, k counted over the whole reduction. A gated
piece of slot 0 holds its own values and then its own gate inputs. -/
def Link.read (l : Link) (st : Stores) (rd : Nat → Byte) : Operand :=
  let k0 := l.p.k0
  let kk := l.p.shape.k
  if l.p.slot = 0 then
    let own := l.ownColumns
    let n := if Chain.gated l.d 0 then 2 * own else own
    let whole := fun (j : Nat) => if j < own then k0 + j else kk + k0 + (j - own)
    let local_ := fun (k : Nat) => if k < kk then k - k0 else own + (k - kk - k0)
    let x := l.w.operand st rd 0 ((Fmt.ofCode (Op.fmtA l.w.r)).getD .fp32) (Op.bindingA l.w.r) 0 (Op.extM l.w.r) n (Op.ta l.w.r)
      fun _ j => whole j
    { x with f := fun i k => x.f i (local_ k), z := fun i k => x.z i (local_ k) }
  else l.operandFrom st rd (Chain.regionFmt l.d (l.p.slot - 1)) (Op.ta l.w.r)

/-- The streamed operand of a piece after its prologue stages (04 R98), k counted from the piece's first term. -/
def Link.streamed (l : Link) (st : Stores) (rd : Nat → Byte) : Operand :=
  let k0 := l.p.k0
  let x := l.read st rd
  let f := l.prologues st l.splitPrologue.2 x.f
  { fmt := l.statedFmt.getD x.fmt, f := fun i k => f i (k0 + k), z := fun i k => x.z i (k0 + k) }

/-- Whether a piece multiplies in product-table mode. -/
def Link.byTable (l : Link) : Bool := l.statedFmt.isNone && tableMode l.w.t l.streamFmt (Fmt.ofCode (Op.fmtB l.w.r))

/-- The zero-point correction of an accumulator at row i and column j of the operation (02 R60), where a ZPC prologue arms
it. -/
def Link.corrected (l : Link) (st : Stores) (i j : Nat) (acc : Acc) : Acc × Nat :=
  match (Chain.prologue l.d l.p.slot).find? fun g => g.kind == 2, acc with
  | some g, .i z =>
    let rec_ := wordAt (l.w.bytesAt st g.space g.region) (8 * j) 8
    let zA := if g.sub = 1 then l.w.i32At st g.space (g.region + 2 * l.p.shape.n) i else Op.zpA l.w.r
    let r := l.w.i32At st 3 (Op.auxBase l.w.r) i
    let c := zeroPointCorrect z (Bits.signed 8 (Bits.range rec_ 39 32)) r zA (Bits.signed 32 (Bits.range rec_ 31 0)) l.p.shape.k
    (.i c.1, c.2)
  | _, _ => (acc, 0)

/-- Add n columns of values, row by row, to the statistics of a STATS stage: from +0 where they are the first columns,
else from the stored vectors. -/
def Link.addStats (l : Link) (a : Acted) (g : Stage) (fresh : Bool) (n : Nat) (vs : List F32) : Acted :=
  let m := l.p.shape.m
  let start := fun (st : Stores) (v i : Nat) => if fresh then (0 : F32) else l.w.f32At st g.space (g.region + v * m) i
  (List.range m).foldl (fun st i =>
    let row := (vs.drop (i * n)).take n
    let st := if g.sub.testBit 0 then l.w.putF32 st g.space g.region i (row.foldl F32.add (start st.stores 0 i)) else st
    let st := if g.sub.testBit 1 then
        l.w.putF32 st g.space (g.region + m) i (row.foldl (fun s v => F32.add s (F32.mul v v)) (start st.stores 1 i))
      else st
    if g.sub.testBit 2 then
      let x := maxAbs row
      (l.w.putF32 st g.space (g.region + 2 * m) i (F32.max (start st.stores 2 i) x.1)).except x.2
    else st) a

/-- Add the columns that wait, in ascending order, as far as they follow those gathered. -/
def Link.drainStats (l : Link) (g : Stage) : Nat → Acted → Gathering → Acted × Gathering
  | 0, a, x => (a, x)
  | fuel + 1, a, x =>
    match x.waiting.find? fun y => y.1 == x.next with
    | none => (a, x)
    | some (j, n, vs) =>
      l.drainStats g fuel (l.addStats a g (x.next == 0) n vs)
        { x with next := j + n, waiting := x.waiting.filter fun y => y.1 != j }

/-- Gather the row statistics of a STATS stage over a piece's columns (04 R102), in ascending column order whatever the
order in which the operation's columns end: columns that end early wait. -/
def Link.stats (l : Link) (a : Acted) (g : Stage) (n : Nat) (y : Nat → Nat → F32) : Acted :=
  let mine := fun (x : Gathering) => x.cluster == l.w.c && x.tile == l.w.t && x.chain == Op.chain l.w.r && x.slot == l.p.slot
  let new : Gathering := ⟨l.w.c, l.w.t, Op.chain l.w.r, l.p.slot, 0, []⟩
  let x := if l.p.opens then new else (a.stores.gathers.find? mine).getD new
  let x := { x with waiting := x.waiting ++ [(l.p.j0, n, (grid l.p.shape.m n).map fun (i, j) => y i j)] }
  let (a, x) := l.drainStats g x.waiting.length a x
  { a with stores := { a.stores with gathers := a.stores.gathers.filter (fun z => !mine z) ++ [x] } }

/-- An epilogue stage on element (i, j), j counted from the piece's first column; REQ stands apart. -/
def Link.epilogueStage (l : Link) (st : Stores) (g : Stage) (y : Nat → Nat → F32) : Nat → Nat → F32 := fun i j =>
  let col := l.p.j0 + j
  match g.kind with
  | 0x08 => roundTo g.fmt (F32.add (y i j) (l.w.f32At st g.space g.region col))
  | 0x09 => roundTo g.fmt (activate g.sub (y i j))
  | 0x0A => roundTo g.fmt (F32.add (y i j) (l.w.tensorAt st g.space g.region (g.sub % 16) (i * l.p.shape.n + col) (Op.bindingA l.w.r) col))
  | _ => y i j

/-- Run the epilogue stages but REQ, gathering statistics as they come. -/
def Link.epilogues (l : Link) (n : Nat) : List Stage → Acted → (Nat → Nat → F32) → Acted × (Nat → Nat → F32)
  | [], a, y => (a, y)
  | g :: gs, a, y =>
    if g.kind = 0x0B then l.epilogues n gs (l.stats a g n y) y
    else l.epilogues n gs a (l.epilogueStage a.stores g y)

/-- The binding of the table into which a REQ writes codes. DESIGN CHOICE (log entry 40): that of the piece's own
operand A, in a chain as in its separate form (04 R107). -/
def Link.resultBinding (l : Link) : Binding := Op.bindingA l.w.r

/-- A value as REQ stores it (02 R58, R64 to R66). -/
def Link.requantise (l : Link) (st : Stores) (g : Stage) (i j : Nat) (y : F32) : Conv :=
  let f := (Fmt.ofCode g.fmt).getD .fp32
  let col := l.p.j0 + j
  let reg := match g.sub % 4 with
    | 1 => g.reg + col
    | 2 => g.reg + i
    | _ => g.reg
  let v := F32.mul y (scaleAt st l.w.c l.w.t reg)
  let tab := if f.isCode then l.resultBinding.table st l.w.c l.w.t 0 f col else []
  let u := if g.rnd then some (stochasticDraw l.w.img.seed g.region (i * l.p.shape.n + col)) else none
  convert f (Op.zpOut l.w.r) tab u v

/-- Where the results of a slot go: space, word and format of the link and of the output. -/
def Link.targets (l : Link) : List (Nat × Nat) :=
  let s := l.p.slot
  let last := s + 1 == Chain.nOps l.d
  let held := Chain.normMode l.d == 1 && Chain.normOp l.d == s + 1
  (if last then [] else if held then [(3, Chain.holdBase l.d)] else [(2, linkWord l.d l.ops (Op.chain l.w.r) s)]) ++
    (if last || Chain.linkOut l.d s then [(Chain.outSpace l.d s, Chain.outBase l.d s)] else [])

/-- The end of the result path for a piece's columns (04 R97 steps 4 to 6): y is the dequantised value. -/
def Link.finish (l : Link) (a : Acted) (n : Nat) (y : Nat → Nat → F32) : Acted :=
  let m := l.p.shape.m
  let gs := Chain.epilogue l.d l.p.slot
  let y := if Chain.normMode l.d = 2 && Chain.normOp l.d == l.p.slot then
      match Chain.rowScalar l.d l.p.slot with
      | some g => fun i j => F32.mul (y i j) (l.rowScale a.stores g i)
      | none => y
    else y
  let (a, v) := l.epilogues n (gs.filter fun g => g.kind != 0x0C) a y
  let a := l.w.gatherMax a m n 0 v
  let fmt := Chain.linkFmt l.d l.p.slot
  let conv := fun (i j : Nat) =>
    match gs.find? fun g => g.kind == 0x0C with
    | some g => l.requantise a.stores g i j (v i j)
    | none => convert fmt 0 [] none (v i j)
  let codes := (grid m n).map fun (i, j) => (i, j, conv i j)
  codes.foldl (fun st (i, j, c) =>
    (l.targets.foldl (fun t (sp, word) => l.w.putElem t fmt sp word (i * l.p.shape.n + l.p.j0 + j) c.code) st).except c.exceptions) a

/-- Start of a piece: the normalising pass of the held form at the first piece of the normalised operation (04 R108). -/
def Link.begin_ (l : Link) (a : Acted) : Acted :=
  if l.p.first && Chain.normMode l.d = 1 && Chain.normOp l.d == l.p.slot then l.normalise a else a

/-- The blocks of a coded link that hold an element which a piece reads. -/
def Link.blocksRead (l : Link) (f : Fmt) : Nat → Bool :=
  let k0 := l.p.k0
  let k := Op.extK l.w.r
  let m := l.p.shape.m
  let spans := fun (c : Nat) =>
    if Op.ta l.w.r then [(c * m, (c + k) * m)] else (List.range m).map fun i => (i * l.width + c, i * l.width + c + k)
  let all := spans k0 ++ if Chain.gated l.d l.p.slot then spans (l.p.shape.k + k0) else []
  fun i => all.any fun (lo, hi) => lo < hi && lo * f.bits / 8 < (i + 1) * 4096 && i * 4096 < f.bytes hi

/-- The bytes of a piece's streamed operand, from its store or from the link before it, through the expander where an
entry marks it as coded (04 R98). -/
def Link.operandA (l : Link) (st : Stores) : (Nat → Byte) × Expanded :=
  let w := l.w
  let n := if Chain.gated l.d 0 then 2 * l.ownColumns else l.ownColumns
  let fa := (Fmt.ofCode (Op.fmtA w.r)).getD .fp32
  if l.p.slot = 0 then w.source st 3 (Op.aSpace w.r) (Op.aBase w.r) (neededBlocks (fa.bytes (Op.extM w.r * n)) 0 1)
  else w.source st 3 2 (linkWord l.d l.ops (Op.chain w.r) (l.p.slot - 1)) (l.blocksRead (Chain.regionFmt l.d (l.p.slot - 1)))

/-- A multiply piece of a chain. -/
def Link.multiply (l : Link) (a : Acted) : Acted :=
  let w := l.w
  let m := Op.extM w.r
  let k := Op.extK w.r
  let n := Op.extN w.r
  let a := l.begin_ a
  let fb := (Fmt.ofCode (Op.fmtB w.r)).getD .fp32
  let ra := l.operandA a.stores
  let rb := w.source a.stores 4 (Op.bSpace w.r) (Op.bBase w.r) (neededBlocks (fb.bytes (k * n)) 0 1)
  let a := (a.expanded ra.2).expanded rb.2
  let a := { a with codes := a.codes + w.codesOf l.streamFmt (if Chain.gated l.d l.p.slot then 2 * k else k) }
  let st := a.stores
  let x := l.streamed st ra.1
  let y := w.operand st rb.1 0 fb (Op.bindingB w.r) (portB w.t) k n (Op.tb w.r) fun _ j => j
  let res := (grid m n).map fun (i, j) => (i, j, w.element st l.byTable x y k i j (w.initial st (Op.cBase w.r) n i j))
  let a := if Op.rowsumEn w.r then w.rowSums a x m k (Op.acc w.r) else a
  let a := a.except ((res.map fun (_, _, e) => e.2).sum)
  if !l.p.last then
    res.foldl (fun s (i, j, e) => w.put s (Op.cSpace w.r) (Op.cBase w.r * 4 + 4 * (i * n + j)) (Bits.toBytes 4 e.1.code)) a
  else
    let fixed := res.map fun (i, j, e) => l.corrected a.stores i (l.p.j0 + j) e.1
    let a := a.except ((fixed.map (·.2)).sum)
    let val := fun (i j : Nat) =>
      match fixed[i * n + j]? with
      | some e => w.scaled a.stores e.1.toF32 i j
      | none => 0
    l.finish a n val

end Sys2Proof.Machine
end

