-- ==== Sys2Proof/Machine/Attention.lean ====
section
/-! DEFINITION. The attention path of a reel (03 R85 to R91, 09 R219 to R222): masks, softmax states, dense attention,
score tables, the selector, exact rescoring and the merge. What the manual does not place in a record is log entry 35. -/

namespace Sys2Proof.Machine

/-! ### The deckle (03 R85, 09 R219, R220) -/

/-- The attention descriptor that a record names. -/
def Work.desc (w : Work) (st : Stores) : Nat := Bits.ofBytes (st.read w.c w.t 2 (Op.auxBase w.r * 4) 320)

/-- The position of query row i. -/
def Desc.rowAt (d i : Nat) : Int := Desc.qPos d + ((i / Desc.rpp d : Nat) : Int)

/-- Whether a position lies in the window W(t). -/
def Desc.inWindow (d : Nat) (t : Int) (p : Nat) : Bool := decide (t - Desc.window d < p) && decide ((p : Int) ≤ t)

/-- The global positions. -/
def Desc.globals (d : Nat) : List Nat := (List.range (Desc.nGlob d)).map fun i => Desc.glob d i

/-- Whether a descriptor may serve a position at all: below the limit, of its shard, and not after t where causal; in a
tail a draft never serves an earlier one (09 R220). -/
def Desc.admits (d : Nat) (shape : Option SeqShape) (causal : Bool) (t : Int) (p : Nat) : Bool :=
  decide (p < Desc.limit d) && (!(causal || Desc.tail d) || decide ((p : Int) ≤ t)) &&
    (Desc.tail d || match shape with
      | some x => !x.layout || x.shardOf p == Desc.shard d
      | none => true)

/-- Whether a position is in the position set of a row at t, lookup apart (09 Table KV.7). -/
def Desc.inSet (d : Nat) (t : Int) (p : Nat) : Bool :=
  match Desc.pattern d with
  | 0 => true
  | 1 => Desc.inWindow d t p
  | 4 => Desc.inWindow d t p || (Desc.globals d).contains p || p % Desc.stride d == Desc.stride d - 1
  | _ => Desc.inWindow d t p || (Desc.globals d).contains p

/-! ### Softmax states (03 R90, R91) -/

/-- A softmax state. -/
structure Soft where
  m : F32
  l : F32
  o : List F32
  deriving DecidableEq, Repr

/-- The empty state of d values. -/
def Soft.empty (d : Nat) : Soft := ⟨F32.negInf, 0, List.replicate d 0⟩

/-- The maximum of two values, a NaN where either is one. DESIGN CHOICE (log entry 159): of +0 and -0 it is the first, the
running maximum. -/
def maxNaN (a b : F32) : F32 := if a.isNaN || b.isNaN then F32.nan else F32.max a b

/-- Words of a state (log entry 35): m, l and o, row after row. -/
def softWords (d : Nat) : Nat := d + 2

/-- Read state i at a word of space 0x3. -/
def Work.readSoft (w : Work) (st : Stores) (space word d i : Nat) : Soft :=
  let at_ := fun (j : Nat) => w.f32At st space word (i * softWords d + j)
  ⟨at_ 0, at_ 1, (List.range d).map fun j => at_ (j + 2)⟩

/-- Write state i. -/
def Work.putSoft (w : Work) (a : Acted) (space word d i : Nat) (x : Soft) : Acted :=
  (x.m :: x.l :: x.o).zipIdx.foldl (fun s (v, j) => w.putF32 s space word (i * softWords d + j) v) a

/-- Take one member into a state whose maximum is mb: weight exp2(s - mb) on its values. -/
def Soft.take (mb : F32) (x : Soft) (member : F32 × List F32) : Soft :=
  let wgt := F32.exp2 (F32.sub member.1 mb)
  { x with l := F32.add x.l wgt, o := (x.o.zip member.2).map fun (o, v) => F32.add o (F32.mul wgt v) }

/-- One block of members, each its scaled score and its values (03 R90). -/
def Soft.block (x : Soft) (ms : List (F32 × List F32)) : Soft :=
  if ms.isEmpty then x
  else
    let mb := ms.foldl (fun b y => maxNaN b y.1) x.m
    let alpha := if x.m = F32.negInf then 0 else F32.exp2 (F32.sub x.m mb)
    let x := { x with l := F32.mul x.l alpha, o := x.o.map fun v => F32.mul v alpha }
    { ms.foldl (Soft.take mb) x with m := mb }

/-- Members in blocks of 64. -/
def Soft.blocks : Nat → Soft → List (F32 × List F32) → Soft
  | 0, x, _ => x
  | fuel + 1, x, ms => if ms.isEmpty then x else Soft.blocks fuel (x.block (ms.take 64)) (ms.drop 64)

/-- Every member, in the given order. -/
def Soft.run (x : Soft) (ms : List (F32 × List F32)) : Soft := Soft.blocks (ms.length / 64 + 1) x ms

/-- Exponentials that n members cost: one each, and one for each block. -/
def exponentials (n : Nat) : Nat := n + Bits.ceilDiv n 64

/-- Whether a state is empty: m is minus infinity, l and every o are +0. -/
def Soft.isEmpty (x : Soft) : Bool := x.m == F32.negInf && x.l == 0 && x.o.all fun v => v == 0

/-- Output value j of a finished state: +0 where it is still empty. -/
def Soft.output (x : Soft) (j : Nat) : F32 := if x.isEmpty then 0 else F32.mul (x.o.getD j 0) (F32.recip x.l)

/-- Merge state 2 into state 1 (03 R91). -/
def Soft.merge (x y : Soft) : Soft :=
  if y.m = F32.negInf then x
  else if x.m = F32.negInf then y
  else
    let m := maxNaN x.m y.m
    let a1 := F32.exp2 (F32.sub x.m m)
    let a2 := F32.exp2 (F32.sub y.m m)
    ⟨m, F32.add (F32.mul x.l a1) (F32.mul y.l a2), (x.o.zip y.o).map fun (p, q) => F32.add (F32.mul p a1) (F32.mul q a2)⟩

/-! ### Results of an attention operation -/

/-- Put the states of an attention operation: at C, or, with the last piece of a chain's columns, down the result path. -/
def Work.putStates (w : Work) (a : Acted) (d : Nat) (xs : List Soft) (link : Option Link) : Acted :=
  match link with
  | some l =>
    if l.p.last then l.finish a d fun i j => w.scaled a.stores ((xs[i]?.map fun x => x.output j).getD 0) i j
    else xs.zipIdx.foldl (fun s (x, i) => w.putSoft s (Op.cSpace w.r) (Op.cBase w.r) d i x) a
  | none => xs.zipIdx.foldl (fun s (x, i) => w.putSoft s (Op.cSpace w.r) (Op.cBase w.r) d i x) a

/-- The state that a query row starts from. -/
def Work.startSoft (w : Work) (st : Stores) (d i : Nat) : Soft :=
  if Op.first w.r then Soft.empty d else w.readSoft st (Op.cSpace w.r) (Op.cBase w.r) d i

/-- The scale c of the scores: the scale register at col_base (log entry 35). -/
def Work.softScale (w : Work) (st : Stores) : F32 := scaleAt st w.c w.t (Op.colBase w.r)

/-- The bytes of g query rows of d values at A, through the expander; of a chain, as its prologue takes them. -/
def Work.queryBytes (w : Work) (st : Stores) (g d : Nat) (link : Option Link) : (Nat → Byte) × Expanded :=
  match link with
  | some l => l.operandA st
  | none =>
    w.source st 3 (Op.aSpace w.r) (Op.aBase w.r) (neededBlocks (((Fmt.ofCode (Op.fmtA w.r)).getD .fp32).bytes (g * d)) 0 1)

/-- The query rows of a record: g rows of d values at A, after the prologue stages of a chain (04 R98). -/
def Work.queries (w : Work) (st : Stores) (rd : Nat → Byte) (g d : Nat) (link : Option Link) : Operand :=
  match link with
  | some l => l.streamed st rd
  | none => w.operand st rd 0 ((Fmt.ofCode (Op.fmtA w.r)).getD .fp32) (Op.bindingA w.r) 0 g d false fun _ j => j

/-- Codes that query rows expand. -/
def Work.queryCodes (w : Work) (n : Nat) : Nat := if ((Fmt.ofCode (Op.fmtA w.r)).map Fmt.isCode).getD false then n else 0

/-! ### ATTD (03 R90) -/

/-- The format of dense keys: fmt_b, or E4M3 where fmt_b names the code format of the values (log entry 35). -/
def Work.keyFmt (w : Work) : Fmt :=
  let f := (Fmt.ofCode (Op.fmtB w.r)).getD .e4m3
  if f.isCode then .e4m3 else f
/-- The format of dense values. -/
def Work.valueFmt (w : Work) : Fmt := (Fmt.ofCode (Op.fmtB w.r)).getD .e4m3

/-- ATTD over a run of positions whose first one is b_stride: each query row's unmasked members, ascending. -/
def Work.attend (w : Work) (a : Acted) (shape : Option SeqShape) (link : Option Link) : Acted × Nat :=
  let g := Op.extM w.r
  let n := Op.extK w.r
  let d := Op.headDim w.r
  let st := a.stores
  let desc := w.desc st
  let kf := w.keyFmt
  let vf := w.valueFmt
  let keyBytes := kf.bytes (n * d)
  let valOff := Op.aStride w.r * 4
  let need := fun (i : Nat) => neededBlocks keyBytes 0 1 i ||
    (decide (valOff < (i + 1) * 4096) && decide (i * 4096 < valOff + vf.bytes (n * d)))
  let ra := w.queryBytes st g d link
  let rb := w.source st 4 (Op.bSpace w.r) (Op.bBase w.r) need
  let q := w.queries st ra.1 g d link
  let keys := w.operand st rb.1 0 kf (Op.bindingB w.r) 0 n d false fun _ j => j
  let vals := w.operand st rb.1 valOff vf (Op.bindingB w.r) 1 n d false fun _ j => j
  let c := w.softScale st
  let members := fun (i : Nat) =>
    let t := Desc.rowAt desc i
    ((List.range n).filter fun r =>
      let p := Op.bStride w.r + r
      Desc.admits desc shape (Op.causal w.r) t p && Desc.inSet desc t p).map fun r =>
        (F32.mul (sumFloat (fun k => F32.mul (q.f i k) (keys.f r k)) d 0) c, (List.range d).map fun j => vals.f r j)
  let rows := (List.range g).map fun i => (w.startSoft st d i, members i)
  let exps := (rows.map fun (_, ms) => exponentials ms.length).sum
  let a := (a.expanded ra.2).expanded rb.2
  let a := { a with codes := a.codes + w.queryCodes (g * d) + if vf.isCode then n * d else 0 }
  (w.putStates a d (rows.map fun (x, ms) => x.run ms) link, exps)

/-! ### Paired keys (03 R86 to R89, 09 R221) -/

/-- The key of entry c of bank j of a tile's score-table latch. -/
def scoreKey (c t j code : Nat) : Nat := tileKey c t (j * 512 + 2 * code)

/-- LSBUILD: the score table of one query row of 128 values from the centroids at B. -/
def Work.buildScores (w : Work) (a : Acted) : Acted :=
  let st := a.stores
  let ra := w.queryBytes st 1 128 none
  let rb := w.source st 4 (Op.bSpace w.r) (Op.bBase w.r) (neededBlocks 65536 0 1)
  let a := (a.expanded ra.2).expanded rb.2
  let q := w.queries st ra.1 1 128 none
  let z := fun (j c x : Nat) => F32.round (FVal.decode .fp16 (wordAt rb.1 (2 * (1024 * j + 4 * c + x)) 2))
  let entry := fun (j c : Nat) =>
    let p := fun (x : Nat) => F32.mul (q.f 0 (4 * j + x)) (z j c x)
    FVal.encode .fp16 (F32.add (F32.add (F32.add (p 0) (p 1)) (p 2)) (p 3)).val
  let table := (List.range 32).flatMap fun j => (List.range 256).flatMap fun c => Bits.toBytes 2 (entry j c)
  { a with codes := a.codes + w.queryCodes 128, stores := { st with scores := Mem.write st.scores (scoreKey w.c w.t 0 0) table } }

/-- The approximate score of the key whose codes start at byte off of B (03 R87). -/
def Work.score (w : Work) (st : Stores) (rd : Nat → Byte) (off : Nat) : F32 :=
  let t := fun (j : Nat) => F32.round (FVal.decode .fp16 (Mem.word st.scores (scoreKey w.c w.t j (rd (off + j)).toNat) 2))
  (List.range 31).foldl (fun s j => F32.add s (t (j + 1))) (t 0)

/-- The key of a tile among the selectors. -/
def tileNo (c t : Nat) : Nat := c * 14 + t

/-- LSCAN over a run of positions whose first one is b_stride: the unmasked ones pass to the selector, NaN scores are
counted instead. DESIGN CHOICE (log entry 138): with first, a clearing of the selector that waits for the boundary is
dropped as well. -/
def Work.scan (w : Work) (a : Acted) (shape : Option SeqShape) : Acted :=
  let st := a.stores
  let n := Op.extK w.r
  let desc := w.desc st
  let t := Desc.rowAt desc 0
  let rb := w.source st 4 (Op.bSpace w.r) (Op.bBase w.r) (neededBlocks (32 * n) 0 1)
  let ps := (List.range n).filter fun r =>
    let p := Op.bStride w.r + r
    Desc.admits desc shape (Op.causal w.r) t p && (Desc.pattern desc == 3 || Desc.inSet desc t p) &&
      !Desc.inWindow desc t p && !(Desc.globals desc).contains p
  let scored := ps.map fun r => (Op.bStride w.r + r, w.score st rb.1 (32 * r))
  let kept := scored.filter fun (x : Nat × F32) => !x.2.isNaN
  let key := tileNo w.c w.t
  let old := if Op.first w.r then [] else Table.get [] st.selectors key
  let loads := if Op.first w.r then st.loads.filter fun x => !(x.store == 3 && x.key == key) else st.loads
  let st := { st with selectors := Table.set st.selectors key (old ++ kept), loads := loads }
  ({ a with stores := st }.expanded rb.2).except (scored.length - kept.length)

/-- The K highest scores of a selector, the lower position of equal ones, in ascending position (03 R88). -/
def selectTop (k : Nat) (xs : List (Nat × F32)) : List Nat :=
  let better := fun (x y : Nat × F32) => F32.lt y.2 x.2 || (!F32.lt x.2 y.2 && decide (x.1 ≤ y.1))
  Lists.sortBy (fun a b => decide (a ≤ b)) (((Lists.sortBy better xs).take k).map (·.1))

/-- A padding slot of a slot list (log entry 35). -/
def paddingSlot : Nat := 0xFFFFFFFF

/-- LSELECT: K slots at C, and the selector cleared from the next beat on (03 R79), once for all the LSELECTs of a beat.
DESIGN CHOICE (log entry 138): what an LSCAN of the same beat passes after the last of them stays. -/
def Work.select (w : Work) (a : Acted) : Acted :=
  let k := Op.extK w.r
  let key := tileNo w.c w.t
  let xs := Table.get [] a.stores.selectors key
  let ps := selectTop k xs
  let slots := ps ++ List.replicate (k - ps.length) paddingSlot
  let a := w.put a (Op.cSpace w.r) (Op.cBase w.r * 4) (slots.flatMap fun (p : Nat) => Bits.toBytes 4 p)
  let st := a.stores
  let others := st.loads.filter fun x => !(x.store == 3 && x.key == key)
  { a with stores := { st with loads := others ++ [{ store := 3, key := key, first := xs.length, bytes := [] }] } }

/-- SMERGE: state 2 of each of g rows at B into state 1 at C (log entry 35). -/
def Work.mergeStates (w : Work) (a : Acted) : Acted :=
  let d := Op.headDim w.r
  let n := 4 * Op.extM w.r * softWords d
  let (bs, a) := w.operandBytes a 4 (Op.bSpace w.r) (Op.bBase w.r) n
  let second := fun (i j : Nat) => (BitVec.ofNat 32 (wordAt (fun x => bs.getD x 0) (4 * (i * softWords d + j)) 4) : F32)
  (List.range (Op.extM w.r)).foldl (fun s i =>
    let x := w.readSoft s.stores (Op.cSpace w.r) (Op.cBase w.r) d i
    let y : Soft := ⟨second i 0, second i 1, (List.range d).map fun j => second i (j + 2)⟩
    w.putSoft s (Op.cSpace w.r) (Op.cBase w.r) d i (x.merge y)) a

/-! ### RESCORE (03 R89) -/

/-- The page and byte of a position of a part in the lane that a RESCORE record names (log entry 35): layer and local head
in its b_stride. -/
def Work.pageOfPos (w : Work) (x : Seq) (part p : Nat) : Option (Page × Nat) :=
  let layer := Bits.range (Op.bStride w.r) 7 0
  let head := Bits.range (Op.bStride w.r) 15 8
  if x.shape.layers.toNat ≤ layer || x.shape.localHeads ≤ head then none
  else
    (x.present? (x.shape.pageNo part (layer * x.shape.localHeads + head) p)).map fun g =>
      (g, p % x.shape.perPage part * x.shape.e part)

/-- The bytes of a position of a part; free values where no page holds them (log entry 3). -/
def Work.posBytes (w : Work) (s : State) (x : Seq) (part p : Nat) : List Byte :=
  match w.pageOfPos x part p with
  | some (g, off) => s.readPage g off (x.shape.e part)
  | none => (List.range (x.shape.e part)).map fun b => Config.missingByte s.free p (part * 65536 + b)

/-- The first poisoned line that the key or the value of a position touches: cluster and offset. -/
def Work.posPoison (w : Work) (s : State) (x : Seq) (p : Nat) : Option (Nat × Nat) :=
  ([0, 1].filterMap fun part =>
    match w.pageOfPos x part p with
    | some (g, off) => (s.poisonIn 1 g.cluster (g.unit * unitBytes + off) (x.shape.e part)).map fun l =>
        (g.cluster, l * 64 - g.cluster * clusterSpan)
    | none => none).head?

/-- The format of a sequence's values (09 Table KV.2). -/
def SeqShape.valueFmt (x : SeqShape) : Fmt :=
  match x.kvFmt.toNat with
  | 2 => .c4 | 5 => .c4 | 3 => .c8 | 6 => .c8 | _ => .e4m3

/-- The bytes of a RESCORE record's slot list, through the expander. -/
def Work.slotBytes (w : Work) (st : Stores) : (Nat → Byte) × Expanded :=
  w.source st 4 (Op.bSpace w.r) (Op.bBase w.r) (neededBlocks (4 * Desc.topk (w.desc st)) 0 1)

/-- The slots of a RESCORE record's list that are no padding, as many as the descriptor's topk, with their places. -/
def Work.slotList (w : Work) (st : Stores) : List (Nat × Nat) :=
  let rd := (w.slotBytes st).1
  ((List.range (Desc.topk (w.desc st))).map fun i => (wordAt rd (4 * i) 4, i)).filter fun x => x.1 != paddingSlot

/-- The union of a row's window, global and selected positions that the deckle admits, ascending. -/
def Work.union (w : Work) (st : Stores) (shape : SeqShape) (i : Nat) : List Nat :=
  let d := w.desc st
  let t := Desc.rowAt d i
  let lo := (t - Desc.window d + 1).toNat
  let win := (List.range ((t + 1).toNat - lo)).map fun j => lo + j
  let all := (win ++ Desc.globals d ++ (w.slotList st).map (·.1)).eraseDups
  Lists.sortBy (fun a b => decide (a ≤ b)) (all.filter fun p => Desc.admits d (some shape) (Op.causal w.r) t p)

/-- Write bytes of the working store as far as they lie in it. -/
def Work.putInside (w : Work) (a : Acted) (byte : Nat) (bs : List Byte) : Acted :=
  w.put a 2 byte (bs.take (storeBytes w.t 2 - byte))

/-- Gather the key and value of every selected slot into the working store (log entry 35): keys at the word a_stride, then
values. -/
def Work.gather (w : Work) (s : State) (a : Acted) (x : Seq) : Acted :=
  let n := Desc.topk (w.desc a.stores)
  (w.slotList a.stores).foldl (fun st (p, i) =>
    let st := w.putInside st (Op.aStride w.r * 4 + 128 * i) (w.posBytes s x 0 p)
    w.putInside st (Op.aStride w.r * 4 + 128 * n + x.shape.e 1 * i) (w.posBytes s x 1 p)) a

/-- RESCORE of g query rows: exact scores and softmax over the union. DESIGN CHOICE (log entry 35): the keys and values of
window and global positions, which no rule places, are read from the sequence's pages as those of the slots are. -/
def Work.rescore (w : Work) (s : State) (a : Acted) (x : Seq) (link : Option Link) : Acted × Nat :=
  let g := Op.extM w.r
  let d := x.shape.dim
  let st := a.stores
  let ra := w.queryBytes st g d link
  let q := w.queries st ra.1 g d link
  let c := w.softScale st
  let vf := x.shape.valueFmt
  let member := fun (i p : Nat) =>
    let kb := w.posBytes s x 0 p
    let vb := w.posBytes s x 1 p
    let v := w.operand st (fun j => vb.getD j 0) 0 vf (Op.bindingB w.r) 1 1 d false fun _ j => j
    (F32.mul (sumFloat (fun k => F32.mul (q.f i k) (F32.round (FVal.decode .e4m3 (kb.getD k 0).toNat))) d 0) c,
      (List.range d).map fun j => v.f 0 j)
  let rows := (List.range g).map fun i => (w.startSoft st d i, (w.union st x.shape i).map fun p => member i p)
  let exps := (rows.map fun (_, ms) => exponentials ms.length).sum
  let a := w.gather s ((a.expanded ra.2).expanded (w.slotBytes st).2) x
  let a := { a with codes := a.codes + w.queryCodes (g * d) + if vf.isCode then (rows.map fun (_, ms) => ms.length * d).sum else 0 }
  (w.putStates a d (rows.map fun (z, ms) => z.run ms) link, exps)

end Sys2Proof.Machine
end

