-- ==== Sys2Proof/Machine/Tiles.lean ====
section
/-! DEFINITION. The operations of the tiles (03 Table TIL.2) and the coding of results (06 R148): each runs the tile's next
record of the open beat, where that is a record of its kind. -/

namespace Sys2Proof.Machine

/-! ### Counters and cycles (20 Tables OBS.1, OBS.3; 03 R80, R83, R511) -/

/-- Whether a format code is one of some formats. -/
def fmtIn (code : Nat) (fs : List Fmt) : Bool := ((Fmt.ofCode code).map fun f => fs.contains f).getD false

/-- The format in which the port reads the streamed operand of a record: fmt_a, or that of the link. -/
def Work.streamFmt (w : Work) (link : Option Link) : Option Fmt :=
  match link with
  | some l => l.streamFmt
  | none => Fmt.ofCode (Op.fmtA w.r)

/-- The format that the prologue stages of a record's slot state, where it has some. -/
def Work.statedFmt (link : Option Link) : Option Fmt := link.bind Link.statedFmt

/-- Whether a record multiplies in product-table mode. -/
def Work.byTable (w : Work) (link : Option Link) : Bool :=
  (Work.statedFmt link).isNone && tableMode w.t (w.streamFmt link) (Fmt.ofCode (Op.fmtB w.r))

/-- The formats of a record's operand pair before expansion of codes: of the streamed one, what its prologue states. -/
def Work.pair (w : Work) (link : Option Link) : List Fmt :=
  (Work.statedFmt link <|> w.streamFmt link).toList ++ (Fmt.ofCode (Op.fmtB w.r)).toList

/-- The MAC counter of a record's operand pair (20 Table OBS.1). -/
def Work.macIndex (w : Work) (link : Option Link) : Nat :=
  let either := fun (fs : List Fmt) => (w.pair link).any fun f => fs.contains f
  if w.byTable link then 4
  else if either [.c4, .c8] then 3
  else if either [.fp16, .bf16] then 1
  else if either [.int8, .int4] then 2 else 0

/-- Whether a record runs in 16-bit mode (03 R73); of a chain, as the formats that reach the array say (04 R99, R109). -/
def Work.wide (w : Work) (link : Option Link) : Bool :=
  let one := fun (f : Option Fmt) (b : Binding) => (f.map fun x => x == .fp16 || x == .bf16 || (x.isCode && b.fmt == .fp16)).getD false
  !w.byTable link &&
    (one (Work.statedFmt link <|> w.streamFmt link) (Op.bindingA w.r) || one (Fmt.ofCode (Op.fmtB w.r)) (Op.bindingB w.r))

/-- Cycles that fixed mode adds to a constant term (05 R118). -/
def Work.fixed (w : Work) : Nat := if w.img.header.getLsbD 264 then 14 else 0

/-- The start latency of a record whose operands an expander serves (06 R144), once for both (log entry 36). -/
def Work.expanderStart (w : Work) : Nat :=
  if ([3, 4] : List Nat).any fun use => (w.img.budgetOf use w.k w.t w.no).isSome then 24 + w.fixed else 0

/-- Weight lanes of a reel for a row count, by the streamed format (03 R83). -/
def Work.lanes (w : Work) (g : Nat) (f : Option Fmt) (link : Option Link) : Nat :=
  let port := match f with
    | some .c4 => 512 | some .int4 => 512 | some .fp16 => 128 | some .bf16 => 128 | _ => 256
  max 1 (min port ((if w.wide link then 1024 else 4096) / max g 1))

/-- Block sides, preload, fill and drain, and transposer square of a press mode (03 Table TIL.1). -/
def Work.pressMode (w : Work) (link : Option Link) : Nat × Nat × Nat × Nat × Nat :=
  if w.byTable link then (256, 128, 64, 384, 128) else if w.wide link then (64, 64, 32, 128, 64) else (128, 128, 64, 256, 128)

/-- Stages of a chain's slot and what they add to F (04 R106, R108). -/
def Link.stageCycles (l : Link) : Nat :=
  let gs := Chain.prologue l.d l.p.slot ++ Chain.epilogue l.d l.p.slot
  let pass := if l.p.first && Chain.normMode l.d = 1 && Chain.normOp l.d == l.p.slot then
      Bits.ceilDiv (l.p.shape.m * l.width) (if l.w.t < 8 then 128 else 64) else 0
  (gs.map fun g => if g.kind = 0x0B then 16 else 8).sum + pass

/-- Cycles of a record, none where the manual gives no count. same: the last multiply of the beat before it that did
something ran in the same mode. An ATTD whose values are coded otherwise than its keys streams both at the keys' port
width in the mode of the values' format: DESIGN CHOICE (log entry 36). -/
def Work.opCycles (w : Work) (same : Bool) (link : Option Link) : Option Nat :=
  let m := Op.extM w.r
  let k := Op.extK w.r
  let n := Op.extN w.r
  let extra := (link.map Link.stageCycles).getD 0 + w.expanderStart
  let moved := fun (bytes const : Nat) => some (Bits.ceilDiv bytes 256 + const + w.fixed + w.expanderStart)
  match Op.code w.r with
  | 0x01 | 0x02 =>
    let (kb, nb, l, f, sq) := w.pressMode link
    some (w.batches * Bits.ceilDiv k kb * Bits.ceilDiv n nb * max m l + (if same then 0 else f + w.fixed) +
      (if Op.ta w.r || Op.tb w.r then sq else 0) + extra)
  | 0x03 => some (64 + w.fixed)
  | 0x04 => moved (4 * m) 16
  | 0x05 => moved m 16
  | 0x06 =>
    let sq := if Op.ta w.r then (if ((Fmt.ofCode (Op.fmtA w.r)).map Fmt.bits).getD 8 ≤ 8 then 128 else 64) else 0
    moved m (16 + sq)
  | 0x07 => moved (4 * m) 8
  | 0x08 => some m
  | 0x11 => some (Bits.ceilDiv (k * n) (w.lanes m (Fmt.ofCode (Op.fmtB w.r)) link) + 64 + w.fixed +
      (if Op.tb w.r then (if w.wide link then 64 else 128) else 0) + extra)
  | 0x12 => some (Bits.ceilDiv (2 * k * Op.headDim w.r) (w.lanes m (some w.keyFmt) link) + 64 + w.fixed + extra)
  | 0x13 => some (64 + w.fixed + w.expanderStart)
  | 0x14 => some (Bits.ceilDiv k 8 + 24 + w.fixed + w.expanderStart)
  | 0x15 => some (if k = 0 then 0 else 16 + Bits.ceilDiv k 8 + w.fixed)
  | 0x18 => moved (Bits.ceilDiv (m * n * ((Fmt.ofCode (Op.fmtA w.r)).map Fmt.bits).getD 8) 8) 16
  | _ => none

/-- Add busy cycles of a tile to its cluster's group counters. -/
def State.busy (s : State) (c t cycles : Nat) : State :=
  match s.groups[c]? with
  | some g =>
    let n := BitVec.ofNat 64 cycles
    let g := if t < 8 then { g with pressBusy := g.pressBusy + n } else { g with reelBusy := g.reelBusy + n }
    { s with groups := s.groups.setIfInBounds c g }
  | none => s

/-- Change a cluster's group counters. -/
def State.modGroupCounters (s : State) (c : Nat) (f : GroupCounters → GroupCounters) : State :=
  { s with groups := s.groups.mapFinIdx fun i g _ => if i = c then f g else g }

/-! ### The next record of a tile -/

/-- The work that a tile does next: its next record of the open beat, once no result of it waits to be coded. -/
def State.nextWork (s : State) (c t : Nat) : Option (Nat × Work) :=
  match s.ptnOfCluster c with
  | none => none
  | some p =>
    match s.ptn? p with
    | none => none
    | some x =>
      match x.openRun with
      | none => none
      | some r =>
        if !s.ringRuns p || x.beat.closed || x.beat.collected.contains (c, t) || !(s.toCode r (c - x.low) t).isEmpty then none
        else
          match s.opsLeft r (c - x.low) t, s.image? r.ctx r.image with
          | o :: _, some img =>
            some (p, { c := c, k := c - x.low, t := t, ctx := r.ctx, beat := r.beat, slots := r.slots, img := img, no := Table.get 0 r.nextOp (opKey (c - x.low) t), r := o })
          | _, _ => none

/-- The chain that a piece belongs to. -/
def Work.link (w : Work) : Option Link :=
  match w.img.chain? (Op.chain w.r) with
  | none => none
  | some d =>
    let ops := w.img.opsOf w.k w.t
    (pieceOf d ops (Op.chain w.r) w.no).map fun p => ⟨w, d, ops, p⟩

/-- Whether an earlier heavy operation of the chain did nothing (04 R96). -/
def Link.ended (l : Link) : Bool := chainEnded l.d l.ops (Op.chain l.w.r) l.p.slot

/-- Whether an operation is a no-op (03 R78, 04 R96). -/
def Work.noOp (w : Work) : Bool :=
  let m := Op.extM w.r
  let k := Op.extK w.r
  let n := Op.extN w.r
  let zero := match Op.code w.r with
    | 0x01 => m = 0 || k = 0 || n = 0
    | 0x02 => m = 0 || k = 0 || n = 0 || Op.batch w.r = 0
    | 0x11 => m = 0 || k = 0 || n = 0
    | 0x12 => m = 0 || k = 0
    | 0x16 => m = 0 || k = 0
    | 0x14 => k = 0
    | 0x18 => m = 0 || n = 0
    | 0x03 => false
    | 0x13 => false
    | 0x15 => false
    | _ => m = 0
  zero || (w.link.any Link.ended)

/-- The records that the tile ran before this one in the same beat, the last one first. -/
def Work.before (w : Work) : List Work :=
  ((((w.img.opsOf w.k w.t).zipIdx.take w.no).filter fun x => Op.beat x.1 == Op.beat w.r).map fun x =>
    { w with no := x.2, r := x.1 }).reverse

/-- Whether the last press multiply of the beat that did something ran in the same mode (03 R80). -/
def Work.sameMode (w : Work) : Bool :=
  match w.before.find? fun v => (Op.code v.r == 1 || Op.code v.r == 2) && !v.noOp with
  | some v => v.pressMode v.link == w.pressMode w.link
  | none => false

/-- Move a tile past its next record. -/
def State.pastRecord (s : State) (p : Nat) (w : Work) : State :=
  s.modRun p fun r => { r with nextOp := Table.set r.nextOp (opKey w.k w.t) (w.no + 1) }

/-- Account for what an operation did, index 5 counting the multiplies of indices 0 to 4 on reels (20 Table OBS.1), and
take the fault of a malformed region (06 R145). -/
def State.account (s : State) (p : Nat) (w : Work) (a : Acted) (macs : List (Nat × Nat)) : State :=
  let x := w.ctx
  let s := { s with stores := a.stores }
  let s := macs.foldl (fun st (i, n) => (st.count x i n).count x 5 (if w.t < 8 || 4 < i then 0 else n)) s
  let s := ((((s.count x 8 a.codes).count x 9 a.coded).count x 10 a.raw).count x 11 a.cycles).count x 17 a.exceptions
  let link := w.link
  let (free, s) := match w.opCycles w.sameMode link with
    | some n => (n, s)
    | none => let (v, s) := s.takeFree; (v.toNat, s)
  let s := s.busy w.c w.t free
  match a.bad with
  | none => s
  | some b =>
    s.raiseFault {
      kind := 0x06
      ptn := some p
      ctx := some x
      unit := w.t
      cluster := w.k
      chain := (link.map fun l => Chain.id l.d).getD 0
      beat := w.beat
      record := w.no
      address := b }

/-- Run a tile's next record where its code is op: nothing happens otherwise. act gives what it does and the MACs that it
counts. -/
def State.tileOp (s : State) (op c t : Nat) (act : State → Work → Acted → Acted × List (Nat × Nat)) : State :=
  match s.nextWork c t with
  | none => s
  | some (p, w) =>
    if Op.code w.r != op then s
    else
      let s := s.pastRecord p w
      if w.noOp then s
      else
        let (a, macs) := act s w { stores := s.stores }
        s.account p w a macs

/-- The shape of the sequence that a descriptor's slot binds. -/
def State.boundSeq (s : State) (w : Work) : Option Seq :=
  let d := w.desc s.stores
  (w.slots.find? fun sl => sl.no == Desc.slot d).bind fun sl => s.seq? sl.seq

/-! ### The operations -/

/-- A multiply, as a piece of a chain or alone. -/
def Work.product (w : Work) (a : Acted) : Acted × List (Nat × Nat) :=
  (match w.link with
    | some l => l.multiply a
    | none => w.multiply a,
   [(w.macIndex w.link, w.batches * Op.extM w.r * Op.extK w.r * Op.extN w.r)])

/-- MM: press multiply. -/
def mmEffect (c : Cluster) (t : Tile) (s : State) : State := s.tileOp 0x01 c.val t.val fun _ w a => w.product a
def execMm (c : Cluster) (t : Tile) (s : State) : Result := .next (mmEffect c t s)

/-- MMB: batched press multiply. -/
def mmbEffect (c : Cluster) (t : Tile) (s : State) : State := s.tileOp 0x02 c.val t.val fun _ w a => w.product a
def execMmb (c : Cluster) (t : Tile) (s : State) : Result := .next (mmbEffect c t s)

/-- MMS: reel multiply. -/
def mmsEffect (c : Cluster) (t : Tile) (s : State) : State := s.tileOp 0x11 c.val t.val fun _ w a => w.product a
def execMms (c : Cluster) (t : Tile) (s : State) : Result := .next (mmsEffect c t s)

/-- Queue a load for the boundary (02 R57). -/
def Acted.load (a : Acted) (store key first : Nat) (bs : List Byte) (ctx : Option CtxNo := none) : Acted :=
  let st := a.stores
  { a with stores := { st with loads := st.loads ++ [{ store := store, key := key, first := first, bytes := bs, ctx := ctx }] } }

/-- The byte ranges of space 0x3 that hold correction vectors of the chains on a tile: those that a ZPC stage names. -/
def Image.corrections (img : Image) (k t : Nat) : List (Nat × Nat) :=
  let ops := img.opsOf k t
  img.chains.zipIdx.flatMap fun (d, j) =>
    if !(ops.any fun r => Op.chain r == j + 1) then []
    else (List.range (Chain.nOps d)).flatMap fun s =>
      ((Chain.prologue d s).filter fun g => g.kind == 2).map fun g =>
        let sh := slotShape d ops (j + 1) s
        (g.region * 4, g.region * 4 + 8 * sh.n + if g.sub = 1 then 4 * sh.m else 0)

/-- Write bytes of an operation that loads: those that lie in a correction vector are seen from the next beat on (02
R57). -/
def Work.putLoaded (w : Work) (a : Acted) (space byte : Nat) (bs : List Byte) : Acted :=
  let vs := if space = 3 then w.img.corrections w.k w.t else []
  if vs.all fun (lo, hi) => byte + bs.length ≤ lo || hi ≤ byte then w.put a space byte bs
  else
    bs.zipIdx.foldl (fun s (v, i) =>
      if vs.any fun (lo, hi) => lo ≤ byte + i && byte + i < hi then s.load 4 (tileNo w.c w.t) (byte + i) [v] (some w.ctx)
      else w.put s space (byte + i) [v]) a

/-- n bytes from a word of one of the tile's stores. -/
def Work.readBytes (w : Work) (st : Stores) (space word n : Nat) : List Byte := st.read w.c w.t space (word * 4) n

/-- PTBUILD: entry (a << 4) | b is TA[a] x TB[b] (02 R50, R63). -/
def Work.buildProducts (w : Work) (a : Acted) : Acted :=
  let st := a.stores
  let ta := (Op.bindingA w.r).table st w.c w.t 0 .c4 0
  let tb := (Op.bindingB w.r).table st w.c w.t 1 .c4 0
  let bs := ta.flatMap fun x => tb.flatMap fun y => Bits.toBytes 4 (F32.round (FVal.mul x y)).toNat
  a.load 2 (tileNo w.c w.t) (Op.ptSlot w.r * 1024) bs

def ptbuildEffect (c : Cluster) (t : Tile) (s : State) : State := s.tileOp 0x03 c.val t.val fun _ w a => (w.buildProducts a, [])
def execPtbuild (c : Cluster) (t : Tile) (s : State) : Result := .next (ptbuildEffect c t s)

/-- SCLOAD: scale registers from a region. -/
def Work.loadScales (w : Work) (a : Acted) : Acted :=
  let (bs, a) := w.operandBytes a 3 (Op.aSpace w.r) (Op.aBase w.r) (4 * Op.extM w.r)
  a.load 0 (tileNo w.c w.t) (4 * Op.colBase w.r) bs

def scloadEffect (c : Cluster) (t : Tile) (s : State) : State := s.tileOp 0x04 c.val t.val fun _ w a => (w.loadScales a, [])
def execScload (c : Cluster) (t : Tile) (s : State) : Result := .next (scloadEffect c t s)

/-- CBLOAD: a table image into a slot, counted in images, of the store that bind_b_which names. -/
def Work.loadBook (w : Work) (a : Acted) : Acted :=
  let b := Op.bindingB w.r
  let n := Op.extM w.r
  let (bs, a) := w.operandBytes a 3 (Op.aSpace w.r) (Op.aBase w.r) n
  a.load 1 (tileNo w.c w.t) (Bits.ofBool b.which * 8192 + b.slot * n) bs

def cbloadEffect (c : Cluster) (t : Tile) (s : State) : State := s.tileOp 0x05 c.val t.val fun _ w a => (w.loadBook a, [])
def execCbload (c : Cluster) (t : Tile) (s : State) : Result := .next (cbloadEffect c t s)

/-- The bytes of a transposed matrix of rows by cols elements. -/
def transposed (f : Fmt) (rd : Nat → Byte) (rows cols : Nat) : List Byte :=
  let at_ := fun (x : Nat) => elemAt f rd (x % rows * cols + x / rows)
  if f.bits = 4 then (List.range (rows * cols / 2)).map fun i => BitVec.ofNat 8 (at_ (2 * i) + 16 * at_ (2 * i + 1))
  else (List.range (rows * cols)).flatMap fun x => Bits.toBytes (f.bits / 8) (at_ x)

/-- MOVE: a copy of bytes, or the transpose of a matrix (03 R512). -/
def Work.moveBytes (w : Work) (a : Acted) : Acted :=
  let (bs, a) := w.operandBytes a 3 (Op.aSpace w.r) (Op.aBase w.r) (Op.extM w.r)
  let out := if Op.ta w.r then
      transposed ((Fmt.ofCode (Op.fmtA w.r)).getD .fp32) (fun i => bs.getD i 0) (Op.extK w.r) (Op.extN w.r)
    else bs
  w.putLoaded a (Op.cSpace w.r) (Op.cBase w.r * 4) out

def moveEffect (c : Cluster) (t : Tile) (s : State) : State := s.tileOp 0x06 c.val t.val fun _ w a => (w.moveBytes a, [])
def execMove (c : Cluster) (t : Tile) (s : State) : Result := .next (moveEffect c t s)

/-- FILL: the pattern in a_stride over a region. -/
def Work.fillWords (w : Work) (a : Acted) : Acted :=
  w.putLoaded a (Op.cSpace w.r) (Op.cBase w.r * 4) ((List.range (Op.extM w.r)).flatMap fun _ => Bits.toBytes 4 (Op.aStride w.r))

def fillEffect (c : Cluster) (t : Tile) (s : State) : State := s.tileOp 0x07 c.val t.val fun _ w a => (w.fillWords a, [])
def execFill (c : Cluster) (t : Tile) (s : State) : Result := .next (fillEffect c t s)

/-- MACs of a filler cycle: the array's 8-bit rate (log entry 36). -/
def fillerMacs (t cycles : Nat) : Nat := cycles * if t < 8 then 16384 else 4096

/-- FILLER: multiplies that write nothing, counted apart (15 R387). -/
def fillerEffect (c : Cluster) (t : Tile) (s : State) : State :=
  let s' := s.tileOp 0x08 c.val t.val fun _ w a => (a, [(16, fillerMacs t.val (Op.extM w.r))])
  match s.nextWork c.val t.val with
  | some (_, w) =>
    if Op.code w.r = 0x08 && !w.noOp then
      s'.modGroupCounters c.val fun g => { g with filler := g.filler + BitVec.ofNat 64 (fillerMacs t.val (Op.extM w.r)) }
    else s'
  | none => s'
def execFiller (c : Cluster) (t : Tile) (s : State) : Result := .next (fillerEffect c t s)

/-- MACs of an attention record: keys and values of every position for every row. -/
def Work.attentionMacs (w : Work) (n d : Nat) : List (Nat × Nat) := [(w.macIndex w.link, 2 * Op.extM w.r * n * d)]

/-- ATTD: dense-key attention. -/
def attdEffect (c : Cluster) (t : Tile) (s : State) : State :=
  s.tileOp 0x12 c.val t.val fun s w a =>
    let (a, exps) := w.attend a ((s.boundSeq w).map (·.shape)) w.link
    (a, w.attentionMacs (Op.extK w.r) (Op.headDim w.r) ++ [(7, exps)])
def execAttd (c : Cluster) (t : Tile) (s : State) : Result := .next (attdEffect c t s)

/-- LSBUILD: the score table of a query row. -/
def lsbuildEffect (c : Cluster) (t : Tile) (s : State) : State := s.tileOp 0x13 c.val t.val fun _ w a => (w.buildScores a, [])
def execLsbuild (c : Cluster) (t : Tile) (s : State) : Result := .next (lsbuildEffect c t s)

/-- LSCAN: score a run of positions into the selector. -/
def lscanEffect (c : Cluster) (t : Tile) (s : State) : State :=
  s.tileOp 0x14 c.val t.val fun s w a => (w.scan a ((s.boundSeq w).map (·.shape)), [(6, Op.extK w.r)])
def execLscan (c : Cluster) (t : Tile) (s : State) : Result := .next (lscanEffect c t s)

/-- LSELECT: emit the top K positions and clear the selector. -/
def lselectEffect (c : Cluster) (t : Tile) (s : State) : State := s.tileOp 0x15 c.val t.val fun _ w a => (w.select a, [])
def execLselect (c : Cluster) (t : Tile) (s : State) : Result := .next (lselectEffect c t s)

/-- The first poisoned line that the union of a RESCORE touches (08 R192). -/
def State.rescorePoison (s : State) (w : Work) : Option (Nat × Nat) :=
  match s.boundSeq w with
  | none => none
  | some x =>
    (((List.range (Op.extM w.r)).flatMap fun i => w.union s.stores x.shape i).filterMap fun p => w.posPoison s x p).head?

/-- The record that a tile's read of a poisoned line takes. -/
def Work.poisonFault (w : Work) (p : Nat) (line : Nat × Nat) : FaultInfo :=
  let l := locate line.1 line.2
  { kind := 0x04, ptn := some p, ctx := some w.ctx, unit := 14, cluster := line.1 - (w.c - w.k),
    chain := (w.link.map fun l => Chain.id l.d).getD 0, beat := w.beat, record := w.no, address := line.2,
    channel := l.channel, pch := l.pch, rank := l.rank }

/-- RESCORE: exact attention over window, global and selected positions; a poisoned line faults the run in its place. -/
def rescoreEffect (c : Cluster) (t : Tile) (s : State) : State :=
  match s.nextWork c.val t.val with
  | none => s
  | some (p, w) =>
    match if Op.code w.r = 0x16 && !w.noOp then s.rescorePoison w else none with
    | some line => (s.pastRecord p w).raiseFault (w.poisonFault p line)
    | none =>
      s.tileOp 0x16 c.val t.val fun s w a =>
        match s.boundSeq w with
        | some x =>
          let (a, exps) := w.rescore s a x w.link
          let gathered := (w.slotList s.stores).length * (x.shape.e 0 + x.shape.e 1)
          (a, w.attentionMacs (Op.extK w.r) x.shape.dim ++ [(7, exps), (20, gathered)])
        | none => (w.putStates a 128 ((List.range (Op.extM w.r)).map fun i => w.startSoft a.stores 128 i) w.link, [])
def execRescore (c : Cluster) (t : Tile) (s : State) : Result := .next (rescoreEffect c t s)

/-- SMERGE: merge state 2 into state 1. -/
def smergeEffect (c : Cluster) (t : Tile) (s : State) : State := s.tileOp 0x17 c.val t.val fun _ w a => (w.mergeStates a, [])
def execSmerge (c : Cluster) (t : Tile) (s : State) : Result := .next (smergeEffect c t s)

/-- ROWSUM: column sums of a stored operand into the colsum_w fields (03 R510), which are seen from the next beat on (02
R57). -/
def Work.columnSums (w : Work) (a : Acted) : Acted :=
  let m := Op.extM w.r
  let n := Op.extN w.r
  let f := (Fmt.ofCode (Op.fmtA w.r)).getD .int8
  let ra := w.source a.stores 3 (Op.aSpace w.r) (Op.aBase w.r) (neededBlocks (f.bytes (m * n)) 0 1)
  let x := w.operand a.stores ra.1 0 f (Op.bindingA w.r) 0 m n false fun _ j => j
  (List.range n).foldl (fun s j =>
    let sum := sumInt (fun i => x.z i j) m 0
    (s.load 4 (tileNo w.c w.t) (Op.cBase w.r * 4 + 8 * j) (Bits.toBytes 4 (Bits.ofInt 32 sum.1)) (some w.ctx)).except sum.2)
    (a.expanded ra.2)

def rowsumEffect (c : Cluster) (t : Tile) (s : State) : State := s.tileOp 0x18 c.val t.val fun _ w a => (w.columnSums a, [])
def execRowsum (c : Cluster) (t : Tile) (s : State) : Result := .next (rowsumEffect c t s)

/-! ### RESULT_CODING (06 R148) -/

/-- The output region of a record: space, word and bytes; of a chain piece, that of its slot. -/
def Work.output (w : Work) : Nat × Nat × Nat :=
  match w.link with
  | some l =>
    (Chain.outSpace l.d l.p.slot, Chain.outBase l.d l.p.slot, (Chain.linkFmt l.d l.p.slot).bytes (l.p.shape.m * l.p.shape.n))
  | none =>
    let bytes := match Op.code w.r with
      | 0x06 => Op.extM w.r
      | 0x07 => 4 * Op.extM w.r
      | 0x12 => 4 * Op.extM w.r * softWords (Op.headDim w.r)
      | 0x15 => 4 * Op.extK w.r
      | 0x16 => 4 * Op.extM w.r * softWords 128
      | 0x17 => 4 * Op.extM w.r * softWords (Op.headDim w.r)
      | 0x18 => 8 * Op.extN w.r
      | 0x02 => if Op.batch w.r = 0 then 0 else (Op.batch w.r - 1) * Op.cStride w.r * 4 + 4 * Op.extM w.r * Op.extN w.r
      | _ => 4 * Op.extM w.r * Op.extN w.r
    (Op.cSpace w.r, Op.cBase w.r, bytes)

/-- RESULT_CODING: the first result of the tile that waits is read in ascending address and its coded region written. -/
def resultCodingEffect (c : Cluster) (t : Tile) (s : State) : State :=
  match s.ptnOfCluster c.val with
  | none => s
  | some p =>
    match s.ptn? p with
    | none => s
    | some x =>
      match x.openRun with
      | none => s
      | some r =>
        let k := c.val - x.low
        match s.toCode r k t.val, s.image? r.ctx r.image with
        | (e, i) :: _, some img =>
          if !s.ringRuns p then s
          else
            let done := s.modRun p fun z => { z with coded := z.coded ++ [i] }
            match (img.opsOf k t.val)[Budget.op e]? with
            | none => done
            | some o =>
              let w : Work := { c := c.val, k := k, t := t.val, ctx := r.ctx, beat := r.beat, slots := r.slots, img := img, no := Budget.op e, r := o }
              if w.noOp then done
              else
                let (space, word, n) := w.output
                let (bs, coded, raw) := codeRegion (Budget.width e) (Budget.b e) false (w.readBytes s.stores space word n)
                let st := s.stores.write (some r.ctx) c.val t.val (Budget.dstSpace e) (Budget.dstBase e * 4) bs
                let s := { done with stores := st }
                let s := ((s.count r.ctx 12 coded).count r.ctx 13 raw).count r.ctx 14 (laneCycles n)
                s.modGroupCounters c.val fun g => { g with laneCyc := g.laneCyc + BitVec.ofNat 64 (laneCycles n) }
        | _, _ => s
def execResultCoding (c : Cluster) (t : Tile) (s : State) : Result := .next (resultCodingEffect c t s)

end Sys2Proof.Machine
end

