-- ==== Sys2Proof/Machine/Headbox.lean ====
section
/-! DEFINITION. The headbox (01 R16, R17; 05 R132; 06 R147, R149; 09 R213, R217; 10 R247 to R249; 13 R340): the issue of
move records with what is forbidden, their transactions, translation, and what retires. -/

namespace Sys2Proof.Machine

/-! ### Where bytes of an endpoint lie -/

/-- A translation that an access uses: space (directory index, or 2^20 + context), page or granule, and what it maps. -/
abbrev Translation := Nat × Nat × Place

/-- Where one byte of an endpoint lies: in a tile store, in tier 0 or tier 1, in a page that is not there, or nowhere, so
that a read delivers zero and a write is discarded. -/
inductive Spot where
  | store (cluster tile space byte : Nat)
  | tier (tier cluster off : Nat) (via : Option Translation)
  | missing (page byte : Nat)
  | nowhere
  deriving DecidableEq, Repr

/-- Whether b is k bytes after a, in one store or one mapped tile. -/
def Spot.after (a : Spot) (k : Nat) (b : Spot) : Bool :=
  match a, b with
  | .store c t sp x, .store c' t' sp' y => c == c' && t == t' && sp == sp' && x + k == y
  | .tier t c x v, .tier t' c' y v' => t == t' && c == c' && v == v' && x + k == y
  | _, _ => false

/-- Join bytes that lie one after another. -/
def joinSpots : List (Spot × Byte) → List (Spot × List Byte)
  | [] => []
  | (p, b) :: r =>
    match joinSpots r with
    | (q, bs) :: rest => if p.after 1 q then (p, b :: bs) :: rest else (p, [b]) :: (q, bs) :: rest
    | [] => [(p, [b])]

/-- The byte at a spot. -/
def State.spotByte (s : State) : Spot → Byte
  | .store c t sp b => s.stores.readByte c t sp b
  | .tier t c a _ => (s.readTier t c a 1).headD 0
  | .missing g b => Config.missingByte s.free g b
  | .nowhere => 0

/-- Write bytes from a spot on, for a context. -/
def State.writeSpot (s : State) (ctx : CtxNo) (p : Spot) (bs : List Byte) : State :=
  match p with
  | .store c t sp b => { s with stores := s.stores.write (some ctx) c t sp b bs }
  | .tier t c a _ => s.writeTier t c a bs
  | .missing .. => s
  | .nowhere => s

/-- Write bytes each at its spot. -/
def State.writeSpots (s : State) (ctx : CtxNo) (xs : List (Spot × Byte)) : State :=
  (joinSpots xs).foldl (fun st (p, bs) => st.writeSpot ctx p bs) s

/-- Byte off of an object as a spot. -/
def objSpot (o : Obj) (off : Nat) : Spot :=
  match o.locate off, o.tiles[off / tileBytes o.desc]? with
  | some (t, c, a), some x =>
    .tier t c a (some (1048576 + o.ctx.toNat, o.desc.vbase.toNat / unitBytes + off / tileBytes o.desc * tileUnits o.desc, x.place))
  | _, _ => .nowhere

/-- Where position t of a lane run lies in a sequence's pages: page and byte in it. -/
def SeqShape.laneByte (x : SeqShape) (l : LaneRun) (t b : Nat) : Nat × Nat :=
  if l.part = 3 then (logPage t, (256 + 4 * t) % 65536 + b)
  else (x.pageNo l.part (x.lane l) t, t % x.perPage l.part * x.e l.part + b)

/-- Whether a write at position t of an admitted slot may land: 09 R217, and for couch rows 10 R248. none: it is forbidden
at issue; some false: it is discarded. -/
def Slot.writes (sl : Slot) (x : Seq) (l : LaneRun) (t : Int) : Option Bool :=
  if l.part = 3 then none
  else if !x.shape.holdsLane l then some false
  else if t < 0 then (if l.couch then some false else none)
  else
    let n := t.toNat
    let page := (x.shape.laneByte l n 0).1
    if !x.shape.holdsPos n then some false
    else if sl.recompute then
      if sl.droppedAt.contains page || (!l.couch && sl.allocated.contains page && sl.base ≤ n && n < sl.base + sl.rowsKept) then
        some (!l.couch || n < sl.base + sl.rowsKept)
      else if l.couch || (x.present? page).isSome then some false
      else none
    else if sl.base ≤ n && n < sl.base + sl.rowsKept then some true
    else if l.couch then some false
    else none

/-- Byte j of a lane run of a run's slots, as a spot. -/
def State.laneSpot (s : State) (r : Run) (l : LaneRun) (write : Bool) (j : Nat) : Spot :=
  match r.slots.find? fun sl => sl.no == l.slot with
  | none => .nowhere
  | some sl =>
    match s.seq? sl.seq with
    | none => .nowhere
    | some x =>
      let e := x.shape.entryBytes l.part
      let t := l.first sl.cPrev (sl.cPrev + sl.nNew) sl.base + (j / e : Nat)
      let here := if write then sl.writes x l t == some true
        else 0 ≤ t && t.toNat < sl.limit && (l.part == 3 || (x.shape.holdsLane l && x.shape.holdsPos t.toNat))
      if !here then .nowhere
      else
        let (page, b) := x.shape.laneByte l t.toNat (j % e)
        match x.present? page with
        | some g => .tier 1 g.cluster (g.unit * unitBytes + b) (some (x.index, page, ⟨1, g.cluster, g.unit⟩))
        | none => if write then .nowhere else .missing page b

/-- Byte j of an endpoint of a run of a partition, as a spot. -/
def State.spot (s : State) (low : Nat) (r : Run) (e : Endpoint) (write : Bool) (j : Nat) : Spot :=
  match e with
  | .tile c t sp w => if w * 4 + j < storeBytes t sp then .store (low + c) t sp (w * 4 + j) else .nowhere
  | .layer c w => if w * 4 + j < layerSpan then .tier 0 (low + c) (w * 4 + j) none else .nowhere
  | .object k off =>
    match (r.objs[k]?).bind fun b => s.obj? r.ctx b with
    | some o => if off + j < o.size then objSpot o (off + j) else .nowhere
    | none => .nowhere
  | .peer .. => .nowhere
  | _ =>
    match e.laneRun with
    | some l => s.laneSpot r l write j
    | none => .nowhere

/-- Spots of bytes first to first + n - 1 of an endpoint. -/
def State.spots (s : State) (low : Nat) (r : Run) (e : Endpoint) (write : Bool) (first n : Nat) : List Spot :=
  (List.range n).map fun i => s.spot low r e write (first + i)

/-- The first poisoned line among spots: tier, cluster and offset (08 R192). -/
def State.spotPoison (s : State) (ps : List Spot) : Option (Nat × Nat × Nat) :=
  ps.findSome? fun p =>
    match p with
    | .tier t c a _ => if s.poison.contains (poisonLineOf t c a) then some (t, c, a / 64 * 64) else none
    | _ => none

/-- The 64-byte lines of tier 1 among spots: cluster and offset. -/
def tier1Lines (ps : List Spot) : List (Nat × Nat) :=
  (ps.filterMap fun p =>
    match p with
    | .tier 1 c a _ => some (c, a / 64 * 64)
    | _ => none).eraseDups

/-! ### The page translation cache (09 R210, R211) -/

/-- Leaf entries of a space that lie in the 64-byte line of a leaf entry and are valid. -/
def State.leafLine (s : State) (space number : Nat) : List Translation :=
  if space < 1048576 then
    match s.seqs.find? fun x => x.index == space with
    | some x => (x.pages.filter fun g => !g.dropped && g.no / 8 == number / 8).map fun g => (space, g.no, ⟨1, g.cluster, g.unit⟩)
    | none => []
  else
    (s.objs.filter fun o => 1048576 + o.ctx.toNat == space).flatMap fun o =>
      let k := tileUnits o.desc
      let at_ := o.tiles.zipIdx.map fun (t, i) => (space, o.desc.vbase.toNat / unitBytes + i * k, t.place)
      at_.filter fun x => x.2.1 / (8 * k) == number / (8 * k)

/-- Put an entry into its set of eight ways, in place of the least recently used. -/
def PageCache.insert (x : PageCache) (e : Translation) : PageCache :=
  let others := x.leaves.filter fun y => !(y.1 == e.1 && y.2.1 == e.2.1)
  let set := fun (y : Translation) => Config.cacheSet y.1 y.2.1 % 2048
  let mine := others.filter fun y => set y == set e
  let keep := if mine.length < 8 then others
    else match mine.head? with
      | some old => others.filter fun y => y != old
      | none => others
  { x with leaves := keep ++ [e] }

/-- Hold an interior entry, in place of the least recently used of 256. -/
def PageCache.hold (x : PageCache) (n : Nat × Nat × Nat) : PageCache :=
  let others := x.nodes.filter fun y => y != n
  { x with nodes := Lists.lastN 255 others ++ [n] }

/-- Use a translation in a cluster's cache: a hit counts as its last use, a miss walks the tree, is counted and fills the
line's valid entries. An entry that no longer maps what it held has been invalidated (R211). -/
def State.translate (s : State) (cluster : Nat) (ctx : CtxNo) (e : Translation) : State :=
  match s.caches[cluster]? with
  | none => s
  | some x =>
    let put := fun (st : State) (y : PageCache) => { st with caches := st.caches.setIfInBounds cluster y }
    if x.leaves.contains e then put s { x with leaves := x.leaves.filter (fun y => y != e) ++ [e] }
    else
      let line := (s.leafLine e.1 e.2.1).filter fun y => y != e
      let x := ((line ++ [e]).foldl (fun y t => y.insert t) x).hold (e.1, 0, e.2.1 / 262144)
      put (s.count ctx 26 1) (x.hold (e.1, 1, e.2.1 / 512))

/-- Translate what some spots need. -/
def State.translateSpots (s : State) (cluster : Nat) (ctx : CtxNo) (ps : List Spot) : State :=
  let es := (ps.filterMap fun p =>
    match p with
    | .tier _ _ _ v => v
    | _ => none).eraseDups
  es.foldl (fun st e => st.translate cluster ctx e) s

/-! ### The issue of a move (05 R132) -/

/-- The rows that issue moves. -/
inductive MoveKind where
  | plain | compressing | coded | page | couch | peer
  deriving DecidableEq, Repr

/-- The row that issues a move record. -/
def moveKind (m : MoveRec) : MoveKind :=
  if Mv.compress m then .compressing
  else if Mv.srcKind m = 4 ∨ Mv.dstKind m = 4 then .page
  else if Mv.dstKind m = 5 then .couch
  else if Mv.dstKind m = 6 then .peer
  else if Mv.budget m != 0 then .coded
  else .plain

/-- Whether a move is a coded copy (06 R147), whatever its endpoints are. -/
def isCodedCopy (m : MoveRec) : Bool := !Mv.compress m && Mv.budget m != 0

/-- The object of an endpoint of a run. -/
def State.endObj (s : State) (r : Run) : Endpoint → Option Obj
  | .object k _ => (r.objs[k]?).bind fun b => s.obj? r.ctx b
  | _ => none

/-- Whether an endpoint's object is protected; none where it names no object, and for the receive object of another
member, of which the sender knows nothing (log entry 51). -/
def State.endProt (s : State) (p : Nat) (r : Run) (e : Endpoint) : Option Bool :=
  match e with
  | .peer k _ => if (s.group? p).any fun g => g.index == k then (s.receiveObj p).map (·.desc.prot) else none
  | _ => (s.endObj r e).map (·.desc.prot)

/-- The address for which an endpoint of n bytes forbids its move: an object that is not there or is left behind, a weight
object written, a page write outside 09 R217, a member that does not exist. -/
def State.endForbids (s : State) (p : Nat) (r : Run) (e : Endpoint) (write : Bool) (n : Nat) : Option Nat :=
  match e with
  | .object _ off =>
    match s.endObj r e with
    | none => some off
    | some o => if o.size < off + n || (write && o.desc.kind == kindWeights) then some off else none
  | .peer k off => if ((s.group? p).bind fun g => g.members[k]?).isSome then none else some off
  | _ =>
    match e.laneRun with
    | none => none
    | some l =>
      if !write || l.couch then none
      else
        match r.slots.find? fun sl => sl.no == l.slot with
        | none => none
        | some sl =>
          match s.seq? sl.seq with
          | none => none
          | some x =>
            let eb := x.shape.entryBytes l.part
            (List.range (n / eb)).findSome? fun (i : Nat) =>
              let t := l.first sl.cPrev (sl.cPrev + sl.nNew) sl.base + (i : Int)
              if (sl.writes x l t).isNone then
                let (page, b) := x.shape.laneByte l t.toNat 0
                some (page * unitBytes + b)
              else none

/-- The used length that a coded copy's source header names, and the first poisoned line of that header. -/
def State.codedLength (s : State) (low : Nat) (r : Run) (src : Endpoint) : Nat × Option (Nat × Nat × Nat) :=
  let ps := s.spots low r src false 0 64
  let h := Bits.ofBytes (ps.map s.spotByte)
  (64 * Bits.range h 159 128, s.spotPoison ps)

/-- The offset that an endpoint's bits name, as a fault's address. -/
def Endpoint.address : Endpoint → Nat
  | .tile _ _ _ w => w
  | .layer _ w => w
  | .object _ off => off
  | .peer _ off => off
  | .page b => b
  | .couch _ _ _ _ row => row

/-- The address for which a move is forbidden (05 R132, 06 R147, R149). The source of a coded copy is held to lie in its
object with all the record's bytes, beyond the used ones too (log entry 51). -/
def State.forbids (s : State) (p low : Nat) (r : Run) (m : MoveRec) (src dst : Endpoint) : Option Nat :=
  let n := Mv.bytes m
  let out := if Mv.compress m then footprint n else n
  match s.endForbids p r src false n, s.endForbids p r dst true out with
  | some a, _ => some a
  | none, some a => some a
  | none, none =>
    if !isCodedCopy m then none
    else
      match s.endProt p r src, s.endProt p r dst with
      | some a, some b => if a != b || n < (s.codedLength low r src).1 then some src.address else none
      | _, _ => if n < (s.codedLength low r src).1 then some src.address else none

/-- Bytes that a move transfers: of a coded copy its used granules, or the whole footprint where an object is protected.
-/
def State.moveLength (s : State) (p low : Nat) (r : Run) (m : MoveRec) (src dst : Endpoint) : Nat :=
  if isCodedCopy m ∧ s.endProt p r src != some true ∧ s.endProt p r dst != some true then (s.codedLength low r src).1
  else Mv.bytes m

/-- The move that the headbox of a cluster issues next: partition, run, record and its number. -/
def State.nextMove (s : State) (c : Nat) : Option (Nat × Partition × Run × MoveRec × Nat) :=
  match s.ptnOfCluster c with
  | none => none
  | some p =>
    match s.ptn? p with
    | none => none
    | some x =>
      if !s.ringRuns p then none
      else
        match x.openRun with
        | none => none
        | some r => ((s.movesLeft r (c - x.low)).head?).map fun (m, i) => (p, x, r, m, i)

/-- The record of a poisoned line that a move met; one of tier 0 lies in no channel. -/
def State.poisonFault (s : State) (mv : Move) (at_ : Nat × Nat × Nat) : FaultInfo :=
  let f := s.moveFault mv 0x04 at_.2.2
  if at_.1 = 0 then f
  else
    let l := locate at_.2.1 at_.2.2
    { f with channel := l.channel, pch := l.pch, rank := l.rank }

/-- Count bytes of a move, in its context and its cluster. -/
def State.countMove (s : State) (mv : Move) (n : Nat) : State :=
  (s.modGroupCounters mv.cluster fun g => { g with hbBytes := g.hbBytes + BitVec.ofNat 64 n }).count mv.ctx 15 n

/-- Count the bytes of spots in each tier: read or written. -/
def State.countSpots (s : State) (ctx : CtxNo) (ps : List Spot) (write : Bool) : State :=
  let n := fun (k : Nat) => (ps.filter fun p =>
    match p with
    | .tier t _ _ _ => t == k
    | _ => false).length
  (s.count ctx (18 + Bits.ofBool write) (n 0)).count ctx (20 + Bits.ofBool write) (n 1)

/-- Issue the next move of a cluster where it is of a kind: a no-op retires at once, a forbidden move or one below a
poisoned tree node (16 R409) faults the run, any other is queued with its transactions. -/
def State.issueMove (s : State) (kind : MoveKind) (c : Nat) : State :=
  match s.nextMove c with
  | none => s
  | some (p, x, r, m, i) =>
    if moveKind m != kind then s
    else
      let s := s.modRun p fun z => { z with issued := z.issued ++ [(c - x.low, i)] }
      match Mv.source m, Mv.dest m with
      | some src, some dst =>
        if Mv.bytes m = 0 then s
        else
          let mv : Move := { id := s.moveNo, cluster := c, ctx := r.ctx, ptn := p, record := m, index := i,
                             bytes := s.moveLength p x.low r m src dst, lastBeat := Mv.lastBeat m }
          let node := ([src, dst].filterMap fun e => (s.endObj r e).bind (·.broken)).head?.map fun a => (1, x.low, a)
          match node <|> if isCodedCopy m then (s.codedLength x.low r src).2 else none with
          | some a => s.raiseFault (s.poisonFault mv a)
          | none =>
            match s.forbids p x.low r m src dst with
            | some a => s.raiseFault (s.moveFault mv 0x07 a)
            | none =>
              let s := { s with moveNo := s.moveNo + 1 }
              if kind = .couch then
                let rows := (s.spots x.low r src false 0 mv.bytes).map s.spotByte
                { s with moves := s.moves ++ [{ mv with couch := rows }] }
              else if mv.bytes = 0 then s
              else { s with moves := s.moves ++ [mv] }
      | _, _ => s

/-- HEADBOX_MOVE: a move between tile stores, layer stores and objects. -/
def headboxMoveEffect (c : Fin 8) (s : State) : State := s.issueMove .plain c.val
def execHeadboxMove (c : Fin 8) (s : State) : Result := .next (headboxMoveEffect c s)
/-- COMPRESSING_MOVE: a move that codes its source. -/
def compressingMoveEffect (c : Fin 8) (s : State) : State := s.issueMove .compressing c.val
def execCompressingMove (c : Fin 8) (s : State) : Result := .next (compressingMoveEffect c s)
/-- CODED_COPY: a move that copies a coded region unchanged. -/
def codedCopyEffect (c : Fin 8) (s : State) : State := s.issueMove .coded c.val
def execCodedCopy (c : Fin 8) (s : State) : Result := .next (codedCopyEffect c s)
/-- PAGE_RUN_MOVE: a move with a page-run endpoint. -/
def pageRunMoveEffect (c : Fin 8) (s : State) : State := s.issueMove .page c.val
def execPageRunMove (c : Fin 8) (s : State) : Result := .next (pageRunMoveEffect c s)
/-- COUCH_RUN: rows go through the couch buffer to their pages. -/
def couchRunEffect (c : Fin 8) (s : State) : State := s.issueMove .couch c.val
def execCouchRun (c : Fin 8) (s : State) : Result := .next (couchRunEffect c s)
/-- PEER_MOVE: a move to a member's receive object. -/
def peerMoveEffect (c : Fin 8) (s : State) : State := s.issueMove .peer c.val
def execPeerMove (c : Fin 8) (s : State) : Result := .next (peerMoveEffect c s)

/-! ### Transactions (01 R16, 08 R184) -/

/-- A move of a cluster by its number. -/
def State.move? (s : State) (c id : Nat) : Option Move := s.moves.find? fun m => m.cluster == c && m.id == id
/-- Change a move. -/
def State.modMove (s : State) (id : Nat) (f : Move → Move) : State := { s with moves := Lists.modifyIf (fun m => m.id == id) f s.moves }

/-- The endpoints of a move, with the run that it belongs to and the lowest cluster of its partition. -/
def State.moveEnds (s : State) (mv : Move) : Option (Nat × Run × Endpoint × Endpoint) :=
  match s.ptn? mv.ptn, Mv.source mv.record, Mv.dest mv.record with
  | some x, some a, some b => x.run.map fun r => (x.low, r, a, b)
  | _, _, _ => none

/-- Transactions outstanding in a cluster's headbox. -/
def State.outstanding (s : State) (c : Nat) : Nat :=
  (s.moves.filter fun m => m.cluster == c).foldl (fun n m => n + m.outstanding.length) 0

/-- The spots of one transaction of a move: those it reads and those it writes. -/
def State.chunkSpots (s : State) (mv : Move) (chunk : Nat) : List Spot × List Spot :=
  match s.moveEnds mv with
  | none => ([], [])
  | some (low, r, src, dst) =>
    let n := min 128 (mv.bytes - 128 * chunk)
    let from_ := if mv.couch.isEmpty then s.spots low r src false (128 * chunk) n else []
    let to_ := if Mv.compress mv.record then [] else s.spots low r dst true (128 * chunk) n
    (from_, to_)

/-- Whether the island of a move's headbox is clock-gated, as its partition is held (10 R264). -/
def State.gated (s : State) (mv : Move) : Bool := (s.ptn? mv.ptn).any fun x => x.beat.closed && x.held

/-- Whether a reset stops a move: its run's, or its partition's (16 R403, R407). -/
def State.halted (s : State) (mv : Move) : Bool :=
  !s.ringRuns mv.ptn || (s.run? mv.ptn).any fun r => r.stopped && r.ctx == mv.ctx

/-- HB_TXN_ISSUE: the next queued transaction of a move goes out while fewer than 8,192 are outstanding. -/
def hbTxnIssueEffect (c : Fin 8) (id : Nat) (s : State) : State :=
  match s.move? c.val id with
  | none => s
  | some mv =>
    if s.gated mv || s.halted mv || mv.bytes ≤ 128 * mv.next || 8192 ≤ s.outstanding c.val then s
    else
      let (a, b) := s.chunkSpots mv mv.next
      (s.translateSpots c.val mv.ctx (a ++ b)).modMove id fun m =>
        { m with next := m.next + 1, outstanding := m.outstanding ++ [(m.next, s.now)] }

def execHbTxnIssue (c : Fin 8) (id : Nat) (s : State) : Result := .next (hbTxnIssueEffect c id s)

/-- Write a move's bytes each at its spot; those that lie in a correction vector of a chain are seen from the next beat on
(02 R57). -/
def State.writeMoved (s : State) (mv : Move) (xs : List (Spot × Byte)) : State :=
  match s.moveEnds mv with
  | none => s
  | some (low, r, _, _) =>
    let vs := fun (c t : Nat) => ((s.image? r.ctx r.image).map fun img => img.corrections (c - low) t).getD []
    let later := fun (p : Spot) =>
      match p with
      | .store c t 3 b => (vs c t).any fun (lo, hi) => lo ≤ b && b < hi
      | _ => false
    let s := s.writeSpots mv.ctx (xs.filter fun x => !later x.1)
    let loads := (joinSpots (xs.filter fun x => later x.1)).filterMap fun (p, bs) =>
      match p with
      | .store c t _ b => some (⟨4, c * 14 + t, b, bs, some mv.ctx⟩ : PendingLoad)
      | _ => none
    { s with stores := { s.stores with loads := s.stores.loads ++ loads } }

/-- Send bytes of a peer move from an offset of the member's receive object as data frames, which are kept until they are
acknowledged (13 R340). To the member itself they are written at once. -/
def State.sendPeer (s : State) (mv : Move) (r : Run) (member off : Nat) (bs : List Byte) : State :=
  match (s.group? mv.ptn).bind fun g => (g.members[member]?).map fun m => (g, m) with
  | none => s
  | some (g, m) =>
    let s := s.count mv.ctx 23 bs.length
    if member = g.index then
      match s.writeReceived mv.ptn off bs with
      | (s', true) => s'
      | (s', false) => s'.raiseFault (s'.moveFault mv 0x07 off)
    else
      (frameCuts (bs.length / 4096 + 1) off bs).foldl (fun st (a, b) => st.sendData mv.ptn m.1 m.2 a b (some r.q) (some mv.id)) s

/-- The coded region of a compressing move goes to its destination when its source has been read (06 R147, R149), with
what its writes of tier 1 met. To another member the region is coded without protection, its receive object being
unknown here: DESIGN CHOICE (log entry 51). -/
def State.writeCoded (s : State) (mv : Move) (o : ReadOutcome) : State :=
  match s.moveEnds mv with
  | none => s
  | some (low, r, src, dst) =>
    match s.image? r.ctx r.image with
    | none => s
    | some img =>
      match img.budgets[Mv.budget mv.record - 1]? with
      | none => s
      | some e =>
        let bs := (s.spots low r src false 0 mv.bytes).map s.spotByte
        let (region, coded, raw) := codeRegion (Budget.width e) (Budget.b e) (s.endProt mv.ptn r dst == some true) bs
        let s :=
          match dst with
          | .peer k off => s.sendPeer mv r k off region
          | _ =>
            let ps := s.spots low r dst true 0 region.length
            ((s.writeMoved mv (ps.zip region)).meetsLines (tier1Lines ps) false o).countSpots mv.ctx ps true
        let cyc := laneCycles mv.bytes
        let s := s.modGroupCounters mv.cluster fun g => { g with laneCyc := g.laneCyc + BitVec.ofNat 64 cyc }
        ((s.count mv.ctx 12 coded).count mv.ctx 13 raw).count mv.ctx 14 cyc

/-- Retire a move all of whose transactions have retired; a peer move stands until every frame of it is acknowledged (13
R340). -/
def State.settleMove (s : State) (mv : Move) (o : ReadOutcome) : State :=
  if mv.retired then
    let s := if Mv.compress mv.record then s.writeCoded mv o else s
    if s.felt.unacked.any fun x => x.move == some mv.id then s
    else { s with moves := s.moves.filter fun m => m.id != mv.id }
  else s

/-- A frame of a peer move leaves when the last transaction that reads its 4,096 bytes has retired. -/
def State.sendChunk (s : State) (mv : Move) (chunk : Nat) : State :=
  match s.moveEnds mv with
  | some (low, r, src, .peer k off) =>
    let n := min 4096 (mv.bytes - 4096 * (chunk / 32))
    let last := 32 * (chunk / 32) + (n + 127) / 128
    if Mv.compress mv.record || mv.next < last || mv.outstanding.any fun x => x.1 / 32 == chunk / 32 then s
    else s.sendPeer mv r k (off + 4096 * (chunk / 32)) ((s.spots low r src false (4096 * (chunk / 32)) n).map s.spotByte)
  | _ => s

/-- The bytes of one transaction arrive: they are read and written each at its place. -/
def State.deliverChunk (s : State) (mv : Move) (chunk : Nat) (from_ to_ : List Spot) : State :=
  let n := min 128 (mv.bytes - 128 * chunk)
  let bs := if mv.couch.isEmpty then from_.map s.spotByte else (mv.couch.drop (128 * chunk)).take n
  let s := (s.takeFree).2
  let s := (((s.writeMoved mv (to_.zip bs)).countSpots mv.ctx from_ false).countSpots mv.ctx to_ true).countMove mv n
  s.sendChunk mv chunk

/-- HB_TXN_RETIRE: a transaction's data has returned or its lines are queued, with what its reads and its writes of tier 1
met. A poisoned line faults the context and delivers nothing; a write that failed leaves its line poisoned (08 R191). What
returns for a run or a partition that a reset has stopped is discarded (16 R403, R407). -/
def hbTxnRetireEffect (c : Fin 8) (id chunk : Nat) (o w : ReadOutcome) (s : State) : State :=
  match s.move? c.val id with
  | none => s
  | some mv =>
    if s.gated mv || !(mv.outstanding.any fun x => x.1 == chunk) then s
    else
      let (from_, to_) := s.chunkSpots mv chunk
      let mv' := { mv with outstanding := mv.outstanding.filter fun x => x.1 != chunk }
      let s := s.modMove id fun _ => mv'
      let reads := tier1Lines from_
      if s.halted mv && !reads.isEmpty then s
      else
        let s := s.meetsLines reads true o
        match s.spotPoison from_ with
        | some a => s.raiseFault (s.poisonFault mv a)
        | none => ((s.deliverChunk mv' chunk from_ to_).meetsLines (tier1Lines to_) false w).settleMove mv' w

def execHbTxnRetire (c : Fin 8) (id chunk : Nat) (o : TxnOutcome) (s : State) : Result :=
  .next (hbTxnRetireEffect c id chunk o.read o.written s)

end Sys2Proof.Machine
end

