-- ==== Sys2Proof/Machine/Keeper.lean ====
section
/-! DEFINITION. The keepers (07 R161 to R175, 08 R193, R197, 16 R409): migration and promotion of tiles, reclaim after a cut,
and the action on poisoned lines. -/

namespace Sys2Proof.Machine

/-- Whether the keeper of a partition works: it is not restarting, and the device is not paused (08 R199, 16 R411). -/
def State.keeperWorks (s : State) (p : Nat) : Bool := s.stacksRun && !s.restarting (keeperIsland p)

/-! ### TILE_MIGRATE and TILE_PROMOTE (07 R161, R163, 08 R197) -/

/-- Where the keeper takes a tile: out of a region that is out of service to another of its cluster; a tile whose home is
tier 1 and that lies in tier 0, to tier 1, within quota and limit (07 R163). -/
def State.migrationDest (s : State) (p : Nat) (o : Obj) (t : ResTile) : Option Place :=
  let k := tileUnits o.desc
  if t.place.tier = 1 then
    if (List.range k).any fun i => s.unitOut (t.place.unit + i) then (s.freeUnit 1 t.place.cluster k k).map fun u => ⟨1, t.place.cluster, u⟩
    else none
  else if o.desc.home = 1 && !o.desc.pin && s.within p (some o.ctx) 1 k then
    (s.freeUnit 1 t.place.cluster k k).map fun u => ⟨1, t.place.cluster, u⟩
  else none

/-- TILE_MIGRATE: the keeper copies a tile that the run in progress does not bind; out of a region that is out of
service only in the order of 08 R197. -/
def tileMigrateEffect (c : CtxNo) (base : BitVec 42) (tile : Nat) (s : State) : State :=
  match s.obj? c base with
  | none => s
  | some o =>
    match o.tiles[tile]? with
    | none => s
    | some t =>
      if !s.keeperWorks (ptnOf c) || s.bound o || s.migrating c base tile || (t.place.tier == 1 && !s.evacTurn c base tile) then s
      else
        match s.migrationDest (ptnOf c) o t with
        | some d => s.startMigration c base tile d
        | none => s

def execTileMigrate (c : CtxNo) (base : BitVec 42) (tile : Nat) (s : State) : Result := .next (tileMigrateEffect c base tile s)

/-- Displaced tiles of a partition that may be promoted, most recent last use first; tiles of equal last use in the
order in which their objects were created, ascending within one: DESIGN CHOICE, the spec does not order them (log entry
164). -/
def State.displaced (s : State) (p : Nat) : List (Obj × ResTile × Nat) :=
  let all := (s.objs.filter fun o => ptnOf o.ctx == p && o.desc.home == 0 && !o.desc.pin &&
    !s.loaded o.ctx o.desc.vbase && !s.bound o).flatMap fun o =>
    (o.tiles.zipIdx.filter fun (t, i) => t.place.tier == 1 && !s.migrating o.ctx o.desc.vbase i).map fun (t, i) => (o, t, i)
  Lists.sortBy (fun (a b : Obj × ResTile × Nat) => decide (b.2.1.lastUse.toNat ≤ a.2.1.lastUse.toNat)) all

/-- The place in tier 0 to which a displaced tile can go back: a free one of its cluster, within quota and limit, and none
while the partition or the context is over quota (07 R163). -/
def State.promotion (s : State) (p : Nat) (o : Obj) (t : ResTile) : Option Place :=
  let k := tileUnits o.desc
  if s.overQuota p (some o.ctx) || !s.within p (some o.ctx) 0 k then none
  else (s.freeUnit 0 t.place.cluster k k).map fun u => ⟨0, t.place.cluster, u⟩

/-- TILE_PROMOTE: of the displaced tiles, the one of most recent last use that finds a place in tier 0 goes back there. -/
def tilePromoteEffect (p : Fin 8) (s : State) : State :=
  if !s.keeperWorks p.val then s
  else
    match (s.displaced p.val).findSome? fun (o, t, i) => (s.promotion p.val o t).map fun d => (o, i, d) with
    | some (o, i, d) => s.startMigration o.ctx o.desc.vbase i d
    | none => s

def execTilePromote (p : Fin 8) (s : State) : Result := .next (tilePromoteEffect p s)

/-! ### QUOTA_RECLAIM (07 R172 to R175) -/

/-- What a reclaim works on: a partition, or one context of it. -/
structure Reclaim where
  p : Nat
  ctx : Option CtxNo := none
  deriving DecidableEq, Repr

/-- Charge and target of a reclaim in a tier. -/
def State.reclaimCharge (s : State) (x : Reclaim) (tier : Nat) : Nat :=
  match x.ctx with
  | some c => s.ctxCharge c tier
  | none => s.charge x.p tier
def State.reclaimTarget (s : State) (x : Reclaim) (tier : Nat) : Nat :=
  match x.ctx with
  | some c => s.ctxLimit c tier
  | none => s.quota x.p tier

/-- The charge as it will stand when the migrations under way have switched. -/
def State.reclaimDue (s : State) (x : Reclaim) (tier : Nat) : Nat :=
  s.reclaimCharge x tier + s.carried x.p x.ctx (1 - tier) - s.carried x.p x.ctx tier

/-- Whether a context's tiles belong to a reclaim: a context reset takes them out of it (07 R174). -/
def State.reclaims (s : State) (x : Reclaim) (c : CtxNo) : Bool :=
  ptnOf c == x.p && x.ctx.all (· == c) && ((s.ctx? c).map fun y => y.reset.isNone && !y.reclaimOff).getD false

/-- The context that a page of a sequence is charged to (07 R167): its own, or for a shared page the one that registered
the oldest handle that holds it; none where that one has ended. -/
def State.pageOwner (s : State) (x : Seq) (g : Page) : Option CtxNo :=
  if !g.shared then some x.ctx
  else (s.handles.find? fun h => h.pages.any fun y => !y.dropped && y.same g).bind fun h => if h.ended then none else some h.ctx

/-- Whether a page belongs to a reclaim: of a context, the pages charged to it (07 R175). -/
def State.reclaimsPage (s : State) (x : Reclaim) (y : Seq) (g : Page) : Bool :=
  match x.ctx with
  | none => s.reclaims x y.ctx
  | some _ => (s.pageOwner y g).any (s.reclaims x)

/-- Tier-0 tiles in age order: candidates, or those that only the run in progress holds back. -/
def State.reclaimTiles (s : State) (x : Reclaim) (bound : Bool) : List (Obj × ResTile × Nat) :=
  let mine := s.objs.filter fun o => s.reclaims x o.ctx && !o.desc.pin && !s.loaded o.ctx o.desc.vbase && s.bound o == bound
  let all := mine.flatMap fun o =>
    (o.tiles.zipIdx.filter fun (t, i) => t.place.tier == 0 && !s.migrating o.ctx o.desc.vbase i).map fun (t, i) => (o, t, i)
  let le := fun (a b : Obj × ResTile × Nat) =>
    let ka := (a.2.1.lastUse.toNat, a.1.ctx.toNat, a.1.desc.vbase.toNat + a.2.2)
    let kb := (b.2.1.lastUse.toNat, b.1.ctx.toNat, b.1.desc.vbase.toNat + b.2.2)
    ka.1 < kb.1 || (ka.1 == kb.1 && (ka.2.1 < kb.2.1 || (ka.2.1 == kb.2.1 && ka.2.2 ≤ kb.2.2)))
  Lists.sortBy le all

/-- Drop the oldest droppable pages of a cluster until some units of its tier 1 are free, at most fuel of them; the unit,
where one came free. -/
def State.dropForRoom (s : State) (x : Reclaim) (cluster k : Nat) : Nat → State × Option Nat
  | 0 => (s, s.freeUnit 1 cluster k k)
  | fuel + 1 =>
    match s.freeUnit 1 cluster k k with
    | some u => (s, some u)
    | none =>
      match s.dropOrder x.p fun y g => s.reclaimsPage x y g && g.cluster == cluster with
      | [] => (s, none)
      | (i, g) :: _ => (s.dropPages i [g.no]).dropForRoom x cluster k fuel

/-- Step 1: migrate candidate tier-0 tiles in age order while the target is unmet. -/
def State.reclaimTier0 (s : State) (x : Reclaim) : List (Obj × ResTile × Nat) → State
  | [] => s
  | (o, t, i) :: rest =>
    if s.reclaimDue x 0 ≤ s.reclaimTarget x 0 then s
    else
      match s.dropForRoom x t.place.cluster (tileUnits o.desc) (s.reclaimCharge x 1) with
      | (s', some u) => (s'.startMigration o.ctx o.desc.vbase i ⟨1, t.place.cluster, u⟩).reclaimTier0 x rest
      | (s', none) => s'.reclaimTier0 x rest

/-- Step 2: drop droppable tier-1 tiles in age order while the target is unmet. -/
def State.reclaimTier1 (s : State) (x : Reclaim) : List (Nat × Page) → State
  | [] => s
  | (i, g) :: rest =>
    if s.reclaimDue x 1 ≤ s.reclaimTarget x 1 then s else (s.dropPages i [g.no]).reclaimTier1 x rest

/-- Whether a page of a reclaim in some clusters is held back only because the run in progress binds it. -/
def State.pagesWait (s : State) (x : Reclaim) (cluster : Nat → Bool) : Bool :=
  (s.seqsOf x.p).any fun y => y.pages.any fun g => cluster g.cluster && s.reclaimsPage x y g && !s.spared y g && s.pageBound y g

/-- Step 3: whether tiles that could meet the target are held back only because the run in progress binds them: tier-0
tiles, pages that would make room for one, pages to be dropped. -/
def State.reclaimWaits (s : State) (x : Reclaim) : Bool :=
  let room := (s.reclaimTiles x false).any fun (_, t, _) => s.pagesWait x (· == t.place.cluster)
  let t0 := s.reclaimTarget x 0 < s.reclaimDue x 0 && (!(s.reclaimTiles x true).isEmpty || room)
  let t1 := s.reclaimTarget x 1 < s.reclaimDue x 1 && s.pagesWait x fun _ => true
  t0 || t1

/-- Carry a reclaim on: steps 1 and 2 now; once no migration of it is under way and nothing is held back, the residuals
are reported. -/
def State.reclaim (s : State) (x : Reclaim) : State :=
  let s := s.reclaimTier0 x (s.reclaimTiles x false)
  let s := s.reclaimTier1 x (s.dropOrder x.p (s.reclaimsPage x))
  if s.reclaimWaits x || s.carried x.p x.ctx 0 != 0 then s
  else
    let r0 := s.reclaimCharge x 0 - s.reclaimTarget x 0
    let r1 := s.reclaimCharge x 1 - s.reclaimTarget x 1
    let who := (x.ctx.map BitVec.toNat).getD 0xFFF
    let s := match x.ctx with
      | some c => s.modCtx c fun y => { y with reclaiming := false, reclaimOff := false }
      | none => (s.joinReclaim x.p).modPtn x.p fun y =>
          { y with reclaiming := false, residT0 := BitVec.ofNat 12 r0, residT1 := BitVec.ofNat 23 (max r1 (s.stranded x.p)),
                   overT0 := r0 != 0, overT1 := r1 != 0 }
    let s := s.event (.ctx (mgmt x.p)) 0x0021 who r0 r1
    if r0 != 0 || r1 != 0 then s
    else
      match x.ctx with
      | some c => (s.modCtx c fun y => { y with overLimit := false }).event (.ctx (mgmt x.p)) 0x0022 who 0 0
      | none => s.event (.ctx (mgmt x.p)) 0x0022 who 0 0

/-- QUOTA_RECLAIM: the keeper carries on the reclaims of a partition and of its contexts. -/
def quotaReclaimEffect (p : Fin 8) (s : State) : State :=
  match s.ptn? p.val with
  | none => s
  | some x =>
    if !s.keeperWorks p.val then s
    else
      let s := if x.reclaiming then s.reclaim { p := p.val } else s
      (s.ctxsOf p.val).foldl (fun st c => if c.reclaiming then st.reclaim { p := p.val, ctx := some c.no } else st) s

def execQuotaReclaim (p : Fin 8) (s : State) : Result := .next (quotaReclaimEffect p s)

/-! ### KEEPER_POISON_ACTION (08 R193, 16 R409) -/

/-- The sequences of a partition whose directory entry lies in a line of its reserve: byte offset a. -/
def State.brokenSeqs (s : State) (p : Nat) (x : Partition) (a : Nat) : List Seq :=
  (s.seqsOf p).filter fun y => ((x.reserve + x.n * 64) * unitBytes + 64 * x.dirPlace y.index) / 64 == a / 64

/-- A sequence becomes lost (09 R228). -/
def State.loseSeq (s : State) (x : Seq) : State :=
  if x.state != .opened then s
  else
    let s := s.modSeq x.index fun y => { y with state := .lost }
    let s := s.modPtn (ptnOf x.ctx) fun pt => { pt with recompute := pt.recompute.filter fun ch => ch.seq != x.no }
    s.event (.ctx x.ctx) 0x0042 x.no.toNat 0 0

/-- Whether an object is mapped below a node of its context's tree: the granules of a root, mid or leaf node (09 Table
KV.3). -/
def Obj.below (o : Obj) (y : TreeNode) : Bool :=
  let first := o.desc.vbase.toNat / 65536
  let last := (o.desc.vbase.toNat + o.tiles.length * tileBytes o.desc - 1) / 65536
  let sh := if y.level = 0 then 26 else if y.level = 1 then 18 else 9
  objSpace o.ctx == y.space && first / 2 ^ sh ≤ y.key && y.key ≤ last / 2 ^ sh

/-- The node that a line of the node pool belongs to is lost: a sequence loses its pages with it, an object of a context
is out of reach where it is mapped below it (16 R409). -/
def State.nodeLost (s : State) (x : Partition) (a : Nat) : State :=
  match x.tree.find? fun y => y.place == (a - x.reserve * unitBytes) / 4096 with
  | none => s
  | some y =>
    match s.seqs.find? fun z => z.index == y.space with
    | some z => s.loseSeq z
    | none => { s with objs := s.objs.map fun o => if o.below y then { o with broken := some a } else o }

/-- A poisoned line of a partition's reserve: what it held is lost, and the partition is reset. -/
def State.reservePoisoned (s : State) (p : Nat) (x : Partition) (a : Nat) : State :=
  let s := if a < (x.reserve + x.n * 64) * unitBytes then s.nodeLost x a
    else (s.brokenSeqs p x a).foldl (fun st y => st.loseSeq y) s
  let l := locate x.low a
  s.raiseFault { kind := 0x05, ptn := some p, address := a, channel := l.channel, pch := l.pch, rank := l.rank }

/-- A sample loses the line that lies in one of its units: what it reads there is a free value (16 R409, log entry 3). -/
def State.sampleLoses (s : State) (cluster a : Nat) : State :=
  let lost := (List.range 64).map fun i => Config.missingByte s.free 0 i
  ({ s with tier1 := Mem.write s.tier1 (tierKey 1 cluster (a / 64 * 64)) lost } : State).takeFree.2

/-- Find a place for a poisoned weight tile: a free one of its cluster, for which the oldest droppable pages of the
partition make room. -/
def State.refetchRoom (s : State) (p cluster : Nat) : Nat → State × Option Nat
  | 0 => (s, s.freeUnit 1 cluster 32 32)
  | fuel + 1 =>
    match s.freeUnit 1 cluster 32 32 with
    | some u => (s, some u)
    | none =>
      match s.dropOrder p fun _ _ => true with
      | [] => (s, none)
      | (i, g) :: _ => (s.dropPages i [g.no]).refetchRoom p cluster fuel

/-- Whether a load, a swap or a reload has still to write a tile of a weight object, which clears its poison. -/
def State.tileWanted (s : State) (o : Obj) (tile : Nat) : Bool :=
  (s.weight? o.ctx o.desc.vbase).any fun w => w.wanted.any fun x => x.tile == tile

/-- Refetch the shard of a poisoned weight tile into a new place (08 R193), from the version that the tile holds (11
R290). -/
def State.startRefetch (s : State) (o : Obj) (tile : Nat) (t : ResTile) : State :=
  match s.weight? o.ctx o.desc.vbase with
  | none => s
  | some w =>
    if w.refetch.any fun x => x.tile == tile then s
    else
      match s.refetchRoom (ptnOf o.ctx) t.place.cluster (s.charge (ptnOf o.ctx) 1) with
      | (s', none) => s'
      | (s', some u) =>
        let add := fun (y : WeightObj) => { y with refetch := y.refetch ++ [⟨tile, ⟨1, t.place.cluster, u⟩, false⟩] }
        (s'.modWeight o.ctx o.desc.vbase add).request o.ctx (w.holding tile).2 tile

/-- The object tile that holds a unit of a cluster's tier 1. -/
def State.tileAt (s : State) (cluster unit : Nat) : Option (Obj × Nat × ResTile) :=
  s.objs.findSome? fun o => o.tiles.zipIdx.findSome? fun (t, i) =>
    if t.place.tier = 1 ∧ t.place.cluster = cluster ∧ t.place.unit ≤ unit ∧ unit < t.place.unit + tileUnits o.desc then some (o, i, t)
    else none

/-- KEEPER_POISON_ACTION: the keeper acts on a reported line of a cluster. Its report stands while a run holds the page,
and while a load, a swap or a reload has still to write the weight tile, which a rollback may leave unwritten. -/
def keeperPoisonActionEffect (c : Fin 8) (line : Nat) (s : State) : State :=
  let n := c.val * clusterLines + line
  let a := line * 64
  let u := a / unitBytes
  match s.ptnOfCluster c.val with
  | none => { s with poisonReports := s.poisonReports.filter (· != n) }
  | some p =>
    if !s.poisonReports.contains n || !s.keeperWorks p then s
    else
      let t := s
      let s := { s with poisonReports := s.poisonReports.filter (· != n) }
      if !s.poison.contains n then s
      else
        match s.ptn? p with
        | none => s
        | some x =>
          if x.low = c.val ∧ x.reserve ≤ u ∧ u < x.reserve + x.n * 64 + 4 * (x.share / 4096) then s.reservePoisoned p x a
          else if x.records.any fun r => r.units.contains (c.val, u) then s.sampleLoses c.val a
          else
            match s.tileAt c.val u with
            | some (o, i, y) =>
              if o.desc.drop != 2 then s else if s.tileWanted o i then t else s.startRefetch o i y
            | none => if s.pageHeld c.val u then t else s.pagePoisoned c.val u

def execKeeperPoisonAction (c : Fin 8) (line : Nat) (s : State) : Result := .next (keeperPoisonActionEffect c line s)

end Sys2Proof.Machine
end

