-- ==== Sys2Proof/Machine/Flash.lean ====
section
/-! DEFINITION. The flash store and the firmware (17 R423 to R440, 11 R272 and R273): WGT.STORE and WGT.DELETE, the end of an
operation, the patrol, the firmware image and its sections, the FW commands and the boot area. -/

namespace Sys2Proof.Machine

/-! ### WGT.STORE (11 R272, 17 R427, R428) -/

/-- Change a store in progress. -/
def State.modStoring (s : State) (q : Req) (f : Storing → Storing) : State :=
  s.modFlash fun x => { x with storing := Lists.modifyIf (fun y => y.q == q) f x.storing }

/-- End a store with a status; its stripes are left dirty. -/
def State.endStore (s : State) (x : Storing) (status : Nat) : State :=
  let s := s.modFlash fun f => { f with storing := f.storing.filter fun y => y.q != x.q }
  (s.leaveDirty x.stripes).finish x.q status 0 0

/-- Withdraw a stripe (17 R427). A store that lies in it writes that part of its entry again in the free stripe with the
lowest erase count, or ends with ST_QUOTA (17 R428); a copy to it is made again elsewhere. -/
def State.loseStripe (s : State) (i : Nat) : State :=
  let s := (s.modFlash fun f => { f with
    withdrawn := if f.withdrawn.contains i then f.withdrawn else f.withdrawn ++ [i]
    dirty := f.dirty.filter (· != i), freed := f.freed.filter (· != i) }).dropJobs fun j => libraryBlock j.block && j.block / 4 == i
  let s := match s.flash.copying.find? fun c => c.dst == i with
    | some c => (s.modFlash fun f => { f with copying := f.copying.filter fun x => x.dst != i }).startCopy c.src
    | none => s
  match s.flash.storing.find? fun x => x.stripes.contains i with
  | none => s
  | some x =>
    match s.stripeOrder with
    | [] => s.endStore x stQuota
    | k :: _ =>
      let s := s.modStoring x.q fun y => { y with stripes := y.stripes.map fun z => if z = i then k else z }
      (s.modFlash fun f => { f with freed := f.freed.filter (· != k) }).writeStripe x.q x.manifest (x.stripes.idxOf i) k

/-- The stripe of the first shard of a store that does not match its digest on the read-back, by the corrections that its
pages need. -/
def State.badStripe (s : State) (x : Storing) (errors : Nat → Nat) : Option Nat :=
  let m := x.manifest
  let bad := fun (i : Nat) =>
    ((shardPages m i).filterMap (entryKey x.stripes)).any (fun k => 72 < errors k) || !(m.shardOk i (s.readShard x.stripes m i [] []))
  ((List.range m.shards.length).find? bad).bind fun i => x.stripes[(manifestSlots m + i) / 256]?

/-- Read a store back (11 R272): its pages' corrections are counted, and a stripe with a mismatch is written anew
elsewhere; else the entry joins the index, whose record is written. -/
def State.readBack (s : State) (x : Storing) : State :=
  let errors := Config.pageErrors s.free
  let keys := ((List.range x.manifest.shards.length).flatMap (shardPages x.manifest)).filterMap (entryKey x.stripes)
  let s := s.takeFree.2.countPages (keys.map fun k => (k, errors k))
  match s.badStripe x errors with
  | some i => s.loseStripe i
  | none =>
    let e : LibraryEntry := ⟨x.manifest, x.stripes⟩
    let s := { s with library := s.library ++ [e] }.recordLibrary
    s.modStoring x.q fun y => { y with recording := some s.flash.logSeq }

/-- Carry on a store in progress: one whose data object is gone or poisoned ends; one whose index record has verified is
complete; one with no page left to write is read back. -/
def State.settleStore (s : State) (x : Storing) : State :=
  let left := s.flash.jobs.filter fun j => libraryBlock j.block && x.stripes.contains (j.block / 4)
  match x.recording with
  | some n =>
    if s.recordWaits n then s
    else (s.modFlash fun f => { f with storing := f.storing.filter fun y => y.q != x.q }).finish x.q stOk 0 0
  | none =>
    if left.isEmpty then s.readBack x
    else
      match s.obj? x.ctx x.base with
      | none => s.endStore x stNoObject
      | some o =>
        let poisoned := left.any fun j => match j.use with
          | .store _ p => !j.issued && (s.objPoison o (pageSource x.manifest p).1 (pageSource x.manifest p).2).isSome
          | _ => false
        if poisoned then s.endStore x stPoison else s

/-- Carry on a copy of a stripe: once every page is written, the index names the copy and the old stripe is erased (17
R425). -/
def State.settleCopy (s : State) (c : Copying) : State :=
  if s.flash.jobs.any fun j => libraryBlock j.block && j.block / 4 == c.dst then s
  else
    let move := fun (e : LibraryEntry) => { e with stripes := e.stripes.map fun y => if y = c.src then c.dst else y }
    let s := s.modFlash fun f => { f with copying := f.copying.filter fun x => x != c }
    ({ s with library := s.library.map move }.leaveDirty [c.src]).recordLibrary

/-- Carry on every store and copy. -/
def State.settleStores (s : State) : State :=
  let s := s.flash.storing.foldl State.settleStore s
  s.flash.copying.foldl State.settleCopy s

/-- WGT.STORE. -/
def wgtStoreBody (base : BitVec 42) (s : State) (q : Req) : Ran :=
  withObj q base s fun o =>
    if o.desc.kind != kindData then .status s stBadField
    else
      let head := min o.size (manifestBytes 65535)
      if (s.objPoison o 0 64).isSome then .status s stPoison
      else
        match Manifest.check (readManifest (s.readObj o 0 head)) with
        | .error st => .status s st
        | .ok m =>
          let offs := shardOffsets (manifestBytes m.shards.length) m.shards
          let last := (offs.zip (m.shards.map (·.length))).foldl (fun n (a, k) => max n (a + k)) 0
          let same := fun (y : Manifest) => y.modelId == m.modelId && y.version == m.version
          if o.size < last then .status s stBadField
          else if (s.library.any fun e => same e.manifest) || s.flash.storing.any fun x => same x.manifest then .status s stInUse
          else if 1024 ≤ s.library.length + (s.flash.storing.filter fun x => x.recording.isNone).length then .status s stLimit
          else if (s.objPoison o 0 last).isSome then .status s stPoison
          else
            let is := s.stripeOrder.take (stripesFor m)
            if is.length < stripesFor m then .status s stQuota
            else
              let x : Storing := { q := q, ctx := o.ctx, base := base, manifest := m, stripes := is }
              let s := s.modFlash fun f => { f with storing := f.storing ++ [x], freed := f.freed.filter fun i => !is.contains i }
              .goesOn (is.zipIdx.foldl (fun st (i, pos) => st.writeStripe q m pos i) s).issueFlash

def execWgtStore (q : Req) (base : BitVec 42) (s : State) : Result := .next (runCommand (.wgtStore q base) s (wgtStoreBody base))

/-- Take an entry out of the library: its stripes return to the free list, and are erased when next allocated (17 R427).
-/
def State.deleteEntry (s : State) (e : LibraryEntry) : State :=
  let copies := s.flash.copying.filter fun c => e.stripes.contains c.src
  let s := s.modFlash fun f => { f with
    copying := f.copying.filter fun c => !e.stripes.contains c.src, freed := f.freed ++ e.stripes.filter fun i => !f.freed.contains i }
  ({ s with library := s.library.filter fun x => x != e }.leaveDirty (copies.map Copying.dst)).recordLibrary

/-- WGT.DELETE (11 R273, 17 R427). -/
def wgtDeleteBody (model : BitVec 64) (version : BitVec 32) (s : State) (_ : Req) : Ran :=
  match s.entry? model version with
  | none => .status s stNoObject
  | some e =>
    let same := fun (m : Manifest) => m.modelId == model && m.version == version
    if (s.weights.any fun w => same w.manifest || w.next.any same) ||
        s.serving.any fun x => x.modelId == model && x.version == version then .status s stInUse
    else .status (s.deleteEntry e) stOk

def execWgtDelete (q : Req) (model : BitVec 64) (version : BitVec 32) (s : State) : Result :=
  .next (runCommand (.wgtDelete q model version) s (wgtDeleteBody model version))

/-! ### The firmware image (17 R433) -/

/-- Sections of an image in order of core number: the largest size of each. -/
def sectionLimit (core : Nat) : Nat :=
  match core with
  | 1 => 1048576 | 2 => 1048576 | 3 => 786432 | 4 => 524288 | 5 => 524288 | _ => 262144

/-- What the header says, and compat_min, where the form of header, table and sections holds. -/
structure FwHead where
  info : FwInfo
  compat : BitVec 32
  sigOff : Nat
  deriving DecidableEq, Repr

/-- Check a section entry (17 Table FW.6) and its digest. -/
def sectionOk (m : Mem) (sigOff e : Nat) : Bool :=
  let core := Bits.range e 7 0
  let off := Bits.range e 63 32
  let n := Bits.range e 95 64
  1 ≤ core && core ≤ 6 && Bits.range e 31 8 == 0 && Bits.range e 255 96 == 0 && off % 4096 == 0 && n ≤ sectionLimit core &&
    1856 ≤ off && off + n ≤ sigOff && (Config.sha3 (Mem.read m off n)).toNat == Bits.range e 511 256

/-- Read the header of an image, and check the table and the section digests. -/
def readFw (m : Mem) : Option FwHead :=
  let h := Mem.word m 0 64
  let total := Bits.range h 191 160
  let sigOff := Bits.range h 223 192
  let table := (List.range 6).map fun i => Mem.word m (1472 + 64 * i) 64
  let cores := table.map fun e => Bits.range e 7 0
  let ok := Bits.range h 31 0 == 0x46577160 && Bits.range h 47 32 == 1 && Bits.range h 55 48 ≤ 128 && Bits.range h 63 56 == 0 &&
    Bits.range h 159 128 != 0 && total != 0 && total ≤ 4194304 && sigOff + 2420 == total && Bits.range h 511 224 == 0 &&
    (Mem.read m 1376 96).all (· == 0) && [1, 2, 3, 4, 5, 6].all cores.contains && table.all (sectionOk m sigOff)
  if ok then
    some ⟨⟨BitVec.ofNat 32 (Bits.range h 95 64), BitVec.ofNat 8 (Bits.range h 55 48), BitVec.ofNat 32 (Bits.range h 159 128),
      Config.sha3 (Mem.read m 0 sigOff)⟩, BitVec.ofNat 32 (Bits.range h 127 96), sigOff⟩
  else none

/-- Whether an image is authentic (17 R433) where a number of anti-rollback steps is spent. -/
def FwHead.authentic (x : FwHead) (m : Mem) (steps : Nat) : Bool :=
  let key := Mem.read m 64 1312
  Config.sha3 key == Config.firmwareKey && Config.mldsaVerify key (Mem.read m x.sigOff 2420) x.info.digest &&
    steps ≤ x.info.rbIndex.toNat

/-- Change the firmware's state. -/
def State.modFw (s : State) (f : Firmware → Firmware) : State := { s with fw := f s.fw }

/-- FW.STAGE. -/
def fwStageBody (host : BitVec 64) (off : BitVec 22) (n : BitVec 23) (s : State) (q : Req) : Ran :=
  if n = 0 then .status s stOkEmpty
  else if s.fw.activation.isSome then .status s stInUse
  else if !s.hostUp q then .status s stHostDetached
  else
    let bs := s.readHostOf q host n.toNat
    .status (s.modFw fun f => { f with staged := Mem.write f.staged off.toNat bs, staging := 1, verified := none }) stOk

def execFwStage (q : Req) (host : BitVec 64) (off : BitVec 22) (n : BitVec 23) (s : State) : Result :=
  .next (runCommand (.fwStage q host off n) s (fwStageBody host off n))

/-- FW.VERIFY (17 R438). -/
def fwVerifyBody (s : State) (_ : Req) : Ran :=
  if s.fw.activation.isSome then .status s stInUse
  else
    match readFw s.fw.staged with
    | none => .status s stBadField
    | some x =>
      if !x.authentic s.fw.staged s.fw.steps then .status s stAuth
      else if s.fw.running.imgVer.toNat < x.compat.toNat then .status s stBadField
      else
        .done (s.modFw fun f => { f with staging := 2, verified := some x.info }) stOk
          (packBits [(x.info.imgVer.toNat, 0), (x.info.rbIndex.toNat, 32)]) 0

def execFwVerify (q : Req) (s : State) : Result := .next (runCommand (.fwVerify q) s fwVerifyBody)

/-! ### Sections of the cores (17 R421, R433) -/

/-- The section of the image that a control core runs, by its number in 17 Table FW.6. -/
def sectionOf (island : Nat) : Nat :=
  if island = wardenIsland then 1 else if island = linkerIsland then 4 else if island = storeIsland then 5
  else if island = fieldIsland then 6 else if island = 130 ∨ island = 131 then 3 else 2

/-- Where the code area of the keep region holds a section, each at its largest size (17 R433). -/
def sectionBase (core : Nat) : Nat := ((List.range' 1 (core - 1)).map sectionLimit).foldl (· + ·) 0

/-- The section of a core in the code area. -/
def Firmware.section_ (f : Firmware) (core : Nat) : List Byte := (f.code[core - 1]?).getD []
/-- Whether the code area holds the section whose digest is in force. -/
def Firmware.sectionGood (f : Firmware) (core : Nat) : Bool := (f.digests[core - 1]?).any fun d => Config.sha3 (f.section_ core) == d

/-- The section table's entry of a core: offset, length and digest. -/
def sectionEntry (m : Mem) (core : Nat) : Option (Nat × Nat × BitVec 256) :=
  ((List.range 6).find? fun i => Mem.word m (1472 + 64 * i) 1 == core).map fun i =>
    let e := Mem.word m (1472 + 64 * i) 64
    (Bits.range e 63 32, Bits.range e 95 64, BitVec.ofNat 256 (Bits.range e 511 256))

/-- Copy a section of an image into the code area. -/
def Firmware.copySection (f : Firmware) (m : Mem) (core : Nat) : Firmware :=
  match sectionEntry m core with
  | some (off, n, _) => { f with code := f.code.setIfInBounds (core - 1) (Mem.read m off n) }
  | none => f
/-- Set a section digest in force, as an image gives it. -/
def Firmware.setDigest (f : Firmware) (m : Mem) (core : Nat) : Firmware :=
  match sectionEntry m core with
  | some (_, _, d) => { f with digests := f.digests.setIfInBounds (core - 1) d }
  | none => f

/-- The slot of a die that the boot ROM reads: the lowest of blocks 0 to 3 whose page 0 holds a slice header with the
die's own number, with the image digest that the header carries (17 R434, R435). -/
def State.slice (s : State) (readable : Nat → Bool) (d : Nat) : Option (Nat × BitVec 256) :=
  ((List.range 4).find? fun b =>
    let h := Bits.ofBytes ((s.page (pageKey d b 0)).data.take 64)
    readable (pageKey d b 0) && Bits.range h 31 0 == 0x42537160 && Bits.range h 34 32 == d).map fun b =>
      (b, BitVec.ofNat 256 (Bits.range (Bits.ofBytes ((s.page (pageKey d b 0)).data.take 64)) 511 256))

/-- Page j of the image whose slices lie in given slots. -/
def slotKey (slots : List Nat) (j : Nat) : Nat := pageKey (j % 8) (slots.getD (j % 8) 0) (1 + j / 8)

/-- The bytes of the image whose slices lie in given slots: as many pages as its header names, of at most 4 MiB. -/
def State.sliceBytes (s : State) (slots : List Nat) : Mem :=
  let n := Bits.ofBytes (((s.page (slotKey slots 0)).data.drop 20).take 4)
  Mem.write [] 0 ((List.range (Bits.ceilDiv (min n 4194304) pageBytes)).flatMap fun j => (s.page (slotKey slots j)).data)

/-- The image of the boot area, as the eight slots name it. -/
def State.bootImage (s : State) (readable : Nat → Bool) : Option (Mem × List (BitVec 256)) :=
  ((List.range 8).mapM (s.slice readable)).map fun xs => (s.sliceBytes (xs.map (·.1)), xs.map (·.2))

/-- A core's restart computes the digest of its section and, where it differs from the one in force, copies the section
back: from the staging area during an activation, else from the boot area (17 R421). -/
def State.reloadSection (s : State) (core : Nat) : State :=
  if s.fw.sectionGood core then s
  else if s.fw.activation.isSome then s.modFw fun f => f.copySection f.staged core
  else
    match s.bootImage fun _ => true with
    | some (m, _) => s.modFw fun f => f.copySection m core
    | none => s

/-! ### FW.ACTIVATE (17 R439) -/

/-- The order in which FW.ACTIVATE restarts the cores (17 R439). -/
def activationOrder : List Nat := (List.range 8).map sequencerIsland ++ [130, 131, linkerIsland, fieldIsland, wardenIsland, storeIsland]

/-- Restart a core on the staged section, whose digest comes into force. -/
def State.activateCore (s : State) (island : Nat) : State :=
  (s.modFw fun f => f.setDigest f.staged (sectionOf island)).startRestart island

/-- FW.ACTIVATE. -/
def fwActivateBody (s : State) (q : Req) : Ran :=
  if s.fw.activation.isSome then .status s stInUse
  else
    match s.fw.verified with
    | none => .status s stBadField
    | some image =>
      .goesOn ((s.modFw fun f => { f with activation := some { q := some q, image := image } }).activateCore (sequencerIsland 0))

def execFwActivate (q : Req) (s : State) : Result := .next (runCommand (.fwActivate q) s fwActivateBody)

/-- FW.QUERY. -/
def fwQueryBody (s : State) (_ : Req) : Ran :=
  let f := s.fw
  .done s stOk (packBits [(f.running.imgVer.toNat, 0), (f.steps, 32), (f.running.rbIndex.toNat, 40), (f.staging.toNat, 48),
    (Bits.ofBool f.activation.isSome, 50), (Bits.ofBool f.boot.isSome, 51)]) ((f.boot.map (·.imgVer.toNat)).getD 0)

def execFwQuery (q : Req) (s : State) : Result := .next (runCommand (.fwQuery q) s fwQueryBody)

/-! ### The boot area (17 R434, R439) -/

/-- The slot of a die: the lowest of blocks 0 to 3 that is not retired. -/
def State.slotOf (s : State) (d : Nat) : Option Nat := (List.range 4).find? fun b => !s.isRetired d b
/-- Pages of an image. -/
def imagePages (m : Mem) : Nat := Bits.ceilDiv (Mem.word m 20 4) pageBytes
/-- The pages of a die's slice: the header, and its share of the image's. -/
def slicePages (m : Mem) (d : Nat) : List Nat := List.range (1 + (imagePages m + 7 - d) / 8)

/-- The programs of a die's slice, in page order. -/
def State.sliceJobs (s : State) (d b : Nat) : List FlashJob :=
  (slicePages s.fw.staged d).map fun p => { die := d, block := b, page := p, op := .program, use := .boot p }

/-- End an activation: EV_FW_ACTIVE, the command's completion, and an empty staging area. -/
def State.endActivation (s : State) (a : Activation) (written : Bool) : State :=
  let s := s.eventHosts 0x00A0 (if written then 2 else 3) a.image.imgVer.toNat a.image.rbIndex.toNat
  let s := s.modFw fun f => { f with
    boot := if written then some a.image else none, activation := none, staged := [], staging := 0, verified := none }
  let s := s.dropJobs FlashJob.boot
  let s := if written then s else s.record (.firmware none)
  match a.q with
  | some q => s.finish q stOk (Bits.ofBool !written) 0
  | none => s

/-- Begin to write the boot area: the eight slots are erased, then the slices are programmed; not where a die has no good
slot left. -/
def State.writeBoot (s : State) : State :=
  match s.fw.activation, (List.range 8).mapM s.slotOf with
  | some a, none => s.endActivation a false
  | _, none => s
  | _, some slots =>
    let s := s.addJobs (slots.zipIdx.map fun (b, d) => { die := d, block := b, op := .erase, use := .slot })
    (s.addJobs (slots.zipIdx.flatMap fun (b, d) => s.sliceJobs d b)).issueFlash

/-- A slot has failed: the slice goes to the die's next good block of 0 to 3, which is erased first, or the boot area
cannot be written. -/
def State.nextSlot (s : State) (a : Activation) (d : Nat) : State :=
  let s := s.dropJobs fun j => j.boot && j.die == d
  match s.slotOf d with
  | none => s.endActivation a false
  | some b => (s.addJobs ({ die := d, block := b, op := .erase, use := .slot } :: s.sliceJobs d b)).issueFlash

/-- Whether the boot area reads back as the staging area holds the image, by the corrections that its pages need. -/
def State.bootMatches (s : State) (a : Activation) (errors : Nat → Nat) : Bool :=
  (List.range 8).all fun d => match s.slotOf d with
    | none => false
    | some b => (slicePages s.fw.staged d).all fun p =>
      errors (pageKey d b p) ≤ 72 && (s.page (pageKey d b p)).data == (FlashPage.bytes (slicePage s.fw.staged a.image.digest d p)).data

/-- The writing of the boot area goes on: once all pages are programmed the image is read back and compared with the
staging area; after two full rewrites that differ it is not written. The firmware state is then recorded, and the
activation ends once that has verified. -/
def State.bootGoesOn (s : State) : State :=
  match s.fw.activation with
  | none => s
  | some a =>
    match a.recording with
    | some n => if s.recordWaits n then s else s.endActivation a true
    | none =>
      if a.cores < activationOrder.length || s.flash.jobs.any FlashJob.boot then s
      else
        let errors := Config.pageErrors s.free
        let keys := (List.range 8).flatMap fun d => (slicePages s.fw.staged d).map fun p => pageKey d ((s.slotOf d).getD 0) p
        let s := s.takeFree.2.countPages (keys.map fun k => (k, errors k))
        if s.bootMatches a errors then
          let s := { s with fw := { s.fw with boot := some a.image } }.record (.firmware (some a.image))
          (s.modFw fun f => { f with activation := some { a with recording := some s.flash.logSeq } }).issueFlash
        else if 2 ≤ a.rewrites then s.endActivation a false
        else (s.modFw fun f => { f with activation := some { a with rewrites := a.rewrites + 1 } }).writeBoot

/-- A core's restart is complete during an activation (17 R439): the next core's begins; after the store core's, the
device runs the new image and the boot area is written. -/
def State.activationRestarted (s : State) (island : Nat) : State :=
  match s.fw.activation with
  | none => s
  | some a =>
    if activationOrder[a.cores]? != some island then s
    else
      let b := { a with cores := a.cores + 1 }
      let s := s.modFw fun f => { f with activation := some b }
      match activationOrder[b.cores]? with
      | some next => s.activateCore next
      | none =>
        let s := s.modFw fun f => { f with running := a.image }
        (s.eventHosts 0x00A0 1 a.image.imgVer.toNat a.image.rbIndex.toNat).writeBoot

/-! ### FLASH_OP_COMPLETE (17 R423, R429, R431) -/

/-- Set a plane's flags as an operation ends. -/
def State.setFlags (s : State) (d block : Nat) (op : FlashOp) (failed : Bool) : State :=
  s.modFlash fun f => { f with flags := Table.set f.flags (4 * d + planeOf block) (failed && op == .program, failed && op == .erase) }

/-- Retire a block (17 R423), with the failure counted; a stripe that holds it is withdrawn. -/
def State.retireBlock (s : State) (d block : Nat) (op : FlashOp) : State :=
  let up := fun (n : BitVec 16) => BitVec.ofNat 16 (Bits.satAdd 16 n.toNat 1)
  let s := s.modDie d fun x =>
    match op with
    | .program => { x with progFail := up x.progFail }
    | .erase => { x with eraseFail := up x.eraseFail }
  let b := blockName d block
  let s := s.modFlash fun f => { f with retired := if f.retired.contains b then f.retired else f.retired ++ [b] }
  if libraryBlock block then s.loseStripe (block / 4) else s

/-- The lowest good block of 14 to 63 of a die, in place of a retired system block (17 R429). -/
def State.spareBlock (s : State) (d : Nat) : Option Nat :=
  let used := ((s.flash.journals[d]?).map fun x => [x.active, x.other]).getD [] ++ ((s.flash.logs[d]?).map (·.blocks)).getD []
  (List.range' 14 50).find? fun b => !s.isRetired d b && !used.contains b

/-- Change a die's journal. -/
def State.modJournal (s : State) (d : Nat) (f : Journal → Journal) : State :=
  s.modFlash fun x => { x with journals := x.journals.mapFinIdx fun i y _ => if i = d then f y else y }
/-- Change a die's records log. -/
def State.modLog (s : State) (d : Nat) (f : LogDie → LogDie) : State :=
  s.modFlash fun x => { x with logs := x.logs.mapFinIdx fun i y _ => if i = d then f y else y }

/-- A journal record has failed to program: its block is retired, and the record goes to the block that takes its place
(17 R431). -/
def State.journalFails (s : State) (d : Nat) (x : Journal) : State :=
  let s := (s.modJournal d fun y => { y with writing := none }).retireBlock d x.active .program
  match s.spareBlock d with
  | some b => s.modJournal d fun y => { y with active := b, used := 0 }
  | none => s

/-- An erase with its completion record is complete. -/
def State.eraseDone (s : State) (j : FlashJob) : State :=
  let i := j.block / 4
  let s := s.dropJob j.no
  match j.use with
  | .swap => s.modJournal j.die fun x => { x with active := x.other, other := x.active, used := 0 }
  | .stripe =>
    if s.flash.withdrawn.contains i || s.flash.jobs.any fun x => libraryBlock x.block && x.block / 4 == i && x.op == .erase then s
    else s.modFlash fun f => { f with dirty := f.dirty.filter (· != i) }
  | _ => s

/-- A journal record has verified: after an intent the erase may be issued, after a completion record it is complete. -/
def State.journalDone (s : State) (d : Nat) (x : Journal) (w : JournalWrite) : State :=
  let s := (s.programPage (pageKey d x.active w.page) (.bytes w.bytes)).modJournal d fun y => { y with writing := none }
  match s.flash.jobs.find? fun j => j.no == w.job with
  | none => s
  | some j => if j.stage == .intent then s.modJob j.no fun y => { y with stage := .cleared } else s.eraseDone j

/-- A record of the log has verified. -/
def State.logDone (s : State) (d : Nat) (x : LogDie) (r : BitVec 64 × LogRecord) : State :=
  (s.programPage (pageKey d x.block x.next) (.log r.1 r.2)).modLog d fun y =>
    { y with writing := none, queue := y.queue.drop 1, next := y.next + 1, copies := y.copies - 1 }

/-- A block of the log has failed: the lowest good spare takes its place, where the record is written again (17 R429). -/
def State.logFails (s : State) (d block : Nat) (op : FlashOp) : State :=
  let s := (s.modLog d fun y => { y with writing := none }).retireBlock d block op
  match s.spareBlock d with
  | some b => s.modLog d fun y => { y with blocks := y.blocks.map fun z => if z = block then b else z, next := if y.block = block then 0 else y.next }
  | none => s.modLog d fun y => { y with dead := true, queue := [], copies := 0 }

/-- An operation on a block has verified: a page is programmed; a block is erased and its completion record follows. One
that reaches 3,000 erases withdraws its stripe (17 R427). -/
def State.jobDone (s : State) (j : FlashJob) : State :=
  let b := blockName j.die j.block
  match j.op with
  | .program => (s.programPage (pageKey j.die j.block j.page) j.data).dropJob j.no
  | .erase =>
    let s := (s.blankBlock b).modFlash fun f => { f with erases := Table.set f.erases b (s.erasesOf b + 1) }
    let s := s.modJob j.no fun y => { y with issued := false, stage := .completing }
    if libraryBlock j.block && 3000 ≤ s.erasesOf b then s.loseStripe (j.block / 4) else s

/-- An operation on a block has failed. -/
def State.jobFails (s : State) (j : FlashJob) : State :=
  let s := s.dropJob j.no
  match j.use with
  | .swap =>
    let s := s.retireBlock j.die j.block .erase
    match s.spareBlock j.die with
    | some b => s.modJournal j.die fun x => { x with active := b, other := x.active, used := 0 }
    | none => s
  | .log => s.logFails j.die j.block .erase
  | _ =>
    let s := s.retireBlock j.die j.block j.op
    match j.boot, s.fw.activation with
    | true, some a => s.nextSlot a j.die
    | _, _ => s

/-- What of a die ends with an operation on a block: an operation in order, a journal record, or a record of the log. -/
def State.opEnds (s : State) (d block : Nat) (op : FlashOp) (failed : Bool) : State :=
  match s.flash.jobs.find? fun j => j.issued && j.die == d && j.block == block && j.op == op with
  | some j => let s := s.setFlags d block op failed; if failed then s.jobFails j else s.jobDone j
  | none =>
    match op, (s.flash.journals[d]?).bind fun x => if x.active = block then x.writing.map fun w => (x, w) else none,
        (s.flash.logs[d]?).bind fun x => if x.block = block then x.writing.map fun r => (x, r) else none with
    | .program, some (x, w), _ => let s := s.setFlags d block op failed; if failed then s.journalFails d x else s.journalDone d x w
    | .program, none, some (x, r) => let s := s.setFlags d block op failed; if failed then s.logFails d block .program else s.logDone d x r
    | _, _, _ => s

/-- What waits for the operations of the dies goes on. -/
def State.flashGoesOn (s : State) : State := (s.settleStores.bootGoesOn).issueFlash

/-- FLASH_OP_COMPLETE: an operation of a die ends; the store core reads the plane's flags, and what waited for it goes on.
While the store core restarts it has yet to look (16 Table FLT.6). -/
def flashOpCompleteEffect (d : Fin 8) (block : BitVec 14) (op : FlashOp) (failed : Bool) (s : State) : State :=
  if s.power == .off || s.power == .frost then s
  else if s.restarting storeIsland then s.modFlash fun f => { f with ended := f.ended ++ [⟨d, block, op, failed⟩] }
  else (s.issueFlash.opEnds d.val block.toNat op failed).flashGoesOn

def execFlashOpComplete (d : Fin 8) (block : BitVec 14) (op : FlashOp) (failed : Bool) (s : State) : Result :=
  .next (flashOpCompleteEffect d block op failed s)

/-- The store core, restarted, looks at the operations that ended meanwhile. -/
def State.storeRestarted (s : State) : State :=
  let t := s.modFlash fun f => { f with ended := [] }
  (s.flash.ended.foldl (fun st e => st.opEnds e.die.val e.block.toNat e.op e.failed) t).flashGoesOn

/-- FLASH_PATROL: a stripe's programmed pages are read, which waits for busy planes; a library stripe of which some 1 KiB
needed more than 48 corrections is copied to a free stripe, the index names the copy, and the old stripe is then erased
(17 R425). -/
def flashPatrolEffect (stripe : BitVec 12) (pages : List (Nat × Nat)) (s : State) : State :=
  let errors := (pages.map fun (p, e) => (stripeKey stripe.toNat p, e)).filter fun (k, _) => s.page k != .blank
  if s.restarting storeIsland || !s.stacksRun || errors.any fun (k, _) => s.keyBusy k then s
  else (s.countPages errors).copyWorn errors

def execFlashPatrol (stripe : BitVec 12) (pages : List (Nat × Nat)) (s : State) : Result := .next (flashPatrolEffect stripe pages s)

end Sys2Proof.Machine
end

