-- ==== Sys2Proof/Machine/Partitions.lean ====
section
/-! DEFINITION. Partitions and contexts (01 R20 to R27, 12 R292, 14 R352 and R359, 18 R453): creation and destruction,
binding, staging and committing, limits, queries and samples. -/

namespace Sys2Proof.Machine

/-! ### Who names what (14 R352) -/

/-- The partition that a command names: its own from a management ring, or one that the port of a host ring owns. -/
def State.named (s : State) (q : Req) (p : BitVec 3) : Option Nat :=
  match q.ring with
  | .ctx c => some (ptnOf c)
  | .host h => if s.owner p.toNat = some h then some p.toNat else none

/-- A body about a partition that its issuer may name. -/
def withPtn (q : Req) (p : BitVec 3) (s : State) (f : Nat → Partition → Ran) : Ran :=
  match s.named q p with
  | none => .status s stNoObject
  | some n =>
    match s.ptn? n with
    | some x => f n x
    | none => .status s stNoObject

/-! ### Creating contexts -/

/-- Add a context in ascending number. -/
def State.addCtx (s : State) (x : Context) : State :=
  { s with ctxs := Lists.insertBy (fun a b => decide (a.no.toNat ≤ b.no.toNat)) x s.ctxs }

/-- Create a context with its ring pair (12 R292); on a refusal nothing is left of it, but pages dropped for it stay
dropped (07 R170). -/
def State.createCtx (s : State) (p : Nat) (c : CtxNo) (n : Nat) (mirror : Option (BitVec 64)) (vector : BitVec 16) :
    State × Except Nat (BitVec 42) :=
  let t := s.addCtx { no := c, ring := { n := n, mirror := mirror, vector := vector } }
  match t.newRingPair p c n with
  | (u, .ok base) => (u.modCtx c fun x => { x with ring := { x.ring with base := base } }, .ok base)
  | (u, .error st) => ({ u with ctxs := u.ctxs.filter fun x => x.no != c }, .error st)

/-! ### PTN.CREATE (01 R20, R23, R24; 07 R166; 14 R364; 18 R450) -/

/-- The cluster set of a mask, as its lowest cluster and its count; none where R20 of 01 allows no such set. -/
def clustersOf (mask : BitVec 8) : Option (Nat × Nat) :=
  ([1, 2, 4, 8].flatMap fun n => (List.range (8 / n)).map fun k => (k * n, n)).find? fun (low, n) =>
    mask.toNat == (2 ^ n - 1) * 2 ^ low

/-- The lowest index, a multiple of 4,096, where a contiguous run of directory entries is free (09 R200). -/
def State.freeShare (s : State) (share : Nat) : Option Nat :=
  let held := s.ptnNos.filterMap s.ptn?
  ((List.range 256).map (· * 4096)).find? fun b =>
    b + share ≤ 1048576 && held.all fun (x : Partition) => x.share = 0 || b + share ≤ x.dirBase || x.dirBase + x.share ≤ b

/-- A token of a draw, never 0 (14 R364). -/
def tokenOf (d : BitVec 256) : BitVec 64 := if d.truncate 64 = 0 then 1 else d.truncate 64

/-- A new partition, before its management context. -/
def newPartition (low n share reserve base : Nat) (token : BitVec 64) (h : Fin 2) (up : Bool) (s : State) :
    Partition :=
  let regs := PtnRegs.reset n share s.usableRegions
  { low := low, n := n, share := share, dirBase := base, reserve := reserve, token := token, owner := some h,
    orphanedAt := if up then none else some s.now, hostCfg := 0xEA60, staged := regs, live := regs, devSeen := s.live,
    slotBase := s.now, power := { shareMw := 7500 * n }, beat := { since := s.now } }

/-- Zero the scale registers, codebook and product-table stores of the clusters that a new partition takes (21 R508),
FLT_PTN_CFG_p (21 R501), and the group counters of the clusters and error counters of their channels (20 R486). -/
def State.freshPtn (s : State) (p low n : Nat) : State :=
  let zero := fun (x : DevRegs) => { x with fltPtn := x.fltPtn.setIfInBounds p 0 }
  let mine := fun (k : Nat) => low ≤ k && k < low + n
  { s with
    stores := s.stores.clearClusters low n
    live := zero s.live
    staged := zero s.staged
    groups := s.groups.mapFinIdx fun i g _ => if mine i then {} else g
    memc := { s.memc with
      corrected := s.memc.corrected.filter fun e => !mine (channelCluster e.1)
      cmdRetry := s.memc.cmdRetry.filter fun e => !mine (channelCluster e.1) } }

/-- PTN.CREATE. It waits until tier 1 is ready (15 R376) and while draws wait. -/
def ptnCreateBody (mask : BitVec 8) (share : BitVec 21) (n : BitVec 17) (want : BitVec 3) (useWant : Bool)
    (vector : BitVec 16) (s : State) (q : Req) : Ran :=
  match q.ring, clustersOf mask with
  | .ctx _, _ => .status s stDenied
  | _, none => .status s stBadField
  | .host h, some (low, k) =>
    let no := if useWant then some want.toNat else (List.range 8).find? fun p => (s.ptn? p).isNone
    if (List.range k).any fun i => (s.ptnOfCluster (low + i)).isSome then .status s stBadField
    else
      match no with
      | none => .status s stLimit
      | some p =>
        if (s.ptn? p).isSome then .status s stInUse
        else
          match s.freeShare share.toNat, s.freeUnit 1 low (k * 64 + 4 * (share.toNat / 4096)) 1 with
          | some base, some reserve =>
            if !s.tier1Ready || s.rng.failing then .waits
            else
            let (d, t) := s.takeDraw
            let x := newPartition low k share.toNat reserve base (tokenOf d) h (s.host h).attached t
            match ((t.freshPtn p low k).setPtn p (some x)).createCtx p (mgmt p) n.toNat none vector with
            | (u, .ok _) => .done u stOk p (tokenOf d).toNat
            | (_, .error st) => .status s st
          | _, _ => .status s stLimit

def execPtnCreate (q : Req) (mask : BitVec 8) (share : BitVec 21) (n : BitVec 17) (want : BitVec 3) (useWant : Bool)
    (vector : BitVec 16) (s : State) : Result :=
  .next (runCommand (.ptnCreate q mask share n want useWant vector) s (ptnCreateBody mask share n want useWant vector))

/-! ### Destroying (01 R26, R27; 14 R356, R358, R359) -/

/-- Abandon the WGT.STORE commands that meet a condition: their stripes are left dirty (17 R428, R430), but for an entry
that has joined the index. -/
def State.dropStores (s : State) (mine : Req → Bool) : State :=
  let gone := s.flash.storing.filter fun x => mine x.q && x.recording.isNone
  (s.modFlash fun f => { f with storing := f.storing.filter fun x => !mine x.q }).leaveDirty (gone.flatMap fun x => x.stripes)

/-- Give up what a context's commands have under way: manifests awaited, sessions served, stores, frames to be
acknowledged. -/
def State.dropWork (s : State) (mine : Req → Bool) : State :=
  let s := s.dropStores mine
  let s := { s with awaited := s.awaited.filter fun a => !mine a.q, serving := s.serving.filter fun x => !mine x.q }
  s.modFelt fun f => { f with unacked := f.unacked.filter fun u => !(u.q.any mine) }

/-- Destroy a context (01 R26): its ring stops, its commands end, its sequences, weight objects, objects and images go,
and its tile-store lines are cleared. -/
def State.destroyCtx (s : State) (c : CtxNo) : State :=
  let p := ptnOf c
  let mine := fun (q : Req) => q.ring == .ctx c
  let s := ((s.modCtx c fun x => { x with removing := true }).checkEnded c).removeRuns c
  let s := s.modPtn p fun x =>
    { x with settling := x.settling.filter fun r => r.ctx != c, stepSets := x.stepSets.filter fun y => y.ctx != c }
  let s := ((s.dropWork mine).abortWhere fun a => mine a.q).1
  let s := (s.seqs.filter fun x => x.ctx == c).foldl (fun st x => st.closeSeq x) s
  let s := { s with handles := Lists.modifyIf (fun h => h.ctx == c) (fun h => { h with ended := true }) s.handles,
                    migrations := s.migrations.filter fun m => m.ctx != c,
                    images := s.images.filter fun i => i.ctx != c }
  let s := (s.weights.filter fun w => w.ctx == c).foldl (fun st w => st.dropWeights c w.base stAborted) s
  let s := (s.objs.filter fun o => o.ctx == c).foldl (fun st o => st.dropObj c o.desc.vbase) s
  let x := (s.ptn? p).map fun y => (y.low, y.n)
  let s := match x with
    | some (low, n) => { s with stores := s.stores.clearContext low n c }
    | none => s
  { s with ctxs := s.ctxs.filter fun y => y.no != c }.quotaClear p

/-- Units of a partition that lie in regions out of service: they are zeroed where a tile or page was left there. -/
def State.leftOut (s : State) (p : Nat) (x : Partition) : List (Nat × Nat × Nat) :=
  let tiles := (s.objs.filter fun o => ptnOf o.ctx == p).flatMap fun o =>
    (o.tiles.filter fun t => t.place.tier == 1).map fun t => (t.place.cluster, t.place.unit, tileUnits o.desc)
  let pages := (s.seqsOf p).flatMap (·.pages) ++ (s.handles.filter fun h => h.ptn == p).flatMap (·.pages)
  let samples := (x.records.flatMap (·.units)).map fun (c, u) => (c, u, 1)
  let reserve := (List.range (x.n * 64 + 4 * (x.share / 4096))).map fun i => (x.low, x.reserve + i, 1)
  (tiles ++ ((pages.filter fun (g : Page) => !g.dropped).map fun (g : Page) => (g.cluster, g.unit, 1)) ++ samples ++ reserve).filter
    fun (_, u, _) => s.unitOut u

/-- Destroy what a partition holds (01 R27): every context, the management context last; its handles; its pending commits,
whose commands end; its group, with a leave frame (13 R347); and its SYNC objects. Nothing runs in it from then on. -/
def State.emptyPtn (s : State) (p : Nat) : State :=
  match s.ptn? p with
  | none => s
  | some x =>
    let s := (s.leftOut p x).foldl (fun st (c, u, k) => st.zeroTier 1 c (u * unitBytes) (k * unitBytes)) s
    let s := s.modPtn p fun y => { y with destroying := true }
    let s := s.leaveGroup p
    let s := (x.commits.filterMap (·.cmd)).foldl (fun st q => st.finish q stAborted 0 0) s
    let s := s.modPtn p fun y => { y with commits := [] }
    let s := ((s.ctxsOf p).filter fun c => !isMgmt c.no).foldl (fun st c => st.destroyCtx c.no) s
    let s := s.destroyCtx (mgmt p)
    let s := { s with handles := s.handles.filter fun h => h.ptn != p, moves := s.moves.filter fun m => m.ptn != p }
    s.modPtn p fun y => { y with syncs := [], run := none, queue := [], settling := [], recompute := [] }

/-- Zero a partition's stores, layer stores and lines (14 R359), and free it. A line of a region out of service keeps its
contents, unless a tile was left there; a poisoned line whose zeroing fails, as free values say, stays poisoned. -/
def State.freePtn (s : State) (p : Nat) : State :=
  match s.ptn? p with
  | none => s
  | some x =>
    let was := s.poison
    let s := { s with stores := s.stores.clearClusters x.low x.n }
    let s := (List.range x.n).foldl (fun st k =>
      let st := st.zeroTier 0 (x.low + k) 0 layerSpan
      (List.range 4).foldl (fun st r =>
        if st.unitOut (r * regionUnits) then st
        else st.zeroTier 1 (x.low + k) (r * regionUnits * unitBytes) (regionUnits * unitBytes)) st) s
    let fails := fun (l : Nat) => !s.poison.contains l && Config.copyFails s.free l
    { s with poison := s.poison ++ was.filter fails, free := s.free + 1 }.setPtn p none

/-- Destroy a partition at once, where no command waits on it (18 R452). -/
def State.destroyPtn (s : State) (p : Nat) : State := (s.emptyPtn p).freePtn p

/-- The start of PTN.DESTROY: a destruction in progress is refused (01 R27). -/
def ptnDestroyBody (p : BitVec 3) (s : State) (q : Req) : Ran :=
  withPtn q p s fun n x => if x.destroying then .status s stInUse else .goesOn (s.emptyPtn n)

/-- PTN.DESTROY: the row starts the command, and, once it has started, zeroes and frees the clusters and completes it
(log entry 42). -/
def ptnDestroyEffect (q : Req) (p : BitVec 3) (s : State) : State :=
  let going := s.accepted.any fun a => a.cmd == .ptnDestroy q p && a.started
  if going && ((s.ptn? p.toNat).map (·.destroying)).getD false then (s.freePtn p.toNat).finish q stOk 0 0
  else runCommand (.ptnDestroy q p) s (ptnDestroyBody p)

def execPtnDestroy (q : Req) (p : BitVec 3) (s : State) : Result := .next (ptnDestroyEffect q p s)

/-! ### PTN.BIND (18 R453) -/

/-- Write every entry from cq_head to cq_tail - 1 of a context's ring to its mirror. -/
def State.mirrorAll (s : State) (c : Context) : State :=
  match c.ring.mirror, s.owner (ptnOf c.no) with
  | some m, some h =>
    (List.range (c.ring.cqTail - c.ring.cqHead).toNat).foldl (fun st k =>
      let i := (c.ring.cqHead.toNat + k) % c.ring.n
      st.writeHost h (m.toNat + 32 * i) (st.readRing (.ctx c.no) (c.ring.cqOffset i) 32)) s
  | _, _ => s

/-- Whether a port's last sixteen failed binds fell within 1 s, the last of them within the last 1 s. -/
def bindBarred (now : Nat) (bad : List Nat) : Bool :=
  match bad.head?, bad.getLast? with
  | some a, some b => bad.length == 16 && b ≤ a + 1000000 && now ≤ b + 1000000
  | _, _ => false

/-- PTN.BIND. A partition whose destruction has begun is bound by no token. -/
def ptnBindBody (token : BitVec 64) (s : State) (q : Req) : Ran :=
  match q.ring with
  | .ctx _ => .status s stDenied
  | .host h =>
    if bindBarred s.now (s.host h).badBinds then .status s stInUse
    else
      let fits := fun (p : Nat) => ((s.ptn? p).map fun x => x.token == token && x.orphanedAt.isSome && !x.destroying).getD false
      match s.ptnNos.find? fits with
      | none => .status (s.modHost h fun x => { x with badBinds := Lists.lastN 16 (x.badBinds ++ [s.now]) }) stNoObject
      | some p =>
        if s.rng.failing then .waits
        else
          let (d, s) := s.takeDraw
          let s := s.modPtn p fun x => { x with
            owner := some h, orphanedAt := none, token := tokenOf d, binds := BitVec.ofNat 16 (Bits.satAdd 16 x.binds.toNat 1) }
          let s := (s.ctxsOf p).foldl (fun st c => st.mirrorAll c) s
          .done (s.event (.ctx (mgmt p)) 0x0090 4 p h.val) stOk p (tokenOf d).toNat

def execPtnBind (q : Req) (token : BitVec 64) (s : State) : Result := .next (runCommand (.ptnBind q token) s (ptnBindBody token))

/-! ### PTN.QUERY, PTN.STAGE, PTN.COMMIT, DEV.COMMIT (12 R313 to R316, 14 R371) -/

/-- PTN.QUERY. -/
def ptnQueryBody (p : BitVec 3) (s : State) (q : Req) : Ran :=
  withPtn q p s fun _ x =>
    .done s stOk (packBits [((2 ^ x.n - 1) * 2 ^ x.low, 0), (x.live.cls, 8), (Bits.ofBool x.held, 10),
      (Bits.ofBool (x.overT0 || x.overT1), 11)]) 0

def execPtnQuery (q : Req) (p : BitVec 3) (s : State) : Result := .next (runCommand (.ptnQuery q p) s (ptnQueryBody p))

/-- Whether host_only of PTN_SEC_CFG turns a command away (14 R371). -/
def hostOnly (q : Req) (x : Partition) : Bool := (ctxOf q.ring).isSome && x.secCfg.getLsbD 0

/-- PTN.STAGE: any RS register of the partition, FLT_PTN_CFG_p among them (21 R502, R506). -/
def ptnStageBody (off : BitVec 20) (region : BitVec 4) (p : BitVec 3) (value mask : BitVec 64) (s : State) (q : Req) : Ran :=
  if mask = 0 then .status s stOkEmpty
  else
    withPtn q p s fun n x =>
      if hostOnly q x then .status s stDenied
      else
        match PReg.all.find? fun r => r.offset n == (region.toNat, off.toNat) with
        | some r => .status (s.stagePtn n r value mask) stOk
        | none =>
          let f := DReg.fltPtn (BitVec.ofNat 3 n).toFin
          if f.offset = (region.toNat, off.toNat) then .status (s.stageDev f value mask) stOk else .status s stBadField

def execPtnStage (q : Req) (off : BitVec 20) (region : BitVec 4) (p : BitVec 3) (value mask : BitVec 64) (s : State) : Result :=
  .next (runCommand (.ptnStage q off region p value mask) s (ptnStageBody off region p value mask))

/-- PTN.COMMIT: one that passes completes when it applies. -/
def ptnCommitBody (sel : BitVec 8) (p : BitVec 3) (s : State) (q : Req) : Ran :=
  withPtn q p s fun n x =>
    if hostOnly q x then .status s stDenied
    else
      match s.commitPtn n sel.toNat (some q) with
      | (t, some (st, fieldNo)) => .done t st fieldNo 0
      | (t, none) => .goesOn t

def execPtnCommit (q : Req) (sel : BitVec 8) (p : BitVec 3) (s : State) : Result :=
  .next (runCommand (.ptnCommit q sel p) s (ptnCommitBody sel p))

/-- DEV.COMMIT. -/
def devCommitBody (sel : BitVec 8) (s : State) (_ : Req) : Ran :=
  match s.commitDevice (DReg.chosen sel.toNat) with
  | (t, st, fieldNo) => .done t st fieldNo 0

def execDevCommit (q : Req) (sel : BitVec 8) (s : State) : Result := .next (runCommand (.devCommit q sel) s (devCommitBody sel))

/-! ### CTX commands (01 R22, R23, R26; 07 R169, R175) -/

/-- A body about a context of the issuer's partition. -/
def withContext (q : Req) (c : CtxNo) (s : State) (f : Context → Ran) : Ran :=
  withCtx q s fun own =>
    if ptnOf c != ptnOf own then .status s stNoObject
    else
      match s.ctx? c with
      | some x => f x
      | none => .status s stNoObject

/-- CTX.CREATE. -/
def ctxCreateBody (n : BitVec 17) (mirror : Bool) (at_ : BitVec 64) (vector : BitVec 16) (s : State) (q : Req) : Ran :=
  withCtx q s fun own =>
    let p := ptnOf own
    match (List.range 256).find? fun i => i != 0 && (s.ctx? (BitVec.ofNat 11 (p * 256 + i))).isNone with
    | none => .status s stLimit
    | some i =>
      let c := BitVec.ofNat 11 (p * 256 + i)
      match s.createCtx p c n.toNat (if mirror then some at_ else none) vector with
      | (t, .ok base) => .done t stOk c.toNat base.toNat
      | (t, .error st) => .status t st

def execCtxCreate (q : Req) (n : BitVec 17) (mirror : Bool) (at_ : BitVec 64) (vector : BitVec 16) (s : State) : Result :=
  .next (runCommand (.ctxCreate q n mirror at_ vector) s (ctxCreateBody n mirror at_ vector))

/-- CTX.DESTROY. -/
def ctxDestroyBody (c : CtxNo) (s : State) (q : Req) : Ran :=
  withContext q c s fun x => if isMgmt c then .status s stBadField else .status (s.destroyCtx x.no) stOk

def execCtxDestroy (q : Req) (c : CtxNo) (s : State) : Result := .next (runCommand (.ctxDestroy q c) s (ctxDestroyBody c))

/-- CTX.LIMIT: a limit below the charge is a cut, one that the charge fits ends the over-quota state and its reclaim (07
R175). -/
def ctxLimitBody (c : CtxNo) (t0 : BitVec 12) (t1 : BitVec 23) (s : State) (q : Req) : Ran :=
  withContext q c s fun _ =>
    let s := s.modCtx c fun x => { x with limT0 := some t0.toNat, limT1 := some t1.toNat }
    let s := if s.aboveLimit c then s.cutContext c
      else match s.ctx? c with
        | some x => s.clearContext x
        | none => s
    .status (s.quotaClear (ptnOf c)) stOk

def execCtxLimit (q : Req) (c : CtxNo) (t0 : BitVec 12) (t1 : BitVec 23) (s : State) : Result :=
  .next (runCommand (.ctxLimit q c t0 t1) s (ctxLimitBody c t0 t1))

/-- CTX.QUERY. -/
def ctxQueryBody (c : CtxNo) (s : State) (q : Req) : Ran :=
  withCtx q s fun own =>
    if c != own && !isMgmt own then .status s stNoObject
    else
      withContext q c s fun _ =>
        .done s stOk (packBits [(s.ctxCharge c 0 % 4096, 0), (s.ctxCharge c 1 % 2 ^ 23, 12)])
          (packBits [(s.ctxLimit c 0 % 4096, 0), (s.ctxLimit c 1 % 2 ^ 23, 12)])

def execCtxQuery (q : Req) (c : CtxNo) (s : State) : Result := .next (runCommand (.ctxQuery q c) s (ctxQueryBody c))

/-- A fault record of a partition with its sample, as its units hold it; one without a sample reads as its 64 bytes (16
R406). -/
def State.sample? (s : State) (p : Nat) (record : BitVec 16) : Option (List Byte) :=
  ((s.ptn? p).bind fun x => x.records.reverse.find? fun r => r.number == record).map fun r =>
    match r.sample with
    | some n => s.readUnits n r.units
    | none => Bits.toBytes 64 r.bits.toNat

/-- CTX.SAMPLE: a context that has gone since is named as before (14 R360). -/
def ctxSampleBody (c : CtxNo) (record : BitVec 16) (base off : BitVec 42) (n : BitVec 32) (s : State) (q : Req) : Ran :=
  if n = 0 then .status s stOkEmpty
  else
    withObj q base s fun o =>
      match if ptnOf c = ptnOf o.ctx then s.sample? (ptnOf c) record else none with
      | none => .status s stNoObject
      | some bs =>
        if o.desc.kind != kindData then .status s stBadField
        else if o.size < off.toNat + n.toNat then .status s stBadField
        else if s.memWaits o then .waits
        else
          let bytes := bs.take n.toNat
          .done ((s.writeObj o off.toNat bytes).countTiers o off.toNat bytes.length true) stOk bs.length 0

def execCtxSample (q : Req) (c : CtxNo) (record : BitVec 16) (base off : BitVec 42) (n : BitVec 32) (s : State) : Result :=
  .next (runCommand (.ctxSample q c record base off n) s (ctxSampleBody c record base off n))

end Sys2Proof.Machine
end

