-- ==== Sys2Proof/Machine/Resets.lean ====
section
/-! DEFINITION. Resets and watchdogs (16 R399 to R416): context and partition resets with their samples and dumps, the
settling of aborted runs, core restarts, and the deadline of a command (12 R307). -/

namespace Sys2Proof.Machine

/-! ### CONTEXT_RESET (16 R403, R404, R406) -/

/-- A fault record of a partition by its number. -/
def Partition.record? (x : Partition) (number : BitVec 16) : Option FaultRecord :=
  x.records.reverse.find? fun r => r.number == number

/-- The tile that a record names, with a fault word: no rule says which word of the tile faulted, a free value does (log
entry 3). An abandoned slip has no fault word (16 Table FLT.1). -/
def State.faultWord (s : State) (x : Partition) (number : BitVec 16) : State × Option (Nat × Nat × Nat × Nat) :=
  match x.record? number with
  | none => (s, none)
  | some r =>
    let u := Bits.range r.bits.toNat 43 40
    let k := Bits.range r.bits.toNat 46 44
    if 14 ≤ u ∨ Bits.range r.bits.toNat 39 32 = 0x01 then (s, none)
    else
      let (v, s) := s.takeFree
      let sp := 1 + v.toNat % 3
      (s, some (k, u, sp, v.toNat / 4 % (storeBytes u sp / 4)))

/-- Take the frames that a context's runs have not had acknowledged out, with their moves (16 R403 step 1). -/
def State.dropPeerFrames (s : State) (c : CtxNo) : State :=
  s.modFelt fun f => { f with unacked := f.unacked.filter fun u =>
    !(u.move.isSome && u.q.any fun q => q.ring == .ctx c) }

/-- End the commands of R404 of some contexts: how many ended. -/
def State.abortRuns (s : State) (mine : CtxNo → Bool) : State × Nat :=
  s.abortWhere fun a => resetEnds a && match a.q.ring with
    | .ctx c => mine c
    | .host _ => false

/-- CONTEXT_RESET: the steps of a context reset in progress, in their order. A partition reset in progress carries it out
with its own. -/
def contextResetEffect (c : CtxNo) (s : State) : State :=
  let p := ptnOf c
  match (s.ctx? c).bind (·.reset), s.ptn? p with
  | some r, some x =>
    if x.reset.isSome then s
    else
      let s := ((s.checkEnded c).removeRuns c).dropPeerFrames c
      let (s, word) := s.faultWord x r.number
      let s := s.storeSample p r.number (s.sampleSections x c word)
      let s := { s with stores := s.stores.clearContext x.low x.n c }
      let (s, n) := s.abortRuns (· == c)
      let s := s.modCtx c fun y => { y with reset := none, undefinedState := false }
      let s := s.event (.ctx c) 0x0012 c.toNat r.number.toNat n
      if isMgmt c then s else s.event (.ctx (mgmt p)) 0x0012 c.toNat r.number.toNat n
  | _, _ => s

def execContextReset (c : CtxNo) (s : State) : Result := .next (contextResetEffect c s)

/-! ### SLOT_SETTLE (16 R405) -/

/-- The pages of a slot that settling drops: those of parts 0 to 2 that admission allocated or copied below c, and those
that the run could write from c_prev on; tentative pages stay. For a recompute slot those allocated for the chunk. -/
def Slot.settlePages (sl : Slot) (x : Seq) : List Nat :=
  (x.pages.filter fun g =>
    partOf g.no < 3 && !g.dropped && !g.tentative &&
      (let lo := x.shape.firstPos g.no
       let hi := lo + x.shape.perPage (partOf g.no)
       if sl.recompute then sl.allocated.contains g.no
       else (sl.allocated.contains g.no && lo < x.c) || (lo < x.c && sl.cPrev < min hi x.c))).map (·.no)

/-- Bring the chunk of a recompute slot to the head of the queue. -/
def State.chunkFirst (s : State) (p : Nat) (sl : Slot) : State :=
  s.modPtn p fun x =>
    let mine := x.recompute.filter fun ch => ch.seq == sl.seq && ch.t0 ≤ sl.t0 && sl.t0 < ch.t0 + ch.m
    { x with recompute := mine ++ x.recompute.filter fun ch => !mine.contains ch }

/-- Settle one slot. -/
def State.settleSlot (s : State) (p : Nat) (sl : Slot) : State :=
  match s.seq? sl.seq with
  | none => s
  | some x =>
    let s := s.dropPages x.index (sl.settlePages x)
    let s := s.queueRecompute x.index
    if sl.recompute then s.chunkFirst p sl else s

/-- SLOT_SETTLE: the keeper settles the slots of the runs that a reset ended, once the reset is complete; drops that those
runs held back take effect (09 R228). -/
def slotSettleEffect (p : Fin 8) (s : State) : State :=
  match s.ptn? p.val with
  | none => s
  | some x =>
    if x.settling.isEmpty || !s.keeperWorks p.val || x.reset.isSome ||
        x.settling.any fun r => ((s.ctx? r.ctx).bind (·.reset)).isSome then s
    else
      let s := s.modPtn p.val fun y => { y with settling := [] }
      ((x.settling.flatMap (·.slots)).foldl (fun st sl => st.settleSlot p.val sl) s).dropHeld p.val

def execSlotSettle (p : Fin 8) (s : State) : Result := .next (slotSettleEffect p s)

/-! ### PARTITION_RESET (16 R407 to R410, R414) -/

/-- Stop a partition (16 R407 steps 1 to 5): dump and sample, cleared stores, ended runs; how many commands ended. -/
def State.stopPtn (s : State) (p : Nat) (x : Partition) (r : ResetInProgress) : State :=
  let dump := s.dumpSections p x
  let (s, word) := s.faultWord x r.number
  let sample := match r.ctx with
    | some c => s.sampleSections x c word
    | none => []
  let s := s.storeSample p r.number (dump ++ sample)
  let s := (s.ctxsOf p).foldl (fun st c => ((st.checkEnded c.no).removeRuns c.no).dropPeerFrames c.no) s
  let s := { s with stores := s.stores.clearClusters x.low x.n, moves := s.moves.filter fun m => m.ptn != p }
  let s := (s.abortRuns fun c => ptnOf c == p).1
  (s.ctxsOf p).foldl (fun st c => st.modCtx c.no fun y => { y with reset := none, undefinedState := false }) s

/-- A weight swap of a partition that goes out of service is abandoned with no reload: the object is lost, and its command
ends (16 R414). -/
def State.abandonSwaps (s : State) (p : Nat) : State :=
  (s.weights.filter fun w => ptnOf w.ctx == p && (w.phase == .swapping || w.phase == .rollingBack)).foldl (fun st w =>
    let st := st.modWeight w.ctx w.base fun y =>
      { y with phase := .lost, q := none, next := none, effective := false, overwritten := [] }
    match w.q with
    | some q => st.finish q stAborted 0 0
    | none => st) s

/-- The partition's Felt group as it goes out of service: dissolved with a leave frame, or lost with the device where it
is Becalmed. -/
def State.groupOut (s : State) (p : Nat) : State :=
  match s.group? p with
  | none => s
  | some _ =>
    let s := if s.flt.becalmed then s else s.sendLeave p false
    ((s.dropJoins p).clearDones p).modGroup p fun y => { y with state := 3, joined := [] }

/-- A lockstep member whose group run a reset ends sends an abort frame (16 R410). -/
def State.abortGroupRun (s : State) (p : Nat) (x : Partition) : State :=
  match s.lockstep p with
  | none => s
  | some g =>
    if x.run.any fun r => r.released then
      let s := g.others.foldl (fun st m => st.sendControl p m.1 m.2 .abort) s
      s.clearDones p
    else s

/-- An event to the management context and to the host ring of the owning port (16 R401). -/
def State.eventOwner (s : State) (p code a0 a1 a2 : Nat) : State :=
  let s := s.event (.ctx (mgmt p)) code a0 a1 a2
  match s.owner p with
  | some h => s.event (.host h) code a0 a1 a2
  | none => s

/-- PARTITION_RESET: the steps of a partition reset in progress, or of a partition that goes out of service. -/
def partitionResetEffect (p : Fin 8) (s : State) : State :=
  match s.ptn? p.val with
  | none => s
  | some x =>
    match x.reset with
    | none => s
    | some r =>
      if x.status == .outOfService then
        let s := s.stopPtn p.val x r
        let s := ((s.groupOut p.val).abandonSwaps p.val).modPtn p.val fun y =>
          { y with reset := none, power := { y.power with shareMw := y.baseMw } }
        let outs := (lastWindow s.live.outWin s.flt.outTimes).length
        (s.eventOwner p.val 0x0014 p.val r.number.toNat outs).report 0x03 p.val r.number.toNat 0
      else
        let s := (s.abortGroupRun p.val x).stopPtn p.val x r
        let s := s.modPtn p.val fun y =>
          { y with reset := none, status := .running, commits := y.commits.map fun c => { c with late := false },
                   beat := { y.beat with since := s.now, closed := false, applied := false, collected := [], slip := none, paused := 0 } }
        (s.weightsReset p.val).eventOwner p.val 0x0013 p.val r.number.toNat x.ptnResets.length

def execPartitionReset (p : Fin 8) (s : State) : Result := .next (partitionResetEffect p s)

/-! ### Core restarts (16 R411, R412, R416; 17 R421, R439) -/

/-- Whether a control core runs: the field core with its supply, the others in Run, Lull and Calm. -/
def State.coreRuns (s : State) (island : Nat) : Bool :=
  isCore island &&
    if island = fieldIsland then s.field.vdd && s.field.firmware
    else s.wardenRuns

/-- A control core that runs and is not restarting meets fault 0x0B. -/
def State.coreFault (s : State) (island : Nat) : State :=
  if s.coreRuns island && !s.restarting island then s.raiseFault { kind := 0x0B, island := island } else s

/-- CORE_EXCEPTION. -/
def coreExceptionEffect (i : Fin 152) (s : State) : State := s.coreFault i.val

def execCoreException (i : Fin 152) (s : State) : Result := .next (coreExceptionEffect i s)

/-- CORE_HEARTBEAT_WATCHDOG: 50 us without a write of the heartbeat (16 Table FLT.2). -/
def coreHeartbeatWatchdogEffect (i : Fin 152) (s : State) : State := s.coreFault i.val

def execCoreHeartbeatWatchdog (i : Fin 152) (s : State) : Result := .next (coreHeartbeatWatchdogEffect i s)

/-- CORE_PROGRESS_WATCHDOG: 200 us without progress of the oldest work item; the field core is not watched so. -/
def coreProgressWatchdogEffect (i : Fin 152) (s : State) : State := if i.val = fieldIsland then s else s.coreFault i.val

def execCoreProgressWatchdog (i : Fin 152) (s : State) : Result := .next (coreProgressWatchdogEffect i s)

/-! ### The watchdogs of transactions and resets (16 R399, Table FLT.2) -/

/-- The line of tier 1 that a move's transaction touches, as cluster and offset: of its source, else of its destination.
-/
def State.chunkLine (s : State) (mv : Move) (chunk : Nat) : Option (Nat × Nat) :=
  match s.ptn? mv.ptn with
  | none => none
  | some x =>
    match x.run with
    | none => none
    | some r =>
      let n := min 128 (mv.bytes - 128 * chunk)
      let tier1 := fun (e : Option Endpoint) (write : Bool) =>
        (e.map fun y => s.spots x.low r y write (128 * chunk) n).getD [] |>.findSome? fun p =>
          match p with
          | .tier 1 c a _ => some (c, a)
          | _ => none
      tier1 (Mv.source mv.record) false <|> tier1 (Mv.dest mv.record) true

/-- TXN_WATCHDOG: a transaction outstanding for more than 100 us is discarded and faults its context. Peer moves are
excepted. -/
def txnWatchdogEffect (c : Fin 8) (move chunk : Nat) (s : State) : State :=
  match s.moves.find? fun m => m.id == move && m.cluster == c.val with
  | none => s
  | some mv =>
    match mv.outstanding.find? fun o => o.1 == chunk with
    | none => s
    | some (_, since) =>
      if s.now ≤ since + 100 || Mv.dstKind mv.record = 6 then s
      else
        let at_ := s.chunkLine mv chunk
        let s := s.modMove move fun m => { m with outstanding := m.outstanding.filter fun o => o.1 != chunk }
        match at_ with
        | none => s.raiseFault (s.moveFault mv 0x03 0)
        | some (k, a) => s.raiseFault { s.poisonFault mv (1, k, a) with kind := 0x03 }

def execTxnWatchdog (c : Fin 8) (move chunk : Nat) (s : State) : Result := .next (txnWatchdogEffect c move chunk s)

/-- CTX_RESET_WATCHDOG: a context reset in progress for more than 300 us gives way to a partition reset. -/
def ctxResetWatchdogEffect (c : CtxNo) (s : State) : State :=
  match (s.ctx? c).bind (·.reset) with
  | none => s
  | some r =>
    if s.now ≤ r.since + 300 then s
    else s.raiseFault { kind := 0x0A, ptn := some (ptnOf c), ctx := some c }

def execCtxResetWatchdog (c : CtxNo) (s : State) : Result := .next (ctxResetWatchdogEffect c s)

/-- PTN_RESET_WATCHDOG: a partition reset in progress for more than 1 ms makes the device Becalmed. A partition that goes
out of service performs no reset (16 R413). -/
def ptnResetWatchdogEffect (p : Fin 8) (s : State) : State :=
  match ((s.ptn? p.val).filter fun x => x.status == .resetting).bind (·.reset) with
  | none => s
  | some r => if s.now ≤ r.since + 1000 then s else s.raiseFault { kind := 0x0C }

def execPtnResetWatchdog (p : Fin 8) (s : State) : Result := .next (ptnResetWatchdogEffect p s)

/-- CORE_RESTART_WATCHDOG: a core restart in progress for more than 400 us makes the device Becalmed. -/
def coreRestartWatchdogEffect (i : Fin 152) (s : State) : State :=
  match s.flt.restarting.find? fun r => r.island == i.val with
  | none => s
  | some r => if s.now ≤ r.since + 400 then s else s.raiseFault { kind := 0x0C }

def execCoreRestartWatchdog (i : Fin 152) (s : State) : Result := .next (coreRestartWatchdogEffect i s)

/-! ### COMMAND_DEADLINE (12 R307) -/

/-- Withdraw a run that has had no beat released: its admission is undone, and its command completes. -/
def State.withdrawRun (s : State) (p : Nat) (r : Run) : State :=
  let s := if r.admitted then s.restoreSlots r.slots else s
  let s := s.modPtn p fun x =>
    { x with queue := x.queue.filter fun y => y.q != r.q, run := x.run.filter fun y => y.q != r.q }
  (((s.quotaClear p).dropHeld p).checkReserved p r).finish r.q stDeadline 0 0

/-- The deadline of a run has passed: before its first beat it is withdrawn; later it is tested at a boundary. -/
def State.deadlineRun (s : State) (p : Nat) (q : Req) : State :=
  match s.ptn? p with
  | none => s
  | some x =>
    match (x.run.toList ++ x.queue).find? fun r => r.q == q with
    | none => s
    | some r =>
      if !r.released then s.withdrawRun p r
      else if x.beat.closed then s.testDeadline p
      else s

/-- COMMAND_DEADLINE: the deadline of an accepted command has passed. A run whose first beat is released is tested at its
boundary. -/
def commandDeadlineEffect (ring : Ring) (idx : BitVec 32) (s : State) : State :=
  match s.accepted.find? fun a => a.q.ring == ring && a.q.idx == idx with
  | none => s
  | some a =>
    if !a.pastDeadline s.now then s
    else if !a.started then s.finish a.q stDeadline 0 0
    else
      match a.cmd, ring with
      | .schedRun .., .ctx c => s.deadlineRun (ptnOf c) a.q
      | .schedStep .., .ctx c => s.deadlineRun (ptnOf c) a.q
      | _, _ => s.finish a.q stDeadline 0 0
def execCommandDeadline (ring : Ring) (idx : BitVec 32) (s : State) : Result := .next (commandDeadlineEffect ring idx s)

end Sys2Proof.Machine
end

