-- ==== Sys2Proof/Machine/Ladder.lean ====
section
/-! DEFINITION. The power ladder and the boot (15 R372 to R376, 17 R432 to R437 and R441, 19 R472 to R477): PWR.ENTER, entry to
and exit from the states, the supplies, the reference clock, the thermal trip, the boot ROM and its recovery. -/

namespace Sys2Proof.Machine

/-! ### PWR.ENTER (15 R373) -/

/-- The state that a code of 15 Table PWR.1 names, Run apart. -/
def targetOf (t : BitVec 3) : Option PowerState :=
  match t.toNat with
  | 1 => some .lull
  | 2 => some .calm
  | 3 => some .still
  | 4 => some .frost
  | _ => none

/-- Whether a command is a PTN.DESTROY. -/
def isDestroy : Instr → Bool
  | .ptnDestroy .. => true
  | _ => false

/-- Whether a weight session is served or received. -/
def State.inSession (s : State) : Bool :=
  !s.serving.isEmpty || !s.awaited.isEmpty || s.weights.any fun w =>
    (w.phase == .loading || w.phase == .swapping || w.phase == .rollingBack) && w.targetSource != .library

/-- Whether PWR.ENTER to a state is refused. -/
def State.enterBarred (s : State) (q : Req) (t : PowerState) : Bool :=
  (s.ptnNos.any fun p => ((s.ptn? p).map (·.live.guarded)).getD false) ||
  (s.accepted.any fun a => a.q != q && !isDestroy a.cmd) ||
  (t == .calm && ((s.ptnNos.any fun p => (s.group? p).isSome) || s.inSession)) ||
  ((t == .still || t == .frost) && !s.ptnNos.isEmpty)

/-- PWR.ENTER. -/
def pwrEnterBody (t : BitVec 3) (s : State) (q : Req) : Ran :=
  match targetOf t with
  | none => .status s stOkEmpty
  | some x =>
    if x != .lull && s.accepted.any fun a => isDestroy a.cmd then .waits
    else if s.enterBarred q x then .status s stInUse
    else .status { s with pwr := { s.pwr with target := some x } } stOk

def execPwrEnter (q : Req) (t : BitVec 3) (s : State) : Result := .next (runCommand (.pwrEnter q t) s (pwrEnterBody t))

/-! ### Entry to a state (15 R372, R375) -/

/-- Entry to Lull: a member of a lockstep group sends its held frame. -/
def State.enterLull (s : State) : State :=
  s.ptnNos.foldl (fun st p =>
    match st.lockstep p with
    | some g => st.reportHeld p g
    | none => st) (s.enterState .lull)

/-- Entry to Calm: the Felt ports go down. -/
def State.enterCalm (s : State) : State := (s.enterState .calm).portsDown

/-- What ends with the stacks' supply: their contents, with every retiring rank retired (08 R199), the layer stores beside
the keep region, the tile stores and the translation caches; operator sessions end (14 R367). -/
def State.loseMemory (s : State) : State :=
  let s := (List.range 6).foldl (fun st k => st.modRanks k RankState.settle) s
  { s with
    tier1 := [], undef := [], poison := [], poisonReports := [], tier1Ready := false, layer := [], stores := {}
    caches := Vector.replicate 8 {}
    memc := { s.memc with doubled := Vector.replicate 6 false }
    sessions := s.sessions.map fun x => { x with openedAt := none, challenge := none } }

/-- Entry to Still: the stacks lose their contents, the Felt ports go down and the device gives up its address. -/
def State.enterStill (s : State) : State :=
  let s := ((s.enterState .still).loseMemory).portsDown
  s.modFelt fun f => { f with addr := none }

/-- A program that loses its supply: a free value says whether the page holds what was to be written, or nothing that
passes its checks. -/
def State.cutProgram (s : State) (key : Nat) (x : FlashPage) : State :=
  let (v, s) := s.takeFree
  s.programPage key (if v.getLsbD 0 then x else .cut)

/-- The operations that are issued as the flash store loses its supply are cut off: an erase leaves nothing that its block
held, and no completion record. What was not issued is lost with the store core's memory. -/
def State.cutFlash (s : State) : State :=
  let f := s.flash
  let s := (f.jobs.filter (·.issued)).foldl (fun st j =>
    if j.op == .program then st.cutProgram (pageKey j.die j.block j.page) j.data else st.blankBlock (blockName j.die j.block)) s
  let s := f.journals.toList.zipIdx.foldl (fun st (x, d) => match x.writing with
    | some w => st.cutProgram (pageKey d x.active w.page) (.bytes w.bytes)
    | none => st) s
  let s := f.logs.toList.zipIdx.foldl (fun st (x, d) => match x.writing with
    | some r => st.cutProgram (pageKey d x.block x.next) (.log r.1 r.2)
    | none => st) s
  s.modFlash fun f => { f with
    jobs := [], storing := [], copying := [], ended := [], dirty := [], freed := [], flags := []
    journals := f.journals.map fun x => { x with writing := none }
    logs := f.logs.map fun x => { x with writing := none, queue := [], copies := 0 } }

/-- Everything that the host side loses with its supply: only the flash store's pages, the OTP row and the field side
stay. -/
def State.darken (s : State) (x : PowerState) : State :=
  let s := ((s.enterState x).cutFlash).loseMemory
  { s with
    hosts := s.hosts.map fun h => ({ mem := h.mem } : HostSide)
    primary := none
    ptns := Vector.replicate 8 none
    ctxs := [], accepted := [], heldWork := [], objs := [], images := [], migrations := [], moves := []
    groups := Vector.replicate 8 {}
    seqs := [], gens := [], handles := []
    devCommit := {}
    flt := {}
    pwr := { die := s.pwr.die, stackTemps := s.pwr.stackTemps }
    sessions := Vector.replicate 3 {}
    authFail := 0
    felt := { ports := s.felt.ports.map fun p => ({ signal := p.signal } : Port), sent := s.felt.sent }
    weights := [], awaited := [], serving := [], library := []
    flash := { s.flash with logs := s.flash.logs.map fun x => { x with queue := [] } }
    fw := { s.fw with staged := [], staging := 0, verified := none, activation := none,
                      code := Vector.replicate 6 [], digests := Vector.replicate 6 0 }
    recovery := none
    memc := { s.memc with rej := false, corrected := [], cmdRetry := [] }
    rng := {}, tap := {}
    supplies := { s.supplies with waking := false, booting := false } }

/-- Program every queued record of the log: a time in which the store core has nothing else to do. -/
def State.flushLog (s : State) : Nat → State
  | 0 => s
  | n + 1 =>
    let s := (List.range 2).foldl State.logTurn s
    ((List.range 2).foldl (fun st d => match st.flash.logs[d]? with
      | some x => match x.writing with
        | some r => st.logDone d x r
        | none => st
      | none => st) s).flushLog n

/-- What Frost leaves of a host port: its link, and its ring with the commands in it; all else of the host side is lost
(15 Table PWR.1, R373; log entry 71). -/
def HostSide.frozen (h : HostSide) : HostSide :=
  { attached := h.attached, rate := h.rate, ring := h.ring, wardenMem := h.wardenMem, mem := h.mem }

/-- Entry to Frost: the store core writes the configuration record (15 R376) and what else waits for the records log,
and the host side loses its supply. The host links stay connected, and the host rings keep their entries (15 R372, R373;
log entry 71). -/
def State.enterFrost (s : State) : State :=
  let t := s.cutFlash.modFlash fun f => { f with logs := s.flash.logs.map fun x => { x with writing := none } }
  let t := t.record (.config { staged := s.staged, live := s.live, policy := s.memc.policy })
  let left := t.flash.logs.toList.foldl (fun n x => max n x.queue.length) 0
  { (t.flushLog (left + 8)).darken .frost with hosts := s.hosts.map HostSide.frozen, primary := s.primary }

/-- POWER_STATE_ENTRY (15 R373): Lull at the first moment with no command in progress, the others within 1 ms. -/
def powerStateEntryEffect (s : State) : State :=
  if s.power != .run || !s.accepted.isEmpty then s
  else
    let t := { s with pwr := { s.pwr with target := none } }
    match s.pwr.target with
    | some .lull => t.enterLull
    | some .calm => t.enterCalm
    | some .still => t.enterStill
    | some .frost => t.enterFrost
    | _ => s

def execPowerStateEntry (s : State) : Result := .next (powerStateEntryEffect s)

/-- AUTO_LULL (15 R374). -/
def autoLullEffect (s : State) : State :=
  let guarded := s.ptnNos.any fun p => ((s.ptn? p).map (·.live.guarded)).getD false
  if s.power == .run && s.live.autoLull && !guarded && s.accepted.isEmpty && s.pwr.target.isNone &&
      s.idleSince + s.live.lullIdle ≤ s.now then s.enterLull
  else s

def execAutoLull (s : State) : Result := .next (autoLullEffect s)

/-! ### Wakes (15 R374) -/

/-- A wake trigger of Still and Frost; ignored while a thermal trip is unreleased (15 Table PWR.4). -/
def State.startWaking (s : State) : State :=
  if (s.power == .still || s.power == .frost) && !s.field.tripped then { s with supplies := { s.supplies with waking := true } }
  else s

/-- A wake from the sideband wake line or the field port, which acts in every state below Run. -/
def State.wakeAny (s : State) : State := s.wake.startWaking

/-- WAKE_LINE. -/
def wakeLineEffect (s : State) : State := s.wakeAny

def execWakeLine (s : State) : Result := .next (wakeLineEffect s)

/-- The rate of a host link, as DEV_HOST_STAT numbers it (18 Table LNK.7). -/
def linkRate (gen4 : Bool) : BitVec 2 := if gen4 then 2 else 1

/-- HOST_LINK_CONNECT: a host link trains at Gen 4 or Gen 3, which wakes from Still and Frost (15 R374); the port attaches
with PORT_ATTACH. -/
def hostLinkConnectEffect (h : Fin 2) (gen4 : Bool) (s : State) : State :=
  if s.supplies.vin then (s.modHost h fun x => { x with rate := linkRate gen4 }).startWaking else s

def execHostLinkConnect (l : HostLink) (s : State) : Result := .next (hostLinkConnectEffect l.port l.gen4 s)

/-! ### The start of the cores (17 R432, R435 to R437; 19 R474) -/

/-- A record of the erase journal as a page holds it (17 Table FW.4): kind, block, sequence number and count; none where
its check fails. -/
def readJournal (x : FlashPage) : Option (Nat × Nat × Nat × Nat) :=
  let bs := x.data
  let w := Bits.ofBytes (bs.take 64)
  let kind := Bits.range w 39 32
  if x != .blank && Bits.range w 31 0 == 0x4A527160 && (kind == 1 || kind == 2) && crc32 (bs.take 60) == Bits.range w 511 480 then
    some (kind, Bits.range w 61 48, Bits.range w 127 64, Bits.range w 139 128)
  else none

/-- The journal records of a die, with the block that each lies in: those of blocks 4 to 63 (17 R432). -/
def State.journalPages (s : State) (d : Nat) : List (Nat × Nat × Nat × Nat × Nat) :=
  s.flash.pages.filterMap fun (k, x) =>
    if keyDie k == d && 4 ≤ keyBlock k && keyBlock k ≤ 63 then (readJournal x).map fun r => (keyBlock k, r) else none

/-- The element of a list with the highest number. -/
def highest {α : Type} (f : α → Nat) : List α → Option α
  | [] => none
  | x :: xs =>
    match highest f xs with
    | some y => if f x < f y then some y else some x
    | none => some x

/-- The half-erased blocks of a die, with their erases before the interrupted one: those whose last intent has no
completion record (17 R432; log entry 169). -/
def State.halfBlocks (s : State) (d : Nat) : List (Nat × Nat) :=
  let rs := s.journalPages d
  let intents := rs.filter fun r => r.2.1 == 1
  ((intents.map fun r => r.2.2.1).eraseDups).filterMap fun b =>
    match highest (fun r => r.2.2.2.1) (intents.filter fun r => r.2.2.1 == b) with
    | some r => if s.isRetired d b || rs.any fun y => y.2.1 == 2 && y.2.2.2.1 == r.2.2.2.1 then none else some (b, r.2.2.2.2)
    | none => none

/-- Pages programmed in a block, up to the last. -/
def State.usedPages (s : State) (d b : Nat) : Nat :=
  s.flash.pages.foldl (fun n e => if e.1 / 1024 == blockName d b then max n (e.1 % 1024 + 1) else n) 0

/-- The store core finds a die's active journal block: the one whose records carry the highest number (17 R432). -/
def State.startJournal (s : State) (d : Nat) : State :=
  match highest (fun r => r.2.2.2.1) (s.journalPages d) with
  | none => s
  | some r => s.modJournal d fun x =>
    { x with active := r.1, other := if r.1 = x.other then x.active else x.other, seq := BitVec.ofNat 64 r.2.2.2.1, used := s.usedPages d r.1 }

/-- The store core looks at a die's half-erased blocks: each interrupted erase counts, and a blank check records its
outcome, a free value, for the last one (17 R432). -/
def State.findHalf (s : State) (d : Nat) : State :=
  let half := s.halfBlocks d
  let s := s.modDie d fun x => { x with half := BitVec.ofNat 15 (min 32767 half.length), blankFailed := false, eccCorr := 0, uncorr := 0 }
  half.foldl (fun st (b, n) =>
    let (v, st) := st.takeFree
    let st := (st.modDie d fun x => { x with blankFailed := v.getLsbD 0 }).modFlash fun f =>
      { f with erases := Table.set f.erases (blockName d b) (n + 1) }
    if libraryBlock b && 3000 ≤ n + 1 then st.loseStripe (b / 4) else st) s

/-- The records log of a die at start: it goes on in the block that holds the newest page, to which the live records of
the others are copied; blocks that hold older pages, or are half-erased, are erased (17 R429). -/
def State.startLog (s : State) (half : List Nat) (d : Nat) : State :=
  match s.flash.logs[d]? with
  | none => s
  | some x =>
    let at_ := ((newestLog (s.logPages d)).map fun y => keyBlock y.1).getD x.block
    let blocks := if x.blocks.contains at_ then x.blocks.drop (x.blocks.idxOf at_) ++ x.blocks.take (x.blocks.idxOf at_) else x.blocks
    let head := blocks.headD 6
    let live := ((s.liveLog d).filter fun y => keyBlock y.1 != head).map fun y => y.2
    let s := s.modLog d fun y => { y with blocks := blocks, next := s.usedPages d head, queue := live, copies := live.length }
    s.addJobs (((blocks.drop 1).filter fun b => s.flash.holds (blockName d b) || half.contains b).map fun b =>
      { die := d, block := b, op := .erase, use := .log })

/-- The records that the store core takes from the log at start (17 R429, 19 R474): rank states, in which no copy is
left to be made (08 R199), ageing records, the Becalmed cause, the library index and DEV_FLD_CFG. -/
def State.applyRecords (s : State) : State :=
  let ranks := match s.recorded 0 with
    | some (.ranks x) => x
    | _ => Vector.replicate 6 {}
  let s := (List.range 6).foldl (fun st k => st.modRanks k RankState.settle) { s with memc := { s.memc with ranks := ranks } }
  let ages := match s.recorded 1 with
    | some (.ages x) => x
    | _ => []
  let cause := match s.recorded 3 with
    | some (.cause x) => x
    | _ => 0
  let (entries, freed) := match s.recorded 5 with
    | some (.library es fs) => (es, fs)
    | _ => ([], [])
  let cfg := match s.recorded 6 with
    | some (.fieldCfg x) => x
    | _ => 0x310
  { s with
    pwr := { s.pwr with ages := ages }, flt := { s.flt with lastCause := cause }, library := entries
    flash := { s.flash with freed := freed }, field := { s.field with cfg := cfg } }

/-- The stripes that are dirty at start (17 R430): not free, not withdrawn, and named by no entry of the index. -/
def State.dirtyStripes (s : State) (half : List Nat) : List Nat :=
  let held := (s.flash.pages.map fun e => keyBlock e.1 / 4) ++ half.map (· / 4)
  (held.filter fun i => 16 ≤ i && !(s.flash.withdrawn ++ s.flash.freed ++ s.library.flatMap (·.stripes)).contains i).eraseDups

/-- The store core's start (17 R429, R430, R432). -/
def State.startStore (s : State) : State :=
  let half := (List.range 8).map fun d => (s.halfBlocks d).map (·.1)
  let s := (List.range 8).foldl (fun st d => (st.startJournal d).findHalf d) s
  let s := (List.range 2).foldl (fun st d => st.startLog (half.getD d []) d) s
  (s.leaveDirty (s.dirtyStripes (half.flatMap fun x => x.filter libraryBlock))).issueFlash

/-- The device-scope registers at the start: the configuration record after Frost (15 R376), else their reset values (21
R501); a cold start brings MEMC_SPARE_CFG back to policy one, and the ranks with it (08 R181). -/
def State.startRegisters (s : State) (thaw : Bool) : State :=
  match thaw, s.recorded 2 with
  | true, some (.config r) => { s with staged := r.staged, live := r.live, memc := { s.memc with policy := r.policy } }
  | _, _ =>
    let s := { s with staged := DevRegs.reset, live := DevRegs.reset, fieldCap := 600, fieldEmerg := false }
    if s.memc.policy then s
    else
      (List.range 6).foldl (fun st k => st.modRanks k RankState.toOne) { s with memc := { s.memc with policy := true } }

/-- The field core receives its section (17 R435 step 7, R437); a core that runs one keeps it. -/
def State.sendSection (s : State) : State :=
  if s.field.vdd && !s.field.firmware then
    { s with field := { s.field with firmware := true, inUse := s.field.cfg, heartbeat := true, code := s.fw.section_ 6 } }
  else { s with field := { s.field with heartbeat := true } }

/-- Copy every section of an image into the code area, and set each section digest in force (17 R435 step 6). -/
def Firmware.load (f : Firmware) (m : Mem) : Firmware :=
  (List.range' 1 6).foldl (fun g core => (g.copySection m core).setDigest m core) f

/-- Steps 5 to 7 of 17 R435 for an authentic image, up to the point where the device is command-ready. The anti-rollback
counter advances to its index (R436). -/
def State.startCores (s : State) (image : FwInfo) (m : Mem) : State :=
  let thaw := s.power == .frost
  let s := s.modFw fun f => { f.load m with
    running := image, staged := [], staging := 0, verified := none, activation := none
    rollback := f.rollback ||| BitVec.ofNat 128 (2 ^ image.rbIndex.toNat - 1) }
  let s : State := { s.enterState .run with
    idleSince := s.now, tier1Ready := false, recovery := none
    supplies := { s.supplies with waking := false, booting := false, stateSince := s.now }
    flt := { bootAt := s.now } }
  let s := (((s.applyRecords).startRegisters thaw).startStore).sendSection.raiseLinks
  if s.usableRegions = 0 then s.becalm 3 else s

/-- The boot ROM enters recovery with the step that failed (17 R435, R441). -/
def State.enterRecovery (s : State) (step : Nat) : State :=
  { s with recovery := some { fail := BitVec.ofNat 8 step }, supplies := { s.supplies with waking := false, booting := false } }

/-- Steps 3 and 4 of 17 R435 for the bytes of an image: its header, or the step that fails. -/
def State.checkImage (s : State) (m : Mem) : Except Nat FwHead :=
  match readFw m with
  | none => .error 4
  | some x => if x.authentic m s.fw.steps then .ok x else .error 4

/-- Steps 1 to 4 of 17 R435 on the boot area, of which some pages can be read: the image and its header, or the step that
fails. -/
def State.bootCheck (s : State) (readable : Nat → Bool) : Except Nat (Mem × FwHead) :=
  match (List.range 8).mapM (s.slice readable) with
  | none => .error 1
  | some xs =>
    let m := s.sliceBytes (xs.map (·.1))
    let digests := xs.map (·.2)
    let pages := (List.range (min 256 (imagePages m))).map (slotKey (xs.map (·.1)))
    if digests.any fun d => some d != digests.head? then .error 2
    else if !pages.all readable || some (Config.sha3 (Mem.read m 0 (Mem.word m 24 4))) != digests.head? then .error 3
    else (s.checkImage m).map fun x => (m, x)

/-- The boot ROM (17 R435): it starts the cores on the image of the boot area, or enters recovery. Which pages it can read
is a free value (R425). -/
def State.bootRom (s : State) : State :=
  let t := s.takeFree.2
  match s.bootCheck fun k => Config.pageErrors s.free k ≤ 72 with
  | .error n => t.enterRecovery n
  | .ok (m, x) => (t.modFw fun f => { f with boot := some x.info }).startCores x.info m

/-- Whether REFCLK has been present for a time. -/
def State.clockFor (s : State) (us : Nat) : Bool :=
  match s.supplies.refSince with
  | some t => t + us ≤ s.now
  | none => false

/-- Whether a thaw may proceed (15 Table PWR.4, 19 R477): a wake has come, REFCLK has been present for 1 ms, and no
thermal trip is unreleased. -/
def State.mayThaw (s : State) : Bool := s.supplies.waking && s.clockFor 1000 && !s.field.tripped && s.recovery.isNone

/-- THAW (15 R376): Still resumes from the keep region; Frost boots. -/
def thawEffect (s : State) : State :=
  if !s.mayThaw then s
  else
    match s.power with
    | .still =>
      { s.enterState .run with
        idleSince := s.now, supplies := { s.supplies with waking := false, stateSince := s.now }
        field := { s.field with heartbeat := true } }.raiseLinks.issueFlash
    | .frost => s.bootRom
    | _ => s

def execThaw (s : State) : Result := .next (thawEffect s)

/-- The next step of the boot ROM on an image that a host delivers in recovery (17 R441): it reads the image into the
staging area, checks it, and starts the cores; the store core then writes the boot area. A length above 4,194,304, or a
host that is gone, fails step 3. -/
def State.recoveryStep (s : State) (r : Recovery) : State :=
  let fails := fun (n : Nat) => { s with recovery := some { r with fail := BitVec.ofNat 8 n, state := 1 } }
  match r.state.toNat with
  | 2 =>
    if 4194304 < r.len.toNat || !(s.host r.port).attached then fails 3
    else
      { s with
        recovery := some { r with state := 3 }
        fw := { s.fw with staged := Mem.write [] 0 (s.readHost r.port r.addr.toNat r.len.toNat) } }
  | 3 =>
    match s.checkImage s.fw.staged with
    | .error n => fails n
    | .ok _ => { s with recovery := some { r with state := 4 } }
  | 4 =>
    match readFw s.fw.staged with
    | none => fails 4
    | some x =>
      let m := s.fw.staged
      ((s.startCores x.info m).modFw fun f =>
        { f with staged := m, activation := some { q := none, image := x.info, cores := activationOrder.length } }).writeBoot
  | _ => s

/-- BOOT_ROM_START: on a cold start from Off once the clock is present, or on a thaw from Frost; in recovery, the next
step on the image that a host delivers (log entry 108). -/
def bootRomStartEffect (s : State) : State :=
  match s.recovery with
  | some r => s.recoveryStep r
  | none =>
  if s.power == .off && s.supplies.booting && s.clockFor 0 then s.bootRom
  else if s.power == .frost && s.mayThaw then s.bootRom
  else s

def execBootRomStart (s : State) : Result := .next (bootRomStartEffect s)

/-- TIER1_READY: stacked memory is initialised, and commands that wait for it start. -/
def tier1ReadyEffect (s : State) : State := if s.wardenRuns then { s with tier1Ready := true } else s

def execTier1Ready (s : State) : Result := .next (tier1ReadyEffect s)

/-! ### Supplies and clock (19 R472 to R477) -/

/-- POWER_ON: VIN48 reaches 38 V, and a cold start begins. -/
def powerOnEffect (s : State) : State :=
  if s.supplies.vin then s else { s with supplies := { s.supplies with vin := true, booting := true } }

def execPowerOn (s : State) : Result := .next (powerOnEffect s)

/-- POWER_REMOVE (19 R475): the host side goes to Off at once, and the shed latch and field cap end with it (18 R459). -/
def powerRemoveEffect (s : State) : State :=
  if !s.supplies.vin then s
  else
    { s.darken .off with
      fieldCap := 600, fieldEmerg := false
      supplies := { s.supplies with vin := false, waking := false, booting := false, stateSince := s.now }
      field := { s.field with shedMsg := false, heartbeat := false, quote := none } }

def execPowerRemove (s : State) : Result := .next (powerRemoveEffect s)

/-- FIELD_POWER_ON (17 R437): the field core, which holds no section yet, runs from its ROM, and its counters are at
reset. -/
def fieldPowerOnEffect (s : State) : State :=
  if s.field.vdd then s
  else
    { s with field := { cfg := s.field.cfg, rej := s.field.rej, inUse := s.field.cfg, firmware := false, shedPin := s.field.shedPin,
                        shedMsg := s.field.shedMsg, heartbeat := s.field.heartbeat, tripped := s.field.tripped,
                        sent := s.field.sent } }

def execFieldPowerOn (s : State) : Result := .next (fieldPowerOnEffect s)

/-- FIELD_VDD_LOSS (19 R474): the field side stops; its section, queue and quote are lost. -/
def fieldVddLossEffect (s : State) : State :=
  { s with field := { s.field with
    vdd := false, firmware := false, code := [], items := [], lost := 0, quote := none, summary := [], summaryNo := 0, rxSeq := [], txSeq := [] } }

def execFieldVddLoss (s : State) : Result := .next (fieldVddLossEffect s)

/-- REFCLK_PRESENT. -/
def refclkPresentEffect (s : State) : State :=
  match s.supplies.refSince with
  | some _ => s
  | none => { s with supplies := { s.supplies with refSince := some s.now } }

def execRefclkPresent (s : State) : Result := .next (refclkPresentEffect s)

/-- Every command in progress or accepted completes with ST_ABORTED, and the device enters Frost; no ring pair survives,
so the host ring pairs are then empty (19 R477). -/
def State.abortToFrost (s : State) : State :=
  let t := (s.abortWhere fun _ => true).1.enterFrost
  let empty (h : HostSide) : HostSide := { h with ring := {}, events := {}, wardenMem := [] }
  { t with hosts := t.hosts.map empty }

/-- REFCLK_LOSS (19 R477): REFCLK absent for 10 us in Run, Lull or Calm. -/
def refclkLossEffect (s : State) : State :=
  let t := { s with supplies := { s.supplies with refSince := none } }
  if s.wardenRuns then t.abortToFrost else t

def execRefclkLoss (s : State) : Result := .next (refclkLossEffect s)

/-- THERMAL_TRIP (15 Table PWR.4 row 2, 19 R477): die at or above 120 degrees or a stack at or above 105. -/
def thermalTripEffect (die stack : BitVec 8) (s : State) : State :=
  if !(s.wardenRuns || s.power == .still) || !(celsius die ≥ 120 || celsius stack ≥ 105) then s
  else
    let s := { s with pwr := { s.pwr with die := die } }
    let s := s.setLimits (withRow s.pwr.acting 2 true) s.pwr.ceiling
    let s := s.report 0x07 (Bits.ofInt 32 (celsius die)) (Bits.ofInt 32 (celsius stack)) 0
    s.abortToFrost |> fun t => { t with field := { t.field with tripped := true } }

def execThermalTrip (die stack : BitVec 8) (s : State) : Result := .next (thermalTripEffect die stack s)

/-! ### Recovery (17 R441) -/

/-- A write of go: the ROM begins to load the image that rec_addr and rec_len name; BOOT_ROM_START carries the load on.
A go while an image is loading is ignored, and one with rec_len 0 does nothing. -/
def recoveryGoEffect (port : Fin 2) (value : BitVec 32) (host : HostBytes) (s : State) : State :=
  let s := s.modHost port fun x => { x with mem := host.foldl (fun m (a, b) => Mem.put m a b) x.mem }
  match s.recovery with
  | none => s
  | some r =>
    if !(s.host port).attached || !value.getLsbD 0 || r.len = 0 || r.state != 1 then s
    else { s with recovery := some { r with fail := 0, port := port, state := 2 } }

def execRecoveryGo (port : Fin 2) (value : BitVec 32) (host : HostBytes) (s : State) : Result :=
  .next (recoveryGoEffect port value host s)

end Sys2Proof.Machine
end

