-- ==== Sys2Proof/Machine/HostPorts.lean ====
section
/-! DEFINITION. The host ports (18 R443 to R455): attach, detach, orphans, the primary port and ALERT_N. -/

namespace Sys2Proof.Machine

/-- Whether a host port's endpoint is up: in Run, Lull and Calm, and in recovery (17 R441). -/
def State.endpointUp (s : State) : Bool := s.wardenRuns || s.recovery.isSome

/-- An event to the host ring of the other port, where it is attached (18 R454). -/
def State.eventOther (s : State) (h : Fin 2) (code a0 a1 a2 : Nat) : State :=
  if (s.host (otherPort h)).attached then s.event (.host (otherPort h)) code a0 a1 a2 else s

/-- PORT_ATTACH (18 R443, R449): an empty host ring pair, a masked MSI-X table, and the primary port where there is
none. -/
def portAttachEffect (h : Fin 2) (gen4 : Bool) (s : State) : State :=
  if !s.endpointUp || (s.host h).attached then s
  else
    let s := s.modHost h fun x =>
      { x with attached := true, rate := linkRate gen4, ring := {}, events := {}, wardenMem := [], msix := [], msixPending := [],
               hello := false }
    let s := if s.primary.isNone then { s with primary := some h } else s
    s.eventOther h 0x0090 1 h.val (linkRate gen4).toNat

def execPortAttach (port : Fin 2) (gen4 : Bool) (s : State) : Result := .next (portAttachEffect port gen4 s)

/-- Destroy an orphaned partition whose time has run out (18 R452). -/
def State.expire (s : State) (p : Nat) (h : Fin 2) : State :=
  ((s.destroyPtn p).eventHosts 0x0090 3 p h.val).report 0x0B p h.val 0

/-- The partitions that a port owns. -/
def State.ownedBy (s : State) (h : Fin 2) : List Nat := s.ptnNos.filter fun p => s.owner p == some h

/-- A port detaches (18 R449, R450): its partitions are orphaned, an orphan time of 0 destroys at once, its operator
session ends, its host ring's commands complete unseen, and the other port becomes primary where it is attached. -/
def State.detach (s : State) (h : Fin 2) : State :=
  if !(s.host h).attached then s
  else
    let mine := s.ownedBy h
    let s := s.modHost h fun x => { x with attached := false, ring := {}, events := {}, wardenMem := [], msixPending := [] }
    let s := { s with
      accepted := Lists.modifyIf (fun (a : Accepted) => a.q.ring == Ring.host h) (fun a => { a with void := true }) s.accepted
      sessions := s.sessions.mapFinIdx fun i x _ => if i = h.val then { x with openedAt := none, challenge := none } else x
      primary := if s.primary != some h then s.primary
        else if (s.host (otherPort h)).attached then some (otherPort h) else none }
    let fence := fun (a : Accepted) => a.cmd.opcode == 0x90 && a.q.fbScope == 3 && (ctxOf a.q.ring).any fun c => mine.contains (ptnOf c)
    let s := { s with accepted := Lists.modifyIf fence (fun a => { a with cutOff := true }) s.accepted }
    let s := mine.foldl (fun st p => st.modPtn p fun x => { x with orphanedAt := some s.now }) s
    let mask := packBits (mine.map fun p => (1, p))
    let s := (s.eventOther h 0x0090 2 h.val mask).report 0x0A h.val mask 0
    mine.foldl (fun st p =>
      match st.ptn? p with
      | some x => if x.hostCfg.toNat % 2 ^ 27 = 0 && !x.destroying then st.expire p h else st
      | none => st) s

/-- PORT_DETACH: the link is lost, or it stays up and the tunnel or Bus Master Enable is taken away (18 R443). -/
def portDetachEffect (h : Fin 2) (linkUp : Bool) (s : State) : State :=
  (s.detach h).modHost h fun x => { x with rate := if linkUp then x.rate else 0 }

def execPortDetach (l : PortLoss) (s : State) : Result := .next (portDetachEffect l.port l.linkUp s)

/-- FUNCTION_LEVEL_RESET (18 R443): a detach with the link up, and the function's configuration at reset; the attach
follows with PORT_ATTACH, once the host sets Bus Master Enable again. -/
def functionLevelResetEffect (h : Fin 2) (s : State) : State := (s.detach h).modHost h fun x => { x with msix := [], msixPending := [] }

def execFunctionLevelReset (port : Fin 2) (s : State) : Result := .next (functionLevelResetEffect port s)

/-- The orphan time spent, in us (18 R451); it pauses in Calm (15 R375). -/
def State.orphanTime (s : State) (x : Partition) : Nat :=
  match x.orphanedAt with
  | none => 0
  | some t => (if s.power = .calm then s.supplies.stateSince else s.now) - t

/-- ORPHAN_EXPIRY (18 R452). -/
def orphanExpiryEffect (p : Fin 8) (s : State) : State :=
  match s.ptn? p.val with
  | none => s
  | some x =>
    let limit := x.hostCfg.toNat % 2 ^ 27
    if s.power = .calm || x.orphanedAt.isNone || x.destroying || limit = 0x7FFFFFF || s.orphanTime x < limit * 1000 then s
    else s.expire p.val (x.owner.getD 0)

def execOrphanExpiry (p : Fin 8) (s : State) : Result := .next (orphanExpiryEffect p s)

/-- What a read of the ring window, BAR2, gives a port at an offset (18 R447, R448): the ring pair of a context of a
partition that the port owns, or the port's own host ring pair; 0 elsewhere and beyond a ring pair's length. -/
def State.windowRead (s : State) (h : Fin 2) (off : Nat) : Byte :=
  let at_ := fun (r : Ring) (b len : Nat) =>
    if s.ringPort r == some h && (s.ring? r).isSome && b < len then (s.readRing r b 1).headD 0 else 0
  if off < 0x1000000000 then
    let r := Ring.ctx (BitVec.ofNat 11 (off / 0x2000000))
    at_ r (off % 0x2000000) (((s.ring? r).map fun x => 352 * x.n).getD 0)
  else at_ (.host h) (off - 0x1000000000) (96 * (s.host h).ring.n)

/-- Whether ALERT_N is held low (18 R455); the device drives it only while VIN48 is present (19 R475). -/
def State.alert (s : State) : Bool :=
  s.supplies.vin && (s.flt.becalmed || s.recovery.isSome || s.field.tripped ||
    s.ptnNos.any fun p => ((s.ptn? p).map fun x => x.orphanedAt.isSome).getD false)

end Sys2Proof.Machine
end

