-- ==== Sys2Proof/Machine/FieldPort.lean ====
section
/-! DEFINITION. The field port (18 R456 to R463) and the device's quote (14 R366): the message gate, the messages to and from
the device, the shed directive and FLD_HEALTH. -/

namespace Sys2Proof.Machine

/-! ### Quotes (14 R366) -/

/-- The list brought to n bytes: cut, or filled with zeros. -/
def fitBytes (n : Nat) (bs : List Byte) : List Byte := (bs ++ List.replicate n 0).take n

/-- The partitions that meet a condition, one bit each. -/
def State.ptnMask (s : State) (f : Partition → Bool) : Nat :=
  packBits ((s.ptnNos.filter fun p => ((s.ptn? p).map f).getD false).map fun p => (1, p))

/-- The quote body (14 Table PTN.3). -/
def State.quoteBody (s : State) (nonce : BitVec 64) : List Byte :=
  Bits.toBytes 256 (packBits [(0x51547160, 0), (1, 32), (nonce.toNat, 64), (Config.serial.toNat, 128), (Config.fleetId.toNat, 192),
    (devId, 256), (s.iface.toNat, 288), (Config.romDigest.toNat, 320), (((s.fw.boot.map (·.digest.toNat)).getD 0), 576),
    (s.fw.running.digest.toNat, 832), (s.fw.steps % 256, 1088), (Bits.ofBool s.memc.policy, 1096),
    (Bits.ofBool ((List.range 3).any s.sessionOpen), 1097), (s.ptnMask fun _ => true, 1104), (Config.otpDigest.toNat, 1120)])

/-- A quote, with the draw that hedges its signature. -/
def State.makeQuote (s : State) (nonce : BitVec 64) : State × List Byte :=
  let signed := s.quoteBody nonce ++ fitBytes 1312 Config.identityKey
  let k := s.draws
  let (_, s) := s.takeDraw
  (s, fitBytes 4096 (signed ++ fitBytes 2420 (Config.identitySign (Config.sha3 signed) k)))

/-- DEV.ATTEST. -/
def devAttestBody (nonce host : BitVec 64) (n : BitVec 32) (s : State) (q : Req) : Ran :=
  if n = 0 then .status s stOkEmpty
  else if n.toNat < 4096 then .status s stBadField
  else if s.rng.failing then .waits
  else
    let (s, quote) := s.makeQuote nonce
    .status (s.writeHostOf q host quote) stOk

def execDevAttest (q : Req) (nonce host : BitVec 64) (bytes : BitVec 32) (s : State) : Result :=
  .next (runCommand (.devAttest q nonce host bytes) s (devAttestBody nonce host bytes))

/-! ### Frames (18 R458) -/

/-- One step of the CRC-16 of 18 R458: polynomial 0x1021, most significant bit first. -/
def crcBit (c : Nat) : Nat := if c.testBit 15 then (c * 2 % 65536) ^^^ 0x1021 else c * 2
/-- The CRC-16 of a list of bytes, initial value 0xFFFF. -/
def crc16 (bs : List Byte) : Nat :=
  bs.foldl (fun c b => (List.range 8).foldl (fun x _ => crcBit x) (c ^^^ (b.toNat * 256))) 0xFFFF

/-- The first identifier of the block that the field core answers (18 R457). -/
def Field.block (x : Field) : Nat := x.inUse.toNat % 128 * 16

/-- The lengths of the messages to the device, by offset in the block (18 Table LNK.10). -/
def messageLength (off : Nat) : Nat := if off = 0 || off = 2 then 8 else 16
/-- The bits of byte i of a message to the device that are not reserved, sequence byte and CRC apart. -/
def messageMask (off i : Nat) : Nat :=
  match off with
  | 0 => if i = 1 then 0xFF else 0
  | 1 => if i = 1 || i = 2 then 0xFF else if i = 3 then 1 else 0
  | 3 => if 1 ≤ i && i ≤ 8 then 0xFF else 0
  | _ => 0

/-- The form of a message: CAN FD, its length, reserved bytes 0, and its CRC. -/
def formOk (off : Nat) (f : CanFrame) : Bool :=
  let n := messageLength off
  f.fd && f.data.length == n && Bits.ofBytes (f.data.drop (n - 2)) == crc16 (f.data.take (n - 2)) &&
    (List.range (n - 2)).all fun i => i = 0 || (f.data.getD i 0).toNat == (f.data.getD i 0).toNat &&& messageMask off i

/-- The value of bytes of a frame. -/
def canField (f : CanFrame) (at_ n : Nat) : Nat := Bits.ofBytes ((f.data.drop at_).take n)

/-- Whether a message's value is one that the device serves (18 R460, R461; 15 R377): without firmware only a wake. -/
def State.valueOk (s : State) (off : Nat) (f : CanFrame) : Bool :=
  (s.field.firmware || off = 2) &&
    match off with
    | 0 => canField f 1 1 ≤ 1
    | 1 => 1 ≤ canField f 1 2 && canField f 1 2 ≤ 600
    | 3 => s.power == .run && s.field.quote.isNone
    | _ => true

/-- Count a dropped frame. -/
def sat16 (x : BitVec 16) : BitVec 16 := BitVec.ofNat 16 (Bits.satAdd 16 x.toNat 1)

/-- Change the field side. -/
def State.modField (s : State) (f : Field → Field) : State := { s with field := f s.field }

/-- The message gate (18 R458, Table LNK.11): the counted state, and whether the frame is accepted. Frames outside the
block are ignored; while the field core restarts every message is dropped (16 Table FLT.6), counted as bad_value. -/
def State.gate (s : State) (f : CanFrame) : State × Bool :=
  let off := f.ident.toNat - s.field.block
  if !s.field.vdd || f.ident.toNat < s.field.block || 16 ≤ off then (s, false)
  else if s.restarting fieldIsland then (s.modField fun x => { x with badValue := sat16 x.badValue }, false)
  else if 4 ≤ off then (s.modField fun x => { x with unknownId := sat16 x.unknownId }, false)
  else if !formOk off f then (s.modField fun x => { x with badForm := sat16 x.badForm }, false)
  else if (s.field.rxSeq.any fun e => e.1 == off && f.data.head? == some e.2) then
    (s.modField fun x => { x with repeats := sat16 x.repeats }, false)
  else if !s.valueOk off f then (s.modField fun x => { x with badValue := sat16 x.badValue }, false)
  else
    (s.modField fun x => { x with
      rxSeq := Table.set x.rxSeq off (f.data.headD 0), accepted := BitVec.ofNat 32 (Bits.satAdd 32 x.accepted.toNat 1) }, true)

/-- Pass a frame through the gate and act on it where it is accepted and is the message that a row names. -/
def onMessage (off : Nat) (f : CanFrame) (s : State) (body : State → State) : State :=
  if f.ident.toNat != s.field.block + off then s
  else
    match s.gate f with
    | (t, true) => body t
    | (t, false) => t

/-- SHED_DIRECTIVE (18 R459). -/
def shedDirectiveEffect (f : CanFrame) (s : State) : State :=
  onMessage 0 f s fun s => (s.modField fun x => { x with shedMsg := canField f 1 1 == 1 }).refreshHolds

def execShedDirective (f : CanFrame) (s : State) : Result := .next (shedDirectiveEffect f s)

/-- SHED_PIN: the level of FLD_SHED_N, active low. -/
def shedPinEffect (level : Bool) (s : State) : State := (s.modField fun x => { x with shedPin := !level }).refreshHolds

def execShedPin (level : Bool) (s : State) : Result := .next (shedPinEffect level s)

/-- The field cap that a request sets, and how it was clamped (15 R377). -/
def clampCap (floor w : Nat) (emerg : Bool) : Nat × Nat :=
  if emerg then (if w < 120 then (120, 2) else (w, 0)) else if w < floor then (floor, 1) else (w, 0)

/-- Apply an accepted cap request of w watts (18 R460, 15 R377). -/
def State.applyCapRequest (s : State) (w : Nat) (emerg : Bool) : State :=
  let (applied, how) := clampCap s.live.floor w emerg
  let t := { s with fieldCap := applied, fieldEmerg := emerg }
  (State.capChanged s.capInForce (if emerg then 3 else 2) t).report 0x0C applied how w

/-- CAP_REQUEST (18 R460, 15 R377). While the warden restarts the request waits (16 Table FLT.6). -/
def capRequestEffect (f : CanFrame) (s : State) : State :=
  onMessage 1 f s fun s =>
    let w := canField f 1 2
    let emerg := canField f 3 1 == 1
    if s.restarting wardenIsland then { s with heldWork := s.heldWork ++ [.cap w emerg] } else s.applyCapRequest w emerg

def execCapRequest (f : CanFrame) (s : State) : Result := .next (capRequestEffect f s)

/-- FIELD_WAKE (15 R374). -/
def fieldWakeEffect (f : CanFrame) (s : State) : State := onMessage 2 f s fun s => s.wakeAny

def execFieldWake (f : CanFrame) (s : State) : Result := .next (fieldWakeEffect f s)

/-- ATTESTATION_REQUEST (18 R460): the quote is made and sent as fragments. -/
def attestationRequestEffect (f : CanFrame) (s : State) : State :=
  onMessage 3 f s fun s => s.modField fun x =>
    { x with quote := some ([], 0), quoteNonce := BitVec.ofNat 64 (canField f 1 8), quoteAt := s.now }

def execAttestationRequest (f : CanFrame) (s : State) : Result := .next (attestationRequestEffect f s)

/-- FIELD_UNKNOWN_FRAME: an identifier of the block that no message to the device has. -/
def fieldUnknownFrameEffect (f : CanFrame) (s : State) : State :=
  if f.ident.toNat < s.field.block + 4 then s else (s.gate f).1

def execFieldUnknownFrame (f : CanFrame) (s : State) : Result := .next (fieldUnknownFrameEffect f s)

/-! ### Messages from the device -/

/-- Send a message: the sequence byte of its identifier, the payload, and the CRC. -/
def State.sendCan (s : State) (off len : Nat) (payload : List Byte) : State :=
  let no := Table.get 0 s.field.txSeq off
  let body := fitBytes (len - 2) (no :: payload)
  s.modField fun x => { x with
    txSeq := Table.set x.txSeq off (no + 1)
    sent := x.sent ++ [(x.block + off, body ++ Bits.toBytes 2 (crc16 body))] }

/-- Whether the field core runs and sends. -/
def State.fieldSends (s : State) : Bool := s.field.vdd && !s.restarting fieldIsland

/-- QUOTE_FRAGMENT: the next fragment of the quote being sent, one per 1 ms. The warden makes the quote, once draws may be
had. -/
def quoteFragmentEffect (s : State) : State :=
  match s.field.quote with
  | none => s
  | some (bs, i) =>
    let needs := bs.isEmpty
    if !s.fieldSends || (i != 0 && s.now < s.field.quoteAt + 1000) || (needs && (s.rng.failing || s.power != .run || s.restarting wardenIsland)) then s
    else
      let (s, quote) := if needs then s.makeQuote s.field.quoteNonce else (s, bs)
      let s := s.sendCan 10 64 (BitVec.ofNat 8 i :: (quote.drop (56 * i)).take 56)
      s.modField fun x => { x with quoteAt := s.now, quote := if i = 73 then none else some (quote, i + 1) }

def execQuoteFragment (s : State) : Result := .next (quoteFragmentEffect s)

/-- Whether FLD_HEALTH toggles (18 R463). -/
def State.healthToggles (s : State) : Bool :=
  s.fieldSends && s.field.firmware && s.wardenRuns && !s.flt.becalmed && !s.field.tripped && s.field.heartbeat

/-- The state code of a beacon (18 Table LNK.12). -/
def State.beaconState (s : State) : Nat := if s.recovery.isSome then 6 else s.power.code

/-- Frames that the gate has dropped. -/
def Field.dropped (x : Field) : Nat := min 65535 (x.unknownId.toNat + x.badForm.toNat + x.repeats.toNat + x.badValue.toNat)

/-- A beacon's bytes from byte 1 on (18 Table LNK.12); without firmware only byte 1 is carried (18 R461). -/
def State.beaconBytes (s : State) : List Byte :=
  let flags := packBits [(s.beaconState, 0), (Bits.ofBool s.flt.becalmed, 3), (Bits.ofBool s.shedInForce, 4),
    (Bits.ofBool !s.field.firmware, 5), (Bits.ofBool s.healthToggles, 6), (Bits.ofBool s.field.tripped, 7)]
  if !s.field.firmware then Bits.toBytes 1 flags
  else
    Bits.toBytes 13 (packBits [(flags, 0), (if s.wardenRuns then s.capInForce else 0, 8), (s.fieldCap, 24),
      (if s.wardenRuns then s.pwr.die.toNat else 0x80, 40), (s.ptnMask fun x => x.status == .outOfService, 48),
      (s.ptnMask fun _ => true, 56), (s.ptnMask fun x => x.orphanedAt.isSome, 64), (s.field.summaryNo.toNat, 72),
      (s.field.dropped, 88)])

/-- BEACON: every 10 ms. -/
def beaconEffect (s : State) : State :=
  if !s.fieldSends || s.now < s.field.beaconAt + 10000 then s
  else (s.sendCan 8 16 s.beaconBytes).modField fun x => { x with beaconAt := s.now }

def execBeacon (s : State) : Result := .next (beaconEffect s)

/-- The cause that FLT_DEV_STAT shows. -/
def FaultState.causeNow (f : FaultState) : Nat := if f.becalmed then f.cause else 0

/-- A fault summary's bytes from byte 1 on (18 Table LNK.13). -/
def State.summaryBytes (s : State) (no : Nat) (i : FieldItem) : List Byte :=
  let which := fun (f : RankState → Bool) => packBits ((s.memc.ranks.toList.zipIdx.filter fun (x, _) => f x).map fun (_, k) => (1, k))
  let exhausted := (s.pwr.ages.filter fun e => e.2.exhausted).length
  Bits.toBytes 29 (packBits [(no, 0), (i.code, 16), (i.arg0, 24), (i.arg1, 56), (i.arg2, 88), (s.flt.causeNow, 120),
    (which fun x => x.spareSpent, 128), (which fun x => x.ranks.toList.contains 2, 136), (s.pwr.acting.toNat, 144),
    (exhausted % 65536, 152)])

/-- FAULT_SUMMARY (18 R462): the items lost, else the oldest item queued, else the last summary again after 1,000 ms. -/
def faultSummaryEffect (s : State) : State :=
  if !s.fieldSends || !s.field.firmware then s
  else
    let fresh := fun (i : FieldItem) (st : State) =>
      let no := st.field.summaryNo + 1
      let bs := st.summaryBytes no.toNat i
      (st.sendCan 9 32 bs).modField fun x => { x with summaryNo := no, summary := bs, summaryAt := st.now }
    match s.field.lost, s.field.items with
    | 0, [] =>
      if s.field.summary.isEmpty || s.now < s.field.summaryAt + 1000000 then s
      else (s.sendCan 9 32 s.field.summary).modField fun x => { x with summaryAt := s.now }
    | 0, i :: rest => fresh i (s.modField fun x => { x with items := rest })
    | n + 1, _ => fresh ⟨0xFF, n + 1, 0, 0⟩ (s.modField fun x => { x with lost := 0 })

def execFaultSummary (s : State) : Result := .next (faultSummaryEffect s)

/-- BUS_OFF: counted; the controller recovers by itself (18 R456). -/
def busOffEffect (s : State) : State := if s.field.vdd then s.modField fun x => { x with busOff := sat16 x.busOff } else s

def execBusOff (s : State) : Result := .next (busOffEffect s)

/-- WARDEN_HEARTBEAT_LOSS: no heartbeat within 10 ms (18 R463). -/
def wardenHeartbeatLossEffect (s : State) : State := s.modField fun x => { x with heartbeat := false }

def execWardenHeartbeatLoss (s : State) : Result := .next (wardenHeartbeatLossEffect s)

end Sys2Proof.Machine
end

