-- ==== Sys2Proof/Machine/Registers.lean ====
section
/-! DEFINITION. The register space of BAR0 (21 R495 to R507): what every register reads, what a write does, the shadow of
wide registers, and the rows of register accesses. -/

namespace Sys2Proof.Machine

/-! ### Views and registers -/

/-- Who accesses: the port whose copies of per-port registers are meant, and whether ownership and rank of the port do not
matter, as for an operator (14 R368). -/
structure View where
  port : Fin 2
  all : Bool := false
  deriving DecidableEq, Repr

/-- A register as it reads: first byte, width in bits, value, and whether the view sees it. -/
structure RegValue where
  base : Nat
  bits : Nat
  value : Nat
  seen : Bool := true
  deriving DecidableEq, Repr

/-- Whether a view sees the registers of partition p (14 R352, 21 R502). -/
def State.seesPtn (s : State) (v : View) (p : Nat) : Bool := if v.all then (s.ptn? p).isSome else s.owner p == some v.port

/-- A register's place in BAR0 from its region and offset. -/
def barOffset (x : Nat × Nat) : Nat := x.1 * 0x100000 + x.2

/-- The first register of a list that holds an offset. -/
def findReg (off : Nat) (rs : List RegValue) : Option RegValue := rs.find? fun r => r.base ≤ off && off < r.base + r.bits / 8

/-- A register that every port sees. -/
def reg (base bits value : Nat) : RegValue := ⟨base, bits, value, true⟩

/-- Register a of a list with a value, seen or reading 0. -/
def shown (seen : Bool) (base bits value : Nat) : RegValue := ⟨base, bits, if seen then value else 0, seen⟩

/-! ### RS registers and their live mirrors (21 R499) -/

/-- The RS registers, staged, and their mirrors, live. -/
def State.stagedRegs (s : State) (v : View) : List RegValue :=
  let ptns := (List.range 8).flatMap fun p => PReg.all.flatMap fun r =>
    let a := barOffset (r.offset p)
    let w := if r.wide then 64 else 32
    let seen := s.seesPtn v p
    let staged := ((s.ptn? p).map fun x => (r.get x.staged).toNat).getD 0
    let live := ((s.ptn? p).map fun x => (r.get x.live).toNat).getD 0
    [shown seen a w staged, shown seen (a + 0x8000) w live]
  let devs := DReg.all.flatMap fun r =>
    let a := barOffset r.offset
    let w := if r.wide then 64 else 32
    let seen := match r with
      | .fltPtn p => s.seesPtn v p.val
      | _ => true
    [shown seen a w (r.get s.staged).toNat, shown seen (a + 0x8000) w (r.get s.live).toNat]
  ptns ++ devs

/-! ### The DEV region (21 Table MAP.2) -/

/-- A commit status register (12 Table CMD.12). -/
def CommitStat.bits (c : CommitStat) : Nat :=
  packBits [(c.state.toNat, 0), (c.seq.toNat, 8), (c.status.toNat, 16), (c.field.toNat, 32)]

/-- DEV_IFACE (12 Table CMD.2). -/
def State.devIface (s : State) : Nat :=
  let rt := fun (h : Fin 2) => (s.host h).rtVer
  let ok := fun (h : Fin 2) => Bits.ofBool (rt h != 0 && s.versionMatches (rt h))
  packBits [(s.iface.toNat, 0), ((rt 0).toNat, 32), ((rt 1).toNat, 64), (ok 0, 96), (ok 1, 97)]

/-- DEV_DBG_STAT (14 Table PTN.6). -/
def State.devDbgStat (s : State) : Nat :=
  packBits [(Bits.ofBool (s.sessionOpen 0), 0), (Bits.ofBool (s.sessionOpen 1), 1), (Bits.ofBool (s.sessionOpen 2), 2),
    (s.authFail.toNat, 8)]

/-- DEV_BAR_STAT (21 Table MAP.5). -/
def HostSide.barStat (h : HostSide) : Nat := packBits [(h.barCount.toNat, 0), (h.barLastOff.toNat, 16), (Bits.ofBool h.barLastWr, 40)]

/-- DEV_HOST_STAT (18 Table LNK.7). -/
def State.devHostStat (s : State) : Nat :=
  packBits [(Bits.ofBool (s.host 0).attached, 0), ((s.host 0).rate.toNat, 1), (Bits.ofBool (s.host 1).attached, 3), ((s.host 1).rate.toNat, 4),
    ((s.primary.map Fin.val).getD 3, 6), (s.ptnMask fun x => x.orphanedAt.isSome, 8)]

/-- DEV_FLD_STAT (18 Table LNK.15). -/
def Field.stat (x : Field) : Nat :=
  packBits [(x.unknownId.toNat, 0), (x.badForm.toNat, 16), (x.repeats.toNat, 32), (x.badValue.toNat, 48), (x.accepted.toNat, 64),
    (x.busOff.toNat, 96), (Bits.ofBool x.shedPin, 112), (Bits.ofBool x.shedMsg, 113)]

/-- The registers of recovery (17 Table FW.10). -/
def Recovery.regs (r : Recovery) : List RegValue :=
  [reg (0x100) 32 (Bits.ofBool r.busy), reg (0x108) 64 (r.addr.toNat), reg (0x110) 32 (r.len.toNat),
    reg (0x118) 32 (packBits [(r.state.toNat, 0), (r.fail.toNat, 8), (r.port.val, 16)])]

/-- An MSI-X table entry and the pending bits of a port (18 Table LNK.2), as 64-bit words. -/
def HostSide.msixWord (h : HostSide) (off : Nat) : Option RegValue :=
  if 0x10000 ≤ off && off < 0x18000 then
    let w := (off - 0x10000) / 8
    some (reg (0x10000 + w * 8) 64 ((Table.get (1#128 <<< 96) h.msix (w / 2)).toNat / 2 ^ (64 * (w % 2)) % 2 ^ 64))
  else if 0x18000 ≤ off && off < 0x18100 then
    let w := (off - 0x18000) / 8
    some (reg (0x18000 + w * 8) 64 (packBits ((h.msixPending.filter fun x => x / 64 == w).map fun x => (1, x % 64))))
  else none

/-- The registers of the DEV region. -/
def State.devRegs (s : State) (v : View) : List RegValue :=
  [reg (0x00) 32 (devId), reg (0x08) 64 (Config.serial.toNat), reg (0x18) 64 (s.devCommit.bits), reg (0x20) 128 (s.devIface),
    reg (0x40) 32 (s.devDbgStat), reg (0x48) 64 ((s.host v.port).barStat), reg (0x200) 32 (s.devHostStat),
    reg (0x300) 32 (packBits [(s.field.cfg.toNat, 0), (Bits.ofBool s.field.rej, 10)]), reg (0x308) 128 (s.field.stat)]

/-! ### Partition blocks and per-partition registers -/

/-- PTN_BEAT_STAT (05 Table SPD.6). -/
def BeatRing.stat (b : BeatRing) : Nat := packBits [(b.fMin.toNat, 0), (b.lastNs.toNat, 8), (b.slips.toNat, 24)]

/-- PTN_QUOTA_STAT and PTN_QUOTA_RESID (07 Tables TIR.8, TIR.9). -/
def State.quotaStat (s : State) (p : Nat) (x : Partition) : Nat :=
  packBits [(s.charge p 0 % 4096, 0), (s.charge p 1 % 2 ^ 23, 12), (Bits.ofBool (x.live.tier0 < s.charge p 0), 35),
    (Bits.ofBool (x.live.tier1 < s.charge p 1), 36), (Bits.ofBool x.reclaiming, 37)]
def Partition.quotaResid (x : Partition) : Nat := packBits [(x.residT0.toNat, 0), (x.residT1.toNat, 12)]

/-- PTN_KV_STAT and PTN_KV_SHARE (09 Tables KV.10, KV.11). -/
def State.kvStat (s : State) (p : Nat) (x : Partition) : Nat :=
  let mine := (s.seqsOf p).filter fun y => y.state == .opened || y.state == .lost
  packBits [(mine.length, 0), ((mine.filter fun y => y.pages.any (·.dropped)).length, 20), (min 65535 x.recompute.length, 40)]
def Partition.kvShare (x : Partition) : Nat := packBits [(x.dirIndex 0, 0), (x.share, 20)]

/-- PTN_SRV_STAT (10 Table SRV.6). -/
def Partition.srvStat (x : Partition) : Nat :=
  packBits [(x.slots.toNat, 0), (x.breaches.toNat, 32), (Bits.ofBool x.degraded, 48), (Bits.ofBool x.holds.grant, 49)]

/-- PTN_HOST_STAT (18 Table LNK.6). -/
def State.hostStat (s : State) (x : Partition) : Nat :=
  packBits [((x.owner.map Fin.val).getD 0, 0), (Bits.ofBool x.orphanedAt.isSome, 1), (min 0x7FFFFFF (s.orphanTime x / 1000), 2),
    (x.binds.toNat, 29)]

/-- FLT_PTN_STAT_p (16 Table FLT.12). -/
def State.fltPtnStat (s : State) (x : Partition) : Nat :=
  let st := match x.status with
    | .running => if x.reset.isSome then 2 else 1
    | .resetting => 2
    | .outOfService => 3
  let last := if x.records.isEmpty then 0 else (x.recNo - 1).toNat
  packBits [(st, 0), (min 31 (lastWindow s.live.ctxWin x.ctxResets).length, 2),
    (min 31 (lastWindow s.live.ptnWin x.ptnResets).length, 7), (last, 12), ((x.records.filter (·.sample.isSome)).length, 28)]

/-- The registers that partition p has and that are not staged, in its block and in the regions indexed by p. -/
def State.ptnRegs (s : State) (v : View) (p : Nat) : List RegValue :=
  let at_ := fun (o : Nat) => 0x100000 + p * 0x10000 + o
  let vals : List (Nat × Nat × Nat) := match s.ptn? p with
    | none => []
    | some x =>
      [(at_ 0x0008, 64, x.commitStat.bits), (at_ 0x0208, 64, x.beat.count.toNat), (at_ 0x0210, 32, x.beat.stat),
        (at_ 0x0310, 64, s.quotaStat p x), (at_ 0x0318, 64, x.quotaResid), (at_ 0x0500, 64, s.kvStat p x),
        (at_ 0x0508, 64, x.kvShare), (at_ 0x0610, 64, x.srvStat), (at_ 0x0700, 32, x.secCfg.toNat), (at_ 0x0800, 32, x.hostCfg.toNat),
        (at_ 0x0808, 64, s.hostStat x), (0x400180 + p * 16, 64, State.pwrPtnStat x), (0x500200 + p * 16, 64, s.fltPtnStat x),
        (0x600300 + p * 16, 64, s.fabGrp p)]
  vals.map fun (a, w, x) => shown (s.seesPtn v p) a w x

/-! ### Device-scope regions (21 Table MAP.7) -/

/-- PWR_TEMP (15 Table PWR.11). -/
def Power.temp (w : Power) : Nat :=
  packBits [(w.die.toNat, 0), (Bits.ofInt 8 w.hottest.1, 8), (w.hottest.2, 16)]

/-- FLT_DEV_STAT (16 Table FLT.10). -/
def State.fltDevStat (s : State) : Nat :=
  let f := s.flt
  packBits [(Bits.ofBool f.becalmed, 0), (f.causeNow, 1), (min 15 (lastWindow s.live.outWin f.outTimes).length, 4), (f.lastCore, 8),
    (f.restarts.toNat, 16), (if f.records.isEmpty then 0 else (f.recNo - 1).toNat, 32), (f.lastCause, 48)]

/-- A route entry (13 Table FAB.4). -/
def Route.bits (r : Route) : Nat := packBits [(r.primary.toNat, 0), (r.alt1.toNat, 4), (r.alt2.toNat, 8), (r.hops.toNat, 12)]

/-- STORE_STAT (17 Table FW.11). -/
def State.storeStat (s : State) : Nat :=
  let busy := ((List.range 8).filter s.dieBusy).map fun d => (1, d)
  packBits [(packBits busy, 0), (s.library.length, 8), (s.freeStripes.length, 19), (s.flash.withdrawn.length, 31),
    (Bits.ofBool s.fw.boot.isSome, 43), (Bits.ofBool !s.flash.dirty.isEmpty, 44)]

/-- STORE_DIE_k (17 Table FW.12). -/
def State.storeDie (s : State) (k : Nat) : Nat :=
  let f := s.flash
  let mine := f.erases.filter fun e => e.1 / 16384 == k
  let lib := mine.filter fun e => libraryBlock (e.1 % 16384)
  let d := (f.dies[k]?).getD {}
  packBits [((f.retired.filter fun b => b / 16384 == k).length % 65536, 0), (min 3000 (mine.foldl (fun m e => max m e.2) 0), 16),
    (lib.foldl (fun n e => n + e.2) 0 / 16320, 28), (d.progFail.toNat, 40), (d.eraseFail.toNat, 56), (d.half.toNat, 72),
    (Bits.ofBool d.blankFailed, 87), (d.eccCorr.toNat, 88), (d.uncorr.toNat, 120)]

/-- Whether a view sees what belongs to a cluster: the owner of the partition that holds it. -/
def State.seesCluster (s : State) (v : View) (c : Nat) : Bool :=
  match s.ptnOfCluster c with
  | some p => s.seesPtn v p
  | none => false

/-- The registers of the device-scope regions that are not staged. -/
def State.scopeRegs (s : State) (v : View) : List RegValue :=
  [reg (0x400010) 64 (s.pwrStat), reg (0x400018) 32 (s.pwr.temp), reg (0x500008) 64 (s.fltDevStat), reg (0x600008) 64 (s.fabAddr),
    reg (0x600010) 64 (s.felt.anchorSn.toNat), reg (0x800000) 32 (Bits.ofBool s.memc.policy + 2 * Bits.ofBool s.memc.rej),
    reg (0x800040) 32 (s.memc.regions.toNat), reg (0x900000) 64 (s.storeStat)] ++
  (s.felt.ports.toList.zipIdx.map fun (x, k) => reg (0x600100 + k * 16) 128 (x.low + x.peer.toNat * 2 ^ 64)) ++
  (s.memc.ranks.toList.zipIdx.map fun (x, k) => reg (0x800100 + k * 8) 64 (x.stat)) ++
  ((List.range 8).map fun k => reg (0x900100 + k * 16) 128 (s.storeDie k)) ++
  (s.groups.toList.zipIdx.map fun (g, c) => shown (s.seesCluster v c) (0x700400 + c * 64) 512 g.bits)

/-- The registers that stand in long runs: error counters of channels and route entries, as the word that holds an
offset. -/
def State.runReg (s : State) (v : View) (off : Nat) : Option RegValue :=
  if 0x701000 ≤ off && off < 0x701600 then
    let h := (off - 0x701000) / 8
    some (shown (s.seesCluster v (channelCluster h)) (0x701000 + h * 8) 64 (s.obsEcc h))
  else if 0x601000 ≤ off && off < 0x601400 then
    let w := (off - 0x601000) / 4
    let entry := fun (i : Nat) => (Table.get {} (if i < 256 then s.felt.groupTab else s.felt.memberTab) (i % 256)).bits
    some (reg (0x601000 + w * 4) 32 (entry (2 * w) + entry (2 * w + 1) * 65536))
  else none

/-- A doorbell block's word (12 Table CMD.1): sq_head and cq_tail read, the others read 0. -/
def RingPair.doorbell (r : RingPair) (word : Nat) : Nat :=
  match word with
  | 2 => r.sqHead.toNat
  | 3 => r.cqTail.toNat
  | _ => 0

/-- The ring whose doorbell block holds an offset: a port sees its own host ring's, an operator both. -/
def doorbellRing (v : View) (off : Nat) : Option Ring :=
  if 0x200000 ≤ off && off < 0x208000 then some (.ctx (BitVec.ofNat 11 ((off - 0x200000) / 16)))
  else if off / 16 = 0x20800 + v.port.val then some (.host v.port)
  else if v.all && off / 16 = 0x20801 - v.port.val then some (.host (if v.port = 0 then 1 else 0))
  else none

/-- The doorbell word at an offset. -/
def State.doorbellReg (s : State) (v : View) (off : Nat) : Option RegValue :=
  (doorbellRing v off).map fun r =>
    let seen := v.all || s.ringPort r == some v.port
    shown seen (off / 4 * 4) 32 (((s.ring? r).map fun x => x.doorbell (off / 4 % 4)).getD 0)

/-- The register that holds an offset of BAR0, none where no table names the offset (21 R495). In recovery only DEV_ID and
the registers of 17 Table FW.10 answer. -/
def State.regAt (s : State) (v : View) (off : Nat) : Option RegValue :=
  match s.recovery with
  | some r => findReg off (reg (0x00) 32 (devId) :: r.regs)
  | none =>
    if off < 0x100000 then (findReg off (s.devRegs v)).orElse fun _ => (s.host v.port).msixWord off
    else if 0x200000 ≤ off && off < 0x300000 then s.doorbellReg v off
    else
      ((findReg off (s.stagedRegs v)).orElse fun _ => findReg off ((List.range 8).flatMap (s.ptnRegs v))).orElse fun _ =>
        (findReg off (s.scopeRegs v)).orElse fun _ => s.runReg v off

/-- The 32-bit word at an aligned offset, as the device holds it. -/
def State.word32 (s : State) (v : View) (off : Nat) : Nat :=
  match s.regAt v off with
  | none => 0
  | some r => r.value / 2 ^ (8 * (off - r.base)) % 2 ^ 32

/-! ### Reads (21 R496) -/

/-- Whether a host port reaches its registers. -/
def State.barUp (s : State) (h : Fin 2) : Bool := s.endpointUp && (s.host h).attached

/-- The words of a register above its lowest 64 bits. -/
def RegValue.upper (r : RegValue) : List (Nat × BitVec 64) :=
  (List.range' 1 (r.bits / 64 - 1)).map fun i => (r.base + 8 * i, BitVec.ofNat 64 (r.value / 2 ^ (64 * i)))

/-- UNSUPPORTED_ACCESS (21 R497): void, and counted. -/
def unsupportedAccessEffect (h : Fin 2) (off : BitVec 24) (wr : Bool) (s : State) : State :=
  if !s.barUp h then s
  else
    let s := s.modHost h fun x =>
      { x with barCount := BitVec.ofNat 16 (Bits.satAdd 16 x.barCount.toNat 1), barLastOff := off, barLastWr := wr }
    if wr then s else { s with lastRead := 0 }

/-- WIDE_REGISTER_READ: a 64-bit read. That of a wide register's lowest word fills the port's shadow, a higher word comes
from the shadow; one that is not aligned is unsupported. -/
def wideRegisterReadEffect (h : Fin 2) (off : BitVec 24) (s : State) : State :=
  let a := off.toNat
  let v : View := { port := h }
  if a % 8 != 0 then unsupportedAccessEffect h off false s
  else if !s.barUp h then s
  else
    match s.regAt v a with
    | some r =>
      if r.bits ≤ 64 then { s with lastRead := BitVec.ofNat 64 (s.word32 v a + s.word32 v (a + 4) * 2 ^ 32) }
      else if a = r.base then
        let s := s.modHost h fun x => { x with shadow := r.upper.foldl (fun t (k, w) => Table.set t k w) x.shadow }
        { s with lastRead := BitVec.ofNat 64 r.value }
      else { s with lastRead := if r.seen then Table.get 0 (s.host h).shadow a else 0 }
    | none => { s with lastRead := BitVec.ofNat 64 (s.word32 v (a + 4) * 2 ^ 32) }

def execWideRegisterRead (port : Fin 2) (offset : BitVec 24) (s : State) : Result := .next (wideRegisterReadEffect port offset s)

def execUnsupportedAccess (port : Fin 2) (offset : BitVec 24) (write : Bool) (s : State) : Result :=
  .next (unsupportedAccessEffect port offset write s)

/-! ### Writes -/

/-- Whether a view may write the registers that 18 Table LNK.3 reserves to the primary port. -/
def State.mayWriteDev (s : State) (v : View) : Bool := v.all || s.primary == some v.port

/-- A write of DEV_FLD_CFG (18 R457): one that changes it is taken from the primary port while no partition exists, with a
base in range, and the store core records it; any other sets rej. A write that changes nothing clears rej where it holds a
1 there. -/
def State.writeFieldCfg (s : State) (v : View) (value : Nat) : State :=
  let new := BitVec.ofNat 10 value
  let base := new.toNat % 128
  if new = s.field.cfg then
    if s.mayWriteDev v && value.testBit 10 then s.modField fun x => { x with rej := false } else s
  else if s.mayWriteDev v && s.ptnNos.isEmpty && 1 ≤ base && base ≤ 0x7E then
    (s.modField fun x => { x with cfg := new, rej := x.rej && !value.testBit 10 }).record (.fieldCfg new)
  else s.modField fun x => { x with rej := true }

/-- Raise the pending interrupt of a vector whose mask has been cleared (PCIe, log entry 13). -/
def State.unmasked (s : State) (h : Fin 2) (k : Nat) : State :=
  if !msixMasked (s.host h) k && (s.host h).msixPending.contains k then
    { s.modHost h (fun x => { x with msixPending := x.msixPending.filter (· != k) }) with
      interrupts := s.interrupts ++ [(h, BitVec.ofNat 16 k)] }
  else s

/-- Write a word of an MSI-X table entry. -/
def State.writeMsix (s : State) (h : Fin 2) (off value : Nat) : State :=
  let k := (off - 0x10000) / 16
  let word := (off - 0x10000) / 4 % 4
  let allowed := match word with
    | 0 => 0xFFFFFFFC
    | 3 => 1
    | _ => 0xFFFFFFFF
  let old := (Table.get (1#128 <<< 96) (s.host h).msix k).toNat
  let was := old / 2 ^ (32 * word) % 2 ^ 32
  let entry := old - was * 2 ^ (32 * word) + (value &&& allowed) * 2 ^ (32 * word)
  (s.modHost h fun x => { x with msix := Table.set x.msix k (BitVec.ofNat 128 entry) }).unmasked h k

/-- Write a 32-bit word of an RS register of partition p into its staged copy; none where the offset names none. -/
def State.writeStagedPtn (s : State) (v : View) (off value : Nat) : Option State :=
  let hits := (List.range 8).flatMap fun p => (PReg.all.map fun r => (p, r)).filter fun (_, r) =>
    let a := barOffset (r.offset p)
    a ≤ off && off < a + (if r.wide then 8 else 4)
  hits.head?.map fun (p, r) =>
    let lo := 8 * (off - barOffset (r.offset p))
    if s.seesPtn v p then s.stagePtn p r (BitVec.ofNat 64 (value * 2 ^ lo)) (BitVec.ofNat 64 (0xFFFFFFFF * 2 ^ lo)) else s

/-- Write a 32-bit word of a device-scope RS register; FLT_PTN_CFG_p is written by p's owner, the others by the primary
port (18 Table LNK.3). -/
def State.writeStagedDev (s : State) (v : View) (off value : Nat) : Option State :=
  (DReg.all.find? fun r => barOffset r.offset ≤ off && off < barOffset r.offset + (if r.wide then 8 else 4)).map fun r =>
    let lo := 8 * (off - barOffset r.offset)
    let may := match r with
      | .fltPtn p => s.seesPtn v p.val
      | _ => s.mayWriteDev v
    if may then s.stageDev r (BitVec.ofNat 64 (value * 2 ^ lo)) (BitVec.ofNat 64 (0xFFFFFFFF * 2 ^ lo)) else s

/-- A write of a register of partition p's block that is not staged: PTN_COMMIT, slips of PTN_BEAT_STAT, PTN_SEC_CFG and
PTN_HOST_CFG. -/
def State.writeBlock (s : State) (v : View) (p off value : Nat) : State :=
  if !s.seesPtn v p then s
  else
    match off with
    | 0x0000 => (s.commitPtn p (value % 256) none).1
    | 0x0210 => s.modPtn p fun x => { x with beat := { x.beat with slips := x.beat.slips &&& ~~~(BitVec.ofNat 8 (value / 2 ^ 24 % 4)) } }
    | 0x0700 => s.modPtn p fun x => { x with secCfg := BitVec.ofNat 32 (value % 2) }
    | 0x0800 => s.modPtn p fun x => { x with hostCfg := BitVec.ofNat 32 (value % 2 ^ 27) }
    | _ => s

/-- A write of a register of the DEV region or of MEMC_SPARE_CFG. -/
def State.writeDev (s : State) (v : View) (off value : Nat) : State :=
  match off with
  | 0x10 => (s.commitDevice (DReg.chosen (value % 16))).1
  | 0x4C => if value.testBit 31 then s.modHost v.port fun x => { x with barCount := 0, barLastOff := 0, barLastWr := false } else s
  | 0x300 => s.writeFieldCfg v value
  | 0x800000 => if s.mayWriteDev v then s.writeSpareCfg (BitVec.ofNat 32 value) else s
  | _ => if 0x10000 ≤ off && off < 0x18000 then s.writeMsix v.port off value else s

/-- A doorbell write through the register space; an operator's reaches every ring pair, that of an orphaned partition's
context too (14 R368). -/
def State.writeDoorbell (s : State) (v : View) (off value : Nat) : State :=
  let x := BitVec.ofNat 32 value
  match doorbellRing v off, off / 4 % 4 with
  | some r, 0 => if v.all then s.takeTail r x [] else sqTailEffect v.port r x [] [] s
  | some r, 1 => if v.all then s.takeHead r x else cqHeadEffect v.port r x s
  | _, _ => s

/-- A write of a register of recovery (17 Table FW.10). -/
def State.writeRecovery (s : State) (v : View) (r : Recovery) (off value : Nat) : State :=
  let half := fun (x : BitVec 64) (lo : Nat) => BitVec.ofNat 64 (x.toNat - x.toNat / 2 ^ lo % 2 ^ 32 * 2 ^ lo + value * 2 ^ lo)
  match off with
  | 0x100 => recoveryGoEffect v.port (BitVec.ofNat 32 value) [] s
  | 0x108 => { s with recovery := some { r with addr := half r.addr 0 } }
  | 0x10C => { s with recovery := some { r with addr := half r.addr 32 } }
  | 0x110 => { s with recovery := some { r with len := BitVec.ofNat 23 value } }
  | _ => s

/-- A 32-bit register write (00 Table SCO.5): what the register's access code gives; mirrors, RO fields and offsets that
no table names ignore it. -/
def State.write32 (s : State) (v : View) (off value : Nat) : State :=
  match s.recovery with
  | some r => s.writeRecovery v r off value
  | none =>
    if 0x200000 ≤ off && off < 0x300000 then s.writeDoorbell v off value
    else
      match (s.writeStagedPtn v off value).orElse fun _ => s.writeStagedDev v off value with
      | some t => t
      | none =>
        if 0x100000 ≤ off && off < 0x180000 then s.writeBlock v ((off - 0x100000) / 0x10000) (off % 0x10000) value
        else s.writeDev v off value

/-- Whether the effect of a register write needs the warden (21 R498): a commit, a staged field, MEMC_SPARE_CFG or
DEV_FLD_CFG. -/
def needsWarden (off : Nat) : Bool :=
  off == 0x10 || off == 0x300 || off == 0x800000 || (0x100000 ≤ off && off < 0x180000 && off % 0x10000 == 0) ||
    (List.range 8).any (fun p => PReg.all.any fun r => barOffset (r.offset p) / 4 == off / 4 || (r.wide && barOffset (r.offset p) / 4 + 1 == off / 4)) ||
    DReg.all.any fun r => barOffset r.offset / 4 == off / 4 || (r.wide && barOffset r.offset / 4 + 1 == off / 4)

/-- A 32-bit register write that arrives from a host port: while the warden restarts, one that needs it is recorded, and
the warden acts on it after the restart (21 R498). -/
def State.arrive32 (s : State) (h : Fin 2) (off value : Nat) : State :=
  if s.restarting wardenIsland && needsWarden off then { s with heldWork := s.heldWork ++ [.write h off value] }
  else s.write32 { port := h } off value

/-- The warden acts on the work that waited while it restarted, in the order it arrived. -/
def State.takeHeldWork (s : State) : State :=
  (s.heldWork.filter fun w => !w.linkers).foldl (fun st w =>
    match w with
    | .write h off value => st.write32 { port := h } off value
    | .cap w emerg => st.applyCapRequest w emerg
    | _ => st) { s with heldWork := s.heldWork.filter HeldWork.linkers }

/-- A register write of 32 or 64 bits from a host port, in halves of ascending order (21 R496). -/
def State.arrive (s : State) (h : Fin 2) (off : Nat) (wide : Bool) (value : Nat) : State :=
  let s := s.arrive32 h off (value % 2 ^ 32)
  if wide then s.arrive32 h (off + 4) (value / 2 ^ 32 % 2 ^ 32) else s

/-- A register write by a host port, which also wakes the device (15 R374, 21 R498); one that is not aligned is
unsupported (21 R497). -/
def hostWrite (h : Fin 2) (off : Nat) (wide : Bool) (value : Nat) (s : State) : State :=
  if off % (if wide then 8 else 4) != 0 then unsupportedAccessEffect h (BitVec.ofNat 24 off) true s
  else if !s.barUp h then s
  else s.wake.arrive h off wide value

/-- PTN_COMMIT_WRITE. -/
def ptnCommitWriteEffect (h : Fin 2) (p : Fin 8) (value : BitVec 32) (s : State) : State :=
  hostWrite h (0x100000 + p.val * 0x10000) false value.toNat s

def execPtnCommitWrite (port : Fin 2) (p : Fin 8) (value : BitVec 32) (s : State) : Result := .next (ptnCommitWriteEffect port p value s)

/-- DEV_COMMIT_WRITE. -/
def devCommitWriteEffect (h : Fin 2) (value : BitVec 32) (s : State) : State := hostWrite h 0x10 false value.toNat s

def execDevCommitWrite (port : Fin 2) (value : BitVec 32) (s : State) : Result := .next (devCommitWriteEffect port value s)

/-- STAGED_REGISTER_WRITE. -/
def stagedRegisterWriteEffect (h : Fin 2) (off : BitVec 24) (wide : Bool) (value : BitVec 64) (s : State) : State :=
  hostWrite h off.toNat wide value.toNat s

def execStagedRegisterWrite (port : Fin 2) (offset : BitVec 24) (wide : Bool) (value : BitVec 64) (s : State) : Result :=
  .next (stagedRegisterWriteEffect port offset wide value s)

/-- MEMC_SPARE_CFG_WRITE (08 R180). -/
def memcSpareCfgWriteEffect (h : Fin 2) (value : BitVec 32) (s : State) : State := hostWrite h 0x800000 false value.toNat s

def execMemcSpareCfgWrite (port : Fin 2) (value : BitVec 32) (s : State) : Result := .next (memcSpareCfgWriteEffect port value s)

/-- DEV_FLD_CFG_WRITE (18 R457). -/
def devFldCfgWriteEffect (h : Fin 2) (value : BitVec 32) (s : State) : State := hostWrite h 0x300 false value.toNat s

def execDevFldCfgWrite (port : Fin 2) (value : BitVec 32) (s : State) : Result := .next (devFldCfgWriteEffect port value s)

/-- DEV_BAR_STAT_CLEAR (21 Table MAP.5): a 64-bit write of the register. -/
def devBarStatClearEffect (h : Fin 2) (value : BitVec 64) (s : State) : State := hostWrite h 0x48 true value.toNat s

def execDevBarStatClear (port : Fin 2) (value : BitVec 64) (s : State) : Result := .next (devBarStatClearEffect port value s)

/-- REGISTER_WRITE: any other register. -/
def registerWriteEffect (h : Fin 2) (off : BitVec 24) (wide : Bool) (value : BitVec 64) (s : State) : State :=
  hostWrite h off.toNat wide value.toNat s

def execRegisterWrite (port : Fin 2) (offset : BitVec 24) (wide : Bool) (value : BitVec 64) (s : State) : Result :=
  .next (registerWriteEffect port offset wide value s)

/-! ### CORE_RESTART (16 R411, R412) -/

/-- CORE_RESTART: a restart in progress completes, unless no section can be had that matches the digest in force (17
R421). The field core takes its section across the isolation barrier (17 R421), and DEV_FLD_CFG at its start (18 R457);
the warden, the linker and the store core take the work that waited for them (16 Table FLT.6, 21 R498). -/
def coreRestartEffect (i : Fin 152) (s : State) : State :=
  if !s.restarting i.val then s
  else
    let s := s.reloadSection (sectionOf i.val)
    if !s.fw.sectionGood (sectionOf i.val) then s
    else
    let s := { s with flt := { s.flt with restarting := s.flt.restarting.filter fun r => r.island != i.val } }
    let s := if i.val = fieldIsland then { s with field := { s.field with
      inUse := s.field.cfg, firmware := s.field.vdd, code := if s.field.vdd then s.fw.section_ 6 else [] } } else s
    let s := if i.val = storeIsland then s.storeRestarted else s
    let s := if i.val = wardenIsland then { s with field := { s.field with heartbeat := true } }.takeHeldWork else s
    let s := if i.val = linkerIsland then s.takeLinkerWork else s
    s.activationRestarted i.val

def execCoreRestart (i : Fin 152) (s : State) : Result := .next (coreRestartEffect i s)

end Sys2Proof.Machine
end

