-- ==== Sys2Proof/Machine/Debug.lean ====
section
/-! DEFINITION. Operator access (14 R367 to R369, 20 R493, R494): challenges and sessions, the DBG commands, the TAP, and the
random generator's health and reseed (14 R364). -/

namespace Sys2Proof.Machine

/-! ### Sessions (14 R367) -/

/-- A channel's session state; channels are host port 0, host port 1 and JTAG. -/
def State.channel (s : State) (ch : Nat) : Session := (s.sessions[ch]?).getD {}
/-- Change a channel's session state. -/
def State.modChannel (s : State) (ch : Nat) (f : Session → Session) : State := { s with sessions := s.sessions.setIfInBounds ch (f (s.channel ch)) }

/-- Whether a channel accepts no new challenge. -/
def State.locked (s : State) (ch : Nat) : Bool := s.now < (s.channel ch).lockUntil

/-- A fresh challenge on a channel. -/
def State.challenge (s : State) (ch : Nat) : State × BitVec 256 :=
  let (d, s) := s.takeDraw
  (s.modChannel ch fun x => { x with challenge := some d }, d)

/-- The ASCII string "VZM-DEBUG". -/
def debugString : List Byte := [0x56, 0x5A, 0x4D, 0x2D, 0x44, 0x45, 0x42, 0x55, 0x47]

/-- Whether a response opens a session: the operator key, and its signature over the challenge of the channel, whose
number is one byte (log entry 5). -/
def responseOk (challenge : BitVec 256) (ch : Nat) (response : List Byte) : Bool :=
  let key := response.take 1312
  let signed := debugString ++ Bits.toBytes 8 Config.serial.toNat ++ Bits.toBytes 32 challenge.toNat ++ Bits.toBytes 1 ch
  Config.sha3 key == Config.opKey && Config.mldsaVerify key (response.drop 1312) (Config.sha3 signed)

/-- Take a response on a channel: a session opens, or the challenge is spent and the channel locked for 1 s. -/
def State.respond (s : State) (ch : Nat) (response : List Byte) : State × Nat :=
  let ok := match (s.channel ch).challenge with
    | some c => responseOk c ch response
    | none => false
  if ok then (s.modChannel ch fun x => { x with challenge := none, openedAt := some s.now }, stOk)
  else
    ({ s.modChannel ch (fun x => { x with challenge := none, lockUntil := s.now + 1000000 }) with
      authFail := BitVec.ofNat 16 (Bits.satAdd 16 s.authFail.toNat 1) }, stAuth)

/-- DBG.CHALLENGE. -/
def dbgChallengeBody (host : BitVec 64) (s : State) (q : Req) : Ran :=
  match q.ring with
  | .ctx _ => .status s stDenied
  | .host h =>
    if s.locked h.val then .status s stInUse
    else if s.rng.failing then .waits
    else
      let (s, d) := s.challenge h.val
      .status (s.writeHostOf q host (Bits.toBytes 32 d.toNat)) stOk

def execDbgChallenge (q : Req) (host : BitVec 64) (s : State) : Result := .next (runCommand (.dbgChallenge q host) s (dbgChallengeBody host))

/-- DBG.RESPOND. -/
def dbgRespondBody (host : BitVec 64) (s : State) (q : Req) : Ran :=
  match q.ring with
  | .ctx _ => .status s stDenied
  | .host h =>
    let (t, st) := s.respond h.val (s.readHostOf q host 3732)
    .status t st

def execDbgRespond (q : Req) (host : BitVec 64) (s : State) : Result := .next (runCommand (.dbgRespond q host) s (dbgRespondBody host))

/-- DEBUG_SESSION_EXPIRY: 3,600 s after the session opened. -/
def debugSessionExpiryEffect (ch : DbgPort) (s : State) : State :=
  let k := match ch with
    | .host h => h.val
    | .jtag => 2
  match (s.channel k).openedAt with
  | some t => if t + 3600000000 ≤ s.now then s.modChannel k fun x => { x with openedAt := none } else s
  | none => s

def execDebugSessionExpiry (ch : DbgPort) (s : State) : Result := .next (debugSessionExpiryEffect ch s)

/-! ### Targets (20 R493) -/

/-- The bytes of registers from an offset: those of whole aligned words; a part of a word reads 0 (21 R497). -/
def State.regBytes (s : State) (v : View) (off n : Nat) : List Byte :=
  (List.range n).map fun i =>
    let a := (off + i) / 4 * 4
    if off ≤ a && a + 4 ≤ off + n then BitVec.ofNat 8 (s.word32 v a / 2 ^ (8 * ((off + i) % 4))) else 0

/-- The bytes of a tile store as the narrow port reads them, over what its coalescing buffer holds (05 R119). -/
def State.storeBytesAt (s : State) (c t sp b n : Nat) : List Byte :=
  let line := b / lineBytes t sp
  let entry := s.stores.coalesced.find? fun x => x.at_ c t sp line
  (List.range n).map fun i =>
    let off := (b + i) % lineBytes t sp
    match entry.bind fun x => x.bytes.find? fun y => y.1 == off with
    | some y => y.2
    | none => s.stores.readByte c t sp (b + i)

/-- What an operator reads of a target, and whether a line of it is poisoned. -/
def State.readTarget (s : State) (v : View) (t : DbgTarget) : List Byte × Bool :=
  let n := t.bytes.toNat
  match t.space.toNat with
  | 0 => (s.regBytes v t.offset.toNat n, false)
  | 1 => (s.storeBytesAt t.cluster.toNat t.tile.toNat t.store.toNat (t.word.toNat * 4) n, false)
  | _ => (s.readPhysical t.cluster.toNat t.physical.toNat n, (s.poisonIn 1 t.cluster.toNat t.physical.toNat n).isSome)

/-- The partition whose registers an offset lies among. -/
def regPtn (off : Nat) : Option Nat :=
  if 0x100000 ≤ off && off < 0x180000 then some ((off - 0x100000) / 0x10000)
  else if 0x200000 ≤ off && off < 0x208000 then some ((off - 0x200000) / 4096)
  else
    let o := off % 0x8000
    match off / 0x100000, o / 256 with
    | 4, 1 => some (o % 128 / 16)
    | 5, 1 => some (o % 256 / 16 % 8)
    | 6, 2 => some (o % 256 / 16 % 8)
    | 6, 3 => some (o % 256 / 16 % 8)
    | 7, 1 => some (o % 256 / 16 % 8)
    | _, _ => none

/-- The partitions whose registers a transfer of n bytes touches. -/
def regPtns (off n : Nat) : List Nat := ((List.range n).filterMap fun i => regPtn (off + i)).eraseDups

/-- Place every context of a partition under R5 until it is reset (14 R369). -/
def State.undefine (s : State) (p : Option Nat) : State :=
  match p with
  | none => s
  | some p => { s with ctxs := Lists.modifyIf (fun x => ptnOf x.no == p) (fun x => { x with undefinedState := true }) s.ctxs }

/-- Write the whole aligned words of a range of registers. -/
def State.writeRegs (s : State) (v : View) (off : Nat) (bs : List Byte) : State :=
  let first := (off + 3) / 4 * 4
  (List.range ((off + bs.length - first) / 4)).foldl (fun st k =>
    let a := first + 4 * k
    st.write32 v a (Bits.ofBytes ((bs.drop (a - off)).take 4))) s

/-- An operator's write to a target (14 R368, R369); a tile-store line keeps its tag (14 R355). -/
def State.writeTarget (s : State) (v : View) (t : DbgTarget) (bs : List Byte) : State :=
  match t.space.toNat with
  | 0 => (regPtns t.offset.toNat bs.length).foldl (fun st p => st.undefine (some p)) (s.writeRegs v t.offset.toNat bs)
  | 1 =>
    let c := t.cluster.toNat
    let line := t.word.toNat * 4 / lineBytes t.tile.toNat t.store.toNat
    let s := match s.stores.coalesced.find? fun x => x.at_ c t.tile.toNat t.store.toNat line with
      | some x => s.writeBack x
      | none => s
    { s with stores := s.stores.write none c t.tile.toNat t.store.toNat (t.word.toNat * 4) bs }.undefine (s.ptnOfCluster c)
  | _ => (s.writeTier 1 t.cluster.toNat t.physical.toNat bs).undefine (s.ptnOfCluster t.cluster.toNat)

/-! ### The DBG commands over a channel -/

/-- Where a DBG command's host address lies: host memory, or the data window of the TAP. -/
structure DbgIo where
  view : View
  get : State → Nat → Nat → List Byte
  put : State → Nat → List Byte → State

/-- DBG.READ: bytes 0 is a no-op; a poisoned line is returned with ST_POISON. -/
def dbgReadRun (io : DbgIo) (t : DbgTarget) (s : State) : State × Nat :=
  if t.bytes = 0 then (s, stOkEmpty)
  else if !targetOk t then (s, stBadField)
  else
    let (bs, bad) := s.readTarget io.view t
    (io.put s t.host.toNat bs, if bad then stPoison else stOk)

/-- DBG.WRITE. -/
def dbgWriteRun (io : DbgIo) (t : DbgTarget) (s : State) : State × Nat :=
  if t.bytes = 0 then (s, stOkEmpty)
  else if !targetOk t then (s, stBadField)
  else (s.writeTarget io.view t (io.get s t.host.toNat t.bytes.toNat), stOk)

/-- DBG.SAMPLE, with the full length as its result. -/
def dbgSampleRun (io : DbgIo) (p : BitVec 3) (record : BitVec 16) (host : BitVec 64) (n : BitVec 32) (s : State) : State × Nat × Nat :=
  if n = 0 then (s, stOkEmpty, 0)
  else
    match s.sample? p.toNat record with
    | none => (s, stNoObject, 0)
    | some bs => (io.put s host.toNat (bs.take n.toNat), stOk, bs.length)

/-- DBG.UNRETIRE, while no partition exists (08 R199); a rank that is not retired is left as it is. -/
def dbgUnretireRun (stack : BitVec 3) (rank : BitVec 2) (s : State) : State × Nat :=
  if !s.ptnNos.isEmpty then (s, stInUse)
  else if (s.stackRanks stack.toNat).rank rank.toNat != 3 then (s, stOkEmpty)
  else (s.unretire stack.toNat rank.toNat, stOk)

/-- The host memory of a command of a host ring. -/
def hostIo (q : Req) : DbgIo where
  view := { port := match q.ring with
              | .host h => h
              | .ctx _ => 0
            all := true }
  get := fun s a n => s.readHostOf q (BitVec.ofNat 64 a) n
  put := fun s a bs => s.writeHostOf q (BitVec.ofNat 64 a) bs

/-- DBG.READ on a host ring. -/
def dbgReadBody (t : DbgTarget) (s : State) (q : Req) : Ran :=
  let (u, st) := dbgReadRun (hostIo q) t s
  .status u st

def execDbgRead (q : Req) (t : DbgTarget) (s : State) : Result := .next (runCommand (.dbgRead q t) s (dbgReadBody t))

/-- DBG.WRITE on a host ring. -/
def dbgWriteBody (t : DbgTarget) (s : State) (q : Req) : Ran :=
  let (u, st) := dbgWriteRun (hostIo q) t s
  .status u st

def execDbgWrite (q : Req) (t : DbgTarget) (s : State) : Result := .next (runCommand (.dbgWrite q t) s (dbgWriteBody t))

/-- DBG.SAMPLE on a host ring. -/
def dbgSampleBody (p : BitVec 3) (record : BitVec 16) (host : BitVec 64) (n : BitVec 32) (s : State) (q : Req) : Ran :=
  let (u, st, len) := dbgSampleRun (hostIo q) p record host n s
  .done u st len 0

def execDbgSample (q : Req) (p : BitVec 3) (record : BitVec 16) (host : BitVec 64) (bytes : BitVec 32) (s : State) : Result :=
  .next (runCommand (.dbgSample q p record host bytes) s (dbgSampleBody p record host bytes))

/-- DBG.UNRETIRE on a host ring. -/
def dbgUnretireBody (stack : BitVec 3) (rank : BitVec 2) (s : State) (_ : Req) : Ran :=
  let (u, st) := dbgUnretireRun stack rank s
  .status u st

def execDbgUnretire (q : Req) (stack : BitVec 3) (rank : BitVec 2) (s : State) : Result :=
  .next (runCommand (.dbgUnretire q stack rank) s (dbgUnretireBody stack rank))

/-! ### The TAP (20 R494) -/

/-- The codes that the TAP decodes now (20 Table OBS.11): the session's own only while it is open. -/
def State.tapDecodes (s : State) (code : Nat) : Bool :=
  [0x00, 0x01, 0x20, 0x21].contains code || (s.sessionOpen 2 && [0x22, 0x23, 0x24].contains code)

/-- Change the TAP. -/
def State.modTap (s : State) (f : Tap → Tap) : State := { s with tap := f s.tap }

/-- JTAG_DBG_CHAL: a fresh challenge, unless the channel is locked; while draws wait it waits for its draw (14 R364). -/
def jtagDbgChalEffect (s : State) : State :=
  let s := s.modTap fun x => { x with ir := 0x20 }
  if !s.wardenRuns || s.locked 2 then s
  else if s.rng.failing then s.modTap fun x => { x with chal := true }
  else (s.challenge 2).1

def execJtagDbgChal (s : State) : Result := .next (jtagDbgChalEffect s)

/-- JTAG_DBG_RESP. -/
def jtagDbgRespEffect (response : BitVec 29856) (s : State) : State :=
  let s := s.modTap fun x => { x with ir := 0x21 }
  if !s.wardenRuns then s else (s.respond 2 (Bits.toBytes 3732 response.toNat)).1

def execJtagDbgResp (response : BitVec 29856) (s : State) : Result := .next (jtagDbgRespEffect response s)

/-- The data window as the memory of a command: addresses are offsets in its 4 KiB. -/
def windowIo : DbgIo where
  view := { port := 0, all := true }
  get := fun s a n => Mem.read s.tap.window a n
  put := fun s a bs => s.modTap fun x => { x with window := Mem.write x.window a (bs.take (4096 - a)) }

/-- Whether a transfer lies in the data window. -/
def inWindow4k (host n : Nat) : Bool := host + n ≤ 4096

/-- Run a DBG packet in an open session of the TAP. -/
def runTap (i : Instr) (s : State) : State × Nat × Nat :=
  let flat := fun (x : State × Nat) => (x.1, x.2, 0)
  match i with
  | .dbgChallenge _ h =>
    if !inWindow4k h.toNat 32 then (s, stBadField, 0)
    else if s.locked 2 then (s, stInUse, 0)
    else
      let (s, d) := s.challenge 2
      (windowIo.put s h.toNat (Bits.toBytes 32 d.toNat), stOk, 0)
  | .dbgRespond _ h => if !inWindow4k h.toNat 3732 then (s, stBadField, 0) else flat (s.respond 2 (windowIo.get s h.toNat 3732))
  | .dbgRead _ t => if !inWindow4k t.host.toNat t.bytes.toNat then (s, stBadField, 0) else flat (dbgReadRun windowIo t s)
  | .dbgWrite _ t => if !inWindow4k t.host.toNat t.bytes.toNat then (s, stBadField, 0) else flat (dbgWriteRun windowIo t s)
  | .dbgSample _ p r h n => dbgSampleRun windowIo p r h n s
  | .dbgUnretire _ k r => flat (dbgUnretireRun k r s)
  | _ => (s, stDenied, 0)

/-- Whether a packet of the TAP draws a random value: a well-formed DBG.CHALLENGE. -/
def tapDraws (packet : BitVec 512) : Bool :=
  match Packet.decode (.host 0) 0 packet.toNat with
  | some (.dbgChallenge q h) => (Instr.dbgChallenge q h).wellFormed
  | _ => false

/-- Carry out a 64-byte packet of the TAP; its completion entry goes to DBG_STAT, its issuer being 0x802. -/
def State.tapPacket (s : State) (packet : BitVec 512) : State :=
  let w := packet.toNat
  let h := Packet.fields Packet.header (w % 2 ^ 128)
  let (s, st, r0) := match Packet.decode (.host 0) 0 w with
    | none => (s, stBadField, 0)
    | some i => if i.wellFormed then runTap i s else (s, stBadField, 0)
  let entry := packBits [((Packet.req (.host 0) 0 h).tag.toNat, 0), (st, 16), (w % 256, 32), (0x802, 40), (r0, 64)]
  s.modTap fun x => { x with stat := BitVec.ofNat 256 entry }

/-- JTAG_DBG_CMD: a 64-byte packet of the DBG group. Without a session the code selects BYPASS; a challenge waits while
draws wait (14 R364). -/
def jtagDbgCmdEffect (packet : BitVec 512) (s : State) : State :=
  let s := s.modTap fun x => { x with ir := 0x22 }
  if !s.wardenRuns || !s.sessionOpen 2 then s.modTap fun x => { x with bypass := false }
  else if s.rng.failing && tapDraws packet then s.modTap fun x => { x with cmds := x.cmds ++ [packet] }
  else s.tapPacket packet

def execJtagDbgCmd (packet : BitVec 512) (s : State) : Result := .next (jtagDbgCmdEffect packet s)

/-- JTAG_DBG_DATA: the data window shifts out, and takes what is shifted in. -/
def jtagDbgDataEffect (bits : BitVec 32768) (s : State) : State :=
  let s := s.modTap fun x => { x with ir := 0x24 }
  if !s.sessionOpen 2 then s.modTap fun x => { x with bypass := false }
  else s.modTap fun x => { x with window := Mem.write [] 0 (Bits.toBytes 4096 bits.toNat) }

def execJtagDbgData (shiftIn : BitVec 32768) (s : State) : Result := .next (jtagDbgDataEffect shiftIn s)

/-- JTAG_EXTEST: the boundary-scan register is selected; what it drives is outside the model. -/
def jtagExtestEffect (s : State) : State := s.modTap fun x => { x with ir := 0x00 }

def execJtagExtest (s : State) : Result := .next (jtagExtestEffect s)

/-- JTAG_SAMPLE_PRELOAD. -/
def jtagSamplePreloadEffect (s : State) : State := s.modTap fun x => { x with ir := 0x01 }

def execJtagSamplePreload (s : State) : Result := .next (jtagSamplePreloadEffect s)

/-- JTAG_BYPASS: a code that the TAP does not decode selects the bypass register, which captures 0. -/
def jtagBypassEffect (code : BitVec 8) (s : State) : State :=
  if s.tapDecodes code.toNat then s else s.modTap fun x => { x with ir := code, bypass := false }

def execJtagBypass (code : BitVec 8) (s : State) : Result := .next (jtagBypassEffect code s)

/-! ### The random generator (14 R364) -/

/-- RNG_HEALTH_FAIL: a health test has failed for 10 ms; draws wait, and the field core reports it. -/
def rngHealthFailEffect (s : State) : State :=
  if !s.wardenRuns then s else { s with rng := { s.rng with failing := true } }.report 0x08 0 0 0

def execRngHealthFail (s : State) : Result := .next (rngHealthFailEffect s)

/-- The TAP's challenges that waited for a draw. -/
def State.tapGoesOn (s : State) : State :=
  let t := s.modTap fun x => { x with chal := false, cmds := [] }
  let t := if s.tap.chal && !s.locked 2 then (t.challenge 2).1 else t
  if s.sessionOpen 2 then s.tap.cmds.foldl State.tapPacket t else t

/-- RNG_RESEED: after 2^20 outputs or 1 s; a source that reseeds the generator passes its health tests again, and the
draws that waited are made. -/
def rngReseedEffect (s : State) : State :=
  if s.rng.outputs < 2 ^ 20 && s.now < s.rng.seededAt + 1000000 then s
  else { s with rng := { failing := false, outputs := 0, seededAt := s.now } }.tapGoesOn

def execRngReseed (s : State) : Result := .next (rngReseedEffect s)

end Sys2Proof.Machine
end

