-- ==== Sys2Proof/Machine/Loader.lean ====
section
/-! DEFINITION. SCHED.LOAD (05 R130 to R134): every check that the loader makes on an image's operation records, chains,
moves, phase marks and budget entries, and the load itself. -/

namespace Sys2Proof.Machine

/-! ### Regions -/

/-- Whether n bytes from a word lie in a store of a tile (04 R104). -/
def regionFits (t space word n : Nat) : Bool := 1 ≤ space && space ≤ 3 && word * 4 + n ≤ storeBytes t space

/-- Whether a wide access may start at a word (05 R114). -/
def wideOk (space word : Nat) : Bool := space != 3 || word % 4 == 0

/-- Whether a port may move n bytes from a word: in the store, from an aligned start. -/
def wideFits (t space word n : Nat) : Bool := regionFits t space word n && wideOk space word

/-- Whether an operand of n bytes a batch may be read: a coded one only starts in its store (06 R144). -/
def operandFits (img : Image) (k t no use space word n stride batch : Nat) : Bool :=
  if (img.budgetOf use k t no).isSome then wideFits t space word 64
  else wideFits t space (word + (batch - 1) * stride) n && wideOk space word && (batch ≤ 1 || wideOk space stride)

/-! ### Formats and bindings (02 R41, R44, R47, R52, R509) -/

/-- The kind of an operand format after expansion: some true for floats, some false for integers, none where no operand
has it. -/
def operandKind : Option Fmt → Option Bool
  | some .fp16 => some true | some .bf16 => some true | some .e4m3 => some true | some .e5m2 => some true
  | some .c4 => some true | some .c8 => some true | some .int8 => some false | some .int4 => some false
  | _ => none

/-- Whether two formats make an operand pair. -/
def pairOk (a b : Option Fmt) : Bool :=
  match operandKind a, operandKind b with
  | some x, some y => x == y
  | _, _ => false

/-- Whether a code format's binding lies in its store, over some channels. -/
def Binding.fits (b : Binding) (f : Fmt) (channels : Nat) : Bool :=
  b.group ≤ 12 &&
    if b.builtin then f == .c8
    else
      match entryFmt b.ent with
      | none => false
      | some e => (b.slot + (if b.chan then (max channels 1 - 1) / 2 ^ b.group else 0) + 1) * imageBytes f e ≤ 8192

/-- Whether an operand's codes are bound, where its format has codes. -/
def bound (f : Option Fmt) (b : Binding) (channels : Nat) : Bool :=
  match f with
  | some g => !g.isCode || b.fits g channels
  | none => true

/-- Whether the ent fields of a record keep 05 Table SPD.9. -/
def entOk (r : OpRec) : Bool :=
  let loaded := fun (f : Nat) (b : Binding) => fmtIn f [.c4, .c8] && !b.builtin
  Op.entA r != 3 && Op.entB r != 3 &&
    (Op.code r == 3 ||
      ((Op.entA r == 0 || loaded (Op.fmtA r) (Op.bindingA r)) && (Op.entB r == 0 || loaded (Op.fmtB r) (Op.bindingB r))))

/-- Whether 4-bit elements of some matrix keep an even innermost extent, transposed or not (02 R44, 03 R76). -/
def evenOk (f : Option Fmt) (rows cols : Nat) (trans : Bool) : Bool :=
  match f with
  | some g => g.bits != 4 || (cols % 2 == 0 && (!trans || rows % 2 == 0))
  | none => true

/-- Bytes of n elements in a format code. -/
def codeBytes (f n : Nat) : Nat := (((Fmt.ofCode f).map fun x => x.bytes n)).getD 0

/-! ### Fields (05 Table SPD.10) -/

/-- The strides (A, B, C) that an operation uses: batch strides of MM and MMB, FILL's pattern, and where ATTD, LSCAN and
RESCORE take what log entry 35 places. -/
def strideUses : Nat → Bool × Bool × Bool
  | 0x01 | 0x02 => (true, true, true)
  | 0x07 => (true, false, false)
  | 0x12 => (true, true, false)
  | 0x14 => (false, true, false)
  | 0x16 => (true, true, false)
  | _ => (false, false, false)

/-- The extents (m, k, n) and address groups (A, B, C) that an operation uses. -/
def opUses : Nat → Option ((Bool × Bool × Bool) × (Bool × Bool × Bool))
  | 0x01 | 0x02 | 0x11 => some ((true, true, true), (true, true, true))
  | 0x03 => some ((false, false, false), (false, false, false))
  | 0x04 => some ((true, false, false), (true, false, false))
  | 0x05 => some ((true, false, false), (true, false, false))
  | 0x06 => some ((true, true, true), (true, false, true))
  | 0x07 => some ((true, false, false), (true, false, true))
  | 0x08 => some ((true, false, false), (false, false, false))
  | 0x12 => some ((true, true, false), (true, true, true))
  | 0x13 => some ((false, false, false), (true, true, false))
  | 0x14 => some ((false, true, false), (false, true, false))
  | 0x15 => some ((false, true, false), (false, false, true))
  | 0x16 => some ((true, true, false), (true, true, true))
  | 0x17 => some ((true, false, false), (false, true, true))
  | 0x18 => some ((true, false, true), (true, false, true))
  | _ => none

/-- Whether the extents and addresses that an operation does not use are 0. -/
def unusedZero (r : OpRec) : Bool :=
  match opUses (Op.code r) with
  | none => false
  | some ((m, k, n), (a, b, c)) =>
    let (sa, sb, sc) := strideUses (Op.code r)
    (sa || Op.aStride r == 0) && (sb || Op.bStride r == 0) && (sc || Op.cStride r == 0) && (m || Op.extM r == 0) && (k || Op.extK r == 0) && (n || Op.extN r == 0) &&
      (a || (Op.aBase r == 0 && Op.aSpace r == 0)) && (b || (Op.bBase r == 0 && Op.bSpace r == 0)) &&
      (c || (Op.cBase r == 0 && Op.cSpace r == 0)) &&
      (Op.code r == 2 || Op.batch r == 0) && (Op.code r == 0x12 || Op.code r == 0x17 || Op.headDim r == 0)

/-- Whether a code may stand on a tile (03 R77). -/
def opOnTile (code t : Nat) : Bool :=
  match code with
  | 0x01 | 0x02 | 0x03 => t < 8
  | 0x04 | 0x05 | 0x06 | 0x07 | 0x08 | 0x18 => true
  | 0x11 | 0x12 | 0x13 | 0x14 | 0x15 | 0x16 | 0x17 => 8 ≤ t
  | _ => false

/-! ### Operation records -/

/-- The product-table slots that a record uses (02 R50). -/
def slotsUsed (r : OpRec) : List Nat :=
  (List.range ((max (Op.extN r) 1 - 1) / 2 ^ Op.ptGroup r + 1)).map fun i => Op.ptSlot r + i

/-- Whether every slot was built by a PTBUILD of an earlier beat (03 R79). -/
def slotsBuilt (ops : List OpRec) (r : OpRec) : Bool :=
  (slotsUsed r).all fun s => s < 16 && ops.any fun q => Op.code q == 3 && Op.ptSlot q == s && Op.beat q < Op.beat r

/-- Whether a multiply's empty extents make it a no-op. -/
def Op.multiplyEmpty (r : OpRec) : Bool := Op.empty r || (Op.code r == 2 && Op.batch r == 0)

/-- The result of a multiply without a chain (05 R131). -/
def resultOk (r : OpRec) : Bool :=
  match Fmt.ofCode (Op.fmtC r) with
  | some .fp32 => true
  | some .int32 => operandKind (Fmt.ofCode (Op.fmtA r)) == some false && Op.scaleMode r == 0
  | _ => false

/-- A record as the loader checks it, with the place that its chain gives it. -/
def Image.linkOf (i : Image) (k t no : Nat) (r : OpRec) : Option Link :=
  ({ c := 0, k := k, t := t, ctx := 0, beat := 0, slots := [], img := i, no := no, r := r } : Work).link

/-- Whether the column and row scale registers that a record names exist, over some columns and rows (02 R56). -/
def scalesOk (r : OpRec) (columns rows : Nat) : Bool :=
  (Op.scaleMode r % 2 == 0 || Op.colBase r + columns ≤ 4096) && (Op.scaleMode r < 2 || Op.rowBase r + rows ≤ 4096)

/-- Whether the max-abs vectors of a record fit the partial-sum store (02 R61). -/
def maxabsOk (t : Nat) (r : OpRec) (batch columns rows : Nat) : Bool :=
  !Op.maxabsEn r || regionFits t 3 (Op.maxabsBase r) (4 * batch * if Op.maxabsAxis r then columns else rows)

/-- Whether a format code is one of Table FMT.1. -/
def fmtKnown (f : Nat) : Bool := (Fmt.ofCode f).isSome

/-- The checks on an MM, MMB or MMS record. The first piece of an operation that the held form normalises also reads the
hold region, by its binding of operand A (04 R108). -/
def multiplyOk (img : Image) (ops : List OpRec) (k t no : Nat) (r : OpRec) : Bool :=
  let reel := Op.code r == 0x11
  let m := Op.extM r
  let kk := Op.extK r
  let n := Op.extN r
  let batch := if Op.code r = 2 then Op.batch r else 1
  let link := img.linkOf k t no r
  let linked := link.any fun l => l.p.slot != 0
  let gated := link.any fun l => Chain.gated l.d l.p.slot
  let first := (link.map fun l => l.p.k0).getD 0
  let last := if gated then (link.map fun l => l.p.shape.k + l.p.k0 + kk).getD kk else first + kk
  let fa := (link.map Link.streamFmt).getD (Fmt.ofCode (Op.fmtA r))
  let fb := Fmt.ofCode (Op.fmtB r)
  let table := (link.map Link.byTable).getD (tableMode t fa fb)
  let held := link.filter fun l => l.p.first && Chain.normMode l.d == 1 && Chain.normOp l.d == l.p.slot
  fmtKnown (Op.fmtA r) && (link.isSome || (Op.chain r == 0 && pairOk fa fb && resultOk r)) && operandKind fb != none &&
    m ≤ (if reel then 64 else 8192) && kk ≤ 65536 && n ≤ 65536 && batch ≤ 4096 && !(reel && Op.ta r) &&
    (linked || evenOk fa m (if gated then 2 * kk else kk) (Op.ta r)) && evenOk fb kk n (Op.tb r) && scalesOk r n m &&
    bound fa (Op.bindingA r) last && bound fb (Op.bindingB r) n &&
    (held.all fun l => bound (some (Chain.linkFmt l.d (l.p.slot - 1))) (Op.bindingA r) l.width) &&
    (!table || (Op.ptGroup r ≤ 12 && slotsBuilt ops r)) &&
    (!Op.rowsumEn r || operandKind fa == some false) &&
    (Op.multiplyEmpty r ||
      ((linked || operandFits img k t no 3 (Op.aSpace r) (Op.aBase r) (codeBytes (Op.fmtA r) (m * kk * if gated then 2 else 1))
          (Op.aStride r) batch) &&
        operandFits img k t no 4 (Op.bSpace r) (Op.bBase r) (codeBytes (Op.fmtB r) (kk * n)) (Op.bStride r) batch &&
        ((link.isSome && !Op.acc r && Op.cSpace r == 0) ||
          (wideFits t (Op.cSpace r) (Op.cBase r + (batch - 1) * Op.cStride r) (4 * m * n) && wideOk (Op.cSpace r) (Op.cBase r) &&
            (batch ≤ 1 || wideOk (Op.cSpace r) (Op.cStride r)))) &&
        (!Op.rowsumEn r || regionFits t 3 (Op.auxBase r) (4 * m)) && maxabsOk t r batch n m))

/-- Whether a head dimension may stand (03 Table TIL.2). -/
def headOk (d : Nat) : Bool := 16 ≤ d && d ≤ 256 && d % 16 == 0

/-- A descriptor that a record names: in space 0x2, with fields that keep the table (09 R218, log entry 24). -/
def descOk (st : Stores) (c t : Nat) (r : OpRec) : Bool :=
  regionFits t 2 (Op.auxBase r) 320 && Desc.ok (Bits.ofBytes (st.read c t 2 (Op.auxBase r * 4) 320)) (Op.causal r)

/-- Whether queries of g rows of d values, of a gated chain 2d, may be read: their format, and where they lie. -/
def queriesOk (img : Image) (k t no : Nat) (r : OpRec) (g d : Nat) : Bool :=
  let link := img.linkOf k t no r
  let n := if link.any fun l => Chain.gated l.d 0 then 2 * d else d
  operandKind (link.bind Link.statedFmt <|> Fmt.ofCode (Op.fmtA r)) == some true && operandKind (Fmt.ofCode (Op.fmtA r)) != none &&
    bound (Fmt.ofCode (Op.fmtA r)) (Op.bindingA r) n &&
    (g == 0 || operandFits img k t no 3 (Op.aSpace r) (Op.aBase r) (codeBytes (Op.fmtA r) (g * n)) 0 1)

/-- The checks on an ATTD record. -/
def attdOk (img : Image) (st : Stores) (c k t no : Nat) (r : OpRec) : Bool :=
  let g := Op.extM r
  let n := Op.extK r
  let d := Op.headDim r
  let w : Work := { c := c, k := k, t := t, ctx := 0, beat := 0, slots := [], img := img, no := no, r := r }
  headOk d && g ≤ 64 && n ≤ 65536 && fmtIn (Op.fmtB r) [.e4m3, .e5m2, .c4, .c8] &&
    bound (Fmt.ofCode (Op.fmtB r)) (Op.bindingB r) d && descOk st c t r && scalesOk r d g && !Op.ta r && !Op.tb r &&
    queriesOk img k t no r (if Op.empty r then 0 else g) d &&
    (Op.empty r ||
      (wideOk (Op.bSpace r) (Op.aStride r) && maxabsOk t r 1 d g && operandFits img k t no 4 (Op.bSpace r) (Op.bBase r) (w.keyFmt.bytes (n * d)) 0 1 &&
        ((img.budgetOf 4 k t no).isSome || regionFits t (Op.bSpace r) (Op.bBase r + Op.aStride r) (w.valueFmt.bytes (n * d))) &&
        regionFits t (Op.cSpace r) (Op.cBase r) (4 * g * softWords d)))

/-- The format of the values that a RESCORE may meet, for its binding: C4 where fmt_b names it, else C8, the larger
tables. -/
def rescoreCodes (r : OpRec) : Fmt := if Fmt.ofCode (Op.fmtB r) == some .c4 then .c4 else .c8

/-- Bytes of the region into which a RESCORE gathers keys and values of K slots (03 R89, log entry 35). -/
def gatherBytes (r : OpRec) (k : Nat) : Nat := (128 + if rescoreCodes r == .c4 then 64 else 128) * k

/-- The checks on the records of the attention path but ATTD. -/
def lookupOk (img : Image) (st : Stores) (c k t no : Nat) (r : OpRec) : Bool :=
  let g := Op.extM r
  let n := Op.extK r
  match Op.code r with
  | 0x13 => queriesOk img k t no r 1 128 && operandFits img k t no 4 (Op.bSpace r) (Op.bBase r) 65536 0 1
  | 0x14 => n ≤ 524288 && descOk st c t r && (n == 0 || operandFits img k t no 4 (Op.bSpace r) (Op.bBase r) (32 * n) 0 1)
  | 0x15 => n ≤ 1024 && (n == 0 || wideFits t (Op.cSpace r) (Op.cBase r) (4 * n))
  | 0x16 =>
    let d := Bits.ofBytes (st.read c t 2 (Op.auxBase r * 4) 320)
    g ≤ 64 && n ≤ 66624 && descOk st c t r && scalesOk r 128 g && queriesOk img k t no r (if g == 0 || n == 0 then 0 else g) 128 &&
      (Op.bindingB r).fits (rescoreCodes r) 128 &&
      (g == 0 || n == 0 || (operandFits img k t no 4 (Op.bSpace r) (Op.bBase r) (4 * Desc.topk d) 0 1 && maxabsOk t r 1 128 g &&
        Op.aStride r * 4 + gatherBytes r (Desc.topk d) ≤ storeBytes t 2 &&
        regionFits t (Op.cSpace r) (Op.cBase r) (4 * g * softWords 128)))
  | _ =>
    g ≤ 64 && headOk (Op.headDim r) &&
      (g == 0 || (((img.budgetOf 4 k t no).isSome || regionFits t (Op.bSpace r) (Op.bBase r) (4 * g * softWords (Op.headDim r))) &&
        regionFits t (Op.cSpace r) (Op.cBase r) (4 * g * softWords (Op.headDim r))))

/-- The checks on a CBLOAD record (02 R45, R46): its source starts at a multiple of 64 bytes and is an image of Table
FMT.3. -/
def cbloadOk (img : Image) (k t no : Nat) (r : OpRec) : Bool :=
  let b := Op.bindingB r
  let m := Op.extM r
  match Fmt.ofCode (Op.fmtB r) with
  | some f =>
    (f == .fp16 || f == .e4m3 || f == .e5m2) && Op.bindA r == 0 && b.group == 0 && !b.chan && !b.builtin &&
      (m == imageBytes .c4 f || m == imageBytes .c8 f) && (b.slot + 1) * m ≤ 8192 && Op.aBase r % 16 == 0 &&
      operandFits img k t no 3 (Op.aSpace r) (Op.aBase r) m 0 1
  | none => false

/-- The checks on a MOVE record (03 R512). -/
def moveOk (img : Image) (k t no : Nat) (r : OpRec) : Bool :=
  let m := Op.extM r
  let rows := Op.extK r
  let cols := Op.extN r
  (if Op.ta r then
    match Fmt.ofCode (Op.fmtA r) with
    | some f => m * 8 == rows * cols * f.bits && (f.bits != 4 || (rows % 2 == 0 && cols % 2 == 0))
    | none => false
  else rows == 0 && cols == 0 && Op.fmtA r == 0) &&
    m ≤ storeBytes t (Op.cSpace r) &&
    (m == 0 || (operandFits img k t no 3 (Op.aSpace r) (Op.aBase r) m 0 1 && wideFits t (Op.cSpace r) (Op.cBase r) m))

/-- The checks on a ROWSUM record (03 R510). -/
def rowsumOk (img : Image) (k t no : Nat) (r : OpRec) : Bool :=
  let m := Op.extM r
  let n := Op.extN r
  let f := Fmt.ofCode (Op.fmtA r)
  operandKind f == some false && Fmt.ofCode (Op.fmtC r) == some .int32 && Op.cSpace r == 3 && m ≤ 65536 &&
    evenOk f m n false &&
    (m == 0 || n == 0 || (operandFits img k t no 3 (Op.aSpace r) (Op.aBase r) (codeBytes (Op.fmtA r) (m * n)) 0 1 && regionFits t 3 (Op.cBase r) (8 * n)))

/-- The checks on one record of a tile (05 R131, 03 R77 to R79, 02 R41 to R56). -/
def opOk (img : Image) (st : Stores) (ops : List OpRec) (c k t no : Nat) (r : OpRec) : Bool :=
  let m := Op.extM r
  r &&& Op.reserved == 0 && opOnTile (Op.code r) t && unusedZero r && entOk r && Op.beat r < img.nBeats &&
    Op.fmtA r ≤ 10 && Op.fmtB r ≤ 10 && Op.fmtC r ≤ 10 && Op.ptGroup r ≤ 12 && Op.aSpace r ≤ 3 && Op.bSpace r ≤ 3 && Op.cSpace r ≤ 3 &&
    (Op.chain r == 0 || (Op.chain r ≤ img.chains.length && ([0x01, 0x11, 0x12, 0x16] : List Nat).contains (Op.code r))) &&
    (!Op.rowsumEn r || ([0x01, 0x02, 0x11] : List Nat).contains (Op.code r)) &&
    match Op.code r with
    | 0x01 => multiplyOk img ops k t no r
    | 0x02 => multiplyOk img ops k t no r
    | 0x11 => multiplyOk img ops k t no r
    | 0x03 => (Op.bindingA r).fits .c4 1 && (Op.bindingB r).fits .c4 1
    | 0x04 => m ≤ 4096 && Op.colBase r + m ≤ 4096 && (m == 0 || operandFits img k t no 3 (Op.aSpace r) (Op.aBase r) (4 * m) 0 1)
    | 0x05 => cbloadOk img k t no r
    | 0x06 => moveOk img k t no r
    | 0x07 => Op.aBase r == 0 && Op.aSpace r == 0 && 4 * m ≤ storeBytes t (Op.cSpace r) && (m == 0 || wideFits t (Op.cSpace r) (Op.cBase r) (4 * m))
    | 0x08 => m ≤ 65536
    | 0x12 => attdOk img st c k t no r
    | 0x18 => rowsumOk img k t no r
    | _ => lookupOk img st c k t no r

/-- Whether beats do not fall from record to record. -/
def ascendingBeats : List OpRec → Bool
  | a :: b :: rs => Op.beat a ≤ Op.beat b && ascendingBeats (b :: rs)
  | _ => true

/-! ### Chains (04 R93 to R105, R108, R109) -/

/-- Whether a format is one of some, by its code. -/
def valueStated (f : Nat) : Bool := fmtIn f [.fp16, .bf16, .e4m3, .e5m2]

/-- Whether a tensor that an ADD or a RESID reads has an operand format with an even innermost extent and tables that
lie in the store (02 R44, R47): b is the binding by which it is expanded (log entry 40). -/
def tensorOk (code columns : Nat) (bs : List Binding) : Bool :=
  code < 16 && fmtKnown code && code != 10 && evenOk (Fmt.ofCode code) 0 columns false && bs.all fun b => bound (Fmt.ofCode code) b columns

/-- Whether a stage record keeps 04 Tables CHN.1 and CHN.5 in its place, prologue or epilogue, in a slot of a shape whose
pieces bind operand A as bs. DESIGN CHOICE (log entry 140): a ZPC states any format of Table FMT.1. -/
def stageOk (raw : Nat) (g : Stage) (pro : Bool) (sh : Shape) (bs : List Binding) : Bool :=
  let noReg := g.reg == 0
  let noRegion := g.region == 0 && g.space == 0
  Bits.range raw 11 10 == 0 && Bits.range raw 63 60 == 0 && g.space ≤ 3 && (!g.rnd || g.kind == 0x0C) &&
    match g.kind with
    | 0x00 => g.fmt == 0
    | 0x01 => pro && valueStated g.fmt &&
        (match g.sub with
          | 0 => noRegion && g.reg + sh.k ≤ 4096
          | 1 => noReg && g.space != 0
          | 2 => g.space != 0 && g.reg + 2 ≤ 4096
          | _ => false)
    | 0x02 => pro && noReg && g.sub ≤ 1 && g.space == 3 && fmtKnown g.fmt
    | 0x03 => pro && noReg && valueStated g.fmt && g.space != 0 && tensorOk g.sub sh.k bs
    | 0x04 => pro && noReg && noRegion && valueStated g.fmt && 1 ≤ g.sub && g.sub ≤ 7
    | 0x08 => !pro && noReg && g.sub == 0 && g.space != 0 && (valueStated g.fmt || g.fmt == 1)
    | 0x09 => !pro && noReg && noRegion && 1 ≤ g.sub && g.sub ≤ 7 && (valueStated g.fmt || g.fmt == 1)
    | 0x0A => !pro && noReg && g.space != 0 && tensorOk g.sub sh.n bs && (valueStated g.fmt || g.fmt == 1)
    | 0x0B => !pro && noReg && g.sub < 8 && g.fmt == 1 && (g.sub == 0 || g.space != 0)
    | 0x0C => !pro && g.sub < 3 && 1 ≤ g.fmt && g.fmt ≤ 9 && g.space == 0 && (g.rnd || g.region == 0) && (bs.all fun b => bound (Fmt.ofCode g.fmt) b sh.n) &&
        g.reg + (if g.sub = 1 then sh.n else if g.sub = 2 then sh.m else 1) ≤ 4096
    | _ => false

/-- A region that a chain names: space, first byte, bytes, whether a port moves it as a wide access, and a mark of what
it is: 0 a region of its own, 1 the statistics of a STATS, 2 an output, 3 a RESID tensor, 4 the statistics that a
derived SCALE reads. -/
structure Region where
  space : Nat
  first : Nat
  bytes : Nat
  wide : Bool := false
  mark : Nat := 0
  slot : Nat := 0
  deriving DecidableEq, Repr

/-- The region of a stage. -/
def Stage.regionOf (g : Stage) (s : Nat) (sh : Shape) : Option Region :=
  let r := fun (bytes mark : Nat) => some ({ space := g.space, first := g.region * 4, bytes := bytes, mark := mark, slot := s } : Region)
  match g.kind with
  | 0x01 => if g.sub = 1 then r (4 * sh.m) 0 else if g.sub = 2 then r (12 * sh.m) 4 else none
  | 0x02 => r (8 * sh.n + if g.sub = 1 then 4 * sh.m else 0) 0
  | 0x03 => r (codeBytes (g.sub % 16) (sh.m * sh.k)) 0
  | 0x08 => r (4 * sh.n) 0
  | 0x0A => r (codeBytes (g.sub % 16) (sh.m * sh.n)) 3
  | 0x0B => if g.sub = 0 then none else r (12 * sh.m) 1
  | _ => none

/-- The regions that a chain names; an output in space 0x0 that nothing is written to is none (04 Table CHN.4). -/
def chainRegions (d : ChainDesc) (ops : List OpRec) (n : Nat) : List Region :=
  let shape := fun (s : Nat) => slotShape d ops n s
  let stages := (List.range (Chain.nOps d)).flatMap fun s =>
    (Chain.prologue d s ++ Chain.epilogue d s).filterMap fun g =>
      g.regionOf s (if Chain.gateFollows d s g then { shape s with k := 2 * (shape s).k } else shape s)
  let outs := (List.range (Chain.nOps d)).flatMap fun s =>
    let sh := shape s
    let idle := (livePieces d ops n s).isEmpty || chainEnded d ops n s
    if (s + 1 = Chain.nOps d || Chain.linkOut d s) && !(idle && Chain.outSpace d s == 0) then
      [({ space := Chain.outSpace d s, first := Chain.outBase d s * 4, bytes := (Chain.linkFmt d s).bytes (sh.m * sh.n), wide := true,
          mark := 2, slot := s } : Region)]
    else []
  let hold := if Chain.normMode d = 1 then
      let sh := shape (Chain.normOp d - 1)
      [({ space := 3, first := Chain.holdBase d * 4, bytes := (Chain.linkFmt d (Chain.normOp d - 1)).bytes (sh.m * sh.n), wide := true } : Region)]
    else []
  let link := if Chain.linkWords d = 0 then [] else
    [({ space := 2, first := Chain.linkBase d * 4, bytes := 4 * Chain.linkWords d } : Region)]
  stages ++ outs ++ hold ++ link

/-- Whether two regions may stand together: they do not overlap, or a derived SCALE reads the statistics that a STATS or
another derived SCALE names, or a RESID reads what an earlier slot's link_out writes (04 R105). -/
def Region.apart (a b : Region) : Bool :=
  a.space != b.space || a.first + a.bytes ≤ b.first || b.first + b.bytes ≤ a.first ||
    (a.first == b.first && ((a.mark == 4 && (b.mark == 1 || b.mark == 4)) || (a.mark == 1 && b.mark == 4))) ||
    (a.mark == 2 && b.mark == 3 && a.slot < b.slot) || (a.mark == 3 && b.mark == 2 && b.slot < a.slot)

/-- Whether regions stand together pairwise. -/
def regionsApart : List Region → Bool
  | [] => true
  | x :: xs => xs.all (fun y => x.apart y) && regionsApart xs

/-- Whether kinds occur at most once. -/
def kindsOnce (gs : List Stage) : Bool := decide (gs.map (·.kind)).Nodup

/-- Whether a slot's stages keep R99, R100 and R109, for streamed operands of some formats. -/
def stagesOk (d : ChainDesc) (s : Nat) (sh : Shape) (fas : List (Option Fmt)) (bs : List Binding) (table : Bool) : Bool :=
  let pro := Chain.prologue d s
  let epi := Chain.epilogue d s
  let has := fun (k : Nat) => pro.any fun g => g.kind == k
  let raw := fun (j : Nat) => Chain.slotFld d s (64 * j + 127) (64 * j + 64)
  let seen := fun (g : Stage) => if Chain.gateFollows d s g then { sh with k := 2 * sh.k } else sh
  ((List.range 7).all fun j => stageOk (raw j) (Chain.stage d s j) (decide (j < 2)) (seen (Chain.stage d s j)) bs) &&
    kindsOnce pro && kindsOnce epi &&
    (((epi.dropWhile fun g => g.kind != 0x0C).drop 1).isEmpty) &&
    (!table || pro.isEmpty) &&
    (!has 2 || ((fas.all fun fa => operandKind fa == some false) && !has 1 && !has 3 && !has 4)) &&
    (!(Chain.normMode d == 2 && Chain.normOp d == s) ||
      (!has 3 && !has 4 && valueStated (((Chain.rowScalar d s).map (·.fmt)).getD 0)))

/-- The effective format of operand A of slot s: that of its last value prologue, else the link's or fmt_a. -/
def effectiveA (d : ChainDesc) (s : Nat) (fa : Option Fmt) : Option Fmt :=
  let acting := (Chain.prologue d s).filter fun g =>
    g.kind != 2 && !(Chain.normMode d == 2 && Chain.normOp d == s && g.kind == 1 && g.sub == 2)
  match acting.getLast? with
  | some g => Fmt.ofCode g.fmt
  | none => fa

/-- The terms of the reduction before a piece in its range. -/
def termsBefore (rs : List (List (OpRec × Nat))) (no : Nat) : Nat :=
  (((rs.find? fun g => g.any fun x => x.2 == no).getD []).filter fun x => x.2 < no).map (fun x => Op.extK x.1) |>.sum

/-- The first column of the range that a piece belongs to. -/
def columnsBefore (rs : List (List (OpRec × Nat))) (no : Nat) : Nat :=
  ((rs.takeWhile fun g => !(g.any fun x => x.2 == no)).map rangeColumns).sum

/-- The link columns that a piece of M rows reads: k terms from term k0 of a link of w columns; transposed, those of the
elements k0 x M to (k0 + k) x M of the link, read in the other orientation (03 R76). As ranges, first and end. -/
def columnsRead (trans : Bool) (m w k0 k : Nat) : List (Nat × Nat) :=
  if !trans then [(k0, k0 + k)]
  else if w ≤ k * m then [(0, w)]
  else
    let lo := k0 * m % max w 1
    [(lo, min w (lo + k * m)), (0, lo + k * m - w)]

/-- Whether every piece of slot s that reads link columns is listed after every piece that writes them (04 R94). -/
def readsAfterWrites (d : ChainDesc) (ops : List OpRec) (n s : Nat) (sh : Shape) : Bool :=
  let rs := columnRanges (livePieces d ops n s)
  let prev := livePieces d ops n (s - 1)
  let written := columnRanges prev
  (livePieces d ops n s).all fun (r, i) =>
    let k0 := termsBefore rs i
    prev.all fun (q, j) =>
      let c0 := columnsBefore written j
      let w := if Chain.gated d s then 2 * sh.k else sh.k
      let reads := columnsRead (Op.ta r) sh.m w k0 (Op.extK r) ++
        if Chain.gated d s then columnsRead (Op.ta r) sh.m w (sh.k + k0) (Op.extK r) else []
      j < i || reads.all fun (lo, hi) => !(lo < hi && lo < c0 + Op.columns q && c0 < hi)

/-- Whether slot s's shape and format agree with the link that it reads (04 R95, R99, 02 R44, 03 R76). -/
def linkOk (d : ChainDesc) (ops : List OpRec) (n s : Nat) (sh : Shape) : Bool :=
  let before := slotShape d ops n (s - 1)
  let f := Chain.linkFmt d (s - 1)
  let trans := (piecesOf d ops n s).any fun (r, _) => Op.ta r
  sh.m == before.m && (if Chain.gated d s then 2 * sh.k else sh.k) == before.n && operandKind (some f) != none &&
    evenOk (some f) before.m before.n trans && evenOk (some (Chain.regionFmt d (s - 1))) before.m before.n trans &&
    readsAfterWrites d ops n s sh

/-- The checks on slot s of a chain with its pieces: shapes, formats, order. DESIGN CHOICE (log entry 34): the pieces of
slot 0 may carry different operation codes. -/
def slotOk (d : ChainDesc) (ops : List OpRec) (n t s : Nat) : Bool :=
  let ps := shapePieces d ops n s
  let sh := shapeOf ps
  let all := piecesOf d ops n s
  let fmtOf := fun (r : OpRec) => if s = 0 then Fmt.ofCode (Op.fmtA r) else some (Chain.regionFmt d (s - 1))
  let fas := all.map fun x => fmtOf x.1
  let outFmt := some (Chain.linkFmt d s)
  Chain.opFirst d s ≤ Chain.opLast d s &&
    (all.any fun x => x.2 == Chain.opFirst d s) && (all.any fun x => x.2 == Chain.opLast d s) &&
    (all.all fun (r, _) => (s == 0 || Op.code r == 0x01 || Op.code r == 0x11) && Op.zpOut r == ((all.head?.map fun x => Op.zpOut x.1).getD 0)) &&
    (ps.all fun (r, _) => Op.extM r == sh.m) && ((columnRanges ps).all fun g => rangeTerms g == sh.k) &&
    (all.all fun (r, _) => operandKind (fmtOf r) != none &&
      (Op.attends r || pairOk (effectiveA d s (fmtOf r)) (Fmt.ofCode (Op.fmtB r)))) &&
    stagesOk d s sh fas (all.map fun x => Op.bindingA x.1)
      (all.any fun (r, _) => tableMode t (fmtOf r) (Fmt.ofCode (Op.fmtB r))) &&
    (!(s + 1 == Chain.nOps d || Chain.linkOut d s) || evenOk outFmt sh.m sh.n false) &&
    (s == 0 || linkOk d ops n s sh)

/-- The checks on the normalisation of a chain (04 Table CHN.3, R108, R109). -/
def normOk (d : ChainDesc) (ops : List OpRec) (n : Nat) : Bool :=
  let mode := Chain.normMode d
  let s := Chain.normOp d
  let mine := piecesOf d ops n s
  let prev := piecesOf d ops n (s - 1)
  mode ≤ 2 && (mode == 1 || Chain.holdBase d == 0) &&
    if mode = 0 then s == 0
    else 1 ≤ s && s < Chain.nOps d && (Chain.rowScalar d s).isSome &&
      (if mode = 1 then prev.all fun (_, i) => mine.all fun (_, j) => i < j
       else ([Fmt.fp16, .bf16, .e4m3, .e5m2] : List Fmt).contains (Chain.linkFmt d (s - 1)))

/-- The checks on a chain on the tile that carries its pieces. -/
def chainOk (d : ChainDesc) (ops : List OpRec) (n t : Nat) : Bool :=
  let k := Chain.nOps d
  let links := ((List.range (k - 1)).map fun s => linkSize d ops n s).sum
  1 ≤ k && k ≤ 4 && fld d 15 8 == 0 && fld d 63 56 == 0 && fld d 511 112 == 0 &&
    ((List.range 4).all fun s => (s < k || Chain.slotFld d s 511 0 == 0) && Chain.slotFld d s 35 33 == 0 && Chain.slotFld d s 63 60 == 0 &&
      Chain.outSpace d s ≤ 3) &&
    (k == 1 || 0 < Chain.linkWords d) && links ≤ Chain.linkWords d &&
    (ops.zipIdx.all fun (r, i) => Op.chain r != n || (pieceSlot d ops n i).isSome) &&
    ((List.range k).all fun s => slotOk d ops n t s) && normOk d ops n &&
    ((chainRegions d ops n).all fun g =>
      g.bytes == 0 || (1 ≤ g.space && g.space ≤ 3 && g.first + g.bytes ≤ storeBytes t g.space && (!g.wide || g.space != 3 || g.first % 16 == 0))) &&
    regionsApart ((chainRegions d ops n).filter fun g => g.bytes != 0)

/-- The tiles whose records name a chain. -/
def Image.tilesOfChain (i : Image) (n : Nat) : List ((Nat × Nat) × List OpRec) :=
  i.ops.filter fun x => x.2.any fun r => Op.chain r == n

/-- The checks on every chain of an image: each on exactly one tile (04 R93). -/
def chainsOk (i : Image) : Bool :=
  i.chains.zipIdx.all fun (d, j) =>
    match i.tilesOfChain (j + 1) with
    | [x] => chainOk d x.2 (j + 1) x.1.2
    | _ => false

/-! ### Moves, marks and budgets (05 R132, R133, 06 R146 to R148, 09 R213, 10 R247, 13 R340) -/

/-- Whether an endpoint exists in the image's partition, for some bytes. -/
def Endpoint.ok (e : Endpoint) (clusters bytes : Nat) : Bool :=
  match e with
  | .tile c t sp w => c < clusters && t < 14 && 1 ≤ sp && sp ≤ 3 && w * 4 + bytes ≤ storeBytes t sp
  | .layer c w => c < clusters && w * 4 + bytes ≤ layerSpan
  | .page b => bytes % 4 == 0 && b / 2 ^ 52 == 0 && Bits.range b 27 26 != 3
  | .couch _ part _ _ _ => bytes % 4 == 0 && part != 3
  | _ => true

/-- The checks on a move record of a cluster. -/
def moveRecOk (i : Image) (lockstep : Bool) (k : Nat) (r : MoveRec) : Bool :=
  let n := Mv.bytes r
  r &&& Mv.reserved == 0 && 1 ≤ Mv.span r && Mv.lastBeat r < i.nBeats &&
    match Mv.source r, Mv.dest r with
    | some a, some b =>
      a.ok i.clusters n && b.ok i.clusters n && Mv.srcKind r ≤ 4 && !(Mv.srcKind r == 4 && Mv.dstKind r == 4) &&
        (match b, a with
          | .couch .., .tile c _ _ _ => c == k
          | .couch .., _ => false
          | .peer .., .tile c _ _ _ => c == k && lockstep
          | .peer .., .layer c _ => c == k && lockstep
          | .peer .., .object .. => lockstep
          | .peer .., _ => false
          | _, _ => true) &&
        (if Mv.compress r then
          n % 64 == 0 && Mv.budget r != 0 && (i.budgets[Mv.budget r - 1]?).any fun e => Budget.use e == 1
        else Mv.budget r == 0 || (i.budgets[Mv.budget r - 1]?).any fun e => Budget.use e == 5)
    | _, _ => false

/-- Whether the couch runs of a cluster fit the couch buffer in every beat in which one starts (10 R247). -/
def couchFits (ms : List MoveRec) : Bool :=
  let runs := ms.filter fun r => Mv.dstKind r == 5
  runs.all fun r =>
    ((runs.filter fun q => Mv.beat q ≤ Mv.beat r && Mv.beat r ≤ Mv.lastBeat q).map Mv.bytes).sum ≤ 524288

/-- Whether phase marks ascend, one for a beat. -/
def marksOk : List (Nat × Nat) → Bool
  | a :: b :: ms => a.1 < b.1 && marksOk (b :: ms)
  | _ => true

/-- The checks on a budget entry (06 Table CMP.4). -/
def budgetOk (i : Image) (e : BitVec 128) : Bool :=
  let u := Budget.use e
  e &&& Budget.reserved == 0 && 1 ≤ u && u ≤ 5 && Budget.elem e ≤ 2 &&
    (if u = 5 then Budget.elem e == 0 && Budget.b e == 0 else 16 ≤ Budget.b e && Budget.b e ≤ 1024 && Budget.cluster e < i.clusters) &&
    (u ≤ 2 || Budget.lane e == 0) &&
    (u == 1 || u == 5 || (Budget.tile e < 14 && Budget.op e < (i.opsOf (Budget.cluster e) (Budget.tile e)).length))

/-- The checks on a result-coding entry (06 R148): output length, no overlap, and a place for the footprint. DESIGN CHOICE
(log entry 160): an entry whose operation has no output region passes, and a header without blocks is written. -/
def codingOk (i : Image) (e : BitVec 128) : Bool :=
  let ops := i.opsOf (Budget.cluster e) (Budget.tile e)
  match ops[Budget.op e]? with
  | none => false
  | some r =>
    let w : Work := { c := 0, k := Budget.cluster e, t := Budget.tile e, ctx := 0, beat := 0, slots := [], img := i, no := Budget.op e, r := r }
    let (space, word, n) := w.output
    let dst := Budget.dstBase e * 4
    n % 64 == 0 && Budget.dstBase e % 16 == 0 && regionFits (Budget.tile e) (Budget.dstSpace e) (Budget.dstBase e) (footprint n) &&
      (space != Budget.dstSpace e || word * 4 + n ≤ dst || dst + footprint n ≤ word * 4)

/-- The beats in which an entry holds a lane: entry, cluster, lane, first and last beat. -/
def Image.laneUses (i : Image) : List (Nat × Nat × Nat × Nat × Nat) :=
  let moves := i.moves.flatMap fun ((_, rs) : Nat × List MoveRec) => rs.filterMap fun (r : MoveRec) =>
    if Mv.compress r then
      (i.budgets[Mv.budget r - 1]?).map fun e => (Mv.budget r - 1, Budget.cluster e, Budget.lane e, Mv.beat r, Mv.lastBeat r)
    else none
  let codes := i.budgets.zipIdx.filterMap fun (e, j) =>
    if Budget.use e = 2 then
      ((i.opsOf (Budget.cluster e) (Budget.tile e))[Budget.op e]?).map fun r => (j, Budget.cluster e, Budget.lane e, Op.beat r, Op.beat r)
    else none
  moves ++ codes

/-- Whether no lane is used by two entries at once (06 R146). -/
def Image.lanesApart (i : Image) : Bool :=
  let us := i.laneUses
  us.all fun (e, k, l, a, b) => us.all fun (f, k', l', a', b') => e == f || k != k' || l != l' || b < a' || b' < a

/-- Whether no operand is named by two entries (06 R146). -/
def Image.entriesApart (i : Image) : Bool :=
  let keys := (i.budgets.filter fun e => Budget.use e == 3 || Budget.use e == 4).map fun e =>
    (Budget.use e, Budget.cluster e, Budget.tile e, Budget.op e)
  decide keys.Nodup

/-! ### SCHED.LOAD -/

/-- Whether an image keeps every rule that the loader checks, in a partition (05 R134). -/
def imageOk (i : Image) (st : Stores) (x : Partition) (lockstep : Bool) : Bool :=
  i.clusters == x.n && i.latMode == x.live.latMode && i.beatLen ≤ x.live.beatLen &&
    (i.ops.all fun ((k, t), rs) => ascendingBeats rs && rs.zipIdx.all fun (r, no) => opOk i st rs (x.low + k) k t no r) &&
    chainsOk i && (i.moves.all fun (k, rs) => rs.all (fun r => moveRecOk i lockstep k r) && couchFits rs) && marksOk i.marks &&
    (i.budgets.all fun e => budgetOk i e && (Budget.use e != 2 || codingOk i e)) && i.lanesApart && i.entriesApart

/-- Begin to move every tier-0 tile of an image to tier 1 of its cluster (07 R158, R161); false where one finds no unit.
-/
def State.pinImage (s : State) (c : CtxNo) (base : BitVec 42) : List Nat → State × Bool
  | [] => (s, true)
  | i :: is =>
    match (s.obj? c base).bind fun o => (o.tiles[i]?).map fun t => (o, t) with
    | none => s.pinImage c base is
    | some (o, t) =>
      if t.place.tier != 0 || s.migrating c base i then s.pinImage c base is
      else
        match s.alloc (ptnOf c) (some c) 1 t.place.cluster (tileUnits o.desc) (tileUnits o.desc) with
        | (s', none) => (s', false)
        | (s', some u) => (s'.startMigration c base i ⟨1, t.place.cluster, u⟩).pinImage c base is

/-- SCHED.LOAD (05 R134, 07 R158, 08 R192). Once the image has passed every check, a promotion of one of its tiles is
given up; the image loads once every tile that lay in tier 0 has switched to tier 1 (07 R161), which waits while the run
in progress binds the image as an object. A partition in a lockstep group, forming or formed, may load moves to peers
(13 R340). -/
def schedLoadBody (base : BitVec 42) (s : State) (q : Req) : Ran :=
  withObj q base s fun o =>
    let p := ptnOf o.ctx
    if s.loaded o.ctx base then .status s stInUse
    else if o.desc.kind != kindImage then .status s stBadField
    else if (s.objPoison o 0 o.size).isSome then .status s stPoison
    else
      match readImage o.ctx base (s.readObj o 0 o.size), s.ptn? p with
      | some i, some x =>
        if !imageOk i s.stores x (x.group.any fun g => g.lockstep) then .status s stBadField
        else if s.bound o && o.tiles.any (fun t => t.place.tier == 0) then .waits
        else
          let s := s.cancelMigrations o.ctx base fun m => m.dest.tier == 0
          if s.objMigrates o.ctx base then .again s
          else
            match s.pinImage o.ctx base (List.range o.tiles.length) with
            | (s', false) => .status s' stQuota
            | (s', true) =>
              if s'.objMigrates o.ctx base then .again s' else .status { s' with images := s'.images ++ [i] } stOk
      | _, _ => .status s stBadField

def execSchedLoad (q : Req) (image : BitVec 42) (s : State) : Result :=
  .next (runCommand (.schedLoad q image) s (schedLoadBody image))

end Sys2Proof.Machine
end

