-- ==== Sys2Proof/Machine/Dispatch.lean ====
section
/-! DEFINITION. The meaning of every command: one arm per constructor of Instr. -/

namespace Sys2Proof.Machine

def exec (i : Instr) (s : State) : Host.Outcome State Fault Refusal :=
  match i with
  | .devNop q => Sys2Proof.Machine.execDevNop q s
  | .devHello q version => Sys2Proof.Machine.execDevHello q version s
  | .devQuery q => Sys2Proof.Machine.execDevQuery q s
  | .devAttest q nonce host bytes => Sys2Proof.Machine.execDevAttest q nonce host bytes s
  | .devCommit q sel => Sys2Proof.Machine.execDevCommit q sel s
  | .ptnCreate q mask share n want useWant vector => Sys2Proof.Machine.execPtnCreate q mask share n want useWant vector s
  | .ptnDestroy q p => Sys2Proof.Machine.execPtnDestroy q p s
  | .ptnBind q token => Sys2Proof.Machine.execPtnBind q token s
  | .ptnQuery q p => Sys2Proof.Machine.execPtnQuery q p s
  | .ptnStage q off region p value mask => Sys2Proof.Machine.execPtnStage q off region p value mask s
  | .ptnCommit q sel p => Sys2Proof.Machine.execPtnCommit q sel p s
  | .ctxCreate q n mirror at_ vector => Sys2Proof.Machine.execCtxCreate q n mirror at_ vector s
  | .ctxDestroy q c => Sys2Proof.Machine.execCtxDestroy q c s
  | .ctxLimit q c t0 t1 => Sys2Proof.Machine.execCtxLimit q c t0 t1 s
  | .ctxQuery q c => Sys2Proof.Machine.execCtxQuery q c s
  | .ctxSample q c record base off n => Sys2Proof.Machine.execCtxSample q c record base off n s
  | .memWrite q base off host n => Sys2Proof.Machine.execMemWrite q base off host n s
  | .memRead q base off host n => Sys2Proof.Machine.execMemRead q base off host n s
  | .memCopy q src srcOff dst dstOff n => Sys2Proof.Machine.execMemCopy q src srcOff dst dstOff n s
  | .memFill q base off pattern n => Sys2Proof.Machine.execMemFill q base off pattern n s
  | .objCreate q d => Sys2Proof.Machine.execObjCreate q d s
  | .objFree q base => Sys2Proof.Machine.execObjFree q base s
  | .objPin q base => Sys2Proof.Machine.execObjPin q base s
  | .objUnpin q base => Sys2Proof.Machine.execObjUnpin q base s
  | .objPlace q base home => Sys2Proof.Machine.execObjPlace q base home s
  | .objQuery q base => Sys2Proof.Machine.execObjQuery q base s
  | .seqOpen q a => Sys2Proof.Machine.execSeqOpen q a s
  | .seqClose q no => Sys2Proof.Machine.execSeqClose q no s
  | .seqQuery q no host => Sys2Proof.Machine.execSeqQuery q no host s
  | .kvGlobal q no n clear base off => Sys2Proof.Machine.execKvGlobal q no n clear base off s
  | .kvCommit q no a => Sys2Proof.Machine.execKvCommit q no a s
  | .kvRollback q no => Sys2Proof.Machine.execKvRollback q no s
  | .kvDrop q no n => Sys2Proof.Machine.execKvDrop q no n s
  | .pfxRegister q no p => Sys2Proof.Machine.execPfxRegister q no p s
  | .pfxRelease q v => Sys2Proof.Machine.execPfxRelease q v s
  | .schedLoad q image => Sys2Proof.Machine.execSchedLoad q image s
  | .schedUnload q image => Sys2Proof.Machine.execSchedUnload q image s
  | .schedRun q a => Sys2Proof.Machine.execSchedRun q a s
  | .schedStepset q base off n => Sys2Proof.Machine.execSchedStepset q base off n s
  | .schedStepfree q no => Sys2Proof.Machine.execSchedStepfree q no s
  | .schedStep q a => Sys2Proof.Machine.execSchedStep q a s
  | .wgtStore q base => Sys2Proof.Machine.execWgtStore q base s
  | .wgtDelete q model version => Sys2Proof.Machine.execWgtDelete q model version s
  | .wgtServe q model version session group linger => Sys2Proof.Machine.execWgtServe q model version session group linger s
  | .wgtLoad q src prot => Sys2Proof.Machine.execWgtLoad q src prot s
  | .wgtReader q base session reader => Sys2Proof.Machine.execWgtReader q base session reader s
  | .wgtSwap q base deadline src => Sys2Proof.Machine.execWgtSwap q base deadline src s
  | .wgtQuery q base => Sys2Proof.Machine.execWgtQuery q base s
  | .wgtFree q base => Sys2Proof.Machine.execWgtFree q base s
  | .fenceBarrier q => Sys2Proof.Machine.execFenceBarrier q s
  | .syncCreate q value => Sys2Proof.Machine.execSyncCreate q value s
  | .syncSignal q n inc => Sys2Proof.Machine.execSyncSignal q n inc s
  | .syncWait q n target => Sys2Proof.Machine.execSyncWait q n target s
  | .syncFree q n => Sys2Proof.Machine.execSyncFree q n s
  | .syncQuery q n => Sys2Proof.Machine.execSyncQuery q n s
  | .watchSet q a => Sys2Proof.Machine.execWatchSet q a s
  | .watchClear q mask => Sys2Proof.Machine.execWatchClear q mask s
  | .watchRead q point host => Sys2Proof.Machine.execWatchRead q point host s
  | .watchTrace q base off n => Sys2Proof.Machine.execWatchTrace q base off n s
  | .ctrRead q kind host => Sys2Proof.Machine.execCtrRead q kind host s
  | .ctrClear q => Sys2Proof.Machine.execCtrClear q s
  | .pwrCap q host floor => Sys2Proof.Machine.execPwrCap q host floor s
  | .pwrEnter q t => Sys2Proof.Machine.execPwrEnter q t s
  | .pwrMode q mode drizzle clear p => Sys2Proof.Machine.execPwrMode q mode drizzle clear p s
  | .pwrQuery q kind p island point => Sys2Proof.Machine.execPwrQuery q kind p island point s
  | .fabAnchor q claim host n => Sys2Proof.Machine.execFabAnchor q claim host n s
  | .fabQuery q kind port => Sys2Proof.Machine.execFabQuery q kind port s
  | .fabGroup q a => Sys2Proof.Machine.execFabGroup q a s
  | .fabLeave q => Sys2Proof.Machine.execFabLeave q s
  | .fabPut q src srcOff member off n => Sys2Proof.Machine.execFabPut q src srcOff member off n s
  | .fabRotate q port => Sys2Proof.Machine.execFabRotate q port s
  | .fwStage q host off n => Sys2Proof.Machine.execFwStage q host off n s
  | .fwVerify q => Sys2Proof.Machine.execFwVerify q s
  | .fwActivate q => Sys2Proof.Machine.execFwActivate q s
  | .fwQuery q => Sys2Proof.Machine.execFwQuery q s
  | .dbgChallenge q host => Sys2Proof.Machine.execDbgChallenge q host s
  | .dbgRespond q host => Sys2Proof.Machine.execDbgRespond q host s
  | .dbgRead q t => Sys2Proof.Machine.execDbgRead q t s
  | .dbgWrite q t => Sys2Proof.Machine.execDbgWrite q t s
  | .dbgSample q p record host bytes => Sys2Proof.Machine.execDbgSample q p record host bytes s
  | .dbgUnretire q stack rank => Sys2Proof.Machine.execDbgUnretire q stack rank s
  | .jtagDbgChal => Sys2Proof.Machine.execJtagDbgChal s
  | .jtagDbgResp response => Sys2Proof.Machine.execJtagDbgResp response s
  | .jtagDbgCmd packet => Sys2Proof.Machine.execJtagDbgCmd packet s
  | .jtagDbgData shiftIn => Sys2Proof.Machine.execJtagDbgData shiftIn s
  | .jtagExtest => Sys2Proof.Machine.execJtagExtest s
  | .jtagSamplePreload => Sys2Proof.Machine.execJtagSamplePreload s
  | .jtagBypass code => Sys2Proof.Machine.execJtagBypass code s
  | .sqTailWrite h r v units host => Sys2Proof.Machine.execSqTailWrite h r v units host s
  | .cqHeadWrite h r v => Sys2Proof.Machine.execCqHeadWrite h r v s
  | .packetAccept r => Sys2Proof.Machine.execPacketAccept r s
  | .eventDeliver r => Sys2Proof.Machine.execEventDeliver r s
  | .commandDeadline ring idx => Sys2Proof.Machine.execCommandDeadline ring idx s
  | .ptnCommitWrite port p value => Sys2Proof.Machine.execPtnCommitWrite port p value s
  | .devCommitWrite port value => Sys2Proof.Machine.execDevCommitWrite port value s
  | .stagedRegisterWrite port offset wide value => Sys2Proof.Machine.execStagedRegisterWrite port offset wide value s
  | .memcSpareCfgWrite port value => Sys2Proof.Machine.execMemcSpareCfgWrite port value s
  | .devFldCfgWrite port value => Sys2Proof.Machine.execDevFldCfgWrite port value s
  | .devBarStatClear port value => Sys2Proof.Machine.execDevBarStatClear port value s
  | .recoveryGo port value host => Sys2Proof.Machine.execRecoveryGo port value host s
  | .registerWrite port offset wide value => Sys2Proof.Machine.execRegisterWrite port offset wide value s
  | .wideRegisterRead port offset => Sys2Proof.Machine.execWideRegisterRead port offset s
  | .unsupportedAccess port offset write => Sys2Proof.Machine.execUnsupportedAccess port offset write s
  | .runDispatch p => Sys2Proof.Machine.execRunDispatch p s
  | .drizzleRampDone p => Sys2Proof.Machine.execDrizzleRampDone p s
  | .memberCollect c member => Sys2Proof.Machine.execMemberCollect c member s
  | .beatRelease p ns => Sys2Proof.Machine.execBeatRelease p ns s
  | .runComplete p => Sys2Proof.Machine.execRunComplete p s
  | .slip p => Sys2Proof.Machine.execSlip p s
  | .slipAbandon p => Sys2Proof.Machine.execSlipAbandon p s
  | .mm c t => Sys2Proof.Machine.execMm c t s
  | .mmb c t => Sys2Proof.Machine.execMmb c t s
  | .ptbuild c t => Sys2Proof.Machine.execPtbuild c t s
  | .scload c t => Sys2Proof.Machine.execScload c t s
  | .cbload c t => Sys2Proof.Machine.execCbload c t s
  | .move c t => Sys2Proof.Machine.execMove c t s
  | .fill c t => Sys2Proof.Machine.execFill c t s
  | .filler c t => Sys2Proof.Machine.execFiller c t s
  | .mms c t => Sys2Proof.Machine.execMms c t s
  | .attd c t => Sys2Proof.Machine.execAttd c t s
  | .lsbuild c t => Sys2Proof.Machine.execLsbuild c t s
  | .lscan c t => Sys2Proof.Machine.execLscan c t s
  | .lselect c t => Sys2Proof.Machine.execLselect c t s
  | .rescore c t => Sys2Proof.Machine.execRescore c t s
  | .smerge c t => Sys2Proof.Machine.execSmerge c t s
  | .rowsum c t => Sys2Proof.Machine.execRowsum c t s
  | .resultCoding c t => Sys2Proof.Machine.execResultCoding c t s
  | .narrowStore c t space byte size value tag => Sys2Proof.Machine.execNarrowStore c t space byte size value tag s
  | .narrowLoad c t space byte size => Sys2Proof.Machine.execNarrowLoad c t space byte size s
  | .coalesceWriteback c t space line => Sys2Proof.Machine.execCoalesceWriteback c t space line s
  | .headboxMove c => Sys2Proof.Machine.execHeadboxMove c s
  | .compressingMove c => Sys2Proof.Machine.execCompressingMove c s
  | .codedCopy c => Sys2Proof.Machine.execCodedCopy c s
  | .pageRunMove c => Sys2Proof.Machine.execPageRunMove c s
  | .couchRun c => Sys2Proof.Machine.execCouchRun c s
  | .peerMove c => Sys2Proof.Machine.execPeerMove c s
  | .hbTxnIssue c id => Sys2Proof.Machine.execHbTxnIssue c id s
  | .hbTxnRetire c id chunk o => Sys2Proof.Machine.execHbTxnRetire c id chunk o s
  | .rankCopyDone stack => Sys2Proof.Machine.execRankCopyDone stack s
  | .keeperPoisonAction c line => Sys2Proof.Machine.execKeeperPoisonAction c line s
  | .patrolScrub c line o => Sys2Proof.Machine.execPatrolScrub c line o s
  | .refresh stack reading => Sys2Proof.Machine.execRefresh stack reading s
  | .tempReadout die temps => Sys2Proof.Machine.execTempReadout die temps s
  | .ceilingStep => Sys2Proof.Machine.execCeilingStep s
  | .inputUndervoltage => Sys2Proof.Machine.execInputUndervoltage s
  | .railOvercurrent => Sys2Proof.Machine.execRailOvercurrent s
  | .thermalTrip die stack => Sys2Proof.Machine.execThermalTrip die stack s
  | .refclkLoss => Sys2Proof.Machine.execRefclkLoss s
  | .powerEstimate p mw => Sys2Proof.Machine.execPowerEstimate p mw s
  | .ageingReplan island margins => Sys2Proof.Machine.execAgeingReplan island margins s
  | .tileMigrate c base tile => Sys2Proof.Machine.execTileMigrate c base tile s
  | .tilePromote p => Sys2Proof.Machine.execTilePromote p s
  | .quotaReclaim p => Sys2Proof.Machine.execQuotaReclaim p s
  | .contextReset c => Sys2Proof.Machine.execContextReset c s
  | .slotSettle p => Sys2Proof.Machine.execSlotSettle p s
  | .partitionReset p => Sys2Proof.Machine.execPartitionReset p s
  | .coreRestart island => Sys2Proof.Machine.execCoreRestart island s
  | .coreException island => Sys2Proof.Machine.execCoreException island s
  | .txnWatchdog c move chunk => Sys2Proof.Machine.execTxnWatchdog c move chunk s
  | .coreHeartbeatWatchdog island => Sys2Proof.Machine.execCoreHeartbeatWatchdog island s
  | .coreProgressWatchdog island => Sys2Proof.Machine.execCoreProgressWatchdog island s
  | .ctxResetWatchdog c => Sys2Proof.Machine.execCtxResetWatchdog c s
  | .ptnResetWatchdog p => Sys2Proof.Machine.execPtnResetWatchdog p s
  | .coreRestartWatchdog island => Sys2Proof.Machine.execCoreRestartWatchdog island s
  | .shardReceive c base tile bs => Sys2Proof.Machine.execShardReceive c base tile bs s
  | .waveRelease p => Sys2Proof.Machine.execWaveRelease p s
  | .shardMissing c base tile => Sys2Proof.Machine.execShardMissing c base tile s
  | .shardOverdue c base tile => Sys2Proof.Machine.execShardOverdue c base tile s
  | .resendRequest no receiver tile => Sys2Proof.Machine.execResendRequest no receiver tile s
  | .sessionLingerExpiry no => Sys2Proof.Machine.execSessionLingerExpiry no s
  | .linkSignal k => Sys2Proof.Machine.execLinkSignal k s
  | .trainingTimeout k => Sys2Proof.Machine.execTrainingTimeout k s
  | .refusedRetry k => Sys2Proof.Machine.execRefusedRetry k s
  | .helloFrame k f serial nonce iface addr => Sys2Proof.Machine.execHelloFrame k f serial nonce iface addr s
  | .proofFrame k f proof => Sys2Proof.Machine.execProofFrame k f proof s
  | .rotateFrame k f epoch => Sys2Proof.Machine.execRotateFrame k f epoch s
  | .keyRotationDue k => Sys2Proof.Machine.execKeyRotationDue k s
  | .rotationAckTimeout k => Sys2Proof.Machine.execRotationAckTimeout k s
  | .dataFrame k f => Sys2Proof.Machine.execDataFrame k f s
  | .multicastFrame k f => Sys2Proof.Machine.execMulticastFrame k f s
  | .ackFrame k f first n beyond => Sys2Proof.Machine.execAckFrame k f first n beyond s
  | .idleFrame k => Sys2Proof.Machine.execIdleFrame k s
  | .linkStateFrame k f ls => Sys2Proof.Machine.execLinkStateFrame k f ls s
  | .addressAssign serial addr => Sys2Proof.Machine.execAddressAssign serial addr s
  | .frameResendTimer part dst dpart seq => Sys2Proof.Machine.execFrameResendTimer part dst dpart seq s
  | .portSilenceTimeout k => Sys2Proof.Machine.execPortSilenceTimeout k s
  | .fecLockLoss k => Sys2Proof.Machine.execFecLockLoss k s
  | .routeInstall => Sys2Proof.Machine.execRouteInstall s
  | .joinFrame k f j => Sys2Proof.Machine.execJoinFrame k f j s
  | .groupFormTimeout p => Sys2Proof.Machine.execGroupFormTimeout p s
  | .leaveFrame k f moved => Sys2Proof.Machine.execLeaveFrame k f moved s
  | .doneFrame k f beat admitted => Sys2Proof.Machine.execDoneFrame k f beat admitted s
  | .releaseFrame k f beat => Sys2Proof.Machine.execReleaseFrame k f beat s
  | .heldFrame k f => Sys2Proof.Machine.execHeldFrame k f s
  | .abortFrame k f => Sys2Proof.Machine.execAbortFrame k f s
  | .treeJoin k f reader group => Sys2Proof.Machine.execTreeJoin k f reader group s
  | .branchPrune reader group k => Sys2Proof.Machine.execBranchPrune reader group k s
  | .autoLull => Sys2Proof.Machine.execAutoLull s
  | .powerStateEntry => Sys2Proof.Machine.execPowerStateEntry s
  | .wakeLine => Sys2Proof.Machine.execWakeLine s
  | .hostLinkConnect link => Sys2Proof.Machine.execHostLinkConnect link s
  | .thaw => Sys2Proof.Machine.execThaw s
  | .tier1Ready => Sys2Proof.Machine.execTier1Ready s
  | .powerOn => Sys2Proof.Machine.execPowerOn s
  | .powerRemove => Sys2Proof.Machine.execPowerRemove s
  | .fieldPowerOn => Sys2Proof.Machine.execFieldPowerOn s
  | .bootRomStart => Sys2Proof.Machine.execBootRomStart s
  | .flashOpComplete d block op failed => Sys2Proof.Machine.execFlashOpComplete d block op failed s
  | .flashPatrol stripe pages => Sys2Proof.Machine.execFlashPatrol stripe pages s
  | .portAttach port gen4 => Sys2Proof.Machine.execPortAttach port gen4 s
  | .portDetach loss => Sys2Proof.Machine.execPortDetach loss s
  | .functionLevelReset port => Sys2Proof.Machine.execFunctionLevelReset port s
  | .orphanExpiry p => Sys2Proof.Machine.execOrphanExpiry p s
  | .shedDirective f => Sys2Proof.Machine.execShedDirective f s
  | .shedPin level => Sys2Proof.Machine.execShedPin level s
  | .capRequest f => Sys2Proof.Machine.execCapRequest f s
  | .fieldWake f => Sys2Proof.Machine.execFieldWake f s
  | .attestationRequest f => Sys2Proof.Machine.execAttestationRequest f s
  | .quoteFragment => Sys2Proof.Machine.execQuoteFragment s
  | .fieldUnknownFrame f => Sys2Proof.Machine.execFieldUnknownFrame f s
  | .beacon => Sys2Proof.Machine.execBeacon s
  | .faultSummary => Sys2Proof.Machine.execFaultSummary s
  | .busOff => Sys2Proof.Machine.execBusOff s
  | .wardenHeartbeatLoss => Sys2Proof.Machine.execWardenHeartbeatLoss s
  | .slotDue p => Sys2Proof.Machine.execSlotDue p s
  | .rngHealthFail => Sys2Proof.Machine.execRngHealthFail s
  | .rngReseed => Sys2Proof.Machine.execRngReseed s
  | .debugSessionExpiry ch => Sys2Proof.Machine.execDebugSessionExpiry ch s
  | .refclkPresent => Sys2Proof.Machine.execRefclkPresent s
  | .fieldVddLoss => Sys2Proof.Machine.execFieldVddLoss s
  | .inputVoltageRestored => Sys2Proof.Machine.execInputVoltageRestored s
  | .linkTrainingComplete k => Sys2Proof.Machine.execLinkTrainingComplete k s
  | .rotateAcknowledgement k f => Sys2Proof.Machine.execRotateAcknowledgement k f s
  | .uncorrectableFecCodeword k => Sys2Proof.Machine.execUncorrectableFecCodeword k s
  | .portHealthRestored k => Sys2Proof.Machine.execPortHealthRestored k s
  | .linkCredit k hopClass channel n => Sys2Proof.Machine.execLinkCredit k hopClass channel n s
  | .flashReadComplete model version tile r => Sys2Proof.Machine.execFlashReadComplete model version tile r s

end Sys2Proof.Machine
end

