-- ==== Sys2Proof/Safety.lean ====
section
/-! DEFINITION. The terms in which claims about the device speak: a ring command that may start (01 R33, R34), the
canonical form of every memory, and a cluster in one partition at most (01 R20). No step of the device faults and none is
refused, so a run is safe when it keeps these. -/

namespace Sys2Proof.Machine

/-- The command i with header q has been accepted, has not started and may start now: it is the accepted command that
carries q, and 01 R34 and R36 let it start. -/
def Runnable (i : Instr) (q : Req) (s : State) : Prop :=
  ∃ a, s.startable i = some a ∧ a.q = q ∧ s.orderAllows a = true

/-- The step ends in a next state. -/
def Continues (o : Host.Outcome State Fault Refusal) : Prop := ∃ t, o = .next t

/-- The tile stores' byte stores are in canonical form. -/
def Stores.wf (st : Stores) : Bool :=
  Mem.wf st.bytes && Mem.wf st.scales && Mem.wf st.codebooks && Mem.wf st.products && Mem.wf st.scores

/-- A host port's memories are in canonical form. -/
def HostSide.wf (h : HostSide) : Bool := Mem.wf h.mem && Mem.wf h.wardenMem

/-- Every memory of the device and of its hosts is in canonical form: tier 1, tier 0, the tile stores, the memory of both
hosts and that of the host rings, and the TAP's window. -/
def State.memoryOk (s : State) : Bool :=
  Mem.wf s.tier1 && Mem.wf s.layer && s.stores.wf && (s.host 0).wf && (s.host 1).wf &&
    Mem.wf s.tap.window

/-- Whether a partition holds a cluster. -/
def Partition.hasCluster (x : Partition) (c : Nat) : Bool := x.low ≤ c && c < x.low + x.n

/-- No cluster belongs to two partitions (01 R20). -/
def State.clustersApart (s : State) : Prop :=
  ∀ p r : Nat, ∀ x y : Partition, s.ptn? p = some x → s.ptn? r = some y → p ≠ r →
    ∀ c, x.hasCluster c = true → y.hasCluster c = false

end Sys2Proof.Machine
end

