-- ==== Sys2Proof/Certificates/Slice0/Obligations.lean ====
section
/-! DEFINITION. Statements for the provers: what every command of the device does when it runs, what it leaves as it was,
and what every step keeps. A ring command is stated from a state in which it may start (Runnable), with its effect on
the state and the status and results of its completion; State.finish, whose own statement is CompletionEntry, writes the
completion. -/

open Sys2Proof Sys2Proof.Machine

/-! ### The machine -/

/-- A step runs the command at the front of the queue with the queue's rest. -/
def Obligations.StepRunsFront : Prop :=
  ∀ (s : State) (c : Instr) (rest : List Instr), s.pending = c :: rest → step s = exec c { s with pending := rest }

/-- On an empty queue a microsecond passes, in which the copies of retiring ranks go on and the frames that the device
sent to itself arrive; with no rank retiring and no such frame nothing else happens: the model's choice (log entry 2).
No step faults and none is refused: every command has an effect. -/
def Obligations.IdlesAnswers : Prop :=
  (∀ s : State, s.pending = [] → step s = .next s.tick ∧ s.tick.now = s.now + 1 ∧
     ((∀ i < 6, (s.stackRanks i).retiring = none) → s.felt.own = [] → s.tick = { s with now := s.now + 1 })) ∧
  (∀ s : State, Continues (step s))

/-- The device after reset: Run, no host attached, no partition, no context, no object, the command queue empty, the
device-scope registers at the values of 15 Tables PWR.8 and PWR.9, 16 Table FLT.9, 13 Table FAB.5 and 20 Table OBS.8,
and every memory in canonical form. -/
def Obligations.ResetState : Prop :=
  State.reset.power = .run ∧ (∀ h, (State.reset.host h).attached = false) ∧ (∀ p, State.reset.ptn? p = none) ∧
  State.reset.ctxs = [] ∧ State.reset.objs = [] ∧ State.reset.pending = [] ∧
  State.reset.live.pwrCfg = 0x322#64 ∧ State.reset.live.pwrCap = 0x780258#64 ∧ State.reset.live.fab = 0x21000#64 ∧
  State.reset.live.squall = 0x258203c18144#64 ∧ State.reset.live.obs = 3#64 ∧
  State.reset.staged = State.reset.live ∧ State.reset.memoryOk = true

/-- Every step keeps every memory of the device and of its hosts in canonical form. -/
def Obligations.MemoryKept : Prop :=
  ∀ s t : State, s.memoryOk = true → step s = .next t → t.memoryOk = true

/-- Every step takes one command from the front of the queue and leaves the others in their order: no command's effect
touches the queue. -/
def Obligations.QueueKept : Prop :=
  ∀ s t : State, step s = .next t → t.pending = s.pending.tail

/-- Decoding the packet of every well-formed ring command gives the command back, with every field. -/
def Obligations.PacketRoundTrip : Prop :=
  ∀ (i : Instr) (q : Req), i.wellFormed = true → i.req? = some q → Packet.decode q.ring q.idx (Packet.encode i) = some i

/-- A ring command acts only once: a command that is not among the accepted ones, or has started, changes nothing, and
one that 01 R34 or R36 holds back changes nothing yet. -/
def Obligations.OnlyAccepted : Prop :=
  ∀ (i : Instr) (s : State) (body : State → Req → Ran),
    (s.startable i = none → runCommand i s body = s) ∧
    (∀ a, s.startable i = some a → s.orderAllows a = false → runCommand i s body = s)

/-- The completion of an accepted command of a host ring: it leaves the accepted commands; its 32-byte entry, with the
phase bit of the counter, stands at the completion counter, which advances by one; nothing below the entry's slot and
nothing beyond it in the ring's memory changes; and only the host sides, the accepted commands, the interrupts and the
idle clock change. -/
def Obligations.CompletionEntry : Prop :=
  ∀ (s : State) (q : Req) (h : Fin 2) (a : Accepted) (st r0 r1 : Nat),
    q.ring = .host h → q.counters = false → (s.accepted.find? fun x => x.q == q) = some a → a.void = false →
    Mem.wf (s.host h).wardenMem = true →
    let rp := (s.host h).ring
    let at_ := rp.cqOffset (rp.cqTail.toNat % rp.n)
    let t := s.finish q st r0 r1
    Mem.read (t.host h).wardenMem at_ 32 =
      Bits.toBytes 32 (completionBody q.ring q.tag.toNat a.cmd.opcode st r0 r1 (s.now - a.since) false + rp.phase * 2 ^ 52) ∧
    (t.host h).ring = { rp with cqTail := rp.cqTail + 1 } ∧
    t.accepted = s.accepted.filter (fun x => x.q != q) ∧
    (∀ b, (b < at_ ∨ at_ + 32 ≤ b) → Mem.get (t.host h).wardenMem b = Mem.get (s.host h).wardenMem b) ∧
    t = { s with hosts := t.hosts, accepted := t.accepted, interrupts := t.interrupts, idleSince := s.now }

/-! ### Rings -/

/-- Doorbell writes of a port that may ring them (12 R295, R296, 15 R374): the device wakes from Lull or Calm, and the
units and host bytes written before the doorbell are stored; a submission counter that exposes at most the ring's
entries and does not go back is then taken, another is not, and an event reports it; a completion head that does not
pass the completion counter is taken, another is reported. Completes: sqTailWrite, cqHeadWrite. Acceptance of a packet
(12 R297, R298, R300, 16 R409): with a packet exposed, room for its completion, the ring accepting, its turn come and
no broken node above it, the ring is served and the submission head passes the packet's units; a packet that decodes
and passes every check joins the accepted commands at the end, not started; another completes with the status that
refuses it, ST_BAD_FIELD where it decodes to none. A ring below a broken node is served and its context faults.
Completes: packetAccept. Delivery of an event (12 R302, 15 R372): where entries can be written to the ring (in Run and
Lull, and to a host ring in Calm too) and a completion slot is free beyond those held for accepted commands, the
oldest event of the ring's buffer leaves it and its entry is written, with an interrupt; where events were dropped,
EV_OVERFLOW with their number joins the buffer first. Elsewhere the event waits. Completes: eventDeliver. -/
def Obligations.RingTraffic : Prop :=
  ((∀ (s : State) (h : Fin 2) (r : Ring) (v : BitVec 32) (units : List (BitVec 512)) (host : HostBytes) (rp : RingPair),
     s.wake.ringsDoorbell h r = true → s.wake.ring? r = some rp →
     let t := (s.wake.modHost h fun x => { x with mem := host.foldl (fun m (a, b) => Mem.put m a b) x.mem }).storeUnits r
       rp.sqTail.toNat units
     exec (.sqTailWrite h r v units host) s =
       .next (if rp.tailOk v then t.modRing r fun x => { x with sqTail := v } else t.event r 0x0002 1 v.toNat 0)) ∧
   (∀ (s : State) (h : Fin 2) (r : Ring) (v : BitVec 32) (rp : RingPair),
     s.wake.ringsDoorbell h r = true → s.wake.ring? r = some rp →
     exec (.cqHeadWrite h r v) s =
       .next (if rp.headOk v then s.wake.modRing r fun x => { x with cqHead := v }
         else s.wake.event r 0x0002 2 v.toNat 0))) ∧
  (∀ (s : State) (r : Ring) (rp : RingPair) (w : Nat),
     s.ring? r = some rp → w = Bits.ofBytes (s.readRing r (rp.sqHead.toNat % rp.n * 64) 64) →
     s.accepts r = true → rp.sqTail ≠ rp.sqHead → s.roomFor r rp (unitsOf w) = true → s.isTurn r = true →
     let t := (s.serve r).modRing r fun x => { x with sqHead := x.sqHead + BitVec.ofNat 32 (unitsOf w) }
     (∀ o, s.brokenRing r = some o → exec (.packetAccept r) s = .next ((s.serve r).nodeFault o)) ∧
     (s.brokenRing r = none →
     (Packet.decode r rp.sqHead w = none → exec (.packetAccept r) s = .next (t.refuse r rp.sqHead w stBadField)) ∧
     (∀ i, Packet.decode r rp.sqHead w = some i →
       (∀ st, t.refusal r i = some st → exec (.packetAccept r) s = .next (t.refuse r rp.sqHead w st)) ∧
       (t.refusal r i = none → exec (.packetAccept r) s =
         .next { t with accepted := t.accepted ++
           [{ q := Packet.req r rp.sqHead (Packet.fields Packet.header (w % 2 ^ 128)), cmd := i, since := s.now,
              cutOff := i.opcode == 0x90 && (Packet.req r rp.sqHead (Packet.fields Packet.header (w % 2 ^ 128))).fbScope == 3 &&
                !t.hostUp (Packet.req r rp.sqHead (Packet.fields Packet.header (w % 2 ^ 128))) }] })))) ∧
  (∀ (s : State) (r : Ring) (rp : RingPair) (b : EventBuf) (e : Event) (rest : List Event),
     s.ring? r = some rp → s.events? r = some b → b.waiting = e :: rest →
     (s.writesTo r = false ∨ rp.freeSlots ≤ (s.acceptedOf r).length → exec (.eventDeliver r) s = .next s) ∧
     (s.writesTo r = true → (s.acceptedOf r).length < rp.freeSlots →
       let t := s.modEvents r fun x => { x with waiting := rest }
       (b.dropped = 0 → exec (.eventDeliver r) s = .next (t.writeEntry r (eventBody e) true)) ∧
       (b.dropped ≠ 0 → exec (.eventDeliver r) s =
         .next (((t.modEvents r fun x => { x with dropped := 0 }).event r 0x0001 b.dropped 0 0).writeEntry r (eventBody e) true))))

/-! ### DEV, FENCE and SYNC -/

/-- DEV.NOP, DEV.QUERY, DEV.HELLO and FENCE.BARRIER: they complete with ST_OK and their results; DEV.HELLO records the
runtime's version on its port, and is denied on a context's ring; a fence of host scope completes with
ST_HOST_DETACHED where no host is reached or the host was detached since the fence was issued (01 R38). Completes:
devNop, devQuery, devHello, fenceBarrier. SYNC objects of a partition (12 R294, R311). SYNC.CREATE makes one with the
value given, under a number that none of the partition's objects has, and is refused with ST_LIMIT where 4,096 stand;
SYNC.QUERY answers the value; SYNC.WAIT completes at once where the target is met and otherwise goes on waiting;
SYNC.SIGNAL by 0 completes with ST_OK_EMPTY; SYNC.SIGNAL adds, saturating, and completes the waits whose target is
reached; SYNC.FREE ends its waits with ST_NO_OBJECT and takes the object out. A host ring is denied, and a number that
names none of the partition's is ST_NO_OBJECT. Completes: syncCreate, syncSignal, syncWait, syncFree, syncQuery. -/
def Obligations.DevAndSync : Prop :=
  ((∀ (s : State) (q : Req), Runnable (.devNop q) q s → exec (.devNop q) s = .next ((s.start q).finish q stOk 0 0)) ∧
   (∀ (s : State) (q : Req), Runnable (.devQuery q) q s →
     exec (.devQuery q) s = .next ((s.start q).finish q stOk Config.serial.toNat 0x71601100)) ∧
   (∀ (s : State) (q : Req) (h : Fin 2) (v : BitVec 32), Runnable (.devHello q v) q s → q.ring = .host h →
     exec (.devHello q v) s = .next (((s.start q).modHost h fun x => { x with rtVer := v, hello := true }).finish q stOk
       s.fw.running.iface.toNat 0)) ∧
   (∀ (s : State) (q : Req) (c : CtxNo) (v : BitVec 32), Runnable (.devHello q v) q s → q.ring = .ctx c →
     exec (.devHello q v) s = .next ((s.start q).finish q stDenied 0 0)) ∧
   (∀ (s : State) (q : Req), Runnable (.fenceBarrier q) q s → (q.fbScope = 3 → s.hostUp q = true ∧ ∀ a ∈ s.accepted, a.q = q → a.cutOff = false) →
     exec (.fenceBarrier q) s = .next ((s.start q).finish q stOk 0 0)) ∧
   (∀ (s : State) (q : Req), Runnable (.fenceBarrier q) q s → q.fbScope = 3 →
     (s.hostUp q = false ∨ ∃ a ∈ s.accepted, a.q = q ∧ a.cutOff = true) →
     exec (.fenceBarrier q) s = .next ((s.start q).finish q stHostDetached 0 0))) ∧
  ((∀ (s : State) (q : Req) (v : BitVec 64) (n : BitVec 12) (k : BitVec 64), k ≠ 0 →
     ∀ i ∈ [.syncQuery q n, .syncWait q n v, .syncSignal q n k, .syncFree q n], Runnable i q s →
       (∀ h, q.ring = .host h → exec i s = .next ((s.start q).finish q stDenied 0 0)) ∧
       (∀ c, q.ring = .ctx c → s.sync? (ptnOf c) n = none → exec i s = .next ((s.start q).finish q stNoObject 0 0))) ∧
   (∀ (s : State) (q : Req) (v : BitVec 64), Runnable (.syncCreate q v) q s →
     (∀ h, q.ring = .host h → exec (.syncCreate q v) s = .next ((s.start q).finish q stDenied 0 0)) ∧
     (∀ c, q.ring = .ctx c → s.ptn? (ptnOf c) = none → exec (.syncCreate q v) s = .next ((s.start q).finish q stNoObject 0 0))) ∧
   (∀ (s : State) (q : Req) (c : CtxNo) (x : Partition) (v : BitVec 64), Runnable (.syncCreate q v) q s → q.ring = .ctx c →
     s.ptn? (ptnOf c) = some x → (∃ k < 4096, k ∉ x.syncs.map fun y => y.no.toNat) →
     ∃ n : Nat, n < 4096 ∧ n ∉ (x.syncs.map fun y => y.no.toNat) ∧
       exec (.syncCreate q v) s = .next (({ s.start q with free := s.free + 1 }.modPtn (ptnOf c) fun z =>
         { z with syncs := z.syncs ++ [({ no := BitVec.ofNat 12 n, value := v } : Sync)] }).finish q stOk n 0)) ∧
   (∀ (s : State) (q : Req) (c : CtxNo) (x : Partition) (v : BitVec 64), Runnable (.syncCreate q v) q s → q.ring = .ctx c →
     s.ptn? (ptnOf c) = some x → (∀ k < 4096, k ∈ x.syncs.map fun y => y.no.toNat) →
     exec (.syncCreate q v) s = .next ((s.start q).finish q stLimit 0 0)) ∧
   (∀ (s : State) (q : Req) (c : CtxNo) (n : BitVec 12) (y : Sync), Runnable (.syncQuery q n) q s → q.ring = .ctx c →
     s.sync? (ptnOf c) n = some y → exec (.syncQuery q n) s = .next ((s.start q).finish q stOk y.value.toNat 0)) ∧
   (∀ (s : State) (q : Req) (c : CtxNo) (n : BitVec 12) (v : BitVec 64) (y : Sync), Runnable (.syncWait q n v) q s →
     q.ring = .ctx c → s.sync? (ptnOf c) n = some y →
     (v.toNat ≤ y.value.toNat → exec (.syncWait q n v) s = .next ((s.start q).finish q stOk 0 0)) ∧
     (y.value.toNat < v.toNat → exec (.syncWait q n v) s = .next (s.start q))) ∧
   (∀ (s : State) (q : Req) (n : BitVec 12), Runnable (.syncSignal q n 0) q s →
     exec (.syncSignal q n 0) s = .next ((s.start q).finish q stOkEmpty 0 0)) ∧
   (∀ (s : State) (q : Req) (c : CtxNo) (n : BitVec 12) (v : BitVec 64) (y : Sync), Runnable (.syncSignal q n v) q s →
     q.ring = .ctx c → v ≠ 0 → s.sync? (ptnOf c) n = some y →
     let sum := BitVec.ofNat 64 (min (y.value.toNat + v.toNat) (2 ^ 64 - 1))
     let t := (s.start q).modPtn (ptnOf c) fun x =>
       { x with syncs := Lists.modifyIf (fun z => z.no == n) (fun z => { z with value := sum }) x.syncs }
     exec (.syncSignal q n v) s = .next ((((t.waitsOn (ptnOf c) n).filter fun w => w.2.toNat ≤ sum.toNat).foldl
       (fun st w => st.finish w.1 stOk 0 0) t).finish q stOk 0 0)) ∧
   (∀ (s : State) (q : Req) (c : CtxNo) (n : BitVec 12) (y : Sync), Runnable (.syncFree q n) q s → q.ring = .ctx c →
     s.sync? (ptnOf c) n = some y →
     exec (.syncFree q n) s = .next (((((s.start q).waitsOn (ptnOf c) n).foldl (fun st w => st.finish w.1 stNoObject 0 0)
       (s.start q)).modPtn (ptnOf c) fun x => { x with syncs := x.syncs.filter fun z => z.no != n }).finish q stOk 0 0)))

/-! ### Objects and their bytes -/

/-- OBJ.CREATE (07 R154, R157, R159, R170): a cluster index that the partition does not have is refused with
ST_BAD_FIELD; a length of 0 completes with ST_OK_EMPTY; a context that holds 65,536 objects, or has no free span of
the length, with ST_LIMIT and no other effect. Otherwise the object is created (createObj) and res0 is its base, or it
finds no room and is refused with that status; in pool mode evictions make room in tier 0 for it first, and where they
have begun migrations (or some were under way) the command runs again after them. In quota mode nothing is evicted.
Completes: objCreate. A creation that succeeds gives a base that is not 0 and is a multiple of the residence tile, for
a context with fewer than 65,536 objects; one that does not is refused with ST_LIMIT or ST_QUOTA, and one of a context
with 65,536 objects with ST_LIMIT and no other effect (07 R154, R159). -/
def Obligations.ObjectCreation : Prop :=
  (∀ (s : State) (q : Req) (d : ObjDesc) (c : CtxNo) (x : Partition), Runnable (.objCreate q d) q s → q.ring = .ctx c →
     s.ptn? (ptnOf c) = some x →
     let room := (s.start q).createRoom (ptnOf c) d (x.low + d.clu.toNat)
     (x.n ≤ d.clu.toNat → exec (.objCreate q d) s = .next ((s.start q).finish q stBadField 0 0)) ∧
     (d.clu.toNat < x.n → d.length = 0 → exec (.objCreate q d) s = .next ((s.start q).finish q stOkEmpty 0 0)) ∧
     (d.clu.toNat < x.n → d.length ≠ 0 → (s.start q).objFits c d (tilesOf d) = false →
       exec (.objCreate q d) s = .next ((s.start q).finish q stLimit 0 0)) ∧
     (d.clu.toNat < x.n → d.length ≠ 0 → (s.start q).objFits c d (tilesOf d) = true →
       d.home ≠ 0 ∨ s.pooled (ptnOf c) = false ∨ room.carried (ptnOf c) none 0 = 0 →
       exec (.objCreate q d) s = .next
         (match room.createObj (ptnOf c) c d (tilesOf d) (x.low + d.clu.toNat) with
         | (t, .ok base) => t.finish q stOk base.toNat 0
         | (t, .error st) => t.finish q st 0 0)) ∧
     (d.clu.toNat < x.n → d.length ≠ 0 → (s.start q).objFits c d (tilesOf d) = true → d.home = 0 →
       s.pooled (ptnOf c) = true → room.carried (ptnOf c) none 0 ≠ 0 → exec (.objCreate q d) s = .next (room.resume q)) ∧
     (s.pooled (ptnOf c) = false → room = s.start q)) ∧
  (∀ (s : State) (p : Nat) (c : CtxNo) (d : ObjDesc) (tiles cluster : Nat), 0 < tiles →
     match s.createObj p c d tiles cluster with
     | (_, .ok base) => base ≠ 0 ∧ base.toNat % tileBytes d = 0 ∧ s.objCount c < 65536
     | (t, .error st) => (st = stLimit ∨ st = stQuota) ∧ (65536 ≤ s.objCount c → st = stLimit ∧ t = s))

/-- OBJ.PIN, OBJ.UNPIN, OBJ.PLACE, OBJ.FREE and OBJ.QUERY of an object of the issuing context (07 R157 to R163, R172).
A base that names no object is refused with ST_NO_OBJECT; an object below a broken node, but by OBJ.FREE, with
ST_POISON; one of a kind that the device creates with ST_BAD_FIELD, but by OBJ.QUERY. OBJ.PIN sets the pin bit of a
loaded image, and of an object whose tiles all lie in its home tier, whose migrations to the other tier it gives up;
of another that the run in progress binds it waits, and of one that it does not bind it begins the moves and runs
again, or is refused with ST_QUOTA (pinAway). OBJ.UNPIN is refused with ST_IN_USE where an image is loaded from the
object; otherwise it clears the pin bit, and a reclaim that ended with an excess goes on. OBJ.PLACE of a pinned object
is refused with ST_BAD_FIELD, of a loaded image with ST_IN_USE; it waits while the run in progress binds the object;
otherwise it gives the object the home and begins to move what fits there, and runs again while any tile moves, or
with none moving completes with the number of tiles left outside the home. OBJ.FREE of a loaded image is refused with
ST_IN_USE; otherwise the object is taken out, and a sequence whose input it was becomes lost where it can no longer be
recomputed. OBJ.QUERY answers the descriptor's first word and its length. Completes: objFree, objPin, objUnpin,
objPlace, objQuery. An object taken out is gone with its migrations, no other object changes, only the tiers and
translations change beside them, of an unprotected one no byte of the tiers, and the units of a protected one read 0
(07 R158, 14 R358). -/
def Obligations.ObjectChanges : Prop :=
  ((∀ (s : State) (q : Req) (c : CtxNo) (base : BitVec 42) (home : BitVec 2), q.ring = .ctx c → s.obj? c base = none →
     ∀ i ∈ ([.objPin q base, .objUnpin q base, .objPlace q base home, .objFree q base, .objQuery q base] : List Instr),
       Runnable i q s → exec i s = .next ((s.start q).finish q stNoObject 0 0)) ∧
   (∀ (s : State) (q : Req) (c : CtxNo) (base : BitVec 42) (home : BitVec 2) (o : Obj), q.ring = .ctx c →
     s.obj? c base = some o →
     (o.broken.isSome → ∀ i ∈ ([.objPin q base, .objUnpin q base, .objPlace q base home, .objQuery q base] : List Instr),
       Runnable i q s → exec i s = .next ((s.start q).finish q stPoison 0 0)) ∧
     (o.broken = none → o.ofDevice = true →
       ∀ i ∈ ([.objPin q base, .objUnpin q base, .objPlace q base home] : List Instr),
         Runnable i q s → exec i s = .next ((s.start q).finish q stBadField 0 0))) ∧
   (∀ (s : State) (q : Req) (c : CtxNo) (base : BitVec 42) (o : Obj), Runnable (.objPin q base) q s → q.ring = .ctx c →
     s.obj? c base = some o → o.broken = none → o.ofDevice = false →
     let t := (s.start q).setPin o.ctx base true
     (s.loaded o.ctx base = true → exec (.objPin q base) s = .next (t.finish q stOk 0 0)) ∧
     (s.loaded o.ctx base = false → (∀ k ∈ o.tiles, k.place.tier = o.desc.home.toNat) → exec (.objPin q base) s =
       .next ((t.cancelMigrations o.ctx base fun m => m.dest.tier != o.desc.home.toNat).finish q stOk 0 0)) ∧
     (s.loaded o.ctx base = false → (∃ k ∈ o.tiles, k.place.tier ≠ o.desc.home.toNat) →
       (s.bound o = true → exec (.objPin q base) s = .next s) ∧
       (s.bound o = false → exec (.objPin q base) s = .next
         (match (s.start q).pinAway (ptnOf o.ctx) o with
         | (u, some st) => u.finish q st 0 0
         | (u, none) => u.resume q)))) ∧
   (∀ (s : State) (q : Req) (c : CtxNo) (base : BitVec 42) (o : Obj), Runnable (.objUnpin q base) q s → q.ring = .ctx c →
     s.obj? c base = some o → o.broken = none → o.ofDevice = false →
     (s.loaded o.ctx base = true → exec (.objUnpin q base) s = .next ((s.start q).finish q stInUse 0 0)) ∧
     (s.loaded o.ctx base = false → exec (.objUnpin q base) s =
       .next ((((s.start q).setPin o.ctx base false).reopenReclaim o.ctx).finish q stOk 0 0))) ∧
   (∀ (s : State) (q : Req) (c : CtxNo) (base : BitVec 42) (home : BitVec 2) (o : Obj),
     Runnable (.objPlace q base home) q s → q.ring = .ctx c → s.obj? c base = some o → o.broken = none →
     o.ofDevice = false →
     let t := (s.start q).giveHome o home
     (o.desc.pin = true → exec (.objPlace q base home) s = .next ((s.start q).finish q stBadField 0 0)) ∧
     (o.desc.pin = false → s.loaded o.ctx base = true →
       exec (.objPlace q base home) s = .next ((s.start q).finish q stInUse 0 0)) ∧
     (o.desc.pin = false → s.loaded o.ctx base = false → s.bound o = true → exec (.objPlace q base home) s = .next s) ∧
     (o.desc.pin = false → s.loaded o.ctx base = false → s.bound o = false →
       (t.objMigrates o.ctx base = true → exec (.objPlace q base home) s = .next (t.resume q)) ∧
       (t.objMigrates o.ctx base = false → exec (.objPlace q base home) s = .next ((t.quotaClear (ptnOf o.ctx)).finish q
         stOk (o.tiles.filter fun k => k.place.tier != home.toNat).length 0)))) ∧
   (∀ (s : State) (q : Req) (c : CtxNo) (base : BitVec 42) (o : Obj), Runnable (.objFree q base) q s → q.ring = .ctx c →
     s.obj? c base = some o →
     (o.ofDevice = true → exec (.objFree q base) s = .next ((s.start q).finish q stBadField 0 0)) ∧
     (o.ofDevice = false → s.loaded o.ctx base = true →
       exec (.objFree q base) s = .next ((s.start q).finish q stInUse 0 0)) ∧
     (o.ofDevice = false → s.loaded o.ctx base = false →
       exec (.objFree q base) s = .next (((s.seqs.filter fun x => x.ctx == o.ctx && x.input == base).foldl
         (fun st x => st.loseIfGone x.index) (((s.start q).dropObj o.ctx base).quotaClear (ptnOf o.ctx))).finish q stOk 0 0))) ∧
   (∀ (s : State) (q : Req) (c : CtxNo) (base : BitVec 42) (o : Obj), Runnable (.objQuery q base) q s → q.ring = .ctx c →
     s.obj? c base = some o → o.broken = none →
     exec (.objQuery q base) s = .next ((s.start q).finish q stOk (ObjDesc.low o.desc) o.desc.length.toNat))) ∧
  (∀ (s : State) (c : CtxNo) (base : BitVec 42) (o : Obj), s.obj? c base = some o →
     let t := s.dropObj c base
     t.obj? c base = none ∧
     t.objs = s.objs.filter (fun x => !(x.ctx == c && x.desc.vbase == base)) ∧
     t.migrations = s.migrations.filter (fun m => !(m.ctx == c && m.base == base)) ∧
     t = { s with objs := t.objs, migrations := t.migrations, caches := t.caches, tier1 := t.tier1, undef := t.undef,
                  layer := t.layer, poison := t.poison } ∧
     (o.desc.prot = false → t.tier1 = s.tier1 ∧ t.layer = s.layer) ∧
     (o.desc.prot = true → ∀ k ∈ o.tiles, k.place.tier ≤ 1 → ∀ b < tileBytes o.desc,
       t.readTier k.place.tier k.place.cluster (k.place.unit * unitBytes + b) 1 = [0]))

/-- MEM.WRITE, MEM.READ, MEM.COPY and MEM.FILL (12 R312) of n bytes that lie in the objects, which no run binds and no
migration moves: WRITE, with the host attached, stores the host's bytes; READ gives the host the object's bytes; COPY
stores the source's bytes, as they were, in the destination; FILL repeats the pattern; each counts the bytes of each
tier and completes with ST_OK; READ and COPY of a range that holds no poisoned line once the read has met what errors
it meets (hostMeets, 08 R188 to R191). A length of 0 completes with ST_OK_EMPTY. Completes: memWrite, memRead,
memCopy, memFill. Where a MEM command of a length other than 0 stops short (12 R294, R312, 08 R192, 11 R268, 16 R409,
01 R38). An object that the context does not have completes it with ST_NO_OBJECT, one below a broken node with
ST_POISON, a weight object to be written or a range beyond an object's end with ST_BAD_FIELD, none of them with
another effect. It waits while the run in progress binds an object that it names or a tile of one migrates. MEM.WRITE
while no host is reached completes with ST_HOST_DETACHED and stores nothing; MEM.READ and MEM.COPY that meet a
poisoned line give, or store, the bytes before it and complete with ST_POISON. -/
def Obligations.MemoryCommands : Prop :=
  ((∀ (s : State) (q : Req) (c : CtxNo) (base off : BitVec 42) (a : BitVec 64) (n : BitVec 32) (o : Obj),
     Runnable (.memWrite q base off a n) q s → q.ring = .ctx c → n ≠ 0 → s.obj? c base = some o → o.broken = none →
     o.desc.kind ≠ kindWeights → off.toNat + n.toNat ≤ o.size → s.memWaits o = false → s.hostUp q = true →
     exec (.memWrite q base off a n) s = .next ((((((s.start q).writeObj o off.toNat (s.readHostOf q a n.toNat)).hostMeets o
       off.toNat n.toNat false).countTiers o off.toNat n.toNat true).count o.ctx 25 n.toNat).finish q stOk 0 0)) ∧
   (∀ (s : State) (q : Req) (c : CtxNo) (base off : BitVec 42) (a : BitVec 64) (n : BitVec 32) (o : Obj),
     Runnable (.memRead q base off a n) q s → q.ring = .ctx c → n ≠ 0 → s.obj? c base = some o → o.broken = none →
     off.toNat + n.toNat ≤ o.size → s.memWaits o = false →
     let t := (s.start q).hostMeets o off.toNat n.toNat true
     t.objPoison o off.toNat n.toNat = none →
     exec (.memRead q base off a n) s = .next ((((t.writeHostOf q a (t.readObj o off.toNat n.toNat)).countTiers o
       off.toNat n.toNat false).count o.ctx 25 n.toNat).finish q stOk 0 0)) ∧
   (∀ (s : State) (q : Req) (c : CtxNo) (src srcOff dst dstOff : BitVec 42) (n : BitVec 32) (a b : Obj),
     Runnable (.memCopy q src srcOff dst dstOff n) q s → q.ring = .ctx c → n ≠ 0 → s.obj? c src = some a →
     a.broken = none → s.obj? c dst = some b → b.broken = none → b.desc.kind ≠ kindWeights →
     srcOff.toNat + n.toNat ≤ a.size → dstOff.toNat + n.toNat ≤ b.size → s.memWaits a = false → s.memWaits b = false →
     let t := (s.start q).hostMeets a srcOff.toNat n.toNat true
     t.objPoison a srcOff.toNat n.toNat = none →
     exec (.memCopy q src srcOff dst dstOff n) s = .next (((((t.writeObj b dstOff.toNat
       (t.readObj a srcOff.toNat n.toNat)).hostMeets b dstOff.toNat n.toNat false).countTiers a srcOff.toNat n.toNat
       false).countTiers b dstOff.toNat n.toNat true).finish q stOk 0 0)) ∧
   (∀ (s : State) (q : Req) (c : CtxNo) (base off : BitVec 42) (pat n : BitVec 32) (o : Obj),
     Runnable (.memFill q base off pat n) q s → q.ring = .ctx c → n ≠ 0 → s.obj? c base = some o → o.broken = none →
     o.desc.kind ≠ kindWeights → off.toNat + n.toNat ≤ o.size → s.memWaits o = false →
     exec (.memFill q base off pat n) s = .next (((((s.start q).writeObj o off.toNat (patternBytes pat n.toNat)).hostMeets o
       off.toNat n.toNat false).countTiers o off.toNat n.toNat true).finish q stOk 0 0)) ∧
   (∀ (s : State) (q : Req) (x y z w : BitVec 42) (a : BitVec 64) (pat : BitVec 32),
     ∀ i ∈ ([.memWrite q x y a 0, .memRead q x y a 0, .memCopy q x y z w 0, .memFill q x y pat 0] : List Instr),
       Runnable i q s → exec i s = .next ((s.start q).finish q stOkEmpty 0 0))) ∧
  ((∀ (s : State) (q : Req) (c : CtxNo) (x off y yOff : BitVec 42) (a : BitVec 64) (pat n : BitVec 32), q.ring = .ctx c →
     n ≠ 0 →
     (∀ i ∈ ([.memWrite q x off a n, .memRead q x off a n, .memFill q x off pat n, .memCopy q x off y yOff n] : List Instr),
       Runnable i q s →
       (s.obj? c x = none → exec i s = .next ((s.start q).finish q stNoObject 0 0)) ∧
       (∀ o, s.obj? c x = some o → o.broken.isSome → exec i s = .next ((s.start q).finish q stPoison 0 0))) ∧
     (∀ o, s.obj? c x = some o → o.broken = none →
       (∀ i ∈ ([.memWrite q x off a n, .memRead q x off a n, .memFill q x off pat n] : List Instr), Runnable i q s →
         (o.size < off.toNat + n.toNat → exec i s = .next ((s.start q).finish q stBadField 0 0)) ∧
         (off.toNat + n.toNat ≤ o.size → s.memWaits o = true → o.desc.kind ≠ kindWeights → exec i s = .next s)) ∧
       (∀ i ∈ ([.memWrite q x off a n, .memFill q x off pat n] : List Instr), Runnable i q s → o.desc.kind = kindWeights →
         exec i s = .next ((s.start q).finish q stBadField 0 0)) ∧
       (Runnable (.memCopy q x off y yOff n) q s →
         (s.obj? c y = none → exec (.memCopy q x off y yOff n) s = .next ((s.start q).finish q stNoObject 0 0)) ∧
         (∀ d, s.obj? c y = some d →
           (d.broken.isSome → exec (.memCopy q x off y yOff n) s = .next ((s.start q).finish q stPoison 0 0)) ∧
           (d.broken = none → (d.desc.kind = kindWeights ∨ o.size < off.toNat + n.toNat ∨ d.size < yOff.toNat + n.toNat) →
             exec (.memCopy q x off y yOff n) s = .next ((s.start q).finish q stBadField 0 0)) ∧
           (d.broken = none → d.desc.kind ≠ kindWeights → off.toNat + n.toNat ≤ o.size → yOff.toNat + n.toNat ≤ d.size →
             (s.memWaits o || s.memWaits d) = true → exec (.memCopy q x off y yOff n) s = .next s))))) ∧
   (∀ (s : State) (q : Req) (c : CtxNo) (base off : BitVec 42) (a : BitVec 64) (n : BitVec 32) (o : Obj),
     Runnable (.memWrite q base off a n) q s → q.ring = .ctx c → n ≠ 0 → s.obj? c base = some o → o.broken = none →
     o.desc.kind ≠ kindWeights → off.toNat + n.toNat ≤ o.size → s.memWaits o = false → s.hostUp q = false →
     exec (.memWrite q base off a n) s = .next ((s.start q).finish q stHostDetached 0 0)) ∧
   (∀ (s : State) (q : Req) (c : CtxNo) (base off : BitVec 42) (a : BitVec 64) (n : BitVec 32) (o : Obj) (b : Nat),
     Runnable (.memRead q base off a n) q s → q.ring = .ctx c → n ≠ 0 → s.obj? c base = some o → o.broken = none →
     off.toNat + n.toNat ≤ o.size → s.memWaits o = false →
     let t := (s.start q).hostMeets o off.toNat n.toNat true
     t.objPoison o off.toNat n.toNat = some b →
     exec (.memRead q base off a n) s = .next ((((t.writeHostOf q a (t.readObj o off.toNat (b - off.toNat))).countTiers
       o off.toNat (b - off.toNat) false).count o.ctx 25 (b - off.toNat)).finish q stPoison 0 0)) ∧
   (∀ (s : State) (q : Req) (c : CtxNo) (src srcOff dst dstOff : BitVec 42) (n : BitVec 32) (a b : Obj) (e : Nat),
     Runnable (.memCopy q src srcOff dst dstOff n) q s → q.ring = .ctx c → n ≠ 0 → s.obj? c src = some a →
     a.broken = none → s.obj? c dst = some b → b.broken = none → b.desc.kind ≠ kindWeights →
     srcOff.toNat + n.toNat ≤ a.size → dstOff.toNat + n.toNat ≤ b.size → s.memWaits a = false → s.memWaits b = false →
     let t := (s.start q).hostMeets a srcOff.toNat n.toNat true
     t.objPoison a srcOff.toNat n.toNat = some e →
     let k := e - srcOff.toNat
     exec (.memCopy q src srcOff dst dstOff n) s = .next (((((t.writeObj b dstOff.toNat (t.readObj a srcOff.toNat k)).hostMeets
       b dstOff.toNat k false).countTiers a srcOff.toNat k false).countTiers b dstOff.toNat k true).finish q stPoison 0 0)))

/-- A write of an object's bytes: what it stores lies in the tiles of the range, byte i of the object where its tile
puts it; every byte of tier 1 and tier 0 outside keeps its value; and only tiers 1 and 0 and the poisoned lines
change. -/
def Obligations.ObjectBytes : Prop :=
  ∀ (s : State) (o : Obj) (off : Nat) (bs : List Byte), s.tier1.wf = true → s.layer.wf = true →
    let t := s.writeObj o off bs
    (∃ m l p, t = { s with tier1 := m, layer := l, poison := p }) ∧
    (∀ tier c a, tier ≤ 1 → (∀ i < bs.length, ∀ k c' x, o.locate (off + i) = some (k, c', x) → (k = 0 ↔ tier = 0) →
        tierKey tier c' x ≠ tierKey tier c a) →
      t.readTier tier c a 1 = s.readTier tier c a 1)

/-! ### Partitions and contexts -/

/-- The cluster sets that 01 R20 allows: 1, 2, 4 or 8 clusters numbered k × n to k × n + n - 1, each by its own mask.
PTN.CREATE from a host ring (01 R20, R23, R24). A cluster set that R20 does not allow, or one with a cluster that
another partition holds, is refused with ST_BAD_FIELD; a number asked for that is taken, with ST_IN_USE; with ST_LIMIT
where eight partitions stand, or no run of directory entries or no reserve is free. It waits until tier 1 is ready and
draws may be had. Otherwise the partition stands under the number asked for, or else the lowest one not in use, with
its clusters, its share, its owner and a token that res1 answers, and its management context has been created; where
that finds no room the command is refused and nothing is left. Completes: ptnCreate. A new partition holds its
clusters, its share of the directory, its token and its owner, its registers at reset, no run and no SYNC object, and
is orphaned from the start where its port is detached (01 R20, 14 R364, 18 R450). -/
def Obligations.PartitionCreation : Prop :=
  (∀ (mask : BitVec 8) (low n : Nat), clustersOf mask = some (low, n) ↔
     (n = 1 ∨ n = 2 ∨ n = 4 ∨ n = 8) ∧ n ∣ low ∧ low + n ≤ 8 ∧
       ∀ c : Fin 8, mask.getLsbD c.val = true ↔ low ≤ c.val ∧ c.val < low + n) ∧
  ((∀ (s : State) (q : Req) (h : Fin 2) (mask : BitVec 8) (share : BitVec 21) (n : BitVec 17) (want : BitVec 3) (use : Bool)
     (v : BitVec 16), Runnable (.ptnCreate q mask share n want use v) q s → q.ring = .host h → clustersOf mask = none →
     exec (.ptnCreate q mask share n want use v) s = .next ((s.start q).finish q stBadField 0 0)) ∧
   (∀ (s : State) (q : Req) (h : Fin 2) (mask : BitVec 8) (share : BitVec 21) (n : BitVec 17) (want : BitVec 3) (use : Bool)
     (v : BitVec 16) (low k : Nat), Runnable (.ptnCreate q mask share n want use v) q s → q.ring = .host h →
     clustersOf mask = some (low, k) →
     ((∃ i < k, (s.ptnOfCluster (low + i)).isSome) →
       exec (.ptnCreate q mask share n want use v) s = .next ((s.start q).finish q stBadField 0 0)) ∧
     ((∀ i < k, s.ptnOfCluster (low + i) = none) → use = true → (s.ptn? want.toNat).isSome →
       exec (.ptnCreate q mask share n want use v) s = .next ((s.start q).finish q stInUse 0 0)) ∧
     ((∀ i < k, s.ptnOfCluster (low + i) = none) → use = false → (∀ j < 8, (s.ptn? j).isSome) →
       exec (.ptnCreate q mask share n want use v) s = .next ((s.start q).finish q stLimit 0 0)) ∧
     (∀ p, (∀ i < k, s.ptnOfCluster (low + i) = none) →
       (if use then p = want.toNat else p < 8 ∧ ∀ j < p, (s.ptn? j).isSome) → s.ptn? p = none →
       (s.freeShare share.toNat = none ∨ s.freeUnit 1 low (k * 64 + 4 * (share.toNat / 4096)) 1 = none →
         exec (.ptnCreate q mask share n want use v) s = .next ((s.start q).finish q stLimit 0 0)) ∧
       ((s.freeShare share.toNat).isSome → (s.freeUnit 1 low (k * 64 + 4 * (share.toNat / 4096)) 1).isSome →
         s.tier1Ready = false ∨ s.rng.failing = true → exec (.ptnCreate q mask share n want use v) s = .next s)) ∧
     (∀ p base reserve, (∀ i < k, s.ptnOfCluster (low + i) = none) →
       (if use then p = want.toNat else p < 8 ∧ ∀ j < p, (s.ptn? j).isSome) → s.ptn? p = none →
       s.freeShare share.toNat = some base → s.freeUnit 1 low (k * 64 + 4 * (share.toNat / 4096)) 1 = some reserve →
       s.tier1Ready = true → s.rng.failing = false →
       let u := (s.start q).takeDraw.2
       let x := newPartition low k share.toNat reserve base (tokenOf (Config.draw s.draws)) h (s.host h).attached u
       exec (.ptnCreate q mask share n want use v) s = .next
         (match ((u.freshPtn p low k).setPtn p (some x)).createCtx p (mgmt p) n.toNat none v with
         | (t, .ok _) => t.finish q stOk p (tokenOf (Config.draw s.draws)).toNat
         | (_, .error st) => (s.start q).finish q st 0 0)))) ∧
  (∀ (s : State) (low n share reserve base : Nat) (token : BitVec 64) (h : Fin 2) (up : Bool),
     let x := newPartition low n share reserve base token h up s
     x.low = low ∧ x.n = n ∧ x.share = share ∧ x.dirBase = base ∧ x.token = token ∧ x.owner = some h ∧
     x.live = PtnRegs.reset n share s.usableRegions ∧ x.staged = x.live ∧ x.run = none ∧ x.queue = [] ∧ x.syncs = [] ∧
     x.destroying = false ∧ (x.orphanedAt = none ↔ up = true))

/-- PTN.DESTROY (01 R27, 14 R352): one that names a partition which its issuer does not own is refused with
ST_NO_OBJECT, and one whose destruction is in progress with ST_IN_USE; otherwise the first execution of its row starts
it and empties the partition, and the second zeroes and frees its clusters and completes it. Completes: ptnDestroy. A
freed partition is gone, every other partition stays as it was, its clusters' layer stores read 0, and objects,
registers and host sides are as they were (01 R27, 14 R359). -/
def Obligations.PartitionEnd : Prop :=
  ((∀ (s : State) (q : Req) (p : BitVec 3), Runnable (.ptnDestroy q p) q s →
     (s.accepted.any fun a => a.cmd == .ptnDestroy q p && a.started) = false → s.named q p = none →
     exec (.ptnDestroy q p) s = .next ((s.start q).finish q stNoObject 0 0)) ∧
   (∀ (s : State) (q : Req) (p : BitVec 3) (n : Nat) (x : Partition), Runnable (.ptnDestroy q p) q s →
     s.named q p = some n → s.ptn? n = some x → (s.accepted.any fun a => a.cmd == .ptnDestroy q p && a.started) = false →
     (x.destroying = false → exec (.ptnDestroy q p) s = .next ((s.start q).emptyPtn n)) ∧
     (x.destroying = true → exec (.ptnDestroy q p) s = .next ((s.start q).finish q stInUse 0 0))) ∧
   (∀ (s : State) (q : Req) (p : BitVec 3) (x : Partition),
     (s.accepted.any fun a => a.cmd == .ptnDestroy q p && a.started) = true → s.ptn? p.toNat = some x → x.destroying = true →
     exec (.ptnDestroy q p) s = .next ((s.freePtn p.toNat).finish q stOk 0 0))) ∧
  (∀ (s : State) (p : Nat) (x : Partition), s.ptn? p = some x →
     (s.freePtn p).ptn? p = none ∧ (∀ r, r ≠ p → (s.freePtn p).ptn? r = s.ptn? r) ∧
     (∀ k < x.n, ∀ b < layerSpan, (s.freePtn p).readTier 0 (x.low + k) b 1 = [0]) ∧
     (s.freePtn p).objs = s.objs ∧ (s.freePtn p).live = s.live ∧ (s.freePtn p).hosts = s.hosts)

/-- PTN.BIND (18 R453): a token of no orphaned partition completes with ST_NO_OBJECT and is remembered among the
port's failed binds; sixteen failed binds within 1 s bar the port; the token of an orphaned partition gives the port
the partition, a new token, and one more bind, with EV_HOST_ATTACH to its management context, once draws may be had.
Completes: ptnBind. -/
def Obligations.PartitionBind : Prop :=
  (∀ (s : State) (q : Req) (h : Fin 2) (token : BitVec 64), Runnable (.ptnBind q token) q s → q.ring = .host h →
    bindBarred s.now (s.host h).badBinds = true →
    exec (.ptnBind q token) s = .next ((s.start q).finish q stInUse 0 0)) ∧
  (∀ (s : State) (q : Req) (h : Fin 2) (token : BitVec 64), Runnable (.ptnBind q token) q s → q.ring = .host h →
    bindBarred s.now (s.host h).badBinds = false →
    (∀ p < 8, ∀ x, s.ptn? p = some x → ¬(x.token = token ∧ x.orphanedAt.isSome ∧ x.destroying = false)) →
    exec (.ptnBind q token) s = .next (((s.start q).modHost h fun x =>
      { x with badBinds := Lists.lastN 16 (x.badBinds ++ [s.now]) }).finish q stNoObject 0 0)) ∧
  (∀ (s : State) (q : Req) (h : Fin 2) (token : BitVec 64) (p : Nat) (x : Partition), Runnable (.ptnBind q token) q s →
    q.ring = .host h → bindBarred s.now (s.host h).badBinds = false → p < 8 → s.ptn? p = some x → x.token = token →
    x.orphanedAt.isSome → x.destroying = false →
    (∀ r < p, ∀ y, s.ptn? r = some y → ¬(y.token = token ∧ y.orphanedAt.isSome ∧ y.destroying = false)) →
    (s.rng.failing = true → exec (.ptnBind q token) s = .next s) ∧ (s.rng.failing = false →
    let new := tokenOf (Config.draw s.draws)
    let t := (s.start q).takeDraw.2.modPtn p fun x => { x with
      owner := some h, orphanedAt := none, token := new, binds := BitVec.ofNat 16 (Bits.satAdd 16 x.binds.toNat 1) }
    exec (.ptnBind q token) s =
      .next ((((t.ctxsOf p).foldl (fun st c => st.mirrorAll c) t).event (.ctx (mgmt p)) 0x0090 4 p h.val).finish q stOk p
        new.toNat)))

/-- PTN.QUERY, PTN.STAGE, PTN.COMMIT and DEV.COMMIT (12 R313 to R316, 14 R352, R371): the first three name only a
partition of their issuer, ST_NO_OBJECT otherwise; QUERY answers the clusters, the class and the held and over-quota
states; STAGE with mask 0 completes with ST_OK_EMPTY and otherwise stages the register of the partition that stands at
the offset, FLT_PTN_CFG_p among them, ST_BAD_FIELD where none does; COMMIT is refused with the status and field of
commitPtn, or goes on until it applies; host_only turns STAGE and COMMIT of management rings away with ST_DENIED;
DEV.COMMIT completes with the status and field of commitDevice. Completes: ptnQuery, ptnStage, ptnCommit, devCommit. -/
def Obligations.PartitionConfig : Prop :=
  (∀ (s : State) (q : Req) (p : BitVec 3) (off : BitVec 20) (region : BitVec 4) (v mask : BitVec 64) (sel : BitVec 8),
    s.named q p = none → mask ≠ 0 →
    ∀ i ∈ ([.ptnQuery q p, .ptnStage q off region p v mask, .ptnCommit q sel p] : List Instr), Runnable i q s →
      exec i s = .next ((s.start q).finish q stNoObject 0 0)) ∧
  (∀ (s : State) (q : Req) (p : BitVec 3) (n : Nat) (x : Partition), Runnable (.ptnQuery q p) q s →
    s.named q p = some n → s.ptn? n = some x →
    exec (.ptnQuery q p) s = .next ((s.start q).finish q stOk (packBits [((2 ^ x.n - 1) * 2 ^ x.low, 0), (x.live.cls, 8),
      (Bits.ofBool x.held, 10), (Bits.ofBool (x.overT0 || x.overT1), 11)]) 0)) ∧
  (∀ (s : State) (q : Req) (off : BitVec 20) (region : BitVec 4) (p : BitVec 3) (v : BitVec 64),
    Runnable (.ptnStage q off region p v 0) q s →
    exec (.ptnStage q off region p v 0) s = .next ((s.start q).finish q stOkEmpty 0 0)) ∧
  (∀ (s : State) (q : Req) (off : BitVec 20) (region : BitVec 4) (p : BitVec 3) (v mask : BitVec 64) (n : Nat)
    (x : Partition), Runnable (.ptnStage q off region p v mask) q s → mask ≠ 0 → s.named q p = some n → s.ptn? n = some x →
    (hostOnly q x = true → exec (.ptnStage q off region p v mask) s = .next ((s.start q).finish q stDenied 0 0)) ∧
    (hostOnly q x = false →
      (∀ r, (PReg.all.find? fun r => r.offset n == (region.toNat, off.toNat)) = some r →
        exec (.ptnStage q off region p v mask) s = .next (((s.start q).stagePtn n r v mask).finish q stOk 0 0)) ∧
      ((PReg.all.find? fun r => r.offset n == (region.toNat, off.toNat)) = none →
        let f := DReg.fltPtn (BitVec.ofNat 3 n).toFin
        (f.offset = (region.toNat, off.toNat) →
          exec (.ptnStage q off region p v mask) s = .next (((s.start q).stageDev f v mask).finish q stOk 0 0)) ∧
        (f.offset ≠ (region.toNat, off.toNat) →
          exec (.ptnStage q off region p v mask) s = .next ((s.start q).finish q stBadField 0 0))))) ∧
  (∀ (s t : State) (q : Req) (sel : BitVec 8) (p : BitVec 3) (n : Nat) (x : Partition), Runnable (.ptnCommit q sel p) q s →
    s.named q p = some n → s.ptn? n = some x →
    (hostOnly q x = true → exec (.ptnCommit q sel p) s = .next ((s.start q).finish q stDenied 0 0)) ∧ (hostOnly q x = false →
    ((s.start q).commitPtn n sel.toNat (some q) = (t, none) → exec (.ptnCommit q sel p) s = .next t) ∧
    (∀ st fieldNo, (s.start q).commitPtn n sel.toNat (some q) = (t, some (st, fieldNo)) →
      exec (.ptnCommit q sel p) s = .next (t.finish q st fieldNo 0)))) ∧
  (∀ (s t : State) (q : Req) (sel : BitVec 8) (st fieldNo : Nat), Runnable (.devCommit q sel) q s →
    (s.start q).commitDevice (DReg.chosen sel.toNat) = (t, st, fieldNo) →
    exec (.devCommit q sel) s = .next (t.finish q st fieldNo 0))

/-- CTX.CREATE (01 R23, 12 R292) gives the lowest local index from 1 that is not in use, with its ring pair's base; it
is refused with ST_LIMIT where 255 stand, and with createCtx's status where there is no room for the ring pair.
CTX.DESTROY of a context of the partition takes it out (01 R26), and refuses the management context with ST_BAD_FIELD
(01 R22). A context that does not exist, or of another partition, is no object for CTX.DESTROY and CTX.LIMIT (14
R352). Completes: ctxCreate, ctxDestroy. CTX.LIMIT, CTX.QUERY and CTX.SAMPLE (07 R175, 12 Table CMD.8, 14 R352, 16
R406). LIMIT sets the context's limits at once; limits below the charge are a cut, limits that the charge fits end the
over-quota state of the context with its reclaim. QUERY answers charges and limits, of the issuer's own context or, to
the management context, of any of the partition; of another it completes with ST_NO_OBJECT. SAMPLE writes the record's
bytes, at most the number asked for, into the data object, and answers their full length; 0 bytes complete with
ST_OK_EMPTY; no such record, with ST_NO_OBJECT; an object of another kind or a range beyond its end, with
ST_BAD_FIELD; it waits while the object is bound or migrates. Completes: ctxLimit, ctxQuery, ctxSample. -/
def Obligations.Contexts : Prop :=
  ((∀ (s : State) (q : Req) (own : CtxNo) (n : BitVec 17) (m : Bool) (a : BitVec 64) (v : BitVec 16),
     Runnable (.ctxCreate q n m a v) q s → q.ring = .ctx own →
     (∀ j, 1 ≤ j → j < 256 → (s.ctx? (BitVec.ofNat 11 (ptnOf own * 256 + j))).isSome) →
     exec (.ctxCreate q n m a v) s = .next ((s.start q).finish q stLimit 0 0)) ∧
   (∀ (s : State) (q : Req) (own : CtxNo) (n : BitVec 17) (m : Bool) (a : BitVec 64) (v : BitVec 16) (i : Nat),
     Runnable (.ctxCreate q n m a v) q s → q.ring = .ctx own → 1 ≤ i → i < 256 →
     s.ctx? (BitVec.ofNat 11 (ptnOf own * 256 + i)) = none →
     (∀ j, 1 ≤ j → j < i → (s.ctx? (BitVec.ofNat 11 (ptnOf own * 256 + j))).isSome) →
     exec (.ctxCreate q n m a v) s = .next
       (match (s.start q).createCtx (ptnOf own) (BitVec.ofNat 11 (ptnOf own * 256 + i)) n.toNat (if m then some a else none) v with
       | (t, .ok base) => t.finish q stOk (BitVec.ofNat 11 (ptnOf own * 256 + i)).toNat base.toNat
       | (t, .error st) => t.finish q st 0 0)) ∧
   (∀ (s : State) (q : Req) (own c : CtxNo) (x : Context), Runnable (.ctxDestroy q c) q s → q.ring = .ctx own →
     ptnOf c = ptnOf own → s.ctx? c = some x →
     (isMgmt c = true → exec (.ctxDestroy q c) s = .next ((s.start q).finish q stBadField 0 0)) ∧
     (isMgmt c = false → exec (.ctxDestroy q c) s = .next (((s.start q).destroyCtx x.no).finish q stOk 0 0))) ∧
   (∀ (s : State) (q : Req) (own c : CtxNo) (t0 : BitVec 12) (t1 : BitVec 23), q.ring = .ctx own →
     ptnOf c ≠ ptnOf own ∨ s.ctx? c = none → ∀ i ∈ ([.ctxDestroy q c, .ctxLimit q c t0 t1] : List Instr), Runnable i q s →
     exec i s = .next ((s.start q).finish q stNoObject 0 0))) ∧
  ((∀ (s : State) (q : Req) (own c : CtxNo) (x : Context) (t0 : BitVec 12) (t1 : BitVec 23),
     Runnable (.ctxLimit q c t0 t1) q s → q.ring = .ctx own → ptnOf c = ptnOf own → s.ctx? c = some x →
     let u := (s.start q).modCtx c fun x => { x with limT0 := some t0.toNat, limT1 := some t1.toNat }
     let v := if u.aboveLimit c then u.cutContext c else u.clearContext { x with limT0 := some t0.toNat, limT1 := some t1.toNat }
     exec (.ctxLimit q c t0 t1) s = .next ((v.quotaClear (ptnOf c)).finish q stOk 0 0)) ∧
   (∀ (s : State) (q : Req) (own c : CtxNo) (x : Context), Runnable (.ctxQuery q c) q s → q.ring = .ctx own →
     c = own ∨ isMgmt own = true → ptnOf c = ptnOf own → s.ctx? c = some x →
     exec (.ctxQuery q c) s = .next ((s.start q).finish q stOk
       (packBits [(s.ctxCharge c 0 % 4096, 0), (s.ctxCharge c 1 % 2 ^ 23, 12)])
       (packBits [(s.ctxLimit c 0 % 4096, 0), (s.ctxLimit c 1 % 2 ^ 23, 12)]))) ∧
   (∀ (s : State) (q : Req) (own c : CtxNo), Runnable (.ctxQuery q c) q s → q.ring = .ctx own →
     (c ≠ own ∧ isMgmt own = false) ∨ ptnOf c ≠ ptnOf own ∨ s.ctx? c = none →
     exec (.ctxQuery q c) s = .next ((s.start q).finish q stNoObject 0 0)) ∧
   (∀ (s : State) (q : Req) (c : CtxNo) (number : BitVec 16) (base off : BitVec 42),
     Runnable (.ctxSample q c number base off 0) q s →
     exec (.ctxSample q c number base off 0) s = .next ((s.start q).finish q stOkEmpty 0 0)) ∧
   (∀ (s : State) (q : Req) (own c : CtxNo) (number : BitVec 16) (base off : BitVec 42) (n : BitVec 32) (o : Obj),
     Runnable (.ctxSample q c number base off n) q s → q.ring = .ctx own → n ≠ 0 → s.obj? own base = some o →
     o.broken = none →
     (ptnOf c ≠ ptnOf o.ctx ∨ s.sample? (ptnOf c) number = none →
       exec (.ctxSample q c number base off n) s = .next ((s.start q).finish q stNoObject 0 0)) ∧
     (∀ bs, ptnOf c = ptnOf o.ctx → s.sample? (ptnOf c) number = some bs →
       (o.desc.kind ≠ kindData ∨ o.size < off.toNat + n.toNat →
         exec (.ctxSample q c number base off n) s = .next ((s.start q).finish q stBadField 0 0)) ∧
       (o.desc.kind = kindData → off.toNat + n.toNat ≤ o.size →
         (s.memWaits o = true → exec (.ctxSample q c number base off n) s = .next s) ∧
         (s.memWaits o = false → exec (.ctxSample q c number base off n) s = .next ((((s.start q).writeObj o off.toNat
           (bs.take n.toNat)).countTiers o off.toNat (bs.take n.toNat).length true).finish q stOk bs.length 0))))))

/-! ### Registers -/

/-- Register writes by an attached port (15 R374, 21 R496, R498): the device wakes; a write of 64 bits acts as two of
32 bits in ascending order; one that is not aligned is unsupported, and is counted alone (21 R497). A write of
PTN_COMMIT, DEV_COMMIT, MEMC_SPARE_CFG, DEV_FLD_CFG and DEV_BAR_STAT is such a write at the register's offset. A write
whose effect needs the warden is held while the warden restarts; any other acts at once. Completes: registerWrite,
stagedRegisterWrite, ptnCommitWrite, devCommitWrite, memcSpareCfgWrite, devFldCfgWrite, devBarStatClear. What a 32-bit
write does by its register, outside recovery. A staged register of a partition that the port owns takes the bits that
are not reserved into its staged copy alone; a device-scope one does so from the primary port; PTN_COMMIT of an owned
partition and DEV_COMMIT commit; DEV_BAR_STAT clears where bit 63 is written 1; MEMC_SPARE_CFG and DEV_FLD_CFG take
the writes of the primary port. -/
def Obligations.RegisterStores : Prop :=
  ((∀ (s : State) (h : Fin 2) (off : BitVec 24) (v : BitVec 64), s.barUp h = true → off.toNat % 4 = 0 →
     exec (.registerWrite h off false v) s = .next (s.wake.arrive32 h off.toNat (v.toNat % 2 ^ 32)) ∧
     exec (.stagedRegisterWrite h off false v) s = .next (s.wake.arrive32 h off.toNat (v.toNat % 2 ^ 32))) ∧
   (∀ (s : State) (h : Fin 2) (off : BitVec 24) (v : BitVec 64), s.barUp h = true → off.toNat % 8 = 0 →
     let t := (s.wake.arrive32 h off.toNat (v.toNat % 2 ^ 32)).arrive32 h (off.toNat + 4)
       (v.toNat / 2 ^ 32)
     exec (.registerWrite h off true v) s = .next t ∧ exec (.stagedRegisterWrite h off true v) s = .next t) ∧
   (∀ (s : State) (h : Fin 2) (off : BitVec 24) (wide : Bool) (v : BitVec 64), off.toNat % (if wide then 8 else 4) ≠ 0 →
     let t := s.modHost h fun x =>
       { x with barCount := BitVec.ofNat 16 (min (x.barCount.toNat + 1) (2 ^ 16 - 1)), barLastOff := off, barLastWr := true }
     exec (.registerWrite h off wide v) s = .next (if s.barUp h then t else s) ∧
     exec (.stagedRegisterWrite h off wide v) s = .next (if s.barUp h then t else s)) ∧
   (∀ (s : State) (h : Fin 2) (p : Fin 8) (v : BitVec 32), s.barUp h = true →
     exec (.ptnCommitWrite h p v) s = .next (s.wake.arrive32 h (0x100000 + p.val * 0x10000) v.toNat) ∧
     exec (.devCommitWrite h v) s = .next (s.wake.arrive32 h 0x10 v.toNat) ∧
     exec (.memcSpareCfgWrite h v) s = .next (s.wake.arrive32 h 0x800000 v.toNat) ∧
     exec (.devFldCfgWrite h v) s = .next (s.wake.arrive32 h 0x300 v.toNat)) ∧
   (∀ (s : State) (h : Fin 2) (v : BitVec 64), s.barUp h = true →
     exec (.devBarStatClear h v) s = .next ((s.wake.arrive32 h 0x48 (v.toNat % 2 ^ 32)).arrive32 h 0x4C
       (v.toNat / 2 ^ 32))) ∧
   (∀ (s : State) (h : Fin 2) (off x : Nat),
     (s.restarting wardenIsland = false ∨ needsWarden off = false → s.arrive32 h off x = s.write32 { port := h } off x) ∧
     (s.restarting wardenIsland = true → needsWarden off = true →
       s.arrive32 h off x = { s with heldWork := s.heldWork ++ [.write h off x] }))) ∧
  ((∀ (s : State) (v : View) (p : Nat) (r : PReg) (x : Nat), s.recovery = none → p < 8 → s.seesPtn v p = true → x < 2 ^ 32 →
     s.write32 v (barOffset (r.offset p)) x = s.stagePtn p r (BitVec.ofNat 64 x) 0xFFFFFFFF#64) ∧
   (∀ (s : State) (v : View) (r : DReg) (x : Nat), s.recovery = none → (∀ p, r ≠ .fltPtn p) → x < 2 ^ 32 →
     s.write32 v (barOffset r.offset) x =
       if s.mayWriteDev v then s.stageDev r (BitVec.ofNat 64 x) 0xFFFFFFFF#64 else s) ∧
   (∀ (s : State) (v : View) (p : Fin 8) (x : Nat), s.recovery = none → x < 2 ^ 32 →
     s.write32 v (barOffset (DReg.fltPtn p).offset) x =
       if s.seesPtn v p.val then s.stageDev (.fltPtn p) (BitVec.ofNat 64 x) 0xFFFFFFFF#64 else s) ∧
   (∀ (s : State) (v : View) (p x : Nat), s.recovery = none → p < 8 → x < 2 ^ 32 →
     s.write32 v (0x100000 + p * 0x10000) x = if s.seesPtn v p then (s.commitPtn p (x % 256) none).1 else s) ∧
   (∀ (s : State) (v : View) (x : Nat), s.recovery = none →
     s.write32 v 0x10 x = (s.commitDevice (DReg.chosen (x % 16))).1 ∧
     s.write32 v 0x800000 x = (if s.mayWriteDev v then s.writeSpareCfg (BitVec.ofNat 32 x) else s) ∧
     s.write32 v 0x300 x = s.writeFieldCfg v x ∧ s.write32 v 0x48 x = s ∧
     s.write32 v 0x4C x = (if x.testBit 31 then
       s.modHost v.port fun h => { h with barCount := 0, barLastOff := 0, barLastWr := false } else s)))

/-- DEV_FLD_CFG (18 R457): a write that changes it, from the primary port while no partition exists and with a base
from 0x01 to 0x7E, is taken; another write that changes it sets rej. -/
def Obligations.FieldConfig : Prop :=
  ∀ (s : State) (v : View) (x : Nat), BitVec.ofNat 10 x ≠ s.field.cfg →
    (s.mayWriteDev v = true → s.ptnNos = [] → 1 ≤ x % 128 → x % 128 ≤ 0x7E →
      ((s.writeFieldCfg v x).field.cfg = BitVec.ofNat 10 x ∧
       (s.writeFieldCfg v x).field.rej = (s.field.rej && !x.testBit 10))) ∧
    (s.mayWriteDev v = false ∨ s.ptnNos ≠ [] ∨ x % 128 = 0 ∨ x % 128 = 0x7F →
      ((s.writeFieldCfg v x).field.cfg = s.field.cfg ∧ (s.writeFieldCfg v x).field.rej = true))

/-- Commits (12 R314, R316): a commit of no block counts and ends with ST_OK_EMPTY; one whose checks all pass takes a
snapshot of the staged copies and is pending until the boundary, or the one after it where the collect token has
returned (05 R125); another ends with ST_COMMIT_CONFLICT and the lowest field that fails. A device-scope commit of no
register counts and ends with ST_OK_EMPTY, one that fails changes its commit status alone, and one that passes applies
at once, to the registers it selects alone. -/
def Obligations.Commits : Prop :=
  (∀ (s : State) (p sel : Nat) (cmd : Option Req) (x : Partition), s.ptn? p = some x → sel < 256 →
    (sel = 0 → s.commitPtn p sel cmd =
      (s.modPtn p fun y => { y with commitStat := y.commitStat.next 2 stOkEmpty 0 }, some (stOkEmpty, 0))) ∧
    (sel ≠ 0 → (∀ k ∈ s.ptnChecks p x sel, k.2 = true) → s.commitPtn p sel cmd =
      (s.modPtn p fun y => { y with commitStat := y.commitStat.next 1 stOk 0,
                                    commits := y.commits ++ [⟨BitVec.ofNat 8 sel, x.staged, cmd, x.collectedAll⟩] }, none)) ∧
    (∀ f, sel ≠ 0 → (f, false) ∈ s.ptnChecks p x sel → (∀ k ∈ s.ptnChecks p x sel, k.2 = false → f ≤ k.1) →
      s.commitPtn p sel cmd =
        (s.modPtn p fun y => { y with commitStat := y.commitStat.next 3 stConflict f }, some (stConflict, f)))) ∧
  (∀ s : State, s.commitDev [] = ({ s with devCommit := s.devCommit.next 2 stOkEmpty 0 }, stOkEmpty, 0)) ∧
  (∀ (s : State) (regs : List DReg), regs ≠ [] →
    (∀ f, (f, false) ∈ s.devChecks regs → (∀ k ∈ s.devChecks regs, k.2 = false → f ≤ k.1) →
      s.commitDev regs = ({ s with devCommit := s.devCommit.next 3 stConflict f }, stConflict, f)) ∧
    ((∀ k ∈ s.devChecks regs, k.2 = true) →
      ∃ live, s.commitDev regs = ({ s with live := live, devCommit := s.devCommit.next 2 stOk 0 }, stOk, 0) ∧
        ∀ r ∈ DReg.all, r.get live = if regs.contains r then r.get s.staged else r.get s.live))

/-- Register reads and accesses that no register serves (21 R496, R497). A 64-bit read of a register of up to 64 bits
gives the two words, one at an offset that no register has the word above it alone; the lowest word of a wider
register fills the port's shadow; a higher word gives what the shadow holds, or 0 where the port does not see the
register. An unsupported access counts, saturating, and a read of it gives 0; so does a 64-bit read that is not
aligned. Completes: wideRegisterRead, unsupportedAccess. -/
def Obligations.RegisterReads : Prop :=
  (∀ (s : State) (h : Fin 2) (off : BitVec 24) (r : RegValue), s.barUp h = true → off.toNat % 8 = 0 →
    s.regAt { port := h } off.toNat = some r →
    let two := s.word32 { port := h } off.toNat + s.word32 { port := h } (off.toNat + 4) * 2 ^ 32
    let filled := s.modHost h fun x => { x with shadow := r.upper.foldl (fun t kw => Table.set t kw.1 kw.2) x.shadow }
    let held := if r.seen then Table.get 0 (s.host h).shadow off.toNat else 0
    (r.bits ≤ 64 → exec (.wideRegisterRead h off) s = .next { s with lastRead := BitVec.ofNat 64 two }) ∧
    (64 < r.bits → off.toNat = r.base →
      exec (.wideRegisterRead h off) s = .next { filled with lastRead := BitVec.ofNat 64 r.value }) ∧
    (64 < r.bits → off.toNat ≠ r.base → exec (.wideRegisterRead h off) s = .next { s with lastRead := held })) ∧
  (∀ (s : State) (h : Fin 2) (off : BitVec 24), s.barUp h = true → off.toNat % 8 = 0 →
    s.regAt { port := h } off.toNat = none → exec (.wideRegisterRead h off) s =
      .next { s with lastRead := BitVec.ofNat 64 (s.word32 { port := h } (off.toNat + 4) * 2 ^ 32) }) ∧
  (∀ (s : State) (h : Fin 2) (off : BitVec 24), s.barUp h = true →
    let t := s.modHost h fun x =>
      { x with barCount := BitVec.ofNat 16 (min (x.barCount.toNat + 1) (2 ^ 16 - 1)), barLastOff := off, barLastWr := true }
    let u := s.modHost h fun x =>
      { x with barCount := BitVec.ofNat 16 (min (x.barCount.toNat + 1) (2 ^ 16 - 1)), barLastOff := off, barLastWr := false }
    exec (.unsupportedAccess h off true) s = .next t ∧
    exec (.unsupportedAccess h off false) s = .next { u with lastRead := 0 } ∧
    (off.toNat % 8 ≠ 0 → exec (.wideRegisterRead h off) s = .next { u with lastRead := 0 }))

/-! ### Operator access -/

/-- DBG.CHALLENGE and DBG.RESPOND on a host port, and JTAG_DBG_CHAL and JTAG_DBG_RESP on the TAP (14 R367): a channel
that is not locked, while draws may be had, gets a fresh challenge, which replaces the one before it and which the
host reads; a response that opens a session spends the challenge; any other, or one without a challenge, spends it
too, counts and locks the channel for 1 s. On a locked channel DBG.CHALLENGE completes with ST_IN_USE and the TAP gets
no challenge; while draws wait (14 R364) DBG.CHALLENGE waits and so does the TAP's challenge. DEBUG_SESSION_EXPIRY
ends a session 3,600 s after it opened, and before that does nothing. Completes: dbgChallenge, dbgRespond,
jtagDbgChal, jtagDbgResp, debugSessionExpiry. -/
def Obligations.OperatorSessions : Prop :=
  (∀ (s : State) (q : Req) (h : Fin 2) (a : BitVec 64), Runnable (.dbgChallenge q a) q s → q.ring = .host h →
    (s.locked h.val = true → exec (.dbgChallenge q a) s = .next ((s.start q).finish q stInUse 0 0)) ∧
    (s.locked h.val = false → s.rng.failing = true → exec (.dbgChallenge q a) s = .next s)) ∧
  (∀ (s : State) (q : Req) (h : Fin 2) (a : BitVec 64), Runnable (.dbgRespond q a) q s → q.ring = .host h →
    (s.channel h.val).challenge = none →
    exec (.dbgRespond q a) s = .next ({ (s.start q).modChannel h.val (fun x =>
      { x with challenge := none, lockUntil := s.now + 1000000 }) with
        authFail := BitVec.ofNat 16 (min (s.authFail.toNat + 1) (2 ^ 16 - 1)) }.finish q stAuth 0 0)) ∧
  (∀ (s : State), s.wardenRuns = true →
    (s.locked 2 = true → exec .jtagDbgChal s = .next (s.modTap fun x => { x with ir := 0x20 })) ∧
    (s.locked 2 = false → s.rng.failing = true →
      exec .jtagDbgChal s = .next ((s.modTap fun x => { x with ir := 0x20 }).modTap fun x => { x with chal := true })) ∧
    (∀ r : BitVec 29856, (s.channel 2).challenge = none →
      exec (.jtagDbgResp r) s = .next { (s.modTap fun x => { x with ir := 0x21 }).modChannel 2 (fun x =>
        { x with challenge := none, lockUntil := s.now + 1000000 }) with
          authFail := BitVec.ofNat 16 (min (s.authFail.toNat + 1) (2 ^ 16 - 1)) })) ∧
  (∀ (s : State) (d : DbgPort) (k : Nat), k = (match d with | .host h => h.val | .jtag => 2) →
    (∀ t0, (s.channel k).openedAt = some t0 → s.now < t0 + 3600000000) → exec (.debugSessionExpiry d) s = .next s) ∧
  (∀ (s : State) (q : Req) (h : Fin 2) (a : BitVec 64), Runnable (.dbgChallenge q a) q s → q.ring = .host h →
    s.locked h.val = false → s.rng.failing = false →
    exec (.dbgChallenge q a) s = .next ((((s.start q).takeDraw.2.modChannel h.val fun x =>
      { x with challenge := some (Config.draw s.draws) }).writeHostOf q a
        (Bits.toBytes 32 (Config.draw s.draws).toNat)).finish q stOk 0 0)) ∧
  (∀ (s : State) (q : Req) (h : Fin 2) (a : BitVec 64) (c : BitVec 256), Runnable (.dbgRespond q a) q s →
    q.ring = .host h → (s.channel h.val).challenge = some c →
    exec (.dbgRespond q a) s = .next (if responseOk c h.val (s.readHostOf q a 3732) then
        ((s.start q).modChannel h.val fun x => { x with challenge := none, openedAt := some s.now }).finish q stOk 0 0
      else { (s.start q).modChannel h.val (fun x => { x with challenge := none, lockUntil := s.now + 1000000 }) with
        authFail := BitVec.ofNat 16 (min (s.authFail.toNat + 1) (2 ^ 16 - 1)) }.finish q stAuth 0 0)) ∧
  (∀ (s : State), s.wardenRuns = true → s.locked 2 = false → s.rng.failing = false →
    exec .jtagDbgChal s = .next ((s.modTap fun x => { x with ir := 0x20 }).takeDraw.2.modChannel 2 fun x =>
      { x with challenge := some (Config.draw s.draws) })) ∧
  (∀ (s : State) (r : BitVec 29856) (c : BitVec 256), s.wardenRuns = true → (s.channel 2).challenge = some c →
    let t := s.modTap fun x => { x with ir := 0x21 }
    exec (.jtagDbgResp r) s = .next (if responseOk c 2 (Bits.toBytes 3732 r.toNat) then
        t.modChannel 2 fun x => { x with challenge := none, openedAt := some s.now }
      else { t.modChannel 2 (fun x => { x with challenge := none, lockUntil := s.now + 1000000 }) with
        authFail := BitVec.ofNat 16 (min (s.authFail.toNat + 1) (2 ^ 16 - 1)) })) ∧
  (∀ (s : State) (h : Fin 2) (t0 : Nat), (s.channel h.val).openedAt = some t0 → t0 + 3600000000 ≤ s.now →
    exec (.debugSessionExpiry (.host h)) s = .next (s.modChannel h.val fun x => { x with openedAt := none })) ∧
  (∀ (s : State) (t0 : Nat), (s.channel 2).openedAt = some t0 → t0 + 3600000000 ≤ s.now →
    exec (.debugSessionExpiry .jtag) s = .next (s.modChannel 2 fun x => { x with openedAt := none }))

/-- DBG.READ, DBG.WRITE, DBG.SAMPLE and DBG.UNRETIRE on a host ring (20 R493, 08 R199): READ gives the host the
target's bytes, with ST_POISON where a line of them is poisoned; WRITE stores the host's bytes in the target; SAMPLE
gives the host at most the bytes asked for and answers the full length, ST_NO_OBJECT where there is no such record;
UNRETIRE returns a retired rank while no partition exists, is refused with ST_IN_USE while one does, and does nothing
to a rank that is not retired. 0 bytes complete with ST_OK_EMPTY, a target that does not exist or is crossed with
ST_BAD_FIELD. Completes: dbgRead, dbgWrite, dbgSample, dbgUnretire. The TAP (20 R494, 14 R364): EXTEST and
SAMPLE_PRELOAD select the boundary scan; a code that the TAP does not decode, and DBG_DATA and DBG_CMD without an open
session, select the bypass register, which captures 0; DBG_DATA in an open session takes what is shifted in; DBG_CMD
in an open session runs the packet and leaves its completion entry, of issuer 0x802, in DBG_STAT, with ST_BAD_FIELD
where the packet is not well formed; a challenge waits while draws wait. Completes: jtagExtest, jtagSamplePreload,
jtagBypass, jtagDbgData, jtagDbgCmd. -/
def Obligations.DebugAccess : Prop :=
  ((∀ (s : State) (q : Req) (t : DbgTarget), ∀ i ∈ ([.dbgRead q t, .dbgWrite q t] : List Instr), Runnable i q s →
     (t.bytes = 0 → exec i s = .next ((s.start q).finish q stOkEmpty 0 0)) ∧
     (t.bytes ≠ 0 → targetOk t = false → exec i s = .next ((s.start q).finish q stBadField 0 0))) ∧
   (∀ (s : State) (q : Req) (p : BitVec 3) (number : BitVec 16) (a : BitVec 64) (n : BitVec 32),
     Runnable (.dbgSample q p number a n) q s →
     (n = 0 → exec (.dbgSample q p number a n) s = .next ((s.start q).finish q stOkEmpty 0 0)) ∧
     (n ≠ 0 → s.sample? p.toNat number = none →
       exec (.dbgSample q p number a n) s = .next ((s.start q).finish q stNoObject 0 0))) ∧
   (∀ (s : State) (q : Req) (h : Fin 2) (t : DbgTarget), Runnable (.dbgRead q t) q s → q.ring = .host h → t.bytes ≠ 0 →
     targetOk t = true →
     let got := (s.start q).readTarget { port := h, all := true } t
     exec (.dbgRead q t) s = .next (((s.start q).writeHostOf q t.host got.1).finish q (if got.2 then stPoison else stOk) 0 0)) ∧
   (∀ (s : State) (q : Req) (h : Fin 2) (t : DbgTarget), Runnable (.dbgWrite q t) q s → q.ring = .host h → t.bytes ≠ 0 →
     targetOk t = true →
     exec (.dbgWrite q t) s = .next (((s.start q).writeTarget { port := h, all := true } t
       (s.readHostOf q t.host t.bytes.toNat)).finish q stOk 0 0)) ∧
   (∀ (s : State) (q : Req) (p : BitVec 3) (number : BitVec 16) (a : BitVec 64) (n : BitVec 32)
     (bs : List Byte), Runnable (.dbgSample q p number a n) q s → n ≠ 0 → s.sample? p.toNat number = some bs →
     exec (.dbgSample q p number a n) s = .next (((s.start q).writeHostOf q a (bs.take n.toNat)).finish q stOk bs.length 0)) ∧
   (∀ (s : State) (q : Req) (k : BitVec 3) (r : BitVec 2), Runnable (.dbgUnretire q k r) q s →
     (s.ptnNos ≠ [] → exec (.dbgUnretire q k r) s = .next ((s.start q).finish q stInUse 0 0)) ∧
     (s.ptnNos = [] → (s.stackRanks k.toNat).rank r.toNat = 3 →
       exec (.dbgUnretire q k r) s = .next (((s.start q).unretire k.toNat r.toNat).finish q stOk 0 0)) ∧
     (s.ptnNos = [] → (s.stackRanks k.toNat).rank r.toNat ≠ 3 →
       exec (.dbgUnretire q k r) s = .next ((s.start q).finish q stOkEmpty 0 0)))) ∧
  ((∀ s : State, exec .jtagExtest s = .next (s.modTap fun x => { x with ir := 0x00 }) ∧
     exec .jtagSamplePreload s = .next (s.modTap fun x => { x with ir := 0x01 })) ∧
   (∀ (s : State) (code : BitVec 8), s.tapDecodes code.toNat = false →
     exec (.jtagBypass code) s = .next (s.modTap fun x => { x with ir := code, bypass := false })) ∧
   (∀ (s : State) (bits : BitVec 32768), s.sessionOpen 2 = true → exec (.jtagDbgData bits) s =
     .next ((s.modTap fun x => { x with ir := 0x24 }).modTap fun x =>
       { x with window := Mem.write [] 0 (Bits.toBytes 4096 bits.toNat) })) ∧
   (∀ (s : State) (code : BitVec 8), s.tapDecodes code.toNat = true → exec (.jtagBypass code) s = .next s) ∧
   (∀ (s : State) (bits : BitVec 32768), s.sessionOpen 2 = false → exec (.jtagDbgData bits) s =
     .next ((s.modTap fun x => { x with ir := 0x24 }).modTap fun x => { x with bypass := false })) ∧
   (∀ (s : State) (packet : BitVec 512), s.wardenRuns = false ∨ s.sessionOpen 2 = false →
     exec (.jtagDbgCmd packet) s =
       .next ((s.modTap fun x => { x with ir := 0x22 }).modTap fun x => { x with bypass := false })) ∧
   (∀ (s : State) (packet : BitVec 512), s.wardenRuns = true → s.sessionOpen 2 = true →
     let t := s.modTap fun x => { x with ir := 0x22 }
     let tag := (Packet.req (.host 0) 0 (Packet.fields Packet.header (packet.toNat % 2 ^ 128))).tag.toNat
     let entry := fun (st r0 : Nat) => packBits [(tag, 0), (st, 16), (packet.toNat % 256, 32), (0x802, 40), (r0, 64)]
     (s.rng.failing = true → tapDraws packet = true →
       exec (.jtagDbgCmd packet) s = .next (t.modTap fun x => { x with cmds := x.cmds ++ [packet] })) ∧
     (s.rng.failing = false ∨ tapDraws packet = false →
       (∀ i, Packet.decode (.host 0) 0 packet.toNat = some i → i.wellFormed = true → exec (.jtagDbgCmd packet) s =
         .next ((runTap i t).1.modTap fun x => { x with stat := BitVec.ofNat 256 (entry (runTap i t).2.1 (runTap i t).2.2) })) ∧
       ((∀ i, Packet.decode (.host 0) 0 packet.toNat = some i → i.wellFormed = false) →
         exec (.jtagDbgCmd packet) s = .next (t.modTap fun x => { x with stat := BitVec.ofNat 256 (entry stBadField 0) })))))

/-- Attestation and random numbers (14 R364, R366): DEV.ATTEST of 0 bytes completes with ST_OK_EMPTY, of fewer than
4,096 with ST_BAD_FIELD; it waits while draws wait, and otherwise gives the host a quote with its nonce. A health test
that has failed makes draws wait and is reported, while the warden runs; a reseed, due after 2^20 outputs or 1 s, ends
that, and the TAP's challenges that waited are made; one that is not due does nothing. Completes: devAttest,
rngHealthFail, rngReseed. -/
def Obligations.QuotesAndDraws : Prop :=
  (∀ (s : State) (q : Req) (nonce a : BitVec 64) (n : BitVec 32), Runnable (.devAttest q nonce a n) q s → n ≠ 0 →
    (n.toNat < 4096 → exec (.devAttest q nonce a n) s = .next ((s.start q).finish q stBadField 0 0)) ∧
    (4096 ≤ n.toNat → s.rng.failing = true → exec (.devAttest q nonce a n) s = .next s)) ∧
  (∀ s : State, s.wardenRuns = false → exec .rngHealthFail s = .next s) ∧
  (∀ s : State, s.rng.outputs < 2 ^ 20 → s.now < s.rng.seededAt + 1000000 → exec .rngReseed s = .next s) ∧
  (∀ (s : State) (q : Req) (nonce a : BitVec 64), Runnable (.devAttest q nonce a 0) q s →
    exec (.devAttest q nonce a 0) s = .next ((s.start q).finish q stOkEmpty 0 0)) ∧
  (∀ (s : State) (q : Req) (nonce a : BitVec 64) (n : BitVec 32), Runnable (.devAttest q nonce a n) q s → 4096 ≤ n.toNat →
    s.rng.failing = false →
    exec (.devAttest q nonce a n) s = .next ((((s.start q).makeQuote nonce).1.writeHostOf q a
      ((s.start q).makeQuote nonce).2).finish q stOk 0 0) ∧
    ((s.start q).makeQuote nonce).2.length = 4096 ∧
    (((s.start q).makeQuote nonce).2.drop 8).take 8 = Bits.toBytes 8 nonce.toNat) ∧
  (∀ s : State, s.wardenRuns = true →
    exec .rngHealthFail s = .next ({ s with rng := { s.rng with failing := true } }.report 0x08 0 0 0)) ∧
  (∀ s : State, 2 ^ 20 ≤ s.rng.outputs ∨ s.rng.seededAt + 1000000 ≤ s.now →
    let t := { s with rng := { failing := false, outputs := 0, seededAt := s.now } }
    exec .rngReseed s = .next t.tapGoesOn ∧ (s.tap.chal = false → s.tap.cmds = [] → t.tapGoesOn = t))

/-! ### Host ports and the field port -/

/-- A port attaches (18 R443, R449, R454): while the endpoints are up, a port that is not attached gets its link's
rate and an empty host ring pair, events and MSI-X table; it becomes the primary port where there is none, and keeps
its version record and its counts; the other port, where attached, gets EV_HOST_ATTACH with the rate. Otherwise
nothing happens. Completes: portAttach. A port detaches (18 R443, R448 to R450, R452): its host ring pair is empty,
with counters 0, and its link's rate is 0 where the link is lost; every partition it owned has no owner from then on
and keeps its recorded one, and one whose orphan time is 0 is destroyed; the other port becomes primary where this one
was and the other is attached; the port's operator session and its challenge end; and the commands of its host ring
are void. A port that is not attached can only lose its link. A function-level reset is a detach, with the link up,
that also clears the MSI-X table. Completes: portDetach, functionLevelReset. ORPHAN_EXPIRY (18 R452): an orphaned
partition whose orphan time of PTN_HOST_CFG ms has passed, outside Calm, is destroyed, with EV_HOST_ATTACH to the
attached hosts and a fault item. Before, in Calm, with an orphan time that never expires, and for a partition that is
not orphaned, does not exist or is being destroyed, nothing happens. Completes: orphanExpiry. -/
def Obligations.HostPorts : Prop :=
  ((∀ (s : State) (h : Fin 2) (gen4 : Bool), s.endpointUp = true → (s.host h).attached = false →
     let t := s.modHost h fun x => { x with attached := true, rate := if gen4 then 2 else 1, ring := {}, events := {},
                                            wardenMem := [], msix := [], msixPending := [], hello := false }
     let u := if s.primary.isNone then { t with primary := some h } else t
     exec (.portAttach h gen4) s = .next (u.eventOther h 0x0090 1 h.val (if gen4 then 2 else 1))) ∧
   (∀ (s : State) (h : Fin 2) (gen4 : Bool), s.endpointUp = false ∨ (s.host h).attached = true →
     exec (.portAttach h gen4) s = .next s)) ∧
  ((∀ (s : State) (h : Fin 2) (up : Bool), exec (.portDetach ⟨h, up⟩) s =
     .next ((s.detach h).modHost h fun x => { x with rate := if up then x.rate else 0 })) ∧
   (∀ (s : State) (h : Fin 2), (s.host h).attached = false → s.detach h = s) ∧
   (∀ (s : State) (h : Fin 2) (p : Nat) (x : Partition), (s.host h).attached = true → s.ptn? p = some x → x.owner = some h →
     x.orphanedAt = none → x.hostCfg.toNat % 2 ^ 27 = 0 → x.destroying = false → (s.detach h).ptn? p = none) ∧
   (∀ (s : State) (h : Fin 2) (up : Bool), (s.host h).attached = true →
     (∀ p x, s.ptn? p = some x → x.hostCfg.toNat % 2 ^ 27 ≠ 0) →
     ∃ t, exec (.portDetach ⟨h, up⟩) s = .next t ∧ (t.host h).attached = false ∧ (t.host h).ring = {} ∧
       (t.host h).rate = (if up then (s.host h).rate else 0) ∧
       (∀ p x, s.ptn? p = some x → x.owner = some h → x.orphanedAt = none →
         t.owner p = none ∧ ∃ y, t.ptn? p = some y ∧ y.orphanedAt = some s.now ∧ y.owner = some h) ∧
       (∀ p x, s.ptn? p = some x → x.owner ≠ some h → t.ptn? p = some x) ∧
       (s.primary = some h → (s.host (otherPort h)).attached = true → t.primary = some (otherPort h)) ∧
       (s.primary = some h → (s.host (otherPort h)).attached = false → t.primary = none) ∧
       (s.primary ≠ some h → t.primary = s.primary) ∧
       (t.channel h.val).openedAt = none ∧ (t.channel h.val).challenge = none ∧
       (∀ a ∈ t.accepted, a.q.ring = .host h → a.void = true) ∧
       t.objs = s.objs ∧ t.tier1 = s.tier1 ∧ t.live = s.live) ∧
   (∀ (s : State) (h : Fin 2), exec (.functionLevelReset h) s =
     .next ((s.detach h).modHost h fun x => { x with msix := [], msixPending := [] }))) ∧
  ((∀ (s : State) (p : Fin 8), (∀ x, s.ptn? p.val = some x →
     s.power = .calm ∨ x.orphanedAt = none ∨ x.destroying = true ∨ x.hostCfg.toNat % 2 ^ 27 = 0x7FFFFFF) →
     exec (.orphanExpiry p) s = .next s) ∧
   ∀ (s : State) (p : Fin 8) (x : Partition), s.ptn? p.val = some x → s.power ≠ .calm → x.orphanedAt.isSome →
     x.destroying = false → x.hostCfg.toNat % 2 ^ 27 ≠ 0x7FFFFFF →
     (x.hostCfg.toNat % 2 ^ 27 * 1000 ≤ s.orphanTime x →
       exec (.orphanExpiry p) s = .next (s.expire p.val (x.owner.getD 0))) ∧
     (s.orphanTime x < x.hostCfg.toNat % 2 ^ 27 * 1000 → exec (.orphanExpiry p) s = .next s))

/-- Messages on the field port (18 R458 to R461, 15 R374, R377): one that the gate accepts acts. A shed directive sets
the shed latch and the holds follow; a cap request sets the field cap, clamped to the floor or, in an emergency, to
120 W, and is reported, or waits while the warden restarts; a wake wakes; an attestation request makes a quote due.
One that the gate drops has the gate's count as its only effect, and a frame with another identifier than its row's
has none. The shed pin acts by its level, active low. Completes: shedDirective, shedPin, capRequest, fieldWake,
attestationRequest. The message gate (18 R458, Table LNK.11): a frame outside the block, or one that finds the field
side without supply, leaves the state as it was; while the field core restarts a frame of the block counts as
bad_value; otherwise an identifier of the block that no message has, a bad form, a repeated sequence byte and a bad
value are each counted by their own counter and nothing else; a frame that passes counts as accepted. Completes:
fieldUnknownFrame. -/
def Obligations.FieldMessages : Prop :=
  ((∀ (s : State) (f : CanFrame) (off : Nat), ∀ e ∈ ([(0, .shedDirective f), (1, .capRequest f), (2, .fieldWake f),
       (3, .attestationRequest f)] : List (Nat × Instr)), e.1 = off →
     (f.ident.toNat ≠ s.field.block + off → exec e.2 s = .next s) ∧
     (∀ t, f.ident.toNat = s.field.block + off → s.gate f = (t, false) → exec e.2 s = .next t)) ∧
   (∀ (s t : State) (f : CanFrame), f.ident.toNat = s.field.block → s.gate f = (t, true) →
     exec (.shedDirective f) s = .next (t.modField fun x => { x with shedMsg := canField f 1 1 == 1 }).refreshHolds) ∧
   (∀ (s t : State) (f : CanFrame), f.ident.toNat = s.field.block + 1 → s.gate f = (t, true) →
     let w := canField f 1 2
     let emerg := canField f 3 1 == 1
     let cap := if emerg then max 120 w else max t.live.floor w
     let how := if emerg then (if w < 120 then 2 else 0) else (if w < t.live.floor then 1 else 0)
     (s.restarting wardenIsland = false → exec (.capRequest f) s = .next ((State.capChanged t.capInForce (if emerg then 3 else 2)
       { t with fieldCap := cap, fieldEmerg := emerg }).report 0x0C cap how w)) ∧
     (s.restarting wardenIsland = true →
       exec (.capRequest f) s = .next { t with heldWork := t.heldWork ++ [.cap w emerg] })) ∧
   (∀ (s t : State) (f : CanFrame), f.ident.toNat = s.field.block + 2 → s.gate f = (t, true) →
     exec (.fieldWake f) s = .next t.wakeAny) ∧
   (∀ (s t : State) (f : CanFrame), f.ident.toNat = s.field.block + 3 → s.gate f = (t, true) →
     exec (.attestationRequest f) s = .next (t.modField fun x =>
       { x with quote := some ([], 0), quoteNonce := BitVec.ofNat 64 (canField f 1 8), quoteAt := t.now })) ∧
   (∀ (s : State) (level : Bool),
     exec (.shedPin level) s = .next (s.modField fun x => { x with shedPin := !level }).refreshHolds)) ∧
  ((∀ (s : State) (f : CanFrame), s.field.vdd = true → s.field.block ≤ f.ident.toNat → f.ident.toNat < s.field.block + 16 →
     s.restarting fieldIsland = true → s.gate f = (s.modField fun x => { x with badValue := sat16 x.badValue }, false)) ∧
   (∀ (s : State) (f : CanFrame), exec (.fieldUnknownFrame f) s =
     .next (if f.ident.toNat < s.field.block + 4 then s else (s.gate f).1)) ∧
   (∀ (s : State) (f : CanFrame), s.field.vdd = false ∨ f.ident.toNat < s.field.block ∨ s.field.block + 16 ≤ f.ident.toNat →
     s.gate f = (s, false)) ∧
   (∀ (s : State) (f : CanFrame), s.field.vdd = true → s.restarting fieldIsland = false → s.field.block + 4 ≤ f.ident.toNat →
     f.ident.toNat < s.field.block + 16 →
     exec (.fieldUnknownFrame f) s = .next (s.modField fun x => { x with unknownId := sat16 x.unknownId })) ∧
   (∀ (s : State) (f : CanFrame) (off : Nat), s.field.vdd = true → s.restarting fieldIsland = false → off < 4 →
     f.ident.toNat = s.field.block + off →
     (formOk off f = false → s.gate f = (s.modField fun x => { x with badForm := sat16 x.badForm }, false)) ∧
     (formOk off f = true → (s.field.rxSeq.any fun e => e.1 == off && f.data.head? == some e.2) = true →
       s.gate f = (s.modField fun x => { x with repeats := sat16 x.repeats }, false)) ∧
     (formOk off f = true → (s.field.rxSeq.any fun e => e.1 == off && f.data.head? == some e.2) = false →
       (s.valueOk off f = false → s.gate f = (s.modField fun x => { x with badValue := sat16 x.badValue }, false)) ∧
       (s.valueOk off f = true → (s.gate f).2 = true ∧
         (s.gate f).1.field.accepted = BitVec.ofNat 32 (min (s.field.accepted.toNat + 1) (2 ^ 32 - 1)) ∧
         ∃ x, (s.gate f).1 = { s with field := x }))))

/-- Messages from the device (18 R456, R460 to R463): a beacon each 10 ms, of 16 bytes; a quote fragment at most each
1 ms, the last of 74 ending the quote, which is made at the first while the device is in Run, draws may be had and the
warden runs; a fault summary of the items lost or else of the oldest item queued, which leaves the queue and takes the
next number, or the last summary again after 1,000 ms. A field core that does not send, and a message that is not due,
change nothing. Bus-off is counted where the field side has its supply; the loss of the warden's heartbeat stops
FLD_HEALTH. Completes: beacon, quoteFragment, faultSummary, busOff, wardenHeartbeatLoss. -/
def Obligations.FieldReports : Prop :=
  (∀ s : State, s.fieldSends = false →
    exec .beacon s = .next s ∧ exec .quoteFragment s = .next s ∧ exec .faultSummary s = .next s) ∧
  (∀ s : State, s.field.quote = none → exec .quoteFragment s = .next s) ∧
  (∀ (s : State) (bs : List Byte) (i : Nat), s.field.quote = some (bs, i) → i ≠ 0 → s.now < s.field.quoteAt + 1000 →
    exec .quoteFragment s = .next s) ∧
  (∀ (s : State) (i : Nat), s.field.quote = some ([], i) → s.fieldSends = true → i = 0 ∨ s.field.quoteAt + 1000 ≤ s.now →
    let ready := !s.rng.failing && s.power == .run && !s.restarting wardenIsland
    let u := (s.makeQuote s.field.quoteNonce).1
    let bs := (s.makeQuote s.field.quoteNonce).2
    (ready = false → exec .quoteFragment s = .next s) ∧
    (ready = true → exec .quoteFragment s = .next ((u.sendCan 10 64 (BitVec.ofNat 8 i :: (bs.drop (56 * i)).take
      56)).modField fun x => { x with quoteAt := s.now, quote := if i = 73 then none else some (bs, i + 1) }))) ∧
  (∀ s : State, s.fieldSends = true → s.field.firmware = false → exec .faultSummary s = .next s) ∧
  (∀ s : State, s.fieldSends = true → s.field.firmware = true → s.field.lost = 0 → s.field.items = [] →
    (s.field.summary = [] ∨ s.now < s.field.summaryAt + 1000000 → exec .faultSummary s = .next s) ∧
    (s.field.summary ≠ [] → s.field.summaryAt + 1000000 ≤ s.now → exec .faultSummary s =
      .next ((s.sendCan 9 32 s.field.summary).modField fun x => { x with summaryAt := s.now }))) ∧
  (∀ (s : State), s.fieldSends = true → s.field.firmware = true → s.field.lost ≠ 0 →
    ∃ bs t, exec .faultSummary s = .next t ∧ bs.length = 29 ∧ t.field.items = s.field.items ∧ t.field.lost = 0 ∧
      t.field.summaryNo = s.field.summaryNo + 1 ∧ t.field.summary = bs ∧ t.field.summaryAt = s.now ∧
      t.field.sent.length = s.field.sent.length + 1 ∧ ∃ x, t = { s with field := x }) ∧
  (∀ s : State, s.fieldSends = true → s.field.beaconAt + 10000 ≤ s.now →
    exec .beacon s = .next ((s.sendCan 8 16 s.beaconBytes).modField fun x => { x with beaconAt := s.now })) ∧
  (∀ s : State, s.now < s.field.beaconAt + 10000 → exec .beacon s = .next s) ∧
  (∀ (s : State) (bs : List Byte) (i : Nat), s.field.quote = some (bs, i) → s.fieldSends = true → bs ≠ [] →
    i = 0 ∨ s.field.quoteAt + 1000 ≤ s.now →
    exec .quoteFragment s = .next ((s.sendCan 10 64 (BitVec.ofNat 8 i :: (bs.drop (56 * i)).take 56)).modField fun x =>
      { x with quoteAt := s.now, quote := if i = 73 then none else some (bs, i + 1) })) ∧
  (∀ (s : State) (i : FieldItem) (rest : List FieldItem), s.fieldSends = true → s.field.firmware = true →
    s.field.lost = 0 → s.field.items = i :: rest →
    ∃ bs t, exec .faultSummary s = .next t ∧ bs.length = 29 ∧ t.field.items = rest ∧
      t.field.summaryNo = s.field.summaryNo + 1 ∧ t.field.summary = bs ∧ t.field.summaryAt = s.now ∧
      t.field.sent.length = s.field.sent.length + 1 ∧ ∃ x, t = { s with field := x }) ∧
  (∀ s : State, s.field.vdd = false → exec .busOff s = .next s) ∧
  (∀ s : State, s.field.vdd = true → exec .busOff s = .next (s.modField fun x => { x with busOff := sat16 x.busOff })) ∧
  (∀ s : State, exec .wardenHeartbeatLoss s = .next (s.modField fun x => { x with heartbeat := false }))

/-! ### Power and the boot -/

/-- PWR.ENTER and entry to a state (15 R373 to R375). The command records the state to enter; Run is ST_OK_EMPTY; a
Guarded partition or another command in progress refuses it, a Felt group or a weight session refuses Calm, and a
partition refuses Still and Frost; entry to Calm, Still or Frost waits while a PTN.DESTROY is in progress. With no
command in progress the device then enters the state: Lull with a held frame for each member of a group, Calm with the
Felt ports down, Still without the stacks' contents, without ports and without address, and Frost without partitions,
contexts and objects, of the hosts with their links, host rings and memory. AUTO_LULL enters Lull after the idle time,
with no command in progress, no Guarded partition and no state to enter. Otherwise neither changes anything.
Completes: pwrEnter, powerStateEntry, autoLull. Wakes and starts (15 R374, R376, 17 R435, 08 R181). The wake line
wakes from every state below Run, and a host link that connects, at its rate, from Still and Frost, unless a thermal
trip is unreleased; in other states, and without VIN48 for the link, they wake nothing. A thaw waits for REFCLK to be
present for 1 ms and for the release of a trip, and takes Still back to Run with its host side as it was; a thaw of
Frost and a cold start run the boot ROM once the clock is there, which starts the cores on the image of the boot area
that passes its checks, or enters recovery with the step that fails. TIER1_READY lets the commands that wait for
stacked memory start. Completes: wakeLine, hostLinkConnect, thaw, bootRomStart, tier1Ready. -/
def Obligations.PowerAndWakes : Prop :=
  ((∀ (s : State) (q : Req) (t : BitVec 3), Runnable (.pwrEnter q t) q s →
     (targetOf t = none → exec (.pwrEnter q t) s = .next ((s.start q).finish q stOkEmpty 0 0)) ∧
     (∀ x, targetOf t = some x → x ≠ .lull → (s.start q).accepted.any (fun a => isDestroy a.cmd) = true →
       exec (.pwrEnter q t) s = .next s) ∧
     (∀ x, targetOf t = some x → (x = .lull ∨ (s.start q).accepted.any (fun a => isDestroy a.cmd) = false) →
       ((s.start q).enterBarred q x = true → exec (.pwrEnter q t) s = .next ((s.start q).finish q stInUse 0 0)) ∧
       ((s.start q).enterBarred q x = false → exec (.pwrEnter q t) s =
         .next (({ s.start q with pwr := { s.pwr with target := some x } } : State).finish q stOk 0 0)))) ∧
   (∀ s : State, s.power = .run → s.accepted = [] →
     let t := { s with pwr := { s.pwr with target := none } }
     (s.pwr.target = some .lull → exec .powerStateEntry s = .next t.enterLull) ∧
     (s.pwr.target = some .calm → exec .powerStateEntry s = .next (t.enterState .calm).portsDown) ∧
     (s.pwr.target = some .still → exec .powerStateEntry s = .next t.enterStill ∧ t.enterStill.tier1 = [] ∧
       t.enterStill.layer = [] ∧ t.enterStill.tier1Ready = false ∧ t.enterStill.felt.addr = none ∧
       t.enterStill.live = s.live) ∧
     (s.pwr.target = some .frost → exec .powerStateEntry s = .next t.enterFrost ∧ t.enterFrost.power = .frost ∧
       t.enterFrost.ctxs = [] ∧ t.enterFrost.objs = [] ∧ (∀ p, t.enterFrost.ptn? p = none) ∧
       t.enterFrost.hosts = s.hosts.map HostSide.frozen ∧ t.enterFrost.primary = s.primary ∧
       t.enterFrost.fw.rollback = s.fw.rollback)) ∧
   (∀ s : State, s.power ≠ .run ∨ s.accepted ≠ [] ∨ s.pwr.target = none → exec .powerStateEntry s = .next s) ∧
   (∀ s : State, s.power = .run → s.live.autoLull = true → s.accepted = [] → s.pwr.target = none →
     (s.ptnNos.any fun p => ((s.ptn? p).map (·.live.guarded)).getD false) = false →
     (s.idleSince + s.live.lullIdle ≤ s.now → exec .autoLull s = .next s.enterLull) ∧
     (s.now < s.idleSince + s.live.lullIdle → exec .autoLull s = .next s)) ∧
   (∀ s : State, s.power ≠ .run ∨ s.live.autoLull = false ∨ s.accepted ≠ [] ∨ s.pwr.target ≠ none ∨
     (s.ptnNos.any fun p => ((s.ptn? p).map (·.live.guarded)).getD false) = true → exec .autoLull s = .next s)) ∧
  ((∀ s : State, s.field.tripped = false → s.power = .still ∨ s.power = .frost →
     exec .wakeLine s = .next { s with supplies := { s.supplies with waking := true } }) ∧
   (∀ s : State, s.field.tripped = true → s.power = .still ∨ s.power = .frost → exec .wakeLine s = .next s) ∧
   (∀ s : State, s.power = .lull ∨ s.power = .calm → exec .wakeLine s = .next s.wake ∧ s.wake.power = .run) ∧
   (∀ s : State, s.power = .run ∨ s.power = .off → exec .wakeLine s = .next s) ∧
   (∀ (s : State) (h : Fin 2) (gen4 : Bool),
     let t := s.modHost h fun x => { x with rate := if gen4 then 2 else 1 }
     (s.supplies.vin = false → exec (.hostLinkConnect ⟨h, gen4⟩) s = .next s) ∧
     (s.supplies.vin = true → s.field.tripped = false → s.power = .still ∨ s.power = .frost →
       exec (.hostLinkConnect ⟨h, gen4⟩) s = .next { t with supplies := { s.supplies with waking := true } }) ∧
     (s.supplies.vin = true → s.field.tripped = true ∨ (s.power ≠ .still ∧ s.power ≠ .frost) →
       exec (.hostLinkConnect ⟨h, gen4⟩) s = .next t)) ∧
   (∀ s : State, s.mayThaw = true →
     (s.power = .still → exec .thaw s = .next
       ((({ s.enterState .run with
            idleSince := s.now, supplies := { s.supplies with waking := false, stateSince := s.now }
            field := { s.field with heartbeat := true } } : State).raiseLinks).issueFlash)) ∧
     (s.power = .frost → exec .thaw s = .next s.bootRom ∧ exec .bootRomStart s = .next s.bootRom) ∧
     (s.power ≠ .still → s.power ≠ .frost → exec .thaw s = .next s)) ∧
   (∀ s : State, s.mayThaw = false → exec .thaw s = .next s) ∧
   (∀ s : State, s.recovery = none →
     (s.power = .off → s.supplies.booting = true → s.clockFor 0 = true → exec .bootRomStart s = .next s.bootRom) ∧
     (s.power = .off → s.supplies.booting = false ∨ s.clockFor 0 = false → exec .bootRomStart s = .next s) ∧
     (s.power ≠ .off → s.power ≠ .frost ∨ s.mayThaw = false → exec .bootRomStart s = .next s)) ∧
   (∀ s : State,
     (∀ n, (s.bootCheck fun k => Config.pageErrors s.free k ≤ 72) = .error n →
       s.bootRom = s.takeFree.2.enterRecovery n ∧ s.bootRom.recovery = some { fail := BitVec.ofNat 8 n } ∧
         s.bootRom.power = s.power) ∧
     (∀ m x, (s.bootCheck fun k => Config.pageErrors s.free k ≤ 72) = .ok (m, x) →
       s.bootRom = (s.takeFree.2.modFw fun f => { f with boot := some x.info }).startCores x.info m ∧ s.bootRom.power = .run ∧
         s.bootRom.recovery = none)) ∧
   (∀ s : State, s.wardenRuns = true → exec .tier1Ready s = .next { s with tier1Ready := true }) ∧
   (∀ s : State, s.wardenRuns = false → exec .tier1Ready s = .next s))

/-- The supplies and the clock (19 R472 to R477, 17 R437, 18 R459). VIN48 starts a cold start and its removal takes
the host side to Off at once, which leaves the hosts' memory, the anti-rollback row, what the flash store holds where
it was doing nothing, and the field side, and ends the shed latch and the field cap; the field supply's loss takes the
field core's section, queue and quote, and its return starts the core from its ROM with its counters at reset. The
loss of REFCLK in Run, Lull or Calm, and a thermal trip, abort every command and enter Frost with the host rings
empty; a trip stays until the die has cooled. A supply or a clock that is there already, or already gone, and a
reading below the trip change nothing. Completes: powerOn, powerRemove, fieldPowerOn, fieldVddLoss, refclkPresent,
refclkLoss, thermalTrip. Recovery (17 R441): a write of go by an attached port while the ROM waits, with a length,
starts a load from that port's memory; any other write of go does nothing more than show the host's memory. The ROM
then takes its steps one by one: it reads the image into the staging area, checks it, and starts the cores, with the
boot area to be written; one too long, or whose host is gone, fails step 3 and one that is not authentic step 4, and
the ROM waits again. Completes: recoveryGo. -/
def Obligations.SuppliesRecovery : Prop :=
  ((∀ s : State, s.supplies.vin = false →
     exec .powerOn s = .next { s with supplies := { s.supplies with vin := true, booting := true } } ∧
     exec .powerRemove s = .next s) ∧
   (∀ s : State, s.supplies.vin = true → exec .powerOn s = .next s ∧
     ∃ t, exec .powerRemove s = .next t ∧ t.power = .off ∧ t.supplies.vin = false ∧
     (∀ h, (t.host h).attached = false ∧ (t.host h).mem = (s.host h).mem) ∧ (∀ p, t.ptn? p = none) ∧ t.ctxs = [] ∧
     t.objs = [] ∧ t.accepted = [] ∧ t.tier1 = [] ∧ t.layer = [] ∧ t.fieldCap = 600 ∧
     t.fieldEmerg = false ∧ t.field.shedMsg = false ∧ t.fw.rollback = s.fw.rollback ∧ t.field.items = s.field.items ∧
     t.field.vdd = s.field.vdd ∧ t.pending = s.pending ∧
     (s.flash.jobs = [] → (∀ d : Fin 8, s.flash.journals[d].writing = none) → (∀ d : Fin 2, s.flash.logs[d].writing = none) →
       t.flash.pages = s.flash.pages)) ∧
   (∀ s : State, s.field.vdd = false → ∃ f, exec .fieldPowerOn s = .next { s with field := f } ∧ f.vdd = true ∧
     f.firmware = false ∧ f.accepted = 0 ∧ f.unknownId = 0 ∧ f.badForm = 0 ∧ f.badValue = 0 ∧ f.repeats = 0 ∧ f.busOff = 0 ∧
     f.cfg = s.field.cfg ∧ f.shedMsg = s.field.shedMsg) ∧
   (∀ s : State, s.field.vdd = true → exec .fieldPowerOn s = .next s) ∧
   (∀ s : State, exec .fieldVddLoss s = .next { s with field := { s.field with
     vdd := false, firmware := false, code := [], items := [], lost := 0, quote := none, summary := [], summaryNo := 0,
     rxSeq := [], txSeq := [] } }) ∧
   (∀ s : State, (s.supplies.refSince = none →
       exec .refclkPresent s = .next { s with supplies := { s.supplies with refSince := some s.now } }) ∧
     (s.supplies.refSince ≠ none → exec .refclkPresent s = .next s)) ∧
   (∀ s : State,
     let u : State := { s with supplies := { s.supplies with refSince := none } }
     (s.wardenRuns = false → exec .refclkLoss s = .next u) ∧
     (s.wardenRuns = true → exec .refclkLoss s = .next u.abortToFrost ∧ u.abortToFrost.power = .frost ∧
       u.abortToFrost.accepted = [] ∧ ∀ h, (u.abortToFrost.host h).ring = {})) ∧
   (∀ (s : State) (die stack : BitVec 8), (s.wardenRuns = false ∧ s.power ≠ .still) ∨ (celsius die < 120 ∧ celsius stack < 105) →
     exec (.thermalTrip die stack) s = .next s) ∧
   (∀ (s : State) (die stack : BitVec 8), s.wardenRuns = true ∨ s.power = .still → 120 ≤ celsius die ∨ 105 ≤ celsius stack →
     ∃ t, exec (.thermalTrip die stack) s = .next t ∧ t.power = .frost ∧ t.field.tripped = true ∧ t.accepted = [] ∧
       ∀ h, (t.host h).ring = {})) ∧
  ((∀ (s : State) (port : Fin 2) (value : BitVec 32) (host : HostBytes),
     let u := s.modHost port fun x => { x with mem := host.foldl (fun m (a, b) => Mem.put m a b) x.mem }
     (s.recovery = none ∨ (s.host port).attached = false ∨ value.getLsbD 0 = false →
       exec (.recoveryGo port value host) s = .next u) ∧
     (∀ r, s.recovery = some r → r.len = 0 ∨ r.state ≠ 1 → exec (.recoveryGo port value host) s = .next u) ∧
     (∀ r, s.recovery = some r → (s.host port).attached = true → value.getLsbD 0 = true → r.len ≠ 0 → r.state = 1 →
       exec (.recoveryGo port value host) s =
         .next { u with recovery := some { r with fail := 0, port := port, state := 2 } })) ∧
   (∀ (s : State) (r : Recovery), s.recovery = some r →
     let fails := fun (n : BitVec 8) => { s with recovery := some { r with fail := n, state := 1 } }
     (r.state ≠ 2 → r.state ≠ 3 → r.state ≠ 4 → exec .bootRomStart s = .next s) ∧
     (r.state = 2 → 4194304 < r.len.toNat ∨ (s.host r.port).attached = false → exec .bootRomStart s = .next (fails 3)) ∧
     (r.state = 2 → r.len.toNat ≤ 4194304 → (s.host r.port).attached = true → exec .bootRomStart s = .next
       { s with recovery := some { r with state := 3 }
                fw := { s.fw with staged := Mem.write [] 0 (s.readHost r.port r.addr.toNat r.len.toNat) } }) ∧
     (r.state = 3 ∨ r.state = 4 → readFw s.fw.staged = none → exec .bootRomStart s = .next (fails 4)) ∧
     (∀ x, readFw s.fw.staged = some x →
       (r.state = 3 → x.authentic s.fw.staged s.fw.steps = false → exec .bootRomStart s = .next (fails 4)) ∧
       (r.state = 3 → x.authentic s.fw.staged s.fw.steps = true →
         exec .bootRomStart s = .next { s with recovery := some { r with state := 4 } }) ∧
       (r.state = 4 → exec .bootRomStart s = .next (((s.startCores x.info s.fw.staged).modFw fun f => { f with
         staged := s.fw.staged, activation := some { q := none, image := x.info, cores := activationOrder.length } }).writeBoot)))))

/-- The limits (15 R390, 08 R186): the readings are kept and set each stack's refresh rate, doubled above 85 degrees
and single again at 82; the throttle begins at a die of 105 or a stack of 95 degrees and ends at 100 and 90; the die's
limit begins at 112 and ends at 105; a step lowers the ceiling by 31.25 MHz while the throttle acts and it is hot, by
6.25 MHz under the rail limit, beside that, which a free value releases, and raises it by 31.25 MHz with none of rows
0, 1, 3 and 4 acting; an input below its threshold sets row 3 with the ceiling at its lowest. The ceiling stays
between 937.5 and 1,562.5 MHz. While the warden restarts the readings change no limit and the ceiling takes no step
(16 Table FLT.6). Completes: tempReadout, ceilingStep, railOvercurrent, inputUndervoltage, inputVoltageRestored.
AGEING_REPLAN (15 R393): the re-plan comes to the islands in turn, in Run or Lull, a round beginning with island 0
once 10 minutes of such time have passed since the last began. An island's offset rises by the steps that restore its
least margin while the voltage ceiling allows them; where they would pass it, an island whose clock moves gives up one
step of f_max, or at its lowest clock is exhausted; one whose clock does not move is exhausted once it stands at its
ceiling. The other islands stay as they were. A re-plan that does not come to the island, which for the field island
and while the warden restarts is every one, changes nothing. Completes: ageingReplan. -/
def Obligations.PowerLimitsAgeing : Prop :=
  ((∀ (s : State) (die : BitVec 8) (temps : Vector (BitVec 8) 6),
     ∃ t, exec (.tempReadout die temps) s = .next t ∧ t.pwr.die = die ∧ t.pwr.stackTemps = temps ∧
       (∀ k : Fin 6, (85 < celsius temps[k] → t.memc.doubled[k] = true) ∧ (celsius temps[k] ≤ 82 → t.memc.doubled[k] = false) ∧
         (82 < celsius temps[k] → celsius temps[k] ≤ 85 → t.memc.doubled[k] = s.memc.doubled[k])) ∧
       (s.restarting wardenIsland = true → t.pwr.acting = s.pwr.acting ∧ t.pwr.ceiling = s.pwr.ceiling) ∧
       (s.wardenRuns = true → s.restarting wardenIsland = false → ((105 ≤ celsius die ∨ ∃ k : Fin 6, 95 ≤ celsius temps[k]) → t.pwr.acts 0 = true) ∧
         (celsius die ≤ 100 → (∀ k : Fin 6, celsius temps[k] ≤ 90) → t.pwr.acts 0 = false) ∧ (112 ≤ celsius die → t.pwr.acts 1 = true ∧ t.pwr.ceiling = 150) ∧
         (celsius die ≤ 105 → t.pwr.acts 1 = false)) ∧
       (90 < celsius die → t.field.tripped = s.field.tripped) ∧ (celsius die ≤ 90 → t.field.tripped = false)) ∧
   (∀ s : State, s.restarting wardenIsland = true → exec .ceilingStep s = .next s ∧ exec .railOvercurrent s = .next s) ∧
   (∀ s : State, s.restarting wardenIsland = false →
     let hot := s.pwr.acts 0 = true ∧ (105 ≤ celsius s.pwr.die ∨ 95 ≤ s.pwr.hottest.1)
     let cooler := if hot then s.pwr.ceiling - 5 else s.pwr.ceiling
     (s.pwr.acts 4 = true → exec .ceilingStep s = .next (if s.takeFree.1.getLsbD 0
       then s.takeFree.2.setLimits (s.pwr.acting &&& 15#5) cooler else s.takeFree.2.setLimits s.pwr.acting (cooler - 1))) ∧
     (s.pwr.acts 4 = false → hot → exec .ceilingStep s = .next (s.setLimits s.pwr.acting (s.pwr.ceiling - 5))) ∧
     (s.pwr.acting &&& 0x1B#5 = 0 → exec .ceilingStep s = .next (s.setLimits s.pwr.acting (s.pwr.ceiling + 5))) ∧
     (s.pwr.acts 4 = false → ¬hot → s.pwr.acting &&& 0x1B#5 ≠ 0 → exec .ceilingStep s = .next s)) ∧
   (∀ s : State, exec .inputUndervoltage s = .next (s.setLimits (s.pwr.acting ||| 8#5) 150)) ∧
   (∀ s : State, exec .inputVoltageRestored s = .next (s.setLimits (s.pwr.acting &&& ~~~8#5) s.pwr.ceiling)) ∧
   (∀ s : State, s.restarting wardenIsland = false → exec .railOvercurrent s = .next (s.setLimits (s.pwr.acting ||| 16#5) (s.pwr.ceiling - 1))) ∧
   (∀ (s : State) (acting : BitVec 5) (c : Nat), s.wardenRuns = true → (s.setLimits acting c).pwr.acting = acting ∧
     (s.setLimits acting c).pwr.ceiling = max 150 (min 250 c) ∧ 150 ≤ (s.setLimits acting c).pwr.ceiling ∧
     (s.setLimits acting c).pwr.ceiling ≤ 250)) ∧
  ((∀ (s : State) (i : Nat), s.replans i = true ↔ i ≠ fieldIsland ∧ s.restarting wardenIsland = false ∧
     (s.power = .run ∨ s.power = .lull) ∧ i = s.pwr.replan ∧ (i ≠ 0 ∨ s.pwr.replanned + 600000000 ≤ s.activeTime)) ∧
   (∀ (s : State) (i : Fin 152) (m : Vector (BitVec 16) 4), s.replans i.val = false →
     exec (.ageingReplan i m) s = .next s) ∧
   (∀ (s : State) (i : Fin 152) (m : Vector (BitVec 16) 4) (least : BitVec 16), s.replans i.val = true → least ∈ m.toList →
     (∀ x ∈ m.toList, Bits.signed 16 least.toNat ≤ Bits.signed 16 x.toNat) →
     let a := s.age i.val
     let up := Config.restoreSteps i.val least
     let past := up ≠ 0 ∧ Config.voltageCeiling i.val < tableVoltage i.val a.fMax + a.offset + up
     let v := tableVoltage i.val a.fMax
     ∃ t, exec (.ageingReplan i m) s = .next t ∧
       (t.age i.val).offset = (if up = 0 then a.offset else if past then max a.offset (Config.voltageCeiling i.val - v) else a.offset + up) ∧
       (t.age i.val).fMax = (if past ∧ movingIsland i.val = true ∧ islandBottom i.val < a.fMax then max (islandBottom i.val) (a.fMax - islandStep i.val) else a.fMax) ∧
       ((t.age i.val).exhausted = true ↔ a.exhausted = true ∨
         (if movingIsland i.val = true then past ∧ a.fMax ≤ islandBottom i.val
          else Config.voltageCeiling i.val ≤ v + (t.age i.val).offset)) ∧
       t.pwr.replan = (i.val + 1) % 151 ∧
       (∀ j, j ≠ i.val → t.age j = s.age j) ∧ t.objs = s.objs ∧ t.tier1 = s.tier1))

/-- PWR commands and the power estimates (15 R378, R379, R395): PWR.CAP stages the host cap, and the floor where it
names one, and commits PWR_CAP; PWR.MODE stages mode and drizzle, commits PWR_CFG, and empties on request the phase
entries of a partition that the ring reaches, one that it does not reach being ST_NO_OBJECT; PWR.QUERY answers the
state of power, of the ring's or a named partition, of an island or of its table, a host partition that the port does
not own being ST_NO_OBJECT, an island or point that is not there ST_BAD_FIELD, and a context that asks for an island
ST_DENIED; the estimate joins the last ten of its partition, unless the warden restarts. Completes: pwrCap, pwrMode,
pwrQuery, powerEstimate. -/
def Obligations.PowerCommands : Prop :=
  (∀ (s : State) (q : Req) (host floor : BitVec 10), Runnable (.pwrCap q host floor) q s →
    let a := (s.start q).stageDev .pwrCap (BitVec.ofNat 64 host.toNat) 0x3FF
    let b := if floor = 0 then a else a.stageDev .pwrCap (BitVec.ofNat 64 (floor.toNat * 65536)) 0x3FF0000
    let r := b.commitDevice [.pwrCap]
    exec (.pwrCap q host floor) s = .next (r.1.finish q r.2.1 r.2.2 0)) ∧
  (∀ (s : State) (q : Req) (mode drizzle clear : Bool) (p : BitVec 3), Runnable (.pwrMode q mode drizzle clear p) q s →
    let r := ((s.start q).stageDev .pwrCfg (BitVec.ofNat 64 (Bits.ofBool mode + 2 * Bits.ofBool drizzle)) 3).commitDevice
      [.pwrCfg]
    (clear = false ∨ (r.2.1 ≠ stOk ∧ s.reachesPtn q.ring p.toNat = true) →
      exec (.pwrMode q mode drizzle clear p) s = .next (r.1.finish q r.2.1 r.2.2 0)) ∧
    (clear = true → s.reachesPtn q.ring p.toNat = true → r.2.1 = stOk →
      exec (.pwrMode q mode drizzle clear p) s = .next ((r.1.clearPhases p.toNat).finish q stOk r.2.2 0)) ∧
    (clear = true → s.reachesPtn q.ring p.toNat = false →
      exec (.pwrMode q mode drizzle clear p) s = .next ((s.start q).finish q stNoObject 0 0))) ∧
  (∀ (s : State) (q : Req) (kind : BitVec 2) (p : BitVec 3) (island : BitVec 8) (point : BitVec 4),
    Runnable (.pwrQuery q kind p island point) q s →
    let u := s.start q
    (kind = 0 → exec (.pwrQuery q kind p island point) s = .next (u.finish q stOk u.pwrStat 0)) ∧
    (∀ h x, kind = 1 → q.ring = .host h → u.owner p.toNat = some h → u.ptn? p.toNat = some x →
      exec (.pwrQuery q kind p island point) s = .next (u.finish q stOk (State.pwrPtnStat x) 0)) ∧
    (∀ c x, kind = 1 → q.ring = .ctx c → u.ptn? (ptnOf c) = some x →
      exec (.pwrQuery q kind p island point) s = .next (u.finish q stOk (State.pwrPtnStat x) 0)) ∧
    (∀ h, kind = 1 → q.ring = .host h → u.owner p.toNat ≠ some h →
      exec (.pwrQuery q kind p island point) s = .next (u.finish q stNoObject 0 0)) ∧
    (∀ c, kind = 1 → q.ring = .ctx c → u.ptn? (ptnOf c) = none →
      exec (.pwrQuery q kind p island point) s = .next (u.finish q stNoObject 0 0)) ∧
    (∀ h, kind.toNat ≥ 2 → q.ring = .host h → 150 < island.toNat ∨ (kind = 3 ∧ movingIsland island.toNat = false ∧ point ≠ 0) →
      exec (.pwrQuery q kind p island point) s = .next (u.finish q stBadField 0 0)) ∧
    (∀ h, kind = 2 → q.ring = .host h → island.toNat ≤ 150 → exec (.pwrQuery q kind p island point) s = .next (u.finish q stOk
      (packBits [((u.age island.toNat).offset % 256, 0), ((u.age island.toNat).fMax % 256, 8),
        (Bits.ofBool (u.age island.toNat).exhausted, 16)]) (u.age island.toNat).forecast)) ∧
    (∀ h, kind = 3 → q.ring = .host h → island.toNat ≤ 150 → movingIsland island.toNat = true ∨ point = 0 →
      exec (.pwrQuery q kind p island point) s = .next (u.finish q stOk
        (packBits [((islandPoint island.toNat point.toNat).1 % 256, 0),
          ((islandPoint island.toNat point.toNat).2 % 65536, 16)]) (Config.voltageCeiling island.toNat % 65536))) ∧
    (∀ c, kind.toNat ≥ 2 → q.ring = .ctx c →
      exec (.pwrQuery q kind p island point) s = .next (u.finish q stDenied 0 0))) ∧
  (∀ (s : State) (p : Fin 8) (mw : Nat), s.restarting wardenIsland = true → exec (.powerEstimate p mw) s = .next s) ∧
  (∀ (s : State) (p : Fin 8) (mw : Nat), s.restarting wardenIsland = false → exec (.powerEstimate p mw) s = .next (s.modPtn p.val fun x =>
    { x with power := { x.power with estimates := Lists.lastN 10 (x.power.estimates ++ [mw]) } }))

/-! ### Faults, resets and watchdogs -/

/-- A fault of a context or a partition (16 R400 to R402, R407, R413). Its record takes the partition's next record
number, which then advances. A fault of kind 0x05, 0x09 or 0x0A, and a context's in a partition whose unit of reset is
the partition or whose contexts have been reset ctx_n times in the window, resets the partition; another resets its
context, with the run of the context stopped; and a partition whose resets in the window come to ptn_n goes out of
service. A context or partition already being reset stays as it is. -/
def Obligations.FaultResponse : Prop :=
  (∀ (s : State) (f : FaultInfo) (p : Nat) (x : Partition), f.ptn = some p → s.ptn? p = some x → p < 8 →
    (s.takeRecord f).2 = x.recNo ∧ ∃ y, (s.takeRecord f).1.ptn? p = some y ∧ y.recNo = x.recNo + 1 ∧ y.run = x.run ∧
      y.reset = x.reset ∧ y.records = keepRecords (x.records ++
        [{ number := x.recNo, ctx := f.ctx.getD 0, bits := f.bits x.recNo x.beat.count.toNat false }])) ∧
  (∀ (s : State) (c : CtxNo) (no : BitVec 16) (x : Partition) (y : Context), s.ptn? (ptnOf c) = some x → s.ctx? c = some y →
    x.status ≠ .outOfService → x.reset = none → y.reset = none →
    let ts := inWindow s.now s.live.ctxWin x.ctxResets
    (s.live.unit (ptnOf c) ≠ 1 → ts.length + 1 < s.live.ctxN →
      ∃ t, s.startCtxReset c no = t ∧ (t.ctx? c).bind (·.reset) = some { since := s.now, number := no, ctx := some c } ∧
        ((t.ptn? (ptnOf c)).map (·.ctxResets)) = some (ts ++ [s.now]) ∧ ((t.ptn? (ptnOf c)).bind (·.reset)) = none ∧
        (∀ r z, x.run = some r → r.ctx = c → t.ptn? (ptnOf c) = some z → z.run = some { r with stopped := true })) ∧
    (s.live.unit (ptnOf c) = 1 ∨ s.live.ctxN ≤ ts.length + 1 → s.startCtxReset c no = s.startPtnReset (ptnOf c) no (some c))) ∧
  (∀ (s : State) (p : Nat) (no : BitVec 16) (c : Option CtxNo) (x : Partition), s.ptn? p = some x → p < 8 →
    (x.reset.isSome ∨ x.status = .outOfService → s.startPtnReset p no c = s) ∧
    (x.reset = none → x.status ≠ .outOfService →
      let ts := inWindow s.now s.live.ptnWin x.ptnResets
      (s.live.ptnN ≤ ts.length + 1 → s.startPtnReset p no c = s.goOut p no c ∧
        (((s.goOut p no c).ptn? p).map (·.status)) = some .outOfService) ∧
      (ts.length + 1 < s.live.ptnN → (s.startPtnReset p no c).ptn? p = some { x with
        status := .resetting, reset := some { since := s.now, number := no, ctx := c }, ctxResets := []
        ptnResets := ts ++ [s.now], run := x.run.map fun r => { r with stopped := true } })))

/-- CONTEXT_RESET, PARTITION_RESET and SLOT_SETTLE (16 R403 to R408, R414). A context reset takes the context's runs
out, clears its regions of the tile stores, ends its commands and leaves every other context's runs; a partition reset
does so for all its contexts, clears the stores of its clusters, and the partition runs again, or stays out of
service. Where no reset is in progress nothing happens, and a context reset waits while its partition resets. The
slots of ended runs are settled when no reset is in progress and the keeper works; otherwise, or with none to settle,
nothing happens. Completes: contextReset, partitionReset, slotSettle. -/
def Obligations.Resetting : Prop :=
  (∀ (s : State) (c : CtxNo) (x : Partition) (r : ResetInProgress), s.ptn? (ptnOf c) = some x →
    (s.ctx? c).bind (·.reset) = some r → x.reset = none →
    ∃ t, exec (.contextReset c) s = .next t ∧ (t.ctx? c).bind (·.reset) = none ∧
      (∀ y, t.ptn? (ptnOf c) = some y → (∀ n, y.run = some n → n.ctx ≠ c) ∧ (∀ n ∈ y.queue, n.ctx ≠ c) ∧
        y.reset = none ∧ y.status = x.status ∧ (∀ n, x.run = some n → n.ctx ≠ c → y.run = some n)) ∧
      t.stores = s.stores.clearContext x.low x.n c ∧ (∀ a ∈ t.accepted, resetEnds a = true → a.q.ring ≠ .ctx c)) ∧
  (∀ (s : State) (c : CtxNo), (s.ctx? c).bind (·.reset) = none ∨ (∀ x, s.ptn? (ptnOf c) = some x → x.reset.isSome) →
    exec (.contextReset c) s = .next s) ∧
  (∀ (s : State) (p : Fin 8) (x : Partition) (r : ResetInProgress), s.ptn? p.val = some x → x.reset = some r →
    ∃ t y, exec (.partitionReset p) s = .next t ∧ t.ptn? p.val = some y ∧ y.reset = none ∧
      y.status = (if x.status = .outOfService then .outOfService else .running) ∧
      (∀ a ∈ t.accepted, ∀ c, resetEnds a = true → a.q.ring = .ctx c → ptnOf c ≠ p.val) ∧
      (∀ m ∈ t.moves, m.ptn ≠ p.val)) ∧
  (∀ (s : State) (p : Fin 8), (∀ x, s.ptn? p.val = some x → x.reset = none) →
    exec (.partitionReset p) s = .next s) ∧
  (∀ (s : State) (p : Fin 8), (∀ x, s.ptn? p.val = some x → x.settling = [] ∨ s.keeperWorks p.val = false ∨ x.reset.isSome ∨
    ∃ r ∈ x.settling, ((s.ctx? r.ctx).bind (·.reset)).isSome) → exec (.slotSettle p) s = .next s) ∧
  (∀ (s : State) (p : Fin 8) (x : Partition), s.ptn? p.val = some x → s.keeperWorks p.val = true → x.settling ≠ [] →
    x.reset = none → (∀ r ∈ x.settling, (s.ctx? r.ctx).bind (·.reset) = none) →
    ∃ t, exec (.slotSettle p) s = .next t ∧ ∀ y, t.ptn? p.val = some y → y.settling = [])

/-- The control cores (16 R411, R412, R416, Table FLT.2). A core that runs and is not restarting meets fault 0x0B by
an exception, by its heartbeat or by its progress, for which the field core is not watched; the core then restarts,
with its time among those of its last 60 s. CORE_RESTART ends the restart once the core's section matches the digest
in force, loaded anew where it does not (17 R421), whereupon the field core takes its section and its configuration
and the warden, the linker and the store core take the work held for them; without such a section the restart goes on.
A core that does not run, or is restarting, meets no fault. Completes: coreException, coreHeartbeatWatchdog,
coreProgressWatchdog, coreRestart. -/
def Obligations.CoreRestarts : Prop :=
  (∀ (s : State) (i : Fin 152), s.coreRuns i.val = true → s.restarting i.val = false →
    let t := s.raiseFault { kind := 0x0B, island := i.val }
    exec (.coreException i) s = .next t ∧ exec (.coreHeartbeatWatchdog i) s = .next t ∧
      (i.val ≠ fieldIsland → exec (.coreProgressWatchdog i) s = .next t) ∧ t.restarting i.val = true ∧
      t.flt.recNo = s.flt.recNo + 1 ∧ t.flt.lastCore = i.val ∧
      Table.get [] t.flt.restartTimes i.val = inWindow s.now 60 (Table.get [] s.flt.restartTimes i.val) ++ [s.now]) ∧
  (∀ (s : State) (i : Fin 152), s.coreRuns i.val = false ∨ s.restarting i.val = true →
    exec (.coreException i) s = .next s ∧ exec (.coreHeartbeatWatchdog i) s = .next s ∧
      exec (.coreProgressWatchdog i) s = .next s) ∧
  (∀ (s : State) (i : Fin 152), i.val = fieldIsland → exec (.coreProgressWatchdog i) s = .next s) ∧
  (∀ (s : State) (i : Fin 152), s.restarting i.val = true →
    let r := s.reloadSection (sectionOf i.val)
    let u := { r with flt := { s.flt with restarting := s.flt.restarting.filter fun r => r.island != i.val } }
    let v := if i.val = fieldIsland then { u with field := { s.field with
          inUse := s.field.cfg, firmware := s.field.vdd, code := if s.field.vdd then r.fw.section_ 6 else [] } }
      else if i.val = storeIsland then u.storeRestarted
      else if i.val = wardenIsland then { u with field := { s.field with heartbeat := true } }.takeHeldWork
      else if i.val = linkerIsland then u.takeLinkerWork else u
    (r.fw.sectionGood (sectionOf i.val) = false → exec (.coreRestart i) s = .next r) ∧
    (r.fw.sectionGood (sectionOf i.val) = true →
      exec (.coreRestart i) s = .next (v.activationRestarted i.val) ∧ u.restarting i.val = false ∧
      (∀ j, j ≠ i.val → u.restarting j = s.restarting j) ∧
      (s.fw.activation = none → 121 ≤ i.val → i.val ≤ 128 → exec (.coreRestart i) s = .next v))) ∧
  (∀ (s : State) (i : Fin 152), s.restarting i.val = false → exec (.coreRestart i) s = .next s)

/-- The watchdogs (16 R399, Table FLT.2): within its time, and for what is not in progress, nothing happens; past it,
a transaction that is outstanding for more than 100 us, of a move that has no peer, is discarded and faults with kind
0x03, a context reset of more than 300 us with 0x0A on its context, and a partition reset of more than 1 ms or a
core's restart of more than 400 us with 0x0C, which makes the device Becalmed. Completes: txnWatchdog,
ctxResetWatchdog, ptnResetWatchdog, coreRestartWatchdog. COMMAND_DEADLINE (12 R307): before its deadline a command is
left as it is; past it, one that has not started, and one that is no run, completes with ST_DEADLINE; a run with no
beat released is withdrawn with its admission undone; a run in a beat that is not closed goes on to its boundary. A
command that is not accepted, and one whose run is gone, are left. Completes: commandDeadline. -/
def Obligations.TimeLimits : Prop :=
  ((∀ (s : State) (c : Fin 8) (mv : Move) (chunk since : Nat),
     (s.moves.find? fun m => m.id == mv.id && m.cluster == c.val) = some mv →
     (mv.outstanding.find? fun o => o.1 == chunk) = some (chunk, since) →
     (s.now ≤ since + 100 ∨ Mv.dstKind mv.record = 6 → exec (.txnWatchdog c mv.id chunk) s = .next s) ∧
     (since + 100 < s.now → Mv.dstKind mv.record ≠ 6 →
       let t := s.modMove mv.id fun m => { m with outstanding := m.outstanding.filter fun o => o.1 != chunk }
       exec (.txnWatchdog c mv.id chunk) s = .next (match s.chunkLine mv chunk with
         | none => t.raiseFault (t.moveFault mv 0x03 0)
         | some (k, a) => t.raiseFault { t.poisonFault mv (1, k, a) with kind := 0x03 }))) ∧
   (∀ (s : State) (c : Fin 8) (id chunk : Nat), (∀ mv, (s.moves.find? fun m => m.id == id && m.cluster == c.val) = some mv →
     ∀ o ∈ mv.outstanding, o.1 ≠ chunk) → exec (.txnWatchdog c id chunk) s = .next s) ∧
   (∀ (s : State) (c : CtxNo), (s.ctx? c).bind (·.reset) = none → exec (.ctxResetWatchdog c) s = .next s) ∧
   (∀ (s : State) (p : Fin 8), (∀ x, s.ptn? p.val = some x → x.status ≠ .resetting ∨ x.reset = none) →
     exec (.ptnResetWatchdog p) s = .next s) ∧
   (∀ (s : State) (i : Fin 152), s.restarting i.val = false → exec (.coreRestartWatchdog i) s = .next s) ∧
   (∀ (s : State) (c : CtxNo) (r : ResetInProgress), (s.ctx? c).bind (·.reset) = some r →
     (s.now ≤ r.since + 300 → exec (.ctxResetWatchdog c) s = .next s) ∧
     (r.since + 300 < s.now → exec (.ctxResetWatchdog c) s =
       .next (s.raiseFault { kind := 0x0A, ptn := some (ptnOf c), ctx := some c }))) ∧
   (∀ (s : State) (p : Fin 8) (x : Partition) (r : ResetInProgress), s.ptn? p.val = some x → x.status = .resetting →
     x.reset = some r → (s.now ≤ r.since + 1000 → exec (.ptnResetWatchdog p) s = .next s) ∧
     (r.since + 1000 < s.now → exec (.ptnResetWatchdog p) s = .next (s.raiseFault { kind := 0x0C }))) ∧
   (∀ (s : State) (i : Fin 152) (r : CoreRestart), (s.flt.restarting.find? fun r => r.island == i.val) = some r →
     (s.now ≤ r.since + 400 → exec (.coreRestartWatchdog i) s = .next s) ∧
     (r.since + 400 < s.now → exec (.coreRestartWatchdog i) s = .next (s.raiseFault { kind := 0x0C }))) ∧
   (∀ s : State, (s.raiseFault { kind := 0x0C }).flt.becalmed = true ∧
     ∀ p x, (s.raiseFault { kind := 0x0C }).ptn? p = some x → s.flt.becalmed = false → x.status = .outOfService)) ∧
  ((∀ (s : State) (r : Ring) (n : BitVec 32), (s.accepted.find? fun x => x.q.ring == r && x.q.idx == n) = none →
     exec (.commandDeadline r n) s = .next s) ∧
   ∀ (s : State) (a : Accepted), (s.accepted.find? fun x => x.q.ring == a.q.ring && x.q.idx == a.q.idx) = some a →
     (a.pastDeadline s.now = false → exec (.commandDeadline a.q.ring a.q.idx) s = .next s) ∧
     (a.pastDeadline s.now = true →
       (a.started = false → exec (.commandDeadline a.q.ring a.q.idx) s = .next (s.finish a.q stDeadline 0 0)) ∧
       (a.started = true → a.cmd.opcode ≠ 0x62 → a.cmd.opcode ≠ 0x65 →
         exec (.commandDeadline a.q.ring a.q.idx) s = .next (s.finish a.q stDeadline 0 0)) ∧
       (∀ h, a.started = true → a.q.ring = .host h →
         exec (.commandDeadline a.q.ring a.q.idx) s = .next (s.finish a.q stDeadline 0 0)) ∧
       (∀ c, a.started = true → a.q.ring = .ctx c → (a.cmd.opcode = 0x62 ∨ a.cmd.opcode = 0x65) →
         (∀ x, s.ptn? (ptnOf c) = some x → (x.run.toList ++ x.queue).find? (fun n => n.q == a.q) = none) →
         exec (.commandDeadline a.q.ring a.q.idx) s = .next s) ∧
       (∀ c x r, a.started = true → a.q.ring = .ctx c → (a.cmd.opcode = 0x62 ∨ a.cmd.opcode = 0x65) →
         s.ptn? (ptnOf c) = some x → (x.run.toList ++ x.queue).find? (fun n => n.q == a.q) = some r →
         (r.released = false → exec (.commandDeadline a.q.ring a.q.idx) s = .next (s.withdrawRun (ptnOf c) r)) ∧
         (r.released = true → x.beat.closed = true →
           exec (.commandDeadline a.q.ring a.q.idx) s = .next (s.testDeadline (ptnOf c))) ∧
         (r.released = true → x.beat.closed = false → exec (.commandDeadline a.q.ring a.q.idx) s = .next s))))

/-! ### Stacked memory and the keepers -/

/-- The stacked-memory controller (08 R186, R188 to R191, R194, R195): a scrub of a line that a rank serves meets what
is found there; a corrected line is counted for its channel, as is a command retry, an uncorrectable one is poisoned
and reported and fails its rank; a line that is poisoned already returns as poisoned and not as an error; a line of a
retired rank that nothing serves is not scrubbed, nor any while the stacks pause. A rank in service fails over to a
spare that stands unused, which takes its lines. The end of the copy retires the rank that the spare replaces; with no
rank being copied it changes nothing. A stack's reading sets its refresh rate. Completes: patrolScrub, rankCopyDone,
refresh. -/
def Obligations.StackedMemory : Prop :=
  (∀ (s : State) (c : Fin 8) (line : Nat) (o : ReadOutcome), s.stacksRun = true → line < clusterLines →
    (s.stackRanks (locate c.val (line * 64)).stack).rank (locate c.val (line * 64)).rank ≠ 3 ∨
      (s.stackRanks (locate c.val (line * 64)).stack).spares (locate c.val (line * 64)).rank = true →
    let ch := (locate c.val (line * 64)).channel
    let known := lineOf c.val (line * 64) ∈ s.poison
    (o = .clean → exec (.patrolScrub c line o) s = .next s) ∧
    (known → o = .corrected ∨ o = .uncorrectable → exec (.patrolScrub c line o) s = .next s) ∧
    (o = .retried → exec (.patrolScrub c line o) s = .next (s.countRetry ch)) ∧
    (¬ known → o = .corrected → ∃ t, exec (.patrolScrub c line o) s = .next t ∧ Table.get 0 t.memc.corrected ch = Table.get 0 s.memc.corrected ch + 1 ∧
      (∀ k, k ≠ ch → Table.get 0 t.memc.corrected k = Table.get 0 s.memc.corrected k) ∧ t.poison = s.poison ∧ t.tier1 = s.tier1) ∧
    (¬ known → o = .uncorrectable → ∃ t, exec (.patrolScrub c line o) s = .next t ∧ lineOf c.val (line * 64) ∈ t.poison ∧
      lineOf c.val (line * 64) ∈ t.poisonReports ∧ t.tier1 = s.tier1) ∧
    (o = .unattributed → exec (.patrolScrub c line o) s = .next (s.raiseFault { kind := 0x0C }))) ∧
  (∀ (s : State) (c : Fin 8) (line : Nat) (o : ReadOutcome), s.stacksRun = false ∨ clusterLines ≤ line ∨
    ((s.stackRanks (locate c.val (line * 64)).stack).rank (locate c.val (line * 64)).rank = 3 ∧
      (s.stackRanks (locate c.val (line * 64)).stack).spares (locate c.val (line * 64)).rank = false) →
    exec (.patrolScrub c line o) s = .next s) ∧
  (∀ (s : State) (stack : Fin 6), (s.stackRanks stack.val).retiring = none ∨ s.stacksRun = false →
    exec (.rankCopyDone stack) s = .next s) ∧
  (∀ (s : State) (stack : Fin 6) (r : Fin 3), (s.stackRanks stack.val).rank r.val = 0 →
    (s.stackRanks stack.val).rank 3 = 1 → (s.stackRanks stack.val).spareUsed = false →
    (s.stackRanks stack.val).spareSpent = false →
    let y := (s.rankFails stack.val r.val).stackRanks stack.val
    y.rank r.val = 2 ∧ y.spareUsed = true ∧ y.spareFor.toNat = r.val ∧ y.spareSpent = true ∧ y.copied = 0 ∧
      (∀ k : Fin 6, k ≠ stack → (s.rankFails stack.val r.val).stackRanks k.val = s.stackRanks k.val)) ∧
  (∀ (s : State) (stack : Fin 6), s.stacksRun = true → (s.stackRanks stack.val).spareUsed = true →
    (s.stackRanks stack.val).rank (s.stackRanks stack.val).spareFor.toNat = 2 →
    ∃ t, exec (.rankCopyDone stack) s = .next t ∧
      (t.stackRanks stack.val).rank (s.stackRanks stack.val).spareFor.toNat = 3 ∧ (t.stackRanks stack.val).copied = 12884901888 ∧
      t.objs = s.objs ∧ t.tier1 = s.tier1) ∧
  (∀ (s : State) (stack : Fin 6) (b : BitVec 8), ∃ m, exec (.refresh stack b) s = .next { s with memc := m } ∧
    (85 < celsius b → m.doubled[stack] = true) ∧ (celsius b ≤ 82 → m.doubled[stack] = false) ∧
    (82 < celsius b → celsius b ≤ 85 → m.doubled[stack] = s.memc.doubled[stack]) ∧
    (∀ k : Fin 6, k ≠ stack → m.doubled[k] = s.memc.doubled[k]) ∧ m.ranks = s.memc.ranks)

/-- The keepers (07 R161, R163, R172 to R175, 08 R193, R197, 16 R409). A tile that the run in progress does not bind,
and that is not under way, is copied to where the keeper takes it, its translation unchanged until the boundary, one
of tier 1 once nothing that is evacuated before it finds room; the tile promoted is the first displaced one that finds
a place in tier 0; a reclaim that finds charge and target met, with nothing under way and no unit in a region out of
service, ends with no residual; and a poisoned line is acted on once: in the reserve with the reset of its partition,
in a sample with the loss of its bytes, in a weight tile with a refetch, unless the tile is still to be written, in a
page with its drop, which waits for the run that binds it; a line that no partition holds, that is not reported or
that is poisoned no longer needs none. A keeper that does not work, or has nothing to do, changes nothing. Completes:
tileMigrate, tilePromote, quotaReclaim, keeperPoisonAction. -/
def Obligations.Keepers : Prop :=
  (∀ (s : State) (c : CtxNo) (base : BitVec 42) (i : Nat) (o : Obj) (t : ResTile), s.obj? c base = some o →
    o.tiles[i]? = some t → s.keeperWorks (ptnOf c) = true →
    (∀ d, s.bound o = false → s.migrating c base i = false → (t.place.tier = 1 → s.evacTurn c base i = true) →
      s.migrationDest (ptnOf c) o t = some d →
      exec (.tileMigrate c base i) s = .next { s with migrations := s.migrations ++ [⟨c, base, i, d⟩] }) ∧
    (s.bound o = true ∨ s.migrating c base i = true ∨ (t.place.tier = 1 ∧ s.evacTurn c base i = false) ∨
        s.migrationDest (ptnOf c) o t = none →
      exec (.tileMigrate c base i) s = .next s)) ∧
  (∀ (s : State) (c : CtxNo) (base : BitVec 42) (i : Nat), s.keeperWorks (ptnOf c) = false ∨
    (∀ o, s.obj? c base = some o → o.tiles[i]? = none) → exec (.tileMigrate c base i) s = .next s) ∧
  (∀ (s : State) (p : Fin 8) (o : Obj) (t : ResTile) (i : Nat) (d : Place) (first rest : List (Obj × ResTile × Nat)),
    s.keeperWorks p.val = true → s.displaced p.val = first ++ (o, t, i) :: rest →
    (∀ x ∈ first, s.promotion p.val x.1 x.2.1 = none) → s.promotion p.val o t = some d →
    exec (.tilePromote p) s = .next { s with migrations := s.migrations ++ [⟨o.ctx, o.desc.vbase, i, d⟩] }) ∧
  (∀ (s : State) (p : Nat) (o : Obj) (t : ResTile) (d : Place), s.promotion p o t = some d ↔
    s.overQuota p (some o.ctx) = false ∧ s.within p (some o.ctx) 0 (tileUnits o.desc) = true ∧
      ∃ u, s.freeUnit 0 t.place.cluster (tileUnits o.desc) (tileUnits o.desc) = some u ∧ d = ⟨0, t.place.cluster, u⟩) ∧
  (∀ (s : State) (p : Fin 8), s.keeperWorks p.val = false ∨ (∀ x ∈ s.displaced p.val, s.promotion p.val x.1 x.2.1 = none) →
    exec (.tilePromote p) s = .next s) ∧
  (∀ (s : State) (p : Fin 8), s.ptn? p.val = none ∨ s.keeperWorks p.val = false →
    exec (.quotaReclaim p) s = .next s) ∧
  (∀ (s : State) (p : Fin 8) (x : Partition), s.ptn? p.val = some x → x.reclaiming = false →
    (∀ c ∈ s.ctxsOf p.val, c.reclaiming = false) → exec (.quotaReclaim p) s = .next s) ∧
  (∀ (s : State) (p : Fin 8) (x : Partition), s.ptn? p.val = some x → s.keeperWorks p.val = true → x.reclaiming = true →
    (∀ c ∈ s.ctxsOf p.val, c.reclaiming = false) → s.charge p.val 0 ≤ s.quota p.val 0 → s.charge p.val 1 ≤ s.quota p.val 1 →
    s.carried p.val none 0 = 0 → s.carried p.val none 1 = 0 → s.stranded p.val = 0 →
    ∃ t, exec (.quotaReclaim p) s = .next t ∧ t.objs = s.objs ∧ t.seqs = s.seqs ∧ t.migrations = s.migrations ∧
      t.ptn? p.val = some { x with
        reclaiming := false, residT0 := 0, residT1 := 0, overT0 := false, overT1 := false }) ∧
  (∀ (s : State) (c : Fin 8) (line : Nat), s.ptnOfCluster c.val = none →
    exec (.keeperPoisonAction c line) s =
      .next { s with poisonReports := s.poisonReports.filter (· != c.val * clusterLines + line) }) ∧
  (∀ (s : State) (c : Fin 8) (line p : Nat), s.ptnOfCluster c.val = some p →
    s.keeperWorks p = false ∨ c.val * clusterLines + line ∉ s.poisonReports →
    exec (.keeperPoisonAction c line) s = .next s) ∧
  (∀ (s : State) (c : Fin 8) (line p : Nat) (x : Partition), s.ptnOfCluster c.val = some p → s.ptn? p = some x →
    s.keeperWorks p = true → c.val * clusterLines + line ∈ s.poisonReports →
    let n := c.val * clusterLines + line
    let u := line * 64 / unitBytes
    let t := { s with poisonReports := s.poisonReports.filter (· != n) }
    let reserved := x.low = c.val ∧ x.reserve ≤ u ∧ u < x.reserve + x.n * 64 + 4 * (x.share / 4096)
    (n ∉ s.poison → exec (.keeperPoisonAction c line) s = .next t) ∧
    (n ∈ s.poison →
      (reserved → exec (.keeperPoisonAction c line) s = .next (t.reservePoisoned p x (line * 64))) ∧
      (¬ reserved → (x.records.any fun r => r.units.contains (c.val, u)) = true →
        exec (.keeperPoisonAction c line) s = .next (t.sampleLoses c.val (line * 64))) ∧
      (¬ reserved → (x.records.any fun r => r.units.contains (c.val, u)) = false →
        (∀ o i g, t.tileAt c.val u = some (o, i, g) →
          exec (.keeperPoisonAction c line) s = .next (if o.desc.drop ≠ 2 then t
            else if t.tileWanted o i then s else t.startRefetch o i g)) ∧
        (t.tileAt c.val u = none → t.pageHeld c.val u = false → exec (.keeperPoisonAction c line) s = .next (t.pagePoisoned c.val u)) ∧
        (t.tileAt c.val u = none → t.pageHeld c.val u = true → exec (.keeperPoisonAction c line) s = .next s))))

/-! ### The Felt fabric -/

/-- A received frame (13 R319, R322, R323): one whose form or tag is wrong, or whose counter has not risen, is dropped
and counted, with four drops in 1 ms leaving the port unhealthy and sixteen failing the link; an accepted one raises
the highest counter, and under the next key the old key is discarded. A row of a frame does nothing on a port that is
not in the state that takes it, and a dropped frame has no other effect; a bring-up or rotation frame waits while the
linker restarts. The links (13 R318, R321, R323, R324, R330, R332): training starts on a signal and ends in a hello
with a new nonce; two hellos fix the epoch and each device proves itself; the right proof brings the link up with its
counters at 1, a wrong one or the device's own serial refuses it for a second, as training does after 40 ms; a
rotation switches the key of each side with the counter back at 1, and fails the link where no acknowledgement comes
within 1 ms; an idle frame follows 1 us without one, silence of 8 us or the loss of the lock takes the port down, and
health returns after a quiet millisecond. While the linker restarts, bring-up waits (16 Table FLT.6); what is not due
changes nothing. Completes: linkSignal, linkTrainingComplete, trainingTimeout, refusedRetry, helloFrame, proofFrame,
rotateFrame, rotateAcknowledgement, keyRotationDue, rotationAckTimeout, idleFrame, portSilenceTimeout, fecLockLoss,
portHealthRestored, uncorrectableFecCodeword. -/
def Obligations.FeltGateLinks : Prop :=
  ((∀ (s : State) (k : Fin 8) (f : Frame), (s.port k).accepts f = none →
     (s.receive k f).2 = false ∧ ((s.receive k f).1.port k).tagFail = BitVec.ofNat 16 (min ((s.port k).tagFail.toNat + 1) 65535) ∧
     let n := ((s.port k).drops.filter fun t => s.now < t + 1000).length + 1
     (4 ≤ n → ((s.receive k f).1.port k).healthy = false) ∧ (16 ≤ n → ((s.receive k f).1.port k).phase = .failed) ∧
     (n < 4 → ((s.receive k f).1.port k).healthy = (s.port k).healthy) ∧
     (n < 16 → ((s.receive k f).1.port k).phase = (s.port k).phase) ∧
     (s.receive k f).1.tier1 = s.tier1 ∧ (s.receive k f).1.ptns = s.ptns ∧ (s.receive k f).1.accepted = s.accepted) ∧
   (∀ (s : State) (k : Fin 8) (f : Frame) (next : Bool), (s.port k).accepts f = some next → (s.receive k f).2 = true ∧
     ((s.receive k f).1.port k).rxTop = f.ctr ∧ ((s.receive k f).1.port k).phase = (s.port k).phase ∧
     (next = false → (s.port k).rxTop.toNat < f.ctr.toNat ∧ ((s.receive k f).1.port k).rxKp = (s.port k).rxKp) ∧
     (next = true → (s.port k).nextTop.toNat < f.ctr.toNat ∧ ((s.receive k f).1.port k).rxKp = !(s.port k).rxKp ∧
       ((s.receive k f).1.port k).next = none)) ∧
   (∀ (x : Port) (f : Frame), f.type = 0 ∨ 6 ≤ f.type.toNat ∨ f.rsvd ≠ 0 ∨ 4096 < f.length.toNat ∨
     f.length.toNat ≠ f.payload.length ∨ (3 ≤ f.type.toNat ∧ f.length ≠ 16) → x.accepts f = none) ∧
   (∀ (s : State) (k : Fin 8) (f : Frame) (sn b64 : BitVec 64) (n32 m32 : BitVec 32) (a : Option (BitVec 16))
     (r16 g16 : BitVec 16) (pf : BitVec 256) (ls : LinkState) (j : JoinInfo) (adm : Option (BitVec 64 × BitVec 32)) (flag : Bool),
     ∀ e ∈ ([(.hello, .helloFrame k f sn n32 m32 a), (.authentication, .proofFrame k f pf), (.up, .rotateFrame k f b64),
       (.up, .rotateAcknowledgement k f), (.up, .linkStateFrame k f ls), (.up, .dataFrame k f), (.up, .ackFrame k f n32 m32 flag),
       (.up, .multicastFrame k f), (.up, .treeJoin k f r16 g16), (.up, .joinFrame k f j), (.up, .leaveFrame k f flag),
       (.up, .doneFrame k f b64 adm), (.up, .releaseFrame k f b64), (.up, .heldFrame k f), (.up, .abortFrame k f)] :
         List (LinkPhase × Instr)),
       ((s.port k).phase ≠ e.1 → exec e.2 s = .next s) ∧
       (∀ t, (s.port k).phase = e.1 → s.receive k f = (t, false) → exec e.2 s = .next t)) ∧
   (∀ (s t : State) (k : Fin 8) (f : Frame) (sn ep : BitVec 64) (nonce iface : BitVec 32) (a : Option (BitVec 16)) (pf : BitVec 256),
     s.receive k f = (t, true) → t.restarting linkerIsland = true →
     ∀ e ∈ ([(.hello, .helloFrame k f sn nonce iface a, .hello sn nonce iface a), (.authentication, .proofFrame k f pf, .proof pf),
       (.up, .rotateFrame k f ep, .rotate ep), (.up, .rotateAcknowledgement k f, .rotateAck)] :
         List (LinkPhase × Instr × FeltBody)), (s.port k).phase = e.1 →
       exec e.2.1 s = .next { t with heldWork := t.heldWork ++ [.frame k ((s.port k).opened f) e.2.2] })) ∧
  ((∀ (s : State) (k : Fin 8),
     let u := s.modPort k fun x => { x with signal := true }
     let idle := Config.linkRoot = 0 ∨ s.flt.becalmed = true ∨ s.linksRun = false
     (s.restarting linkerIsland = true → exec (.linkSignal k) s = .next { u with heldWork := s.heldWork ++ [.signal k] }) ∧
     (s.restarting linkerIsland = false → idle ∨ ((s.port k).phase ≠ .down ∧ (s.port k).phase ≠ .failed) →
       exec (.linkSignal k) s = .next u) ∧
     (s.restarting linkerIsland = false → ¬ idle → (s.port k).phase = .down ∨ (s.port k).phase = .failed →
       exec (.linkSignal k) s = .next (s.modPort k fun x => { x with signal := true, phase := .training, since := s.now }))) ∧
   (∀ (s : State) (k : Fin 8),
     (s.restarting linkerIsland = true →
       exec (.linkTrainingComplete k) s = .next { s with heldWork := s.heldWork ++ [.trained k] }) ∧
     (s.restarting linkerIsland = false → (s.port k).phase ≠ .training ∨ (s.port k).since + 40000 < s.now ∨ s.rng.failing = true →
       exec (.linkTrainingComplete k) s = .next s) ∧
     (s.restarting linkerIsland = false → (s.port k).phase = .training → s.now ≤ (s.port k).since + 40000 → s.rng.failing = false →
       ∃ t : State, ∃ nonce : BitVec 32, ∃ u : State, exec (.linkTrainingComplete k) s =
           .next (t.sendLink k (.hello Config.serial nonce t.iface t.felt.addr)) ∧
         t = u.modPort k (fun x => { x with phase := .hello, nonce := nonce, peer := 0, txCtr := 1, rxTop := 0, txKp := false, rxKp := false }) ∧
         u.felt = s.felt)) ∧
   (∀ (s : State) (k : Fin 8),
     let due := (s.port k).phase = .training ∧ (s.port k).since + 40000 ≤ s.now ∧ s.restarting linkerIsland = false
     (due → exec (.trainingTimeout k) s = .next (s.refuseLink k)) ∧ (¬ due → exec (.trainingTimeout k) s = .next s)) ∧
   (∀ (s : State) (k : Fin 8),
     let due := (s.port k).phase = .refused ∧ (s.port k).since + 1000000 ≤ s.now ∧ s.restarting linkerIsland = false
     (due → exec (.refusedRetry k) s = .next (s.modPort k fun x => { x with phase := .training, since := s.now })) ∧
     (¬ due → exec (.refusedRetry k) s = .next s)) ∧
   (∀ (s t : State) (k : Fin 8) (f : Frame) (sn : BitVec 64) (nonce iface : BitVec 32) (addr : Option (BitVec 16)),
     (s.port k).phase = .hello → s.receive k f = (t, true) → t.restarting linkerIsland = false →
     (sn = Config.serial → exec (.helloFrame k f sn nonce iface addr) s = .next (t.refuseLink k)) ∧
     (sn ≠ Config.serial →
       let e := helloEpoch Config.serial sn (t.port k).nonce nonce
       exec (.helloFrame k f sn nonce iface addr) s = .next ((t.modPort k fun x =>
         { x with phase := .authentication, peer := sn, peerNonce := nonce, peerIface := iface, peerAddr := addr, epoch := e }).sendLink k
           (.proof (linkProof Config.serial sn e))))) ∧
   (∀ (s t : State) (k : Fin 8) (f : Frame) (proof : BitVec 256), (s.port k).phase = .authentication → s.receive k f = (t, true) →
     t.restarting linkerIsland = false →
     (proof ≠ linkProof (t.port k).peer Config.serial (t.port k).epoch →
       exec (.proofFrame k f proof) s = .next (t.refuseLink k)) ∧
     (proof = linkProof (t.port k).peer Config.serial (t.port k).epoch →
       ∃ u : State, (u.port k).phase = .up ∧ (u.port k).healthy = true ∧
         (u.port k).txCtr = 1 ∧ (u.port k).rxTop = 0 ∧ (u.port k).txEpoch = (t.port k).epoch ∧
         (∀ j, j ≠ k → u.port j = t.port j) ∧
         let v := u.elect.announce.modFelt fun x => { x with merging := true }
         exec (.proofFrame k f proof) s = .next (v.felt.states.foldl (fun st l =>
           if l.serial = (t.port k).peer then st else st.sendLink k (.linkState l)) v))) ∧
   (∀ (s t : State) (k : Fin 8) (f : Frame), (s.port k).phase = .up → s.receive k f = (t, true) → t.restarting linkerIsland = false →
     exec (.rotateFrame k f ((t.port k).txEpoch + 1)) s = .next (((t.modPort k fun y =>
       { y with next := some ((t.port k).txEpoch + 1), nextTop := 0 }).sendLink k .rotateAck).switchKey k ((t.port k).txEpoch + 1)) ∧
     (∀ e, e ≠ (t.port k).txEpoch + 1 → exec (.rotateFrame k f e) s = .next t) ∧
     ((t.port k).rotSince.isSome → exec (.rotateAcknowledgement k f) s = .next (t.switchKey k ((t.port k).txEpoch + 1))) ∧
     ((t.port k).rotSince = none → exec (.rotateAcknowledgement k f) s = .next t)) ∧
   (∀ (s : State) (k : Fin 8),
     let x := s.port k
     let due := Config.serial.toNat < x.peer.toNat ∧
       (2 ^ 48 - 2 ^ 24 ≤ x.txCtr.toNat ∨ 2 ^ 48 - 2 ^ 24 ≤ x.rxTop.toNat ∨ x.keysSince + 3590000000 ≤ s.now)
     (due → exec (.keyRotationDue k) s = .next (s.rotate k)) ∧ (¬ due → exec (.keyRotationDue k) s = .next s) ∧
     (x.phase ≠ .up ∨ x.rotSince.isSome ∨ x.next.isSome ∨ s.restarting linkerIsland = true → s.rotate k = s) ∧
     (x.phase = .up → x.rotSince = none → x.next = none → s.restarting linkerIsland = false → s.rotate k =
       (s.modPort k fun y => { y with next := some (x.txEpoch + 1), nextTop := 0, rotSince := some s.now }).sendLink k
         (.rotate (x.txEpoch + 1)))) ∧
   (∀ (s : State) (k : Fin 8), ((s.port k).rotSince = none → exec (.rotationAckTimeout k) s = .next s) ∧
     ∀ t, (s.port k).rotSince = some t →
       (t + 1000 ≤ s.now → exec (.rotationAckTimeout k) s = .next (s.linkDown k .failed)) ∧
       (s.now < t + 1000 → exec (.rotationAckTimeout k) s = .next s)) ∧
   (∀ (s : State) (k : Fin 8),
     let up := (s.port k).phase = .up
     let quiet := ((s.port k).drops.filter fun t => s.now < t + 1000).length < 4 ∧ ∀ t, (s.port k).lastUnc = some t → t + 1000 ≤ s.now
     (up → (s.port k).lastSent < s.now → exec (.idleFrame k) s = .next (s.sendLink k .idle)) ∧
     (¬ up ∨ s.now ≤ (s.port k).lastSent → exec (.idleFrame k) s = .next s) ∧
     (up → (s.port k).lastValid + 8 ≤ s.now → exec (.portSilenceTimeout k) s = .next (s.linkDown k .down)) ∧
     (¬ up ∨ s.now < (s.port k).lastValid + 8 → exec (.portSilenceTimeout k) s = .next s) ∧
     ((s.port k).phase = .training ∨ (s.port k).phase = .hello ∨ (s.port k).phase = .authentication ∨ up →
       exec (.fecLockLoss k) s = .next (s.linkDown k .down)) ∧
     ((s.port k).phase = .down ∨ (s.port k).phase = .refused ∨ (s.port k).phase = .failed → exec (.fecLockLoss k) s = .next s) ∧
     (up → quiet → exec (.portHealthRestored k) s = .next (s.modPort k fun y => { y with healthy := true }).flush) ∧
     (¬ up ∨ ¬ quiet → exec (.portHealthRestored k) s = .next s)) ∧
   (∀ (s : State) (k : Fin 8), exec (.uncorrectableFecCodeword k) s = .next (s.modPort k fun x =>
     { x with fecUnc := BitVec.ofNat 16 (min (x.fecUnc.toNat + 1) 65535), lastUnc := some s.now, healthy := false }).flush))

/-- The fabric (13 R326 to R331, R333, R345, R346, R350): credit comes back to a port that is up and lets waiting
frames go; a new link state of another device replaces its old one, settles the anchor, is passed on and settles the
address; the anchor assigns only an address that is due, and any device records an assignment that it has not, its own
ending its groups where it moves; routes are recomputed whole, unless the linker restarts; a join records or refreshes
its port as a branch and goes on toward the reader, unless the tree table is full; a branch unrefreshed for 5 ms is
dropped. FAB.ANCHOR claims, unless another claims, and withdraws; FAB.QUERY answers the address, a port or the group;
FAB.ROTATE rotates the ports that are up, and waits while the linker restarts. Completes: linkCredit, linkStateFrame,
addressAssign, routeInstall, treeJoin, branchPrune, fabAnchor, fabQuery, fabRotate. -/
def Obligations.FeltFabric : Prop :=
  (∀ (s : State) (k : Fin 8) (hop ch : BitVec 4) (n : BitVec 8),
    let key := creditKey hop.toNat ch.toNat
    ((s.port k).phase = .up → exec (.linkCredit k hop ch n) s = .next (s.modPort k fun x =>
      { x with credits := Table.set x.credits key (Table.get 0 x.credits key + n.toNat) }).flush) ∧
    ((s.port k).phase ≠ .up → exec (.linkCredit k hop ch n) s = .next s)) ∧
  (∀ (s t : State) (k : Fin 8) (f : Frame) (ls : LinkState), (s.port k).phase = .up → s.receive k f = (t, true) →
    (ls.serial = Config.serial ∨ ls ∈ t.felt.states → exec (.linkStateFrame k f ls) s = .next t) ∧
    (ls.serial ≠ Config.serial → ls ∉ t.felt.states →
      ∃ u : State, exec (.linkStateFrame k f ls) s =
          .next (u.settleAnchor.keepAddress.flood (some k) (.linkState ls)).settleAddress ∧
        u.felt.states = (t.felt.states.filter fun y => y.serial != ls.serial) ++ [ls] ∧ u.felt.addr = t.felt.addr ∧
        u.felt.ports = t.felt.ports ∧ (t.felt.merging = true → u.felt.merging = true) ∧
        ∀ a, ls.addr = some a → (ls.serial, a) ∈ u.felt.assigned)) ∧
  (∀ (s : State) (sn : BitVec 64) (a : BitVec 16),
    let due := if s.felt.anchorSn = Config.serial then s.addressFor sn = some a.toNat
      else s.felt.anchorSn ≠ 0 ∧ (sn, a) ∉ s.felt.assigned
    let noted := fun (t : State) => t.modFelt fun x => { x with assigned := (x.assigned.filter fun y => y.1 != sn) ++ [(sn, a)] }
    (¬ due → exec (.addressAssign sn a) s = .next s) ∧
    (due → sn ≠ Config.serial → exec (.addressAssign sn a) s = .next ((noted s).flood none (.assign sn a))) ∧
    (due → sn = Config.serial →
      let t := if s.felt.addr.isSome ∧ s.felt.addr ≠ some a then s.addressMoved else s
      exec (.addressAssign sn a) s = .next ((((noted t).modFelt fun x =>
        { x with addr := some a, keptBy := x.anchorSn }).flood none (.assign sn a)).announce).flush)) ∧
  (∀ s : State, s.restarting linkerIsland = true → exec .routeInstall s = .next s) ∧
  (∀ s : State, s.restarting linkerIsland = false →
    ∃ t : State, exec .routeInstall s = .next t.flush ∧ t.felt.routesAt = some s.now ∧
      (s.ptnNos = [] → s.felt.trees = [] → t.felt.merging = false ∧ t.felt.keptBy = t.felt.anchorSn ∧ t.tier1 = s.tier1)) ∧
  (∀ (t : State) (reader group : BitVec 16) (k : Fin 8),
    (t.tree? reader group = none → t.felt.trees.length < 256 → t.addBranch reader group k = (t.modFelt fun x =>
      { x with trees := x.trees ++ [{ reader := reader, group := group, branches := [(k.val, t.now)] }] }, true)) ∧
    (t.tree? reader group = none → 256 ≤ t.felt.trees.length → t.addBranch reader group k = (t, false)) ∧
    (∀ y, t.tree? reader group = some y → (t.addBranch reader group k).2 = true ∧
      (t.addBranch reader group k).1.tree? reader group =
        some { y with branches := (y.branches.filter fun b => b.1 != k.val) ++ [(k.val, t.now)] })) ∧
  (∀ (s t : State) (k : Fin 8) (f : Frame) (reader group : BitVec 16), (s.port k).phase = .up → s.receive k f = (t, true) →
    let u := (t.addBranch reader group k).1
    ((t.addBranch reader group k).2 = false → exec (.treeJoin k f reader group) s = .next u) ∧
    ((t.addBranch reader group k).2 = true → t.felt.addr = some reader →
      exec (.treeJoin k f reader group) s = .next u.feltWake) ∧
    ((t.addBranch reader group k).2 = true → t.felt.addr ≠ some reader → exec (.treeJoin k f reader group) s =
      .next (u.forward { f with dst := reader } (.treeJoin reader group)))) ∧
  (∀ (s : State) (reader group : BitVec 16) (k : Fin 8), ∃ x, exec (.branchPrune reader group k) s = .next { s with felt := x } ∧
    x.ports = s.felt.ports ∧ (∀ t ∈ x.trees, t.reader = reader → t.group = group → ∀ b ∈ t.branches, b.1 = k.val →
      ∀ r, s.felt.routesAt = some r → r ≤ b.2 ∨ s.now < r + 5000) ∧
    (∀ t ∈ s.felt.trees, t.reader ≠ reader ∨ t.group ≠ group → t.leaf = true ∨ t.branches ≠ [] → t ∈ x.trees)) ∧
  (∀ (s : State) (q : Req) (host : BitVec 64) (n : BitVec 17),
    (Runnable (.fabAnchor q true host n) q s →
      let u := s.start q
      exec (.fabAnchor q true host n) s = .next
        (if (u.felt.states.any fun l => l.claimed && l.serial != Config.serial && u.reachable.contains l.serial) = true then
          u.finish q stInUse 0 0
        else match readPlan (u.readHostOf q host (16 * n.toNat)) n.toNat with
          | none => u.finish q stBadField 0 0
          | some plan =>
            let v := u.modFelt fun f => { f with claimed := true, anchorSn := Config.serial, plan := plan }
            v.keepAddress.announce.finish q stOk 0 0)) ∧
    (Runnable (.fabAnchor q false host n) q s →
      (s.felt.claimed = true → exec (.fabAnchor q false host n) s = .next ((((s.start q).modFelt fun f =>
        { f with claimed := false, plan := [] }).elect.keepAddress.announce).finish q stOk 0 0)) ∧
      (s.felt.claimed = false → exec (.fabAnchor q false host n) s = .next ((s.start q).finish q stOkEmpty 0 0)))) ∧
  (∀ (s : State) (q : Req) (kind : BitVec 2) (port : BitVec 3), Runnable (.fabQuery q kind port) q s →
    let u := s.start q
    (kind = 0 → exec (.fabQuery q kind port) s = .next (u.finish q stOk u.fabAddr u.felt.anchorSn.toNat)) ∧
    (kind = 1 → exec (.fabQuery q kind port) s = .next (u.finish q stOk (u.port port.toFin).low (u.port port.toFin).peer.toNat)) ∧
    (∀ c, kind.toNat ≥ 2 → q.ring = .ctx c → exec (.fabQuery q kind port) s = .next (u.finish q stOk (u.fabGrp (ptnOf c)) 0)) ∧
    (∀ n, kind.toNat ≥ 2 → q.ring = .host n → exec (.fabQuery q kind port) s = .next (u.finish q stBadField 0 0))) ∧
  (∀ (s : State) (q : Req) (port : BitVec 4), Runnable (.fabRotate q port) q s →
    let ks := (s.start q).portsUp.filter fun k => port == 15 || k.val == port.toNat
    (s.restarting linkerIsland = true → exec (.fabRotate q port) s = .next s) ∧
    (s.restarting linkerIsland = false →
      (ks ≠ [] → exec (.fabRotate q port) s = .next ((ks.foldl (fun st k => st.rotate k) (s.start q)).finish q stOk 0 0)) ∧
      (ks = [] → exec (.fabRotate q port) s = .next ((s.start q).finish q stOkEmpty 0 0))))

/-- Data streams (13 R331, R332, R334, R340, R350, 11 R268, 16 R409): a data frame for another device goes on with one
hop more; one for this device is taken, and the credit of its buffer goes back: one that no group and no weight
session takes is dropped and counted; the frame that its stream expects is delivered to the receive object and
acknowledged, one ahead waits and one behind is acknowledged again. An acknowledgement lets its frames go; a frame
unacknowledged for 20 us is sent again, unless a copy waits to leave. FAB.PUT sends the bytes as frames, writes them
at once where the member is the partition itself, and with no bytes is ST_OK_EMPTY; without a formed group or such a
member it is ST_NO_OBJECT, beyond the source object, or a receive object of this device, ST_BAD_FIELD, and of a
poisoned range ST_POISON. Completes: dataFrame, ackFrame, frameResendTimer, fabPut. -/
def Obligations.FeltStreams : Prop :=
  (∀ (s t : State) (k : Fin 8) (f : Frame), (s.port k).phase = .up → s.receive k f = (t, true) →
    let f' := (s.port k).opened f
    (f.type ≠ 1 → exec (.dataFrame k f) s = .next t) ∧
    (f.type = 1 → t.felt.addr ≠ some f.dst →
      exec (.dataFrame k f) s = .next (t.forward f' (.data f.seq f.offset f'.payload) (frameBuffer k f))) ∧
    (f.type = 1 → t.felt.addr = some f.dst →
      exec (.dataFrame k f) s = .next ((t.takeData f').giveCredit (frameBuffer k f)))) ∧
  (∀ (s : State) (f : Frame),
    let u := s.feltWake
    let want := Table.get Config.firstSeq u.felt.rxSeq (rxKey f)
    let mine := u.groupTakes f = true ∨ u.sessionTakes f = true
    (¬ mine → s.takeData f = u.modFelt fun x => { x with foreignDrops := x.foreignDrops + 1 }) ∧
    (mine → f.seq = want → s.takeData f = (u.deliver f).deliverHeld (rxKey f) (u.deliver f).felt.rxHeld.length) ∧
    (mine → f.seq ≠ want → (f.seq - want).toNat < 2 ^ 31 → (∀ y ∈ u.felt.rxHeld, ¬ (rxKey y = rxKey f ∧ y.seq = f.seq)) →
      s.takeData f = u.modFelt fun x => { x with rxHeld := x.rxHeld ++ [f] }) ∧
    (mine → f.seq ≠ want → (f.seq - want).toNat < 2 ^ 31 → (∃ y ∈ u.felt.rxHeld, rxKey y = rxKey f ∧ y.seq = f.seq) →
      s.takeData f = u) ∧
    (mine → 2 ^ 31 ≤ (f.seq - want).toNat →
      s.takeData f = u.sendControl f.dpart.toNat f.src f.spart (.ack f.seq 1 (u.runsBeyond f)))) ∧
  (∀ (s : State) (p off : Nat) (bs : List Byte),
    (s.receiveObj p = none → s.writeReceived p off bs = (s, false)) ∧
    ∀ o, s.receiveObj p = some o →
      (o.broken ≠ none → s.writeReceived p off bs = (s.nodeFault o, true)) ∧
      (o.broken = none → o.desc.kind = kindWeights → s.writeReceived p off bs = (s, true)) ∧
      (o.broken = none → o.desc.kind ≠ kindWeights → off + bs.length ≤ o.size →
        s.writeReceived p off bs = ((s.writeObj o off bs).count (mgmt p) 24 bs.length, true)) ∧
      (o.broken = none → o.desc.kind ≠ kindWeights → o.size < off + bs.length →
        s.writeReceived p off bs = (s.modFelt fun f => { f with beyondDrops := f.beyondDrops + 1 }, false))) ∧
  (∀ (s t : State) (k : Fin 8) (f : Frame) (first n : BitVec 32) (beyond : Bool), (s.port k).phase = .up →
    s.receive k f = (t, true) →
    (t.felt.addr ≠ some f.dst → exec (.ackFrame k f first n beyond) s = .next (t.forward f (.ack first n beyond))) ∧
    (t.felt.addr = some f.dst → ∃ u, exec (.ackFrame k f first n beyond) s = .next u ∧
      (∀ x ∈ u.felt.unacked, x.spart = f.dpart → x.dst = f.src → x.dpart = f.spart → n.toNat ≤ (x.seq - first).toNat))) ∧
  (∀ (s : State) (part : Fin 8) (dst : BitVec 16) (dpart : BitVec 3) (sq : BitVec 32),
    let mine := s.felt.unacked.find? fun u => u.spart.toNat == part.val && u.dst == dst && u.dpart == dpart && u.seq == sq
    (mine = none → exec (.frameResendTimer part dst dpart sq) s = .next s) ∧
    ∀ u, mine = some u →
      let o : Outgoing := ⟨u.dst, s.felt.addr.getD 0, u.dpart, u.spart, 0, u.spart.toNat, none, .data u.seq u.offset u.payload, none⟩
      (u.sentAt + 20 ≤ s.now → o ∉ s.felt.waiting → exec (.frameResendTimer part dst dpart sq) s = .next (s.send o)) ∧
      (s.now < u.sentAt + 20 ∨ o ∈ s.felt.waiting → exec (.frameResendTimer part dst dpart sq) s = .next s)) ∧
  (∀ (s : State) (q : Req) (src so : BitVec 42) (m : BitVec 8) (off : BitVec 48), Runnable (.fabPut q src so m off 0) q s →
    exec (.fabPut q src so m off 0) s = .next ((s.start q).finish q stOkEmpty 0 0)) ∧
  (∀ (s : State) (q : Req) (src so : BitVec 42) (m : BitVec 8) (off : BitVec 48) (n : BitVec 32),
    Runnable (.fabPut q src so m off n) q s → n ≠ 0 →
    let ends := fun (st : Nat) => exec (.fabPut q src so m off n) s = .next ((s.start q).finish q st 0 0)
    (∀ h, q.ring = .host h → ends stDenied) ∧
    ∀ c, q.ring = .ctx c →
      (s.obj? c src = none → ends stNoObject) ∧
      ∀ o, s.obj? c src = some o →
        (o.broken ≠ none → ends stPoison) ∧
        (o.broken = none → (∀ g, s.group? (ptnOf o.ctx) = some g → g.state ≠ 2 ∨ g.members[m.toNat]? = none) → ends stNoObject) ∧
        ∀ g w, o.broken = none → s.group? (ptnOf o.ctx) = some g → g.state = 2 → g.members[m.toNat]? = some w →
          (o.size < so.toNat + n.toNat → ends stBadField) ∧
          (so.toNat + n.toNat ≤ o.size → (s.start q).objPoison o so.toNat n.toNat ≠ none → ends stPoison) ∧
          (so.toNat + n.toNat ≤ o.size → (s.start q).objPoison o so.toNat n.toNat = none →
            let u := ((s.start q).countTiers o so.toNat n.toNat false).count o.ctx 23 n.toNat
            let bs := (s.start q).readObj o so.toNat n.toNat
            let beyond := s.felt.addr = some w.1 ∧ m.toNat ≠ g.index ∧
              ∃ r, u.receiveObj w.2.toNat = some r ∧ r.size < off.toNat + n.toNat
            (beyond → exec (.fabPut q src so m off n) s =
              .next ((u.modFelt fun f => { f with beyondDrops := f.beyondDrops + 1 }).finish q stBadField 0 0)) ∧
            (¬ beyond → m.toNat ≠ g.index → exec (.fabPut q src so m off n) s = .next ((frameCuts (n.toNat / 4096 + 1) off.toNat
              bs).foldl (fun st (a, b) => st.sendData (ptnOf o.ctx) w.1 w.2 a b (some q) none) u)) ∧
            (m.toNat = g.index → exec (.fabPut q src so m off n) s = .next (if (u.writeReceived (ptnOf o.ctx) off.toNat bs).2 = true
              then (u.writeReceived (ptnOf o.ctx) off.toNat bs).1.finish q stOk 0 0
              else (u.writeReceived (ptnOf o.ctx) off.toNat bs).1.finish q stBadField 0 0))))

/-- Felt groups (13 R338, R339, R341 to R343, R347): FAB.GROUP on a list that names the partition at its own index
records the group as forming and sends its join to every other member; a group in force is ST_IN_USE, and a list that
is malformed, beyond its object or names another, and a receive object of weights, ST_BAD_FIELD; it waits while the
linker restarts, as a join does. A join is kept for its partition; a group still forming after 10 s is dissolved. Of a
member's frames, a leave dissolves the group and ends its run, a held is kept, and told to the other members by the
conductor, a done is held by the conductor, a release is the member's boundary, and an abort faults the group run; a
frame for another device goes on, and one of no member of the group does nothing more than end Lull. FAB.LEAVE leaves
the group. Completes: fabGroup, joinFrame, groupFormTimeout, fabLeave, leaveFrame, doneFrame, releaseFrame, heldFrame,
abortFrame. -/
def Obligations.FeltGroups : Prop :=
  (∀ (s : State) (q : Req) (a : GroupArgs), Runnable (.fabGroup q a) q s →
    let ends := fun (st : Nat) => exec (.fabGroup q a) s = .next ((s.start q).finish q st 0 0)
    let n := a.count.toNat + 1
    (∀ h, q.ring = .host h → ends stDenied) ∧
    ∀ c, q.ring = .ctx c →
      (s.obj? c a.list = none → ends stNoObject) ∧
      ∀ o, s.obj? c a.list = some o →
        let p := ptnOf o.ctx
        let bs := (s.start q).readObj o a.listOff.toNat (4 * n)
        let list := (List.range n).mapM fun i => readMember (Bits.ofBytes ((bs.drop (4 * i)).take 4))
        let free := o.broken = none ∧ s.restarting linkerIsland = false ∧ s.group? p = none
        let takes := a.receive = 0 ∨ ∃ r, s.obj? o.ctx a.receive = some r ∧ r.desc.kind ≠ kindWeights
        (o.broken ≠ none → ends stPoison) ∧
        (o.broken = none → s.restarting linkerIsland = true → exec (.fabGroup q a) s = .next s) ∧
        (o.broken = none → s.restarting linkerIsland = false → s.group? p ≠ none → ends stInUse) ∧
        (free → a.receive ≠ 0 → s.obj? o.ctx a.receive = none → ends stNoObject) ∧
        (free → ∀ r, a.receive ≠ 0 → s.obj? o.ctx a.receive = some r → r.desc.kind = kindWeights → ends stBadField) ∧
        (free → takes → o.size < a.listOff.toNat + 4 * n → ends stBadField) ∧
        (free → takes → a.listOff.toNat + 4 * n ≤ o.size → (s.start q).objPoison o a.listOff.toNat (4 * n) ≠ none →
          ends stPoison) ∧
        (free → takes → a.listOff.toNat + 4 * n ≤ o.size → (s.start q).objPoison o a.listOff.toNat (4 * n) = none →
          (list = none → ends stBadField) ∧
          ∀ ms, list = some ms →
            (s.felt.addr = none → ends stBadField) ∧
            ∀ own, s.felt.addr = some own →
              let g : Group := { id := a.group, index := a.index.toNat, count := n, lockstep := a.lockstep, members := ms,
                                 digest := Config.sha3 bs, receive := a.receive, since := s.now }
              (ms[a.index.toNat]? ≠ some (own, BitVec.ofNat 3 p) → ends stBadField) ∧
              (ms[a.index.toNat]? = some (own, BitVec.ofNat 3 p) → exec (.fabGroup q a) s =
                .next (((g.others.foldl (fun st m => st.sendControl p m.1 m.2 (.join g.join))
                  ((s.start q).modPtn p fun x => { x with group := some g })).checkJoins p).finish q stOk 0 0)))) ∧
  (∀ (s t : State) (k : Fin 8) (f : Frame) (j : JoinInfo), (s.port k).phase = .up → s.receive k f = (t, true) →
    (t.felt.addr ≠ some f.dst → exec (.joinFrame k f j) s = .next (t.forward f (.join j))) ∧
    (t.felt.addr = some f.dst → t.restarting linkerIsland = true → exec (.joinFrame k f j) s =
      .next { t with heldWork := t.heldWork ++ [.frame k ((s.port k).opened f) (.join j)] }) ∧
    (t.felt.addr = some f.dst → t.restarting linkerIsland = false → ∃ u : State, exec (.joinFrame k f j) s =
      .next (u.checkJoins f.dpart.toNat) ∧ u.joinOf f.dpart.toNat (f.src, f.spart) = some j)) ∧
  (∀ (s : State) (p : Fin 8),
    ((∀ g, s.group? p.val = some g → g.state ≠ 1 ∨ s.now < g.since + 10000000 ∨ s.restarting linkerIsland = true) →
      exec (.groupFormTimeout p) s = .next s) ∧
    (∀ g, s.group? p.val = some g → g.state = 1 → g.since + 10000000 ≤ s.now → s.restarting linkerIsland = false →
      exec (.groupFormTimeout p) s = .next (s.dissolve p.val ((s.unjoined p.val g).getD 0) 4))) ∧
  (∀ (s : State) (q : Req), Runnable (.fabLeave q) q s →
    (∀ h, q.ring = .host h → exec (.fabLeave q) s = .next ((s.start q).finish q stDenied 0 0)) ∧
    (∀ c, q.ring = .ctx c → s.group? (ptnOf c) = none → exec (.fabLeave q) s = .next ((s.start q).finish q stOkEmpty 0 0)) ∧
    (∀ c, q.ring = .ctx c → s.group? (ptnOf c) ≠ none →
      exec (.fabLeave q) s = .next (((s.start q).leaveGroup (ptnOf c)).finish q stOk 0 0))) ∧
  (∀ (s t : State) (k : Fin 8) (f : Frame) (b : BitVec 64) (adm : Option (BitVec 64 × BitVec 32)) (moved : Bool),
    (s.port k).phase = .up → s.receive k f = (t, true) →
    ∀ e ∈ ([(.leaveFrame k f moved, .leave moved), (.doneFrame k f b adm, .done b adm), (.releaseFrame k f b, .release b),
      (.heldFrame k f, .held), (.abortFrame k f, .abort)] : List (Instr × FeltBody)),
      (t.felt.addr ≠ some f.dst → exec e.1 s = .next (t.forward f e.2)) ∧
      (t.felt.addr = some f.dst → (∀ g, t.feltWake.group? f.dpart.toNat = some g → g.indexOf f.src f.spart = none) →
        exec e.1 s = .next t.feltWake)) ∧
  (∀ (s t : State) (k : Fin 8) (f : Frame) (g : Group) (i : Nat), (s.port k).phase = .up → s.receive k f = (t, true) →
    t.felt.addr = some f.dst → t.feltWake.group? f.dpart.toNat = some g → g.indexOf f.src f.spart = some i →
    let u := t.feltWake
    let p := f.dpart.toNat
    (∀ moved, exec (.leaveFrame k f moved) s = .next ((u.endGroupRun p).dissolve p f.src (if moved then 3 else 2))) ∧
    (∀ b adm, (g.index ≠ 0 → exec (.doneFrame k f b adm) s = .next u) ∧
      (g.index = 0 → exec (.doneFrame k f b adm) s = .next (((u.modGroup p fun x =>
        { x with dones := (x.dones.filter fun d => d.1 != i) ++ [(i, adm)] }).setHelds p (·.filter (· != i))).conduct p))) ∧
    (∀ b, (i = 0 → g.doneSent = true → u.ringRuns p = true → exec (.releaseFrame k f b) s = .next (u.takeRelease p b)) ∧
      (i ≠ 0 ∨ g.doneSent = false ∨ u.ringRuns p = false → exec (.releaseFrame k f b) s = .next u)) ∧
    (i ∈ g.helds → exec (.heldFrame k f) s = .next u) ∧
    (i ∉ g.helds → g.index ≠ 0 → exec (.heldFrame k f) s = .next (u.setHelds p (· ++ [i]))) ∧
    (i ∉ g.helds → g.index = 0 → ∃ js : List Nat, (∀ j, j ∈ js ↔ j < g.count ∧ j ≠ 0 ∧ j ≠ i) ∧ exec (.heldFrame k f) s =
      .next (js.foldl (fun st j => match g.members[j]? with
        | some m => st.sendControl p m.1 m.2 .held
        | none => st) (u.setHelds p (· ++ [i])))) ∧
    (∀ r, u.run? p = some r → r.released = true → r.stopped = false → exec (.abortFrame k f) s = .next ((u.clearDones p).raiseFault
      { kind := 0x08, ptn := some p, ctx := some r.ctx, beat := r.beat, address := i })) ∧
    ((∀ r, u.run? p = some r → r.released = false ∨ r.stopped = true) →
      exec (.abortFrame k f) s = .next (u.clearDones p)))

/-! ### Weights -/

/-- Shards (11 R276, R277, R282, R283, R287 to R290, 08 R193). A shard that is wanted, and whose receiver is ready, is
written in place; one that matches its digest is wanted no more, and the last ends the load; one that does not is
refused and counted, and is asked for again up to the third. A shard of a tile that migrates, given up, from another
source, or wanted by nothing, is not taken; one that a refetch waits for is written to the refetch's place, or asked
for again. A shard awaited for 20 ms is asked for, and reported every third time. Past the deadline a swap rolls back,
at once where no shard was overwritten and no run is in progress, and leaves an object that was lost lost; a reload
loses the object. A run held for a layer goes on once the layer is new. Otherwise each of these events changes
nothing. Completes: shardReceive, shardMissing, shardOverdue, waveRelease. -/
def Obligations.Shards : Prop :=
  (∀ (s : State) (c : CtxNo) (base : BitVec 42) (tile : Nat) (bs : List Byte),
    (s.weight? c base = none ∨ s.obj? c base = none → exec (.shardReceive c base tile bs) s = .next s) ∧
    ∀ (w : WeightObj) (o : Obj), s.weight? c base = some w → s.obj? c base = some o →
      let counted := fun (t : State) => (t.count c 22 bs.length).count c 24 bs.length
      let wanted := w.wanted.find? fun x => x.tile == tile && x.ready
      let refetch := w.refetch.find? fun x => x.tile == tile && !x.got
      (w.target.shards[tile]? = none → exec (.shardReceive c base tile bs) s = .next s) ∧
      ∀ sh, w.target.shards[tile]? = some sh →
        (∀ x, wanted = some x → x.gaveUp = true ∨ w.targetSource = .library ∨
            (∃ m ∈ s.migrations, m.ctx = c ∧ m.base = base ∧ m.tile = tile) →
          exec (.shardReceive c base tile bs) s = .next s) ∧
        (∀ x, wanted = some x → x.gaveUp = false → w.targetSource ≠ .library →
            (∀ m ∈ s.migrations, ¬ (m.ctx = c ∧ m.base = base ∧ m.tile = tile)) →
          (w.target.shardOk tile bs = true → ∃ t y, exec (.shardReceive c base tile bs) s = .next t ∧ t.weight? c base = some y ∧
            (∀ z ∈ y.wanted, z.tile ≠ tile) ∧ y.wanted.map (·.tile) = (w.wanted.map (·.tile)).filter (· != tile) ∧
            (w.phase ≠ .lost → w.phase ≠ .ready → (∀ z ∈ w.wanted, z.tile = tile) → y.phase = .ready ∧ y.q = none)) ∧
          (w.target.shardOk tile bs = false → ∃ t y, exec (.shardReceive c base tile bs) s = .next t ∧ t.weight? c base = some y ∧
            y.phase = w.phase ∧ y.wanted.map (·.tile) = w.wanted.map (·.tile) ∧
            ∀ z ∈ y.wanted, z.tile = tile → z.gaveUp = true ∨ z.refused < 3)) ∧
        (wanted = none → refetch = none → exec (.shardReceive c base tile bs) s = .next s) ∧
        (∀ x, wanted = none → refetch = some x →
          let v := w.holding tile
          let got := fun (y : Refetch) => if y.tile = tile then { y with got := true } else y
          (v.2 = .library → exec (.shardReceive c base tile bs) s = .next s) ∧
          (v.2 ≠ .library → v.1.shardOk tile bs = true → exec (.shardReceive c base tile bs) s =
            .next (counted ((s.writeTier x.dest.tier x.dest.cluster (x.dest.unit * unitBytes) bs).modWeight c base fun y =>
              { y with refetch := y.refetch.map got }))) ∧
          (v.2 ≠ .library → v.1.shardOk tile bs = false →
            exec (.shardReceive c base tile bs) s = .next (s.request c v.2 tile)))) ∧
  (∀ (s : State) (c : CtxNo) (base : BitVec 42) (tile : Nat),
    ((∀ w x, s.weight? c base = some w → (w.wanted.find? fun y => y.tile == tile) = some x →
        x.gaveUp = true ∨ x.from_ = none ∨ s.now < x.last + 20000) → exec (.shardMissing c base tile) s = .next s) ∧
    (∀ w x, s.weight? c base = some w → (w.wanted.find? fun y => y.tile == tile) = some x → x.gaveUp = false → x.from_ ≠ none →
        x.last + 20000 ≤ s.now →
      let ask := fun (y : Wanted) => if y.tile = tile then { y with asked := y.asked + 1, last := s.now } else y
      let t := (s.modWeight c base fun y => { y with wanted := y.wanted.map ask }).request c w.targetSource tile
      exec (.shardMissing c base tile) s =
        .next (if (x.asked + 1) % 3 = 0 then t.event (.ctx c) 0x0060 base.toNat tile 2 else t))) ∧
  (∀ (s : State) (c : CtxNo) (base : BitVec 42) (tile : Nat),
    ((∀ w x since, s.weight? c base = some w → (w.wanted.find? fun y => y.tile == tile) = some x → x.from_ = some since →
        s.now < since + w.deadline * 1000 ∨ (w.phase ≠ .swapping ∧ w.phase ≠ .rollingBack)) →
      exec (.shardOverdue c base tile) s = .next s) ∧
    (∀ w x since, s.weight? c base = some w → (w.wanted.find? fun y => y.tile == tile) = some x → x.from_ = some since →
        since + w.deadline * 1000 ≤ s.now →
      (w.phase = .swapping → exec (.shardOverdue c base tile) s = .next (s.rollBackSwap w (w.manifest.layerOf tile) tile)) ∧
      (w.phase = .swapping → w.wasLost = true → ∃ y, (s.rollBackSwap w (w.manifest.layerOf tile) tile).weight? c base = some y ∧
        y.phase = .lost ∧ y.q = none ∧ y.manifest = w.manifest) ∧
      (w.phase = .swapping → w.wasLost = false → ∃ y, (s.rollBackSwap w (w.manifest.layerOf tile) tile).weight? c base = some y ∧
        y.manifest = w.manifest ∧
        (w.overwritten ≠ [] → y.phase = .rollingBack ∧ y.next = w.next ∧ ∀ i, i ∈ y.wanted.map (·.tile) ↔ i ∈ w.overwritten) ∧
        (w.overwritten = [] → s.run? (ptnOf c) = none → y.phase = .ready ∧ y.q = none)) ∧
      (w.phase = .rollingBack → ∃ t y, exec (.shardOverdue c base tile) s = .next t ∧ t.weight? c base = some y ∧
        y.phase = .lost ∧ y.q = none ∧ y.manifest = w.manifest))) ∧
  (∀ (s : State) (p : Fin 8),
    (s.run? p.val = none → exec (.waveRelease p) s = .next s) ∧
    ∀ (x : Partition) (r : Run), s.ptn? p.val = some x → x.run = some r →
      let held := s.waveHeld r (if r.released then r.beat + 1 else 0)
      (x.holds.wave = false ∨ held = true → exec (.waveRelease p) s = .next s) ∧
      (x.holds.wave = true → held = false →
        exec (.waveRelease p) s = .next (s.modPtn p.val fun y => { y with holds := { y.holds with wave := false } })))

/-- Sessions and the library (11 R272 to R276, R282, 13 R331, R345, R346). A multicast frame goes on along its tree
with one hop more, or is dropped at hop 15: it waits where its transit may not send it yet, is dropped where the
device has no such tree, goes out on every branch once all have room, waits else, and reaches the device itself where
it is a leaf; there its bytes go to each object that the tree feeds and to each command that awaits the manifest. A
request to send a shard again is kept once and starts the linger time again; the linger time with no request ends the
session with ST_OK. A library shard that is read is sent in its turn, and the session goes on to the next; one that
does not match is counted, and the third failure ends the session with ST_POISON; the read waits for a busy plane and
a restarting store core. WGT.SERVE opens a session with the manifest, unless eight are open or the library has no such
entry; WGT.DELETE takes out an entry that nothing uses. Completes: multicastFrame, resendRequest, sessionLingerExpiry,
flashReadComplete, wgtServe, wgtDelete. -/
def Obligations.Sessions : Prop :=
  (∀ (s t : State) (k : Fin 8) (f : Frame), (s.port k).phase = .up → s.receive k f = (t, true) →
    let bs := ((s.port k).opened f).payload
    let reader := BitVec.ofNat 16 (f.tree.toNat / 65536)
    let group := BitVec.ofNat 16 f.tree.toNat
    let o : Outgoing := ⟨f.dst, f.src, f.dpart, f.spart, f.hops.toNat + 1, 8, none, .multicast reader group f.seq f.offset bs,
      frameBuffer k f⟩
    (f.type ≠ 2 → exec (.multicastFrame k f) s = .next t) ∧
    (f.type = 2 → f.hops ≠ 15 → exec (.multicastFrame k f) s = .next (t.feltWake.send o).takeTrees) ∧
    (f.type = 2 → f.hops = 15 → exec (.multicastFrame k f) s =
      .next ((t.feltWake.modFelt fun x => { x with hopDrops := x.hopDrops + 1 }).giveCredit (frameBuffer k f)).takeTrees)) ∧
  (∀ (s : State) (o : Outgoing) (reader group : BitVec 16) (sq : BitVec 32) (off : BitVec 48) (bs : List Byte),
    o.body = .multicast reader group sq off bs →
    let waits := s.modFelt fun f => { f with waiting := f.waiting ++ [o] }
    (s.maySend o = false → s.send o = waits) ∧
    (s.maySend o = true → s.tree? reader group = none → s.send o = s.giveCredit o.owes) ∧
    ∀ t, s.maySend o = true → s.tree? reader group = some t →
      let out := (t.ports.foldl (fun st k => st.putOut k o) s).giveCredit o.owes
      ((∃ k ∈ t.ports, (s.port k).phase ≠ .up ∨ s.hasRoom k o = false) → s.send o = waits) ∧
      ((∀ k ∈ t.ports, (s.port k).phase = .up ∧ s.hasRoom k o = true) →
        s.send o = if t.leaf then out.deliverHere o else out)) ∧
  (∀ (s : State) (reader group : BitVec 16) (off : Nat) (bs : List Byte),
    s.takeMulticast reader group off bs =
      (s.awaited.filter fun a => a.reader == reader && Config.sessionGroup a.reader a.session == group).foldl
        (fun st a => st.manifestPart a off bs)
        ((s.weights.filter fun w => w.fedBy reader group).foldl (fun st w => st.shardPart w off bs) s)) ∧
  (∀ (s : State) (no : BitVec 32) (r : BitVec 16) (tile : Nat),
    ((∀ x ∈ s.serving, x.session ≠ no) → exec (.resendRequest no r tile) s = .next s) ∧
    ∀ x, (s.serving.find? fun x => x.session == no) = some x →
      ∃ t y, exec (.resendRequest no r tile) s = .next t ∧ (t.serving.find? fun x => x.session == no) = some y ∧
        (r, tile) ∈ y.resends ∧ (∀ z ∈ x.resends, z ∈ y.resends) ∧ y.position = x.position ∧
        y.lingerFrom = x.lingerFrom.map (fun _ => s.now) ∧ t = { s with serving := t.serving }) ∧
  (∀ (s : State) (no : BitVec 32),
    let spent := fun (x : Serving) => x.session = no ∧ x.resends = [] ∧ ∃ since, x.lingerFrom = some since ∧ since + x.linger ≤ s.now
    ((∀ x ∈ s.serving, ¬ spent x) → exec (.sessionLingerExpiry no) s = .next s) ∧
    ((∃ x ∈ s.serving, spent x) → ∃ x ∈ s.serving, spent x ∧ exec (.sessionLingerExpiry no) s =
      .next ({ s with serving := s.serving.filter fun y => y.q != x.q }.finish x.q stOk 0 0))) ∧
  (∀ (s : State) (model : BitVec 64) (version : BitVec 32) (tile : Nat) (r : FlashRead),
    (s.entry? model version = none → exec (.flashReadComplete model version tile r) s = .next s) ∧
    ∀ e, s.entry? model version = some e →
      let keys := (shardPages e.manifest tile).filterMap (entryKey e.stripes)
      let errors := r.pages.filterMap fun x => (((shardPages e.manifest tile)[x.1]?).bind (entryKey e.stripes)).map fun key => (key, x.2)
      let bs := s.readShard e.stripes e.manifest tile r.pages r.bytes
      (s.restarting storeIsland = true ∨ s.stacksRun = false ∨ (∃ k ∈ keys, s.keyBusy k = true) →
        exec (.flashReadComplete model version tile r) s = .next s) ∧
      (s.restarting storeIsland = false → s.stacksRun = true → (∀ k ∈ keys, s.keyBusy k = false) → s.weights = [] →
        let read := exec (.flashReadComplete model version tile r) s
        (s.serving = [] → read = .next ((s.countPages errors).copyWorn errors)) ∧
        ∀ x, s.serving = [x] → x.modelId = model → x.version = version →
          read = .next (((s.countPages errors).serveShard x e.manifest tile bs).copyWorn errors))) ∧
  (∀ (s : State) (x : Serving) (m : Manifest) (tile : Nat) (bs : List Byte), s.serving = [x] →
    let last := x.position + 1 = m.shards.length
    (x.position ≠ tile ∨ m.shards.length ≤ x.position → (∀ y ∈ x.resends, y.2 ≠ tile) → s.serveShard x m tile bs = s) ∧
    (x.position = tile → tile < m.shards.length → m.shardOk tile bs = true → ∃ y, (s.serveShard x m tile bs).serving = [y] ∧
      y.position = tile + 1 ∧ y.fails = x.fails.filter (fun z => z.1 != tile) ∧ y.resends = x.resends ∧
      y.lingerFrom = if last then some s.now else x.lingerFrom) ∧
    (x.position ≠ tile ∨ m.shards.length ≤ x.position → (∃ y ∈ x.resends, y.2 = tile) → m.shardOk tile bs = true →
      ∃ y, (s.serveShard x m tile bs).serving = [y] ∧ y.resends = x.resends.filter (fun z => z.2 != tile) ∧
        y.position = x.position ∧ y.lingerFrom = x.lingerFrom) ∧
    ((x.position = tile ∧ tile < m.shards.length) ∨ (∃ y ∈ x.resends, y.2 = tile) → m.shardOk tile bs = false →
      (Table.get 0 x.fails tile + 1 < 3 → s.serveShard x m tile bs =
        { s with serving := [{ x with fails := Table.set x.fails tile (Table.get 0 x.fails tile + 1) }] }) ∧
      (3 ≤ Table.get 0 x.fails tile + 1 → s.serveShard x m tile bs = ({ s with serving := [] }.finish x.q stPoison 0 0)))) ∧
  (∀ (s : State) (q : Req) (model : BitVec 64) (version session : BitVec 32) (group linger : BitVec 16),
    Runnable (.wgtServe q model version session group linger) q s →
    (s.entry? model version = none →
      exec (.wgtServe q model version session group linger) s = .next ((s.start q).finish q stNoObject 0 0)) ∧
    (∀ x, s.entry? model version = some x → 8 ≤ s.serving.length →
      exec (.wgtServe q model version session group linger) s = .next ((s.start q).finish q stLimit 0 0)) ∧
    (∀ x, s.entry? model version = some x → s.serving.length < 8 →
      let y : Serving := { q := q, session := session, modelId := model, version := version, group := group,
                           linger := (if linger = 0 then 60 else linger.toNat) * 1000000 }
      exec (.wgtServe q model version session group linger) s =
        .next ({ s.start q with serving := s.serving ++ [y] }.sendGroup y x.manifest.raw))) ∧
  (∀ (s : State) (q : Req) (model : BitVec 64) (version : BitVec 32), Runnable (.wgtDelete q model version) q s →
    let names := fun (m : Manifest) => m.modelId = model ∧ m.version = version
    let used := (∃ w ∈ s.weights, names w.manifest ∨ ∃ m, w.next = some m ∧ names m) ∨
      ∃ x ∈ s.serving, x.modelId = model ∧ x.version = version
    (s.entry? model version = none → exec (.wgtDelete q model version) s = .next ((s.start q).finish q stNoObject 0 0)) ∧
    ∀ x, s.entry? model version = some x →
      (used → exec (.wgtDelete q model version) s = .next ((s.start q).finish q stInUse 0 0)) ∧
      (¬ used → exec (.wgtDelete q model version) s = .next (((s.start q).deleteEntry x).finish q stOk 0 0) ∧
        ((s.start q).deleteEntry x).library = s.library.filter (· != x)))

/-- Weight objects (11 R267, R276, R279, R284, R291). WGT.LOAD of a library version creates, for an authentic manifest
made for the partition's number of clusters, one weight object that is loading and wants every shard, or answers why
not with none; from a session the command awaits the manifest. WGT.SWAP begins on an idle object a swap to a manifest
that differs in version and digests alone, or answers why not; on a busy one it is refused. WGT.READER names another
reader and asks it for what is still needed; WGT.QUERY answers version, state and new layers; WGT.FREE takes an idle
object out, waits while it is bound, and is refused while it swaps or rolls back. A host ring is denied, and a base
that names none is ST_NO_OBJECT. Completes: wgtLoad, wgtSwap, wgtReader, wgtQuery, wgtFree. -/
def Obligations.WeightObjects : Prop :=
  (∀ (s : State) (q : Req) (src : WgtSource) (prot : Bool), Runnable (.wgtLoad q src prot) q s →
    let ends := fun (st : Nat) => exec (.wgtLoad q src prot) s = .next ((s.start q).finish q st 0 0)
    (∀ h, q.ring = .host h → ends stDenied) ∧
    ∀ (c : CtxNo) (x : Partition), q.ring = .ctx c → s.ptn? (ptnOf c) = some x →
      (4 ≤ (s.start q).weightCount c → ends stLimit) ∧
      ((s.start q).weightCount c < 4 → src.isLocal = false → exec (.wgtLoad q src prot) s = .next
        (({ s.start q with awaited := s.awaited ++ [({ q := q, cmd := .wgtLoad q src prot, session := src.session, reader := src.reader } : Awaited)] } : State).joinTree
          c src.session src.reader)) ∧
      ((s.start q).weightCount c < 4 → src.isLocal = true → s.entry? src.modelId src.version = none → ends stNoObject) ∧
      ((s.start q).weightCount c < 4 → src.isLocal = true → ∀ e, s.entry? src.modelId src.version = some e →
        let made := (s.start q).createWeights (ptnOf c) x c e.manifest prot
        (e.manifest.authentic = false → ends stAuth) ∧
        (e.manifest.authentic = true → e.manifest.clusters ≠ x.n → ends stBadField) ∧
        (e.manifest.authentic = true → e.manifest.clusters = x.n → ∀ st, made.2 = .error st →
          exec (.wgtLoad q src prot) s = .next (made.1.finish q st 0 0) ∧ made.1.weights = s.weights ∧
            (st = stLimit ∨ st = stQuota)) ∧
        (e.manifest.authentic = true → e.manifest.clusters = x.n → ∀ base, made.2 = .ok base → ∃ w, w.ctx = c ∧ w.base = base ∧
          w.manifest = e.manifest ∧ w.phase = .loading ∧ w.q = some q ∧ w.source = .library ∧
          w.wanted.map (·.tile) = e.manifest.shards.map (·.tile) ∧ (∀ z ∈ w.wanted, z.ready = true) ∧
          exec (.wgtLoad q src prot) s = .next { made.1 with weights := s.weights ++ [w] }))) ∧
  (∀ (s : State) (q : Req) (base : BitVec 42) (d : BitVec 14) (src : WgtSource), Runnable (.wgtSwap q base d src) q s →
    let ends := fun (st : Nat) => exec (.wgtSwap q base d src) s = .next ((s.start q).finish q st 0 0)
    (∀ h, q.ring = .host h → ends stDenied) ∧
    ∀ (c : CtxNo), q.ring = .ctx c →
      let asked := ∃ a ∈ s.awaited, ctxOf a.q.ring = some c ∧ ∃ q' d' src', a.cmd = .wgtSwap q' base d' src'
      (s.weight? c base = none → ends stNoObject) ∧
      ∀ w, s.weight? c base = some w →
        (w.phase = .loading ∨ w.phase = .swapping ∨ w.phase = .rollingBack ∨ asked → ends stInUse) ∧
        ((w.phase = .ready ∨ w.phase = .lost) → ¬ asked →
          (src.isLocal = false → exec (.wgtSwap q base d src) s = .next
            (({ s.start q with awaited := s.awaited ++ [({ q := q, cmd := .wgtSwap q base d src, session := src.session, reader := src.reader } : Awaited)] } : State).joinTree
              c src.session src.reader)) ∧
          (src.isLocal = true → s.entry? src.modelId src.version = none → ends stNoObject) ∧
          (src.isLocal = true → ∀ e, s.entry? src.modelId src.version = some e →
            (e.manifest.authentic = false → ends stAuth) ∧
            (e.manifest.authentic = true → w.manifest.matches_ e.manifest = false → ends stBadField) ∧
            (e.manifest.authentic = true → w.manifest.matches_ e.manifest = true → e.manifest.version = w.manifest.version →
              w.phase = .ready → ends stOkEmpty) ∧
            (e.manifest.authentic = true → w.manifest.matches_ e.manifest = true →
              e.manifest.version ≠ w.manifest.version ∨ w.phase = .lost → exec (.wgtSwap q base d src) s =
                .next ((s.start q).modWeight c base fun y => { y with
                  phase := .swapping, q := some q, next := some e.manifest, nextSource := .library,
                  deadline := (if d = 0 then 50 else d.toNat), effective := false, wasLost := w.phase == .lost, overwritten := [],
                  wanted := e.manifest.shards.map fun x => { tile := x.tile } }))))) ∧
  (∀ (s : State) (q : Req) (base : BitVec 42) (session : BitVec 32) (reader : BitVec 16), Runnable (.wgtReader q base session reader) q s →
    let ends := fun (st : Nat) => exec (.wgtReader q base session reader) s = .next ((s.start q).finish q st 0 0)
    (∀ h, q.ring = .host h → ends stDenied) ∧
    ∀ (c : CtxNo), q.ring = .ctx c →
      let swapWaits := fun (a : Awaited) => ctxOf a.q.ring == some c && match a.cmd with
        | .wgtSwap _ b _ _ => b == base
        | _ => false
      (s.weight? c base = none → ends stNoObject) ∧
      ∀ w, s.weight? c base = some w →
        let needs := w.phase = .loading ∨ w.phase = .swapping ∨ w.phase = .rollingBack ∨ w.refetch ≠ []
        (needs →
          let again := fun (x : Wanted) => { x with refused := 0, asked := 0, gaveUp := false, last := s.now }
          let need := (w.wanted.filter (·.ready)).map (·.tile) ++ (w.refetch.filter fun x => !x.got).map (·.tile)
          let t := (s.start q).modWeight c base fun y =>
            if w.phase = .swapping then { y with wanted := y.wanted.map again, nextSource := .session session reader }
            else { y with wanted := y.wanted.map again, source := .session session reader }
          exec (.wgtReader q base session reader) s =
            .next ((need.foldl (fun st i => st.request c (.session session reader) i) t).finish q stOk 0 0)) ∧
        (¬ needs → s.awaited.any swapWaits = true →
          let moved := fun (a : Awaited) => if swapWaits a then { a with session := session, reader := reader } else a
          exec (.wgtReader q base session reader) s =
            .next (({ s.start q with awaited := s.awaited.map moved }.joinTree c session reader).finish q stOk 0 0)) ∧
        (¬ needs → s.awaited.any swapWaits = false → ends stNoObject)) ∧
  (∀ (s : State) (q : Req) (base : BitVec 42), Runnable (.wgtQuery q base) q s →
    (∀ h, q.ring = .host h → exec (.wgtQuery q base) s = .next ((s.start q).finish q stDenied 0 0)) ∧
    ∀ (c : CtxNo), q.ring = .ctx c →
      (s.weight? c base = none → exec (.wgtQuery q base) s = .next ((s.start q).finish q stNoObject 0 0)) ∧
      ∀ w, s.weight? c base = some w → exec (.wgtQuery q base) s = .next ((s.start q).finish q stOk
        (packBits [(w.manifest.version.toNat, 0), (w.phase.code, 32), (w.layersNew, 40)]) w.manifest.modelId.toNat)) ∧
  (∀ (s : State) (q : Req) (base : BitVec 42), Runnable (.wgtFree q base) q s →
    let ends := fun (st : Nat) => exec (.wgtFree q base) s = .next ((s.start q).finish q st 0 0)
    (∀ h, q.ring = .host h → ends stDenied) ∧
    ∀ (c : CtxNo), q.ring = .ctx c →
      (s.obj? c base = none ∨ s.weight? c base = none → ends stNoObject) ∧
      ∀ w o, s.obj? c base = some o → o.ctx = c → s.weight? c base = some w →
        (w.phase = .swapping ∨ w.phase = .rollingBack → ends stInUse) ∧
        (w.phase ≠ .swapping → w.phase ≠ .rollingBack → (s.start q).bound o = true → exec (.wgtFree q base) s = .next s) ∧
        (w.phase ≠ .swapping → w.phase ≠ .rollingBack → (s.start q).bound o = false → exec (.wgtFree q base) s =
          .next ((((s.start q).dropWeights c base stAborted).quotaClear (ptnOf c)).finish q stOk 0 0)))

/-! ### The flash store and the firmware -/

/-- The library's stripes (11 R272, 17 R423 to R431). WGT.STORE looks, in this order, at the object's kind, at poison
of the manifest's head, at the manifest, at the object's size, at the pair's uniqueness, at the library's 1,024
entries, at poison of what is stored and at the free stripes; with all in order it takes the first free stripes in
order of erase counts, joins the stores in progress and begins to write; the library itself stays as it was until the
store is done. An operation that ends is looked at once the store core runs: in order, done or failed, it ends as
opEnds says, and what waited for it goes on; a failed one retires its block, and withdraws the stripe that holds it. A
patrol read counts its pages' corrections, waits for busy planes, and a library stripe past 48 corrections begins to
be copied to the free stripe with the lowest erase count. Completes: wgtStore, flashOpComplete, flashPatrol. -/
def Obligations.FlashStore : Prop :=
  (∀ (s : State) (q : Req) (base : BitVec 42), Runnable (.wgtStore q base) q s →
    let ends := fun (st : Nat) => exec (.wgtStore q base) s = .next ((s.start q).finish q st 0 0)
    (∀ h, q.ring = .host h → ends stDenied) ∧
    ∀ (c : CtxNo), q.ring = .ctx c →
      (s.obj? c base = none → ends stNoObject) ∧
      ∀ o, s.obj? c base = some o →
        let u := s.start q
        let m? := readManifest (u.readObj o 0 (min o.size (manifestBytes 65535)))
        (o.broken ≠ none → ends stPoison) ∧
        (o.broken = none → o.desc.kind ≠ kindData → ends stBadField) ∧
        (o.broken = none → o.desc.kind = kindData → u.objPoison o 0 64 ≠ none → ends stPoison) ∧
        (o.broken = none → o.desc.kind = kindData → u.objPoison o 0 64 = none →
          (m? = none → ends stBadField) ∧
          ∀ m, m? = some m →
            let offs := shardOffsets (manifestBytes m.shards.length) m.shards
            let last := (offs.zip (m.shards.map (·.length))).foldl (fun n x => max n (x.1 + x.2)) 0
            let same := fun (y : Manifest) => y.modelId = m.modelId ∧ y.version = m.version
            let stored := (∃ e ∈ s.library, same e.manifest) ∨ ∃ x ∈ s.flash.storing, same x.manifest
            let full := 1024 ≤ s.library.length + (s.flash.storing.filter fun x => x.recording.isNone).length
            let is := u.stripeOrder.take (stripesFor m)
            (m.authentic = false → ends stAuth) ∧
            (m.authentic = true → o.size < last → ends stBadField) ∧
            (m.authentic = true → last ≤ o.size → stored → ends stInUse) ∧
            (m.authentic = true → last ≤ o.size → ¬ stored → full → ends stLimit) ∧
            (m.authentic = true → last ≤ o.size → ¬ stored → ¬ full → u.objPoison o 0 last ≠ none → ends stPoison) ∧
            (m.authentic = true → last ≤ o.size → ¬ stored → ¬ full → u.objPoison o 0 last = none →
              (is.length < stripesFor m → ends stQuota) ∧
              (is.length = stripesFor m →
                let x : Storing := { q := q, ctx := o.ctx, base := base, manifest := m, stripes := is }
                let t := u.modFlash fun f => { f with storing := f.storing ++ [x], freed := f.freed.filter fun i => !is.contains i }
                exec (.wgtStore q base) s =
                    .next (is.zipIdx.foldl (fun st y => st.writeStripe q m y.2 y.1) t).issueFlash ∧
                  (∀ i ∈ is, i ∈ u.freeStripes) ∧
                  (is.zipIdx.foldl (fun st y => st.writeStripe q m y.2 y.1) t).library = s.library)))) ∧
  (∀ (s : State) (d : Fin 8) (block : BitVec 14) (op : FlashOp) (failed : Bool),
    (s.power = .off ∨ s.power = .frost → exec (.flashOpComplete d block op failed) s = .next s) ∧
    (s.power ≠ .off → s.power ≠ .frost → s.restarting storeIsland = true → exec (.flashOpComplete d block op failed) s =
      .next (s.modFlash fun f => { f with ended := f.ended ++ [⟨d, block, op, failed⟩] })) ∧
    (s.power ≠ .off → s.power ≠ .frost → s.restarting storeIsland = false → exec (.flashOpComplete d block op failed) s =
      .next (s.issueFlash.opEnds d.val block.toNat op failed).flashGoesOn)) ∧
  (∀ (s : State) (d block : Nat) (op : FlashOp) (failed : Bool),
    let job := s.flash.jobs.find? fun j => j.issued && j.die == d && j.block == block && j.op == op
    let u := s.setFlags d block op failed
    (∀ j, job = some j → s.opEnds d block op failed = if failed then u.jobFails j else u.jobDone j) ∧
    (job = none → op = .erase → s.opEnds d block op failed = s) ∧
    (job = none → op = .program → ∀ x w, s.flash.journals[d]? = some x → x.active = block → x.writing = some w →
      s.opEnds d block op failed = if failed then u.journalFails d x else u.journalDone d x w) ∧
    (job = none → op = .program → (∀ x, s.flash.journals[d]? = some x → x.active = block → x.writing = none) →
      (∀ x r, s.flash.logs[d]? = some x → x.block = block → x.writing = some r →
        s.opEnds d block op failed = if failed then u.logFails d block .program else u.logDone d x r) ∧
      ((∀ x, s.flash.logs[d]? = some x → x.block = block → x.writing = none) → s.opEnds d block op failed = s))) ∧
  (∀ (s : State) (j : FlashJob), j.boot = false → j.use ≠ .swap → j.use ≠ .log →
    blockName j.die j.block ∈ (s.jobFails j).flash.retired ∧ (64 ≤ j.block → j.block / 4 ∈ (s.jobFails j).flash.withdrawn)) ∧
  (∀ (s : State) (i : BitVec 12) (pages : List (Nat × Nat)),
    let errors := (pages.map fun x => (stripeKey i.toNat x.1, x.2)).filter fun x => s.page x.1 != .blank
    (s.restarting storeIsland = true ∨ s.stacksRun = false ∨ (∃ x ∈ errors, s.keyBusy x.1 = true) →
      exec (.flashPatrol i pages) s = .next s) ∧
    (s.restarting storeIsland = false → s.stacksRun = true → (∀ x ∈ errors, s.keyBusy x.1 = false) →
      exec (.flashPatrol i pages) s = .next ((s.countPages errors).copyWorn errors))) ∧
  (∀ (s : State) (errors : List (Nat × Nat)), (∀ x ∈ errors, x.2 ≤ 48 ∨ keyBlock x.1 < 64) → s.copyWorn errors = s) ∧
  (∀ (s : State) (i : Nat),
    ((∀ e ∈ s.library, i ∉ e.stripes) ∨ (∃ c ∈ s.flash.copying, c.src = i) ∨ s.stripeOrder = [] → s.startCopy i = s) ∧
    (∀ k rest, (∃ e ∈ s.library, i ∈ e.stripes) → (∀ c ∈ s.flash.copying, c.src ≠ i) → s.stripeOrder = k :: rest →
      s.startCopy i = ((s.modFlash fun f => { f with copying := f.copying ++ [⟨i, k⟩], freed := f.freed.filter (· != k) }).writeCopy
        i k).issueFlash))

/-- Firmware (17 R421, R433, R438, R439). FW.STAGE writes the host's bytes at an offset of the staging area and voids
what was verified; FW.VERIFY looks at the form, the authenticity and compat_min of what is staged, in this order, and
records what it verified; FW.ACTIVATE of a verified image keeps it, sets the digest of the sequencers' section and
restarts the first sequencer; each is refused with ST_IN_USE while an activation is in progress; FW.QUERY answers what
runs, what is staged and what the boot area holds. Completes: fwStage, fwVerify, fwActivate, fwQuery. -/
def Obligations.FirmwareCommands : Prop :=
  (∀ (s : State) (q : Req) (host : BitVec 64) (off : BitVec 22) (n : BitVec 23), Runnable (.fwStage q host off n) q s →
    (s.fw.activation.isSome → n ≠ 0 → exec (.fwStage q host off n) s = .next ((s.start q).finish q stInUse 0 0)) ∧
    (n = 0 → exec (.fwStage q host off n) s = .next ((s.start q).finish q stOkEmpty 0 0)) ∧
    (s.fw.activation = none → n ≠ 0 → s.hostUp q = false →
      exec (.fwStage q host off n) s = .next ((s.start q).finish q stHostDetached 0 0)) ∧
    (s.fw.activation = none → n ≠ 0 → s.hostUp q = true → exec (.fwStage q host off n) s = .next (((s.start q).modFw fun f =>
      { f with staged := Mem.write f.staged off.toNat (s.readHostOf q host n.toNat), staging := 1, verified := none }).finish q stOk 0 0))) ∧
  (∀ (s : State) (q : Req), Runnable (.fwVerify q) q s →
    (s.fw.activation.isSome → exec (.fwVerify q) s = .next ((s.start q).finish q stInUse 0 0)) ∧
    (s.fw.activation = none → exec (.fwVerify q) s = .next (match readFw s.fw.staged with
      | none => (s.start q).finish q stBadField 0 0
      | some x =>
        if x.authentic s.fw.staged s.fw.steps = false then (s.start q).finish q stAuth 0 0
        else if s.fw.running.imgVer.toNat < x.compat.toNat then (s.start q).finish q stBadField 0 0
        else ((s.start q).modFw fun f => { f with staging := 2, verified := some x.info }).finish q stOk
          (packBits [(x.info.imgVer.toNat, 0), (x.info.rbIndex.toNat, 32)]) 0))) ∧
  (∀ (s : State) (q : Req), Runnable (.fwActivate q) q s →
    (s.fw.activation.isSome → exec (.fwActivate q) s = .next ((s.start q).finish q stInUse 0 0)) ∧
    (s.fw.activation = none → s.fw.verified = none → exec (.fwActivate q) s = .next ((s.start q).finish q stBadField 0 0)) ∧
    (∀ image, s.fw.activation = none → s.fw.verified = some image → ∃ t, exec (.fwActivate q) s = .next t ∧
      t.fw = { s.fw with activation := some { q := some q, image := image } }.setDigest s.fw.staged 2 ∧
      t.restarting (sequencerIsland 0) = true)) ∧
  (∀ (s : State) (q : Req), Runnable (.fwQuery q) q s → exec (.fwQuery q) s = .next ((s.start q).finish q stOk
    (packBits [(s.fw.running.imgVer.toNat, 0), (s.fw.steps, 32), (s.fw.running.rbIndex.toNat, 40), (s.fw.staging.toNat, 48),
      (Bits.ofBool s.fw.activation.isSome, 50), (Bits.ofBool s.fw.boot.isSome, 51)]) ((s.fw.boot.map (·.imgVer.toNat)).getD 0)))

/-! ### Sequences, prefixes and programs -/

/-- Sequences (09 R201, R202, R205, R223, R233, R234, R239). SEQ.OPEN answers why not, in this order: no such handle,
no such input object, another shape than the handle's, 65,536 objects, a full directory share, no room for the nodes;
otherwise it takes a directory index that no sequence of the partition has, and the new sequence holds what its handle
gives, or nothing. SEQ.CLOSE waits while a run binds the sequence, then frees the entry, whose generation moves on;
SEQ.QUERY writes the entry's 64 bytes to the host; each is ST_NO_OBJECT for a sequence that is not the context's, or
closing. Completes: seqOpen, seqClose, seqQuery. Keys, values and prefixes (09 R201, R202, R206, R225, R228, R230 to
R236, 10 R253, R254). KV.GLOBAL replaces the global list by ascending positions below c; KV.COMMIT accepts tentative
tokens, KV.ROLLBACK discards them, KV.DROP drops the oldest droppable pages; PFX.REGISTER makes a handle of the pages
below p, which the sequence then shares, and PFX.RELEASE, by the registering or the management context, ends it. Each
but PFX.RELEASE is ST_OK_EMPTY where it asks for nothing, refused where the sequence is no open one of the context,
waits while a run in progress binds it, and otherwise answers why not by the statuses of its table. Completes:
kvGlobal, kvCommit, kvRollback, kvDrop, pfxRegister, pfxRelease. -/
def Obligations.Sequences : Prop :=
  ((∀ (s : State) (q : Req) (a : SeqOpenArgs), Runnable (.seqOpen q a) q s →
     let ends := fun (st : Nat) => exec (.seqOpen q a) s = .next ((s.start q).finish q st 0 0)
     (∀ h, q.ring = .host h → ends stDenied) ∧
     ∀ (c : CtxNo), q.ring = .ctx c →
       (s.ptn? (ptnOf c) = none → ends stNoObject) ∧
       ∀ (x : Partition), s.ptn? (ptnOf c) = some x →
         let h := if a.fromHandle then s.handle? (ptnOf c) a.handle else none
         let given := a.fromHandle = false ∨ h ≠ none
         let named := given ∧ (a.input = 0 ∨ s.obj? c a.input ≠ none)
         let fits := named ∧ ∀ v, h = some v → v.shape = seqShape a
         (¬ given → ends stNoObject) ∧
         (given → a.input ≠ 0 → s.obj? c a.input = none → ends stNoObject) ∧
         (named → ¬ fits → ends stBadField) ∧
         (fits → 65536 ≤ s.objCount c → ends stLimit) ∧
         (fits → s.objCount c < 65536 → x.share ≤ (s.seqsOf (ptnOf c)).length →
           exec (.seqOpen q a) s = .next ((s.start q).takeFree.2.finish q stLimit 0 0)) ∧
         (fits → s.objCount c < 65536 → (s.seqsOf (ptnOf c)).length < x.share →
           ∃ y : Seq, (∀ z ∈ s.seqsOf (ptnOf c), z.index ≠ y.index) ∧ y.ctx = c ∧ y.gen = Table.get 0 s.gens y.index ∧
             y.shape = seqShape a ∧ y.w = a.w ∧ y.input = a.input ∧ y.d = 0 ∧ y.c = (h.map (·.p)).getD 0 ∧
             y.glob = (h.map (·.glob)).getD [] ∧ y.pages = (h.map fun v => v.pages.map sharePage).getD [] ∧
             let t := { (s.start q).takeFree.2 with seqs := s.seqs ++ [y] }
             let u := if y.incomplete then (t.layNodes (ptnOf c)).queueRecompute y.index else t.layNodes (ptnOf c)
             (t.nodesFit (ptnOf c) = false → exec (.seqOpen q a) s = .next ((s.start q).takeFree.2.finish q stQuota 0 0)) ∧
             (t.nodesFit (ptnOf c) = true → exec (.seqOpen q a) s = .next (u.finish q stOk y.no.toNat 0)))) ∧
   (∀ (s : State) (q : Req) (no : BitVec 32) (host : BitVec 64), ∀ i ∈ [.seqClose q no, .seqQuery q no host], Runnable i q s →
     (∀ h, q.ring = .host h → exec i s = .next ((s.start q).finish q stDenied 0 0)) ∧
     (∀ c, q.ring = .ctx c → (∀ x, s.seq? no = some x → x.ctx ≠ c ∨ x.state = .closing) →
       exec i s = .next ((s.start q).finish q stNoObject 0 0))) ∧
   (∀ (s : State) (q : Req) (c : CtxNo) (no : BitVec 32) (x : Seq), q.ring = .ctx c → s.seq? no = some x → x.ctx = c →
     x.state ≠ .closing →
     (Runnable (.seqClose q no) q s → (s.start q).seqBound x = true → exec (.seqClose q no) s = .next s) ∧
     (Runnable (.seqClose q no) q s → (s.start q).seqBound x = false → ∃ t : State,
       exec (.seqClose q no) s = .next ((t.quotaClear (ptnOf c)).finish q stOk 0 0) ∧
       (∀ y ∈ t.seqs, y.index ≠ x.index) ∧ Table.get 0 t.gens x.index = x.gen + 1 ∧
       (∀ y ∈ s.seqs, y.index ≠ x.index → y ∈ t.seqs)) ∧
     (∀ host, Runnable (.seqQuery q no host) q s → exec (.seqQuery q no host) s =
       .next (((s.start q).writeHostOf q host (Bits.toBytes 64 ((s.start q).entryOf x))).finish q stOk 0 0)))) ∧
  ((∀ (s : State) (q : Req) (no : BitVec 32) (base off : BitVec 42),
     ∀ i ∈ [.kvGlobal q no 0 false base off, .kvCommit q no 0, .kvDrop q no 0, .pfxRegister q no 0], Runnable i q s →
       exec i s = .next ((s.start q).finish q stOkEmpty 0 0)) ∧
   (∀ (s : State) (q : Req) (no : BitVec 32) (n : BitVec 7) (clear : Bool) (base off : BitVec 42) (a : BitVec 5) (k : BitVec 24)
       (p : BitVec 23), n ≠ 0 ∨ clear = true → a ≠ 0 → k ≠ 0 → p ≠ 0 →
     ∀ i ∈ [.kvGlobal q no n clear base off, .kvCommit q no a, .kvRollback q no, .kvDrop q no k, .pfxRegister q no p],
       Runnable i q s →
       (∀ h, q.ring = .host h → exec i s = .next ((s.start q).finish q stDenied 0 0)) ∧
       ∀ c, q.ring = .ctx c →
         (∀ st, s.seqRefuses c no = some st → exec i s = .next ((s.start q).finish q st 0 0)) ∧
         (∀ x, s.seqRefuses c no = none → s.seq? no = some x → (s.start q).seqBound x = true → exec i s = .next s)) ∧
   (∀ (s : State) (c : CtxNo) (no : BitVec 32),
     (s.seq? no = none → s.seqRefuses c no = some stNoObject) ∧
     ∀ x, s.seq? no = some x →
       (x.ctx ≠ c ∨ x.state = .closing → s.seqRefuses c no = some stNoObject) ∧
       (x.ctx = c → x.state = .lost → s.seqRefuses c no = some stKvLost) ∧
       (x.ctx = c → x.state = .opened → s.seqRefuses c no = none)) ∧
   (∀ (s : State) (q : Req) (c : CtxNo) (no : BitVec 32) (x : Seq), q.ring = .ctx c → s.seq? no = some x →
     s.seqRefuses c no = none → (s.start q).seqBound x = false →
     let u := s.start q
     (∀ base off, Runnable (.kvGlobal q no 0 true base off) q s → exec (.kvGlobal q no 0 true base off) s =
       .next (((u.modSeq x.index fun y => { y with glob := [] }).putGlob x.index).finish q stOk 0 0)) ∧
     (∀ n clear base off, Runnable (.kvGlobal q no n clear base off) q s → n ≠ 0 →
       let ends := fun (st : Nat) => exec (.kvGlobal q no n clear base off) s = .next (u.finish q st 0 0)
       (s.obj? c base = none → ends stNoObject) ∧
       ∀ o, s.obj? c base = some o → o.ctx = c →
         let l := (List.range n.toNat).map fun i => u.objWord o (off.toNat + 4 * i) 4
         (o.broken ≠ none → ends stPoison) ∧
         (o.broken = none → o.size < off.toNat + 4 * n.toNat → ends stBadField) ∧
         (o.broken = none → off.toNat + 4 * n.toNat ≤ o.size → u.objMigrates c base = true →
           exec (.kvGlobal q no n clear base off) s = .next s) ∧
         (o.broken = none → off.toNat + 4 * n.toNat ≤ o.size → u.objMigrates c base = false →
           (u.objPoison o off.toNat (4 * n.toNat) ≠ none → ends stPoison) ∧
           (u.objPoison o off.toNat (4 * n.toNat) = none → ascendingBelow x.c l = false → ends stBadField) ∧
           (u.objPoison o off.toNat (4 * n.toNat) = none → ascendingBelow x.c l = true →
             exec (.kvGlobal q no n clear base off) s =
               .next (((u.modSeq x.index fun y => { y with glob := l }).putGlob x.index).finish q stOk 0 0)))) ∧
     (∀ a, Runnable (.kvCommit q no a) q s → a ≠ 0 →
       (a.toNat ≤ x.d → exec (.kvCommit q no a) s = .next ((u.commitDrafts x a.toNat).finish q stOk 0 0)) ∧
       (x.d < a.toNat → exec (.kvCommit q no a) s = .next (u.finish q stBadField 0 0))) ∧
     (Runnable (.kvRollback q no) q s →
       (x.d = 0 → exec (.kvRollback q no) s = .next (u.finish q stOkEmpty 0 0)) ∧
       (x.d ≠ 0 → exec (.kvRollback q no) s = .next (((u.rollback x).quotaClear (ptnOf c)).finish q stOk 0 0))) ∧
     (∀ n, Runnable (.kvDrop q no n) q s → n ≠ 0 →
       let hit := ((x.pages.filter fun g => u.droppable x g).take n.toNat).map (·.no)
       exec (.kvDrop q no n) s = .next (((u.dropPages x.index hit).quotaClear (ptnOf c)).finish q stOk hit.length 0)) ∧
     (∀ (p : BitVec 23), Runnable (.pfxRegister q no p) q s → p ≠ 0 →
       let ends := fun (st : Nat) => exec (.pfxRegister q no p) s = .next (u.finish q st 0 0)
       let held := s.handles.filter fun h => !h.released
       let full := 65536 ≤ held.length ∨
         ((s.ptn? (ptnOf c)).map (·.live.pfxLimit)).getD 0 ≤ (held.filter fun h => h.ptn == ptnOf c).length
       (x.d ≠ 0 → ends stSeqState) ∧
       (x.d = 0 → x.c < p.toNat → ends stBadField) ∧
       (x.d = 0 → p.toNat ≤ x.c → full → ends stLimit) ∧
       (x.d = 0 → p.toNat ≤ x.c → ¬ full → s.rng.failing = true → exec (.pfxRegister q no p) s = .next s) ∧
       (x.d = 0 → p.toNat ≤ x.c → ¬ full → s.rng.failing = false → ∃ h : Handle,
         let share := fun (g : Page) => if x.shape.holdsBelow p.toNat g.no then sharePage g else g
         exec (.pfxRegister q no p) s = .next (({ u.takeFree.2.takeDraw.2 with handles := s.handles ++ [h] }.modSeq x.index fun y =>
           { y with pages := y.pages.map share }).finish q stOk h.handle.toNat 0) ∧
         h.ptn = ptnOf c ∧ h.ctx = c ∧ h.p = p.toNat ∧ h.shape = x.shape ∧ h.released = false ∧
         h.pages = (x.pages.filter fun g => x.shape.holdsBelow p.toNat g.no).map sharePage ∧
         h.glob = x.glob.filter (fun t => t < p.toNat) ∧
         (∀ z ∈ s.handles, z.released = false → z.handle.toNat % 65536 ≠ h.handle.toNat % 65536)))) ∧
   (∀ (s : State) (q : Req) (v : BitVec 64), Runnable (.pfxRelease q v) q s →
     (∀ h, q.ring = .host h → exec (.pfxRelease q v) s = .next ((s.start q).finish q stDenied 0 0)) ∧
     ∀ c, q.ring = .ctx c →
       (s.handle? (ptnOf c) v = none → exec (.pfxRelease q v) s = .next ((s.start q).finish q stNoObject 0 0)) ∧
       ∀ h, s.handle? (ptnOf c) v = some h →
         ((h.ctx = c ∧ h.ended = false) ∨ isMgmt c = true → ∃ t : State,
           exec (.pfxRelease q v) s = .next ((t.quotaClear (ptnOf c)).finish q stOk 0 0) ∧
           (∀ z ∈ t.handles, z.handle = v → z.released = true)) ∧
         (h.ctx ≠ c ∨ h.ended = true → isMgmt c = false →
           exec (.pfxRelease q v) s = .next ((s.start q).finish q stNoObject 0 0))))

/-- Programs (05 R134, R135, 07 R158, R161, 10 R241 to R243, R251, R259, 12 R310, 13 R340). SCHED.LOAD of an image
object that keeps every rule of the loader keeps the image once its tiles lie in tier 1; loaded already it is
ST_IN_USE; of another kind, or of an image that does not keep them, ST_BAD_FIELD. SCHED.RUN and SCHED.STEP wait while
their list object migrates, and put their run into the partition's queue in order of acceptance, the step with the
lowest variant that holds its slots and chunks, unless the list is refused or a Guarded partition's slot would not
hold it. SCHED.STEPSET takes a number below 16 that no set of the partition has; SCHED.UNLOAD and SCHED.STEPFREE take
out what no accepted run names. A host ring is denied. Completes: schedLoad, schedRun, schedStep, schedUnload,
schedStepset, schedStepfree. -/
def Obligations.Programs : Prop :=
  (∀ (s : State) (q : Req) (base off : BitVec 42) (n k : BitVec 4) (a : RunArgs), k ≠ 0 → a.nBind ≠ 0 ∨ a.q ≠ 0 →
    ∀ i ∈ [.schedLoad q base, .schedRun q a, .schedStep q a, .schedUnload q base, .schedStepset q base off k, .schedStepfree q n],
      Runnable i q s → ∀ h, q.ring = .host h → exec i s = .next ((s.start q).finish q stDenied 0 0)) ∧
  (∀ (s : State) (q : Req) (c : CtxNo) (base : BitVec 42), Runnable (.schedLoad q base) q s → q.ring = .ctx c →
    let u := s.start q
    let ends := fun (st : Nat) => exec (.schedLoad q base) s = .next (u.finish q st 0 0)
    (s.obj? c base = none → ends stNoObject) ∧
    ∀ o, s.obj? c base = some o → o.ctx = c →
      (o.broken ≠ none → ends stPoison) ∧
      (o.broken = none → s.loaded c base = true → ends stInUse) ∧
      (o.broken = none → s.loaded c base = false → o.desc.kind ≠ kindImage → ends stBadField) ∧
      (o.broken = none → s.loaded c base = false → o.desc.kind = kindImage → u.objPoison o 0 o.size ≠ none → ends stPoison) ∧
      (o.broken = none → s.loaded c base = false → o.desc.kind = kindImage → u.objPoison o 0 o.size = none →
        (readImage c base (u.readObj o 0 o.size) = none ∨ s.ptn? (ptnOf c) = none → ends stBadField) ∧
        ∀ i x, readImage c base (u.readObj o 0 o.size) = some i → s.ptn? (ptnOf c) = some x →
          let ok := imageOk i s.stores x (x.group.any fun g => g.lockstep)
          let away := ∃ t ∈ o.tiles, t.place.tier = 0
          let v := u.cancelMigrations c base fun m => m.dest.tier == 0
          let r := v.pinImage c base (List.range o.tiles.length)
          (ok = false → ends stBadField) ∧
          (ok = true → u.bound o = true → away → exec (.schedLoad q base) s = .next s) ∧
          (ok = true → u.bound o = false ∨ ¬ away → v.objMigrates c base = true →
            exec (.schedLoad q base) s = .next (v.resume q)) ∧
          (ok = true → u.bound o = false ∨ ¬ away → v.objMigrates c base = false →
            (r.2 = false → exec (.schedLoad q base) s = .next (r.1.finish q stQuota 0 0)) ∧
            (r.2 = true → r.1.objMigrates c base = true → exec (.schedLoad q base) s = .next (r.1.resume q)) ∧
            (r.2 = true → r.1.objMigrates c base = false →
              exec (.schedLoad q base) s = .next ({ r.1 with images := r.1.images ++ [i] }.finish q stOk 0 0))))) ∧
  (∀ (s : State) (q : Req) (c : CtxNo) (a : RunArgs), Runnable (.schedRun q a) q s → q.ring = .ctx c →
    let u := s.start q
    let ends := fun (st : Nat) => exec (.schedRun q a) s = .next (u.finish q st 0 0)
    let list := u.readList c a (List.range a.nBind.toNat)
    (s.image? c a.image = none ∨ s.ptn? (ptnOf c) = none → ends stNoObject) ∧
    ∀ img x, s.image? c a.image = some img → s.ptn? (ptnOf c) = some x →
      (u.objMigrates c a.list = true → exec (.schedRun q a) s = .next s) ∧
      (u.objMigrates c a.list = false → ∀ st, list = .error st → ends st) ∧
      (u.objMigrates c a.list = false → ∀ objs slots, list = .ok (objs, slots) →
        (u.tooLong x c false img.nBeats = true → ends stLimit) ∧
        (u.tooLong x c false img.nBeats = false → exec (.schedRun q a) s = .next (u.enqueue (ptnOf c)
          { q := q, ctx := c, isStep := false, image := a.image, args := a, objs := objs, slots := slots })))) ∧
  (∀ (s : State) (q : Req) (a : RunArgs), Runnable (.schedStep q a) q s → a.nBind = 0 → a.q = 0 →
    exec (.schedStep q a) s = .next ((s.start q).finish q stOkEmpty 0 0)) ∧
  (∀ (s : State) (q : Req) (c : CtxNo) (a : RunArgs), Runnable (.schedStep q a) q s → q.ring = .ctx c → a.nBind ≠ 0 ∨ a.q ≠ 0 →
    let u := s.start q
    let g := a.nBind.toNat
    let k := a.q.toNat
    let ends := fun (st : Nat) => exec (.schedStep q a) s = .next (u.finish q st 0 0)
    let list := u.readList c a (List.range g ++ (List.range k).map fun i => 255 - i)
    ((∀ x, s.ptn? (ptnOf c) = some x → x.stepSet? c a.image.toNat = none) → ends stNoObject) ∧
    ∀ x set, s.ptn? (ptnOf c) = some x → x.stepSet? c a.image.toNat = some set →
      (256 < g + k → ends stLimit) ∧
      (g + k ≤ 256 → u.objMigrates c a.list = true → exec (.schedStep q a) s = .next s) ∧
      (g + k ≤ 256 → u.objMigrates c a.list = false → ∀ st, list = .error st → ends st) ∧
      (g + k ≤ 256 → u.objMigrates c a.list = false → ∀ objs slots, list = .ok (objs, slots) →
        let shaped := ((slots.take g).all Slot.decodes && (slots.drop g).all Slot.chunks && distinctSeqs slots) = true
        let takes := a.verify = true → ∃ o, s.obj? c a.result = some o ∧ 128 * (g + 1) ≤ o.size ∧ o.desc.kind ≠ kindWeights
        let var := selectVariant set.variants g k ((slots.drop g).map Slot.rows)
        (¬ shaped → ends stBadField) ∧
        (shaped → a.verify = true → s.obj? c a.result = none → ends stNoObject) ∧
        (shaped → ∀ o, a.verify = true → s.obj? c a.result = some o → ¬ takes → ends stBadField) ∧
        (shaped → takes → var = none → ends stLimit) ∧
        (shaped → takes → ∀ i v, var = some (i, v) →
          let long := u.tooLong x c true (((s.image? c v.image).map Image.nBeats).getD 0)
          (long = true → ends stLimit) ∧
          (long = false → exec (.schedStep q a) s = .next (u.enqueue (ptnOf c)
            { q := q, ctx := c, isStep := true, image := v.image, variant := i, args := a, objs := objs, slots := slots }))))) ∧
  (∀ (s : State) (q : Req) (c : CtxNo) (base : BitVec 42), Runnable (.schedUnload q base) q s → q.ring = .ctx c →
    let ends := fun (st : Nat) => exec (.schedUnload q base) s = .next ((s.start q).finish q st 0 0)
    let named := ∃ x, s.ptn? (ptnOf c) = some x ∧ ∃ t ∈ x.stepSets, t.ctx = c ∧ ∃ v ∈ t.variants, v.image = base
    let used := ∃ a ∈ (s.start q).accepted, ∃ r b, a.cmd = .schedRun r b ∧ b.image = base ∧ r.ring = q.ring
    (s.loaded c base = false → ends stNoObject) ∧
    (s.loaded c base = true → named → ends stBadField) ∧
    (s.loaded c base = true → ¬ named → used → ends stInUse) ∧
    (s.loaded c base = true → ¬ named → ¬ used → exec (.schedUnload q base) s =
      .next ({ s.start q with images := s.images.filter fun i => !(i.ctx == c && i.base == base) }.finish q stOk 0 0))) ∧
  (∀ (s : State) (q : Req) (base off : BitVec 42) (n : BitVec 4), Runnable (.schedStepset q base off n) q s → n = 0 →
    exec (.schedStepset q base off n) s = .next ((s.start q).finish q stOkEmpty 0 0)) ∧
  (∀ (s : State) (q : Req) (c : CtxNo) (base off : BitVec 42) (n : BitVec 4), Runnable (.schedStepset q base off n) q s →
    q.ring = .ctx c → n ≠ 0 →
    let u := s.start q
    let ends := fun (st : Nat) => exec (.schedStepset q base off n) s = .next (u.finish q st 0 0)
    (s.obj? c base = none → ends stNoObject) ∧
    ∀ o, s.obj? c base = some o → o.ctx = c →
      (o.broken ≠ none → ends stPoison) ∧
      (o.broken = none → o.size < off.toNat + 16 * n.toNat → ends stBadField) ∧
      (o.broken = none → off.toNat + 16 * n.toNat ≤ o.size → u.objMigrates c base = true →
        exec (.schedStepset q base off n) s = .next s) ∧
      (o.broken = none → off.toNat + 16 * n.toNat ≤ o.size → u.objMigrates c base = false →
        u.objPoison o off.toNat (16 * n.toNat) ≠ none → ends stPoison) ∧
      (o.broken = none → off.toNat + 16 * n.toNat ≤ o.size → u.objMigrates c base = false →
        u.objPoison o off.toNat (16 * n.toNat) = none →
        (u.readVariants o off.toNat n.toNat = none ∨ s.ptn? (ptnOf c) = none → ends stBadField) ∧
        ∀ vs x, u.readVariants o off.toNat n.toNat = some vs → s.ptn? (ptnOf c) = some x →
          let imgs := vs.filterMap fun v => s.image? c v.image
          let agree := imgs.length = vs.length ∧ ∃ img rest, imgs = img :: rest ∧ ∀ j ∈ rest, img.kin j = true
          let fits := x.live.guarded = false ∨
            slotFits (imgs.foldl (fun m i => max m i.nBeats) 0) x.live.beatLen x.live.fG x.live.periodUs = true
          (¬ agree → ends stBadField) ∧
          (agree → ¬ fits → ends stLimit) ∧
          (agree → fits → (∀ no < 16, ∃ z ∈ x.stepSets, z.no = no) →
            exec (.schedStepset q base off n) s = .next (u.takeFree.2.finish q stLimit 0 0)) ∧
          (agree → fits → (∃ no < 16, ∀ z ∈ x.stepSets, z.no ≠ no) → ∃ no < 16, (∀ z ∈ x.stepSets, z.no ≠ no) ∧
            exec (.schedStepset q base off n) s = .next ((u.takeFree.2.modPtn (ptnOf c) fun y =>
              { y with stepSets := y.stepSets ++ [⟨no, c, vs⟩] }).finish q stOk no 0)))) ∧
  (∀ (s : State) (q : Req) (c : CtxNo) (n : BitVec 4), Runnable (.schedStepfree q n) q s → q.ring = .ctx c →
    let ends := fun (st : Nat) => exec (.schedStepfree q n) s = .next ((s.start q).finish q st 0 0)
    let used := ∃ a ∈ (s.start q).accepted, ∃ r b, a.cmd = .schedStep r b ∧ b.image.toNat = n.toNat ∧ r.ring = q.ring
    ((∀ x, s.ptn? (ptnOf c) = some x → x.stepSet? c n.toNat = none) → ends stNoObject) ∧
    ∀ x, s.ptn? (ptnOf c) = some x → x.stepSet? c n.toNat ≠ none →
      (used → ends stInUse) ∧
      (¬ used → exec (.schedStepfree q n) s = .next (((s.start q).modPtn (ptnOf c) fun y =>
        { y with stepSets := y.stepSets.filter fun t => !(t.ctx == c && t.no == n.toNat) }).finish q stOk 0 0)))

/-! ### Beats and runs -/

/-- The beat ring (05 R119 to R128, 10 R258 to R264, 13 R341 to R343). A member that has done its work of the open
beat passes the token on once, with its tile's buffered writes in place, and one that has not does not; a beat closes
only when every member has and its cycles have passed, what applies at the boundary applies once, and the next beat
opens unless the partition is held; a member of a lockstep group reports done or held instead, and its boundary is the
release. A slip is noted once, when the period has passed with a member late and no member of the group held, and at
its ceiling the run is abandoned, in a group with an abort to every other member; a slot that falls due as a beat
opens goes to the oldest reserved step that has none, and none queued is a breach, as is a slot in a reset. Completes:
memberCollect, beatRelease, slip, slipAbandon, slotDue. -/
def Obligations.BeatRing : Prop :=
  (∀ (s : State) (c : Fin 8) (m : Fin 15),
    ((∀ p x, s.ptnOfCluster c.val = some p → s.ptn? p = some x → s.ringRuns p = false ∨ x.beat.closed = true ∨
        (c.val, m.val) ∈ x.beat.collected ∨ s.memberDone p x c.val m.val = false) →
      exec (.memberCollect c m) s = .next s) ∧
    (∀ p x, s.ptnOfCluster c.val = some p → s.ptn? p = some x → s.ringRuns p = true → x.beat.closed = false →
        (c.val, m.val) ∉ x.beat.collected → s.memberDone p x c.val m.val = true →
      exec (.memberCollect c m) s = .next ((s.flushTile c.val m.val).modPtn p fun y =>
        { y with beat := { y.beat with collected := y.beat.collected ++ [(c.val, m.val)] } }))) ∧
  (∀ (s : State) (p : Fin 8) (ns : BitVec 32),
    let sent := ∃ g, s.lockstep p.val = some g ∧ g.doneSent = true
    let due := fun (x : Partition) => x.collectedAll = true ∧ s.beatCycles x * 160 < (ns.toNat + 1) * x.fMin
    ((∀ x, s.ptn? p.val = some x → s.ringRuns p.val = false ∨ sent ∨ (x.beat.closed = false ∧ ¬ due x)) →
      exec (.beatRelease p ns) s = .next s) ∧
    (∀ x, s.ptn? p.val = some x → s.ringRuns p.val = true → ¬ sent → x.beat.closed = true ∨ due x →
      let u := if x.beat.closed then s else s.closeBeat p.val ns.toNat
      let t := (if (u.lockstep p.val).isSome then u else u.applyBoundary p.val).planBoundary p.val
      let held := ((t.ptn? p.val).map (·.held)).getD false
      (t.lockstep p.val = none → exec (.beatRelease p ns) s = .next (if held then t.markHeld p.val else t.openBeat p.val false)) ∧
      (∀ g, t.lockstep p.val = some g →
        exec (.beatRelease p ns) s = .next (if held then (t.markHeld p.val).reportHeld p.val g else t.reportDone p.val g)))) ∧
  (∀ (s : State) (p : Nat) (x : Partition), s.ptn? p = some x →
    (x.beat.closed = false ∨ x.beat.applied = true → s.applyBoundary p = s) ∧
    (∀ idle, ∃ y, (s.openBeat p idle).ptn? p = some y ∧ y.beat.closed = false ∧ y.beat.applied = false ∧ y.beat.since = s.now ∧
      y.beat.collected = [] ∧ y.beat.slip = none)) ∧
  (∀ (s : State) (p : Fin 8),
    let late := fun (x : Partition) => x.members.find? fun m => !x.beat.collected.contains m
    ((∀ x r cm, s.ptn? p.val = some x → x.openRun = some r → late x = some cm → x.beat.closed = true ∨ x.beat.slip ≠ none ∨
        s.groupWaits p.val = true ∨ s.elapsed x 1 = false ∨ s.ringRuns p.val = false) → exec (.slip p) s = .next s) ∧
    (∀ x r c m, s.ptn? p.val = some x → x.openRun = some r → late x = some (c, m) → x.beat.closed = false → x.beat.slip = none →
        s.groupWaits p.val = false → s.elapsed x 1 = true → s.ringRuns p.val = true →
      exec (.slip p) s = .next ((s.modRun p.val fun z => { z with slipped := true, faulted := true }).modPtn p.val fun y =>
        { y with beat := { y.beat with slip := some s.now, late := (m + 16 * (c - x.low), s.recordOf p.val x r c m) } }))) ∧
  (∀ (s : State) (p : Fin 8),
    let late := fun (x : Partition) => x.beat.slip ≠ none ∧ x.beat.closed = false ∧ x.collectedAll = false ∧ s.groupWaits p.val = false
    let waits := ∃ g, s.lockstep p.val = some g ∧ g.doneSent = true ∧ g.helds = []
    let mine := fun (x : Partition) (r : Run) => (waits → x.run = some r ∧ r.released = true ∧ r.stopped = false) ∧
      (¬ waits → x.openRun = some r)
    ((∀ x r, s.ptn? p.val = some x → mine x r → (¬ late x ∧ ¬ waits) ∨ s.elapsed x x.live.slipCeiling = false ∨
        s.ringRuns p.val = false) → exec (.slipAbandon p) s = .next s) ∧
    (∀ x r, s.ptn? p.val = some x → mine x r → late x ∨ waits → s.elapsed x x.live.slipCeiling = true → s.ringRuns p.val = true →
      (s.lockstep p.val = none → exec (.slipAbandon p) s = .next (s.abandon p.val x r none)) ∧
      (∀ g, s.lockstep p.val = some g →
        let t := (g.others.foldl (fun st m => st.sendControl p.val m.1 m.2 .abort) s).clearDones p.val
        (late x → exec (.slipAbandon p) s = .next (t.abandon p.val x r none)) ∧
        (¬ late x → exec (.slipAbandon p) s = .next (t.abandon p.val x r (some g.index)))))) ∧
  (∀ (s : State) (p : Fin 8),
    (s.ptn? p.val = none → exec (.slotDue p) s = .next s) ∧
    ∀ x, s.ptn? p.val = some x →
      let now_ := x.beat.closed = false ∧ x.beat.since = s.now
      let mine := x.queue.filter fun r => x.reserves r.ctx r.isStep
      let next := fun (y : Partition) => { y with slotNo := y.slotNo + 1, slots := y.slots + 1 }
      (x.live.guarded = false ∨ x.status = .outOfService ∨ s.now < x.slotTime x.slotNo ∨ (x.status = .running ∧ ¬ now_) →
        exec (.slotDue p) s = .next s) ∧
      (x.live.guarded = true → x.slotTime x.slotNo ≤ s.now → x.status = .resetting →
        exec (.slotDue p) s = .next ((s.modPtn p.val next).breach p.val 5 0)) ∧
      (x.live.guarded = true → x.slotTime x.slotNo ≤ s.now → x.status = .running → now_ →
        (mine = [] → exec (.slotDue p) s = .next ((s.modPtn p.val next).breach p.val 6 0)) ∧
        (mine ≠ [] → (∀ r ∈ mine, r.reserved ≠ none) → exec (.slotDue p) s = .next (s.modPtn p.val next)) ∧
        (∀ r, (mine.find? fun y => y.reserved.isNone) = some r →
          let give := fun (y : Run) => if y.q = r.q then { y with reserved := some (x.slotNo, s.now) } else y
          exec (.slotDue p) s = .next (s.modPtn p.val fun y =>
            { y with slotNo := y.slotNo + 1, slots := y.slots + 1, queue := y.queue.map give }))))

/-- The runs of a partition (05 R135, 10 R246, R251, R259, R260, 12 R307, 13 R340, 15 R388, 16 R411). With none in
progress, the oldest run is admitted, and is refused with what admission answers; one whose image has no beats is held
for the next boundary, where it is ST_OK_EMPTY; one with peer endpoints and no group is ST_PEER_LOST. While another is
in progress, the ring does not run, the lead sequencer or the keeper restarts, no run may start, or its context resets
or its sequences have to be settled, nothing happens. A ramp that is done lets an admitted run that has no beat yet
begin. A run completes after its last beat, verified, and the partition then has none, with the queue as it was.
Completes: runDispatch, drizzleRampDone, runComplete. -/
def Obligations.RunLife : Prop :=
  (∀ (s : State) (p : Fin 8), exec (.drizzleRampDone p) s =
    .next (s.modRun p.val fun r => if r.admitted && !r.released then { r with drizzle := true } else r)) ∧
  (∀ (s : State) (p : Fin 8),
    let ready := fun (x : Partition) => x.run = none ∧ s.ringRuns p.val = true ∧ s.leadWorks p.val = true ∧
      s.restarting (keeperIsland p.val) = false
    let starts := fun (x : Partition) (r : Run) => s.nextRun x = some r ∧ x.settles r = false ∧ (s.ctx? r.ctx).bind (·.reset) = none
    ((∀ x r, s.ptn? p.val = some x → ¬ (ready x ∧ starts x r)) → exec (.runDispatch p) s = .next s) ∧
    ∀ x r, s.ptn? p.val = some x → ready x → starts x r →
      let peers := ((s.image? r.ctx r.image).map Image.usesPeers).getD false
      (s.beatsOf r = 0 → exec (.runDispatch p) s =
        .next ((s.unqueue p.val r).modPtn p.val fun y => { y with run := some { r with ended := true } })) ∧
      (s.beatsOf r ≠ 0 → peers = true → s.group? p.val = none →
        exec (.runDispatch p) s = .next ((s.unqueue p.val r).finish r.q stPeerLost 0 0)) ∧
      (s.beatsOf r ≠ 0 → peers = false ∨ s.group? p.val ≠ none →
        let u := (r.slots.foldl (fun st sl => match st.seq? sl.seq with
          | some y => st.loseIfGone y.index
          | none => st) (s.unqueue p.val r)).modPtn p.val fun y => { y with run := some r }
        exec (.runDispatch p) s = .next (match u.admitRun p.val r with
          | (t, .ok n) => t.modPtn p.val fun y => { y with run := some n }
          | (t, .error st) => (t.modPtn p.val fun y => { y with run := none }).finish r.q st 0 0))) ∧
  (∀ (s : State) (p : Fin 8),
    ((∀ r, s.run? p.val = some r → r.ended = false ∨ r.admitted = false ∨ r.stopped = true ∨ s.leadWorks p.val = false) →
      exec (.runComplete p) s = .next s) ∧
    ∀ x r, s.ptn? p.val = some x → x.run = some r → r.ended = true → r.admitted = true → r.stopped = false →
        s.leadWorks p.val = true →
      let u := (((s.stampRun p.val r).takeWatches r fun a => !a.tileTarget).verifyRun r).modPtn p.val fun y => { y with run := none }
      let t := (((u.reportRecomputed r).quotaClear p.val).dropHeld p.val).checkReserved p.val r
      exec (.runComplete p) s =
        .next (t.finish r.q stOk (if r.isStep then packBits [(r.variant, 0), (r.added, 8)] else s.beatsOf r) 0) ∧
      (t.ptn? p.val).bind (·.run) = none ∧ (t.ptn? p.val).map (·.queue) = some x.queue) ∧
  (∀ (s : State) (p : Nat),
    ((∀ r, s.run? p = some r → r.admitted = true ∨ r.stopped = true ∨ s.beatsOf r ≠ 0) → s.endEmptyRun p = s) ∧
    (∀ r, s.run? p = some r → r.admitted = false → r.stopped = false → s.beatsOf r = 0 →
      s.endEmptyRun p = (s.modPtn p fun y => { y with run := none }).finish r.q stOkEmpty 0 0))

/-! ### Tiles -/

/-- A tile runs its next record of the open beat and only that (03 R78, Table TIL.2, 04 R96): with no record, or one
of another operation, a row changes nothing; a record that does nothing only moves the tile on. What a record does is
kept to the stores, the counters of contexts and clusters and the free values, unless a region that it reads is
malformed. What each operation of the tiles does with its next record (03 Table TIL.2, 06 R148, 08 R192): the
multiplies write their product, the loads queue a register or table for the boundary, MOVE, FILL, ROWSUM, the
attention operations and the selector write their results, FILLER writes nothing, a poisoned line faults a RESCORE in
its place, and a result that waits is coded once, with nothing done where none waits. Completes: mm, mmb, mms,
ptbuild, scload, cbload, move, fill, lsbuild, lselect, smerge, rowsum, lscan, attd, filler, rescore, resultCoding. -/
def Obligations.TileWork : Prop :=
  ((∀ op ∈ ([(0x01, .mm), (0x02, .mmb), (0x03, .ptbuild), (0x04, .scload), (0x05, .cbload), (0x06, .move), (0x07, .fill),
       (0x08, .filler), (0x11, .mms), (0x12, .attd), (0x13, .lsbuild), (0x14, .lscan), (0x15, .lselect), (0x16, .rescore),
       (0x17, .smerge), (0x18, .rowsum)] : List (Nat × (Fin 8 → Fin 14 → Instr))),
     ∀ (s : State) (c : Fin 8) (t : Fin 14),
       (s.nextWork c.val t.val = none → exec (op.2 c t) s = .next s) ∧
       (∀ p w, s.nextWork c.val t.val = some (p, w) → Op.code w.r ≠ op.1 → exec (op.2 c t) s = .next s) ∧
       (∀ p w, s.nextWork c.val t.val = some (p, w) → Op.code w.r = op.1 → w.noOp = true →
         exec (op.2 c t) s = .next (s.pastRecord p w))) ∧
   (∀ (s : State) (p : Nat) (w : Work) (a : Acted) (macs : List (Nat × Nat)), a.bad = none →
     ∃ cs gs f, s.account p w a macs = { s with stores := a.stores, ctxs := cs, groups := gs, free := f })) ∧
  ((∀ (s : State) (c : Fin 8) (t : Fin 14) (p : Nat) (w : Work), s.nextWork c.val t.val = some (p, w) → w.noOp = false →
     let u := s.pastRecord p w
     let a : Acted := { stores := s.stores }
     let done := fun (b : Acted) => u.account p w b []
     (Op.code w.r = 0x01 → exec (.mm c t) s = .next (u.account p w (w.product a).1 (w.product a).2)) ∧
     (Op.code w.r = 0x02 → exec (.mmb c t) s = .next (u.account p w (w.product a).1 (w.product a).2)) ∧
     (Op.code w.r = 0x11 → exec (.mms c t) s = .next (u.account p w (w.product a).1 (w.product a).2)) ∧
     (Op.code w.r = 0x03 → exec (.ptbuild c t) s = .next (done (w.buildProducts a))) ∧
     (Op.code w.r = 0x04 → exec (.scload c t) s = .next (done (w.loadScales a))) ∧
     (Op.code w.r = 0x05 → exec (.cbload c t) s = .next (done (w.loadBook a))) ∧
     (Op.code w.r = 0x06 → exec (.move c t) s = .next (done (w.moveBytes a))) ∧
     (Op.code w.r = 0x07 → exec (.fill c t) s = .next (done (w.fillWords a))) ∧
     (Op.code w.r = 0x13 → exec (.lsbuild c t) s = .next (done (w.buildScores a))) ∧
     (Op.code w.r = 0x15 → exec (.lselect c t) s = .next (done (w.select a))) ∧
     (Op.code w.r = 0x17 → exec (.smerge c t) s = .next (done (w.mergeStates a))) ∧
     (Op.code w.r = 0x18 → exec (.rowsum c t) s = .next (done (w.columnSums a))) ∧
     (Op.code w.r = 0x14 → exec (.lscan c t) s =
       .next (u.account p w (w.scan a ((u.boundSeq w).map (·.shape))) [(6, Op.extK w.r)])) ∧
     (Op.code w.r = 0x12 → let r := w.attend a ((u.boundSeq w).map (·.shape)) w.link
       exec (.attd c t) s = .next (u.account p w r.1 (w.attentionMacs (Op.extK w.r) (Op.headDim w.r) ++ [(7, r.2)]))) ∧
     (Op.code w.r = 0x08 → let n := fillerMacs t.val (Op.extM w.r)
       exec (.filler c t) s = .next ((u.account p w a [(16, n)]).modGroupCounters c.val fun g =>
         { g with filler := g.filler + BitVec.ofNat 64 n })) ∧
     (∀ x, Op.code w.r = 0x16 → s.boundSeq w = some x → s.rescorePoison w = none →
       let r := w.rescore u a x w.link
       exec (.rescore c t) s = .next (u.account p w r.1 (w.attentionMacs (Op.extK w.r) x.shape.dim ++
         [(7, r.2), (20, (w.slotList s.stores).length * (x.shape.e 0 + x.shape.e 1))]))) ∧
     (Op.code w.r = 0x16 → s.boundSeq w = none → exec (.rescore c t) s =
       .next (done (w.putStates a 128 ((List.range (Op.extM w.r)).map fun i => w.startSoft s.stores 128 i) w.link))) ∧
     (∀ line, Op.code w.r = 0x16 → s.rescorePoison w = some line →
       exec (.rescore c t) s = .next (u.raiseFault (w.poisonFault p line)))) ∧
   (∀ (s : State) (c : Fin 8) (t : Fin 14),
     ((∀ p x r, s.ptnOfCluster c.val = some p → s.ptn? p = some x → x.openRun = some r → s.ringRuns p = false ∨
         s.image? r.ctx r.image = none ∨ s.toCode r (c.val - x.low) t.val = []) → exec (.resultCoding c t) s = .next s) ∧
     ∀ p x r img e i rest, s.ptnOfCluster c.val = some p → s.ptn? p = some x → x.openRun = some r → s.ringRuns p = true →
       s.image? r.ctx r.image = some img → s.toCode r (c.val - x.low) t.val = (e, i) :: rest →
       let done := s.modRun p fun z => { z with coded := z.coded ++ [i] }
       ((img.opsOf (c.val - x.low) t.val)[Budget.op e]? = none → exec (.resultCoding c t) s = .next done) ∧
       ∀ o, (img.opsOf (c.val - x.low) t.val)[Budget.op e]? = some o →
         let w : Work := { c := c.val, k := c.val - x.low, t := t.val, ctx := r.ctx, beat := r.beat, slots := r.slots, img := img,
                           no := Budget.op e, r := o }
         (w.noOp = true → exec (.resultCoding c t) s = .next done) ∧
         (w.noOp = false → ∃ cs gs, exec (.resultCoding c t) s = .next { done with
           stores := s.stores.write (some r.ctx) c.val t.val (Budget.dstSpace e) (Budget.dstBase e * 4)
             (codeRegion (Budget.width e) (Budget.b e) false (w.readBytes s.stores w.output.1 w.output.2.1 w.output.2.2)).1,
           ctxs := cs, groups := gs })))

/-- Stores and sums (02 R53, R54, 03 Table TIL.2, 14 R355). A byte written to a tile store reads back, and no other
byte of any store changes, whether or not its line was cleared; a FILL's region holds its pattern in every word, which
a correction vector shows from the next beat on; and an INT32 accumulation whose partial sums all stay within 32 bits
is the exact sum, with no saturation. -/
def Obligations.StoresAndSums : Prop :=
  (∀ (st : Stores) (tag : Option CtxNo) (c t sp b : Nat) (v : Byte),
    Mem.wf st.bytes = true → c < 8 → t < 14 → b < storeBytes t sp →
    (st.writeByte tag c t sp b v).readByte c t sp b = v ∧
    (∀ c' t' sp' b', c' < 8 → t' < 14 → b' < storeBytes t' sp' → (c', t', sp', b') ≠ (c, t, sp, b) →
      (st.writeByte tag c t sp b v).readByte c' t' sp' b' = st.readByte c' t' sp' b')) ∧
  (∀ (w : Work) (a : Acted), Mem.wf a.stores.bytes = true → w.c < 8 → w.t < 14 →
    Op.cBase w.r * 4 + 4 * Op.extM w.r ≤ storeBytes w.t (Op.cSpace w.r) →
    (∀ v ∈ w.img.corrections w.k w.t, Op.cSpace w.r = 3 → Op.cBase w.r * 4 + 4 * Op.extM w.r ≤ v.1 ∨ v.2 ≤ Op.cBase w.r * 4) →
    ∀ i, i < Op.extM w.r → (w.fillWords a).stores.read w.c w.t (Op.cSpace w.r) (Op.cBase w.r * 4 + 4 * i) 4 =
      Bits.toBytes 4 (Op.aStride w.r)) ∧
  (∀ (w : Work) (a : Acted) (v : Nat × Nat) (j : Nat), Op.cSpace w.r = 3 → v ∈ w.img.corrections w.k w.t → j < 4 * Op.extM w.r →
    v.1 ≤ Op.cBase w.r * 4 + j → Op.cBase w.r * 4 + j < v.2 →
    ∃ l ∈ (w.fillWords a).stores.loads, l.store = 4 ∧ l.key = tileNo w.c w.t ∧ l.first = Op.cBase w.r * 4 + j ∧
      l.bytes = [(Bits.toBytes 4 (Op.aStride w.r)).getD (j % 4) 0]) ∧
  (∀ (p : Nat → Int) (n : Nat), (∀ m, m ≤ n → -2 ^ 31 < ((List.range m).map p).sum ∧ ((List.range m).map p).sum < 2 ^ 31 - 1) →
    sumInt p n 0 = (((List.range n).map p).sum, 0))

/-! ### The narrow port and the headbox -/

/-- The narrow port (05 R119, 14 R355): a store of 1, 2 or 4 bytes within a store of the tile is held with its line
and reads back at once, while the banks keep what they hold unless the oldest of the store's 16 entries makes room; a
load that the line's entry covers is served from it, another reads the banks, with the line's entry written back
first; a write-back lays an entry over its line and lets it go; an access outside the store, not aligned, or of no
such size does nothing: the model's choice (log entry 139). Completes: narrowStore, narrowLoad, coalesceWriteback. -/
def Obligations.NarrowPort : Prop :=
  (∀ (s : State) (c : Fin 8) (t : Fin 14) (sp : BitVec 4) (b : BitVec 24) (size : BitVec 2) (v : BitVec 32) (tag : Option CtxNo),
    narrowOk t.val sp.toNat b.toNat (accessBytes size) = true → size ≠ 3 →
    ∃ u, exec (.narrowStore c t sp b size v tag) s = .next u ∧
      ((s.stores.coalesced.filter fun x => x.cluster == c.val && x.tile == t.val && x.space == sp.toNat).length < 16 →
        u.stores.bytes = s.stores.bytes ∧ u.stores.tags = s.stores.tags) ∧
      u = { s with stores := u.stores } ∧
      ∃ r, exec (.narrowLoad c t sp b size) u = .next r ∧
        r.lastRead = BitVec.ofNat 64 (v.toNat % 2 ^ (8 * accessBytes size)) ∧ r.stores = u.stores) ∧
  (∀ (s : State) (c : Fin 8) (t : Fin 14) (sp : BitVec 4) (b : BitVec 24) (size : BitVec 2),
    narrowOk t.val sp.toNat b.toNat (accessBytes size) = true → size ≠ 3 →
    let n := accessBytes size
    let off := b.toNat % lineBytes t.val sp.toNat
    let entry := s.stores.coalesced.find? fun x => x.at_ c.val t.val sp.toNat (b.toNat / lineBytes t.val sp.toNat)
    let bank := fun (u : State) => BitVec.ofNat 64 (Bits.ofBytes (u.stores.read c.val t.val sp.toNat b.toNat n))
    (entry = none → exec (.narrowLoad c t sp b size) s = .next { s with lastRead := bank s }) ∧
    ∀ x, entry = some x →
      let covers := ∀ i < n, ∃ y ∈ x.bytes, y.1 = off + i
      (covers → exec (.narrowLoad c t sp b size) s = .next { s with
        lastRead := BitVec.ofNat 64 (Bits.ofBytes ((List.range n).map fun i => Table.get 0 x.bytes (off + i))) }) ∧
      (¬ covers → exec (.narrowLoad c t sp b size) s = .next { s.writeBack x with lastRead := bank (s.writeBack x) })) ∧
  (∀ (s : State) (c : Fin 8) (t : Fin 14) (sp : BitVec 4) (b : BitVec 24) (size : BitVec 2) (v : BitVec 32) (tag : Option CtxNo),
    narrowOk t.val sp.toNat b.toNat (accessBytes size) = false ∨ size = 3 →
    exec (.narrowStore c t sp b size v tag) s = .next s ∧ exec (.narrowLoad c t sp b size) s = .next s) ∧
  (∀ (s : State) (c : Fin 8) (t : Fin 14) (sp : BitVec 4) (line : BitVec 16),
    ((s.stores.coalesced.find? fun x => x.at_ c.val t.val sp.toNat line.toNat) = none → exec (.coalesceWriteback c t sp line) s = .next s) ∧
    (∀ x, (s.stores.coalesced.find? fun x => x.at_ c.val t.val sp.toNat line.toNat) = some x →
      exec (.coalesceWriteback c t sp line) s = .next (s.writeBack x) ∧
      (∀ y ∈ (s.writeBack x).stores.coalesced, y.at_ c.val t.val sp.toNat line.toNat = false) ∧
      (∀ y ∈ s.stores.coalesced, y.at_ c.val t.val sp.toNat line.toNat = false → y ∈ (s.writeBack x).stores.coalesced) ∧
      s.writeBack x = { s with stores := (s.writeBack x).stores }))

/-- The headbox (01 R16, 05 R132, 06 R147, R149, 08 R191, R192, 09 R217, 10 R248, R264, 13 R340, 16 R403, R407, R409):
a cluster issues its next move record once, and only as the row of its kind; a record of no bytes retires at once, one
that is forbidden or meets a poisoned node or header faults the run and moves nothing, and another is queued, a couch
run with the rows that it read. A transaction goes out while fewer than 8,192 are outstanding; when it retires its
bytes are delivered, unless its reads met a poisoned line, which faults the context; neither happens while the
cluster's island is gated, and what returns for a run or partition that a reset has stopped is discarded. Completes:
headboxMove, compressingMove, codedCopy, pageRunMove, couchRun, peerMove, hbTxnIssue, hbTxnRetire. -/
def Obligations.HeadboxMoves : Prop :=
  (∀ (s : State) (c : Fin 8),
    exec (.headboxMove c) s = .next (s.issueMove .plain c.val) ∧
    exec (.compressingMove c) s = .next (s.issueMove .compressing c.val) ∧
    exec (.codedCopy c) s = .next (s.issueMove .coded c.val) ∧
    exec (.pageRunMove c) s = .next (s.issueMove .page c.val) ∧
    exec (.couchRun c) s = .next (s.issueMove .couch c.val) ∧
    exec (.peerMove c) s = .next (s.issueMove .peer c.val)) ∧
  (∀ (s : State) (kind : MoveKind) (c : Nat), s.nextMove c = none → s.issueMove kind c = s) ∧
  (∀ (s : State) (kind : MoveKind) (c p : Nat) (x : Partition) (r : Run) (m : MoveRec) (i : Nat), s.nextMove c = some (p, x, r, m, i) →
    let u := s.modRun p fun z => { z with issued := z.issued ++ [(c - x.low, i)] }
    (moveKind m ≠ kind → s.issueMove kind c = s) ∧
    (moveKind m = kind → Mv.source m = none ∨ Mv.dest m = none → s.issueMove kind c = u) ∧
    (∀ src dst, moveKind m = kind → Mv.source m = some src → Mv.dest m = some dst →
      let mv : Move := { id := s.moveNo, cluster := c, ctx := r.ctx, ptn := p, record := m, index := i,
                         bytes := u.moveLength p x.low r m src dst, lastBeat := Mv.lastBeat m }
      let nodes := [src, dst].filterMap fun e => (u.endObj r e).bind (·.broken)
      (Mv.bytes m = 0 → s.issueMove kind c = u) ∧
      (∀ a l, Mv.bytes m ≠ 0 → nodes = a :: l → s.issueMove kind c = u.raiseFault (u.poisonFault mv (1, x.low, a))) ∧
      (∀ a, Mv.bytes m ≠ 0 → nodes = [] → isCodedCopy m = true → (u.codedLength x.low r src).2 = some a →
        s.issueMove kind c = u.raiseFault (u.poisonFault mv a)) ∧
      (Mv.bytes m ≠ 0 → nodes = [] → (isCodedCopy m = true → (u.codedLength x.low r src).2 = none) →
        (∀ a, u.forbids p x.low r m src dst = some a → s.issueMove kind c = u.raiseFault (u.moveFault mv 0x07 a)) ∧
        (u.forbids p x.low r m src dst = none →
          let t := { u with moveNo := u.moveNo + 1 }
          (kind = .couch → s.issueMove kind c =
            { t with moves := t.moves ++ [{ mv with couch := (t.spots x.low r src false 0 mv.bytes).map t.spotByte }] }) ∧
          (kind ≠ .couch → mv.bytes ≠ 0 → s.issueMove kind c = { t with moves := t.moves ++ [mv] }) ∧
          (kind ≠ .couch → mv.bytes = 0 → s.issueMove kind c = t))))) ∧
  (∀ (s : State) (c : Fin 8) (id : Nat),
    ((∀ mv, s.move? c.val id = some mv → s.gated mv = true ∨ s.halted mv = true ∨ mv.bytes ≤ 128 * mv.next ∨
        8192 ≤ s.outstanding c.val) → exec (.hbTxnIssue c id) s = .next s) ∧
    (∀ mv, s.move? c.val id = some mv → s.gated mv = false → s.halted mv = false → 128 * mv.next < mv.bytes →
        s.outstanding c.val < 8192 → exec (.hbTxnIssue c id) s =
      .next ((s.translateSpots c.val mv.ctx ((s.chunkSpots mv mv.next).1 ++ (s.chunkSpots mv mv.next).2)).modMove id fun m =>
        { m with next := m.next + 1, outstanding := m.outstanding ++ [(m.next, s.now)] }))) ∧
  (∀ (s : State) (c : Fin 8) (id chunk : Nat) (o w : ReadOutcome),
    ((∀ mv, s.move? c.val id = some mv → s.gated mv = true ∨ ∀ x ∈ mv.outstanding, x.1 ≠ chunk) →
      exec (.hbTxnRetire c id chunk ⟨o, w⟩) s = .next s) ∧
    ∀ mv, s.move? c.val id = some mv → s.gated mv = false → (∃ x ∈ mv.outstanding, x.1 = chunk) →
      let mv' := { mv with outstanding := mv.outstanding.filter fun x => x.1 != chunk }
      let t := s.modMove id fun _ => mv'
      let sp := s.chunkSpots mv chunk
      let reads := tier1Lines sp.1
      let v := t.meetsLines reads true o
      (s.halted mv = true → reads ≠ [] → exec (.hbTxnRetire c id chunk ⟨o, w⟩) s = .next t) ∧
      (s.halted mv = false ∨ reads = [] → ∀ a, v.spotPoison sp.1 = some a →
        exec (.hbTxnRetire c id chunk ⟨o, w⟩) s = .next (v.raiseFault (v.poisonFault mv a))) ∧
      (s.halted mv = false ∨ reads = [] → v.spotPoison sp.1 = none → exec (.hbTxnRetire c id chunk ⟨o, w⟩) s =
        .next (((v.deliverChunk mv' chunk sp.1 sp.2).meetsLines (tier1Lines sp.2) false w).settleMove mv' w)))

/-! ### Observation -/

/-- Watch points, trace and counters (20 R485 to R492). WATCH.SET defines a watch point on a target that exists, with
its result at 0, and WATCH.CLEAR takes out those of a mask, both once no run of the context is in progress; WATCH.READ
gives the host the last result; WATCH.TRACE sets or ends the context's trace, where device and partition allow it and
an object that is no weight object holds the range; CTR.READ gives the host the context's counters, or the management
context its clusters'; CTR.CLEAR sets them to 0 once no other command of the context that carries the counters flag is
in progress. A host ring is denied. Completes: watchSet, watchClear, watchRead, watchTrace, ctrRead, ctrClear. -/
def Obligations.Observation : Prop :=
  (∀ (s : State) (q : Req) (a : WatchArgs) (mask : BitVec 16) (i : BitVec 4) (k : BitVec 2) (host : BitVec 64) (base off : BitVec 42)
      (n : BitVec 32), mask ≠ 0 →
    ∀ e ∈ [.watchSet q a, .watchClear q mask, .watchRead q i host, .watchTrace q base off n, .ctrRead q k host, .ctrClear q],
      Runnable e q s → ∀ h, q.ring = .host h → exec e s = .next ((s.start q).finish q stDenied 0 0)) ∧
  (∀ (s : State) (q : Req) (c : CtxNo) (a : WatchArgs), Runnable (.watchSet q a) q s → q.ring = .ctx c →
    (s.targetStatus c a ≠ stOk → exec (.watchSet q a) s = .next ((s.start q).finish q (s.targetStatus c a) 0 0)) ∧
    (s.targetStatus c a = stOk → s.running c = true → exec (.watchSet q a) s = .next s) ∧
    (s.targetStatus c a = stOk → s.running c = false → exec (.watchSet q a) s = .next (((s.start q).modCtx c fun x =>
      { x with watches := x.watches.setIfInBounds a.index.toNat { args := some a, result := 0 } }).finish q stOk 0 0))) ∧
  (∀ (s : State) (c : CtxNo) (a : WatchArgs),
    let n := ((s.ptn? (ptnOf c)).map (·.n)).getD 0
    let last := a.word.toNat * 4 + a.tileBytes.toNat
    (a.tileTarget = true → s.targetStatus c a = if a.cluster.toNat < n ∧ a.tile.toNat < 14 ∧
        storeBytes a.tile.toNat a.space.toNat ≠ 0 ∧ last ≤ storeBytes a.tile.toNat a.space.toNat then stOk else stBadField) ∧
    (a.tileTarget = false → s.obj? c a.base = none → s.targetStatus c a = stNoObject) ∧
    (∀ o, a.tileTarget = false → s.obj? c a.base = some o → s.targetStatus c a =
      if a.offset.toNat + a.bytes.toNat ≤ o.size ∧ a.bytes.toNat ≤ 2 ^ 30 then stOk else stBadField)) ∧
  (∀ (s : State) (q : Req), Runnable (.watchClear q 0) q s →
    exec (.watchClear q 0) s = .next ((s.start q).finish q stOkEmpty 0 0)) ∧
  (∀ (s : State) (q : Req) (c : CtxNo) (mask : BitVec 16), Runnable (.watchClear q mask) q s → q.ring = .ctx c → mask ≠ 0 →
    (s.running c = true → exec (.watchClear q mask) s = .next s) ∧
    (s.running c = false → ∃ f : Vector Watch 16 → Vector Watch 16,
      exec (.watchClear q mask) s = .next (((s.start q).modCtx c fun x => { x with watches := f x.watches }).finish q stOk 0 0) ∧
      ∀ (v : Vector Watch 16) (i : Fin 16), (f v)[i] = if mask.getLsbD i then {} else v[i])) ∧
  (∀ (s : State) (q : Req) (c : CtxNo) (i : BitVec 4) (host : BitVec 64), Runnable (.watchRead q i host) q s →
    q.ring = .ctx c →
    let v := ((s.ctx? c).bind fun x => x.watches[i.toNat]?).map fun (w : Watch) => w.result
    exec (.watchRead q i host) s = .next (((s.start q).writeHostOf q host (Bits.toBytes 64 (v.getD 0).toNat)).finish q stOk 0 0)) ∧
  (∀ (s : State) (q : Req) (c : CtxNo) (base off : BitVec 42) (n : BitVec 32), Runnable (.watchTrace q base off n) q s → q.ring = .ctx c →
    let ends := fun (st : Nat) => exec (.watchTrace q base off n) s = .next ((s.start q).finish q st 0 0)
    let allowed := s.live.traceAllow = true ∧ ∃ p, s.ptn? (ptnOf c) = some p ∧ p.live.traceEn = true
    (n = 0 → exec (.watchTrace q base off n) s = .next (((s.start q).modCtx c fun x => { x with trace := none }).finish q stOk 0 0)) ∧
    (n ≠ 0 → ¬ allowed → ends stDenied) ∧
    (n ≠ 0 → allowed → s.obj? c base = none → ends stNoObject) ∧
    (∀ o, n ≠ 0 → allowed → s.obj? c base = some o →
      (o.desc.kind = kindWeights ∨ o.size < off.toNat + n.toNat → ends stBadField) ∧
      (o.desc.kind ≠ kindWeights → off.toNat + n.toNat ≤ o.size → exec (.watchTrace q base off n) s =
        .next (((s.start q).modCtx c fun x => { x with trace := some { base := base, offset := off, bytes := n } }).finish q stOk 0 0)))) ∧
  (∀ (s : State) (q : Req) (c : CtxNo) (kind : BitVec 2) (host : BitVec 64), Runnable (.ctrRead q kind host) q s → q.ring = .ctx c →
    let counters := ((s.ctx? c).map (·.counters)).getD []
    (kind = 0 → exec (.ctrRead q kind host) s = .next (((s.start q).writeHostOf q host
      (counters.flatMap fun (d : BitVec 64) => Bits.toBytes 8 d.toNat)).finish q stOk 0 0)) ∧
    (kind ≠ 0 → isMgmt c = false → exec (.ctrRead q kind host) s = .next ((s.start q).finish q stDenied 0 0)) ∧
    (kind ≠ 0 → isMgmt c = true → s.ptn? (ptnOf c) = none →
      exec (.ctrRead q kind host) s = .next ((s.start q).finish q stNoObject 0 0)) ∧
    (∀ p, kind ≠ 0 → isMgmt c = true → s.ptn? (ptnOf c) = some p → exec (.ctrRead q kind host) s =
      .next (((s.start q).writeHostOf q host
        (((List.range p.n).flatMap fun k => Bits.toBytes 64 ((s.groups[p.low + k]?.map GroupCounters.bits).getD 0)) ++
          p.channels.flatMap fun h => Bits.toBytes 8 (s.obsEcc h))).finish q stOk 0 0))) ∧
  (∀ (s : State) (q : Req) (c : CtxNo), Runnable (.ctrClear q) q s → q.ring = .ctx c →
    let others := ∃ a ∈ (s.start q).accepted, a.q.ring = q.ring ∧ a.q ≠ q ∧ a.started = true ∧ a.q.counters = true
    (others → exec (.ctrClear q) s = .next s) ∧
    (¬ others → exec (.ctrClear q) s =
      .next (((s.start q).modCtx c fun x => { x with counters := List.replicate 32 0 }).finish q stOk 0 0)))

/-! ### Rules stated as they stand -/

/-- 01 R34. A command flagged ordered does nothing while an earlier ordered command of its ring has not completed.
Where no fence of its own, or of an earlier command, and no unacknowledged frame hold it (R36), a command starts when
it is not ordered, whatever ordered commands stand before it, and an ordered one when no earlier command of its ring
is ordered. -/
def Obligations.OrderedChains : Prop :=
  ∀ (s : State) (a : Accepted) (l m : List Accepted), s.accepted = l ++ a :: m → (∀ x ∈ l, x.q ≠ a.q) →
    (a.q.ordered = true → (∃ x ∈ l, x.q.ring = a.q.ring ∧ x.void = a.void ∧ x.q.ordered = true) →
      ∀ (i : Instr) (body : State → Req → Ran), s.startable i = some a → runCommand i s body = s) ∧
    (s.feltHolds a = false → a.q.fenceBefore = false → a.cmd.opcode ≠ 0x90 →
      (∀ x ∈ l, x.q.ring = a.q.ring → x.q.fenceAfter = false) →
      a.q.ordered = false ∨ (∀ x ∈ l, x.q.ring = a.q.ring → x.q.ordered = false) → s.orderAllows a = true)

/-- 09 R230. KV.COMMIT of a count a from 1 to d raises c by a, lowers d by a, and clears the tentative bit of every
page whose first position then lies below c; nothing else of the sequence and no other sequence changes. A count of 0
completes with ST_OK_EMPTY, one above d with ST_BAD_FIELD. -/
def Obligations.KvCommits : Prop :=
  ∀ (s : State) (q : Req) (no : BitVec 32) (a : BitVec 5), Runnable (.kvCommit q no a) q s →
    (a = 0 → exec (.kvCommit q no a) s = .next ((s.start q).finish q stOkEmpty 0 0)) ∧
    (∀ (c : CtxNo) (x : Seq), a ≠ 0 → q.ring = .ctx c → s.seq? no = some x → x.ctx = c → x.state = .opened →
      (s.start q).seqBound x = false →
      (x.d < a.toNat → exec (.kvCommit q no a) s = .next ((s.start q).finish q stBadField 0 0)) ∧
      (a.toNat ≤ x.d → ∃ (t : State) (y : Seq), exec (.kvCommit q no a) s = .next (t.finish q stOk 0 0) ∧
        (x.incomplete = false → t = { s.start q with seqs := t.seqs }) ∧ t.seq? no = some y ∧
        y.c = x.c + a.toNat ∧ y.d = x.d - a.toNat ∧ y = { x with c := y.c, d := y.d, pages := y.pages } ∧
        y.pages.length = x.pages.length ∧
        (∀ (i : Nat) (g h : Page), x.pages[i]? = some g → y.pages[i]? = some h → h.no = g.no ∧ h = { g with tentative := h.tentative } ∧
          (x.shape.first g.no < y.c → h.tentative = false) ∧ (y.c ≤ x.shape.first g.no → h.tentative = g.tentative)) ∧
        (∀ z ∈ s.seqs, z.index ≠ x.index → z ∈ t.seqs)))

/-- 13 R336. A commit of FAB_CFG, or of FAB_PTN_p, is refused with ST_COMMIT_CONFLICT, applies nothing and names a
field, where the slots of the eight partitions, 6 for one that does not exist, and transit_slots come to more than 64;
the field is that of the slots where every other field passes. -/
def Obligations.FabricSlots : Prop :=
  (∀ (s : State) (q : Req) (sel : BitVec 8), Runnable (.devCommit q sel) q s → sel.toNat.testBit 2 = true →
    64 < ((List.range 8).map fun r => ((s.ptn? r).map fun y => y.amended.slots).getD 6).sum + s.staged.transitSlots →
    ∃ (t : State) (f : Nat), exec (.devCommit q sel) s = .next (t.finish q stConflict f 0) ∧ t.live = s.live ∧
      t.devCommit = s.devCommit.next 3 stConflict f ∧
      ((∀ e ∈ s.devChecks (DReg.chosen sel.toNat), e.2 = false → e.1 = fieldId (6, 0) 8) → f = fieldId (6, 0) 8)) ∧
  (∀ (s : State) (q : Req) (sel : BitVec 8) (p : BitVec 3) (n : Nat) (x : Partition), Runnable (.ptnCommit q sel p) q s →
    s.named q p = some n → n < 8 → s.ptn? n = some x → hostOnly q x = false → sel.toNat.testBit 6 = true →
    64 < ((List.range 8).map fun r => if r = n then x.staged.slots else
      ((s.ptn? r).map fun y => y.amended.slots).getD 6).sum + s.live.transitSlots →
    ∃ (t : State) (f : Nat), exec (.ptnCommit q sel p) s = .next (t.finish q stConflict f 0) ∧ t.live = s.live ∧
      t.ptn? n = some { x with commitStat := x.commitStat.next 3 stConflict f } ∧
      ((∀ e ∈ (s.start q).ptnChecks n x sel.toNat, e.2 = false → e.1 = fieldId (PReg.fab.offset n) 0) →
        f = fieldId (PReg.fab.offset n) 0))
end

