-- ==== Sys2Proof/Laws/Memory.lean ====
section
/-! SUPPORT. Byte stores: a read after a write, and that every operation keeps the canonical form. -/

namespace Sys2Proof.Machine

namespace Mem

/-- Every address listed is above a bound. -/
def above (m : Mem) (b : Nat) : Prop := ∀ c ∈ m, b < c.1

theorem above_mono {m : Mem} {a b : Nat} (h : above m b) (hab : a ≤ b) : above m a :=
  fun c hc => Nat.lt_of_le_of_lt hab (h c hc)

/-- The canonical form of a non-empty list, cell by cell. -/
theorem wf_cons {k : Nat} {v : Byte} {m : Mem} : wf ((k, v) :: m) = true ↔ v ≠ 0 ∧ above m k ∧ wf m = true := by
  induction m generalizing k v with
  | nil => simp [wf, above]
  | cons c m ih =>
    obtain ⟨j, w⟩ := c
    constructor
    · intro h
      have h' := h
      unfold wf at h
      simp only [Bool.and_eq_true, bne_iff_ne, decide_eq_true_eq] at h
      refine ⟨h.1.1, ?_, h.2⟩
      have hj := (ih.mp h.2).2.1
      intro c hc
      rcases List.mem_cons.mp hc with rfl | hc
      · exact h.1.2
      · exact Nat.lt_trans h.1.2 (hj c hc)
    · rintro ⟨hv, ha, hw⟩
      unfold wf
      simp only [Bool.and_eq_true, bne_iff_ne, decide_eq_true_eq]
      exact ⟨⟨hv, ha (j, w) (by simp)⟩, hw⟩

theorem wf_nil : wf [] = true := rfl

theorem put_above {m : Mem} {a b : Nat} {v : Byte} (h : above m b) (hb : b < a) : above (put m a v) b := by
  induction m with
  | nil =>
    unfold put
    split <;> simp [above]
    exact hb
  | cons c m ih =>
    obtain ⟨k, w⟩ := c
    have hk : b < k := h (k, w) (by simp)
    have hm : above m b := fun x hx => h x (List.mem_cons_of_mem _ hx)
    have e1 : above ((k, w) :: m) b := h
    unfold put
    split
    · split
      · exact e1
      · intro x hx
        rcases List.mem_cons.mp hx with rfl | hx
        · exact hb
        · exact e1 x hx
    · split
      · split
        · exact hm
        · intro x hx
          rcases List.mem_cons.mp hx with rfl | hx
          · exact hb
          · exact hm x hx
      · intro x hx
        rcases List.mem_cons.mp hx with rfl | hx
        · exact hk
        · exact ih hm x hx

/-- Writing a byte keeps the canonical form. -/
theorem put_wf {m : Mem} (a : Nat) (v : Byte) (h : wf m = true) : wf (put m a v) = true := by
  induction m with
  | nil =>
    unfold put
    split
    · rfl
    · rename_i hv
      exact wf_cons.mpr ⟨hv, by simp [above], rfl⟩
  | cons c m ih =>
    obtain ⟨k, w⟩ := c
    obtain ⟨hw, ha, hm⟩ := wf_cons.mp h
    unfold put
    split
    · rename_i hlt
      split
      · exact h
      · rename_i hv
        refine wf_cons.mpr ⟨hv, ?_, h⟩
        intro x hx
        rcases List.mem_cons.mp hx with rfl | hx
        · exact hlt
        · exact Nat.lt_trans hlt (ha x hx)
    · split
      · rename_i heq
        split
        · exact hm
        · rename_i hv
          subst heq
          exact wf_cons.mpr ⟨hv, ha, hm⟩
      · rename_i h1 h2
        exact wf_cons.mpr ⟨hw, put_above ha (by omega), ih hm⟩

/-- Writing bytes keeps the canonical form. -/
theorem write_wf {m : Mem} (a : Nat) (bs : List Byte) (h : wf m = true) : wf (write m a bs) = true := by
  induction bs generalizing m a with
  | nil => exact h
  | cons b bs ih => exact ih (a + 1) (put_wf a b h)

/-- Taking cells out keeps the canonical form. -/
theorem filter_wf {m : Mem} (p : Host.Cell → Bool) (h : wf m = true) : wf (m.filter p) = true := by
  induction m with
  | nil => rfl
  | cons c m ih =>
    obtain ⟨k, v⟩ := c
    obtain ⟨hv, ha, hm⟩ := wf_cons.mp h
    rw [List.filter_cons]
    split
    · exact wf_cons.mpr ⟨hv, fun x hx => ha x (List.mem_of_mem_filter hx), ih hm⟩
    · exact ih hm

/-- Zeroing a range keeps the canonical form. -/
theorem clear_wf {m : Mem} (lo hi : Nat) (h : wf m = true) : wf (clear m lo hi) = true := filter_wf _ h

/-- Writing the bytes that a host sends, one by one, keeps the canonical form. -/
theorem foldl_put_wf {α : Type} (g : α → Nat) (b : α → Byte) (xs : List α) {m : Mem} (h : wf m = true) :
    wf (xs.foldl (fun m x => put m (g x) (b x)) m) = true := by
  induction xs generalizing m with
  | nil => exact h
  | cons x xs ih => exact ih (put_wf _ _ h)

theorem get_above {m : Mem} {b a : Nat} (h : above m b) (hab : a ≤ b) : get m a = 0 := by
  induction m with
  | nil => rfl
  | cons c m ih =>
    obtain ⟨k, v⟩ := c
    have hk : b < k := h (k, v) (by simp)
    unfold get
    rw [if_neg (by omega)]
    exact ih fun x hx => h x (List.mem_cons_of_mem _ hx)

/-- A read after a write of the same byte gives the value written. -/
theorem get_put_same {m : Mem} (a : Nat) (v : Byte) (h : wf m = true) : get (put m a v) a = v := by
  induction m with
  | nil =>
    unfold put
    split
    · rename_i hv
      simp [get, hv]
    · simp [get]
  | cons c m ih =>
    obtain ⟨k, w⟩ := c
    obtain ⟨hw, ha, hm⟩ := wf_cons.mp h
    unfold put
    split
    · rename_i hlt
      split
      · rename_i hv
        rw [hv]
        unfold get
        rw [if_neg (by omega)]
        exact get_above ha (by omega)
      · simp [get]
    · split
      · rename_i heq
        split
        · rename_i hv
          rw [hv]
          exact get_above ha (by omega)
        · simp [get]
      · unfold get
        rw [if_neg (by omega)]
        exact ih hm

/-- A write leaves every other byte as it was. -/
theorem get_put_other {m : Mem} {a b : Nat} (v : Byte) (h : wf m = true) (hab : b ≠ a) :
    get (put m a v) b = get m b := by
  induction m with
  | nil =>
    unfold put
    split
    · rfl
    · simp only [get]
      rw [if_neg (by omega)]
  | cons c m ih =>
    obtain ⟨k, w⟩ := c
    obtain ⟨hw, ha, hm⟩ := wf_cons.mp h
    unfold put
    split
    · split
      · rfl
      · rw [get, if_neg (by omega)]
    · split
      · rename_i heq
        split
        · rw [get, if_neg (by omega)]
        · rw [get, get, if_neg (by omega), if_neg (by omega)]
      · rw [get, get]
        split
        · rfl
        · exact ih hm

/-- Bytes outside a written range are as before. -/
theorem get_write_other {m : Mem} {a b : Nat} (bs : List Byte) (h : wf m = true) (hb : b < a ∨ a + bs.length ≤ b) :
    get (write m a bs) b = get m b := by
  induction bs generalizing m a with
  | nil => rfl
  | cons v bs ih =>
    simp only [List.length_cons] at hb
    rw [write, ih (put_wf a v h) (by omega), get_put_other v h (by omega)]

/-- Byte i of a written range is byte i of what was written. -/
theorem get_write_same {m : Mem} {a i : Nat} (bs : List Byte) (h : wf m = true) (hi : i < bs.length) :
    get (write m a bs) (a + i) = bs[i] := by
  induction bs generalizing m a i with
  | nil => simp at hi
  | cons v bs ih =>
    rw [write]
    cases i with
    | zero =>
      rw [get_write_other bs (put_wf a v h) (by omega), Nat.add_zero, get_put_same a v h]
      rfl
    | succ i =>
      have e : a + (i + 1) = a + 1 + i := by omega
      rw [e, ih (put_wf a v h) (by simpa using hi)]
      rfl

/-- Reading back what was written. -/
theorem read_write {m : Mem} (a : Nat) (bs : List Byte) (h : wf m = true) : read (write m a bs) a bs.length = bs := by
  have key : ∀ (n : Nat) (i : Nat), i + n = bs.length → read (write m a bs) (a + i) n = bs.drop i := by
    intro n
    induction n with
    | zero =>
      intro i hi
      rw [read, List.drop_eq_nil_of_le (by omega)]
    | succ n ih =>
      intro i hi
      rw [read, get_write_same bs h (by omega), Nat.add_assoc, ih (i + 1) (by omega)]
      exact (List.drop_eq_getElem_cons (by omega)).symm
  simpa using key bs.length 0 (by omega)

/-- The byte in a zeroed range is 0. -/
theorem get_clear_in {m : Mem} {lo hi b : Nat} (h : lo ≤ b ∧ b < hi) : get (clear m lo hi) b = 0 := by
  induction m with
  | nil => rfl
  | cons c m ih =>
    obtain ⟨k, v⟩ := c
    unfold clear at *
    rw [List.filter_cons]
    split
    · rename_i hk
      simp only [Bool.not_eq_true', Bool.and_eq_false_iff, decide_eq_false_iff_not] at hk
      rw [get, if_neg (by omega)]
      exact ih
    · exact ih

/-- A byte outside a zeroed range is as before. -/
theorem get_clear_out {m : Mem} {lo hi b : Nat} (h : b < lo ∨ hi ≤ b) : get (clear m lo hi) b = get m b := by
  induction m with
  | nil => rfl
  | cons c m ih =>
    obtain ⟨k, v⟩ := c
    unfold clear at *
    rw [List.filter_cons]
    split
    · rw [get, get]
      split
      · rfl
      · exact ih
    · rename_i hk
      simp only [Bool.not_eq_true', Bool.and_eq_false_iff, decide_eq_false_iff_not, not_or, Decidable.not_not] at hk
      rw [ih, get, if_neg (by omega)]

end Mem

/-! ### The tile stores -/

theorem Stores.writeByte_wf {st : Stores} (tag : Option CtxNo) (c t sp b : Nat) (v : Byte) (h : st.wf = true) :
    (st.writeByte tag c t sp b v).wf = true := by
  simp only [Stores.wf, Bool.and_eq_true] at h ⊢
  refine ⟨⟨⟨⟨?_, h.1.1.1.2⟩, h.1.1.2⟩, h.1.2⟩, h.2⟩
  simp only [Stores.writeByte]
  split
  · exact Mem.put_wf _ _ (Mem.clear_wf _ _ h.1.1.1.1)
  · exact Mem.put_wf _ _ h.1.1.1.1

theorem Stores.write_wf {st : Stores} (tag : Option CtxNo) (c t sp b : Nat) (vs : List Byte) (h : st.wf = true) :
    (st.write tag c t sp b vs).wf = true := by
  induction vs generalizing st b with
  | nil => exact h
  | cons v vs ih => exact ih (b + 1) (Stores.writeByte_wf tag c t sp b v h)

/-- Zeroing lines keeps the canonical form. -/
theorem clearLines_wf {m : Mem} (ls : List (Nat × CtxNo)) (h : m.wf = true) :
    (ls.foldl (fun m x => clearLine m x.1) m).wf = true := by
  induction ls generalizing m with
  | nil => exact h
  | cons l ls ih => exact ih (Mem.clear_wf _ _ h)

theorem Stores.clearContext_wf {st : Stores} (lo n : Nat) (x : CtxNo) (h : st.wf = true) :
    (st.clearContext lo n x).wf = true := by
  simp only [Stores.wf, Bool.and_eq_true] at h ⊢
  exact ⟨⟨⟨⟨clearLines_wf _ h.1.1.1.1, h.1.1.1.2⟩, h.1.1.2⟩, h.1.2⟩, h.2⟩

theorem Stores.clearClusters_wf {st : Stores} (lo n : Nat) (h : st.wf = true) : (st.clearClusters lo n).wf = true := by
  simp only [Stores.wf, Bool.and_eq_true] at h ⊢
  exact ⟨⟨⟨⟨Mem.clear_wf _ _ h.1.1.1.1, Mem.clear_wf _ _ h.1.1.1.2⟩, Mem.clear_wf _ _ h.1.1.2⟩, Mem.clear_wf _ _ h.1.2⟩,
    Mem.clear_wf _ _ h.2⟩

/-! ### Tiers 0 and 1 -/

/-- What the memory operations of the tiers can do: they change tier 1, tier 0 and the poisoned lines alone, and keep
the canonical form. -/
theorem State.writeTier_shape (s : State) (tier c off : Nat) (bs : List Byte) :
    ∃ m l p, s.writeTier tier c off bs = { s with tier1 := m, layer := l, poison := p } ∧
      (s.tier1.wf = true → m.wf = true) ∧ (s.layer.wf = true → l.wf = true) := by
  unfold State.writeTier
  split
  · exact ⟨s.tier1, _, _, rfl, id, Mem.write_wf _ _⟩
  · exact ⟨_, s.layer, _, rfl, Mem.write_wf _ _, id⟩

/-- Zeroing units also takes them from the units of undefined contents. -/
theorem State.zeroTier_shape (s : State) (tier c off n : Nat) :
    ∃ m u l p, s.zeroTier tier c off n = { s with tier1 := m, undef := u, layer := l, poison := p } ∧
      (s.tier1.wf = true → m.wf = true) ∧ (s.layer.wf = true → l.wf = true) := by
  dsimp only [State.zeroTier]
  split
  · exact ⟨s.tier1, _, _, _, rfl, id, Mem.clear_wf _ _⟩
  · exact ⟨_, _, s.layer, _, rfl, Mem.clear_wf _ _, id⟩

/-- What a write of an object can do. -/
theorem State.writeObj_shape (s : State) (o : Obj) (off : Nat) (bs : List Byte) :
    ∃ m l p, s.writeObj o off bs = { s with tier1 := m, layer := l, poison := p } ∧
      (s.tier1.wf = true → m.wf = true) ∧ (s.layer.wf = true → l.wf = true) := by
  unfold State.writeObj
  generalize o.pieces off bs.length = ps
  suffices h : ∀ (st : State), (∃ m l p, st = { s with tier1 := m, layer := l, poison := p } ∧
      (s.tier1.wf = true → m.wf = true) ∧ (s.layer.wf = true → l.wf = true)) →
      ∃ m l p, ps.foldl (fun st (x : Nat × Nat) =>
        match o.locate x.1 with
        | none => st
        | some (t, c, y) => st.writeTier t c y ((bs.drop (x.1 - off)).take x.2)) st =
        { s with tier1 := m, layer := l, poison := p } ∧
      (s.tier1.wf = true → m.wf = true) ∧ (s.layer.wf = true → l.wf = true) from
    h s ⟨s.tier1, s.layer, s.poison, rfl, id, id⟩
  induction ps with
  | nil => exact fun st h => h
  | cons x ps ih =>
    rintro st ⟨m, l, p, rfl, hm, hl⟩
    apply ih
    dsimp only
    split
    · exact ⟨m, l, p, rfl, hm, hl⟩
    · rename_i t c y _
      obtain ⟨m', l', p', e, hm', hl'⟩ :=
        State.writeTier_shape { s with tier1 := m, layer := l, poison := p } t c y ((bs.drop (x.1 - off)).take x.2)
      exact ⟨m', l', p', e, fun h => hm' (hm h), fun h => hl' (hl h)⟩

end Sys2Proof.Machine
end

