-- ==== Sys2Proof/Laws/State.lean ====
section
/-! SUPPORT. The named updates of the state, field by field: what each leaves as it was and the one field it gives a new
value. -/

namespace Sys2Proof.Machine.State

/-! ### setPtn -/

@[simp] theorem setPtn_pending (s : State) (p : Nat) (x : Option Partition) : (s.setPtn p x).pending = s.pending := rfl
@[simp] theorem setPtn_now (s : State) (p : Nat) (x : Option Partition) : (s.setPtn p x).now = s.now := rfl
@[simp] theorem setPtn_free (s : State) (p : Nat) (x : Option Partition) : (s.setPtn p x).free = s.free := rfl
@[simp] theorem setPtn_hosts (s : State) (p : Nat) (x : Option Partition) : (s.setPtn p x).hosts = s.hosts := rfl
@[simp] theorem setPtn_primary (s : State) (p : Nat) (x : Option Partition) : (s.setPtn p x).primary = s.primary := rfl
@[simp] theorem setPtn_ptns (s : State) (p : Nat) (x : Option Partition) : (s.setPtn p x).ptns = s.ptns.setIfInBounds p x := rfl
@[simp] theorem setPtn_ctxs (s : State) (p : Nat) (x : Option Partition) : (s.setPtn p x).ctxs = s.ctxs := rfl
@[simp] theorem setPtn_accepted (s : State) (p : Nat) (x : Option Partition) : (s.setPtn p x).accepted = s.accepted := rfl
@[simp] theorem setPtn_objs (s : State) (p : Nat) (x : Option Partition) : (s.setPtn p x).objs = s.objs := rfl
@[simp] theorem setPtn_images (s : State) (p : Nat) (x : Option Partition) : (s.setPtn p x).images = s.images := rfl
@[simp] theorem setPtn_migrations (s : State) (p : Nat) (x : Option Partition) : (s.setPtn p x).migrations = s.migrations := rfl
@[simp] theorem setPtn_moves (s : State) (p : Nat) (x : Option Partition) : (s.setPtn p x).moves = s.moves := rfl
@[simp] theorem setPtn_moveNo (s : State) (p : Nat) (x : Option Partition) : (s.setPtn p x).moveNo = s.moveNo := rfl
@[simp] theorem setPtn_caches (s : State) (p : Nat) (x : Option Partition) : (s.setPtn p x).caches = s.caches := rfl
@[simp] theorem setPtn_tier1 (s : State) (p : Nat) (x : Option Partition) : (s.setPtn p x).tier1 = s.tier1 := rfl
@[simp] theorem setPtn_undef (s : State) (p : Nat) (x : Option Partition) : (s.setPtn p x).undef = s.undef := rfl
@[simp] theorem setPtn_poison (s : State) (p : Nat) (x : Option Partition) : (s.setPtn p x).poison = s.poison := rfl
@[simp] theorem setPtn_poisonReports (s : State) (p : Nat) (x : Option Partition) : (s.setPtn p x).poisonReports = s.poisonReports := rfl
@[simp] theorem setPtn_memc (s : State) (p : Nat) (x : Option Partition) : (s.setPtn p x).memc = s.memc := rfl
@[simp] theorem setPtn_groups (s : State) (p : Nat) (x : Option Partition) : (s.setPtn p x).groups = s.groups := rfl
@[simp] theorem setPtn_seqs (s : State) (p : Nat) (x : Option Partition) : (s.setPtn p x).seqs = s.seqs := rfl
@[simp] theorem setPtn_gens (s : State) (p : Nat) (x : Option Partition) : (s.setPtn p x).gens = s.gens := rfl
@[simp] theorem setPtn_handles (s : State) (p : Nat) (x : Option Partition) : (s.setPtn p x).handles = s.handles := rfl
@[simp] theorem setPtn_layer (s : State) (p : Nat) (x : Option Partition) : (s.setPtn p x).layer = s.layer := rfl
@[simp] theorem setPtn_stores (s : State) (p : Nat) (x : Option Partition) : (s.setPtn p x).stores = s.stores := rfl
@[simp] theorem setPtn_staged (s : State) (p : Nat) (x : Option Partition) : (s.setPtn p x).staged = s.staged := rfl
@[simp] theorem setPtn_live (s : State) (p : Nat) (x : Option Partition) : (s.setPtn p x).live = s.live := rfl
@[simp] theorem setPtn_devCommit (s : State) (p : Nat) (x : Option Partition) : (s.setPtn p x).devCommit = s.devCommit := rfl
@[simp] theorem setPtn_interrupts (s : State) (p : Nat) (x : Option Partition) : (s.setPtn p x).interrupts = s.interrupts := rfl
@[simp] theorem setPtn_lastRead (s : State) (p : Nat) (x : Option Partition) : (s.setPtn p x).lastRead = s.lastRead := rfl
@[simp] theorem setPtn_heldWork (s : State) (p : Nat) (x : Option Partition) : (s.setPtn p x).heldWork = s.heldWork := rfl
@[simp] theorem setPtn_flt (s : State) (p : Nat) (x : Option Partition) : (s.setPtn p x).flt = s.flt := rfl
@[simp] theorem setPtn_power (s : State) (p : Nat) (x : Option Partition) : (s.setPtn p x).power = s.power := rfl
@[simp] theorem setPtn_idleSince (s : State) (p : Nat) (x : Option Partition) : (s.setPtn p x).idleSince = s.idleSince := rfl
@[simp] theorem setPtn_pwr (s : State) (p : Nat) (x : Option Partition) : (s.setPtn p x).pwr = s.pwr := rfl
@[simp] theorem setPtn_field (s : State) (p : Nat) (x : Option Partition) : (s.setPtn p x).field = s.field := rfl
@[simp] theorem setPtn_fieldCap (s : State) (p : Nat) (x : Option Partition) : (s.setPtn p x).fieldCap = s.fieldCap := rfl
@[simp] theorem setPtn_fieldEmerg (s : State) (p : Nat) (x : Option Partition) : (s.setPtn p x).fieldEmerg = s.fieldEmerg := rfl
@[simp] theorem setPtn_tier1Ready (s : State) (p : Nat) (x : Option Partition) : (s.setPtn p x).tier1Ready = s.tier1Ready := rfl
@[simp] theorem setPtn_sessions (s : State) (p : Nat) (x : Option Partition) : (s.setPtn p x).sessions = s.sessions := rfl
@[simp] theorem setPtn_authFail (s : State) (p : Nat) (x : Option Partition) : (s.setPtn p x).authFail = s.authFail := rfl
@[simp] theorem setPtn_draws (s : State) (p : Nat) (x : Option Partition) : (s.setPtn p x).draws = s.draws := rfl
@[simp] theorem setPtn_felt (s : State) (p : Nat) (x : Option Partition) : (s.setPtn p x).felt = s.felt := rfl
@[simp] theorem setPtn_weights (s : State) (p : Nat) (x : Option Partition) : (s.setPtn p x).weights = s.weights := rfl
@[simp] theorem setPtn_awaited (s : State) (p : Nat) (x : Option Partition) : (s.setPtn p x).awaited = s.awaited := rfl
@[simp] theorem setPtn_library (s : State) (p : Nat) (x : Option Partition) : (s.setPtn p x).library = s.library := rfl
@[simp] theorem setPtn_serving (s : State) (p : Nat) (x : Option Partition) : (s.setPtn p x).serving = s.serving := rfl
@[simp] theorem setPtn_flash (s : State) (p : Nat) (x : Option Partition) : (s.setPtn p x).flash = s.flash := rfl
@[simp] theorem setPtn_fw (s : State) (p : Nat) (x : Option Partition) : (s.setPtn p x).fw = s.fw := rfl
@[simp] theorem setPtn_recovery (s : State) (p : Nat) (x : Option Partition) : (s.setPtn p x).recovery = s.recovery := rfl
@[simp] theorem setPtn_supplies (s : State) (p : Nat) (x : Option Partition) : (s.setPtn p x).supplies = s.supplies := rfl
@[simp] theorem setPtn_rng (s : State) (p : Nat) (x : Option Partition) : (s.setPtn p x).rng = s.rng := rfl
@[simp] theorem setPtn_tap (s : State) (p : Nat) (x : Option Partition) : (s.setPtn p x).tap = s.tap := rfl

/-! ### modCtx -/

@[simp] theorem modCtx_pending (s : State) (c : CtxNo) (f : Context → Context) : (s.modCtx c f).pending = s.pending := rfl
@[simp] theorem modCtx_now (s : State) (c : CtxNo) (f : Context → Context) : (s.modCtx c f).now = s.now := rfl
@[simp] theorem modCtx_free (s : State) (c : CtxNo) (f : Context → Context) : (s.modCtx c f).free = s.free := rfl
@[simp] theorem modCtx_hosts (s : State) (c : CtxNo) (f : Context → Context) : (s.modCtx c f).hosts = s.hosts := rfl
@[simp] theorem modCtx_primary (s : State) (c : CtxNo) (f : Context → Context) : (s.modCtx c f).primary = s.primary := rfl
@[simp] theorem modCtx_ptns (s : State) (c : CtxNo) (f : Context → Context) : (s.modCtx c f).ptns = s.ptns := rfl
@[simp] theorem modCtx_ctxs (s : State) (c : CtxNo) (f : Context → Context) : (s.modCtx c f).ctxs = Lists.modifyIf (fun x => x.no == c) f s.ctxs := rfl
@[simp] theorem modCtx_accepted (s : State) (c : CtxNo) (f : Context → Context) : (s.modCtx c f).accepted = s.accepted := rfl
@[simp] theorem modCtx_objs (s : State) (c : CtxNo) (f : Context → Context) : (s.modCtx c f).objs = s.objs := rfl
@[simp] theorem modCtx_images (s : State) (c : CtxNo) (f : Context → Context) : (s.modCtx c f).images = s.images := rfl
@[simp] theorem modCtx_migrations (s : State) (c : CtxNo) (f : Context → Context) : (s.modCtx c f).migrations = s.migrations := rfl
@[simp] theorem modCtx_moves (s : State) (c : CtxNo) (f : Context → Context) : (s.modCtx c f).moves = s.moves := rfl
@[simp] theorem modCtx_moveNo (s : State) (c : CtxNo) (f : Context → Context) : (s.modCtx c f).moveNo = s.moveNo := rfl
@[simp] theorem modCtx_caches (s : State) (c : CtxNo) (f : Context → Context) : (s.modCtx c f).caches = s.caches := rfl
@[simp] theorem modCtx_tier1 (s : State) (c : CtxNo) (f : Context → Context) : (s.modCtx c f).tier1 = s.tier1 := rfl
@[simp] theorem modCtx_undef (s : State) (c : CtxNo) (f : Context → Context) : (s.modCtx c f).undef = s.undef := rfl
@[simp] theorem modCtx_poison (s : State) (c : CtxNo) (f : Context → Context) : (s.modCtx c f).poison = s.poison := rfl
@[simp] theorem modCtx_poisonReports (s : State) (c : CtxNo) (f : Context → Context) : (s.modCtx c f).poisonReports = s.poisonReports := rfl
@[simp] theorem modCtx_memc (s : State) (c : CtxNo) (f : Context → Context) : (s.modCtx c f).memc = s.memc := rfl
@[simp] theorem modCtx_groups (s : State) (c : CtxNo) (f : Context → Context) : (s.modCtx c f).groups = s.groups := rfl
@[simp] theorem modCtx_seqs (s : State) (c : CtxNo) (f : Context → Context) : (s.modCtx c f).seqs = s.seqs := rfl
@[simp] theorem modCtx_gens (s : State) (c : CtxNo) (f : Context → Context) : (s.modCtx c f).gens = s.gens := rfl
@[simp] theorem modCtx_handles (s : State) (c : CtxNo) (f : Context → Context) : (s.modCtx c f).handles = s.handles := rfl
@[simp] theorem modCtx_layer (s : State) (c : CtxNo) (f : Context → Context) : (s.modCtx c f).layer = s.layer := rfl
@[simp] theorem modCtx_stores (s : State) (c : CtxNo) (f : Context → Context) : (s.modCtx c f).stores = s.stores := rfl
@[simp] theorem modCtx_staged (s : State) (c : CtxNo) (f : Context → Context) : (s.modCtx c f).staged = s.staged := rfl
@[simp] theorem modCtx_live (s : State) (c : CtxNo) (f : Context → Context) : (s.modCtx c f).live = s.live := rfl
@[simp] theorem modCtx_devCommit (s : State) (c : CtxNo) (f : Context → Context) : (s.modCtx c f).devCommit = s.devCommit := rfl
@[simp] theorem modCtx_interrupts (s : State) (c : CtxNo) (f : Context → Context) : (s.modCtx c f).interrupts = s.interrupts := rfl
@[simp] theorem modCtx_lastRead (s : State) (c : CtxNo) (f : Context → Context) : (s.modCtx c f).lastRead = s.lastRead := rfl
@[simp] theorem modCtx_heldWork (s : State) (c : CtxNo) (f : Context → Context) : (s.modCtx c f).heldWork = s.heldWork := rfl
@[simp] theorem modCtx_flt (s : State) (c : CtxNo) (f : Context → Context) : (s.modCtx c f).flt = s.flt := rfl
@[simp] theorem modCtx_power (s : State) (c : CtxNo) (f : Context → Context) : (s.modCtx c f).power = s.power := rfl
@[simp] theorem modCtx_idleSince (s : State) (c : CtxNo) (f : Context → Context) : (s.modCtx c f).idleSince = s.idleSince := rfl
@[simp] theorem modCtx_pwr (s : State) (c : CtxNo) (f : Context → Context) : (s.modCtx c f).pwr = s.pwr := rfl
@[simp] theorem modCtx_field (s : State) (c : CtxNo) (f : Context → Context) : (s.modCtx c f).field = s.field := rfl
@[simp] theorem modCtx_fieldCap (s : State) (c : CtxNo) (f : Context → Context) : (s.modCtx c f).fieldCap = s.fieldCap := rfl
@[simp] theorem modCtx_fieldEmerg (s : State) (c : CtxNo) (f : Context → Context) : (s.modCtx c f).fieldEmerg = s.fieldEmerg := rfl
@[simp] theorem modCtx_tier1Ready (s : State) (c : CtxNo) (f : Context → Context) : (s.modCtx c f).tier1Ready = s.tier1Ready := rfl
@[simp] theorem modCtx_sessions (s : State) (c : CtxNo) (f : Context → Context) : (s.modCtx c f).sessions = s.sessions := rfl
@[simp] theorem modCtx_authFail (s : State) (c : CtxNo) (f : Context → Context) : (s.modCtx c f).authFail = s.authFail := rfl
@[simp] theorem modCtx_draws (s : State) (c : CtxNo) (f : Context → Context) : (s.modCtx c f).draws = s.draws := rfl
@[simp] theorem modCtx_felt (s : State) (c : CtxNo) (f : Context → Context) : (s.modCtx c f).felt = s.felt := rfl
@[simp] theorem modCtx_weights (s : State) (c : CtxNo) (f : Context → Context) : (s.modCtx c f).weights = s.weights := rfl
@[simp] theorem modCtx_awaited (s : State) (c : CtxNo) (f : Context → Context) : (s.modCtx c f).awaited = s.awaited := rfl
@[simp] theorem modCtx_library (s : State) (c : CtxNo) (f : Context → Context) : (s.modCtx c f).library = s.library := rfl
@[simp] theorem modCtx_serving (s : State) (c : CtxNo) (f : Context → Context) : (s.modCtx c f).serving = s.serving := rfl
@[simp] theorem modCtx_flash (s : State) (c : CtxNo) (f : Context → Context) : (s.modCtx c f).flash = s.flash := rfl
@[simp] theorem modCtx_fw (s : State) (c : CtxNo) (f : Context → Context) : (s.modCtx c f).fw = s.fw := rfl
@[simp] theorem modCtx_recovery (s : State) (c : CtxNo) (f : Context → Context) : (s.modCtx c f).recovery = s.recovery := rfl
@[simp] theorem modCtx_supplies (s : State) (c : CtxNo) (f : Context → Context) : (s.modCtx c f).supplies = s.supplies := rfl
@[simp] theorem modCtx_rng (s : State) (c : CtxNo) (f : Context → Context) : (s.modCtx c f).rng = s.rng := rfl
@[simp] theorem modCtx_tap (s : State) (c : CtxNo) (f : Context → Context) : (s.modCtx c f).tap = s.tap := rfl

/-! ### modHost -/

@[simp] theorem modHost_pending (s : State) (h : Fin 2) (f : HostSide → HostSide) : (s.modHost h f).pending = s.pending := rfl
@[simp] theorem modHost_now (s : State) (h : Fin 2) (f : HostSide → HostSide) : (s.modHost h f).now = s.now := rfl
@[simp] theorem modHost_free (s : State) (h : Fin 2) (f : HostSide → HostSide) : (s.modHost h f).free = s.free := rfl
@[simp] theorem modHost_hosts (s : State) (h : Fin 2) (f : HostSide → HostSide) : (s.modHost h f).hosts = s.hosts.set h (f s.hosts[h]) := rfl
@[simp] theorem modHost_primary (s : State) (h : Fin 2) (f : HostSide → HostSide) : (s.modHost h f).primary = s.primary := rfl
@[simp] theorem modHost_ptns (s : State) (h : Fin 2) (f : HostSide → HostSide) : (s.modHost h f).ptns = s.ptns := rfl
@[simp] theorem modHost_ctxs (s : State) (h : Fin 2) (f : HostSide → HostSide) : (s.modHost h f).ctxs = s.ctxs := rfl
@[simp] theorem modHost_accepted (s : State) (h : Fin 2) (f : HostSide → HostSide) : (s.modHost h f).accepted = s.accepted := rfl
@[simp] theorem modHost_objs (s : State) (h : Fin 2) (f : HostSide → HostSide) : (s.modHost h f).objs = s.objs := rfl
@[simp] theorem modHost_images (s : State) (h : Fin 2) (f : HostSide → HostSide) : (s.modHost h f).images = s.images := rfl
@[simp] theorem modHost_migrations (s : State) (h : Fin 2) (f : HostSide → HostSide) : (s.modHost h f).migrations = s.migrations := rfl
@[simp] theorem modHost_moves (s : State) (h : Fin 2) (f : HostSide → HostSide) : (s.modHost h f).moves = s.moves := rfl
@[simp] theorem modHost_moveNo (s : State) (h : Fin 2) (f : HostSide → HostSide) : (s.modHost h f).moveNo = s.moveNo := rfl
@[simp] theorem modHost_caches (s : State) (h : Fin 2) (f : HostSide → HostSide) : (s.modHost h f).caches = s.caches := rfl
@[simp] theorem modHost_tier1 (s : State) (h : Fin 2) (f : HostSide → HostSide) : (s.modHost h f).tier1 = s.tier1 := rfl
@[simp] theorem modHost_undef (s : State) (h : Fin 2) (f : HostSide → HostSide) : (s.modHost h f).undef = s.undef := rfl
@[simp] theorem modHost_poison (s : State) (h : Fin 2) (f : HostSide → HostSide) : (s.modHost h f).poison = s.poison := rfl
@[simp] theorem modHost_poisonReports (s : State) (h : Fin 2) (f : HostSide → HostSide) : (s.modHost h f).poisonReports = s.poisonReports := rfl
@[simp] theorem modHost_memc (s : State) (h : Fin 2) (f : HostSide → HostSide) : (s.modHost h f).memc = s.memc := rfl
@[simp] theorem modHost_groups (s : State) (h : Fin 2) (f : HostSide → HostSide) : (s.modHost h f).groups = s.groups := rfl
@[simp] theorem modHost_seqs (s : State) (h : Fin 2) (f : HostSide → HostSide) : (s.modHost h f).seqs = s.seqs := rfl
@[simp] theorem modHost_gens (s : State) (h : Fin 2) (f : HostSide → HostSide) : (s.modHost h f).gens = s.gens := rfl
@[simp] theorem modHost_handles (s : State) (h : Fin 2) (f : HostSide → HostSide) : (s.modHost h f).handles = s.handles := rfl
@[simp] theorem modHost_layer (s : State) (h : Fin 2) (f : HostSide → HostSide) : (s.modHost h f).layer = s.layer := rfl
@[simp] theorem modHost_stores (s : State) (h : Fin 2) (f : HostSide → HostSide) : (s.modHost h f).stores = s.stores := rfl
@[simp] theorem modHost_staged (s : State) (h : Fin 2) (f : HostSide → HostSide) : (s.modHost h f).staged = s.staged := rfl
@[simp] theorem modHost_live (s : State) (h : Fin 2) (f : HostSide → HostSide) : (s.modHost h f).live = s.live := rfl
@[simp] theorem modHost_devCommit (s : State) (h : Fin 2) (f : HostSide → HostSide) : (s.modHost h f).devCommit = s.devCommit := rfl
@[simp] theorem modHost_interrupts (s : State) (h : Fin 2) (f : HostSide → HostSide) : (s.modHost h f).interrupts = s.interrupts := rfl
@[simp] theorem modHost_lastRead (s : State) (h : Fin 2) (f : HostSide → HostSide) : (s.modHost h f).lastRead = s.lastRead := rfl
@[simp] theorem modHost_heldWork (s : State) (h : Fin 2) (f : HostSide → HostSide) : (s.modHost h f).heldWork = s.heldWork := rfl
@[simp] theorem modHost_flt (s : State) (h : Fin 2) (f : HostSide → HostSide) : (s.modHost h f).flt = s.flt := rfl
@[simp] theorem modHost_power (s : State) (h : Fin 2) (f : HostSide → HostSide) : (s.modHost h f).power = s.power := rfl
@[simp] theorem modHost_idleSince (s : State) (h : Fin 2) (f : HostSide → HostSide) : (s.modHost h f).idleSince = s.idleSince := rfl
@[simp] theorem modHost_pwr (s : State) (h : Fin 2) (f : HostSide → HostSide) : (s.modHost h f).pwr = s.pwr := rfl
@[simp] theorem modHost_field (s : State) (h : Fin 2) (f : HostSide → HostSide) : (s.modHost h f).field = s.field := rfl
@[simp] theorem modHost_fieldCap (s : State) (h : Fin 2) (f : HostSide → HostSide) : (s.modHost h f).fieldCap = s.fieldCap := rfl
@[simp] theorem modHost_fieldEmerg (s : State) (h : Fin 2) (f : HostSide → HostSide) : (s.modHost h f).fieldEmerg = s.fieldEmerg := rfl
@[simp] theorem modHost_tier1Ready (s : State) (h : Fin 2) (f : HostSide → HostSide) : (s.modHost h f).tier1Ready = s.tier1Ready := rfl
@[simp] theorem modHost_sessions (s : State) (h : Fin 2) (f : HostSide → HostSide) : (s.modHost h f).sessions = s.sessions := rfl
@[simp] theorem modHost_authFail (s : State) (h : Fin 2) (f : HostSide → HostSide) : (s.modHost h f).authFail = s.authFail := rfl
@[simp] theorem modHost_draws (s : State) (h : Fin 2) (f : HostSide → HostSide) : (s.modHost h f).draws = s.draws := rfl
@[simp] theorem modHost_felt (s : State) (h : Fin 2) (f : HostSide → HostSide) : (s.modHost h f).felt = s.felt := rfl
@[simp] theorem modHost_weights (s : State) (h : Fin 2) (f : HostSide → HostSide) : (s.modHost h f).weights = s.weights := rfl
@[simp] theorem modHost_awaited (s : State) (h : Fin 2) (f : HostSide → HostSide) : (s.modHost h f).awaited = s.awaited := rfl
@[simp] theorem modHost_library (s : State) (h : Fin 2) (f : HostSide → HostSide) : (s.modHost h f).library = s.library := rfl
@[simp] theorem modHost_serving (s : State) (h : Fin 2) (f : HostSide → HostSide) : (s.modHost h f).serving = s.serving := rfl
@[simp] theorem modHost_flash (s : State) (h : Fin 2) (f : HostSide → HostSide) : (s.modHost h f).flash = s.flash := rfl
@[simp] theorem modHost_fw (s : State) (h : Fin 2) (f : HostSide → HostSide) : (s.modHost h f).fw = s.fw := rfl
@[simp] theorem modHost_recovery (s : State) (h : Fin 2) (f : HostSide → HostSide) : (s.modHost h f).recovery = s.recovery := rfl
@[simp] theorem modHost_supplies (s : State) (h : Fin 2) (f : HostSide → HostSide) : (s.modHost h f).supplies = s.supplies := rfl
@[simp] theorem modHost_rng (s : State) (h : Fin 2) (f : HostSide → HostSide) : (s.modHost h f).rng = s.rng := rfl
@[simp] theorem modHost_tap (s : State) (h : Fin 2) (f : HostSide → HostSide) : (s.modHost h f).tap = s.tap := rfl

/-! ### modObj -/

@[simp] theorem modObj_pending (s : State) (c : CtxNo) (b : BitVec 42) (f : Obj → Obj) : (s.modObj c b f).pending = s.pending := rfl
@[simp] theorem modObj_now (s : State) (c : CtxNo) (b : BitVec 42) (f : Obj → Obj) : (s.modObj c b f).now = s.now := rfl
@[simp] theorem modObj_free (s : State) (c : CtxNo) (b : BitVec 42) (f : Obj → Obj) : (s.modObj c b f).free = s.free := rfl
@[simp] theorem modObj_hosts (s : State) (c : CtxNo) (b : BitVec 42) (f : Obj → Obj) : (s.modObj c b f).hosts = s.hosts := rfl
@[simp] theorem modObj_primary (s : State) (c : CtxNo) (b : BitVec 42) (f : Obj → Obj) : (s.modObj c b f).primary = s.primary := rfl
@[simp] theorem modObj_ptns (s : State) (c : CtxNo) (b : BitVec 42) (f : Obj → Obj) : (s.modObj c b f).ptns = s.ptns := rfl
@[simp] theorem modObj_ctxs (s : State) (c : CtxNo) (b : BitVec 42) (f : Obj → Obj) : (s.modObj c b f).ctxs = s.ctxs := rfl
@[simp] theorem modObj_accepted (s : State) (c : CtxNo) (b : BitVec 42) (f : Obj → Obj) : (s.modObj c b f).accepted = s.accepted := rfl
@[simp] theorem modObj_objs (s : State) (c : CtxNo) (b : BitVec 42) (f : Obj → Obj) : (s.modObj c b f).objs = Lists.modifyIf (fun o => o.ctx == c && o.desc.vbase == b) f s.objs := rfl
@[simp] theorem modObj_images (s : State) (c : CtxNo) (b : BitVec 42) (f : Obj → Obj) : (s.modObj c b f).images = s.images := rfl
@[simp] theorem modObj_migrations (s : State) (c : CtxNo) (b : BitVec 42) (f : Obj → Obj) : (s.modObj c b f).migrations = s.migrations := rfl
@[simp] theorem modObj_moves (s : State) (c : CtxNo) (b : BitVec 42) (f : Obj → Obj) : (s.modObj c b f).moves = s.moves := rfl
@[simp] theorem modObj_moveNo (s : State) (c : CtxNo) (b : BitVec 42) (f : Obj → Obj) : (s.modObj c b f).moveNo = s.moveNo := rfl
@[simp] theorem modObj_caches (s : State) (c : CtxNo) (b : BitVec 42) (f : Obj → Obj) : (s.modObj c b f).caches = s.caches := rfl
@[simp] theorem modObj_tier1 (s : State) (c : CtxNo) (b : BitVec 42) (f : Obj → Obj) : (s.modObj c b f).tier1 = s.tier1 := rfl
@[simp] theorem modObj_undef (s : State) (c : CtxNo) (b : BitVec 42) (f : Obj → Obj) : (s.modObj c b f).undef = s.undef := rfl
@[simp] theorem modObj_poison (s : State) (c : CtxNo) (b : BitVec 42) (f : Obj → Obj) : (s.modObj c b f).poison = s.poison := rfl
@[simp] theorem modObj_poisonReports (s : State) (c : CtxNo) (b : BitVec 42) (f : Obj → Obj) : (s.modObj c b f).poisonReports = s.poisonReports := rfl
@[simp] theorem modObj_memc (s : State) (c : CtxNo) (b : BitVec 42) (f : Obj → Obj) : (s.modObj c b f).memc = s.memc := rfl
@[simp] theorem modObj_groups (s : State) (c : CtxNo) (b : BitVec 42) (f : Obj → Obj) : (s.modObj c b f).groups = s.groups := rfl
@[simp] theorem modObj_seqs (s : State) (c : CtxNo) (b : BitVec 42) (f : Obj → Obj) : (s.modObj c b f).seqs = s.seqs := rfl
@[simp] theorem modObj_gens (s : State) (c : CtxNo) (b : BitVec 42) (f : Obj → Obj) : (s.modObj c b f).gens = s.gens := rfl
@[simp] theorem modObj_handles (s : State) (c : CtxNo) (b : BitVec 42) (f : Obj → Obj) : (s.modObj c b f).handles = s.handles := rfl
@[simp] theorem modObj_layer (s : State) (c : CtxNo) (b : BitVec 42) (f : Obj → Obj) : (s.modObj c b f).layer = s.layer := rfl
@[simp] theorem modObj_stores (s : State) (c : CtxNo) (b : BitVec 42) (f : Obj → Obj) : (s.modObj c b f).stores = s.stores := rfl
@[simp] theorem modObj_staged (s : State) (c : CtxNo) (b : BitVec 42) (f : Obj → Obj) : (s.modObj c b f).staged = s.staged := rfl
@[simp] theorem modObj_live (s : State) (c : CtxNo) (b : BitVec 42) (f : Obj → Obj) : (s.modObj c b f).live = s.live := rfl
@[simp] theorem modObj_devCommit (s : State) (c : CtxNo) (b : BitVec 42) (f : Obj → Obj) : (s.modObj c b f).devCommit = s.devCommit := rfl
@[simp] theorem modObj_interrupts (s : State) (c : CtxNo) (b : BitVec 42) (f : Obj → Obj) : (s.modObj c b f).interrupts = s.interrupts := rfl
@[simp] theorem modObj_lastRead (s : State) (c : CtxNo) (b : BitVec 42) (f : Obj → Obj) : (s.modObj c b f).lastRead = s.lastRead := rfl
@[simp] theorem modObj_heldWork (s : State) (c : CtxNo) (b : BitVec 42) (f : Obj → Obj) : (s.modObj c b f).heldWork = s.heldWork := rfl
@[simp] theorem modObj_flt (s : State) (c : CtxNo) (b : BitVec 42) (f : Obj → Obj) : (s.modObj c b f).flt = s.flt := rfl
@[simp] theorem modObj_power (s : State) (c : CtxNo) (b : BitVec 42) (f : Obj → Obj) : (s.modObj c b f).power = s.power := rfl
@[simp] theorem modObj_idleSince (s : State) (c : CtxNo) (b : BitVec 42) (f : Obj → Obj) : (s.modObj c b f).idleSince = s.idleSince := rfl
@[simp] theorem modObj_pwr (s : State) (c : CtxNo) (b : BitVec 42) (f : Obj → Obj) : (s.modObj c b f).pwr = s.pwr := rfl
@[simp] theorem modObj_field (s : State) (c : CtxNo) (b : BitVec 42) (f : Obj → Obj) : (s.modObj c b f).field = s.field := rfl
@[simp] theorem modObj_fieldCap (s : State) (c : CtxNo) (b : BitVec 42) (f : Obj → Obj) : (s.modObj c b f).fieldCap = s.fieldCap := rfl
@[simp] theorem modObj_fieldEmerg (s : State) (c : CtxNo) (b : BitVec 42) (f : Obj → Obj) : (s.modObj c b f).fieldEmerg = s.fieldEmerg := rfl
@[simp] theorem modObj_tier1Ready (s : State) (c : CtxNo) (b : BitVec 42) (f : Obj → Obj) : (s.modObj c b f).tier1Ready = s.tier1Ready := rfl
@[simp] theorem modObj_sessions (s : State) (c : CtxNo) (b : BitVec 42) (f : Obj → Obj) : (s.modObj c b f).sessions = s.sessions := rfl
@[simp] theorem modObj_authFail (s : State) (c : CtxNo) (b : BitVec 42) (f : Obj → Obj) : (s.modObj c b f).authFail = s.authFail := rfl
@[simp] theorem modObj_draws (s : State) (c : CtxNo) (b : BitVec 42) (f : Obj → Obj) : (s.modObj c b f).draws = s.draws := rfl
@[simp] theorem modObj_felt (s : State) (c : CtxNo) (b : BitVec 42) (f : Obj → Obj) : (s.modObj c b f).felt = s.felt := rfl
@[simp] theorem modObj_weights (s : State) (c : CtxNo) (b : BitVec 42) (f : Obj → Obj) : (s.modObj c b f).weights = s.weights := rfl
@[simp] theorem modObj_awaited (s : State) (c : CtxNo) (b : BitVec 42) (f : Obj → Obj) : (s.modObj c b f).awaited = s.awaited := rfl
@[simp] theorem modObj_library (s : State) (c : CtxNo) (b : BitVec 42) (f : Obj → Obj) : (s.modObj c b f).library = s.library := rfl
@[simp] theorem modObj_serving (s : State) (c : CtxNo) (b : BitVec 42) (f : Obj → Obj) : (s.modObj c b f).serving = s.serving := rfl
@[simp] theorem modObj_flash (s : State) (c : CtxNo) (b : BitVec 42) (f : Obj → Obj) : (s.modObj c b f).flash = s.flash := rfl
@[simp] theorem modObj_fw (s : State) (c : CtxNo) (b : BitVec 42) (f : Obj → Obj) : (s.modObj c b f).fw = s.fw := rfl
@[simp] theorem modObj_recovery (s : State) (c : CtxNo) (b : BitVec 42) (f : Obj → Obj) : (s.modObj c b f).recovery = s.recovery := rfl
@[simp] theorem modObj_supplies (s : State) (c : CtxNo) (b : BitVec 42) (f : Obj → Obj) : (s.modObj c b f).supplies = s.supplies := rfl
@[simp] theorem modObj_rng (s : State) (c : CtxNo) (b : BitVec 42) (f : Obj → Obj) : (s.modObj c b f).rng = s.rng := rfl
@[simp] theorem modObj_tap (s : State) (c : CtxNo) (b : BitVec 42) (f : Obj → Obj) : (s.modObj c b f).tap = s.tap := rfl

/-! ### start -/

@[simp] theorem start_pending (s : State) (q : Req) : (s.start q).pending = s.pending := rfl
@[simp] theorem start_now (s : State) (q : Req) : (s.start q).now = s.now := rfl
@[simp] theorem start_free (s : State) (q : Req) : (s.start q).free = s.free := rfl
@[simp] theorem start_hosts (s : State) (q : Req) : (s.start q).hosts = s.hosts := rfl
@[simp] theorem start_primary (s : State) (q : Req) : (s.start q).primary = s.primary := rfl
@[simp] theorem start_ptns (s : State) (q : Req) : (s.start q).ptns = s.ptns := rfl
@[simp] theorem start_ctxs (s : State) (q : Req) : (s.start q).ctxs = s.ctxs := rfl
@[simp] theorem start_objs (s : State) (q : Req) : (s.start q).objs = s.objs := rfl
@[simp] theorem start_images (s : State) (q : Req) : (s.start q).images = s.images := rfl
@[simp] theorem start_migrations (s : State) (q : Req) : (s.start q).migrations = s.migrations := rfl
@[simp] theorem start_moves (s : State) (q : Req) : (s.start q).moves = s.moves := rfl
@[simp] theorem start_moveNo (s : State) (q : Req) : (s.start q).moveNo = s.moveNo := rfl
@[simp] theorem start_caches (s : State) (q : Req) : (s.start q).caches = s.caches := rfl
@[simp] theorem start_tier1 (s : State) (q : Req) : (s.start q).tier1 = s.tier1 := rfl
@[simp] theorem start_undef (s : State) (q : Req) : (s.start q).undef = s.undef := rfl
@[simp] theorem start_poison (s : State) (q : Req) : (s.start q).poison = s.poison := rfl
@[simp] theorem start_poisonReports (s : State) (q : Req) : (s.start q).poisonReports = s.poisonReports := rfl
@[simp] theorem start_memc (s : State) (q : Req) : (s.start q).memc = s.memc := rfl
@[simp] theorem start_groups (s : State) (q : Req) : (s.start q).groups = s.groups := rfl
@[simp] theorem start_seqs (s : State) (q : Req) : (s.start q).seqs = s.seqs := rfl
@[simp] theorem start_gens (s : State) (q : Req) : (s.start q).gens = s.gens := rfl
@[simp] theorem start_handles (s : State) (q : Req) : (s.start q).handles = s.handles := rfl
@[simp] theorem start_layer (s : State) (q : Req) : (s.start q).layer = s.layer := rfl
@[simp] theorem start_stores (s : State) (q : Req) : (s.start q).stores = s.stores := rfl
@[simp] theorem start_staged (s : State) (q : Req) : (s.start q).staged = s.staged := rfl
@[simp] theorem start_live (s : State) (q : Req) : (s.start q).live = s.live := rfl
@[simp] theorem start_devCommit (s : State) (q : Req) : (s.start q).devCommit = s.devCommit := rfl
@[simp] theorem start_interrupts (s : State) (q : Req) : (s.start q).interrupts = s.interrupts := rfl
@[simp] theorem start_lastRead (s : State) (q : Req) : (s.start q).lastRead = s.lastRead := rfl
@[simp] theorem start_heldWork (s : State) (q : Req) : (s.start q).heldWork = s.heldWork := rfl
@[simp] theorem start_flt (s : State) (q : Req) : (s.start q).flt = s.flt := rfl
@[simp] theorem start_power (s : State) (q : Req) : (s.start q).power = s.power := rfl
@[simp] theorem start_idleSince (s : State) (q : Req) : (s.start q).idleSince = s.idleSince := rfl
@[simp] theorem start_pwr (s : State) (q : Req) : (s.start q).pwr = s.pwr := rfl
@[simp] theorem start_field (s : State) (q : Req) : (s.start q).field = s.field := rfl
@[simp] theorem start_fieldCap (s : State) (q : Req) : (s.start q).fieldCap = s.fieldCap := rfl
@[simp] theorem start_fieldEmerg (s : State) (q : Req) : (s.start q).fieldEmerg = s.fieldEmerg := rfl
@[simp] theorem start_tier1Ready (s : State) (q : Req) : (s.start q).tier1Ready = s.tier1Ready := rfl
@[simp] theorem start_sessions (s : State) (q : Req) : (s.start q).sessions = s.sessions := rfl
@[simp] theorem start_authFail (s : State) (q : Req) : (s.start q).authFail = s.authFail := rfl
@[simp] theorem start_draws (s : State) (q : Req) : (s.start q).draws = s.draws := rfl
@[simp] theorem start_felt (s : State) (q : Req) : (s.start q).felt = s.felt := rfl
@[simp] theorem start_weights (s : State) (q : Req) : (s.start q).weights = s.weights := rfl
@[simp] theorem start_awaited (s : State) (q : Req) : (s.start q).awaited = s.awaited := rfl
@[simp] theorem start_library (s : State) (q : Req) : (s.start q).library = s.library := rfl
@[simp] theorem start_serving (s : State) (q : Req) : (s.start q).serving = s.serving := rfl
@[simp] theorem start_flash (s : State) (q : Req) : (s.start q).flash = s.flash := rfl
@[simp] theorem start_fw (s : State) (q : Req) : (s.start q).fw = s.fw := rfl
@[simp] theorem start_recovery (s : State) (q : Req) : (s.start q).recovery = s.recovery := rfl
@[simp] theorem start_supplies (s : State) (q : Req) : (s.start q).supplies = s.supplies := rfl
@[simp] theorem start_rng (s : State) (q : Req) : (s.start q).rng = s.rng := rfl
@[simp] theorem start_tap (s : State) (q : Req) : (s.start q).tap = s.tap := rfl

/-! ### modPtn -/

@[simp] theorem modPtn_pending (s : State) (p : Nat) (g : Partition → Partition) : (s.modPtn p g).pending = s.pending := by
  unfold modPtn; split <;> rfl
@[simp] theorem modPtn_now (s : State) (p : Nat) (g : Partition → Partition) : (s.modPtn p g).now = s.now := by
  unfold modPtn; split <;> rfl
@[simp] theorem modPtn_free (s : State) (p : Nat) (g : Partition → Partition) : (s.modPtn p g).free = s.free := by
  unfold modPtn; split <;> rfl
@[simp] theorem modPtn_hosts (s : State) (p : Nat) (g : Partition → Partition) : (s.modPtn p g).hosts = s.hosts := by
  unfold modPtn; split <;> rfl
@[simp] theorem modPtn_primary (s : State) (p : Nat) (g : Partition → Partition) : (s.modPtn p g).primary = s.primary := by
  unfold modPtn; split <;> rfl
@[simp] theorem modPtn_ctxs (s : State) (p : Nat) (g : Partition → Partition) : (s.modPtn p g).ctxs = s.ctxs := by
  unfold modPtn; split <;> rfl
@[simp] theorem modPtn_accepted (s : State) (p : Nat) (g : Partition → Partition) : (s.modPtn p g).accepted = s.accepted := by
  unfold modPtn; split <;> rfl
@[simp] theorem modPtn_objs (s : State) (p : Nat) (g : Partition → Partition) : (s.modPtn p g).objs = s.objs := by
  unfold modPtn; split <;> rfl
@[simp] theorem modPtn_images (s : State) (p : Nat) (g : Partition → Partition) : (s.modPtn p g).images = s.images := by
  unfold modPtn; split <;> rfl
@[simp] theorem modPtn_migrations (s : State) (p : Nat) (g : Partition → Partition) : (s.modPtn p g).migrations = s.migrations := by
  unfold modPtn; split <;> rfl
@[simp] theorem modPtn_moves (s : State) (p : Nat) (g : Partition → Partition) : (s.modPtn p g).moves = s.moves := by
  unfold modPtn; split <;> rfl
@[simp] theorem modPtn_moveNo (s : State) (p : Nat) (g : Partition → Partition) : (s.modPtn p g).moveNo = s.moveNo := by
  unfold modPtn; split <;> rfl
@[simp] theorem modPtn_caches (s : State) (p : Nat) (g : Partition → Partition) : (s.modPtn p g).caches = s.caches := by
  unfold modPtn; split <;> rfl
@[simp] theorem modPtn_tier1 (s : State) (p : Nat) (g : Partition → Partition) : (s.modPtn p g).tier1 = s.tier1 := by
  unfold modPtn; split <;> rfl
@[simp] theorem modPtn_undef (s : State) (p : Nat) (g : Partition → Partition) : (s.modPtn p g).undef = s.undef := by
  unfold modPtn; split <;> rfl
@[simp] theorem modPtn_poison (s : State) (p : Nat) (g : Partition → Partition) : (s.modPtn p g).poison = s.poison := by
  unfold modPtn; split <;> rfl
@[simp] theorem modPtn_poisonReports (s : State) (p : Nat) (g : Partition → Partition) : (s.modPtn p g).poisonReports = s.poisonReports := by
  unfold modPtn; split <;> rfl
@[simp] theorem modPtn_memc (s : State) (p : Nat) (g : Partition → Partition) : (s.modPtn p g).memc = s.memc := by
  unfold modPtn; split <;> rfl
@[simp] theorem modPtn_groups (s : State) (p : Nat) (g : Partition → Partition) : (s.modPtn p g).groups = s.groups := by
  unfold modPtn; split <;> rfl
@[simp] theorem modPtn_seqs (s : State) (p : Nat) (g : Partition → Partition) : (s.modPtn p g).seqs = s.seqs := by
  unfold modPtn; split <;> rfl
@[simp] theorem modPtn_gens (s : State) (p : Nat) (g : Partition → Partition) : (s.modPtn p g).gens = s.gens := by
  unfold modPtn; split <;> rfl
@[simp] theorem modPtn_handles (s : State) (p : Nat) (g : Partition → Partition) : (s.modPtn p g).handles = s.handles := by
  unfold modPtn; split <;> rfl
@[simp] theorem modPtn_layer (s : State) (p : Nat) (g : Partition → Partition) : (s.modPtn p g).layer = s.layer := by
  unfold modPtn; split <;> rfl
@[simp] theorem modPtn_stores (s : State) (p : Nat) (g : Partition → Partition) : (s.modPtn p g).stores = s.stores := by
  unfold modPtn; split <;> rfl
@[simp] theorem modPtn_staged (s : State) (p : Nat) (g : Partition → Partition) : (s.modPtn p g).staged = s.staged := by
  unfold modPtn; split <;> rfl
@[simp] theorem modPtn_live (s : State) (p : Nat) (g : Partition → Partition) : (s.modPtn p g).live = s.live := by
  unfold modPtn; split <;> rfl
@[simp] theorem modPtn_devCommit (s : State) (p : Nat) (g : Partition → Partition) : (s.modPtn p g).devCommit = s.devCommit := by
  unfold modPtn; split <;> rfl
@[simp] theorem modPtn_interrupts (s : State) (p : Nat) (g : Partition → Partition) : (s.modPtn p g).interrupts = s.interrupts := by
  unfold modPtn; split <;> rfl
@[simp] theorem modPtn_lastRead (s : State) (p : Nat) (g : Partition → Partition) : (s.modPtn p g).lastRead = s.lastRead := by
  unfold modPtn; split <;> rfl
@[simp] theorem modPtn_heldWork (s : State) (p : Nat) (g : Partition → Partition) : (s.modPtn p g).heldWork = s.heldWork := by
  unfold modPtn; split <;> rfl
@[simp] theorem modPtn_flt (s : State) (p : Nat) (g : Partition → Partition) : (s.modPtn p g).flt = s.flt := by
  unfold modPtn; split <;> rfl
@[simp] theorem modPtn_power (s : State) (p : Nat) (g : Partition → Partition) : (s.modPtn p g).power = s.power := by
  unfold modPtn; split <;> rfl
@[simp] theorem modPtn_idleSince (s : State) (p : Nat) (g : Partition → Partition) : (s.modPtn p g).idleSince = s.idleSince := by
  unfold modPtn; split <;> rfl
@[simp] theorem modPtn_pwr (s : State) (p : Nat) (g : Partition → Partition) : (s.modPtn p g).pwr = s.pwr := by
  unfold modPtn; split <;> rfl
@[simp] theorem modPtn_field (s : State) (p : Nat) (g : Partition → Partition) : (s.modPtn p g).field = s.field := by
  unfold modPtn; split <;> rfl
@[simp] theorem modPtn_fieldCap (s : State) (p : Nat) (g : Partition → Partition) : (s.modPtn p g).fieldCap = s.fieldCap := by
  unfold modPtn; split <;> rfl
@[simp] theorem modPtn_fieldEmerg (s : State) (p : Nat) (g : Partition → Partition) : (s.modPtn p g).fieldEmerg = s.fieldEmerg := by
  unfold modPtn; split <;> rfl
@[simp] theorem modPtn_tier1Ready (s : State) (p : Nat) (g : Partition → Partition) : (s.modPtn p g).tier1Ready = s.tier1Ready := by
  unfold modPtn; split <;> rfl
@[simp] theorem modPtn_sessions (s : State) (p : Nat) (g : Partition → Partition) : (s.modPtn p g).sessions = s.sessions := by
  unfold modPtn; split <;> rfl
@[simp] theorem modPtn_authFail (s : State) (p : Nat) (g : Partition → Partition) : (s.modPtn p g).authFail = s.authFail := by
  unfold modPtn; split <;> rfl
@[simp] theorem modPtn_draws (s : State) (p : Nat) (g : Partition → Partition) : (s.modPtn p g).draws = s.draws := by
  unfold modPtn; split <;> rfl
@[simp] theorem modPtn_felt (s : State) (p : Nat) (g : Partition → Partition) : (s.modPtn p g).felt = s.felt := by
  unfold modPtn; split <;> rfl
@[simp] theorem modPtn_weights (s : State) (p : Nat) (g : Partition → Partition) : (s.modPtn p g).weights = s.weights := by
  unfold modPtn; split <;> rfl
@[simp] theorem modPtn_awaited (s : State) (p : Nat) (g : Partition → Partition) : (s.modPtn p g).awaited = s.awaited := by
  unfold modPtn; split <;> rfl
@[simp] theorem modPtn_library (s : State) (p : Nat) (g : Partition → Partition) : (s.modPtn p g).library = s.library := by
  unfold modPtn; split <;> rfl
@[simp] theorem modPtn_serving (s : State) (p : Nat) (g : Partition → Partition) : (s.modPtn p g).serving = s.serving := by
  unfold modPtn; split <;> rfl
@[simp] theorem modPtn_flash (s : State) (p : Nat) (g : Partition → Partition) : (s.modPtn p g).flash = s.flash := by
  unfold modPtn; split <;> rfl
@[simp] theorem modPtn_fw (s : State) (p : Nat) (g : Partition → Partition) : (s.modPtn p g).fw = s.fw := by
  unfold modPtn; split <;> rfl
@[simp] theorem modPtn_recovery (s : State) (p : Nat) (g : Partition → Partition) : (s.modPtn p g).recovery = s.recovery := by
  unfold modPtn; split <;> rfl
@[simp] theorem modPtn_supplies (s : State) (p : Nat) (g : Partition → Partition) : (s.modPtn p g).supplies = s.supplies := by
  unfold modPtn; split <;> rfl
@[simp] theorem modPtn_rng (s : State) (p : Nat) (g : Partition → Partition) : (s.modPtn p g).rng = s.rng := by
  unfold modPtn; split <;> rfl
@[simp] theorem modPtn_tap (s : State) (p : Nat) (g : Partition → Partition) : (s.modPtn p g).tap = s.tap := by
  unfold modPtn; split <;> rfl

/-! ### count and events -/

@[simp] theorem count_pending (s : State) (c : CtxNo) (i k : Nat) : (s.count c i k).pending = s.pending := rfl
@[simp] theorem count_now (s : State) (c : CtxNo) (i k : Nat) : (s.count c i k).now = s.now := rfl
@[simp] theorem count_free (s : State) (c : CtxNo) (i k : Nat) : (s.count c i k).free = s.free := rfl
@[simp] theorem count_hosts (s : State) (c : CtxNo) (i k : Nat) : (s.count c i k).hosts = s.hosts := rfl
@[simp] theorem count_primary (s : State) (c : CtxNo) (i k : Nat) : (s.count c i k).primary = s.primary := rfl
@[simp] theorem count_ptns (s : State) (c : CtxNo) (i k : Nat) : (s.count c i k).ptns = s.ptns := rfl
@[simp] theorem count_accepted (s : State) (c : CtxNo) (i k : Nat) : (s.count c i k).accepted = s.accepted := rfl
@[simp] theorem count_objs (s : State) (c : CtxNo) (i k : Nat) : (s.count c i k).objs = s.objs := rfl
@[simp] theorem count_images (s : State) (c : CtxNo) (i k : Nat) : (s.count c i k).images = s.images := rfl
@[simp] theorem count_migrations (s : State) (c : CtxNo) (i k : Nat) : (s.count c i k).migrations = s.migrations := rfl
@[simp] theorem count_moves (s : State) (c : CtxNo) (i k : Nat) : (s.count c i k).moves = s.moves := rfl
@[simp] theorem count_moveNo (s : State) (c : CtxNo) (i k : Nat) : (s.count c i k).moveNo = s.moveNo := rfl
@[simp] theorem count_caches (s : State) (c : CtxNo) (i k : Nat) : (s.count c i k).caches = s.caches := rfl
@[simp] theorem count_tier1 (s : State) (c : CtxNo) (i k : Nat) : (s.count c i k).tier1 = s.tier1 := rfl
@[simp] theorem count_undef (s : State) (c : CtxNo) (i k : Nat) : (s.count c i k).undef = s.undef := rfl
@[simp] theorem count_poison (s : State) (c : CtxNo) (i k : Nat) : (s.count c i k).poison = s.poison := rfl
@[simp] theorem count_poisonReports (s : State) (c : CtxNo) (i k : Nat) : (s.count c i k).poisonReports = s.poisonReports := rfl
@[simp] theorem count_memc (s : State) (c : CtxNo) (i k : Nat) : (s.count c i k).memc = s.memc := rfl
@[simp] theorem count_groups (s : State) (c : CtxNo) (i k : Nat) : (s.count c i k).groups = s.groups := rfl
@[simp] theorem count_seqs (s : State) (c : CtxNo) (i k : Nat) : (s.count c i k).seqs = s.seqs := rfl
@[simp] theorem count_gens (s : State) (c : CtxNo) (i k : Nat) : (s.count c i k).gens = s.gens := rfl
@[simp] theorem count_handles (s : State) (c : CtxNo) (i k : Nat) : (s.count c i k).handles = s.handles := rfl
@[simp] theorem count_layer (s : State) (c : CtxNo) (i k : Nat) : (s.count c i k).layer = s.layer := rfl
@[simp] theorem count_stores (s : State) (c : CtxNo) (i k : Nat) : (s.count c i k).stores = s.stores := rfl
@[simp] theorem count_staged (s : State) (c : CtxNo) (i k : Nat) : (s.count c i k).staged = s.staged := rfl
@[simp] theorem count_live (s : State) (c : CtxNo) (i k : Nat) : (s.count c i k).live = s.live := rfl
@[simp] theorem count_devCommit (s : State) (c : CtxNo) (i k : Nat) : (s.count c i k).devCommit = s.devCommit := rfl
@[simp] theorem count_interrupts (s : State) (c : CtxNo) (i k : Nat) : (s.count c i k).interrupts = s.interrupts := rfl
@[simp] theorem count_lastRead (s : State) (c : CtxNo) (i k : Nat) : (s.count c i k).lastRead = s.lastRead := rfl
@[simp] theorem count_heldWork (s : State) (c : CtxNo) (i k : Nat) : (s.count c i k).heldWork = s.heldWork := rfl
@[simp] theorem count_flt (s : State) (c : CtxNo) (i k : Nat) : (s.count c i k).flt = s.flt := rfl
@[simp] theorem count_power (s : State) (c : CtxNo) (i k : Nat) : (s.count c i k).power = s.power := rfl
@[simp] theorem count_idleSince (s : State) (c : CtxNo) (i k : Nat) : (s.count c i k).idleSince = s.idleSince := rfl
@[simp] theorem count_pwr (s : State) (c : CtxNo) (i k : Nat) : (s.count c i k).pwr = s.pwr := rfl
@[simp] theorem count_field (s : State) (c : CtxNo) (i k : Nat) : (s.count c i k).field = s.field := rfl
@[simp] theorem count_fieldCap (s : State) (c : CtxNo) (i k : Nat) : (s.count c i k).fieldCap = s.fieldCap := rfl
@[simp] theorem count_fieldEmerg (s : State) (c : CtxNo) (i k : Nat) : (s.count c i k).fieldEmerg = s.fieldEmerg := rfl
@[simp] theorem count_tier1Ready (s : State) (c : CtxNo) (i k : Nat) : (s.count c i k).tier1Ready = s.tier1Ready := rfl
@[simp] theorem count_sessions (s : State) (c : CtxNo) (i k : Nat) : (s.count c i k).sessions = s.sessions := rfl
@[simp] theorem count_authFail (s : State) (c : CtxNo) (i k : Nat) : (s.count c i k).authFail = s.authFail := rfl
@[simp] theorem count_draws (s : State) (c : CtxNo) (i k : Nat) : (s.count c i k).draws = s.draws := rfl
@[simp] theorem count_felt (s : State) (c : CtxNo) (i k : Nat) : (s.count c i k).felt = s.felt := rfl
@[simp] theorem count_weights (s : State) (c : CtxNo) (i k : Nat) : (s.count c i k).weights = s.weights := rfl
@[simp] theorem count_awaited (s : State) (c : CtxNo) (i k : Nat) : (s.count c i k).awaited = s.awaited := rfl
@[simp] theorem count_library (s : State) (c : CtxNo) (i k : Nat) : (s.count c i k).library = s.library := rfl
@[simp] theorem count_serving (s : State) (c : CtxNo) (i k : Nat) : (s.count c i k).serving = s.serving := rfl
@[simp] theorem count_flash (s : State) (c : CtxNo) (i k : Nat) : (s.count c i k).flash = s.flash := rfl
@[simp] theorem count_fw (s : State) (c : CtxNo) (i k : Nat) : (s.count c i k).fw = s.fw := rfl
@[simp] theorem count_recovery (s : State) (c : CtxNo) (i k : Nat) : (s.count c i k).recovery = s.recovery := rfl
@[simp] theorem count_supplies (s : State) (c : CtxNo) (i k : Nat) : (s.count c i k).supplies = s.supplies := rfl
@[simp] theorem count_rng (s : State) (c : CtxNo) (i k : Nat) : (s.count c i k).rng = s.rng := rfl
@[simp] theorem count_tap (s : State) (c : CtxNo) (i k : Nat) : (s.count c i k).tap = s.tap := rfl
@[simp] theorem event_pending (s : State) (r : Ring) (k a b c : Nat) : (s.event r k a b c).pending = s.pending := by
  cases r <;> rfl
@[simp] theorem event_now (s : State) (r : Ring) (k a b c : Nat) : (s.event r k a b c).now = s.now := by
  cases r <;> rfl
@[simp] theorem event_free (s : State) (r : Ring) (k a b c : Nat) : (s.event r k a b c).free = s.free := by
  cases r <;> rfl
@[simp] theorem event_primary (s : State) (r : Ring) (k a b c : Nat) : (s.event r k a b c).primary = s.primary := by
  cases r <;> rfl
@[simp] theorem event_ptns (s : State) (r : Ring) (k a b c : Nat) : (s.event r k a b c).ptns = s.ptns := by
  cases r <;> rfl
@[simp] theorem event_accepted (s : State) (r : Ring) (k a b c : Nat) : (s.event r k a b c).accepted = s.accepted := by
  cases r <;> rfl
@[simp] theorem event_objs (s : State) (r : Ring) (k a b c : Nat) : (s.event r k a b c).objs = s.objs := by
  cases r <;> rfl
@[simp] theorem event_images (s : State) (r : Ring) (k a b c : Nat) : (s.event r k a b c).images = s.images := by
  cases r <;> rfl
@[simp] theorem event_migrations (s : State) (r : Ring) (k a b c : Nat) : (s.event r k a b c).migrations = s.migrations := by
  cases r <;> rfl
@[simp] theorem event_moves (s : State) (r : Ring) (k a b c : Nat) : (s.event r k a b c).moves = s.moves := by
  cases r <;> rfl
@[simp] theorem event_moveNo (s : State) (r : Ring) (k a b c : Nat) : (s.event r k a b c).moveNo = s.moveNo := by
  cases r <;> rfl
@[simp] theorem event_caches (s : State) (r : Ring) (k a b c : Nat) : (s.event r k a b c).caches = s.caches := by
  cases r <;> rfl
@[simp] theorem event_tier1 (s : State) (r : Ring) (k a b c : Nat) : (s.event r k a b c).tier1 = s.tier1 := by
  cases r <;> rfl
@[simp] theorem event_undef (s : State) (r : Ring) (k a b c : Nat) : (s.event r k a b c).undef = s.undef := by
  cases r <;> rfl
@[simp] theorem event_poison (s : State) (r : Ring) (k a b c : Nat) : (s.event r k a b c).poison = s.poison := by
  cases r <;> rfl
@[simp] theorem event_poisonReports (s : State) (r : Ring) (k a b c : Nat) : (s.event r k a b c).poisonReports = s.poisonReports := by
  cases r <;> rfl
@[simp] theorem event_memc (s : State) (r : Ring) (k a b c : Nat) : (s.event r k a b c).memc = s.memc := by
  cases r <;> rfl
@[simp] theorem event_groups (s : State) (r : Ring) (k a b c : Nat) : (s.event r k a b c).groups = s.groups := by
  cases r <;> rfl
@[simp] theorem event_seqs (s : State) (r : Ring) (k a b c : Nat) : (s.event r k a b c).seqs = s.seqs := by
  cases r <;> rfl
@[simp] theorem event_gens (s : State) (r : Ring) (k a b c : Nat) : (s.event r k a b c).gens = s.gens := by
  cases r <;> rfl
@[simp] theorem event_handles (s : State) (r : Ring) (k a b c : Nat) : (s.event r k a b c).handles = s.handles := by
  cases r <;> rfl
@[simp] theorem event_layer (s : State) (r : Ring) (k a b c : Nat) : (s.event r k a b c).layer = s.layer := by
  cases r <;> rfl
@[simp] theorem event_stores (s : State) (r : Ring) (k a b c : Nat) : (s.event r k a b c).stores = s.stores := by
  cases r <;> rfl
@[simp] theorem event_staged (s : State) (r : Ring) (k a b c : Nat) : (s.event r k a b c).staged = s.staged := by
  cases r <;> rfl
@[simp] theorem event_live (s : State) (r : Ring) (k a b c : Nat) : (s.event r k a b c).live = s.live := by
  cases r <;> rfl
@[simp] theorem event_devCommit (s : State) (r : Ring) (k a b c : Nat) : (s.event r k a b c).devCommit = s.devCommit := by
  cases r <;> rfl
@[simp] theorem event_interrupts (s : State) (r : Ring) (k a b c : Nat) : (s.event r k a b c).interrupts = s.interrupts := by
  cases r <;> rfl
@[simp] theorem event_lastRead (s : State) (r : Ring) (k a b c : Nat) : (s.event r k a b c).lastRead = s.lastRead := by
  cases r <;> rfl
@[simp] theorem event_heldWork (s : State) (r : Ring) (k a b c : Nat) : (s.event r k a b c).heldWork = s.heldWork := by
  cases r <;> rfl
@[simp] theorem event_flt (s : State) (r : Ring) (k a b c : Nat) : (s.event r k a b c).flt = s.flt := by
  cases r <;> rfl
@[simp] theorem event_power (s : State) (r : Ring) (k a b c : Nat) : (s.event r k a b c).power = s.power := by
  cases r <;> rfl
@[simp] theorem event_idleSince (s : State) (r : Ring) (k a b c : Nat) : (s.event r k a b c).idleSince = s.idleSince := by
  cases r <;> rfl
@[simp] theorem event_pwr (s : State) (r : Ring) (k a b c : Nat) : (s.event r k a b c).pwr = s.pwr := by
  cases r <;> rfl
@[simp] theorem event_field (s : State) (r : Ring) (k a b c : Nat) : (s.event r k a b c).field = s.field := by
  cases r <;> rfl
@[simp] theorem event_fieldCap (s : State) (r : Ring) (k a b c : Nat) : (s.event r k a b c).fieldCap = s.fieldCap := by
  cases r <;> rfl
@[simp] theorem event_fieldEmerg (s : State) (r : Ring) (k a b c : Nat) : (s.event r k a b c).fieldEmerg = s.fieldEmerg := by
  cases r <;> rfl
@[simp] theorem event_tier1Ready (s : State) (r : Ring) (k a b c : Nat) : (s.event r k a b c).tier1Ready = s.tier1Ready := by
  cases r <;> rfl
@[simp] theorem event_sessions (s : State) (r : Ring) (k a b c : Nat) : (s.event r k a b c).sessions = s.sessions := by
  cases r <;> rfl
@[simp] theorem event_authFail (s : State) (r : Ring) (k a b c : Nat) : (s.event r k a b c).authFail = s.authFail := by
  cases r <;> rfl
@[simp] theorem event_draws (s : State) (r : Ring) (k a b c : Nat) : (s.event r k a b c).draws = s.draws := by
  cases r <;> rfl
@[simp] theorem event_felt (s : State) (r : Ring) (k a b c : Nat) : (s.event r k a b c).felt = s.felt := by
  cases r <;> rfl
@[simp] theorem event_weights (s : State) (r : Ring) (k a b c : Nat) : (s.event r k a b c).weights = s.weights := by
  cases r <;> rfl
@[simp] theorem event_awaited (s : State) (r : Ring) (k a b c : Nat) : (s.event r k a b c).awaited = s.awaited := by
  cases r <;> rfl
@[simp] theorem event_library (s : State) (r : Ring) (k a b c : Nat) : (s.event r k a b c).library = s.library := by
  cases r <;> rfl
@[simp] theorem event_serving (s : State) (r : Ring) (k a b c : Nat) : (s.event r k a b c).serving = s.serving := by
  cases r <;> rfl
@[simp] theorem event_flash (s : State) (r : Ring) (k a b c : Nat) : (s.event r k a b c).flash = s.flash := by
  cases r <;> rfl
@[simp] theorem event_fw (s : State) (r : Ring) (k a b c : Nat) : (s.event r k a b c).fw = s.fw := by
  cases r <;> rfl
@[simp] theorem event_recovery (s : State) (r : Ring) (k a b c : Nat) : (s.event r k a b c).recovery = s.recovery := by
  cases r <;> rfl
@[simp] theorem event_supplies (s : State) (r : Ring) (k a b c : Nat) : (s.event r k a b c).supplies = s.supplies := by
  cases r <;> rfl
@[simp] theorem event_rng (s : State) (r : Ring) (k a b c : Nat) : (s.event r k a b c).rng = s.rng := by
  cases r <;> rfl
@[simp] theorem event_tap (s : State) (r : Ring) (k a b c : Nat) : (s.event r k a b c).tap = s.tap := by
  cases r <;> rfl

end Sys2Proof.Machine.State
end

