-- ==== Sys2Proof/Laws/Ops.lean ====
section
/-! SUPPORT. What the shared operations can do: the start and the completion of a ring command, interrupts, events and
entries. -/

namespace Sys2Proof.Machine

/-! ### The start of a ring command -/

/-- A runnable command whose body is done completes. -/
theorem runCommand_done {i : Instr} {q : Req} {s t : State} {body : State → Req → Ran} {st r0 r1 : Nat}
    (h : Runnable i q s) (hb : body (s.start q) q = .done t st r0 r1) : runCommand i s body = t.finish q st r0 r1 := by
  obtain ⟨a, ha, rfl, ho⟩ := h
  simp only [runCommand, ha, ho, hb, if_true]

/-- A runnable command whose body goes on has started. -/
theorem runCommand_goesOn {i : Instr} {q : Req} {s t : State} {body : State → Req → Ran}
    (h : Runnable i q s) (hb : body (s.start q) q = .goesOn t) : runCommand i s body = t := by
  obtain ⟨a, ha, rfl, ho⟩ := h
  simp only [runCommand, ha, ho, hb, if_true]

/-- A runnable command whose body waits changes nothing yet. -/
theorem runCommand_waits {i : Instr} {q : Req} {s : State} {body : State → Req → Ran}
    (h : Runnable i q s) (hb : body (s.start q) q = .waits) : runCommand i s body = s := by
  obtain ⟨a, ha, rfl, ho⟩ := h
  simp only [runCommand, ha, ho, hb, if_true]

/-- A runnable command whose body has begun work that it waits for may run again. -/
theorem runCommand_again {i : Instr} {q : Req} {s t : State} {body : State → Req → Ran}
    (h : Runnable i q s) (hb : body (s.start q) q = .again t) : runCommand i s body = t.resume q := by
  obtain ⟨a, ha, rfl, ho⟩ := h
  simp only [runCommand, ha, ho, hb, if_true]

/-- A command that is not among the accepted ones, or that has started, changes nothing. -/
theorem runCommand_absent {i : Instr} {s : State} {body : State → Req → Ran} (h : s.startable i = none) :
    runCommand i s body = s := by
  simp only [runCommand, h]

/-- A command alone in its device's rings is runnable while no core restarts. -/
theorem runnable_alone {i : Instr} {s : State} {a : Accepted} (hs : s.accepted = [a]) (hi : a.cmd = i)
    (hn : a.started = false) (hf : s.felt.unacked = []) (hr : s.flt.restarting = []) : Runnable i a.q s := by
  subst hi
  refine ⟨a, ?_, rfl, ?_⟩
  · simp [State.startable, hs, hn]
  · have hc : s.coresRun a = true := by unfold State.coresRun; split <;> simp [hr]
    simp [State.orderAllows, State.feltHolds, hc, hf, hs, before]

@[simp] theorem ptn?_start (s : State) (q : Req) (p : Nat) : (s.start q).ptn? p = s.ptn? p := rfl
@[simp] theorem ctx?_start (s : State) (q : Req) (c : CtxNo) : (s.start q).ctx? c = s.ctx? c := rfl
@[simp] theorem host_start (s : State) (q : Req) (h : Fin 2) : (s.start q).host h = s.host h := rfl
@[simp] theorem obj?_start (s : State) (q : Req) (c : CtxNo) (b : BitVec 42) : (s.start q).obj? c b = s.obj? c b := rfl
@[simp] theorem owner_start (s : State) (q : Req) (p : Nat) : (s.start q).owner p = s.owner p := rfl
@[simp] theorem ringPort_start (s : State) (q : Req) (r : Ring) : (s.start q).ringPort r = s.ringPort r := by
  cases r <;> rfl
@[simp] theorem readTier_start (s : State) (q : Req) (t c off n : Nat) :
    (s.start q).readTier t c off n = s.readTier t c off n := rfl
@[simp] theorem readUnits_start (s : State) (q : Req) (n : Nat) (us : List (Nat × Nat)) :
    (s.start q).readUnits n us = s.readUnits n us := by
  induction us generalizing n with
  | nil => rfl
  | cons u us ih => simp only [State.readUnits, ih, readTier_start]
@[simp] theorem sample?_start (s : State) (q : Req) (p : Nat) (r : BitVec 16) : (s.start q).sample? p r = s.sample? p r := by
  simp only [State.sample?, ptn?_start, readUnits_start]
@[simp] theorem ring?_start (s : State) (q : Req) (r : Ring) : (s.start q).ring? r = s.ring? r := by
  cases r <;> rfl

/-! ### Frames of the shared operations -/

/-- An interrupt changes a port's pending bits or the interrupts sent, nothing else. -/
theorem State.interrupt_shape (s : State) (h : Fin 2) (v : BitVec 16) :
    ∃ hs ints, s.interrupt h v = { s with hosts := hs, interrupts := ints } := by
  unfold State.interrupt
  split
  · exact ⟨s.hosts, s.interrupts, rfl⟩
  · split
    · exact ⟨_, s.interrupts, rfl⟩
    · exact ⟨s.hosts, _, rfl⟩

/-- The interrupt of a ring, likewise. -/
theorem State.ringInterrupt_shape (s : State) (r : Ring) (v : BitVec 16) :
    ∃ hs ints, s.ringInterrupt r v = { s with hosts := hs, interrupts := ints } := by
  unfold State.ringInterrupt
  split
  · exact State.interrupt_shape s _ v
  · exact ⟨s.hosts, s.interrupts, rfl⟩

/-- A ring pair's change reaches the hosts or the contexts alone. -/
theorem State.modRing_shape (s : State) (r : Ring) (f : RingPair → RingPair) :
    ∃ hs cs, s.modRing r f = { s with hosts := hs, ctxs := cs } := by
  cases r
  · exact ⟨_, s.ctxs, rfl⟩
  · exact ⟨s.hosts, _, rfl⟩

/-- An event changes the buffer of its ring alone. -/
theorem State.event_shape (s : State) (r : Ring) (code a0 a1 a2 : Nat) :
    ∃ hs cs, s.event r code a0 a1 a2 = { s with hosts := hs, ctxs := cs } := by
  cases r
  · exact ⟨_, s.ctxs, rfl⟩
  · exact ⟨s.hosts, _, rfl⟩

/-- A write of a ring's memory: that of a host ring lies in the host side, that of a context in its ring object. -/
theorem State.writeRing_shape (s : State) (r : Ring) (off : Nat) (bs : List Byte) :
    ∃ hs m l p, s.writeRing r off bs = { s with hosts := hs, tier1 := m, layer := l, poison := p } ∧
      (s.tier1.wf = true → m.wf = true) ∧ (s.layer.wf = true → l.wf = true) := by
  cases r with
  | host h => exact ⟨_, s.tier1, s.layer, s.poison, rfl, id, id⟩
  | ctx c =>
    simp only [State.writeRing]
    split
    · exact ⟨s.hosts, s.tier1, s.layer, s.poison, rfl, id, id⟩
    · split
      · exact ⟨s.hosts, s.tier1, s.layer, s.poison, rfl, id, id⟩
      · split
        · exact ⟨s.hosts, s.tier1, s.layer, s.poison, rfl, id, id⟩
        · rename_i o _ _
          obtain ⟨m, l, p, e, hm, hl⟩ := State.writeObj_shape s o off bs
          exact ⟨s.hosts, m, l, p, e, hm, hl⟩

/-- A write to a host's memory changes that memory alone, and only while the host is attached. -/
theorem State.writeHost_shape (s : State) (h : Fin 2) (a : Nat) (bs : List Byte) :
    s.writeHost h a bs = s ∨ s.writeHost h a bs = s.modHost h fun x => { x with mem := Mem.write x.mem a bs } := by
  unfold State.writeHost
  split
  · exact .inr rfl
  · exact .inl rfl

/-- The mirror of an entry reaches host memory alone. -/
theorem State.mirrorEntry_shape (s : State) (r : Ring) (rp : RingPair) (bs : List Byte) :
    ∃ hs, s.mirrorEntry r rp bs = { s with hosts := hs } := by
  unfold State.mirrorEntry
  split
  · rename_i m h _ _
    rcases State.writeHost_shape s h (m.toNat + 32 * (rp.cqTail.toNat % rp.n)) bs with e | e
    · exact ⟨s.hosts, e⟩
    · exact ⟨_, e⟩
  · exact ⟨s.hosts, rfl⟩

/-- What the writing of an entry can do. -/
theorem State.writeEntry_shape (s : State) (r : Ring) (body : Nat) (raise : Bool) :
    ∃ hs cs m l p ints, s.writeEntry r body raise =
        { s with hosts := hs, ctxs := cs, tier1 := m, layer := l, poison := p, interrupts := ints } ∧
      (s.tier1.wf = true → m.wf = true) ∧ (s.layer.wf = true → l.wf = true) := by
  unfold State.writeEntry
  split
  · exact ⟨s.hosts, s.ctxs, s.tier1, s.layer, s.poison, s.interrupts, rfl, id, id⟩
  · rename_i rp _
    obtain ⟨h1, m, l, p, e1, hm, hl⟩ := State.writeRing_shape s r (rp.cqOffset (rp.cqTail.toNat % rp.n))
      (Bits.toBytes 32 (body + rp.phase * 2 ^ 52))
    obtain ⟨h2, e2⟩ := State.mirrorEntry_shape (s.writeRing r (rp.cqOffset (rp.cqTail.toNat % rp.n))
      (Bits.toBytes 32 (body + rp.phase * 2 ^ 52))) r rp (Bits.toBytes 32 (body + rp.phase * 2 ^ 52))
    generalize hx : (s.writeRing r (rp.cqOffset (rp.cqTail.toNat % rp.n))
      (Bits.toBytes 32 (body + rp.phase * 2 ^ 52))).mirrorEntry r rp
        (Bits.toBytes 32 (body + rp.phase * 2 ^ 52)) = x at e2
    obtain ⟨h3, c3, e3⟩ := State.modRing_shape x r fun x => { x with cqTail := x.cqTail + 1 }
    obtain ⟨h4, i4, e4⟩ := State.ringInterrupt_shape (x.modRing r fun x => { x with cqTail := x.cqTail + 1 }) r rp.vector
    rw [e1] at e2
    subst e2
    split
    · refine ⟨h4, c3, m, l, p, i4, ?_, hm, hl⟩
      dsimp only
      rw [hx, e4, e3]
    · refine ⟨h3, c3, m, l, p, s.interrupts, ?_, hm, hl⟩
      dsimp only
      rw [hx, e3]

/-- A counter record lies in its ring. -/
theorem State.counterRecord_shape (s : State) (q : Req) (latch : List (BitVec 64)) :
    ∃ hs m l p, s.counterRecord q latch = { s with hosts := hs, tier1 := m, layer := l, poison := p } ∧
      (s.tier1.wf = true → m.wf = true) ∧ (s.layer.wf = true → l.wf = true) := by
  unfold State.counterRecord
  split
  · exact State.writeRing_shape s _ _ _
  · exact ⟨s.hosts, s.tier1, s.layer, s.poison, rfl, id, id⟩

/-- What the completion of a packet can do. -/
theorem State.complete_shape (s : State) (q : Req) (op since : Nat) (latch : List (BitVec 64)) (st r0 r1 : Nat) :
    ∃ hs cs m l p ints, s.complete q op since latch st r0 r1 =
        { s with hosts := hs, ctxs := cs, tier1 := m, layer := l, poison := p, interrupts := ints, idleSince := s.now } ∧
      (s.tier1.wf = true → m.wf = true) ∧ (s.layer.wf = true → l.wf = true) := by
  unfold State.complete
  obtain ⟨h2, m, l, p, e, hm, hl⟩ := State.counterRecord_shape s q latch
  obtain ⟨h3, c3, m3, l3, p3, i3, e3, hm3, hl3⟩ := State.writeEntry_shape (s.counterRecord q latch) q.ring
    (completionBody q.ring q.tag.toNat op st r0 r1 (s.now - since) q.counters) q.notify
  rw [e3, e]
  rw [e] at hm3 hl3
  exact ⟨h3, c3, m3, l3, p3, i3, rfl, fun h => hm3 (hm h), fun h => hl3 (hl h)⟩

/-- What the completion of an accepted command can do. -/
theorem State.finish_shape (s : State) (q : Req) (st r0 r1 : Nat) :
    ∃ hs cs ac m l p ints t, s.finish q st r0 r1 =
        { s with hosts := hs, ctxs := cs, accepted := ac, tier1 := m, layer := l, poison := p, interrupts := ints, idleSince := t } ∧
      (s.tier1.wf = true → m.wf = true) ∧ (s.layer.wf = true → l.wf = true) := by
  unfold State.finish
  split
  · exact ⟨s.hosts, s.ctxs, s.accepted, s.tier1, s.layer, s.poison, s.interrupts, s.idleSince, rfl, id, id⟩
  · split
    · exact ⟨s.hosts, s.ctxs, _, s.tier1, s.layer, s.poison, s.interrupts, s.now, rfl, id, id⟩
    · rename_i a _ _
      obtain ⟨hs, cs, m, l, p, ints, e, hm, hl⟩ := State.complete_shape
        { s with accepted := s.accepted.filter fun x => x.q != q } q a.cmd.opcode a.since a.latch st r0 r1
      exact ⟨hs, cs, _, m, l, p, ints, s.now, e, hm, hl⟩

end Sys2Proof.Machine
end

