-- ==== Sys2Proof/Laws/Packets.lean ====
section
/-! SUPPORT. Packing and reading back the fields of a packet: the lemmas that the round trip of each command cites. -/

namespace Sys2Proof.Packet

/-- Field values fit a layout: one for each field, each within its width. -/
def fits : List Part → List Nat → Prop
  | [], vs => vs = []
  | ⟨false, _⟩ :: ps, vs => fits ps vs
  | ⟨true, _⟩ :: _, [] => False
  | ⟨true, w⟩ :: ps, v :: vs => v < 2 ^ w ∧ fits ps vs

/-- Bits of a layout. -/
def width : List Part → Nat
  | [] => 0
  | p :: ps => p.width + width ps

theorem pack_lt : ∀ (lay : List Part) (vs : List Nat), fits lay vs → pack lay vs < 2 ^ width lay
  | [], _, _ => by simp [pack, width]
  | ⟨false, w⟩ :: ps, vs, h => by
    have := pack_lt ps vs h
    simp only [pack, width, Nat.pow_add]
    exact Nat.mul_lt_mul_of_pos_left this (Nat.two_pow_pos w)
  | ⟨true, w⟩ :: ps, [], h => h.elim
  | ⟨true, w⟩ :: ps, v :: vs, h => by
    have ih := pack_lt ps vs h.2
    simp only [pack, width, Nat.pow_add, List.headD_cons, List.tail_cons, if_true, Nat.mod_eq_of_lt h.1]
    calc v + 2 ^ w * pack ps vs < 2 ^ w + 2 ^ w * pack ps vs := Nat.add_lt_add_right h.1 _
      _ = 2 ^ w * (pack ps vs + 1) := by ring
      _ ≤ 2 ^ w * 2 ^ width ps := Nat.mul_le_mul_left _ ih

theorem fields_pack : ∀ (lay : List Part) (vs : List Nat), fits lay vs → fields lay (pack lay vs) = vs
  | [], vs, h => by
    have : vs = [] := h
    simp [fields, this]
  | ⟨false, w⟩ :: ps, vs, h => by
    have ih := fields_pack ps vs h
    simp [fields, pack, Nat.mul_div_cancel_left _ (Nat.two_pow_pos w), ih]
  | ⟨true, w⟩ :: ps, [], h => h.elim
  | ⟨true, w⟩ :: ps, v :: vs, h => by
    have ih := fields_pack ps vs h.2
    have e1 : (v + 2 ^ w * pack ps vs) % 2 ^ w = v := by rw [Nat.add_mul_mod_self_left, Nat.mod_eq_of_lt h.1]
    have e2 : (v + 2 ^ w * pack ps vs) / 2 ^ w = pack ps vs := by
      rw [Nat.add_mul_div_left _ _ (Nat.two_pow_pos w), Nat.div_eq_of_lt h.1, Nat.zero_add]
    simp only [fields, pack, List.headD_cons, List.tail_cons, if_true, Nat.mod_eq_of_lt h.1, e1, e2, ih]

theorem reservedZero_pack : ∀ (lay : List Part) (vs : List Nat), fits lay vs → reservedZero lay (pack lay vs) = true
  | [], _, _ => by simp [reservedZero, pack]
  | ⟨false, w⟩ :: ps, vs, h => by
    have ih := reservedZero_pack ps vs h
    simp [reservedZero, pack, Nat.mul_div_cancel_left _ (Nat.two_pow_pos w), ih]
  | ⟨true, w⟩ :: ps, [], h => h.elim
  | ⟨true, w⟩ :: ps, v :: vs, h => by
    have ih := reservedZero_pack ps vs h.2
    have e2 : (v + 2 ^ w * pack ps vs) / 2 ^ w = pack ps vs := by
      rw [Nat.add_mul_div_left _ _ (Nat.two_pow_pos w), Nat.div_eq_of_lt h.1, Nat.zero_add]
    simp only [reservedZero, pack, List.headD_cons, List.tail_cons, if_true, Nat.mod_eq_of_lt h.1, e2, ih, Bool.true_or,
      Bool.and_self]

theorem headerFields_fits (q : Req) (op : Nat) (h : op < 256) : fits header (headerFields q op) := by
  simp only [header, headerFields, fits, f, z]
  repeat' apply And.intro
  all_goals first | exact BitVec.isLt _ | exact Bool.toNat_lt _ | exact h | decide

@[simp] theorem bv_cons_zero {w : Nat} (x : BitVec w) (l : List Nat) : bv w (x.toNat :: l) 0 = x := by
  simp [bv]

@[simp] theorem bv_cons_succ {w : Nat} (n : Nat) (l : List Nat) (i : Nat) : bv w (n :: l) (i + 1) = bv w l i := by
  simp [bv]

@[simp] theorem bl_cons_zero (b : Bool) (l : List Nat) : bl (b.toNat :: l) 0 = b := by
  cases b <;> simp [bl]

@[simp] theorem bl_cons_succ (n : Nat) (l : List Nat) (i : Nat) : bl (n :: l) (i + 1) = bl l i := by
  simp [bl]

theorem req_headerFields (q : Req) (op : Nat) : req q.ring q.idx (headerFields q op) = q := by
  cases q
  simp [req, headerFields, bv, bl]

/-- Bit 5 of the first payload word of WATCH.SET is its third field. -/
theorem watch_form (ps : List Part) (vs : List Nat) (i d t : Nat) (ht : t < 2) :
    pack (f 4 :: f 1 :: f 1 :: ps) (i :: d :: t :: vs) % 2 ^ 64 / 32 % 2 = t := by
  simp only [pack, f, List.headD_cons, List.tail_cons, if_true]
  omega

/-- The lowest two bits of the payload of DBG.READ and DBG.WRITE are its first field. -/
theorem dbg_form (ps : List Part) (vs : List Nat) (t : Nat) (ht : t < 4) :
    pack (f 2 :: ps) (t :: vs) % 2 ^ 64 % 4 = t := by
  simp only [pack, f, List.headD_cons, List.tail_cons, if_true]
  omega

/-- The packet of a command from its parts and layout. -/
theorem encode_of {i : Instr} {q : Req} {op : Nat} {p : List Nat} {lay : List Part} (h : parts i = some (q, op, p))
    (hl : payload op (variantOf op p) = some lay) :
    encode i = pack header (headerFields q op) + 2 ^ 128 * pack lay p := by
  simp only [encode, h, hl]

/-- The payload layouts of the commands with several forms, by the bits that choose. -/
theorem payload_watch_object {v : Nat} (h : v / 32 % 2 = 0) :
    payload 0xA0 v = some [f 4, f 1, f 1, f 4, z 54, f 42, z 22, f 42, z 22, f 30] := by
  show (if v / 32 % 2 = 0 then _ else _) = _
  rw [if_pos h]
  rfl

theorem payload_watch_tile {v : Nat} (h : v / 32 % 2 = 1) :
    payload 0xA0 v = some [f 4, f 1, f 1, f 4, z 54, f 3, f 4, f 4, f 24, z 29, f 32, z 32, f 17] := by
  show (if v / 32 % 2 = 0 then _ else _) = _
  rw [if_neg (by omega)]

theorem payload_dbg_register {v : Nat} (h : v % 4 = 0) :
    payload.dbg v = some [f 2, z 62, f 24, z 40, z 64, f 64, f 13] := by
  simp [payload.dbg, h]

theorem payload_dbg_store {v : Nat} (h : v % 4 = 1) :
    payload.dbg v = some [f 2, z 62, f 3, f 4, f 4, f 24, z 29, z 64, f 64, f 13] := by
  simp [payload.dbg, h]

theorem payload_dbg_memory {v : Nat} (h : v % 4 = 2) :
    payload.dbg v = some [f 2, z 62, f 3, z 61, f 36, z 28, f 64, f 13] := by
  simp [payload.dbg, h]

theorem payload_dbg_read (v : Nat) : payload 0xE2 v = payload.dbg v := rfl

theorem payload_dbg_write (v : Nat) : payload 0xE3 v = payload.dbg v := rfl

/-- The round trip of a packet whose payload fits the layout that its own low word chooses. -/
theorem decode_encoded (q : Req) (op : Nat) (lay : List Part) (p : List Nat) (hop : op < 256) (hp : fits lay p)
    (hl : payload op (pack lay p % 2 ^ 64) = some lay) :
    decode q.ring q.idx (pack header (headerFields q op) + 2 ^ 128 * pack lay p) = build q op p := by
  have hh := headerFields_fits q op hop
  have hlt : pack header (headerFields q op) < 2 ^ 128 := pack_lt _ _ hh
  have e1 : (pack header (headerFields q op) + 2 ^ 128 * pack lay p) % 2 ^ 128 = pack header (headerFields q op) := by
    rw [Nat.add_mul_mod_self_left, Nat.mod_eq_of_lt hlt]
  have e2 : (pack header (headerFields q op) + 2 ^ 128 * pack lay p) / 2 ^ 128 = pack lay p := by
    rw [Nat.add_mul_div_left _ _ (Nat.two_pow_pos 128), Nat.div_eq_of_lt hlt, Nat.zero_add]
  simp only [decode, e1, e2, fields_pack _ _ hh, reservedZero_pack _ _ hh, req_headerFields]
  have h0 : (headerFields q op).getD 0 0 = op := rfl
  have h1 : (headerFields q op).getD 1 0 = 0 := rfl
  rw [h0, h1, hl]
  simp [fields_pack _ _ hp, reservedZero_pack _ _ hp]

end Sys2Proof.Packet
end

