-- ==== Sys2Proof/Laws/PerInstr.lean ====
section
/-! SUPPORT. The round trip of the packets, command by command (12 R300, R309, Table CMD.8): decoding the packet that a
well-formed ring command encodes to gives the command back. A row that is no ring command has no packet. -/

namespace Sys2Proof.Laws.RoundTrip

open Packet

/-- Decoding the packet of a well-formed ring command gives the command. -/
def Statement (i : Instr) : Prop :=
  i.wellFormed = true → ∀ q, i.req? = some q → decode q.ring q.idx (encode i) = some i

theorem devNop (q : Req) : Statement (.devNop q) := by
  intro _ q' h
  cases h
  refine (decode_encoded q 0x00 _ ([] : List Nat) (by decide) ?_ rfl).trans ?_
  · exact rfl
  · rfl

theorem devHello (q : Req) (version : BitVec 32) : Statement (.devHello q version) := by
  intro _ q' h
  cases h
  refine (decode_encoded q 0x01 _ ([version.toNat] : List Nat) (by decide) ?_ rfl).trans ?_
  · exact And.intro version.isLt rfl
  · show some (Instr.devHello q _) = _
    simp [bv]

theorem devQuery (q : Req) : Statement (.devQuery q) := by
  intro _ q' h
  cases h
  refine (decode_encoded q 0x02 _ ([] : List Nat) (by decide) ?_ rfl).trans ?_
  · exact rfl
  · rfl

theorem devAttest (q : Req) (nonce : BitVec 64) (host : BitVec 64) (bytes : BitVec 32) : Statement (.devAttest q nonce host bytes) := by
  intro _ q' h
  cases h
  refine (decode_encoded q 0x03 _ ([nonce.toNat, host.toNat, bytes.toNat] : List Nat) (by decide) ?_ rfl).trans ?_
  · exact And.intro nonce.isLt (And.intro host.isLt (And.intro bytes.isLt rfl))
  · show some (Instr.devAttest q _ _ _) = _
    simp [bv]

theorem devCommit (q : Req) (sel : BitVec 8) : Statement (.devCommit q sel) := by
  intro _ q' h
  cases h
  refine (decode_encoded q 0x04 _ ([sel.toNat] : List Nat) (by decide) ?_ rfl).trans ?_
  · exact And.intro sel.isLt rfl
  · show some (Instr.devCommit q _) = _
    simp [bv]

theorem ptnCreate (q : Req) (mask : BitVec 8) (share : BitVec 21) (n : BitVec 17) (want : BitVec 3) (useWant : Bool) (vector : BitVec 16) : Statement (.ptnCreate q mask share n want useWant vector) := by
  intro _ q' h
  cases h
  refine (decode_encoded q 0x10 _ ([mask.toNat, share.toNat, n.toNat, want.toNat, useWant.toNat, vector.toNat] : List Nat) (by decide) ?_ rfl).trans ?_
  · exact And.intro mask.isLt (And.intro share.isLt (And.intro n.isLt (And.intro want.isLt (And.intro (Bool.toNat_lt useWant) (And.intro vector.isLt rfl)))))
  · show some (Instr.ptnCreate q _ _ _ _ _ _) = _
    simp [bv, bl]

theorem ptnDestroy (q : Req) (p : BitVec 3) : Statement (.ptnDestroy q p) := by
  intro _ q' h
  cases h
  refine (decode_encoded q 0x11 _ ([p.toNat] : List Nat) (by decide) ?_ rfl).trans ?_
  · exact And.intro p.isLt rfl
  · show some (Instr.ptnDestroy q _) = _
    simp [bv]

theorem ptnBind (q : Req) (token : BitVec 64) : Statement (.ptnBind q token) := by
  intro _ q' h
  cases h
  refine (decode_encoded q 0x12 _ ([token.toNat] : List Nat) (by decide) ?_ rfl).trans ?_
  · exact And.intro token.isLt rfl
  · show some (Instr.ptnBind q _) = _
    simp [bv]

theorem ptnQuery (q : Req) (p : BitVec 3) : Statement (.ptnQuery q p) := by
  intro _ q' h
  cases h
  refine (decode_encoded q 0x13 _ ([p.toNat] : List Nat) (by decide) ?_ rfl).trans ?_
  · exact And.intro p.isLt rfl
  · show some (Instr.ptnQuery q _) = _
    simp [bv]

theorem ptnStage (q : Req) (offset : BitVec 20) (region : BitVec 4) (p : BitVec 3) (value mask : BitVec 64) : Statement (.ptnStage q offset region p value mask) := by
  intro _ q' h
  cases h
  refine (decode_encoded q 0x14 _ ([offset.toNat, region.toNat, p.toNat, value.toNat, mask.toNat] : List Nat) (by decide) ?_ rfl).trans ?_
  · exact And.intro offset.isLt (And.intro region.isLt (And.intro p.isLt (And.intro value.isLt (And.intro mask.isLt rfl))))
  · show some (Instr.ptnStage q _ _ _ _ _) = _
    simp [bv]

theorem ptnCommit (q : Req) (sel : BitVec 8) (p : BitVec 3) : Statement (.ptnCommit q sel p) := by
  intro _ q' h
  cases h
  refine (decode_encoded q 0x15 _ ([sel.toNat, p.toNat] : List Nat) (by decide) ?_ rfl).trans ?_
  · exact And.intro sel.isLt (And.intro p.isLt rfl)
  · show some (Instr.ptnCommit q _ _) = _
    simp [bv]

theorem ctxCreate (q : Req) (n : BitVec 17) (mirror : Bool) (mirrorAt : BitVec 64) (vector : BitVec 16) : Statement (.ctxCreate q n mirror mirrorAt vector) := by
  intro _ q' h
  cases h
  refine (decode_encoded q 0x18 _ ([n.toNat, mirror.toNat, mirrorAt.toNat, vector.toNat] : List Nat) (by decide) ?_ rfl).trans ?_
  · exact And.intro n.isLt (And.intro (Bool.toNat_lt mirror) (And.intro mirrorAt.isLt (And.intro vector.isLt rfl)))
  · show some (Instr.ctxCreate q _ _ _ _) = _
    simp [bv, bl]

theorem ctxDestroy (q : Req) (c : CtxNo) : Statement (.ctxDestroy q c) := by
  intro _ q' h
  cases h
  refine (decode_encoded q 0x19 _ ([c.toNat] : List Nat) (by decide) ?_ rfl).trans ?_
  · exact And.intro c.isLt rfl
  · show some (Instr.ctxDestroy q _) = _
    simp [bv]

theorem ctxLimit (q : Req) (c : CtxNo) (t0 : BitVec 12) (t1 : BitVec 23) : Statement (.ctxLimit q c t0 t1) := by
  intro _ q' h
  cases h
  refine (decode_encoded q 0x1A _ ([c.toNat, t0.toNat, t1.toNat] : List Nat) (by decide) ?_ rfl).trans ?_
  · exact And.intro c.isLt (And.intro t0.isLt (And.intro t1.isLt rfl))
  · show some (Instr.ctxLimit q _ _ _) = _
    simp [bv]

theorem ctxQuery (q : Req) (c : CtxNo) : Statement (.ctxQuery q c) := by
  intro _ q' h
  cases h
  refine (decode_encoded q 0x1B _ ([c.toNat] : List Nat) (by decide) ?_ rfl).trans ?_
  · exact And.intro c.isLt rfl
  · show some (Instr.ctxQuery q _) = _
    simp [bv]

theorem ctxSample (q : Req) (c : CtxNo) (record : BitVec 16) (base offset : BitVec 42) (bytes : BitVec 32) : Statement (.ctxSample q c record base offset bytes) := by
  intro _ q' h
  cases h
  refine (decode_encoded q 0x1C _ ([c.toNat, record.toNat, base.toNat, offset.toNat, bytes.toNat] : List Nat) (by decide) ?_ rfl).trans ?_
  · exact And.intro c.isLt (And.intro record.isLt (And.intro base.isLt (And.intro offset.isLt (And.intro bytes.isLt rfl))))
  · show some (Instr.ctxSample q _ _ _ _ _) = _
    simp [bv]

theorem memWrite (q : Req) (base offset : BitVec 42) (host : BitVec 64) (bytes : BitVec 32) : Statement (.memWrite q base offset host bytes) := by
  intro _ q' h
  cases h
  refine (decode_encoded q 0x20 _ ([base.toNat, offset.toNat, host.toNat, bytes.toNat] : List Nat) (by decide) ?_ rfl).trans ?_
  · exact And.intro base.isLt (And.intro offset.isLt (And.intro host.isLt (And.intro bytes.isLt rfl)))
  · show some (Instr.memWrite q _ _ _ _) = _
    simp [bv]

theorem memRead (q : Req) (base offset : BitVec 42) (host : BitVec 64) (bytes : BitVec 32) : Statement (.memRead q base offset host bytes) := by
  intro _ q' h
  cases h
  refine (decode_encoded q 0x21 _ ([base.toNat, offset.toNat, host.toNat, bytes.toNat] : List Nat) (by decide) ?_ rfl).trans ?_
  · exact And.intro base.isLt (And.intro offset.isLt (And.intro host.isLt (And.intro bytes.isLt rfl)))
  · show some (Instr.memRead q _ _ _ _) = _
    simp [bv]

theorem memCopy (q : Req) (src srcOff dst dstOff : BitVec 42) (bytes : BitVec 32) : Statement (.memCopy q src srcOff dst dstOff bytes) := by
  intro _ q' h
  cases h
  refine (decode_encoded q 0x22 _ ([src.toNat, srcOff.toNat, dst.toNat, dstOff.toNat, bytes.toNat] : List Nat) (by decide) ?_ rfl).trans ?_
  · exact And.intro src.isLt (And.intro srcOff.isLt (And.intro dst.isLt (And.intro dstOff.isLt (And.intro bytes.isLt rfl))))
  · show some (Instr.memCopy q _ _ _ _ _) = _
    simp [bv]

theorem memFill (q : Req) (base offset : BitVec 42) (pattern bytes : BitVec 32) : Statement (.memFill q base offset pattern bytes) := by
  intro _ q' h
  cases h
  refine (decode_encoded q 0x23 _ ([base.toNat, offset.toNat, pattern.toNat, bytes.toNat] : List Nat) (by decide) ?_ rfl).trans ?_
  · exact And.intro base.isLt (And.intro offset.isLt (And.intro pattern.isLt (And.intro bytes.isLt rfl)))
  · show some (Instr.memFill q _ _ _ _) = _
    simp [bv]

theorem objCreate (q : Req) (desc : ObjDesc) : Statement (.objCreate q desc) := by
  intro _ q' h
  cases h
  refine (decode_encoded q 0x30 _ ([desc.kind.toNat, desc.home.toNat, desc.pin.toNat, desc.prot.toNat, desc.comp.toNat, desc.elem.toNat, desc.tile.toNat, desc.budget.toNat, desc.drop.toNat, desc.clu.toNat, desc.length.toNat, desc.vbase.toNat] : List Nat) (by decide) ?_ rfl).trans ?_
  · exact And.intro desc.kind.isLt (And.intro desc.home.isLt (And.intro (Bool.toNat_lt desc.pin) (And.intro (Bool.toNat_lt desc.prot) (And.intro (Bool.toNat_lt desc.comp) (And.intro desc.elem.isLt (And.intro (Bool.toNat_lt desc.tile) (And.intro desc.budget.isLt (And.intro desc.drop.isLt (And.intro desc.clu.isLt (And.intro desc.length.isLt (And.intro desc.vbase.isLt rfl)))))))))))
  · show some (Instr.objCreate q _) = _
    simp [bv, bl]

theorem objFree (q : Req) (base : BitVec 42) : Statement (.objFree q base) := by
  intro _ q' h
  cases h
  refine (decode_encoded q 0x31 _ ([base.toNat] : List Nat) (by decide) ?_ rfl).trans ?_
  · exact And.intro base.isLt rfl
  · show some (Instr.objFree q _) = _
    simp [bv]

theorem objPin (q : Req) (base : BitVec 42) : Statement (.objPin q base) := by
  intro _ q' h
  cases h
  refine (decode_encoded q 0x32 _ ([base.toNat] : List Nat) (by decide) ?_ rfl).trans ?_
  · exact And.intro base.isLt rfl
  · show some (Instr.objPin q _) = _
    simp [bv]

theorem objUnpin (q : Req) (base : BitVec 42) : Statement (.objUnpin q base) := by
  intro _ q' h
  cases h
  refine (decode_encoded q 0x33 _ ([base.toNat] : List Nat) (by decide) ?_ rfl).trans ?_
  · exact And.intro base.isLt rfl
  · show some (Instr.objUnpin q _) = _
    simp [bv]

theorem objPlace (q : Req) (base : BitVec 42) (home : BitVec 2) : Statement (.objPlace q base home) := by
  intro _ q' h
  cases h
  refine (decode_encoded q 0x34 _ ([base.toNat, home.toNat] : List Nat) (by decide) ?_ rfl).trans ?_
  · exact And.intro base.isLt (And.intro home.isLt rfl)
  · show some (Instr.objPlace q _ _) = _
    simp [bv]

theorem objQuery (q : Req) (base : BitVec 42) : Statement (.objQuery q base) := by
  intro _ q' h
  cases h
  refine (decode_encoded q 0x35 _ ([base.toNat] : List Nat) (by decide) ?_ rfl).trans ?_
  · exact And.intro base.isLt rfl
  · show some (Instr.objQuery q _) = _
    simp [bv]

theorem seqOpen (q : Req) (a : SeqOpenArgs) : Statement (.seqOpen q a) := by
  intro _ q' h
  cases h
  refine (decode_encoded q 0x40 _ ([a.kvFmt.toNat, a.hd.toNat, a.layers.toNat, a.heads.toNat, a.layout.toNat, a.shardLog2.toNat, a.memberLog2.toNat, a.rank.toNat, a.fromHandle.toNat, a.w.toNat, a.input.toNat, a.handle.toNat] : List Nat) (by decide) ?_ rfl).trans ?_
  · exact And.intro a.kvFmt.isLt (And.intro a.hd.isLt (And.intro a.layers.isLt (And.intro a.heads.isLt (And.intro (Bool.toNat_lt a.layout) (And.intro a.shardLog2.isLt (And.intro a.memberLog2.isLt (And.intro a.rank.isLt (And.intro (Bool.toNat_lt a.fromHandle) (And.intro a.w.isLt (And.intro a.input.isLt (And.intro a.handle.isLt rfl)))))))))))
  · show some (Instr.seqOpen q _) = _
    simp [bv, bl]

theorem seqClose (q : Req) (seq : BitVec 32) : Statement (.seqClose q seq) := by
  intro _ q' h
  cases h
  refine (decode_encoded q 0x41 _ ([seq.toNat] : List Nat) (by decide) ?_ rfl).trans ?_
  · exact And.intro seq.isLt rfl
  · show some (Instr.seqClose q _) = _
    simp [bv]

theorem seqQuery (q : Req) (seq : BitVec 32) (host : BitVec 64) : Statement (.seqQuery q seq host) := by
  intro _ q' h
  cases h
  refine (decode_encoded q 0x42 _ ([seq.toNat, host.toNat] : List Nat) (by decide) ?_ rfl).trans ?_
  · exact And.intro seq.isLt (And.intro host.isLt rfl)
  · show some (Instr.seqQuery q _ _) = _
    simp [bv]

theorem kvGlobal (q : Req) (seq : BitVec 32) (n : BitVec 7) (clear : Bool) (base offset : BitVec 42) : Statement (.kvGlobal q seq n clear base offset) := by
  intro _ q' h
  cases h
  refine (decode_encoded q 0x48 _ ([seq.toNat, n.toNat, clear.toNat, base.toNat, offset.toNat] : List Nat) (by decide) ?_ rfl).trans ?_
  · exact And.intro seq.isLt (And.intro n.isLt (And.intro (Bool.toNat_lt clear) (And.intro base.isLt (And.intro offset.isLt rfl))))
  · show some (Instr.kvGlobal q _ _ _ _ _) = _
    simp [bv, bl]

theorem kvCommit (q : Req) (seq : BitVec 32) (a : BitVec 5) : Statement (.kvCommit q seq a) := by
  intro _ q' h
  cases h
  refine (decode_encoded q 0x49 _ ([seq.toNat, a.toNat] : List Nat) (by decide) ?_ rfl).trans ?_
  · exact And.intro seq.isLt (And.intro a.isLt rfl)
  · show some (Instr.kvCommit q _ _) = _
    simp [bv]

theorem kvRollback (q : Req) (seq : BitVec 32) : Statement (.kvRollback q seq) := by
  intro _ q' h
  cases h
  refine (decode_encoded q 0x4A _ ([seq.toNat] : List Nat) (by decide) ?_ rfl).trans ?_
  · exact And.intro seq.isLt rfl
  · show some (Instr.kvRollback q _) = _
    simp [bv]

theorem kvDrop (q : Req) (seq : BitVec 32) (n : BitVec 24) : Statement (.kvDrop q seq n) := by
  intro _ q' h
  cases h
  refine (decode_encoded q 0x4B _ ([seq.toNat, n.toNat] : List Nat) (by decide) ?_ rfl).trans ?_
  · exact And.intro seq.isLt (And.intro n.isLt rfl)
  · show some (Instr.kvDrop q _ _) = _
    simp [bv]

theorem pfxRegister (q : Req) (seq : BitVec 32) (p : BitVec 23) : Statement (.pfxRegister q seq p) := by
  intro _ q' h
  cases h
  refine (decode_encoded q 0x50 _ ([seq.toNat, p.toNat] : List Nat) (by decide) ?_ rfl).trans ?_
  · exact And.intro seq.isLt (And.intro p.isLt rfl)
  · show some (Instr.pfxRegister q _ _) = _
    simp [bv]

theorem pfxRelease (q : Req) (handle : BitVec 64) : Statement (.pfxRelease q handle) := by
  intro _ q' h
  cases h
  refine (decode_encoded q 0x51 _ ([handle.toNat] : List Nat) (by decide) ?_ rfl).trans ?_
  · exact And.intro handle.isLt rfl
  · show some (Instr.pfxRelease q _) = _
    simp [bv]

theorem schedLoad (q : Req) (image : BitVec 42) : Statement (.schedLoad q image) := by
  intro _ q' h
  cases h
  refine (decode_encoded q 0x60 _ ([image.toNat] : List Nat) (by decide) ?_ rfl).trans ?_
  · exact And.intro image.isLt rfl
  · show some (Instr.schedLoad q _) = _
    simp [bv]

theorem schedUnload (q : Req) (image : BitVec 42) : Statement (.schedUnload q image) := by
  intro _ q' h
  cases h
  refine (decode_encoded q 0x61 _ ([image.toNat] : List Nat) (by decide) ?_ rfl).trans ?_
  · exact And.intro image.isLt rfl
  · show some (Instr.schedUnload q _) = _
    simp [bv]

theorem schedRun (q : Req) (a : RunArgs) : Statement (.schedRun q a) := by
  intro _ q' h
  cases h
  refine (decode_encoded q 0x62 _ (parts.run a : List Nat) (by decide) ?_ rfl).trans ?_
  · exact And.intro a.image.isLt (And.intro a.list.isLt (And.intro a.objOff.isLt (And.intro a.nObj.isLt (And.intro a.bindOff.isLt (And.intro a.nBind.isLt (And.intro a.q.isLt (And.intro a.result.isLt (And.intro (Bool.toNat_lt a.verify) (And.intro (Bool.toNat_lt a.noFill) rfl)))))))))
  · show some (Instr.schedRun q _) = _
    simp [bv, bl, parts.run, runArgs]

theorem schedStepset (q : Req) (base offset : BitVec 42) (count : BitVec 4) : Statement (.schedStepset q base offset count) := by
  intro _ q' h
  cases h
  refine (decode_encoded q 0x63 _ ([base.toNat, offset.toNat, count.toNat] : List Nat) (by decide) ?_ rfl).trans ?_
  · exact And.intro base.isLt (And.intro offset.isLt (And.intro count.isLt rfl))
  · show some (Instr.schedStepset q _ _ _) = _
    simp [bv]

theorem schedStepfree (q : Req) (set : BitVec 4) : Statement (.schedStepfree q set) := by
  intro _ q' h
  cases h
  refine (decode_encoded q 0x64 _ ([set.toNat] : List Nat) (by decide) ?_ rfl).trans ?_
  · exact And.intro set.isLt rfl
  · show some (Instr.schedStepfree q _) = _
    simp [bv]

theorem schedStep (q : Req) (a : RunArgs) : Statement (.schedStep q a) := by
  intro _ q' h
  cases h
  refine (decode_encoded q 0x65 _ (parts.run a : List Nat) (by decide) ?_ rfl).trans ?_
  · exact And.intro a.image.isLt (And.intro a.list.isLt (And.intro a.objOff.isLt (And.intro a.nObj.isLt (And.intro a.bindOff.isLt (And.intro a.nBind.isLt (And.intro a.q.isLt (And.intro a.result.isLt (And.intro (Bool.toNat_lt a.verify) (And.intro (Bool.toNat_lt a.noFill) rfl)))))))))
  · show some (Instr.schedStep q _) = _
    simp [bv, bl, parts.run, runArgs]

theorem wgtStore (q : Req) (base : BitVec 42) : Statement (.wgtStore q base) := by
  intro _ q' h
  cases h
  refine (decode_encoded q 0x80 _ ([base.toNat] : List Nat) (by decide) ?_ rfl).trans ?_
  · exact And.intro base.isLt rfl
  · show some (Instr.wgtStore q _) = _
    simp [bv]

theorem wgtDelete (q : Req) (modelId : BitVec 64) (version : BitVec 32) : Statement (.wgtDelete q modelId version) := by
  intro _ q' h
  cases h
  refine (decode_encoded q 0x81 _ ([modelId.toNat, version.toNat] : List Nat) (by decide) ?_ rfl).trans ?_
  · exact And.intro modelId.isLt (And.intro version.isLt rfl)
  · show some (Instr.wgtDelete q _ _) = _
    simp [bv]

theorem wgtServe (q : Req) (modelId : BitVec 64) (version session : BitVec 32) (group linger : BitVec 16) : Statement (.wgtServe q modelId version session group linger) := by
  intro _ q' h
  cases h
  refine (decode_encoded q 0x82 _ ([modelId.toNat, version.toNat, session.toNat, group.toNat, linger.toNat] : List Nat) (by decide) ?_ rfl).trans ?_
  · exact And.intro modelId.isLt (And.intro version.isLt (And.intro session.isLt (And.intro group.isLt (And.intro linger.isLt rfl))))
  · show some (Instr.wgtServe q _ _ _ _ _) = _
    simp [bv]

theorem wgtLoad (q : Req) (src : WgtSource) (protect : Bool) : Statement (.wgtLoad q src protect) := by
  intro _ q' h
  cases h
  refine (decode_encoded q 0x83 _ ([src.isLocal.toNat, protect.toNat, src.session.toNat, src.reader.toNat, src.modelId.toNat, src.version.toNat] : List Nat) (by decide) ?_ rfl).trans ?_
  · exact And.intro (Bool.toNat_lt src.isLocal) (And.intro (Bool.toNat_lt protect) (And.intro src.session.isLt (And.intro src.reader.isLt (And.intro src.modelId.isLt (And.intro src.version.isLt rfl)))))
  · show some (Instr.wgtLoad q _ _) = _
    simp [bv, bl]

theorem wgtReader (q : Req) (base : BitVec 42) (session : BitVec 32) (reader : BitVec 16) : Statement (.wgtReader q base session reader) := by
  intro _ q' h
  cases h
  refine (decode_encoded q 0x84 _ ([base.toNat, session.toNat, reader.toNat] : List Nat) (by decide) ?_ rfl).trans ?_
  · exact And.intro base.isLt (And.intro session.isLt (And.intro reader.isLt rfl))
  · show some (Instr.wgtReader q _ _ _) = _
    simp [bv]

theorem wgtSwap (q : Req) (base : BitVec 42) (deadline : BitVec 14) (src : WgtSource) : Statement (.wgtSwap q base deadline src) := by
  intro _ q' h
  cases h
  refine (decode_encoded q 0x85 _ ([base.toNat, deadline.toNat, src.isLocal.toNat, src.session.toNat, src.reader.toNat, src.modelId.toNat, src.version.toNat] : List Nat) (by decide) ?_ rfl).trans ?_
  · exact And.intro base.isLt (And.intro deadline.isLt (And.intro (Bool.toNat_lt src.isLocal) (And.intro src.session.isLt (And.intro src.reader.isLt (And.intro src.modelId.isLt (And.intro src.version.isLt rfl))))))
  · show some (Instr.wgtSwap q _ _ _) = _
    simp [bv, bl]

theorem wgtQuery (q : Req) (base : BitVec 42) : Statement (.wgtQuery q base) := by
  intro _ q' h
  cases h
  refine (decode_encoded q 0x86 _ ([base.toNat] : List Nat) (by decide) ?_ rfl).trans ?_
  · exact And.intro base.isLt rfl
  · show some (Instr.wgtQuery q _) = _
    simp [bv]

theorem wgtFree (q : Req) (base : BitVec 42) : Statement (.wgtFree q base) := by
  intro _ q' h
  cases h
  refine (decode_encoded q 0x87 _ ([base.toNat] : List Nat) (by decide) ?_ rfl).trans ?_
  · exact And.intro base.isLt rfl
  · show some (Instr.wgtFree q _) = _
    simp [bv]

theorem fenceBarrier (q : Req) : Statement (.fenceBarrier q) := by
  intro _ q' h
  cases h
  refine (decode_encoded q 0x90 _ ([] : List Nat) (by decide) ?_ rfl).trans ?_
  · exact rfl
  · rfl

theorem syncCreate (q : Req) (value : BitVec 64) : Statement (.syncCreate q value) := by
  intro _ q' h
  cases h
  refine (decode_encoded q 0x98 _ ([value.toNat] : List Nat) (by decide) ?_ rfl).trans ?_
  · exact And.intro value.isLt rfl
  · show some (Instr.syncCreate q _) = _
    simp [bv]

theorem syncSignal (q : Req) (n : BitVec 12) (increment : BitVec 64) : Statement (.syncSignal q n increment) := by
  intro _ q' h
  cases h
  refine (decode_encoded q 0x99 _ ([n.toNat, increment.toNat] : List Nat) (by decide) ?_ rfl).trans ?_
  · exact And.intro n.isLt (And.intro increment.isLt rfl)
  · show some (Instr.syncSignal q _ _) = _
    simp [bv]

theorem syncWait (q : Req) (n : BitVec 12) (target : BitVec 64) : Statement (.syncWait q n target) := by
  intro _ q' h
  cases h
  refine (decode_encoded q 0x9A _ ([n.toNat, target.toNat] : List Nat) (by decide) ?_ rfl).trans ?_
  · exact And.intro n.isLt (And.intro target.isLt rfl)
  · show some (Instr.syncWait q _ _) = _
    simp [bv]

theorem syncFree (q : Req) (n : BitVec 12) : Statement (.syncFree q n) := by
  intro _ q' h
  cases h
  refine (decode_encoded q 0x9B _ ([n.toNat] : List Nat) (by decide) ?_ rfl).trans ?_
  · exact And.intro n.isLt rfl
  · show some (Instr.syncFree q _) = _
    simp [bv]

theorem syncQuery (q : Req) (n : BitVec 12) : Statement (.syncQuery q n) := by
  intro _ q' h
  cases h
  refine (decode_encoded q 0x9C _ ([n.toNat] : List Nat) (by decide) ?_ rfl).trans ?_
  · exact And.intro n.isLt rfl
  · show some (Instr.syncQuery q _) = _
    simp [bv]

theorem watchClear (q : Req) (mask : BitVec 16) : Statement (.watchClear q mask) := by
  intro _ q' h
  cases h
  refine (decode_encoded q 0xA1 _ ([mask.toNat] : List Nat) (by decide) ?_ rfl).trans ?_
  · exact And.intro mask.isLt rfl
  · show some (Instr.watchClear q _) = _
    simp [bv]

theorem watchRead (q : Req) (index : BitVec 4) (host : BitVec 64) : Statement (.watchRead q index host) := by
  intro _ q' h
  cases h
  refine (decode_encoded q 0xA2 _ ([index.toNat, host.toNat] : List Nat) (by decide) ?_ rfl).trans ?_
  · exact And.intro index.isLt (And.intro host.isLt rfl)
  · show some (Instr.watchRead q _ _) = _
    simp [bv]

theorem watchTrace (q : Req) (base offset : BitVec 42) (bytes : BitVec 32) : Statement (.watchTrace q base offset bytes) := by
  intro _ q' h
  cases h
  refine (decode_encoded q 0xA3 _ ([base.toNat, offset.toNat, bytes.toNat] : List Nat) (by decide) ?_ rfl).trans ?_
  · exact And.intro base.isLt (And.intro offset.isLt (And.intro bytes.isLt rfl))
  · show some (Instr.watchTrace q _ _ _) = _
    simp [bv]

theorem ctrRead (q : Req) (kind : BitVec 2) (host : BitVec 64) : Statement (.ctrRead q kind host) := by
  intro _ q' h
  cases h
  refine (decode_encoded q 0xA8 _ ([kind.toNat, host.toNat] : List Nat) (by decide) ?_ rfl).trans ?_
  · exact And.intro kind.isLt (And.intro host.isLt rfl)
  · show some (Instr.ctrRead q _ _) = _
    simp [bv]

theorem ctrClear (q : Req) : Statement (.ctrClear q) := by
  intro _ q' h
  cases h
  refine (decode_encoded q 0xA9 _ ([] : List Nat) (by decide) ?_ rfl).trans ?_
  · exact rfl
  · rfl

theorem pwrCap (q : Req) (hostCap floor : BitVec 10) : Statement (.pwrCap q hostCap floor) := by
  intro _ q' h
  cases h
  refine (decode_encoded q 0xB0 _ ([hostCap.toNat, floor.toNat] : List Nat) (by decide) ?_ rfl).trans ?_
  · exact And.intro hostCap.isLt (And.intro floor.isLt rfl)
  · show some (Instr.pwrCap q _ _) = _
    simp [bv]

theorem pwrEnter (q : Req) (target : BitVec 3) : Statement (.pwrEnter q target) := by
  intro _ q' h
  cases h
  refine (decode_encoded q 0xB1 _ ([target.toNat] : List Nat) (by decide) ?_ rfl).trans ?_
  · exact And.intro target.isLt rfl
  · show some (Instr.pwrEnter q _) = _
    simp [bv]

theorem pwrMode (q : Req) (mode drizzle clear : Bool) (p : BitVec 3) : Statement (.pwrMode q mode drizzle clear p) := by
  intro _ q' h
  cases h
  refine (decode_encoded q 0xB2 _ ([mode.toNat, drizzle.toNat, clear.toNat, p.toNat] : List Nat) (by decide) ?_ rfl).trans ?_
  · exact And.intro (Bool.toNat_lt mode) (And.intro (Bool.toNat_lt drizzle) (And.intro (Bool.toNat_lt clear) (And.intro p.isLt rfl)))
  · show some (Instr.pwrMode q _ _ _ _) = _
    simp [bv, bl]

theorem pwrQuery (q : Req) (kind : BitVec 2) (p : BitVec 3) (island : BitVec 8) (point : BitVec 4) : Statement (.pwrQuery q kind p island point) := by
  intro _ q' h
  cases h
  refine (decode_encoded q 0xB3 _ ([kind.toNat, p.toNat, island.toNat, point.toNat] : List Nat) (by decide) ?_ rfl).trans ?_
  · exact And.intro kind.isLt (And.intro p.isLt (And.intro island.isLt (And.intro point.isLt rfl)))
  · show some (Instr.pwrQuery q _ _ _ _) = _
    simp [bv]

theorem fabAnchor (q : Req) (claim : Bool) (host : BitVec 64) (entries : BitVec 17) : Statement (.fabAnchor q claim host entries) := by
  intro _ q' h
  cases h
  refine (decode_encoded q 0xC0 _ ([claim.toNat, host.toNat, entries.toNat] : List Nat) (by decide) ?_ rfl).trans ?_
  · exact And.intro (Bool.toNat_lt claim) (And.intro host.isLt (And.intro entries.isLt rfl))
  · show some (Instr.fabAnchor q _ _ _) = _
    simp [bv, bl]

theorem fabQuery (q : Req) (kind : BitVec 2) (port : BitVec 3) : Statement (.fabQuery q kind port) := by
  intro _ q' h
  cases h
  refine (decode_encoded q 0xC1 _ ([kind.toNat, port.toNat] : List Nat) (by decide) ?_ rfl).trans ?_
  · exact And.intro kind.isLt (And.intro port.isLt rfl)
  · show some (Instr.fabQuery q _ _) = _
    simp [bv]

theorem fabGroup (q : Req) (a : GroupArgs) : Statement (.fabGroup q a) := by
  intro _ q' h
  cases h
  refine (decode_encoded q 0xC2 _ ([a.group.toNat, a.index.toNat, a.count.toNat, a.lockstep.toNat, a.list.toNat, a.listOff.toNat, a.receive.toNat] : List Nat) (by decide) ?_ rfl).trans ?_
  · exact And.intro a.group.isLt (And.intro a.index.isLt (And.intro a.count.isLt (And.intro (Bool.toNat_lt a.lockstep) (And.intro a.list.isLt (And.intro a.listOff.isLt (And.intro a.receive.isLt rfl))))))
  · show some (Instr.fabGroup q _) = _
    simp [bv, bl]

theorem fabLeave (q : Req) : Statement (.fabLeave q) := by
  intro _ q' h
  cases h
  refine (decode_encoded q 0xC3 _ ([] : List Nat) (by decide) ?_ rfl).trans ?_
  · exact rfl
  · rfl

theorem fabPut (q : Req) (src srcOff : BitVec 42) (member : BitVec 8) (offset : BitVec 48) (bytes : BitVec 32) : Statement (.fabPut q src srcOff member offset bytes) := by
  intro _ q' h
  cases h
  refine (decode_encoded q 0xC4 _ ([src.toNat, srcOff.toNat, member.toNat, offset.toNat, bytes.toNat] : List Nat) (by decide) ?_ rfl).trans ?_
  · exact And.intro src.isLt (And.intro srcOff.isLt (And.intro member.isLt (And.intro offset.isLt (And.intro bytes.isLt rfl))))
  · show some (Instr.fabPut q _ _ _ _ _) = _
    simp [bv]

theorem fabRotate (q : Req) (port : BitVec 4) : Statement (.fabRotate q port) := by
  intro _ q' h
  cases h
  refine (decode_encoded q 0xC5 _ ([port.toNat] : List Nat) (by decide) ?_ rfl).trans ?_
  · exact And.intro port.isLt rfl
  · show some (Instr.fabRotate q _) = _
    simp [bv]

theorem fwStage (q : Req) (host : BitVec 64) (offset : BitVec 22) (bytes : BitVec 23) : Statement (.fwStage q host offset bytes) := by
  intro _ q' h
  cases h
  refine (decode_encoded q 0xD0 _ ([host.toNat, offset.toNat, bytes.toNat] : List Nat) (by decide) ?_ rfl).trans ?_
  · exact And.intro host.isLt (And.intro offset.isLt (And.intro bytes.isLt rfl))
  · show some (Instr.fwStage q _ _ _) = _
    simp [bv]

theorem fwVerify (q : Req) : Statement (.fwVerify q) := by
  intro _ q' h
  cases h
  refine (decode_encoded q 0xD1 _ ([] : List Nat) (by decide) ?_ rfl).trans ?_
  · exact rfl
  · rfl

theorem fwActivate (q : Req) : Statement (.fwActivate q) := by
  intro _ q' h
  cases h
  refine (decode_encoded q 0xD2 _ ([] : List Nat) (by decide) ?_ rfl).trans ?_
  · exact rfl
  · rfl

theorem fwQuery (q : Req) : Statement (.fwQuery q) := by
  intro _ q' h
  cases h
  refine (decode_encoded q 0xD3 _ ([] : List Nat) (by decide) ?_ rfl).trans ?_
  · exact rfl
  · rfl

theorem dbgChallenge (q : Req) (host : BitVec 64) : Statement (.dbgChallenge q host) := by
  intro _ q' h
  cases h
  refine (decode_encoded q 0xE0 _ ([host.toNat] : List Nat) (by decide) ?_ rfl).trans ?_
  · exact And.intro host.isLt rfl
  · show some (Instr.dbgChallenge q _) = _
    simp [bv]

theorem dbgRespond (q : Req) (host : BitVec 64) : Statement (.dbgRespond q host) := by
  intro _ q' h
  cases h
  refine (decode_encoded q 0xE1 _ ([host.toNat] : List Nat) (by decide) ?_ rfl).trans ?_
  · exact And.intro host.isLt rfl
  · show some (Instr.dbgRespond q _) = _
    simp [bv]

theorem dbgSample (q : Req) (p : BitVec 3) (record : BitVec 16) (host : BitVec 64) (bytes : BitVec 32) : Statement (.dbgSample q p record host bytes) := by
  intro _ q' h
  cases h
  refine (decode_encoded q 0xE4 _ ([p.toNat, record.toNat, host.toNat, bytes.toNat] : List Nat) (by decide) ?_ rfl).trans ?_
  · exact And.intro p.isLt (And.intro record.isLt (And.intro host.isLt (And.intro bytes.isLt rfl)))
  · show some (Instr.dbgSample q _ _ _ _) = _
    simp [bv]

theorem dbgUnretire (q : Req) (stack : BitVec 3) (rank : BitVec 2) : Statement (.dbgUnretire q stack rank) := by
  intro _ q' h
  cases h
  refine (decode_encoded q 0xE5 _ ([stack.toNat, rank.toNat] : List Nat) (by decide) ?_ rfl).trans ?_
  · exact And.intro stack.isLt (And.intro rank.isLt rfl)
  · show some (Instr.dbgUnretire q _ _) = _
    simp [bv]

theorem jtagDbgChal : Statement .jtagDbgChal := by
  intro _ q h
  cases h

theorem jtagDbgResp (response : BitVec 29856) : Statement (.jtagDbgResp response) := by
  intro _ q h
  cases h

theorem jtagDbgCmd (packet : BitVec 512) : Statement (.jtagDbgCmd packet) := by
  intro _ q h
  cases h

theorem jtagDbgData (shiftIn : BitVec 32768) : Statement (.jtagDbgData shiftIn) := by
  intro _ q h
  cases h

theorem jtagExtest : Statement .jtagExtest := by
  intro _ q h
  cases h

theorem jtagSamplePreload : Statement .jtagSamplePreload := by
  intro _ q h
  cases h

theorem jtagBypass (code : BitVec 8) : Statement (.jtagBypass code) := by
  intro _ q h
  cases h

theorem sqTailWrite (port : HostPort) (ring : Ring) (value : BitVec 32) (units : List (BitVec 512)) (host : HostBytes) : Statement (.sqTailWrite port ring value units host) := by
  intro _ q h
  cases h

theorem cqHeadWrite (port : HostPort) (ring : Ring) (value : BitVec 32) : Statement (.cqHeadWrite port ring value) := by
  intro _ q h
  cases h

theorem packetAccept (ring : Ring) : Statement (.packetAccept ring) := by
  intro _ q h
  cases h

theorem eventDeliver (ring : Ring) : Statement (.eventDeliver ring) := by
  intro _ q h
  cases h

theorem commandDeadline (ring : Ring) (idx : BitVec 32) : Statement (.commandDeadline ring idx) := by
  intro _ q h
  cases h

theorem ptnCommitWrite (port : HostPort) (p : Ptn) (value : BitVec 32) : Statement (.ptnCommitWrite port p value) := by
  intro _ q h
  cases h

theorem devCommitWrite (port : HostPort) (value : BitVec 32) : Statement (.devCommitWrite port value) := by
  intro _ q h
  cases h

theorem stagedRegisterWrite (port : HostPort) (offset : BitVec 24) (wide : Bool) (value : BitVec 64) : Statement (.stagedRegisterWrite port offset wide value) := by
  intro _ q h
  cases h

theorem memcSpareCfgWrite (port : HostPort) (value : BitVec 32) : Statement (.memcSpareCfgWrite port value) := by
  intro _ q h
  cases h

theorem devFldCfgWrite (port : HostPort) (value : BitVec 32) : Statement (.devFldCfgWrite port value) := by
  intro _ q h
  cases h

theorem devBarStatClear (port : HostPort) (value : BitVec 64) : Statement (.devBarStatClear port value) := by
  intro _ q h
  cases h

theorem recoveryGo (port : HostPort) (value : BitVec 32) (host : HostBytes) : Statement (.recoveryGo port value host) := by
  intro _ q h
  cases h

theorem registerWrite (port : HostPort) (offset : BitVec 24) (wide : Bool) (value : BitVec 64) : Statement (.registerWrite port offset wide value) := by
  intro _ q h
  cases h

theorem wideRegisterRead (port : HostPort) (offset : BitVec 24) : Statement (.wideRegisterRead port offset) := by
  intro _ q h
  cases h

theorem unsupportedAccess (port : HostPort) (offset : BitVec 24) (write : Bool) : Statement (.unsupportedAccess port offset write) := by
  intro _ q h
  cases h

theorem runDispatch (p : Ptn) : Statement (.runDispatch p) := by
  intro _ q h
  cases h

theorem drizzleRampDone (p : Ptn) : Statement (.drizzleRampDone p) := by
  intro _ q h
  cases h

theorem memberCollect (c : Cluster) (member : Fin 15) : Statement (.memberCollect c member) := by
  intro _ q h
  cases h

theorem beatRelease (p : Ptn) (ns : BitVec 32) : Statement (.beatRelease p ns) := by
  intro _ q h
  cases h

theorem runComplete (p : Ptn) : Statement (.runComplete p) := by
  intro _ q h
  cases h

theorem slip (p : Ptn) : Statement (.slip p) := by
  intro _ q h
  cases h

theorem slipAbandon (p : Ptn) : Statement (.slipAbandon p) := by
  intro _ q h
  cases h

theorem mm (c : Cluster) (t : Tile) : Statement (.mm c t) := by
  intro _ q h
  cases h

theorem mmb (c : Cluster) (t : Tile) : Statement (.mmb c t) := by
  intro _ q h
  cases h

theorem ptbuild (c : Cluster) (t : Tile) : Statement (.ptbuild c t) := by
  intro _ q h
  cases h

theorem scload (c : Cluster) (t : Tile) : Statement (.scload c t) := by
  intro _ q h
  cases h

theorem cbload (c : Cluster) (t : Tile) : Statement (.cbload c t) := by
  intro _ q h
  cases h

theorem move (c : Cluster) (t : Tile) : Statement (.move c t) := by
  intro _ q h
  cases h

theorem fill (c : Cluster) (t : Tile) : Statement (.fill c t) := by
  intro _ q h
  cases h

theorem filler (c : Cluster) (t : Tile) : Statement (.filler c t) := by
  intro _ q h
  cases h

theorem mms (c : Cluster) (t : Tile) : Statement (.mms c t) := by
  intro _ q h
  cases h

theorem attd (c : Cluster) (t : Tile) : Statement (.attd c t) := by
  intro _ q h
  cases h

theorem lsbuild (c : Cluster) (t : Tile) : Statement (.lsbuild c t) := by
  intro _ q h
  cases h

theorem lscan (c : Cluster) (t : Tile) : Statement (.lscan c t) := by
  intro _ q h
  cases h

theorem lselect (c : Cluster) (t : Tile) : Statement (.lselect c t) := by
  intro _ q h
  cases h

theorem rescore (c : Cluster) (t : Tile) : Statement (.rescore c t) := by
  intro _ q h
  cases h

theorem smerge (c : Cluster) (t : Tile) : Statement (.smerge c t) := by
  intro _ q h
  cases h

theorem rowsum (c : Cluster) (t : Tile) : Statement (.rowsum c t) := by
  intro _ q h
  cases h

theorem resultCoding (c : Cluster) (t : Tile) : Statement (.resultCoding c t) := by
  intro _ q h
  cases h

theorem narrowStore (c : Cluster) (t : Tile) (space : BitVec 4) (byte : BitVec 24) (size : BitVec 2) (value : BitVec 32)      (tag : Option CtxNo) : Statement (.narrowStore c t space byte size value tag) := by
  intro _ q h
  cases h

theorem narrowLoad (c : Cluster) (t : Tile) (space : BitVec 4) (byte : BitVec 24) (size : BitVec 2) : Statement (.narrowLoad c t space byte size) := by
  intro _ q h
  cases h

theorem coalesceWriteback (c : Cluster) (t : Tile) (space : BitVec 4) (line : BitVec 16) : Statement (.coalesceWriteback c t space line) := by
  intro _ q h
  cases h

theorem headboxMove (c : Cluster) : Statement (.headboxMove c) := by
  intro _ q h
  cases h

theorem compressingMove (c : Cluster) : Statement (.compressingMove c) := by
  intro _ q h
  cases h

theorem codedCopy (c : Cluster) : Statement (.codedCopy c) := by
  intro _ q h
  cases h

theorem pageRunMove (c : Cluster) : Statement (.pageRunMove c) := by
  intro _ q h
  cases h

theorem couchRun (c : Cluster) : Statement (.couchRun c) := by
  intro _ q h
  cases h

theorem peerMove (c : Cluster) : Statement (.peerMove c) := by
  intro _ q h
  cases h

theorem hbTxnIssue (c : Cluster) (move : Nat) : Statement (.hbTxnIssue c move) := by
  intro _ q h
  cases h

theorem hbTxnRetire (c : Cluster) (move : Nat) (chunk : Nat) (outcome : TxnOutcome) :
    Statement (.hbTxnRetire c move chunk outcome) := by
  intro _ q h
  cases h

theorem rankCopyDone (s : Stack) : Statement (.rankCopyDone s) := by
  intro _ q h
  cases h

theorem keeperPoisonAction (c : Cluster) (line : Nat) : Statement (.keeperPoisonAction c line) := by
  intro _ q h
  cases h

theorem patrolScrub (c : Cluster) (line : Nat) (outcome : ReadOutcome) : Statement (.patrolScrub c line outcome) := by
  intro _ q h
  cases h

theorem refresh (s : Stack) (celsius : BitVec 8) : Statement (.refresh s celsius) := by
  intro _ q h
  cases h

theorem tempReadout (die : BitVec 8) (temps : Vector (BitVec 8) 6) : Statement (.tempReadout die temps) := by
  intro _ q h
  cases h

theorem ceilingStep : Statement .ceilingStep := by
  intro _ q h
  cases h

theorem inputUndervoltage : Statement .inputUndervoltage := by
  intro _ q h
  cases h

theorem railOvercurrent : Statement .railOvercurrent := by
  intro _ q h
  cases h

theorem thermalTrip (die stack : BitVec 8) : Statement (.thermalTrip die stack) := by
  intro _ q h
  cases h

theorem refclkLoss : Statement .refclkLoss := by
  intro _ q h
  cases h

theorem powerEstimate (p : Ptn) (milliwatts : Nat) : Statement (.powerEstimate p milliwatts) := by
  intro _ q h
  cases h

theorem ageingReplan (i : Island) (margins : Vector (BitVec 16) 4) : Statement (.ageingReplan i margins) := by
  intro _ q h
  cases h

theorem tileMigrate (c : CtxNo) (base : BitVec 42) (tile : Nat) : Statement (.tileMigrate c base tile) := by
  intro _ q h
  cases h

theorem tilePromote (p : Ptn) : Statement (.tilePromote p) := by
  intro _ q h
  cases h

theorem quotaReclaim (p : Ptn) : Statement (.quotaReclaim p) := by
  intro _ q h
  cases h

theorem contextReset (c : CtxNo) : Statement (.contextReset c) := by
  intro _ q h
  cases h

theorem slotSettle (p : Ptn) : Statement (.slotSettle p) := by
  intro _ q h
  cases h

theorem partitionReset (p : Ptn) : Statement (.partitionReset p) := by
  intro _ q h
  cases h

theorem coreRestart (i : Island) : Statement (.coreRestart i) := by
  intro _ q h
  cases h

theorem coreException (i : Island) : Statement (.coreException i) := by
  intro _ q h
  cases h

theorem txnWatchdog (c : Cluster) (move : Nat) (chunk : Nat) : Statement (.txnWatchdog c move chunk) := by
  intro _ q h
  cases h

theorem coreHeartbeatWatchdog (i : Island) : Statement (.coreHeartbeatWatchdog i) := by
  intro _ q h
  cases h

theorem coreProgressWatchdog (i : Island) : Statement (.coreProgressWatchdog i) := by
  intro _ q h
  cases h

theorem ctxResetWatchdog (c : CtxNo) : Statement (.ctxResetWatchdog c) := by
  intro _ q h
  cases h

theorem ptnResetWatchdog (p : Ptn) : Statement (.ptnResetWatchdog p) := by
  intro _ q h
  cases h

theorem coreRestartWatchdog (i : Island) : Statement (.coreRestartWatchdog i) := by
  intro _ q h
  cases h

theorem shardReceive (c : CtxNo) (base : BitVec 42) (tile : Nat) (bytes : List Byte) : Statement (.shardReceive c base tile bytes) := by
  intro _ q h
  cases h

theorem waveRelease (p : Ptn) : Statement (.waveRelease p) := by
  intro _ q h
  cases h

theorem shardMissing (c : CtxNo) (base : BitVec 42) (tile : Nat) : Statement (.shardMissing c base tile) := by
  intro _ q h
  cases h

theorem shardOverdue (c : CtxNo) (base : BitVec 42) (tile : Nat) : Statement (.shardOverdue c base tile) := by
  intro _ q h
  cases h

theorem resendRequest (session : BitVec 32) (receiver : BitVec 16) (tile : Nat) : Statement (.resendRequest session receiver tile) := by
  intro _ q h
  cases h

theorem sessionLingerExpiry (session : BitVec 32) : Statement (.sessionLingerExpiry session) := by
  intro _ q h
  cases h

theorem linkSignal (k : FeltPort) : Statement (.linkSignal k) := by
  intro _ q h
  cases h

theorem trainingTimeout (k : FeltPort) : Statement (.trainingTimeout k) := by
  intro _ q h
  cases h

theorem refusedRetry (k : FeltPort) : Statement (.refusedRetry k) := by
  intro _ q h
  cases h

theorem helloFrame (k : FeltPort) (f : Frame) (serial : BitVec 64) (nonce iface : BitVec 32) (addr : Option (BitVec 16)) : Statement (.helloFrame k f serial nonce iface addr) := by
  intro _ q h
  cases h

theorem proofFrame (k : FeltPort) (f : Frame) (proof : BitVec 256) : Statement (.proofFrame k f proof) := by
  intro _ q h
  cases h

theorem rotateFrame (k : FeltPort) (f : Frame) (epoch : BitVec 64) : Statement (.rotateFrame k f epoch) := by
  intro _ q h
  cases h

theorem keyRotationDue (k : FeltPort) : Statement (.keyRotationDue k) := by
  intro _ q h
  cases h

theorem rotationAckTimeout (k : FeltPort) : Statement (.rotationAckTimeout k) := by
  intro _ q h
  cases h

theorem dataFrame (k : FeltPort) (f : Frame) : Statement (.dataFrame k f) := by
  intro _ q h
  cases h

theorem multicastFrame (k : FeltPort) (f : Frame) : Statement (.multicastFrame k f) := by
  intro _ q h
  cases h

theorem ackFrame (k : FeltPort) (f : Frame) (first count : BitVec 32) (beyond : Bool) : Statement (.ackFrame k f first count beyond) := by
  intro _ q h
  cases h

theorem idleFrame (k : FeltPort) : Statement (.idleFrame k) := by
  intro _ q h
  cases h

theorem linkStateFrame (k : FeltPort) (f : Frame) (ls : LinkState) : Statement (.linkStateFrame k f ls) := by
  intro _ q h
  cases h

theorem addressAssign (serial : BitVec 64) (addr : BitVec 16) : Statement (.addressAssign serial addr) := by
  intro _ q h
  cases h

theorem frameResendTimer (part : Ptn) (dst : BitVec 16) (dpart : BitVec 3) (seq : BitVec 32) : Statement (.frameResendTimer part dst dpart seq) := by
  intro _ q h
  cases h

theorem portSilenceTimeout (k : FeltPort) : Statement (.portSilenceTimeout k) := by
  intro _ q h
  cases h

theorem fecLockLoss (k : FeltPort) : Statement (.fecLockLoss k) := by
  intro _ q h
  cases h

theorem routeInstall : Statement .routeInstall := by
  intro _ q h
  cases h

theorem joinFrame (k : FeltPort) (f : Frame) (j : JoinInfo) : Statement (.joinFrame k f j) := by
  intro _ q h
  cases h

theorem groupFormTimeout (p : Ptn) : Statement (.groupFormTimeout p) := by
  intro _ q h
  cases h

theorem leaveFrame (k : FeltPort) (f : Frame) (moved : Bool) : Statement (.leaveFrame k f moved) := by
  intro _ q h
  cases h

theorem doneFrame (k : FeltPort) (f : Frame) (beat : BitVec 64) (admitted : Option (BitVec 64 × BitVec 32)) : Statement (.doneFrame k f beat admitted) := by
  intro _ q h
  cases h

theorem releaseFrame (k : FeltPort) (f : Frame) (beat : BitVec 64) : Statement (.releaseFrame k f beat) := by
  intro _ q h
  cases h

theorem heldFrame (k : FeltPort) (f : Frame) : Statement (.heldFrame k f) := by
  intro _ q h
  cases h

theorem abortFrame (k : FeltPort) (f : Frame) : Statement (.abortFrame k f) := by
  intro _ q h
  cases h

theorem treeJoin (k : FeltPort) (f : Frame) (reader : BitVec 16) (group : BitVec 16) : Statement (.treeJoin k f reader group) := by
  intro _ q h
  cases h

theorem branchPrune (reader : BitVec 16) (group : BitVec 16) (k : FeltPort) : Statement (.branchPrune reader group k) := by
  intro _ q h
  cases h

theorem autoLull : Statement .autoLull := by
  intro _ q h
  cases h

theorem powerStateEntry : Statement .powerStateEntry := by
  intro _ q h
  cases h

theorem wakeLine : Statement .wakeLine := by
  intro _ q h
  cases h

theorem hostLinkConnect (link : HostLink) : Statement (.hostLinkConnect link) := by
  intro _ q h
  cases h

theorem thaw : Statement .thaw := by
  intro _ q h
  cases h

theorem tier1Ready : Statement .tier1Ready := by
  intro _ q h
  cases h

theorem powerOn : Statement .powerOn := by
  intro _ q h
  cases h

theorem powerRemove : Statement .powerRemove := by
  intro _ q h
  cases h

theorem fieldPowerOn : Statement .fieldPowerOn := by
  intro _ q h
  cases h

theorem bootRomStart : Statement .bootRomStart := by
  intro _ q h
  cases h

theorem flashOpComplete (d : Die) (block : BitVec 14) (op : FlashOp) (failed : Bool) : Statement (.flashOpComplete d block op failed) := by
  intro _ q h
  cases h

theorem flashPatrol (stripe : BitVec 12) (pages : List (Nat × Nat)) : Statement (.flashPatrol stripe pages) := by
  intro _ q h
  cases h

theorem portAttach (port : HostPort) (gen4 : Bool) : Statement (.portAttach port gen4) := by
  intro _ q h
  cases h

theorem portDetach (loss : PortLoss) : Statement (.portDetach loss) := by
  intro _ q h
  cases h

theorem functionLevelReset (port : HostPort) : Statement (.functionLevelReset port) := by
  intro _ q h
  cases h

theorem orphanExpiry (p : Ptn) : Statement (.orphanExpiry p) := by
  intro _ q h
  cases h

theorem shedDirective (f : CanFrame) : Statement (.shedDirective f) := by
  intro _ q h
  cases h

theorem shedPin (level : Bool) : Statement (.shedPin level) := by
  intro _ q h
  cases h

theorem capRequest (f : CanFrame) : Statement (.capRequest f) := by
  intro _ q h
  cases h

theorem fieldWake (f : CanFrame) : Statement (.fieldWake f) := by
  intro _ q h
  cases h

theorem attestationRequest (f : CanFrame) : Statement (.attestationRequest f) := by
  intro _ q h
  cases h

theorem quoteFragment : Statement .quoteFragment := by
  intro _ q h
  cases h

theorem fieldUnknownFrame (f : CanFrame) : Statement (.fieldUnknownFrame f) := by
  intro _ q h
  cases h

theorem beacon : Statement .beacon := by
  intro _ q h
  cases h

theorem faultSummary : Statement .faultSummary := by
  intro _ q h
  cases h

theorem busOff : Statement .busOff := by
  intro _ q h
  cases h

theorem wardenHeartbeatLoss : Statement .wardenHeartbeatLoss := by
  intro _ q h
  cases h

theorem slotDue (p : Ptn) : Statement (.slotDue p) := by
  intro _ q h
  cases h

theorem rngHealthFail : Statement .rngHealthFail := by
  intro _ q h
  cases h

theorem rngReseed : Statement .rngReseed := by
  intro _ q h
  cases h

theorem debugSessionExpiry (ch : DbgPort) : Statement (.debugSessionExpiry ch) := by
  intro _ q h
  cases h

theorem refclkPresent : Statement .refclkPresent := by
  intro _ q h
  cases h

theorem fieldVddLoss : Statement .fieldVddLoss := by
  intro _ q h
  cases h

theorem inputVoltageRestored : Statement .inputVoltageRestored := by
  intro _ q h
  cases h

theorem linkTrainingComplete (k : FeltPort) : Statement (.linkTrainingComplete k) := by
  intro _ q h
  cases h

theorem rotateAcknowledgement (k : FeltPort) (f : Frame) : Statement (.rotateAcknowledgement k f) := by
  intro _ q h
  cases h

theorem uncorrectableFecCodeword (k : FeltPort) : Statement (.uncorrectableFecCodeword k) := by
  intro _ q h
  cases h

theorem portHealthRestored (k : FeltPort) : Statement (.portHealthRestored k) := by
  intro _ q h
  cases h

theorem linkCredit (k : FeltPort) (hopClass : BitVec 4) (channel : BitVec 4) (count : BitVec 8) : Statement (.linkCredit k hopClass channel count) := by
  intro _ q h
  cases h

theorem flashReadComplete (model : BitVec 64) (version : BitVec 32) (tile : Nat) (r : FlashRead) : Statement (.flashReadComplete model version tile r) := by
  intro _ q h
  cases h

/-- What the three spaces of a debug access leave 0. -/
theorem dbg_space {t : DbgTarget} (h : Instr.dbgOk t = true) :
    (t.space = 0 ∧ t.cluster = 0 ∧ t.tile = 0 ∧ t.store = 0 ∧ t.word = 0 ∧ t.physical = 0) ∨
    (t.space = 1 ∧ t.offset = 0 ∧ t.physical = 0) ∨
    (t.space = 2 ∧ t.offset = 0 ∧ t.tile = 0 ∧ t.store = 0 ∧ t.word = 0) := by
  have hs : t.space = 0 ∨ t.space = 1 ∨ t.space = 2 ∨ t.space = 3 := by
    generalize t.space = x
    revert x
    decide
  simp only [Instr.dbgOk, Bool.and_eq_true] at h
  have h2 := h.2
  rcases hs with e | e | e | e <;> simp [e] at h2 <;> simp [e, h2]

theorem watchSet (q : Req) (a : WatchArgs) : Statement (.watchSet q a) := by
  intro w q' h
  cases h
  have hw : Instr.watchOk a = true := by
    have : (Instr.headerOk q (Instr.watchSet q a).opcode && Instr.watchOk a) = true := w
    exact (Bool.and_eq_true_iff.mp this).2
  obtain ⟨index, digest, tileTarget, fmt, base, offset, bytes, cluster, tile, space, word, beat, tileBytes⟩ := a
  simp only [Instr.watchOk, Bool.and_eq_true] at hw
  cases tileTarget with
  | true =>
    have h0 := hw.2
    simp only [if_true, Bool.and_eq_true, beq_iff_eq] at h0
    obtain ⟨⟨⟨_, rfl⟩, rfl⟩, rfl⟩ := h0
    rw [encode_of (q := q) (op := 0xA0)
      (p := [index.toNat, digest.toNat, 1, fmt.toNat, cluster.toNat, tile.toNat, space.toNat, word.toNat, beat.toNat,
        tileBytes.toNat]) rfl (payload_watch_tile (by simp [variantOf]))]
    refine (decode_encoded q 0xA0
      ([f 4, f 1, f 1, f 4, z 54, f 3, f 4, f 4, f 24, z 29, f 32, z 32, f 17] : List Part)
      ([index.toNat, digest.toNat, 1, fmt.toNat, cluster.toNat, tile.toNat, space.toNat, word.toNat, beat.toNat,
        tileBytes.toNat] : List Nat) (by decide) ?_ ?_).trans ?_
    · exact And.intro index.isLt (And.intro (Bool.toNat_lt digest) (And.intro (by decide) (And.intro fmt.isLt
        (And.intro cluster.isLt (And.intro tile.isLt (And.intro space.isLt (And.intro word.isLt (And.intro beat.isLt
        (And.intro tileBytes.isLt rfl)))))))))
    · exact payload_watch_tile (watch_form _ _ _ _ 1 (by decide))
    · show some (Instr.watchSet q _) = _
      simp [bv, bl, watchArgs]
  | false =>
    have h0 := hw.2
    simp only [Bool.false_eq_true, if_false, Bool.and_eq_true, beq_iff_eq] at h0
    obtain ⟨⟨⟨⟨⟨rfl, rfl⟩, rfl⟩, rfl⟩, rfl⟩, rfl⟩ := h0
    rw [encode_of (q := q) (op := 0xA0)
      (p := [index.toNat, digest.toNat, 0, fmt.toNat, base.toNat, offset.toNat, bytes.toNat]) rfl
      (payload_watch_object (by simp [variantOf]))]
    refine (decode_encoded q 0xA0 ([f 4, f 1, f 1, f 4, z 54, f 42, z 22, f 42, z 22, f 30] : List Part)
      ([index.toNat, digest.toNat, 0, fmt.toNat, base.toNat, offset.toNat, bytes.toNat] : List Nat) (by decide)
      ?_ ?_).trans ?_
    · exact And.intro index.isLt (And.intro (Bool.toNat_lt digest) (And.intro (by decide) (And.intro fmt.isLt
        (And.intro base.isLt (And.intro offset.isLt (And.intro bytes.isLt rfl))))))
    · exact payload_watch_object (watch_form _ _ _ _ 0 (by decide))
    · show some (Instr.watchSet q _) = _
      simp [bv, bl, watchArgs]

theorem dbgRead (q : Req) (t : DbgTarget) : Statement (.dbgRead q t) := by
  intro w q' h
  cases h
  have hw : Instr.dbgOk t = true := by
    have : (Instr.headerOk q (Instr.dbgRead q t).opcode && Instr.dbgOk t) = true := w
    exact (Bool.and_eq_true_iff.mp this).2
  obtain ⟨space, offset, cluster, tile, store, word, physical, host, bytes⟩ := t
  have hs := dbg_space hw
  dsimp only at hs
  rcases hs with ⟨rfl, rfl, rfl, rfl, rfl, rfl⟩ | ⟨rfl, rfl, rfl⟩ | ⟨rfl, rfl, rfl, rfl, rfl⟩
  · refine (decode_encoded q 0xE2 ([f 2, z 62, f 24, z 40, z 64, f 64, f 13] : List Part)
      ([0, offset.toNat, host.toNat, bytes.toNat] : List Nat) (by decide) ?_ ?_).trans ?_
    · exact And.intro (by decide) (And.intro offset.isLt (And.intro host.isLt (And.intro bytes.isLt rfl)))
    · exact (payload_dbg_read _).trans (payload_dbg_register (dbg_form _ _ 0 (by decide)))
    · show some (Instr.dbgRead q _) = _
      simp [bv, dbgTarget]
  · refine (decode_encoded q 0xE2 ([f 2, z 62, f 3, f 4, f 4, f 24, z 29, z 64, f 64, f 13] : List Part)
      ([1, cluster.toNat, tile.toNat, store.toNat, word.toNat, host.toNat, bytes.toNat] : List Nat) (by decide)
      ?_ ?_).trans ?_
    · exact And.intro (by decide) (And.intro cluster.isLt (And.intro tile.isLt (And.intro store.isLt
        (And.intro word.isLt (And.intro host.isLt (And.intro bytes.isLt rfl))))))
    · exact (payload_dbg_read _).trans (payload_dbg_store (dbg_form _ _ 1 (by decide)))
    · show some (Instr.dbgRead q _) = _
      simp [bv, dbgTarget]
  · refine (decode_encoded q 0xE2 ([f 2, z 62, f 3, z 61, f 36, z 28, f 64, f 13] : List Part)
      ([2, cluster.toNat, physical.toNat, host.toNat, bytes.toNat] : List Nat) (by decide) ?_ ?_).trans ?_
    · exact And.intro (by decide) (And.intro cluster.isLt (And.intro physical.isLt (And.intro host.isLt
        (And.intro bytes.isLt rfl))))
    · exact (payload_dbg_read _).trans (payload_dbg_memory (dbg_form _ _ 2 (by decide)))
    · show some (Instr.dbgRead q _) = _
      simp [bv, dbgTarget]

theorem dbgWrite (q : Req) (t : DbgTarget) : Statement (.dbgWrite q t) := by
  intro w q' h
  cases h
  have hw : Instr.dbgOk t = true := by
    have : (Instr.headerOk q (Instr.dbgWrite q t).opcode && Instr.dbgOk t) = true := w
    exact (Bool.and_eq_true_iff.mp this).2
  obtain ⟨space, offset, cluster, tile, store, word, physical, host, bytes⟩ := t
  have hs := dbg_space hw
  dsimp only at hs
  rcases hs with ⟨rfl, rfl, rfl, rfl, rfl, rfl⟩ | ⟨rfl, rfl, rfl⟩ | ⟨rfl, rfl, rfl, rfl, rfl⟩
  · refine (decode_encoded q 0xE3 ([f 2, z 62, f 24, z 40, z 64, f 64, f 13] : List Part)
      ([0, offset.toNat, host.toNat, bytes.toNat] : List Nat) (by decide) ?_ ?_).trans ?_
    · exact And.intro (by decide) (And.intro offset.isLt (And.intro host.isLt (And.intro bytes.isLt rfl)))
    · exact (payload_dbg_write _).trans (payload_dbg_register (dbg_form _ _ 0 (by decide)))
    · show some (Instr.dbgWrite q _) = _
      simp [bv, dbgTarget]
  · refine (decode_encoded q 0xE3 ([f 2, z 62, f 3, f 4, f 4, f 24, z 29, z 64, f 64, f 13] : List Part)
      ([1, cluster.toNat, tile.toNat, store.toNat, word.toNat, host.toNat, bytes.toNat] : List Nat) (by decide)
      ?_ ?_).trans ?_
    · exact And.intro (by decide) (And.intro cluster.isLt (And.intro tile.isLt (And.intro store.isLt
        (And.intro word.isLt (And.intro host.isLt (And.intro bytes.isLt rfl))))))
    · exact (payload_dbg_write _).trans (payload_dbg_store (dbg_form _ _ 1 (by decide)))
    · show some (Instr.dbgWrite q _) = _
      simp [bv, dbgTarget]
  · refine (decode_encoded q 0xE3 ([f 2, z 62, f 3, z 61, f 36, z 28, f 64, f 13] : List Part)
      ([2, cluster.toNat, physical.toNat, host.toNat, bytes.toNat] : List Nat) (by decide) ?_ ?_).trans ?_
    · exact And.intro (by decide) (And.intro cluster.isLt (And.intro physical.isLt (And.intro host.isLt
        (And.intro bytes.isLt rfl))))
    · exact (payload_dbg_write _).trans (payload_dbg_memory (dbg_form _ _ 2 (by decide)))
    · show some (Instr.dbgWrite q _) = _
      simp [bv, dbgTarget]

end Sys2Proof.Laws.RoundTrip
end

