-- ==== Sys2Proof/Tests/Slice0.lean ====
section
/-! SUPPORT. Tests: ill-formed commands that the check refuses, worked examples of the spec, and for every statement of
Certificates/Slice0/Obligations.lean a state and operands that meet its hypotheses, clause by clause. Expected values
come from the spec. -/

namespace Sys2Proof.Tests

/-! Each test is elaborated when it is read, so that few threads wait at once. -/
set_option Elab.async false
open Sys2Proof Sys2Proof.Machine

/-! ### Small states -/

/-- A plain header on host port 0's ring. -/
def hq : Req :=
  { ring := .host 0, idx := 0, tag := 7, ordered := false, fenceBefore := false, fenceAfter := false, notify := false,
    counters := false, watch := false, fbScope := 0, faScope := 0, deadline := 0 }

/-- A plain header on the ring of context 1. -/
def cq : Req := { hq with ring := .ctx 1 }

/-- A plain header on the ring of partition 0's management context. -/
def mq : Req := { hq with ring := .ctx 0 }

/-- A state whose only accepted command is i, not started. -/
def asked (i : Instr) (q : Req) (s : State) : State := { s with accepted := [{ q := q, cmd := i, since := 0 }] }

/-- The only accepted command is runnable. -/
theorem runs {i : Instr} {q : Req} {s : State} (h : s.felt.unacked = []) (hr : s.flt.restarting = [] := by rfl) :
    Runnable i q (asked i q s) :=
  runnable_alone (i := i) (a := { q := q, cmd := i, since := 0 }) rfl rfl rfl h hr

/-- The command can run from the state it is asked in, which meets P. -/
abbrev can (i : Instr) (q : Req) (s : State) (P : State → Prop) : Prop := Runnable i q (asked i q s) ∧ P (asked i q s)

/-- The descriptor of one 64 KiB tile of data in tier 1. -/
def descA : ObjDesc :=
  { kind := 1, home := 1, pin := false, prot := false, comp := false, elem := 0, tile := false, budget := 0, drop := 0,
    clu := 0, length := 65536, vbase := 65536 }

/-- An object of context 1: one tile of tier 1 at unit 100 of cluster 0. -/
def objA : Obj := { ctx := 1, desc := descA, tiles := [⟨⟨1, 0, 100⟩, 0⟩] }

/-- A second object of context 1, at unit 101. -/
def objB : Obj := { objA with desc := { descA with vbase := 131072 }, tiles := [⟨⟨1, 0, 101⟩, 0⟩] }

/-- Partition 0: cluster 0, owned by port 0, with one SYNC object and its registers at reset. -/
def ptnA : Partition :=
  { low := 0, n := 1, share := 4096, dirBase := 0, reserve := 4, token := 5, owner := some 0, syncs := [⟨3, 9⟩],
    live := PtnRegs.reset 1 4096 3, staged := PtnRegs.reset 1 4096 3 }

/-- The device in Run with port 0 attached, partition 0 with its management context and context 1, and two objects. -/
def s0 : State :=
  { State.reset with
    hosts := #v[{ attached := true }, {}], primary := some 0, ptns := State.reset.ptns.set 0 (some ptnA),
    ctxs := [{ no := 0, ring := { base := 65536 } }, { no := 1, ring := { base := 65536 } }], objs := [objA, objB],
    tier1Ready := true }

/-- The same with another partition 0. -/
def withPtn (f : Partition → Partition) : State := s0.modPtn 0 f

/-! ### Well-formedness -/

theorem test_wf_version : (Instr.devHello hq 0).wellFormed = false := by decide
theorem test_wf_attest : (Instr.devAttest hq 1 2 4095).wellFormed = false := by decide
theorem test_wf_devCommit : (Instr.devCommit hq 16).wellFormed = false := by decide
theorem test_wf_counters_on_host : (Instr.devNop { hq with counters := true }).wellFormed = false := by decide
theorem test_wf_watch : (Instr.devNop { cq with watch := true }).wellFormed = false := by decide
theorem test_wf_scope_without_fence :
    (Instr.devNop { cq with fbScope := 1 }).wellFormed = false ∧ (Instr.devNop { cq with faScope := 1 }).wellFormed = false := by
  decide
theorem test_wf_deadline_class :
    (Instr.devNop { cq with deadline := 1 }).wellFormed = false ∧ (Instr.fenceBarrier { cq with deadline := 1 }).wellFormed = true := by
  decide
theorem test_wf_ptnCreate :
    (Instr.ptnCreate hq 0 4096 64 0 false 1).wellFormed = false ∧ (Instr.ptnCreate hq 1 4097 64 0 false 1).wellFormed = false ∧
    (Instr.ptnCreate hq 1 1052672 64 0 false 1).wellFormed = false ∧ (Instr.ptnCreate hq 1 4096 63 0 false 1).wellFormed = false ∧
    (Instr.ptnCreate hq 1 4096 96 0 false 1).wellFormed = false ∧ (Instr.ptnCreate hq 1 4096 131071 0 false 1).wellFormed = false ∧
    (Instr.ptnCreate hq 1 4096 64 0 false 0).wellFormed = false ∧ (Instr.ptnCreate hq 1 4096 64 0 false 2048).wellFormed = false ∧
    (Instr.ptnCreate hq 1 4096 65536 0 false 2047).wellFormed = true := by decide
theorem test_wf_ctxCreate :
    (Instr.ctxCreate mq 32 false 0 1).wellFormed = false ∧ (Instr.ctxCreate mq 64 false 4096 1).wellFormed = false ∧
    (Instr.ctxCreate mq 64 true 4096 0).wellFormed = false := by decide
theorem test_wf_memFill : (Instr.memFill cq 65536 0 0 6).wellFormed = false := by decide
theorem test_wf_objPlace : (Instr.objPlace cq 65536 2).wellFormed = false := by decide
theorem test_wf_objDesc :
    (Instr.objCreate cq { descA with vbase := 0 }).wellFormed = true ∧
    (Instr.objCreate cq { descA with vbase := 0, kind := 3 }).wellFormed = false ∧
    (Instr.objCreate cq { descA with vbase := 0, home := 2 }).wellFormed = false ∧
    (Instr.objCreate cq { descA with vbase := 0, comp := true, prot := true, budget := 16 }).wellFormed = false ∧
    (Instr.objCreate cq { descA with vbase := 0, elem := 1 }).wellFormed = false ∧
    (Instr.objCreate cq { descA with vbase := 0, comp := true, budget := 15 }).wellFormed = false ∧
    (Instr.objCreate cq { descA with vbase := 0, comp := true, budget := 1025 }).wellFormed = false ∧
    (Instr.objCreate cq { descA with vbase := 0, comp := true, budget := 16, elem := 3 }).wellFormed = false ∧
    (Instr.objCreate cq { descA with vbase := 0, drop := 1 }).wellFormed = false ∧
    (Instr.objCreate cq { descA with vbase := 0, length := 4398046511105 }).wellFormed = false ∧
    (Instr.objCreate cq descA).wellFormed = false := by decide

/-- A SEQ.OPEN payload: INT8 keys and values of dimension 128, one layer, one head. -/
def openA : SeqOpenArgs :=
  { kvFmt := 4, hd := 7, layers := 1, heads := 1, layout := false, shardLog2 := 0, memberLog2 := 0, rank := 0,
    fromHandle := false, w := 0, input := 0, handle := 0 }

theorem test_wf_seqOpen :
    (Instr.seqOpen cq openA).wellFormed = true ∧ (Instr.seqOpen cq { openA with kvFmt := 7 }).wellFormed = false ∧
    (Instr.seqOpen cq { openA with kvFmt := 0 }).wellFormed = false ∧ (Instr.seqOpen cq { openA with hd := 6 }).wellFormed = false ∧
    (Instr.seqOpen cq { openA with layers := 0 }).wellFormed = false ∧ (Instr.seqOpen cq { openA with heads := 0 }).wellFormed = false ∧
    (Instr.seqOpen cq { openA with layout := true, shardLog2 := 7 }).wellFormed = false ∧
    (Instr.seqOpen cq { openA with memberLog2 := 7 }).wellFormed = false ∧
    (Instr.seqOpen cq { openA with shardLog2 := 1 }).wellFormed = false ∧
    (Instr.seqOpen cq { openA with memberLog2 := 1, rank := 2 }).wellFormed = false ∧
    (Instr.seqOpen cq { openA with layout := true, memberLog2 := 1 }).wellFormed = false ∧
    (Instr.seqOpen cq { openA with w := 65537 }).wellFormed = false := by decide
theorem test_wf_kvGlobal : (Instr.kvGlobal cq 0 65 false 65536 0).wellFormed = false := by decide

/-- A run payload that binds nothing. -/
def runA : RunArgs :=
  { image := 65536, list := 0, objOff := 0, nObj := 0, bindOff := 0, nBind := 0, q := 0, result := 0, verify := false,
    noFill := false }

theorem test_wf_run :
    (Instr.schedRun cq runA).wellFormed = true ∧ (Instr.schedRun cq { runA with objOff := 4 }).wellFormed = false ∧
    (Instr.schedRun cq { runA with bindOff := 8 }).wellFormed = false ∧ (Instr.schedRun cq { runA with list := 1, nObj := 257 }).wellFormed = false ∧
    (Instr.schedRun cq { runA with list := 1, nBind := 257 }).wellFormed = false ∧ (Instr.schedRun cq { runA with nObj := 1 }).wellFormed = false ∧
    (Instr.schedRun cq { runA with result := 1 }).wellFormed = false ∧ (Instr.schedRun cq { runA with verify := true }).wellFormed = false ∧
    (Instr.schedRun cq { runA with noFill := true }).wellFormed = false ∧ (Instr.schedRun cq { runA with list := 1, q := 1 }).wellFormed = false ∧
    (Instr.schedStep cq { runA with image := 16 }).wellFormed = false ∧ (Instr.schedStep cq { runA with image := 15 }).wellFormed = true := by
  decide
theorem test_wf_stepset : (Instr.schedStepset cq 65536 0 9).wellFormed = false := by decide

/-- A local weight source. -/
def libA : WgtSource := { isLocal := true, session := 0, reader := 0, modelId := 8, version := 1 }

theorem test_wf_weights :
    (Instr.wgtServe hq 8 1 5 0 3601).wellFormed = false ∧ (Instr.wgtLoad cq { libA with isLocal := false } false).wellFormed = false ∧
    (Instr.wgtSwap cq 65536 10001 libA).wellFormed = false ∧ (Instr.wgtSwap cq 65536 10000 libA).wellFormed = true := by decide

/-- A statistics watch point on the first word of an object. -/
def watchA : WatchArgs :=
  { index := 0, digest := false, tileTarget := false, fmt := 1, base := 65536, offset := 0, bytes := 4, cluster := 0, tile := 0,
    space := 0, word := 0, beat := 0, tileBytes := 0 }

theorem test_wf_watch_set :
    (Instr.watchSet cq watchA).wellFormed = true ∧ (Instr.watchSet cq { watchA with fmt := 7 }).wellFormed = false ∧
    (Instr.watchSet cq { watchA with digest := true, fmt := 11 }).wellFormed = false ∧
    (Instr.watchSet cq { watchA with tileTarget := true }).wellFormed = false ∧
    (Instr.watchSet cq { watchA with tileTarget := true, base := 0, bytes := 0, tileBytes := 6 }).wellFormed = false ∧
    (Instr.watchSet cq { watchA with beat := 1 }).wellFormed = false ∧
    (Instr.watchTrace cq 65536 0 64).wellFormed = false ∧ (Instr.watchTrace cq 65536 0 130).wellFormed = false ∧
    (Instr.ctrRead cq 2 0).wellFormed = false := by decide

/-- A register that DBG.READ names. -/
def regA : DbgTarget :=
  { space := 0, offset := 0, cluster := 0, tile := 0, store := 0, word := 0, physical := 0, host := 4096, bytes := 8 }

theorem test_wf_debug :
    (Instr.dbgRead hq { regA with bytes := 4097 }).wellFormed = false ∧ (Instr.dbgRead hq { regA with tile := 1 }).wellFormed = false ∧
    (Instr.dbgRead hq { regA with space := 1, offset := 8 }).wellFormed = false ∧
    (Instr.dbgWrite hq { regA with space := 2, word := 1 }).wellFormed = false ∧
    (Instr.dbgWrite hq { regA with space := 3 }).wellFormed = false ∧ (Instr.dbgUnretire hq 6 0).wellFormed = false := by decide

/-- A group of one member. -/
def groupA : GroupArgs := { group := 77, index := 0, count := 1, lockstep := true, list := 65536, listOff := 0, receive := 0 }

theorem test_wf_others :
    (Instr.pwrCap hq 0 120).wellFormed = false ∧ (Instr.pwrEnter hq 5).wellFormed = false ∧ (Instr.fabQuery hq 3 0).wellFormed = false ∧
    (Instr.fabGroup mq { groupA with index := 2 }).wellFormed = false ∧ (Instr.fabGroup mq { groupA with count := 256 }).wellFormed = false ∧
    (Instr.fabRotate hq 8).wellFormed = false ∧ (Instr.fabRotate hq 15).wellFormed = true ∧
    (Instr.fwStage hq 0 4194240 128).wellFormed = false ∧ (Instr.narrowLoad 0 0 0 0 3).wellFormed = false ∧
    (Instr.narrowStore 0 0 0 0 3 0 none).wellFormed = false := by decide

/-- A data frame of partition 0 with four bytes. -/
def frameA : Frame :=
  { ctr := 1, dst := 2, src := 3, type := 0, dpart := 0, spart := 0, hops := 0, kp := false, rsvd := 0, length := 4, seq := 0,
    offset := 0, tree := 0, payload := [1, 2, 3, 4], tag := 0 }

theorem test_wf_frames :
    (Instr.dataFrame 0 { frameA with length := 5 }).wellFormed = false ∧
    (Instr.multicastFrame 0 { frameA with length := 5 }).wellFormed = false ∧ (Instr.dataFrame 0 frameA).wellFormed = true := by decide

/-! ### The machine -/

theorem witness_StepRunsFront : ({ s0 with pending := [.beacon, .busOff] } : State).pending = Instr.beacon :: [.busOff] := rfl

theorem witness_IdlesAnswers : s0.pending = [] ∧ (∀ i < 6, (s0.stackRanks i).retiring = none) ∧ s0.felt.own = [] := by
  decide

theorem witness_MemoryKept : ∃ t, s0.memoryOk = true ∧ step s0 = .next t := ⟨_, by decide, rfl⟩

theorem witness_QueueKept : ∃ t, step { s0 with pending := [.refclkPresent, .beacon] } = .next t := ⟨_, rfl⟩

theorem witness_PacketRoundTrip :
    (Instr.objCreate { cq with ordered := true } { descA with vbase := 0 }).wellFormed = true ∧
    (Instr.objCreate { cq with ordered := true } { descA with vbase := 0 }).req? = some { cq with ordered := true } := by decide

theorem witness_OnlyAccepted :
    s0.startable (.devNop hq) = none ∧
    let first : Accepted := { q := { cq with fenceAfter := true, faScope := 1 }, cmd := .syncQuery cq 3, since := 0, started := true }
    let second : Accepted := { q := { cq with idx := 1 }, cmd := .devNop { cq with idx := 1 }, since := 0 }
    let s : State := { s0 with accepted := [first, second] }
    s.startable (.devNop { cq with idx := 1 }) = some second ∧ s.orderAllows second = false := by decide

theorem witness_CompletionEntry :
    let s := asked (.devNop hq) hq s0
    hq.ring = .host 0 ∧ hq.counters = false ∧ (s.accepted.find? fun x => x.q == hq) = s.accepted.head? ∧
    (s.accepted.map (·.void)) = [false] ∧ Mem.wf (s.host 0).wardenMem = true := by decide

/-- Two ordered commands of one ring, the first still going on, and one that is not ordered. -/
def queueA : List Accepted :=
  [{ q := { cq with ordered := true }, cmd := .syncWait { cq with ordered := true } 3 10, since := 0, started := true },
   { q := { cq with ordered := true, idx := 1 }, cmd := .devNop { cq with ordered := true, idx := 1 }, since := 0 },
   { q := { cq with idx := 2 }, cmd := .devNop { cq with idx := 2 }, since := 0 }]

theorem witness_OrderedChains :
    let s : State := { s0 with accepted := queueA }
    (∀ x ∈ queueA.take 1, x.q ≠ { cq with ordered := true, idx := 1 }) ∧
    (∃ x ∈ queueA.take 1, x.q.ring = cq.ring ∧ x.void = false ∧ x.q.ordered = true) ∧
    s.startable (.devNop { cq with ordered := true, idx := 1 }) = queueA[1]? ∧
    (∀ x ∈ queueA.take 2, x.q ≠ { cq with idx := 2 } ∧ x.q.fenceAfter = false) ∧
    (queueA.all fun a => !s.feltHolds a && !a.q.fenceBefore && a.cmd.opcode != 0x90) = true := by decide

/-! ### Rings -/

/-- Port 0's host ring holds one packet that is not yet accepted. -/
def holding (i : Instr) : State :=
  s0.modHost 0 fun x => { x with wardenMem := Mem.write [] 0 (Bits.toBytes 64 (Packet.encode i)), ring := { sqTail := 1 } }

/-- Port 0's host ring holds a packet whose opcode is none. -/
def badPacket : State := (holding (.devNop hq)).modHost 0 fun x => { x with wardenMem := [(0, 255)] }

/-- Context 1's ring, whose object lies below a broken node. -/
def brokenRingS : State :=
  { s0.modCtx 1 fun x => { x with ring := { base := 65536, sqTail := 1 } } with objs := [{ objA with broken := some 7 }] }

/-- A host ring whose completion slots are all taken. -/
def fullS : State := s0.modRing (.host 0) fun rp => { rp with cqTail := BitVec.ofNat 32 rp.n }

theorem witness_RingTraffic :
    s0.wake.ringsDoorbell 0 (.ctx 1) = true ∧ (s0.wake.ring? (.ctx 1)).map (fun rp => (rp.tailOk 64, rp.tailOk 65, rp.headOk 0, rp.headOk 1)) =
      some (true, false, true, false) ∧
    (∀ i ∈ [Instr.devNop hq, .syncCreate hq 5], let s := holding i
      let w := Bits.ofBytes (s.readRing (.host 0) 0 64)
      w = Packet.encode i ∧ Packet.decode (.host 0) 0 w = some i ∧ s.accepts (.host 0) = true ∧ s.isTurn (.host 0) = true ∧
      (s.ring? (.host 0)).map (fun rp => (s.roomFor (.host 0) rp (unitsOf w), rp.sqTail != rp.sqHead)) = some (true, true)) ∧
    Packet.decode (.host 0) 0 (Bits.ofBytes (badPacket.readRing (.host 0) 0 64)) = none ∧ badPacket.accepts (.host 0) = true ∧
    badPacket.isTurn (.host 0) = true ∧
    (holding (.devNop hq)).refusal (.host 0) (.devNop hq) = none ∧ (holding (.devNop hq)).brokenRing (.host 0) = none ∧
    ((brokenRingS.brokenRing (.ctx 1)).isSome ∧ brokenRingS.accepts (.ctx 1) = true ∧ brokenRingS.isTurn (.ctx 1) = true) ∧
    (holding (.syncCreate hq 5)).refusal (.host 0) (.syncCreate hq 5) = some stDenied ∧
    (∀ dropped ∈ [0, 1], let b : EventBuf := { waiting := [⟨0, 0x90, 1, 0, 0⟩], number := 1, dropped := dropped }
      let s := s0.modHost 0 fun x => { x with events := b }
      s.events? (.host 0) = some b ∧ (s.ring? (.host 0)).map (fun rp => decide ((s.acceptedOf (.host 0)).length < rp.freeSlots)) =
        some true ∧ s.writesTo (.host 0) = true ∧ ({ s with power := .frost } : State).writesTo (.host 0) = false) ∧
    (fullS.ring? (.host 0)).map (fun rp => decide (rp.freeSlots ≤ (fullS.acceptedOf (.host 0)).length)) = some true := by
  decide +kernel

/-! ### DEV, FENCE and SYNC -/

/-- Partition 0 with every SYNC number in use. -/
def fullA : Partition := { ptnA with syncs := (List.range 4096).map fun k => ⟨BitVec.ofNat 12 k, 0⟩ }

theorem witness_DevAndSync :
    (∀ i ∈ [Instr.devNop hq, .devQuery hq, .devHello hq 1, .fenceBarrier hq], Runnable i hq (asked i hq s0)) ∧
    can (.fenceBarrier { hq with fbScope := 3 }) { hq with fbScope := 3 } s0
      (fun s => s.hostUp { hq with fbScope := 3 } = true ∧ ∀ a ∈ s.accepted, a.cutOff = false) ∧
    (let q : Req := { hq with fbScope := 3 };
      let a : Accepted := { q := q, cmd := .fenceBarrier q, since := 0, cutOff := true };
      Runnable (.fenceBarrier q) q { s0 with accepted := [a] } ∧ a.q = q ∧ a.cutOff = true) ∧
    can (.fenceBarrier { cq with fbScope := 3 }) { cq with fbScope := 3 } (s0.modHost 0 fun x => { x with attached := false })
      (fun s => s.hostUp { cq with fbScope := 3 } = false) ∧
    can (.syncCreate cq 1) cq s0 (fun s => s.ptn? 0 = some ptnA ∧ 0 ∉ ptnA.syncs.map fun y => y.no.toNat) ∧
    can (.syncCreate cq 1) cq (withPtn fun _ => fullA) (fun s =>
      s.ptn? 0 = some fullA ∧ ∀ k < 4096, k ∈ fullA.syncs.map fun y => y.no.toNat) ∧
    (∀ v ∈ [9, 10], can (.syncWait cq 3 v) cq s0 (fun s => s.sync? 0 3 = some ⟨3, 9⟩)) ∧
    (∀ v ∈ [0, 1, 0xFFFFFFFFFFFFFFFF], can (.syncSignal cq 3 v) cq s0 (fun s => s.sync? 0 3 = some ⟨3, 9⟩)) ∧
    can (.syncQuery cq 3) cq s0 (fun s => s.sync? 0 3 = some ⟨3, 9⟩) ∧
    can (.syncFree cq 3) cq s0 (fun s => s.sync? 0 3 = some ⟨3, 9⟩) := by
  refine ⟨fun i _ => runs rfl, ⟨runs rfl, rfl, by decide⟩, ⟨runnable_alone (a := { q := { hq with fbScope := 3 }, cmd := .fenceBarrier { hq with fbScope := 3 }, since := 0, cutOff := true })
      rfl rfl rfl rfl rfl, rfl, rfl⟩, ⟨runs rfl, rfl⟩, ⟨runs rfl, rfl, by decide⟩, ⟨runs rfl, rfl, fun k hk => ?_⟩,
    fun v _ => ⟨runs rfl, rfl⟩, fun v _ => ⟨runs rfl, rfl⟩, ⟨runs rfl, rfl⟩, ⟨runs rfl, rfl⟩⟩
  simp only [fullA, List.map_map, List.mem_map, List.mem_range, Function.comp, BitVec.toNat_ofNat]
  exact ⟨k, hk, Nat.mod_eq_of_lt hk⟩

/-! ### Objects and their bytes -/

/-- A tile of data to be created. -/
def newA : ObjDesc := { descA with vbase := 0 }

/-- An object of context 1 in tier 0. -/
def objL : Obj := { objA with desc := { descA with home := 0 }, tiles := [⟨⟨0, 0, 5⟩, 0⟩] }

/-- Partition 0 in pool mode, whose object of tier 0 is on its way to tier 1. -/
def poolS : State :=
  { (withPtn fun x => { x with live := { x.live with quotaCfg := 1 } }) with objs := [objL], migrations := [⟨1, 65536, 0, ⟨1, 0, 200⟩⟩] }

/-- A free span at 32 MiB makes room for an object, whatever base the free value proposes. -/
theorem fits_of {s : State} {c : CtxNo} {d : ObjDesc} {tiles : Nat} (h : s.objCount c < 65536)
    (hb : s.baseFree c (tileBytes d) (tiles * tileBytes d) 33554432 = true) : s.objFits c d tiles = true := by
  simp only [State.objFits, State.chooseBase, Bool.and_eq_true, decide_eq_true_eq]
  refine ⟨h, ?_⟩
  split
  · rfl
  · rw [Option.isSome_map]
    refine Option.isSome_iff_ne_none.mpr fun e => ?_
    have := List.min?_eq_none_iff.mp e
    exact absurd (List.mem_filter.mpr ⟨List.mem_cons_of_mem _ List.mem_cons_self, hb⟩) (by rw [this]; exact List.not_mem_nil)

/-- No base frees a span beyond the address range. -/
theorem fits_not {s : State} {c : CtxNo} {d : ObjDesc} {tiles : Nat}
    (hb : ∀ b, s.baseFree c (tileBytes d) (tiles * tileBytes d) b = false) : s.objFits c d tiles = false := by
  simp [State.objFits, State.chooseBase, hb]

theorem witness_ObjectCreation :
    can (.objCreate cq { newA with length := 0 }) cq s0 (fun s => s.ptn? 0 = some ptnA ∧ newA.clu.toNat < ptnA.n) ∧
    can (.objCreate cq { newA with clu := 1 }) cq s0 (fun s => s.ptn? 0 = some ptnA ∧ ptnA.n ≤ 1) ∧
    can (.objCreate cq { newA with length := 4398046511104 }) cq s0 (fun s => s.ptn? 0 = some ptnA ∧
      (s.start cq).objFits 1 { newA with length := 4398046511104 } (tilesOf { newA with length := 4398046511104 }) = false) ∧
    can (.objCreate cq newA) cq s0 (fun s => s.ptn? 0 = some ptnA ∧ newA.clu.toNat < ptnA.n ∧ newA.length ≠ 0 ∧ newA.home ≠ 0 ∧
      (s.start cq).objFits 1 newA (tilesOf newA) = true ∧ s.pooled 0 = false) ∧
    can (.objCreate cq { newA with home := 0 }) cq s0 (fun s => s.ptn? 0 = some ptnA ∧ s.pooled 0 = false) ∧
    can (.objCreate cq { newA with home := 0 }) cq poolS (fun s => (s.ptn? 0).isSome ∧ s.pooled 0 = true ∧
      (s.start cq).objFits 1 { newA with home := 0 } (tilesOf newA) = true ∧
      ((s.start cq).createRoom 0 { newA with home := 0 } 0).carried 0 none 0 ≠ 0) ∧ 0 < tilesOf newA :=
  ⟨⟨runs rfl, rfl, by decide⟩, ⟨runs rfl, rfl, by decide⟩, ⟨runs rfl, rfl, fits_not fun b => by
      have h : tilesOf { newA with length := 4398046511104 } * tileBytes { newA with length := 4398046511104 } = 2 ^ 42 := by decide
      simp only [State.baseFree, h, Bool.and_eq_false_iff, bne_eq_false_iff_eq, decide_eq_false_iff_not]
      omega⟩,
    ⟨runs rfl, rfl, by decide, by decide, by decide, fits_of (by decide) (by decide), by decide⟩, ⟨runs rfl, rfl, by decide⟩,
    ⟨runs rfl, by decide +kernel, by decide +kernel, fits_of (by decide) (by decide), by decide +kernel⟩, by decide⟩

/-- An object whose tile lies in tier 1 and whose home is tier 0, and a state with it. -/
def objFar : Obj := { objA with desc := { descA with home := 0 } }
/-- The device with it. -/
def farS : State := { s0 with objs := [objFar] }

/-- The object, pinned; as a ring pair of the device's; and below a broken node. -/
def pinnedA : Obj := { objA with desc := { descA with pin := true } }
/-- A ring pair's object. -/
def ringA : Obj := { objA with desc := { descA with kind := kindRing } }
/-- The object below a broken node. -/
def brokenA : Obj := { objA with broken := some 7 }
/-- The run in progress binds the object. -/
def boundS : State :=
  { (withPtn fun x => { x with run := some { q := cq, ctx := 1, isStep := false, image := 131072, args := runA, objs := [65536] } }) with objs := [objFar] }

theorem witness_ObjectChanges :
    can (.objPin cq 65536) cq s0 (fun s => s.obj? 1 65536 = some objA ∧ objA.broken = none ∧ objA.ofDevice = false ∧
      ∀ t ∈ objA.tiles, t.place.tier = objA.desc.home.toNat) ∧
    can (.objPin cq 65536) cq farS (fun s => s.obj? 1 65536 = some objFar ∧ objFar.broken = none ∧ objFar.ofDevice = false ∧
      s.loaded 1 65536 = false ∧ (∃ t ∈ objFar.tiles, t.place.tier ≠ objFar.desc.home.toNat) ∧ s.bound objFar = false) ∧
    can (.objPin cq 65536) cq { s0 with images := [⟨1, 65536, 0, [], [], [], [], []⟩] } (fun s => s.obj? 1 65536 = some objA ∧
      s.loaded 1 65536 = true) ∧
    can (.objPlace cq 65536 0) cq farS (fun s => s.obj? 1 65536 = some objFar ∧ objFar.desc.pin = false ∧ s.bound objFar = false) ∧
    (farS.giveHome objFar 1).objMigrates 1 65536 = false ∧
    ({ s0 with objs := [objL], migrations := [⟨1, 65536, 0, ⟨1, 0, 200⟩⟩] }.giveHome objL 1).objMigrates 1 65536 = true ∧
    can (.objUnpin cq 65536) cq s0 (fun s => s.obj? 1 65536 = some objA ∧ objA.ofDevice = false ∧ s.loaded 1 65536 = false) ∧
    can (.objPlace cq 65536 0) cq s0 (fun s => s.obj? 1 65536 = some objA ∧ objA.desc.pin = false ∧ s.loaded 1 65536 = false ∧
      s.bound objA = false) ∧
    can (.objPlace cq 65536 0) cq { s0 with objs := [pinnedA] } (fun s => s.obj? 1 65536 = some pinnedA ∧ pinnedA.desc.pin = true) ∧
    can (.objFree cq 65536) cq { s0 with objs := [ringA] } (fun s => s.obj? 1 65536 = some ringA ∧ ringA.ofDevice = true) ∧
    can (.objPin cq 65536) cq { s0 with objs := [brokenA] } (fun s => s.obj? 1 65536 = some brokenA ∧ brokenA.broken.isSome) ∧
    can (.objPin cq 1) cq s0 (fun s => s.obj? 1 1 = none) ∧
    can (.objPin cq 65536) cq boundS (fun s => s.obj? 1 65536 = some objFar ∧ s.bound objFar = true) ∧
    can (.objFree cq 65536) cq s0 (fun s => s.obj? 1 65536 = some objA ∧ s.loaded objA.ctx 65536 = false) ∧
    can (.objQuery cq 65536) cq s0 (fun s => s.obj? 1 65536 = some objA) :=
  ⟨⟨runs rfl, rfl, rfl, rfl, by decide⟩, ⟨runs rfl, rfl, rfl, rfl, rfl, by decide, by decide⟩, ⟨runs rfl, rfl, by decide⟩,
    ⟨runs rfl, rfl, rfl, by decide⟩, by decide +kernel, by decide +kernel, ⟨runs rfl, rfl, rfl, rfl⟩, ⟨runs rfl, rfl, rfl, rfl, by decide⟩, ⟨runs rfl, rfl, rfl⟩,
    ⟨runs rfl, rfl, rfl⟩, ⟨runs rfl, rfl, rfl⟩, ⟨runs rfl, by decide⟩, ⟨runs rfl, by decide +kernel, by decide +kernel⟩, ⟨runs rfl, rfl, rfl⟩, ⟨runs rfl, rfl⟩⟩

/-- A protected object of context 1 beside the others. -/
def secretA : Obj := { objA with desc := { descA with vbase := 196608, prot := true }, tiles := [⟨⟨1, 0, 102⟩, 0⟩] }

theorem witness_ObjectChanges_protected :
    ({ s0 with objs := [secretA] } : State).obj? 1 196608 = some secretA ∧ secretA.desc.prot = true ∧
    (∀ k ∈ secretA.tiles, k.place.tier ≤ 1) ∧ objA.desc.prot = false ∧ 65535 < tileBytes secretA.desc := by decide

/-- The object as one of weights. -/
def weightObjA : Obj := { objA with desc := { descA with kind := kindWeights } }

/-- The device with one object of tier 0, which meets no errors of a stack, and a second one of tier 1. -/
def layerS : State := { s0 with objs := [objL, objB] }

theorem witness_MemoryCommands :
    (∀ n ∈ ([1, 65536] : List (BitVec 32)),
      can (.memWrite cq 65536 0 4096 n) cq s0 (fun s => s.obj? 1 65536 = some objA ∧ objA.desc.kind ≠ kindWeights ∧
        n.toNat ≤ objA.size ∧ s.memWaits objA = false ∧ s.hostUp cq = true) ∧
      can (.memRead cq 65536 0 4096 n) cq layerS (fun s => s.obj? 1 65536 = some objL ∧ s.memWaits objL = false ∧
        ((s.start cq).hostMeets objL 0 n.toNat true).objPoison objL 0 n.toNat = none) ∧
      can (.memCopy cq 65536 0 131072 0 n) cq layerS (fun s => s.obj? 1 65536 = some objL ∧ s.obj? 1 131072 = some objB ∧
        s.memWaits objL = false ∧ s.memWaits objB = false ∧
        ((s.start cq).hostMeets objL 0 n.toNat true).objPoison objL 0 n.toNat = none) ∧
      can (.memFill cq 65536 0 0xABCD n) cq s0 (fun s => s.obj? 1 65536 = some objA ∧ n.toNat ≤ objA.size)) ∧
    Runnable (.memWrite cq 65536 0 4096 0) cq (asked (.memWrite cq 65536 0 4096 0) cq s0) ∧
    can (.memRead cq 65536 1 4096 65536) cq s0 (fun s => s.obj? 1 65536 = some objA ∧ objA.size < 1 + 65536) ∧
    can (.memWrite cq 65536 0 4096 1) cq (s0.modHost 0 fun x => { x with attached := false }) (fun s => s.hostUp cq = false) ∧
    can (.memFill cq 65536 0 1 1) cq { s0 with objs := [weightObjA] } (fun s => s.obj? 1 65536 = some weightObjA ∧
      weightObjA.desc.kind = kindWeights) ∧
    can (.memCopy cq 65536 0 131072 0 1) cq { s0 with objs := [objA, { brokenA with desc := objB.desc }] }
      (fun s => (s.obj? 1 131072).map (·.broken.isSome) = some true) ∧
    can (.memRead cq 65536 0 4096 1) cq { s0 with migrations := [⟨1, 65536, 0, ⟨0, 0, 200⟩⟩] } (fun s => s.memWaits objA = true) ∧
    can (.memRead cq 65536 0 4096 65) cq { layerS with poison := [poisonLineOf 0 0 (5 * 65536 + 64)] }
      (fun s => ((s.start cq).hostMeets objL 0 65 true).objPoison objL 0 65 = some 64) := by
  refine ⟨fun n hn => ?_, runs rfl, ⟨runs rfl, rfl, by decide⟩, ⟨runs rfl, rfl⟩, ⟨runs rfl, rfl, rfl⟩, ⟨runs rfl, by decide⟩, ⟨runs rfl, by decide⟩,
    ⟨runs rfl, by decide +kernel⟩⟩
  simp only [List.mem_cons, List.not_mem_nil, or_false] at hn
  obtain rfl | rfl := hn
  · exact ⟨⟨runs rfl, rfl, by decide, by decide, rfl, rfl⟩, ⟨runs rfl, rfl, by decide +kernel, by decide +kernel⟩,
      ⟨runs rfl, rfl, rfl, by decide +kernel, by decide +kernel, by decide +kernel⟩, ⟨runs rfl, rfl, by decide⟩⟩
  · exact ⟨⟨runs rfl, rfl, by decide, by decide, rfl, rfl⟩, ⟨runs rfl, rfl, by decide +kernel, by decide +kernel⟩,
      ⟨runs rfl, rfl, rfl, by decide +kernel, by decide +kernel, by decide +kernel⟩, ⟨runs rfl, rfl, by decide⟩⟩

theorem witness_ObjectBytes :
    s0.tier1.wf = true ∧ s0.layer.wf = true ∧ objA.locate 65535 = some (1, 0, 100 * 65536 + 65535) ∧
    (∀ i < 2, ∀ k c' x, objA.locate (65534 + i) = some (k, c', x) → (k = 0 ↔ 1 = 0) → tierKey 1 c' x ≠ tierKey 1 0 0) := by
  refine ⟨rfl, rfl, by decide, fun i hi k c' x h _ => ?_⟩
  match i, hi with
  | 0, _ => cases h; decide
  | 1, _ => cases h; decide

/-! ### Partitions and contexts -/

theorem witness_PartitionCreation :
    (∀ m ∈ ([0, 5, 6, 0x60] : List (BitVec 8)), can (.ptnCreate hq m 4096 64 0 false 1) hq s0 (fun _ => clustersOf m = none)) ∧
    can (.ptnCreate hq 1 4096 64 0 false 1) hq s0 (fun s => clustersOf 1 = some (0, 1) ∧ (s.ptnOfCluster 0).isSome) ∧
    can (.ptnCreate hq 2 4096 64 0 true 1) hq s0 (fun s => clustersOf 2 = some (1, 1) ∧ s.ptnOfCluster 1 = none ∧ (s.ptn? 0).isSome) ∧
    can (.ptnCreate hq 2 4096 64 0 false 1) hq { s0 with ptns := Vector.replicate 8 (some ptnA) }
      (fun s => s.ptnOfCluster 1 = none ∧ ∀ j < 8, (s.ptn? j).isSome) ∧
    can (.ptnCreate hq 2 1048576 64 0 false 1) hq s0 (fun s => s.ptnOfCluster 1 = none ∧ s.ptn? 1 = none ∧ s.freeShare 1048576 = none) ∧
    can (.ptnCreate hq 2 4096 64 0 false 1) hq { s0 with tier1Ready := false } (fun s => s.ptn? 1 = none ∧
      (s.freeShare 4096).isSome ∧ (s.freeUnit 1 1 68 1).isSome ∧ s.tier1Ready = false) ∧
    (∀ use ∈ [true, false], can (.ptnCreate hq 0x80 4096 64 1 use 1) hq s0 (fun s => clustersOf 0x80 = some (7, 1) ∧
      s.ptnOfCluster 7 = none ∧ (if use then 1 = (1 : BitVec 3).toNat else 1 < 8 ∧ ∀ j < 1, (s.ptn? j).isSome) ∧
      s.ptn? 1 = none ∧ (s.freeShare 4096).isSome ∧ (s.freeUnit 1 7 68 1).isSome ∧ s.tier1Ready = true ∧ s.rng.failing = false)) := by
  refine ⟨fun m hm => ⟨runs rfl, ?_⟩, ⟨runs rfl, by decide, by decide⟩, ⟨runs rfl, by decide, rfl, by decide⟩,
    ⟨runs rfl, by decide, by decide⟩, ⟨runs rfl, rfl, rfl, by decide +kernel⟩, ⟨runs rfl, rfl, by decide +kernel, by decide +kernel, rfl⟩,
    fun use hu => ⟨runs rfl, by decide, rfl, ?_, rfl, ?_, ?_, rfl, rfl⟩⟩
  · revert m; decide
  · revert use; decide
  · decide +revert +kernel
  · decide +revert +kernel

theorem witness_PartitionEnd :
    can (.ptnDestroy hq 0) hq s0 (fun s => s.named hq 0 = some 0 ∧ s.ptn? 0 = some ptnA ∧ ptnA.destroying = false ∧
      (s.accepted.any fun a => a.cmd == .ptnDestroy hq 0 && a.started) = false) ∧
    can (.ptnDestroy hq 0) hq (withPtn fun x => { x with destroying := true }) (fun s => s.named hq 0 = some 0 ∧
      s.ptn? 0 = some { ptnA with destroying := true }) ∧
    (let s := (asked (.ptnDestroy hq 0) hq (withPtn fun x => { x with destroying := true })).start hq;
      (s.accepted.any fun a => a.cmd == .ptnDestroy hq 0 && a.started) = true ∧ s.ptn? 0 = some { ptnA with destroying := true }) :=
  ⟨⟨runs rfl, rfl, rfl, rfl, by decide⟩, ⟨runs rfl, rfl, rfl⟩, ⟨by decide, rfl⟩⟩

/-- The binds of the last second: sixteen that failed. -/
def barred : State := s0.modHost 0 fun x => { x with badBinds := List.replicate 16 0 }

/-- Partition 0 orphaned, its runtime gone. -/
def orphan : Partition := { ptnA with orphanedAt := some 0 }

theorem witness_PartitionBind :
    can (.ptnBind hq 5) hq barred (fun s => bindBarred s.now (s.host 0).badBinds = true) ∧
    can (.ptnBind hq 5) hq s0 (fun s => bindBarred s.now (s.host 0).badBinds = false ∧
      ∀ p < 8, ∀ x, s.ptn? p = some x → ¬(x.token = 5 ∧ x.orphanedAt.isSome ∧ x.destroying = false)) ∧
    can (.ptnBind hq 5) hq (withPtn fun _ => orphan) (fun s => bindBarred s.now (s.host 0).badBinds = false ∧
      s.ptn? 0 = some orphan ∧ orphan.token = 5 ∧ orphan.orphanedAt.isSome ∧ orphan.destroying = false ∧ s.rng.failing = false) ∧
    can (.ptnBind hq 5) hq { (withPtn fun _ => orphan) with rng := { failing := true } } (fun s => s.ptn? 0 = some orphan ∧
      s.rng.failing = true) := by
  refine ⟨⟨runs rfl, by decide⟩, ⟨runs rfl, by decide, fun p hp x hx => ?_⟩, ⟨runs rfl, by decide, rfl, rfl, rfl, rfl, rfl⟩, ⟨runs rfl, rfl, rfl⟩⟩
  match p, hp with
  | 0, _ => cases hx; decide
  | 1, _ | 2, _ | 3, _ | 4, _ | 5, _ | 6, _ | 7, _ => cases hx

/-- Partition 0, whose configuration only its host may change. -/
def hostOnlyA : Partition := { ptnA with secCfg := 1 }

theorem witness_PartitionConfig :
    can (.ptnQuery hq 0) hq s0 (fun s => s.named hq 0 = some 0 ∧ s.ptn? 0 = some ptnA) ∧
    can (.ptnStage hq 0 0 0 1 0) hq s0 (fun _ => True) ∧
    can (.ptnStage mq 0x600 1 0 1 1) mq (withPtn fun _ => hostOnlyA) (fun s => s.named mq 0 = some 0 ∧ s.ptn? 0 = some hostOnlyA ∧
      hostOnly mq hostOnlyA = true) ∧
    can (.ptnStage hq 0x608 1 0 1 1) hq s0 (fun s => s.named hq 0 = some 0 ∧ s.ptn? 0 = some ptnA ∧ hostOnly hq ptnA = false ∧
      (PReg.all.find? fun r => r.offset 0 == (1, 0x608)) = some .pfx) ∧
    can (.ptnStage hq 0x609 1 0 1 1) hq s0 (fun _ => (PReg.all.find? fun r => r.offset 0 == (1, 0x609)) = none ∧
      (DReg.fltPtn 0).offset ≠ (1, 0x609)) ∧
    (∀ e, (DReg.fltPtn 0).offset = e → (PReg.all.find? fun r => r.offset 0 == e) = none) ∧
    can (.ptnCommit hq 16 0) hq s0 (fun s => s.named hq 0 = some 0 ∧ s.ptn? 0 = some ptnA ∧
      ((s.start hq).commitPtn 0 16 (some hq)).2 = none) ∧
    can (.ptnCommit hq 64 0) hq (withPtn fun x => { x with staged := { x.staged with fab := 0x100 + 61 } })
      (fun s => (((s.start hq).commitPtn 0 64 (some hq)).2).map (·.1) = some stConflict) ∧
    can (.devCommit hq 0) hq s0 (fun s => ((s.start hq).commitDevice (DReg.chosen (0 : BitVec 8).toNat)).2 = (stOkEmpty, 0)) :=
  ⟨⟨runs rfl, rfl, rfl⟩, ⟨runs rfl, trivial⟩, ⟨runs rfl, rfl, rfl, by decide⟩, ⟨runs rfl, rfl, rfl, by decide, by decide⟩,
    ⟨runs rfl, by decide, by decide⟩, by rintro e rfl; decide, ⟨runs rfl, rfl, rfl, by decide +kernel⟩, ⟨runs rfl, by decide +kernel⟩, ⟨runs rfl, by decide +kernel⟩⟩

/-- A fault record of partition 0 with a sample of two bytes in unit 300. -/
def recordA : FaultRecord := { number := 6, ctx := 1, bits := 0, sample := some 2, units := [(0, 300)] }

/-- The device with it. -/
def sampleS : State := { (withPtn fun x => { x with records := [recordA] }) with tier1 := [(300 * 65536, 1), (300 * 65536 + 1, 2)] }

theorem witness_Contexts :
    can (.ctxCreate mq 64 false 0 1) mq s0 (fun s => s.ctx? (BitVec.ofNat 11 (ptnOf 0 * 256 + 2)) = none ∧
      (s.ctx? (BitVec.ofNat 11 (ptnOf 0 * 256 + 1))).isSome) ∧
    can (.ctxDestroy mq 0) mq s0 (fun s => (s.ctx? 0).isSome ∧ isMgmt 0 = true) ∧
    can (.ctxDestroy mq 1) mq s0 (fun s => (s.ctx? 1).isSome ∧ isMgmt 1 = false) ∧
    can (.ctxDestroy mq 256) mq s0 (fun _ => ptnOf 256 ≠ ptnOf 0) ∧
    can (.ctxLimit mq 1 1 1) mq s0 (fun s => (s.ctx? 1).isSome) ∧
    can (.ctxQuery cq 1) cq s0 (fun s => (s.ctx? 1).isSome) ∧
    can (.ctxCreate mq 64 false 0 1) mq { s0 with ctxs := (List.range 256).map fun j => { no := BitVec.ofNat 11 j, ring := { base := 65536 } } }
      (fun s => ∀ j < 256, (s.ctx? (BitVec.ofNat 11 (ptnOf 0 * 256 + j))).isSome) ∧
    can (.ctxQuery cq 0) cq s0 (fun _ => isMgmt 1 = false) ∧
    can (.ctxLimit mq 1 0 0) mq s0 (fun s => ((s.start mq).modCtx 1 fun x => { x with limT0 := some 0, limT1 := some 0 }).aboveLimit 1 = true) ∧
    can (.ctxSample mq 1 7 65536 0 1) mq { sampleS with objs := [{ objA with ctx := 0 }] } (fun s => s.sample? 0 7 = none) ∧
    can (.ctxSample mq 1 6 65536 0 0) mq sampleS (fun _ => True) ∧
    can (.ctxSample mq 1 6 65536 1 65536) mq { sampleS with objs := [{ objA with ctx := 0 }] } (fun _ => objA.size < 1 + 65536) ∧
    can (.ctxSample mq 1 6 65536 0 1) mq
      { sampleS with objs := [{ objA with ctx := 0 }] }
      (fun s => s.obj? 0 65536 = some { objA with ctx := 0 } ∧ s.sample? 0 6 = some [1, 2] ∧ objA.desc.kind = kindData ∧ 1 ≤ objA.size ∧
        s.memWaits { objA with ctx := 0 } = false) :=
  ⟨⟨runs rfl, rfl, by decide⟩, ⟨runs rfl, by decide, by decide⟩, ⟨runs rfl, by decide, by decide⟩, ⟨runs rfl, by decide⟩,
    ⟨runs rfl, by decide⟩, ⟨runs rfl, by decide⟩, ⟨runs rfl, by decide +kernel⟩, ⟨runs rfl, by decide⟩,
    ⟨runs rfl, by decide +kernel⟩, ⟨runs rfl, by decide +kernel⟩, ⟨runs rfl, trivial⟩, ⟨runs rfl, by decide⟩,
    ⟨runs rfl, rfl, by decide +kernel, rfl, by decide, rfl⟩⟩

/-! ### Registers -/

/-- The device with port 0 attached and no partition. -/
def sNone : State := { State.reset with hosts := #v[{ attached := true }, {}], primary := some 0, tier1Ready := true }

theorem witness_RegisterStores :
    s0.barUp 0 = true ∧ s0.recovery = none ∧ (0x300 : BitVec 24).toNat % 8 = 0 ∧ (0x304 : BitVec 24).toNat % 4 = 0 ∧
    (2 : BitVec 24).toNat % (if true then 8 else 4) ≠ 0 ∧ (2 : BitVec 24).toNat % (if false then 8 else 4) ≠ 0 ∧
    s0.seesPtn { port := 0 } 0 = true ∧ s0.mayWriteDev { port := 0 } = true ∧
    s0.seesPtn { port := 1 } 0 = false ∧ s0.mayWriteDev { port := 1 } = false ∧ (∀ p, DReg.fab ≠ .fltPtn p) ∧
    (0xFFFFFFFF : Nat) < 2 ^ 32 ∧ s0.restarting wardenIsland = false ∧ needsWarden 0x300 = true ∧ needsWarden 0x304 = false ∧
    ({ s0 with flt := { s0.flt with restarting := [{ island := wardenIsland, since := 0 }] } } : State).restarting wardenIsland = true := by decide

theorem witness_FieldConfig :
    (∀ x ∈ [0x301, 0x37E], BitVec.ofNat 10 x ≠ sNone.field.cfg ∧ sNone.mayWriteDev { port := 0 } = true ∧ sNone.ptnNos = [] ∧
      1 ≤ x % 128 ∧ x % 128 ≤ 0x7E) ∧
    (BitVec.ofNat 10 0x300 ≠ sNone.field.cfg ∧ 0x300 % 128 = 0) ∧ (BitVec.ofNat 10 0x37F ≠ sNone.field.cfg ∧ 0x37F % 128 = 0x7F) ∧
    sNone.mayWriteDev { port := 1 } = false ∧ s0.ptnNos ≠ [] := by decide

/-- Partition 0 with a staged prefix limit and slots that no check passes. -/
def overA : Partition := { ptnA with staged := { ptnA.staged with pfx := 0x1FFFF, fab := 0x13D } }

theorem witness_Commits :
    s0.ptn? 0 = some ptnA ∧ 255 < 256 ∧ (∀ k ∈ s0.ptnChecks 0 ptnA 16, k.2 = true) ∧
    (withPtn fun _ => overA).ptn? 0 = some overA ∧
    (fieldId (PReg.pfx.offset 0) 0, false) ∈ (withPtn fun _ => overA).ptnChecks 0 overA 0x50 ∧
    (∀ k ∈ (withPtn fun _ => overA).ptnChecks 0 overA 0x50, k.2 = false → fieldId (PReg.pfx.offset 0) 0 ≤ k.1) ∧
    DReg.chosen 15 ≠ [] ∧ (∀ k ∈ s0.devChecks (DReg.chosen 15), k.2 = true) := by decide +kernel

theorem witness_RegisterReads :
    s0.barUp 0 = true ∧ (3 : BitVec 24).toNat % 8 ≠ 0 ∧
    (s0.regAt { port := 0 } 0x300).map (fun r => decide (r.bits ≤ 64)) = some true ∧
    (s0.regAt { port := 0 } 0x20).map (fun r => (r.base, r.bits, r.seen)) = some (0x20, 128, true) ∧
    (s0.regAt { port := 0 } 0x28).map (fun r => (r.base, r.bits)) = some (0x20, 128) := by
  decide +kernel

/-! ### Operator access -/

/-- A device on which the sessions of all channels have been open since time 0. -/
def openOps : State := { s0 with sessions := Vector.replicate 3 { openedAt := some 0, challenge := some 1 } }

/-- A device whose channels are all locked until time 1,000,000. -/
def lockedS : State := { s0 with sessions := Vector.replicate 3 { lockUntil := 1000000 } }

theorem witness_OperatorSessions :
    can (.dbgChallenge hq 4096) hq s0 (fun s => s.locked 0 = false ∧ s.rng.failing = false) ∧
    can (.dbgRespond hq 4096) hq openOps (fun s => (s.channel 0).challenge = some 1) ∧
    can (.dbgChallenge hq 4096) hq lockedS (fun s => s.locked 0 = true) ∧
    can (.dbgChallenge hq 4096) hq { s0 with rng := { failing := true } } (fun s => s.locked 0 = false ∧ s.rng.failing = true) ∧
    can (.dbgRespond hq 4096) hq s0 (fun s => (s.channel 0).challenge = none) ∧ lockedS.locked 2 = true ∧
    (let s : State := { openOps with now := 3599999999 }; (s.channel 2).openedAt = some 0 ∧ s.now < 0 + 3600000000) ∧
    s0.wardenRuns = true ∧ s0.locked 2 = false ∧ (openOps.channel 2).challenge = some 1 ∧
    (let s : State := { openOps with now := 3600000000 };
      (s.channel 0).openedAt = some 0 ∧ (s.channel 2).openedAt = some 0 ∧ 0 + 3600000000 ≤ s.now) :=
  ⟨⟨runs rfl, rfl, rfl⟩, ⟨runs rfl, rfl⟩, ⟨runs rfl, rfl⟩, ⟨runs rfl, rfl, rfl⟩, ⟨runs rfl, rfl⟩, rfl, by decide, rfl, rfl, rfl, rfl, rfl, Nat.le_refl _⟩

theorem witness_DebugAccess :
    can (.dbgRead hq { regA with bytes := 4096 }) hq openOps (fun _ => targetOk { regA with bytes := 4096 } = true) ∧
    can (.dbgWrite hq regA) hq openOps (fun _ => targetOk regA = true ∧ regA.bytes ≠ 0) ∧
    can (.dbgSample hq 0 6 4096 1) hq sampleS (fun s => s.sample? 0 6 = some [1, 2]) ∧
    can (.dbgUnretire hq 0 0) hq s0 (fun s => s.ptnNos ≠ []) ∧
    can (.dbgUnretire hq 5 3) hq { sNone with memc := { ranks := Vector.replicate 6 { ranks := #v[0, 0, 0, 3] } } }
      (fun s => s.ptnNos = [] ∧ (s.stackRanks 5).rank 3 = 3) ∧
    can (.dbgRead hq { regA with space := 1, tile := 14 }) hq openOps
      (fun _ => targetOk { regA with space := 1, tile := 14 } = false) ∧
    can (.dbgSample hq 0 7 4096 1) hq sampleS (fun s => s.sample? 0 7 = none) ∧
    can (.dbgUnretire hq 5 2) hq sNone (fun s => s.ptnNos = [] ∧ (s.stackRanks 5).rank 2 ≠ 3) ∧
    s0.tapDecodes 0x20 = true ∧ s0.sessionOpen 2 = false ∧
    tapDraws 0 = false ∧
    s0.tapDecodes 0xFF = false ∧ s0.tapDecodes 0x22 = false ∧ openOps.sessionOpen 2 = true ∧ openOps.wardenRuns = true ∧
    Packet.decode (.host 0) 0 (Packet.encode (.devNop hq)) = some (.devNop hq) ∧ (Instr.devNop hq).wellFormed = true :=
  ⟨⟨runs rfl, by decide⟩, ⟨runs rfl, by decide, by decide⟩, ⟨runs rfl, by decide +kernel⟩, ⟨runs rfl, by decide⟩,
    ⟨runs rfl, by decide, by decide⟩, ⟨runs rfl, by decide⟩, ⟨runs rfl, by decide +kernel⟩, ⟨runs rfl, by decide, by decide⟩, by decide, rfl,
    by decide +kernel, by decide, by decide, rfl, rfl, by decide, by decide⟩

theorem witness_QuotesAndDraws :
    Runnable (.devAttest hq 1 4096 0) hq (asked (.devAttest hq 1 4096 0) hq s0) ∧
    can (.devAttest hq 1 4096 4096) hq s0 (fun s => 4096 ≤ (4096 : BitVec 32).toNat ∧ s.rng.failing = false) ∧
    can (.devAttest hq 1 4096 4095) hq s0 (fun _ => (4095 : BitVec 32).toNat < 4096) ∧
    can (.devAttest hq 1 4096 4096) hq { s0 with rng := { failing := true } } (fun s => s.rng.failing = true) ∧
    s0.wardenRuns = true ∧ ({ s0 with power := .off } : State).wardenRuns = false ∧
    ({ s0 with rng := { outputs := 2 ^ 20 - 1 }, now := 999999 } : State).rng.outputs < 2 ^ 20 ∧ s0.tap.chal = false ∧ s0.tap.cmds = [] ∧
    2 ^ 20 ≤ ({ s0 with rng := { outputs := 2 ^ 20 } } : State).rng.outputs ∧ s0.rng.seededAt + 1000000 ≤ { s0 with now := 1000000 }.now :=
  ⟨runs rfl, ⟨runs rfl, by decide, rfl⟩, ⟨runs rfl, by decide⟩, ⟨runs rfl, rfl⟩, rfl, rfl, by decide, rfl, rfl, Nat.le_refl _,
    Nat.le_refl _⟩

/-! ### Host ports and the field port -/

/-- Partition 0, whose orphan time is 5 ms. -/
def waitA : Partition := { ptnA with hostCfg := 5, orphanedAt := some 0 }

theorem witness_HostPorts :
    ({ s0 with power := .off } : State).endpointUp = false ∧ s0.ptn? 0 = some ptnA ∧ ptnA.owner = some 0 ∧ ptnA.orphanedAt = none ∧
    ptnA.hostCfg.toNat % 2 ^ 27 = 0 ∧ ptnA.destroying = false ∧ ptnA.owner ≠ some 1 ∧ s0.primary ≠ some 1 ∧
    s0.endpointUp = true ∧ (s0.host 1).attached = false ∧ (s0.host 0).attached = true ∧
    (∀ p x, (withPtn fun _ => { ptnA with hostCfg := 5 }).ptn? p = some x → x.hostCfg.toNat % 2 ^ 27 ≠ 0) ∧
    s0.primary = some 0 ∧ (s0.host (otherPort 0)).attached = false ∧
    (∀ t ∈ [5000, 4999], let s : State := { withPtn fun _ => waitA with now := t };
      s.ptn? 0 = some waitA ∧ s.power ≠ .calm ∧ waitA.orphanedAt.isSome ∧ waitA.destroying = false ∧
      waitA.hostCfg.toNat % 2 ^ 27 ≠ 0x7FFFFFF ∧ s.orphanTime waitA = t) := by
  refine ⟨rfl, rfl, rfl, rfl, by decide, rfl, by decide, by decide, rfl, rfl, rfl, fun p x h => ?_, rfl, rfl, by decide⟩
  match p with
  | 0 => cases h; decide
  | 1 | 2 | 3 | 4 | 5 | 6 | 7 => cases h
  | p + 8 => simp [State.ptn?] at h

/-- The device while its warden restarts. -/
def wardenDown : State := { s0 with flt := { s0.flt with restarting := [{ island := wardenIsland, since := 0 }] } }

/-- A message at an offset of the field block, of n bytes with its check bytes. -/
def message (off n : Nat) (data : List Byte) : CanFrame :=
  let body := data ++ List.replicate (n - 2 - data.length) 0
  { ident := BitVec.ofNat 11 (s0.field.block + off), fd := true, data := body ++ Bits.toBytes 2 (crc16 body) }

theorem witness_FieldMessages :
    (s0.gate (message 0 (messageLength 0) [1, 1])).2 = true ∧ (s0.gate (message 1 (messageLength 1) [1, 0x2C, 1, 0])).2 = true ∧
    (s0.gate (message 2 (messageLength 2) [1])).2 = true ∧ (s0.gate (message 3 (messageLength 3) [1, 2])).2 = true ∧
    s0.restarting wardenIsland = false ∧
    (let s := wardenDown
     s.restarting wardenIsland = true ∧ (s.gate (message 1 (messageLength 1) [1, 0x2C, 1, 0])).2 = true) ∧
    s0.field.vdd = true ∧ s0.restarting fieldIsland = false ∧ (s0.gate (message 0 (messageLength 0) [1, 2])).2 = false ∧
    formOk 0 { message 0 (messageLength 0) [1, 1] with fd := false } = false ∧ formOk 0 (message 0 (messageLength 0) [1, 1]) = true ∧
    s0.valueOk 1 (message 1 (messageLength 1) [1, 0, 0, 0]) = false ∧ formOk 1 (message 1 (messageLength 1) [1, 0, 0, 0]) = true ∧
    ((s0.gate (message 0 (messageLength 0) [1, 1])).1.field.rxSeq.any fun e => e.1 == 0 && e.2 == 1) = true ∧
    (∀ off ∈ [4, 15], s0.field.block + 4 ≤ (message off 4 []).ident.toNat ∧ (message off 4 []).ident.toNat < s0.field.block + 16) ∧
    (message 16 4 []).ident.toNat = s0.field.block + 16 := by decide +kernel

theorem witness_FieldReports :
    s0.fieldSends = true ∧ s0.field.beaconAt + 10000 ≤ { s0 with now := 10000 }.now ∧ s0.now < s0.field.beaconAt + 10000 ∧
    (∀ i ∈ [0, 73], let s : State := { s0 with now := 1000, field := { quote := some ([1], i) } };
      s.field.quote = some ([1], i) ∧ s.fieldSends = true ∧ (i = 0 ∨ s.field.quoteAt + 1000 ≤ s.now)) ∧
    (let s : State := { s0 with field := { items := [⟨5, 1, 2, 3⟩] } };
      s.fieldSends = true ∧ s.field.firmware = true ∧ s.field.lost = 0 ∧ s.field.items = [⟨5, 1, 2, 3⟩] ∧ s.field.vdd = true) ∧
    (let s : State := { s0 with field := { lost := 1 } };
      s.fieldSends = true ∧ s.field.firmware = true ∧ s.field.lost ≠ 0) ∧
    (let s : State := { s0 with field := { summary := [0] }, now := 1000000 };
      s.fieldSends = true ∧ s.field.lost = 0 ∧ s.field.items = [] ∧ s.field.summary ≠ [] ∧ s.field.summaryAt + 1000000 ≤ s.now) ∧
    (let s : State := { s0 with field := { quote := some ([], 0) } };
      s.field.quote = some ([], 0) ∧ s.fieldSends = true ∧ (!s.rng.failing && s.power == .run && !s.restarting wardenIsland) = true) ∧
    (let s : State := { s0 with field := { firmware := false } }; s.fieldSends = true ∧ s.field.firmware = false) ∧
    ({ s0 with field := { vdd := false } } : State).fieldSends = false := by
  decide

/-! ### Power and the boot -/

theorem witness_PowerAndWakes_enter :
    can (.pwrEnter hq 0) hq sNone (fun _ => targetOf 0 = none) ∧
    (∀ t ∈ ([1, 4] : List (BitVec 3)), can (.pwrEnter hq t) hq sNone (fun s => (targetOf t).isSome ∧
      (s.start hq).accepted.any (fun a => isDestroy a.cmd) = false ∧ (s.start hq).enterBarred hq .lull = false)) ∧
    can (.pwrEnter hq 4) hq { sNone with accepted := [] } (fun s => s.ptnNos = []) ∧
    can (.pwrEnter hq 3) hq s0 (fun s => targetOf 3 = some .still ∧ (s.start hq).enterBarred hq .still = true) ∧
    (∀ x ∈ [PowerState.lull, .calm, .still, .frost], ({ sNone with pwr := { target := some x } } : State).power = .run ∧
      ({ sNone with pwr := { target := some x } } : State).accepted = []) := by
  refine ⟨⟨runs rfl, rfl⟩, fun t ht => ⟨runs rfl, ?_⟩, ⟨runs rfl, rfl⟩, ⟨runs rfl, rfl, by decide⟩, fun x _ => ⟨rfl, rfl⟩⟩
  revert t; decide

/-- A device without partitions that enters Lull after its idle time. -/
def lazyA : State := { sNone with live := { DevRegs.reset with pwrCfg := 0x326 }, now := 1000000 }

/-- A device with steps of the anti-rollback row spent. -/
def bootA (steps : Nat) : State :=
  { sNone with fw := { sNone.fw with rollback := BitVec.ofNat 128 (2 ^ steps - 1) } }

theorem witness_PowerAndWakes :
    lazyA.power = .run ∧ lazyA.live.autoLull = true ∧ lazyA.accepted = [] ∧ lazyA.pwr.target = none ∧
    (lazyA.ptnNos.any fun p => ((lazyA.ptn? p).map (·.live.guarded)).getD false) = false ∧
    lazyA.idleSince + lazyA.live.lullIdle ≤ lazyA.now ∧ ({ lazyA with now := 0 } : State).now < lazyA.idleSince + lazyA.live.lullIdle ∧
    (∀ x ∈ [PowerState.still, .frost], let s : State := { sNone with power := x, now := 1000, supplies := { waking := true } };
      s.field.tripped = false ∧ s.mayThaw = true ∧ ({ s with now := 999 } : State).mayThaw = false) ∧
    ({ sNone with power := .lull } : State).power = .lull ∧
    ({ sNone with power := .off, supplies := { booting := true } } : State).clockFor 0 = true ∧
    (∀ k ∈ [0, 3, 128], (bootA k).fw.steps = k) ∧ sNone.field.tripped = false ∧ sNone.supplies.vin = true ∧
    sNone.recovery = none ∧ ({ sNone with power := .off } : State).wardenRuns = false ∧ sNone.wardenRuns = true := by
  decide +kernel

theorem witness_SuppliesRecovery :
    ({ sNone with supplies := { vin := false } } : State).supplies.vin = false ∧ s0.supplies.vin = true ∧
    ({ sNone with field := { vdd := false } } : State).field.vdd = false ∧
    ({ sNone with supplies := { refSince := none } } : State).supplies.refSince = none ∧ s0.wardenRuns = true ∧
    ({ s0 with power := .still } : State).power = .still ∧
    120 ≤ celsius 120 ∧ 105 ≤ celsius 105 ∧ celsius 119 < 120 ∧ celsius 104 < 105 ∧
    (∀ n : BitVec 23, let s : State := { sNone with power := .off, recovery := some { len := n } };
      s.recovery = some { len := n } ∧ (s.host 0).attached = true ∧ ({ len := n } : Recovery).state = 1) ∧
    readFw [] = none ∧
    (1 : BitVec 32).getLsbD 0 = true ∧ (4194304 : BitVec 23) ≠ 0 ∧ (4194304 : BitVec 23).toNat ≤ 4194304 ∧
    4194304 < (4194305 : BitVec 23).toNat :=
  ⟨rfl, rfl, rfl, rfl, rfl, rfl, by decide, by decide, by decide, by decide, fun _ => ⟨rfl, rfl, rfl⟩, by decide +kernel, by decide, by decide,
    by decide, by decide⟩

theorem witness_PowerLimitsAgeing :
    s0.wardenRuns = true ∧ s0.restarting wardenIsland = false ∧ wardenDown.restarting wardenIsland = true ∧
    105 ≤ celsius 105 ∧ celsius 100 ≤ 100 ∧ 95 ≤ celsius 95 ∧ celsius 90 ≤ 90 ∧ 112 ≤ celsius 112 ∧
    90 < celsius 91 ∧ 85 < celsius 86 ∧ celsius 82 ≤ 82 ∧ 82 < celsius 83 ∧ celsius 85 ≤ 85 ∧
    (let s : State := { s0 with pwr := { die := 105, acting := 1 } }; 105 ≤ celsius s.pwr.die ∧ s.pwr.acts 0 = true) ∧
    (let s : State := { s0 with pwr := { acting := 16 } }; s.pwr.acts 4 = true ∧ s.pwr.acts 0 = false) ∧
    (let s : State := { s0 with pwr := { acting := 2 } }; s.pwr.acts 4 = false ∧ s.pwr.acts 0 = false ∧ s.pwr.acting &&& 0x1B#5 ≠ 0) ∧
    s0.replans 0 = false ∧ ({ s0 with now := 600000000 } : State).replans 0 = true ∧
    ({ s0 with now := 600000000 } : State).replans 1 = false ∧ ({ s0 with pwr := { replan := 150 } } : State).replans 150 = true ∧
    ({ wardenDown with now := 600000000 } : State).replans 0 = false ∧
    s0.pwr.acting &&& 0x1B#5 = 0 ∧ (4 : BitVec 5) &&& 0x1B#5 = 0 ∧
    ((#v[5, 0xFFF0, 5, 7] : Vector (BitVec 16) 4).toList.all fun x => decide (Bits.signed 16 (0xFFF0 : BitVec 16).toNat ≤ Bits.signed 16 x.toNat)) = true ∧
    (0xFFF0 : BitVec 16) ∈ (#v[5, 0xFFF0, 5, 7] : Vector (BitVec 16) 4).toList ∧ (0 : Nat) ≠ fieldIsland ∧ fieldIsland < 152 := by
  decide +kernel

theorem witness_PowerCommands :
    Runnable (.pwrCap hq 120 0) hq (asked (.pwrCap hq 120 0) hq s0) ∧
    can (.pwrMode hq true false false 0) hq s0 (fun _ => True) ∧
    can (.pwrMode hq false false true 0) hq s0 (fun s => s.reachesPtn (.host 0) 0 = true ∧
      (((s.start hq).stageDev .pwrCfg (BitVec.ofNat 64 0) 3).commitDevice [.pwrCfg]).2.1 = stOk) ∧
    can (.pwrMode hq true false true 1) hq s0 (fun s => s.reachesPtn (.host 0) 1 = false) ∧
    can (.pwrMode hq true false true 0) hq (withPtn fun x => { x with live := { x.live with srv := 2 + 10 * 2 ^ 16 } })
      (fun s => s.reachesPtn (.host 0) 0 = true ∧
        (((s.start hq).stageDev .pwrCfg (BitVec.ofNat 64 1) 3).commitDevice [.pwrCfg]).2.1 ≠ stOk) ∧
    can (.pwrQuery hq 1 0 0 0) hq s0 (fun s => (s.start hq).owner 0 = some 0 ∧ ((s.start hq).ptn? 0).isSome) ∧
    can (.pwrQuery hq 1 1 0 0) hq s0 (fun s => (s.start hq).owner 1 ≠ some 0) ∧
    can (.pwrQuery hq 2 0 150 0) hq s0 (fun _ => (150 : BitVec 8).toNat ≤ 150) ∧
    can (.pwrQuery hq 3 0 2 0) hq s0 (fun _ => (2 : BitVec 8).toNat ≤ 150 ∧ (0 : BitVec 4) = 0) ∧
    can (.pwrQuery hq 2 0 151 0) hq s0 (fun _ => 150 < (151 : BitVec 8).toNat) ∧
    can (.pwrQuery hq 3 0 134 1) hq s0 (fun _ => movingIsland (134 : BitVec 8).toNat = false ∧ (1 : BitVec 4) ≠ 0) ∧
    can (.pwrQuery cq 1 0 0 0) cq s0 (fun s => ((s.start cq).ptn? 0).isSome) ∧
    can (.pwrQuery cq 2 0 0 0) cq s0 (fun _ => (2 : BitVec 2).toNat ≥ 2) := by
  refine ⟨runs rfl, ⟨runs rfl, trivial⟩, ⟨runs rfl, rfl, ?_⟩, ⟨runs rfl, rfl⟩, ⟨runs rfl, rfl, ?_⟩, ⟨runs rfl, rfl, rfl⟩,
    ⟨runs rfl, by decide⟩, ⟨runs rfl, by decide⟩, ⟨runs rfl, by decide⟩, ⟨runs rfl, by decide⟩, ⟨runs rfl, by decide⟩, ⟨runs rfl, rfl⟩,
    ⟨runs rfl, by decide⟩⟩ <;> decide +kernel

/-! ### Faults, resets and watchdogs -/

/-- A run of context 1, its first beat released. -/
def runB : Run := { q := cq, ctx := 1, isStep := false, image := 65536, args := runA, admitted := true, released := true }

/-- Partition 0 with a run in progress. -/
def busyA : Partition := { ptnA with run := some runB }

theorem witness_FaultResponse :
    ({ kind := 0x01, ptn := some 0 } : FaultInfo).ptn = some 0 ∧ busyA.run = some runB ∧ runB.ctx = 1 ∧ s0.ptn? 0 = some ptnA ∧ (s0.ctx? 1).map (·.reset) = some none ∧ ptnA.status ≠ .outOfService ∧ ptnA.reset = none ∧
    s0.live.unit 0 ≠ 1 ∧ (inWindow s0.now s0.live.ctxWin ptnA.ctxResets).length + 1 < s0.live.ctxN ∧
    (let x : Partition := { busyA with ctxResets := List.replicate 3 0 };
      s0.live.ctxN ≤ (inWindow s0.now s0.live.ctxWin x.ctxResets).length + 1) ∧
    ({ s0 with live := { DevRegs.reset with fltPtn := Vector.replicate 8 1 } } : State).live.unit 0 = 1 ∧
    (inWindow s0.now s0.live.ptnWin ptnA.ptnResets).length + 1 < s0.live.ptnN ∧
    (let x : Partition := { busyA with ptnResets := List.replicate 2 0 };
      s0.live.ptnN ≤ (inWindow s0.now s0.live.ptnWin x.ptnResets).length + 1) := by decide +kernel

/-- Context 1 being reset since time 0. -/
def resetC : State := s0.modCtx 1 fun x => { x with reset := some { since := 0, number := 4, ctx := some 1 } }

/-- Partition 0 being reset since time 0. -/
def resetP : State := withPtn fun x => { x with reset := some { since := 0, number := 4 }, status := .resetting }

/-- Partition 0 with a run to be settled. -/
def settleA : Partition := { ptnA with settling := [runB] }

theorem witness_Resetting :
    resetC.ptn? 0 = some ptnA ∧ (resetC.ctx? 1).bind (·.reset) = some { since := 0, number := 4, ctx := some 1 } ∧
    ptnA.reset = none ∧ (s0.ctx? 1).bind (·.reset) = none ∧ (resetP.ptn? 0).bind (·.reset) = some { since := 0, number := 4 } ∧
    (withPtn fun _ => settleA).ptn? 0 = some settleA ∧ (withPtn fun _ => settleA).keeperWorks 0 = true ∧ settleA.settling ≠ [] ∧
    (∀ r ∈ settleA.settling, (s0.ctx? r.ctx).bind (·.reset) = none) ∧
    (let x : Partition := { settleA with reset := some { since := 0, number := 4 } }; x.reset.isSome) ∧
    (s0.ptn? 1).map (·.reset) = none ∧ ptnA.settling = [] ∧
    (let s := withPtn fun x => { x with run := some { runB with ctx := 0 }, reset := none };
      (s.ptn? 0).bind (fun x => x.run.map (·.ctx)) = some 0) := by decide +kernel

theorem witness_CoreRestarts :
    s0.coreRuns wardenIsland = true ∧ s0.restarting wardenIsland = false ∧ s0.coreRuns fieldIsland = true ∧
    (∀ i ∈ [130, fieldIsland, wardenIsland],
      ({ s0 with flt := { restarting := [⟨i, 0⟩] } } : State).restarting i = true ∧ i < 152) ∧ 130 ≠ wardenIsland ∧
    130 ≠ fieldIsland ∧ s0.fw.activation = none ∧ s0.restarting 0 = false ∧ storeIsland ≠ fieldIsland ∧ linkerIsland ≠ wardenIsland ∧
    ({ sNone with power := .off } : State).coreRuns wardenIsland = false := by decide +kernel

/-- A move of partition 0 with a transaction outstanding since time 0. -/
def moveA : Move :=
  { id := 3, cluster := 0, ctx := 1, ptn := 0, record := 0, index := 0, bytes := 128, next := 1, outstanding := [(0, 0)] }

theorem witness_TimeLimits_watchdogs :
    (let s : State := { s0 with moves := [moveA], now := 100 };
      (s.moves.find? fun m => m.id == moveA.id && m.cluster == 0) = some moveA ∧
      (moveA.outstanding.find? fun o => o.1 == 0) = some (0, 0) ∧ s.now ≤ 0 + 100 ∧ 0 + 100 < { s with now := 101 }.now) ∧
    Mv.dstKind moveA.record ≠ 6 ∧ Mv.dstKind (BitVec.ofNat 256 (6 * 2 ^ 128)) = 6 ∧
    (s0.ctx? 1).bind (·.reset) = none ∧ s0.restarting 129 = false ∧
    (resetC.ctx? 1).bind (·.reset) = some { since := 0, number := 4, ctx := some 1 } ∧
    (resetP.ptn? 0).bind (·.reset) = some { since := 0, number := 4 } ∧
    (let s : State := { s0 with flt := { restarting := [⟨129, 0⟩] } };
      (s.flt.restarting.find? fun r => r.island == 129) = some ⟨129, 0⟩) ∧
    s0.flt.becalmed = false ∧ ((s0.raiseFault { kind := 0x0C }).ptn? 0).isSome := by decide +kernel

/-- A SYNC.WAIT with a deadline of 5 us, and a SCHED.RUN with one. -/
def waitB : Accepted := { q := { cq with deadline := 5 }, cmd := .syncWait { cq with deadline := 5 } 3 10, since := 0, started := true }
/-- The SCHED.RUN. -/
def runC : Accepted := { q := { cq with deadline := 5 }, cmd := .schedRun { cq with deadline := 5 } runA, since := 0, started := true }

theorem witness_TimeLimits_deadlines :
    (∀ a ∈ [waitB, { waitB with started := false }, runC],
      let s : State := { s0 with accepted := [a], now := 6 };
      (s.accepted.find? fun x => x.q.ring == a.q.ring && x.q.idx == a.q.idx) = some a ∧ a.pastDeadline 6 = true ∧
      a.pastDeadline 5 = false) ∧
    (s0.accepted.find? fun x => x.q.ring == cq.ring && x.q.idx == 5) = none ∧ (ptnA.run.toList ++ ptnA.queue).find? (fun n => n.q == runC.q) = none ∧
    waitB.cmd.opcode ≠ 0x62 ∧ waitB.cmd.opcode ≠ 0x65 ∧ runC.cmd.opcode = 0x62 ∧
    (∀ b ∈ [true, false],
      let r : Run := { runB with q := { cq with deadline := 5 }, released := b };
      let x : Partition := { ptnA with run := some r };
      (x.run.toList ++ x.queue).find? (fun n => n.q == runC.q) = some r ∧ x.beat.closed = false ∧
      ({ x with beat := { x.beat with closed := true } } : Partition).beat.closed = true) := by decide +kernel

/-! ### Stacked memory and the keepers -/

theorem witness_StackedMemory :
    s0.stacksRun = true ∧ clusterLines - 1 < clusterLines ∧
    (s0.stackRanks (locate 0 0).stack).rank (locate 0 0).rank ≠ 3 ∧
    (s0.stackRanks (locate 7 ((clusterLines - 1) * 64)).stack).rank (locate 7 ((clusterLines - 1) * 64)).rank ≠ 3 ∧
    (let s : State := { s0 with memc := { ranks := Vector.replicate 6 { ranks := #v[3, 0, 0, 0], spareUsed := true } } };
      (s.stackRanks 0).rank 0 = 3 ∧ (s.stackRanks 0).spares 0 = true) ∧
    ({ s0 with power := .calm } : State).stacksRun = false ∧ (s0.stackRanks 0).retiring = none ∧
    (let s : State := { s0 with memc := { ranks := Vector.replicate 6 { ranks := #v[3, 0, 0, 0] } } };
      (s.stackRanks 0).rank 0 = 3 ∧ (s.stackRanks 0).spares 0 = false) ∧
    (let s : State := { s0 with poison := [lineOf 1 64] }; lineOf 1 64 ∈ s.poison ∧ lineOf 1 128 ∉ s.poison) ∧
    (s0.stackRanks 5).rank 2 = 0 ∧ (s0.stackRanks 5).rank 3 = 1 ∧ (s0.stackRanks 5).spareUsed = false ∧
    (s0.stackRanks 5).spareSpent = false ∧
    (let s : State := { s0 with memc := { ranks := Vector.replicate 6 { ranks := #v[2, 0, 0, 0], spareUsed := true } } };
      (s.stackRanks 0).spareUsed = true ∧ (s.stackRanks 0).rank (s.stackRanks 0).spareFor.toNat = 2) ∧
    85 < celsius 86 ∧ celsius 82 ≤ 82 ∧ 82 < celsius 83 ∧ celsius 85 ≤ 85 := by decide +kernel

/-- An object of context 1 whose tile is displaced: its home is tier 0. -/
def displacedA : Obj := { objA with desc := { descA with home := 0 } }

/-- An object of context 1 that lies in tier 0, with its home in tier 1. -/
def fastA : Obj := { objA with tiles := [⟨⟨0, 0, 5⟩, 0⟩] }

/-- Partition 0 in pool mode, with the displaced object. -/
def poolA : State :=
  { (withPtn fun x => { x with live := { x.live with quotaCfg := 1 } }) with objs := [displacedA] }

/-- Partition 0 that reclaims. -/
def reclaimA : Partition := { ptnA with reclaiming := true, overT1 := true }

/-- The device with one poisoned line, reported to its keeper. -/
def poisoned (line : Nat) : State := { s0 with poison := [line], poisonReports := [line] }

theorem witness_Keepers :
    (let s : State := { s0 with objs := [fastA] };
      s.obj? 1 65536 = some fastA ∧ fastA.tiles[0]? = some ⟨⟨0, 0, 5⟩, 0⟩ ∧ s.keeperWorks 0 = true ∧
      s.bound fastA = false ∧ s.migrating 1 65536 0 = false ∧ (⟨⟨0, 0, 5⟩, 0⟩ : ResTile).place.tier ≠ 1 ∧ (s.migrationDest 0 fastA ⟨⟨0, 0, 5⟩, 0⟩).isSome) ∧
    s0.evacTurn 1 65536 0 = true ∧
    (let s : State := { s0 with migrations := [⟨1, 65536, 0, ⟨1, 0, 300⟩⟩] }; s.migrating 1 65536 0 = true) ∧
    s0.migrationDest 0 objA ⟨⟨1, 0, 100⟩, 0⟩ = none ∧
    (poolA.displaced 0).map (fun x => (x.1 == displacedA, x.2.2)) = [(true, 0)] ∧ poolA.overQuota 0 (some 1) = false ∧
    poolA.within 0 (some 1) 0 (tileUnits displacedA.desc) = true ∧ poolA.promotion 0 displacedA ⟨⟨1, 0, 100⟩, 0⟩ = some ⟨0, 0, 0⟩ ∧
    (poolA.freeUnit 0 0 1 1).isSome ∧ s0.displaced 0 = [] ∧ ({ s0 with power := .off } : State).keeperWorks 0 = false ∧
    (let s := poolA.modPtn 0 fun x => { x with overT0 := true }; s.promotion 0 displacedA ⟨⟨1, 0, 100⟩, 0⟩ = none) ∧
    (let s := withPtn fun _ => reclaimA;
      s.ptn? 0 = some reclaimA ∧ s.keeperWorks 0 = true ∧ (∀ c ∈ s.ctxsOf 0, c.reclaiming = false) ∧
      s.charge 0 0 ≤ s.quota 0 0 ∧ s.charge 0 1 ≤ s.quota 0 1 ∧ s.carried 0 none 0 = 0 ∧ s.carried 0 none 1 = 0 ∧
      s.stranded 0 = 0) ∧
    s0.ptnOfCluster 1 = none ∧ (poisoned 4096).ptnOfCluster 0 = some 0 ∧ (poisoned 4096).keeperWorks 0 = true ∧
    (poisoned 4096).tileWanted objA 0 = false ∧ 0 * clusterLines + 4097 ∉ (poisoned 4096).poisonReports ∧
    0 * clusterLines + 4096 ∈ (poisoned 4096).poisonReports ∧ 0 * clusterLines + 4096 ∈ (poisoned 4096).poison ∧
    (let s : State := { s0 with poisonReports := [4096] }; 0 * clusterLines + 4096 ∈ s.poisonReports ∧ 0 * clusterLines + 4096 ∉ s.poison) ∧
    (ptnA.low = 0 ∧ ptnA.reserve ≤ 4096 * 64 / unitBytes ∧ 4096 * 64 / unitBytes < ptnA.reserve + ptnA.n * 64 + 4 * (ptnA.share / 4096)) ∧
    ¬(102400 * 64 / unitBytes < ptnA.reserve + ptnA.n * 64 + 4 * (ptnA.share / 4096)) ∧
    ((poisoned 102400).tileAt 0 100).isSome ∧ (poisoned 204800).tileAt 0 200 = none ∧ (poisoned 204800).pageHeld 0 200 = false ∧
    (ptnA.records.any fun r => r.units.contains (0, 100)) = false ∧
    ([({ recordA with units := [(0, 200)] } : FaultRecord)].any fun r => r.units.contains (0, 200)) = true := by decide +kernel

/-! ### The Felt fabric -/

/-- A frame with the tag that its header and payload give under a key. -/
def sealed (key : BitVec 256) (f : Frame) : Frame := { f with tag := Config.gcmTag key f.ctr (frameHeader f) f.payload }

/-- The state of a port after it accepts a frame under its present key. -/
def after (s : State) (k : Fin 8) (f : Frame) : State := s.modPort k fun x => { x with rxTop := f.ctr, lastValid := s.now }

/-- A frame of sound form with the right tag and a counter that has risen is accepted. -/
theorem received {s : State} {k : Fin 8} {f : Frame} {key : BitVec 256} {top : BitVec 64}
    (hk : (s.port k).rxKey (sealed key f) = some (key, top, false)) (hf : frameFormOk f = true) (ht : top.toNat < f.ctr.toNat) :
    s.receive k (sealed key f) = (after s k f, true) := by
  have hf' : frameFormOk (sealed key f) = true := hf
  have hg : frameTagOk (sealed key f) key = true := by
    show (Config.gcmTag key f.ctr (frameHeader f) f.payload == Config.gcmTag key f.ctr (frameHeader f) f.payload) = true
    exact beq_self_eq_true _
  have ht' : top.toNat < (sealed key f).ctr.toNat := ht
  have ha : (s.port k).accepts (sealed key f) = some false := by simp [Port.accepts, hk, hf', hg, ht']
  simp only [State.receive, ha]
  rfl

/-- Two members of a group: this partition, and partition 1 of the device at address 3. -/
def pairA : Group :=
  { id := 77, index := 0, count := 2, lockstep := true, state := 2, members := [(2, 0), (3, 1)], receive := 65536, helds := [1],
    doneSent := true }

/-- An object of the management context, into which the group receives. -/
def objM : Obj := { objA with ctx := 0 }

/-- The device at address 2 with every port up toward the device of serial 9, partition 0 in a group, and one run. -/
def feltA : State :=
  { (withPtn fun x => { x with group := some pairA, run := some runB }) with
    objs := [objM, objA]
    felt := { addr := some 2, anchorSn := 1, ports := Vector.replicate 8 { phase := .up, healthy := true, peer := 9 } } }

/-- The key under which feltA receives. -/
def keyA : BitVec 256 := linkKey 9 Config.serial 0

/-- A data frame of the other member for partition 0. -/
def dataA : Frame := { frameA with type := 1, dst := 2, src := 3, spart := 1, seq := 5 }

/-- The key of its stream. -/
def streamA : Nat := rxKey dataA

/-- A control frame of the other member. -/
def ctlA : Frame := { dataA with type := 3, length := 16, payload := List.replicate 16 0 }

/-- Every frame below is accepted on port 0 of feltA. -/
theorem takes (f : Frame) (hf : frameFormOk f = true) (hc : 0 < f.ctr.toNat) (hk : f.kp = false) (s : State)
    (hs : s.port 0 = feltA.port 0) : s.receive 0 (sealed keyA f) = (after s 0 f, true) := by
  refine received (top := 0) ?_ hf hc
  rw [hs]
  show (if (sealed keyA f).kp = false then some (linkKey 9 Config.serial 0, (0 : BitVec 64), false) else _) = _
  rw [show (sealed keyA f).kp = f.kp from rfl, hk]
  rfl

/-- The serial of another device. -/
def otherSn : BitVec 64 := Config.serial + 1

theorem other_ne : otherSn ≠ Config.serial := by
  intro h
  have := congrArg BitVec.toNat h
  rw [otherSn, BitVec.toNat_add] at this
  have := Config.serial.isLt
  simp at *
  omega

theorem witness_FeltGateLinks_gate :
    (s0.port 0).accepts frameA = none ∧
    (∀ n ∈ [3, 15], let s : State := { s0 with felt := { ports := Vector.replicate 8 { drops := List.replicate n 0 } } };
      ((s.port 0).drops.filter fun t => s.now < t + 1000).length + 1 = n + 1) ∧
    (feltA.port 0).accepts (sealed keyA ctlA) = some false ∧
    frameA.type = 0 ∧ (6 : BitVec 4).toNat ≥ 6 ∧ 4096 < (4097 : BitVec 13).toNat := by
  refine ⟨by decide, by decide, ?_, rfl, by decide, by decide⟩
  have h := takes ctlA (by decide) (by decide) rfl feltA rfl
  simp only [State.receive] at h
  cases ha : (feltA.port 0).accepts (sealed keyA ctlA) with
  | none => rw [ha] at h; cases h
  | some b =>
    cases b with
    | false => rfl
    | true =>
      rw [ha] at h
      exact absurd (congrArg (fun x : State × Bool => (x.1.port 0).rxKp) h) (by decide)

/-- A device whose ports are in a phase since time 0. -/
def phaseA (x : LinkPhase) (now : Nat) : State :=
  { s0 with felt := { ports := Vector.replicate 8 { phase := x } }, now := now }

/-- feltA while its linker restarts. -/
def linkerDown : State := { feltA with flt := { feltA.flt with restarting := [⟨linkerIsland, 0⟩] } }

theorem witness_FeltGateLinks_restart :
    (∃ t, linkerDown.receive 0 (sealed keyA ctlA) = (t, true) ∧ t.restarting linkerIsland = true) ∧ (linkerDown.port 0).phase = .up ∧
    linkerDown.restarting linkerIsland = true ∧ feltA.restarting linkerIsland = false ∧
    ((phaseA .training 40001).port 0).since + 40000 < (phaseA .training 40001).now ∧
    (feltA.modPort 0 fun x => { x with rotSince := some 0 }).now < 0 + 1000 ∧
    (feltA.port 0).lastValid + 8 ≤ { feltA with now := 8 }.now ∧ { feltA with now := 7 }.now < (feltA.port 0).lastValid + 8 ∧
    ((phaseA .refused 0).port 0).phase = .refused ∧
    ((feltA.modPort 0 fun x => { x with drops := List.replicate 4 0 }).port 0).drops.length = 4 :=
  ⟨⟨after linkerDown 0 ctlA, takes ctlA (by decide) (by decide) rfl linkerDown rfl, rfl⟩, rfl, rfl, rfl, by decide, by decide,
    by decide, by decide, rfl, rfl⟩

theorem witness_FeltGateLinks :
    s0.flt.becalmed = false ∧ s0.linksRun = true ∧ ((phaseA .down 0).port 7).phase = .down ∧
    ((phaseA .training 40000).port 7).phase = .training ∧ (phaseA .training 40000).now ≤ ((phaseA .training 40000).port 7).since + 40000 ∧ (phaseA .training 40000).rng.failing = false ∧
    ((phaseA .refused 1000000).port 7).since + 1000000 ≤ (phaseA .refused 1000000).now ∧
    (∀ x ∈ [LinkPhase.hello, .authentication], ∃ t, ((phaseA x 0).port 0).phase = x ∧ (phaseA x 0).receive 0 (sealed 0 ctlA) = (t, true)) ∧
    otherSn ≠ Config.serial ∧
    (∃ t, feltA.receive 0 (sealed keyA ctlA) = (t, true) ∧ (t.port 0).rotSince = none) ∧ (feltA.port 0).phase = .up ∧
    (∃ t, let s := feltA.modPort 0 fun x => { x with rotSince := some 0 };
      s.receive 0 (sealed keyA ctlA) = (t, true) ∧ (t.port 0).rotSince.isSome) ∧
    (feltA.port 0).keysSince + 3590000000 ≤ { feltA with now := 3590000000 }.now ∧
    ((feltA.modPort 0 fun x => { x with rotSince := some 0 }).port 0).rotSince = some 0 ∧
    (feltA.port 0).lastSent < { feltA with now := 8 }.now ∧ (feltA.port 0).lastValid + 8 ≤ { feltA with now := 8 }.now ∧
    ((feltA.port 0).drops.filter fun t => feltA.now < t + 1000).length < 4 ∧ (feltA.port 0).lastUnc = none := by
  refine ⟨rfl, rfl, rfl, rfl, by decide, rfl, by decide, fun x hx => ⟨after (phaseA x 0) 0 ctlA, ?_, ?_⟩, other_ne,
    ⟨_, takes ctlA (by decide) (by decide) rfl feltA rfl, rfl⟩, rfl, ⟨after (feltA.modPort 0 fun x => { x with rotSince := some 0 }) 0 ctlA, ?_, rfl⟩,
    by decide, rfl, by decide, by decide, by decide, rfl⟩
  · rfl
  · simp only [List.mem_cons, List.not_mem_nil, or_false] at hx
    obtain rfl | rfl := hx
    · exact received (top := 0) rfl (by decide) (by decide)
    · exact received (top := 0) rfl (by decide) (by decide)
  · exact received (top := 0) rfl (by decide) (by decide)

/-- The link state of another device. -/
def linkA : LinkState := { serial := otherSn, addr := some 3, anchor := false, claimed := false, peers := [] }

/-- A serial that is neither the device's own nor 0. -/
def thirdSn : BitVec 64 := if Config.serial = 1 then 2 else 1

theorem third_ne : thirdSn ≠ Config.serial ∧ thirdSn ≠ 0 := by
  by_cases h : Config.serial = 1
  · rw [thirdSn, if_pos h, h]; decide
  · rw [thirdSn, if_neg h]; exact ⟨fun e => h e.symm, by decide⟩

theorem witness_FeltFabric :
    (feltA.port 7).phase = .up ∧
    (∃ t, feltA.receive 0 (sealed keyA ctlA) = (t, true) ∧ linkA.serial ≠ Config.serial ∧ linkA ∉ t.felt.states ∧ linkA.addr ≠ t.felt.addr) ∧
    ({ linkA with serial := Config.serial } : LinkState).serial = Config.serial ∧
    otherSn ≠ Config.serial ∧ ({ s0 with felt := { anchorSn := Config.serial } } : State).felt.anchorSn = Config.serial ∧
    (let s : State := { s0 with felt := { anchorSn := thirdSn } }; s.felt.anchorSn ≠ Config.serial ∧ s.felt.anchorSn ≠ 0) ∧
    ({ s0 with flt := { restarting := [⟨linkerIsland, 0⟩] } } : State).restarting linkerIsland = true ∧
    sNone.restarting linkerIsland = false ∧ sNone.ptnNos = [] ∧ sNone.felt.trees = [] ∧
    (∃ t, feltA.receive 0 (sealed keyA ctlA) = (t, true) ∧ t.tree? 2 7 = none ∧ t.felt.trees.length < 256 ∧ t.felt.addr = some 2 ∧
      t.felt.addr ≠ some 3) ∧
    Runnable (.fabAnchor hq true 4096 0) hq (asked (.fabAnchor hq true 4096 0) hq s0) ∧
    can (.fabAnchor hq false 0 0) hq { s0 with felt := { claimed := true } } (fun s => s.felt.claimed = true) ∧
    can (.fabAnchor hq false 0 0) hq s0 (fun s => s.felt.claimed = false) ∧
    (∀ kind ∈ ([0, 1] : List (BitVec 2)), Runnable (.fabQuery hq kind 7) hq (asked (.fabQuery hq kind 7) hq s0)) ∧
    can (.fabQuery cq 2 0) cq s0 (fun _ => (2 : BitVec 2).toNat ≥ 2) ∧ can (.fabQuery hq 3 0) hq s0 (fun _ => (3 : BitVec 2).toNat ≥ 2) ∧
    can (.fabRotate hq 15) hq feltA (fun s => ((s.start hq).portsUp.filter fun k => (15 : BitVec 4) == 15 || k.val == 15) ≠ []) ∧
    can (.fabRotate hq 3) hq s0 (fun s => ((s.start hq).portsUp.filter fun k => (3 : BitVec 4) == 15 || k.val == 3) = []) :=
  ⟨rfl, ⟨_, takes ctlA (by decide) (by decide) rfl feltA rfl, other_ne, List.not_mem_nil, by decide⟩, rfl, other_ne, rfl, third_ne,
    by decide, by decide, by decide, rfl, ⟨_, takes ctlA (by decide) (by decide) rfl feltA rfl, rfl, by decide, rfl, by decide⟩, runs rfl,
    ⟨runs rfl, rfl⟩, ⟨runs rfl, rfl⟩, fun _ _ => runs rfl, ⟨runs rfl, by decide⟩, ⟨runs rfl, by decide⟩, ⟨runs rfl, by decide⟩,
    ⟨runs rfl, by decide⟩⟩

/-- The device, with the stream of the other member at 5. -/
def streamS : State := feltA.modFelt fun x => { x with rxSeq := [(streamA, 5)] }

/-- A frame of partition 0's stream to the other member, sent at time 0. -/
def unackedA : Unacked := { spart := 0, dst := 3, dpart := 1, seq := 5, offset := 0, payload := [1], sentAt := 0, port := some 0 }

theorem expects : Table.get Config.firstSeq [(streamA, 5)] streamA = 5 := by
  generalize Config.firstSeq = x
  simp [Table.get]

theorem witness_FeltStreams :
    (∀ d ∈ ([2, 4] : List (BitVec 16)), ∀ n ∈ ([4, 5, 6] : List (BitVec 32)), ∃ t, let f := { dataA with dst := d, seq := n };
      streamS.receive 0 (sealed keyA f) = (t, true) ∧ f.type = 1 ∧ (t.felt.addr = some f.dst ↔ d = 2) ∧ t.feltWake.groupTakes f = true ∧
      Table.get Config.firstSeq t.feltWake.felt.rxSeq (rxKey f) = 5 ∧ t.feltWake.felt.rxHeld = []) ∧
    (∃ t, feltA.receive 0 (sealed keyA { dataA with spart := 7 }) = (t, true) ∧ t.felt.addr = some 2 ∧
      t.feltWake.groupTakes { dataA with spart := 7 } = false ∧ t.feltWake.sessionTakes { dataA with spart := 7 } = false) ∧
    (6 - 5 : BitVec 32).toNat < 2 ^ 31 ∧ 2 ^ 31 ≤ (4 - 5 : BitVec 32).toNat ∧
    s0.receiveObj 0 = none ∧ { objM with broken := some 7 }.broken ≠ none ∧
    can (.fabPut cq 65536 0 2 0 4) cq feltA (fun s => s.obj? 1 65536 = some objA ∧ pairA.members[(2 : BitVec 8).toNat]? = none) ∧
    can (.fabPut cq 65536 65533 1 0 4) cq feltA (fun _ => objA.size < 65533 + 4) ∧
    (let s : State := { feltA with objs := [objM, { objA with broken := some 7 }] }; (s.obj? 1 65536).map (·.broken.isSome) = some true) ∧
    feltA.receiveObj 0 = some objM ∧ 65532 + [1, 2, 3, 4].length ≤ objM.size ∧ objM.size < 65533 + [1, 2, 3, 4].length ∧
    (let s := feltA.modFelt fun x => { x with unacked := [unackedA] };
      (s.felt.unacked.find? fun u => u.spart.toNat == 0 && u.dst == 3 && u.dpart == 1 && u.seq == 5) = some unackedA ∧
      unackedA.sentAt + 20 ≤ { s with now := 20 }.now ∧ { s with now := 19 }.now < unackedA.sentAt + 20) ∧
    Runnable (.fabPut cq 65536 0 1 0 0) cq (asked (.fabPut cq 65536 0 1 0 0) cq feltA) ∧
    (∀ m ∈ ([0, 1] : List (BitVec 8)), can (.fabPut cq 65536 65532 m 0 4) cq feltA (fun s =>
      (s.start cq).obj? 1 65536 = some objA ∧ objA.ctx = 1 ∧ objA.broken = none ∧ (s.start cq).group? (ptnOf 1) = some pairA ∧ pairA.state = 2 ∧
      pairA.members[m.toNat]? = some (if m = 0 then (2, 0) else (3, 1)) ∧ 65532 + 4 ≤ objA.size ∧
      (s.start cq).objPoison objA 65532 4 = none)) ∧
    (((asked (.fabPut cq 65536 65532 0 0 4) cq feltA).start cq).writeReceived (ptnOf 1) 0 [1, 2, 3, 4]).2 = true := by
  refine ⟨fun d hd n hn => ⟨after streamS 0 { dataA with dst := d, seq := n }, ?_, rfl, ?_, rfl, expects, rfl⟩,
    ⟨_, takes { dataA with spart := 7 } (by decide) (by decide) rfl feltA rfl, rfl, by decide, by decide⟩, by decide, by decide, rfl, by decide, ⟨runs rfl, rfl, rfl⟩,
    ⟨runs rfl, by decide⟩, by decide, rfl, by decide,
    by decide, ⟨by decide, by decide, by decide⟩, runs rfl, fun m hm => ⟨runs rfl, rfl, rfl, rfl, rfl, rfl, ?_, by decide, rfl⟩, by decide⟩
  · exact takes { dataA with dst := d, seq := n } rfl (show 0 < dataA.ctr.toNat by decide) rfl streamS rfl
  · constructor
    · intro h; exact (Option.some.inj h).symm
    · rintro rfl; rfl
  · revert m; decide

/-- The list of the two members, in an object of context 1. -/
def listA : State := feltA.writeObj objA 0 [2, 0, 0, 0, 3, 0, 1, 0]

/-- The same before the group is formed. -/
def formA : State := listA.modPtn 0 fun x => { x with group := none }

theorem witness_FeltGroups :
    can (.fabGroup cq groupA) cq formA (fun s => (s.start cq).obj? 1 groupA.list = some objA ∧ objA.broken = none ∧ (s.start cq).group? (ptnOf 1) = none ∧
      groupA.receive = 0 ∧ groupA.listOff.toNat + 4 * (groupA.count.toNat + 1) ≤ objA.size ∧
      (s.start cq).objPoison objA groupA.listOff.toNat 8 = none ∧
      ((List.range 2).mapM fun i => readMember (Bits.ofBytes ((((s.start cq).readObj objA 0 8).drop (4 * i)).take 4))) =
        some [(2, 0), (3, 1)] ∧ s.felt.addr = some 2) ∧
    (∃ t, feltA.receive 0 (sealed keyA ctlA) = (t, true) ∧ t.felt.addr = some ctlA.dst ∧ t.feltWake.group? ctlA.dpart.toNat = some pairA ∧
      pairA.indexOf ctlA.src ctlA.spart = some 1 ∧ t.feltWake.ringRuns 0 = true ∧ t.feltWake.run? 0 = some runB ∧ runB.released = true ∧
      runB.stopped = false) ∧
    (let g : Group := { pairA with state := 1 };
      let s := feltA.modPtn 0 fun x => { x with group := some g };
      s.group? 0 = some g ∧ g.since + 10000000 ≤ { s with now := 10000000 }.now ∧ { s with now := 9999999 }.now < g.since + 10000000) ∧
    (∀ i ∈ [0, 1], ({ pairA with index := i } : Group).index = i) ∧ pairA.indexOf 2 0 = some 0 ∧ 1 ∈ pairA.helds ∧ 0 ∉ pairA.helds ∧
    can (.fabLeave mq) mq feltA (fun s => (s.group? (ptnOf 0)).isSome ∧ (s.ctx? 0).isSome) ∧
    can (.fabLeave mq) mq s0 (fun s => s.group? (ptnOf 0) = none) ∧
    can (.fabGroup cq groupA) cq feltA (fun s => s.group? (ptnOf 1) ≠ none) ∧
    can (.fabGroup cq { groupA with listOff := 65529 }) cq formA (fun s => s.group? (ptnOf 1) = none ∧
      objA.size < (65529 : BitVec 42).toNat + 4 * 2) ∧
    can (.fabGroup cq { groupA with receive := 1 }) cq formA (fun s => s.obj? 1 1 = none) ∧
    { pairA with index := 1 }.index ≠ 0 ∧ (1 ∈ pairA.helds) ∧ pairA.indexOf 4 0 = none :=
  ⟨⟨runs rfl, rfl, rfl, rfl, rfl, by decide, rfl, by decide +kernel, rfl⟩,
    ⟨_, takes ctlA (by decide) (by decide) rfl feltA rfl, rfl, rfl, by decide, rfl, rfl, rfl, rfl⟩, ⟨rfl, by decide, by decide⟩,
    fun _ _ => rfl, by decide, by decide, by decide, ⟨runs rfl, rfl, rfl⟩, ⟨runs rfl, rfl⟩,
    ⟨runs rfl, by decide⟩, ⟨runs rfl, rfl, by decide⟩, ⟨runs rfl, rfl⟩, by decide, by decide, by decide⟩

/-! ### Weights -/

/-- A manifest of one shard of four bytes. -/
def manA : Manifest :=
  { modelId := 8, version := 1, nLayers := 1, clusters := 1, keySlot := 0, raw := []
    shards := [{ layer := 0, cluster := 0, tile := 0, length := 4, digest := Config.sha3 [1, 2, 3, 4] }] }

/-- A weight object in a phase, which wants its shard since time 0. -/
def weightA (x : WeightPhase) : WeightObj :=
  { ctx := 1, base := 65536, manifest := manA, source := .session 5 9, phase := x, wanted := [{ tile := 0, ready := true, from_ := some 0 }],
    deadline := 50, overwritten := [0] }

/-- The library's entry of the manifest. -/
def entryA : LibraryEntry := { manifest := manA, stripes := [20] }

/-- The device with that weight object and that entry. -/
def weightS (x : WeightPhase) : State := { s0 with weights := [weightA x], library := [entryA] }

theorem shard_ok : manA.shardOk 0 [1, 2, 3, 4] = true ∧ manA.shardOk 0 [1] = false := by
  constructor
  · show (true && (Config.sha3 [1, 2, 3, 4] == Config.sha3 [1, 2, 3, 4])) = true
    rw [beq_self_eq_true]; rfl
  · rfl

/-- The object while a refetch of its one tile waits for the shard. -/
def refetchA : WeightObj := { weightA .ready with wanted := [], refetch := [{ tile := 0, dest := ⟨1, 0, 300⟩ }] }

theorem witness_Shards :
    (s0.weight? 1 65536 = none ∧ (weightA .loading).target.shards[1]? = none ∧
      (let s : State := { s0 with weights := [refetchA] };
        s.weight? 1 65536 = some refetchA ∧ (refetchA.wanted.find? fun x => x.tile == 0 && x.ready) = none ∧
        (refetchA.refetch.find? fun x => x.tile == 0 && !x.got) = refetchA.refetch.head? ∧ (refetchA.holding 0).2 ≠ .library ∧
        (refetchA.holding 0).1 = manA ∧ (refetchA.target.shards[0]?).isSome) ∧
      { weightA .loading with source := .library }.targetSource = .library ∧ { weightA .swapping with wasLost := true }.wasLost = true ∧
      (weightS .swapping).run? 0 = none) ∧
    (let s := weightS .loading;
      s.weight? 1 65536 = some (weightA .loading) ∧ s.obj? 1 65536 = some objA ∧ (weightA .loading).source ≠ .library ∧
      (manA.shards[0]?).isSome ∧ ((weightA .loading).wanted.find? fun y => y.tile == 0 && y.ready) = (weightA .loading).wanted.head? ∧
      (s.migrations.any fun m => m.ctx == 1 && m.base == 65536 && m.tile == 0) = false ∧
      (∀ z ∈ (weightA .loading).wanted, z.tile = 0 ∧ z.gaveUp = false)) ∧
    (manA.shardOk 0 [1, 2, 3, 4] = true ∧ manA.shardOk 0 [1] = false) ∧
    (weightS .loading).now < 0 + 20000 ∧ 0 + 20000 ≤ { weightS .loading with now := 20000 }.now ∧
    (weightS .swapping).weight? 1 65536 = some (weightA .swapping) ∧ (weightA .swapping).wasLost = false ∧
    (weightA .swapping).overwritten ≠ [] ∧ (let w := { weightA .swapping with overwritten := [] };
      ({ s0 with weights := [w] } : State).weight? 1 65536 = some w ∧ w.wasLost = false ∧ w.overwritten = [] ∧
      (s0.ptn? 0).bind (·.run) = none) ∧
    (weightS .rollingBack).weight? 1 65536 = some (weightA .rollingBack) ∧
    (weightS .swapping).now < 0 + (weightA .swapping).deadline * 1000 ∧ 0 + (weightA .swapping).deadline * 1000 ≤ { s0 with now := 50000 }.now ∧
    (let x : Partition := { ptnA with run := some runB, holds := { wave := true } };
      (withPtn fun _ => x).ptn? 0 = some x ∧ x.run = some runB ∧ x.holds.wave = true) :=
  ⟨⟨rfl, rfl, ⟨rfl, rfl, rfl, by decide, rfl, rfl⟩, rfl, rfl, rfl⟩, ⟨rfl, rfl, by decide, rfl, rfl, rfl, by decide⟩, shard_ok, by decide, by decide, rfl, rfl, by decide,
    ⟨rfl, rfl, rfl, rfl⟩, rfl, by decide, by decide, rfl, rfl, rfl⟩

/-- A session that serves the entry, its shard still to be sent. -/
def servingA : Serving := { q := hq, session := 5, modelId := 8, version := 1, group := 7, linger := 1000000 }

/-- A multicast frame. -/
def castA (hops : BitVec 4) : Frame := { dataA with type := 2, hops := hops }

theorem witness_Sessions :
    (∀ h ∈ ([14, 15] : List (BitVec 4)), ∃ t, feltA.receive 0 (sealed keyA (castA h)) = (t, true) ∧ t.awaited = [] ∧ (castA h).type = 2) ∧
    (∃ t, feltA.receive 0 (sealed keyA dataA) = (t, true) ∧ t.awaited = [] ∧ dataA.type ≠ 2) ∧
    (let s : State := { s0 with serving := [servingA], library := [entryA] };
      (s.serving.find? fun x => x.session == 5) = some servingA ∧ s.entry? 8 1 = some entryA ∧ s.weights = [] ∧
      servingA.position = 0 ∧ 0 < entryA.manifest.shards.length ∧ entryA.manifest.shardOk 0 [1, 2, 3, 4] = true ∧
      s.restarting storeIsland = false ∧ s.stacksRun = true ∧ s.flash.jobs = [] ∧ Table.get 0 servingA.fails 0 + 1 < 3 ∧
      3 ≤ Table.get 0 { servingA with fails := [(0, 2)] }.fails 0 + 1 ∧
      (∃ y ∈ { servingA with resends := [(3, 0)], position := 1 }.resends, y.2 = 0)) ∧
    s0.tree? 3 7 = none ∧ ({ s0 with flash := s0.flash } : State).library = [] ∧
    (∀ t ∈ [999999, 1000000],
      let s : State := { s0 with serving := [{ servingA with lingerFrom := some 0 }], now := t };
      (s.serving.find? fun x => x.session == 5) = some { servingA with lingerFrom := some 0 } ∧ servingA.resends = [] ∧
      (0 + servingA.linger ≤ s.now ↔ t = 1000000) ∧ (t = 999999 → ∀ x ∈ s.serving, x.session = 5 →
        x.resends ≠ [] ∨ ∀ since, x.lingerFrom = some since → s.now < since + x.linger)) ∧
    can (.wgtServe hq 8 2 5 7 0) hq s0 (fun s => s.entry? 8 2 = none) ∧
    (∀ n ∈ [7, 8], can (.wgtServe hq 8 1 5 7 0) hq { s0 with serving := List.replicate n servingA, library := [entryA] }
      (fun s => s.entry? 8 1 = some entryA ∧ s.serving.length = n)) ∧
    can (.wgtDelete hq 8 1) hq { s0 with library := [entryA] } (fun s => s.entry? 8 1 = some entryA ∧ s.weights = [] ∧ s.serving = []) ∧
    can (.wgtDelete hq 8 1) hq { s0 with library := [entryA], serving := [servingA] } (fun s => s.entry? 8 1 = some entryA ∧
      (s.serving.any fun x => x.modelId == 8 && x.version == 1) = true) := by
  refine ⟨fun h hh => ⟨_, takes (castA h) ?_ (show 0 < dataA.ctr.toNat by decide) rfl feltA rfl, rfl, rfl⟩,
    ⟨_, takes dataA (by decide) (by decide) rfl feltA rfl, rfl, by decide⟩,
    ⟨rfl, rfl, rfl, rfl, by decide, shard_ok.1, rfl, rfl, rfl, by decide, by decide, ⟨(3, 0), List.mem_singleton.2 rfl, rfl⟩⟩, rfl, rfl, ?_,
    ⟨runs rfl, rfl⟩, fun n hn => ⟨runs rfl, rfl, ?_⟩, ⟨runs rfl, rfl, rfl, rfl⟩, ⟨runs rfl, rfl, rfl⟩⟩
  · rfl
  · intro t ht
    simp only [List.mem_cons, List.not_mem_nil, or_false] at ht
    obtain rfl | rfl := ht
    · refine ⟨rfl, rfl, by decide, fun _ x hx _ => .inr fun since h => ?_⟩
      obtain rfl := List.mem_singleton.1 hx
      cases h
      decide
    · exact ⟨rfl, rfl, by decide, fun h => absurd h (by decide)⟩
  · exact List.length_replicate

/-- Another version of the manifest. -/
def manB : Manifest := { manA with version := 2 }

/-- Manifests that differ in the version alone match. -/
theorem matches_version : (weightA .ready).manifest.matches_ manB = true := by
  simp [Manifest.matches_, weightA, manA, manB]

theorem witness_WeightObjects :
    (∀ b ∈ [true, false], can (.wgtLoad cq { libA with isLocal := b } false) cq { s0 with library := [entryA] } (fun s =>
      s.ptn? 0 = some ptnA ∧ (s.start cq).weightCount 1 < 4 ∧ s.entry? 8 1 = some entryA)) ∧
    can (.wgtLoad cq { libA with version := 3 } false) cq s0 (fun s => s.entry? 8 3 = none ∧ (s.start cq).weightCount 1 < 4) ∧
    (∀ x ∈ [WeightPhase.ready, .lost, .loading, .swapping, .rollingBack],
      can (.wgtSwap cq 65536 0 { libA with version := 2 }) cq { weightS x with library := [{ entryA with manifest := manB }] } (fun s =>
        s.weight? 1 65536 = some (weightA x) ∧ s.awaited = [] ∧ s.entry? 8 2 = some { entryA with manifest := manB }) ∧
      can (.wgtFree cq 65536) cq (weightS x) (fun s => s.obj? 1 65536 = some objA ∧ s.weight? 1 65536 = some (weightA x) ∧
        (s.start cq).bound objA = false) ∧
      can (.wgtQuery cq 65536) cq (weightS x) (fun s => s.weight? 1 65536 = some (weightA x))) ∧
    can (.wgtLoad cq libA false) cq { s0 with weights := List.replicate 4 (weightA .ready) } (fun s => 4 ≤ (s.start cq).weightCount 1) ∧
    can (.wgtSwap cq 65536 0 libA) cq { weightS .ready with awaited := [{ q := cq, cmd := .wgtSwap cq 65536 0 libA, session := 5, reader := 9 }] }
      (fun s => ∃ a ∈ s.awaited, ctxOf a.q.ring = some 1 ∧ ∃ q d src, a.cmd = .wgtSwap q 65536 d src) ∧
    (weightA .ready).manifest.matches_ manB = true ∧ (weightA .ready).manifest.matches_ { manB with modelId := 9 } = false ∧
    can (.wgtReader cq 65536 5 9) cq (weightS .ready) (fun s => s.weight? 1 65536 = some (weightA .ready) ∧ s.awaited = [] ∧
      (weightA .ready).refetch = []) ∧
    can (.wgtFree cq 65536) cq { weightS .ready with ptns := boundS.ptns } (fun s => s.weight? 1 65536 = some (weightA .ready) ∧
      (s.start cq).bound objA = true) ∧
    can (.wgtReader cq 65536 5 9) cq (weightS .loading) (fun s => s.weight? 1 65536 = some (weightA .loading) ∧
      (weightA .loading).phase = .loading) :=
  ⟨fun _ _ => ⟨runs rfl, rfl, (show (0 : Nat) < 4 by decide), rfl⟩, ⟨runs rfl, rfl, by decide⟩,
    fun _ _ => ⟨⟨runs rfl, rfl, rfl, rfl⟩, ⟨runs rfl, rfl, rfl, rfl⟩, ⟨runs rfl, rfl⟩⟩,
    ⟨runs rfl, (show 4 ≤ 4 by decide)⟩, ⟨runs rfl, _, List.mem_singleton.2 rfl, rfl, cq, 0, libA, rfl⟩, matches_version,
    by decide, ⟨runs rfl, rfl, rfl, rfl⟩, ⟨runs rfl, rfl, by decide⟩, ⟨runs rfl, rfl, rfl⟩⟩

/-! ### The flash store and the firmware -/

/-- Inserting leaves no list empty. -/
theorem insert_ne {α : Type} (le : α → α → Bool) (x : α) : ∀ l, Lists.insertBy le x l ≠ []
  | [] => List.cons_ne_nil _ _
  | y :: ys => by
    unfold Lists.insertBy
    split <;> exact List.cons_ne_nil _ _

/-- Some stripe comes first where one is free. -/
theorem order_some {s : State} {i : Nat} (h : i ∈ s.freeStripes) : ∃ k rest, s.stripeOrder = k :: rest := by
  unfold State.stripeOrder
  generalize s.freeStripes = l at h
  cases l with
  | nil => exact absurd h List.not_mem_nil
  | cons x xs =>
    cases e : Lists.sortBy (fun a b => decide (s.stripeErases a ≤ s.stripeErases b)) (x :: xs) with
    | nil => exact absurd e (insert_ne _ _ _)
    | cons k rest => exact ⟨k, rest, rfl⟩

/-- A job of die 0 that has been issued. -/
def jobA (use : FlashUse) (block : Nat) : FlashJob := { die := 0, block := block, op := .erase, use := use, issued := true }

/-- The device with that job. -/
def flashS (use : FlashUse) (block : Nat) : State := s0.modFlash fun f => { f with jobs := [jobA use block] }

/-- Die 0 while its journal, in block 4, or its log, in block 6, is being written. -/
def journalS : State := s0.modFlash fun f => { f with journals := f.journals.set 0 { active := 4, other := 5, seq := 1, writing := some ⟨0, 0, []⟩ } }

/-- The device with an entry in stripe 20. -/
def patrolS : State := { s0 with library := [{ entryA with stripes := [20] }] }

theorem witness_FlashStore :
    can (.wgtStore cq 65536) cq s0 (fun s => cq.ring = .ctx 1 ∧ s.obj? 1 65536 = some objA ∧ objA.broken = none) ∧
    objA.desc.kind = kindData ∧ ringA.desc.kind ≠ kindData ∧ (readManifest [] = none) ∧
    (s0.flash.jobs.find? fun j => j.issued && j.die == 0 && j.block == 64 && j.op == .erase) = none ∧
    (∀ u ∈ [FlashUse.stripe, .copy 0, .store cq 0], ((flashS u 64).flash.jobs.find? fun j =>
      j.issued && j.die == 0 && j.block == 64 && j.op == .erase) = some (jobA u 64) ∧ (jobA u 64).use ≠ .swap ∧ (jobA u 64).use ≠ .log ∧
      (jobA u 64).boot = false) ∧
    (∀ b ∈ [63, 64], (64 ≤ (jobA .stripe b).block ↔ b = 64)) ∧
    (journalS.flash.journals[0]?.map fun x => (x.active, x.writing.isSome)) = some (4, true) ∧
    (journalS.flash.jobs.find? fun j => j.issued && j.die == 0 && j.block == 4 && j.op == .program) = none ∧
    patrolS.restarting storeIsland = false ∧ patrolS.stacksRun = true ∧ patrolS.power ≠ .off ∧ patrolS.power ≠ .frost ∧
    ({ s0 with flt := { s0.flt with restarting := [⟨storeIsland, 0⟩] } } : State).restarting storeIsland = true ∧
    (∃ e ∈ patrolS.library, (20 : BitVec 12).toNat ∈ e.stripes) ∧ (∀ c ∈ patrolS.flash.copying, c.src ≠ 20) ∧
    (∃ k rest, patrolS.stripeOrder = k :: rest) ∧ keyBlock (stripeKey 20 0) ≥ 64 ∧ s0.library = [] :=
  ⟨⟨runs rfl, rfl, rfl, rfl⟩, rfl, by decide, by decide, rfl,
    fun u hu => by
      simp only [List.mem_cons, List.not_mem_nil, or_false] at hu
      obtain rfl | rfl | rfl := hu <;> exact ⟨rfl, nofun, nofun, rfl⟩,
    by decide, rfl, rfl, rfl, rfl, nofun, nofun, rfl, ⟨_, List.mem_singleton.2 rfl, by decide⟩, nofun,
    order_some (i := 16) (List.mem_filter.mpr ⟨List.mem_range'.mpr ⟨0, by decide, rfl⟩, rfl⟩), by decide, rfl⟩

/-- An image's header. -/
def imageA : FwInfo := ⟨2, 1, 1, 0⟩

theorem witness_FirmwareCommands :
    can (.fwStage mq 65536 0 0) mq s0 (fun s => s.fw.activation = none) ∧
    can (.fwStage mq 65536 0 1) mq s0 (fun s => s.fw.activation = none ∧ s.hostUp mq = true) ∧
    can (.fwStage mq 65536 0 1) mq { s0 with hosts := #v[{}, {}] } (fun s => s.fw.activation = none ∧ s.hostUp mq = false) ∧
    can (.fwStage mq 65536 0 1) mq { s0 with fw := { s0.fw with activation := some { q := none, image := imageA } } } (fun s => s.fw.activation.isSome) ∧
    can (.fwVerify mq) mq s0 (fun s => s.fw.activation = none) ∧
    can (.fwVerify mq) mq { s0 with fw := { s0.fw with activation := some { q := none, image := imageA } } } (fun s => s.fw.activation.isSome) ∧
    can (.fwActivate mq) mq { s0 with fw := { s0.fw with activation := some { q := none, image := imageA } } } (fun s => s.fw.activation.isSome) ∧
    can (.fwActivate mq) mq s0 (fun s => s.fw.activation = none ∧ s.fw.verified = none) ∧
    can (.fwActivate mq) mq { s0 with fw := { s0.fw with verified := some imageA } } (fun s =>
      s.fw.activation = none ∧ s.fw.verified = some imageA) ∧
    can (.fwQuery mq) mq s0 (fun _ => True) :=
  ⟨⟨runs rfl, rfl⟩, ⟨runs rfl, rfl, rfl⟩, ⟨runs rfl, rfl, rfl⟩, ⟨runs rfl, rfl⟩, ⟨runs rfl, rfl⟩, ⟨runs rfl, rfl⟩, ⟨runs rfl, rfl⟩, ⟨runs rfl, rfl, rfl⟩,
    ⟨runs rfl, rfl, rfl⟩, ⟨runs rfl, trivial⟩⟩

/-! ### Sequences, prefixes and programs -/

/-- A request for a plain sequence. -/
def openArgs : SeqOpenArgs :=
  { kvFmt := 0, hd := 1, layers := 2, heads := 2, layout := false, shardLog2 := 0, memberLog2 := 0, rank := 0, fromHandle := false, w := 128,
    input := 0, handle := 0 }

/-- An open sequence of context 1 at directory index 5, with c final positions and d drafts. -/
def seqA (c d : Nat) : Seq := { index := 5, gen := 1, ctx := 1, shape := seqShape openArgs, w := 128, c := c, d := d }
/-- Its number. -/
def noA : BitVec 32 := 0x100005
/-- The device with it. -/
def seqS (c d : Nat) : State := { s0 with seqs := [seqA c d] }
/-- The device with an object of list words that starts with the number 3. -/
def listS : State := { seqS 4 0 with tier1 := [(100 * 65536, 3)] }

/-- A handle of context 1. -/
def handleA : Handle := { handle := 65537, ptn := 0, ctx := 1, p := 4, glob := [], shape := seqShape openArgs, pages := [] }

/-- One more sequence without pages fits the node pool of an otherwise empty partition. -/
theorem nodes_fit (y : Seq) (hc : y.ctx = 1) (hp : y.pages = []) (s : State) (hs : s.objs = [] ∧ s.seqs = [] ∧ s.ptns = s0.ptns ∧ s.ctxs = s0.ctxs) :
    ({ s with seqs := s.seqs ++ [y] } : State).nodesFit 0 = true := by
  have hq : ptnOf y.ctx = 0 := by rw [hc]; rfl
  have e : State.nodesNeeded { s with seqs := s.seqs ++ [y] } 0 = (objSpace 0, 0, 0) :: (objSpace 1, 0, 0) :: [(y.index, 0, 0)] := by
    unfold State.nodesNeeded State.seqsOf State.ctxsOf State.granules
    have hf : (([] ++ [y]).filter fun x => ptnOf x.ctx == 0) = [y] := by simp [hq]
    simp only [hs.1, hs.2.1, hs.2.2.2, hf, List.flatMap_cons, List.flatMap_nil, hp]
    rfl
  unfold State.nodesFit
  rw [e, show State.ptn? { s with seqs := s.seqs ++ [y] } 0 = State.ptn? s0 0 by simp [State.ptn?, hs.2.2.1]]
  rfl

theorem witness_Sequences :
    can (.seqOpen cq openArgs) cq { s0 with objs := [] } (fun s => s.ptn? 0 = some ptnA ∧ openArgs.fromHandle = false ∧ openArgs.input = 0 ∧
      s.objCount 1 < 65536 ∧ (s.seqsOf 0).length < ptnA.share ∧
      (∀ y : Seq, y.ctx = 1 → y.pages = ((none : Option Handle).map fun v => v.pages.map sharePage).getD [] →
        ({ s.start cq with seqs := s.seqs ++ [y] } : State).nodesFit 0 = true)) ∧
    can (.seqOpen cq { openArgs with fromHandle := true, handle := 65537 }) cq { s0 with objs := [], handles := [handleA] } (fun s =>
      s.handle? 0 65537 = some handleA ∧ handleA.shape = seqShape { openArgs with fromHandle := true, handle := 65537 } ∧
      (∀ y : Seq, y.ctx = 1 → y.pages = ((some handleA).map fun v => v.pages.map sharePage).getD [] →
        ({ s.start cq with seqs := s.seqs ++ [y] } : State).nodesFit 0 = true)) ∧
    (∀ c ∈ [3, 4], ∀ d ∈ [0, 2], (seqS c d).seq? noA = some (seqA c d) ∧ (seqA c d).state = .opened ∧ (seqS c d).seqBound (seqA c d) = false ∧
      Runnable (.seqClose cq noA) cq (asked (.seqClose cq noA) cq (seqS c d)) ∧
      Runnable (.seqQuery cq noA 0) cq (asked (.seqQuery cq noA 0) cq (seqS c d)) ∧
      Runnable (.kvGlobal cq noA 0 true 0 0) cq (asked (.kvGlobal cq noA 0 true 0 0) cq (seqS c d)) ∧
      Runnable (.kvCommit cq noA 2) cq (asked (.kvCommit cq noA 2) cq (seqS c d)) ∧
      Runnable (.kvCommit cq noA 3) cq (asked (.kvCommit cq noA 3) cq (seqS c d)) ∧
      Runnable (.kvRollback cq noA) cq (asked (.kvRollback cq noA) cq (seqS c d)) ∧
      Runnable (.kvDrop cq noA 1) cq (asked (.kvDrop cq noA 1) cq (seqS c d))) ∧
    (∀ c ∈ [3, 4], can (.kvGlobal cq noA 1 false 65536 0) cq { listS with seqs := [seqA c 0] } (fun s =>
      (s.start cq).obj? 1 65536 = some objA ∧ objA.broken = none ∧ (0 : BitVec 42).toNat + 4 * (1 : BitVec 7).toNat ≤ objA.size ∧
      (s.start cq).objMigrates 1 65536 = false ∧ (s.start cq).objPoison objA 0 4 = none ∧
      ascendingBelow c ((List.range 1).map fun i => (s.start cq).objWord objA (0 + 4 * i) 4) = decide (c = 4))) ∧
    can (.pfxRegister cq noA 4) cq (seqS 4 0) (fun s => s.rng.failing = false ∧ s.ptn? 0 = some ptnA ∧
      (s.handles.filter fun h => !h.released).length < 65536 ∧
      ((s.handles.filter fun h => !h.released).filter fun h => h.ptn == 0).length < ptnA.live.pfxLimit) ∧
    can (.pfxRelease cq 65537) cq { s0 with handles := [handleA] } (fun s => s.handle? 0 65537 = some handleA ∧ handleA.ctx = 1 ∧
      handleA.ended = false) ∧
    (isMgmt 2 = false ∧ Runnable (.pfxRelease { cq with ring := .ctx 2 } 65537) { cq with ring := .ctx 2 }
        (asked (.pfxRelease { cq with ring := .ctx 2 } 65537) { cq with ring := .ctx 2 } { s0 with handles := [handleA] }) ∧
      handleA.ctx ≠ 2) := by
  refine ⟨⟨runs rfl, rfl, rfl, rfl, by decide, by decide, fun y hc hp => nodes_fit y hc hp _ ⟨rfl, rfl, rfl, rfl⟩⟩,
    ⟨runs rfl, rfl, rfl, fun y hc hp => nodes_fit y hc hp _ ⟨rfl, rfl, rfl, rfl⟩⟩, ?_, ?_,
    ⟨runs rfl, rfl, rfl, by decide, by decide⟩, ⟨runs rfl, rfl, rfl, rfl⟩, rfl, runs rfl, by decide⟩
  · intro c hc d hd
    simp only [List.mem_cons, List.not_mem_nil, or_false] at hc hd
    obtain rfl | rfl := hc <;> obtain rfl | rfl := hd <;>
      exact ⟨rfl, rfl, rfl, runs rfl, runs rfl, runs rfl, runs rfl, runs rfl, runs rfl, runs rfl⟩
  · intro c hc
    simp only [List.mem_cons, List.not_mem_nil, or_false] at hc
    obtain rfl | rfl := hc
    · exact ⟨runs rfl, rfl, rfl, by decide, rfl, rfl, by decide +kernel⟩
    · exact ⟨runs rfl, rfl, rfl, by decide, rfl, rfl, by decide +kernel⟩

/-- The bytes of an image of one empty operation section (05 Tables SPD.7 and SPD.8): one cluster, four beats of length
4,096, in a latency mode. -/
def imageBytesA (mode : Nat) : List Byte :=
  Bits.toBytes 64 (packBits [(0x53437160, 0), (1, 32), (1, 48), (80, 64), (4, 96), (1, 256), (mode, 264), (4096, 272)]) ++ Bits.toBytes 16 1

/-- An image object of 128 bytes. -/
def objI : Obj := { objA with desc := { descA with kind := 2, length := 128 } }

/-- The device with that image. -/
def imageS (mode : Nat) : State := { s0 with objs := [objI], tier1 := Mem.write [] (100 * 65536) (imageBytesA mode) }

/-- The image as it is read. -/
def imgA (mode : Nat) : Image :=
  ⟨1, 65536, BitVec.ofNat 512 (packBits [(0x53437160, 0), (1, 32), (1, 48), (80, 64), (4, 96), (1, 256), (mode, 264), (4096, 272)]),
    [((0, 0), [])], [], [], [], []⟩

theorem image_read (mode : Nat) (h : mode = 0 ∨ mode = 1) :
    readImage 1 65536 ((imageS mode).readObj objI 0 objI.size) = some (imgA mode) ∧
      imageOk (imgA mode) (imageS mode).stores ptnA false = decide (mode = 0) := by
  obtain rfl | rfl := h <;> constructor <;> decide +kernel

/-- The arguments of a run of that image. -/
def runArgs (bind : BitVec 9) (chunks : BitVec 4) : RunArgs :=
  { image := 65536, list := 65536, objOff := 0, nObj := 0, bindOff := 0, nBind := bind, q := chunks, result := 0, verify := false, noFill := false }

/-- The device with the image loaded, guarded or not. -/
def loadedS (guarded : Bool) : State :=
  let r : PtnRegs := { ptnA.live with srv := if guarded then 2 else 0, beat := 0x1000 }
  { (withPtn fun x => { x with live := r, stepSets := [⟨2, 1, [⟨65536, 1, 0, 0⟩]⟩] }) with images := [imgA 0] }

/-- The device with the sequence and a list object whose first entry binds it with one final token. -/
def stepS : State :=
  { loadedS false with seqs := [seqA 4 0], tier1 := Mem.write [] (101 * 65536) (Bits.toBytes 16 (packBits [(noA.toNat, 0), (1, 32)])) }

/-- A step of set 2 with one decode binding. -/
def stepArgs : RunArgs := { runArgs 1 0 with image := 2, list := 131072 }

/-- The slot that it binds. -/
def slotA : Slot := { no := 0, seq := noA, nNew := 1 }

/-- The variant of set 2. -/
def variantA : Variant := ⟨65536, 1, 0, 0⟩

/-- The device with the image loaded and an object that names it as a variant. -/
def setS : State :=
  { loadedS false with tier1 := Mem.write [] (101 * 65536) (Bits.toBytes 16 (packBits [(65536, 0), (1, 48)])) }

theorem step_reads : stepS.readList 1 stepArgs ([0] ++ []) = .ok ([], [slotA]) := by decide +kernel

theorem set_reads : setS.readVariants objB 0 1 = some [variantA] := by decide +kernel

theorem read_asked (i : Instr) (q : Req) (s : State) (o : Obj) (off n : Nat) : ((asked i q s).start q).readObj o off n = s.readObj o off n := rfl

/-- An image whose one tile lies in tier 0, in a partition that has the units given of tier 1. -/
def slowImage (units : Nat) : State :=
  { (withPtn fun x => { x with live := { x.live with quotaT1 := BitVec.ofNat 64 units } }) with
    objs := [{ objI with tiles := [⟨⟨0, 0, 5⟩, 0⟩] }] }

theorem image_moves : (slowImage 4096).quota 0 1 = 4096 ∧ (∀ n ∈ [0, 4096],
    ((slowImage n).pinImage 1 65536 (List.range objI.tiles.length)).2 = decide (n = 4096) ∧
    ((slowImage n).pinImage 1 65536 (List.range objI.tiles.length)).1.objMigrates 1 65536 = decide (n = 4096)) := by
  decide +kernel

theorem witness_Programs :
    can (.schedLoad cq 65536) cq s0 (fun s => s.obj? 1 65536 = some objA ∧ objA.ctx = 1 ∧ objA.broken = none ∧ s.loaded 1 65536 = false ∧
      objA.desc.kind ≠ kindImage) ∧
    (∀ mode, mode = 0 ∨ mode = 1 → can (.schedLoad cq 65536) cq (imageS mode) (fun s => s.obj? 1 65536 = some objI ∧ objI.ctx = 1 ∧
      objI.broken = none ∧ s.loaded 1 65536 = false ∧ objI.desc.kind = kindImage ∧ (s.start cq).objPoison objI 0 objI.size = none ∧
      readImage 1 65536 ((s.start cq).readObj objI 0 objI.size) = some (imgA mode) ∧ s.ptn? 0 = some ptnA ∧
      imageOk (imgA mode) s.stores ptnA (ptnA.group.any fun g => g.lockstep) = decide (mode = 0) ∧ (∀ t ∈ objI.tiles, t.place.tier ≠ 0) ∧
      let v := (s.start cq).cancelMigrations 1 65536 fun m => m.dest.tier == 0
      v.objMigrates 1 65536 = false ∧ (v.pinImage 1 65536 (List.range objI.tiles.length)).2 = true ∧
      (v.pinImage 1 65536 (List.range objI.tiles.length)).1.objMigrates 1 65536 = false)) ∧
    (∀ g ∈ [true, false], can (.schedRun cq (runArgs 0 0)) cq (loadedS g) (fun s => s.image? 1 65536 = some (imgA 0) ∧
      (s.start cq).objMigrates 1 65536 = false ∧
      ∃ x, s.ptn? 0 = some x ∧ (s.start cq).readList 1 (runArgs 0 0) (List.range (0 : BitVec 9).toNat) = .ok ([], []) ∧
        (s.start cq).tooLong x 1 false (imgA 0).nBeats = g)) ∧
    can (.schedRun cq { runArgs 0 0 with nObj := 1, list := 0 }) cq (loadedS false) (fun s => (s.image? 1 65536).isSome ∧ (s.ptn? 0).isSome ∧
      (s.start cq).objMigrates 1 0 = false ∧ (s.start cq).readList 1 { runArgs 0 0 with nObj := 1, list := 0 } (List.range (0 : BitVec 9).toNat) = .error stNoObject) ∧
    can (.schedStep cq stepArgs) cq stepS (fun s => ∃ x set, s.ptn? 0 = some x ∧ x.stepSet? 1 2 = some set ∧ stepArgs.verify = false ∧
      (s.start cq).objMigrates 1 131072 = false ∧
      (s.start cq).readList 1 stepArgs (List.range stepArgs.nBind.toNat ++ (List.range stepArgs.q.toNat).map fun i => 255 - i) = .ok ([], [slotA]) ∧
      (([slotA].take 1).all Slot.decodes && ([slotA].drop 1).all Slot.chunks && distinctSeqs [slotA]) = true ∧
      selectVariant set.variants 1 0 (([slotA].drop 1).map Slot.rows) = some (0, variantA) ∧ s.image? 1 variantA.image = some (imgA 0) ∧
      (s.start cq).tooLong x 1 true (imgA 0).nBeats = false) ∧
    can (.schedStep cq (runArgs 0 0)) cq s0 (fun _ => (runArgs 0 0).nBind = 0 ∧ (runArgs 0 0).q = 0) ∧
    can (.schedStep cq (runArgs 0 1)) cq s0 (fun s => s.ptn? 0 = some ptnA ∧ ptnA.stepSet? 1 65536 = none) ∧
    can (.schedLoad cq 65536) cq { imageS 0 with images := [imgA 0] } (fun s => s.loaded 1 65536 = true) ∧
    Runnable (.schedStepset cq 65536 0 0) cq (asked (.schedStepset cq 65536 0 0) cq s0) ∧
    can (.schedUnload cq 65536) cq (loadedS false) (fun s => s.loaded 1 65536 = true ∧
      ∃ x, s.ptn? 0 = some x ∧ ∃ t ∈ x.stepSets, t.ctx = 1 ∧ ∃ v ∈ t.variants, v.image = 65536) ∧
    can (.schedUnload cq 65536) cq s0 (fun s => s.loaded 1 65536 = false) ∧
    can (.schedUnload cq 65536) cq { s0 with images := [imgA 0] } (fun s => s.loaded 1 65536 = true ∧ s.ptn? 0 = some ptnA ∧ ptnA.stepSets = [] ∧
      ∀ a ∈ (s.start cq).accepted, ∀ r b, a.cmd = .schedRun r b → b.image ≠ 65536 ∨ r.ring ≠ cq.ring) ∧
    can (.schedStepset cq 131072 0 1) cq setS (fun s => s.obj? 1 131072 = some objB ∧ objB.ctx = 1 ∧ objB.broken = none ∧
      0 + 16 * 1 ≤ objB.size ∧ (s.start cq).objMigrates 1 131072 = false ∧ (s.start cq).objPoison objB 0 16 = none ∧ ∃ x, s.ptn? 0 = some x ∧ x.live.guarded = false ∧
      x.stepSets.length < 16 ∧ (s.start cq).readVariants objB 0 1 = some [variantA] ∧
      ([variantA].filterMap fun v => s.image? 1 v.image) = [imgA 0]) ∧
    can (.schedStepfree cq 3) cq (loadedS false) (fun s => ∃ x, s.ptn? 0 = some x ∧ x.stepSet? 1 3 = none) ∧
    can (.schedStepfree cq 2) cq (loadedS false) (fun s => ∃ x, s.ptn? 0 = some x ∧ (x.stepSet? 1 2).isSome ∧
      ∀ a ∈ (s.start cq).accepted, ∀ r b, a.cmd = .schedStep r b → b.image.toNat ≠ 2 ∨ r.ring ≠ cq.ring) := by
  refine ⟨⟨runs rfl, rfl, rfl, rfl, rfl, by decide⟩, ?_, ?_, ⟨runs rfl, rfl, rfl, rfl, rfl⟩,
    ⟨runs rfl, _, _, rfl, rfl, rfl, rfl, step_reads, rfl, rfl, rfl, rfl⟩, ⟨runs rfl, rfl, rfl⟩,
    ⟨runs rfl, rfl, rfl⟩, ⟨runs rfl, rfl⟩, runs rfl, ⟨runs rfl, rfl, _, rfl, _, List.mem_singleton.2 rfl, rfl, _, List.mem_singleton.2 rfl, rfl⟩, ⟨runs rfl, rfl⟩, ⟨runs rfl, rfl, rfl, rfl, ?_⟩,
    ⟨runs rfl, rfl, rfl, rfl, by decide, rfl, rfl, _, rfl, by decide, by decide, set_reads, rfl⟩, ⟨runs rfl, _, rfl, rfl⟩, ⟨runs rfl, _, rfl, rfl, ?_⟩⟩
  · intro mode h
    have k := image_read mode h
    refine ⟨runs rfl, rfl, rfl, rfl, rfl, rfl, rfl, ?_, rfl, k.2, by decide, rfl, rfl, rfl⟩
    rw [read_asked]
    exact k.1
  · intro g hg
    simp only [List.mem_cons, List.not_mem_nil, or_false] at hg
    obtain rfl | rfl := hg <;> exact ⟨runs rfl, rfl, rfl, _, rfl, rfl, by decide +kernel⟩
  · intro a ha r b e
    obtain rfl := List.mem_singleton.mp ha
    exact Instr.noConfusion e
  · intro a ha r b e
    obtain rfl := List.mem_singleton.mp ha
    exact Instr.noConfusion e

/-! ### Beats and runs -/

/-- A partition whose beat is open since time 0, with what has collected. -/
def openB (got : List (Nat × Nat)) : Partition := { ptnA with beat := { ptnA.beat with collected := got, closed := false } }

/-- The image with one operation record in beat 0 of tile 0. -/
def imgB : Image := { imgA 0 with ops := [((0, 0), [0x08])] }

/-- Partition 0 with the run of that image in progress, its beat open. -/
def runningA : Partition := { openB [] with run := some runB }

/-- The device with it. -/
def runningS : State := { (withPtn fun _ => runningA) with images := [imgB] }

/-- Every member of partition 0. -/
def allA : List (Nat × Nat) := ptnA.members

/-- A partition with a queue. -/
def queuedA (r : Run) : Partition := { ptnA with queue := [r] }

/-- Partition 0 as Guarded, a slot every 500 us from time 5, context 1 its serving context. -/
def guardedA (queue : List Run) : Partition :=
  { ptnA with live := { ptnA.live with srv := BitVec.ofNat 64 (packBits [(2, 0), (1, 8), (500, 32), (100, 52)]) }, slotBase := 5, queue := queue }

/-- A run that waits. -/
def runQ (isStep : Bool) : Run := { q := cq, ctx := 1, isStep := isStep, image := 65536, args := runA }

/-- An image with a move to a peer. -/
def imgP : Image := { imgA 0 with moves := [(0, [BitVec.ofNat 256 (packBits [(6, 128)])])] }

theorem witness_BeatRing_slots :
    (let x : Partition := { guardedA [] with beat := { ptnA.beat with since := 5 } };
      ∀ s ∈ [({ s0 with now := 5 } : State)], x.live.guarded = true ∧ x.status = .running ∧ x.slotTime 0 ≤ s.now ∧ x.beat.closed = false ∧
        x.beat.since = s.now ∧ (∀ r ∈ x.queue, x.reserves r.ctx r.isStep = false) ∧ ({ x with queue := [runQ true] } : Partition).reserves 1 true = true) ∧
    ({ guardedA [] with status := .resetting } : Partition).live.guarded = true ∧ (guardedA []).slotTime 0 ≤ 5 ∧
    (let s := withPtn fun _ => { queuedA (runQ false) with beat := { ptnA.beat with closed := true } };
      s.ringRuns 0 = true ∧ s.lockstep 0 = none ∧ (s.planBoundary 0).lockstep 0 = none) ∧
    (∀ g ∈ [none, some pairA], let s : State := { (withPtn fun _ => { queuedA (runQ false) with group := g }) with images := [imgP] };
      s.nextRun (queuedA (runQ false)) = some (runQ false) ∧ s.beatsOf (runQ false) ≠ 0 ∧
      ((s.image? 1 65536).map Image.usesPeers).getD false = true ∧ s.group? 0 = g) ∧
    (withPtn fun _ => { ptnA with run := some { runQ false with ended := true } }).beatsOf { runQ false with ended := true } = 0 := by
  decide +kernel

theorem witness_BeatRing :
    (∀ x ∈ [openB [], runningA], ∀ m ∈ [0, 14],
      let s : State := { (withPtn fun _ => x) with images := [imgB] };
      s.ptnOfCluster 0 = some 0 ∧ s.ptn? 0 = some x ∧ s.ringRuns 0 = true ∧ x.beat.closed = false ∧ x.beat.collected.contains (0, m) = false) ∧
    (withPtn fun _ => openB []).memberDone 0 (openB []) 0 0 = true ∧ runningS.memberDone 0 runningA 0 14 = true ∧
    runningS.memberDone 0 runningA 0 0 = false ∧
    (let s := withPtn fun _ => openB allA;
      s.ptn? 0 = some (openB allA) ∧ s.ringRuns 0 = true ∧ s.lockstep 0 = none ∧ (openB allA).beat.closed = false ∧ (openB allA).run = none ∧
      (openB allA).collectedAll = true ∧ s.beatCycles (openB allA) * 160 < (4294967295 + 1) * (openB allA).fMin ∧
      (0 + 1) * (openB allA).fMin ≤ s.beatCycles (openB allA) * 160 ∧
      ((s.closeBeat 0 4294967295).planBoundary 0).lockstep 0 = none) ∧
    (openB []).collectedAll = false ∧
    (runningA.openRun = some runB ∧ (runningA.members.find? fun m => !runningA.beat.collected.contains m) = some (0, 0) ∧
      runningA.beat.slip = none ∧ runningS.ringRuns 0 = true ∧ runningS.elapsed runningA 1 = false ∧
      { runningS with now := 1000000 }.elapsed runningA 1 = true) ∧
    (let x : Partition := { runningA with beat := { runningA.beat with slip := some 4 } };
      x.openRun = some runB ∧ x.collectedAll = false ∧ x.beat.slip.isSome ∧ runningS.lockstep 0 = none ∧
      runningS.elapsed x x.live.slipCeiling = false ∧ { runningS with now := 1000000 }.elapsed x x.live.slipCeiling = true) ∧
    ((guardedA []).live.guarded = true ∧ (guardedA []).status = .running ∧ s0.now < (guardedA []).slotTime 0 ∧ (guardedA []).slotTime 0 ≤ 5 ∧
      (guardedA []).queue = [] ∧ (guardedA [runQ true]).reserves 1 true = true ∧ (runQ true).reserved = none) ∧
    (let s := withPtn fun _ => { openB allA with group := some { pairA with doneSent := false } };
      (s.lockstep 0).isSome ∧ s.ringRuns 0 = true) ∧
    (let g := { pairA with helds := [] }; let x : Partition := { runningA with group := some g, beat := { runningA.beat with closed := true } };
      let s : State := { runningS with ptns := (withPtn fun _ => x).ptns, now := 1000000 };
      s.lockstep 0 = some g ∧ g.doneSent = true ∧ g.helds = [] ∧ s.ringRuns 0 = true ∧ s.elapsed x x.live.slipCeiling = true ∧
      x.run = some runB ∧ runB.released = true ∧ runB.stopped = false) ∧
    ((guardedA [{ runQ true with reserved := some (0, 0) }]).queue.filter fun r => (guardedA []).reserves r.ctx r.isStep) ≠ [] := by
  refine ⟨?_, rfl, rfl, by decide +kernel, ⟨rfl, rfl, rfl, rfl, rfl, by decide +kernel, by decide +kernel, by decide +kernel, ?_⟩, by decide +kernel, ⟨rfl, by decide +kernel, rfl, rfl,
    by decide +kernel, by decide +kernel⟩, ⟨rfl, by decide +kernel, rfl, rfl, by decide +kernel, by decide +kernel⟩, by decide +kernel,
    by decide +kernel, by decide +kernel, by decide +kernel⟩
  · intro x hx m hm
    simp only [List.mem_cons, List.not_mem_nil, or_false] at hx hm
    obtain rfl | rfl := hx <;> obtain rfl | rfl := hm <;> exact ⟨rfl, rfl, rfl, rfl, rfl⟩
  · rfl

theorem witness_RunLife :
    (let s : State := { (withPtn fun _ => queuedA (runQ false)) with images := [imgA 0] };
      s.ptn? 0 = some (queuedA (runQ false)) ∧ (queuedA (runQ false)).run = none ∧ s.ringRuns 0 = true ∧ s.leadWorks 0 = true ∧
      s.restarting (keeperIsland 0) = false ∧ s.nextRun (queuedA (runQ false)) = some (runQ false) ∧
      (queuedA (runQ false)).settles (runQ false) = false ∧ (s.ctx? 1).bind (·.reset) = none ∧ s.beatsOf (runQ false) = 4 ∧
      { s with images := [] }.beatsOf (runQ false) = 0 ∧ ((s.image? 1 65536).map Image.usesPeers).getD false = false) ∧
    (let s : State := { (withPtn fun _ => queuedA (runQ false)) with images := [imgP] };
      ((s.image? 1 65536).map Image.usesPeers).getD false = true ∧ s.group? 0 = none ∧ s.beatsOf (runQ false) ≠ 0) ∧
    (∀ e ∈ [true, false], let x : Partition := { runningA with run := some { runB with ended := e } };
      (withPtn fun _ => x).ptn? 0 = some x ∧ (withPtn fun _ => x).leadWorks 0 = true ∧ runB.stopped = false ∧ runB.admitted = true) ∧
    (let r := { runQ false with ended := true }; let s := withPtn fun x => { x with run := some r };
      s.run? 0 = some r ∧ r.admitted = false ∧ r.stopped = false ∧ s.beatsOf r = 0) := by
  refine ⟨⟨rfl, rfl, rfl, rfl, rfl, rfl, rfl, rfl, by decide +kernel, rfl, rfl⟩, by decide +kernel, fun e _ => ⟨rfl, rfl, rfl, rfl⟩, rfl, rfl, rfl, rfl⟩

/-! ### Tiles -/

/-- An operation record of beat 0 with extents m, k and n. -/
def recA (code m k n : Nat) : OpRec :=
  BitVec.ofNat 512 (packBits [(code, 0), (m, 64), (k, 85), (n, 106), (1, 128), (16, 141), (2, 216), (1, 280), (1, 344), (16, 192), (16, 320)])

/-- The image with one record on a tile, and a budget entry that codes its result. -/
def imgT (t : Nat) (r : OpRec) : Image :=
  { imgA 0 with ops := [((0, t), [r])], budgets := [BitVec.ofNat 128 (packBits [(2, 0), (16, 11), (t, 24), (0, 32), (1024, 48), (1, 72)])] }

/-- The device with that image's run in progress, n records done on the tile. -/
def tileS (t : Nat) (r : OpRec) (n : Nat) : State :=
  { (withPtn fun _ => { runningA with run := some { runB with nextOp := [(opKey 0 t, n)], slots := [slotA] } }) with images := [imgT t r] }

/-- The tile's work. -/
def workT (t : Nat) (r : OpRec) : Work :=
  { c := 0, k := 0, t := t, ctx := 1, beat := 0, slots := [slotA], img := imgT t r, no := 0, r := r }

/-- The operations that stand on a press or on any tile, and those of a reel. -/
def opCodes : List (Nat × Nat) :=
  [(1, 0), (2, 0), (3, 0), (4, 0), (5, 0), (6, 0), (7, 0), (8, 0), (0x18, 0), (0x11, 8), (0x12, 8), (0x13, 8), (0x14, 8), (0x15, 8), (0x16, 8),
    (0x17, 8)]

theorem witness_TileWork_records :
    s0.nextWork 0 0 = none ∧
    (∀ o ∈ opCodes, (tileS o.2 (recA o.1 1 1 1) 0).nextWork 0 o.2 = some (0, workT o.2 (recA o.1 1 1 1)) ∧ Op.code (recA o.1 1 1 1) = o.1) ∧
    (∀ o ∈ opCodes, o.1 = 3 ∨ o.1 = 0x13 ∨ o.1 = 0x15 ∨ (workT o.2 (recA o.1 0 0 0)).noOp = true) ∧
    (workT 0 (recA 3 0 0 0)).noOp = false ∧ ({ stores := {} } : Acted).bad = none := by
  refine ⟨rfl, by decide +kernel, by decide +kernel, by decide +kernel, rfl⟩

/-- The sequence with its first key page and value page in place. -/
def seqK : Seq :=
  { seqA 4 0 with pages := [⟨0, 0, 200, false, false, false, false⟩, ⟨4194304, 0, 201, false, false, false, false⟩] }

/-- The device with a RESCORE of position 0 in progress on reel 8, and with poisoned lines. -/
def rescoreS (bad : List Nat) : State :=
  { tileS 8 (recA 0x16 1 1 1) 0 with
    seqs := [seqK], poison := bad
    stores := ({} : Stores).write none 0 8 2 0 (Bits.toBytes 64 (packBits [(1, 8), (1, 32), (1, 64), (1, 120)])) }

theorem witness_TileWork_operations :
    (∀ o ∈ opCodes, (workT o.2 (recA o.1 1 1 1)).noOp = false) ∧
    (rescoreS []).boundSeq (workT 8 (recA 0x16 1 1 1)) = some seqK ∧
    (tileS 8 (recA 0x16 1 1 1) 0).boundSeq (workT 8 (recA 0x16 1 1 1)) = none ∧
    ((rescoreS []).pastRecord 0 (workT 8 (recA 0x16 1 1 1))).boundSeq (workT 8 (recA 0x16 1 1 1)) = some seqK ∧
    (rescoreS []).rescorePoison (workT 8 (recA 0x16 1 1 1)) = none ∧
    ((rescoreS [200 * 1024]).rescorePoison (workT 8 (recA 0x16 1 1 1))).isSome = true ∧
    (∀ m ∈ [0, 1], let s := tileS 0 (recA 7 m 0 0) 1;
      s.ptnOfCluster 0 = some 0 ∧ (s.ptn? 0).bind (·.openRun) = (s.run? 0) ∧ s.ringRuns 0 = true ∧ s.image? 1 65536 = some (imgT 0 (recA 7 m 0 0)) ∧
      (s.run? 0).map (fun r => s.toCode r 0 0) = some ((imgT 0 (recA 7 m 0 0)).budgets.zipIdx) ∧
      (imgT 0 (recA 7 m 0 0)).opsOf 0 0 = [recA 7 m 0 0] ∧ (workT 0 (recA 7 m 0 0)).noOp = decide (m = 0)) := by
  refine ⟨by decide +kernel, by decide +kernel, by decide +kernel, by decide +kernel, by decide +kernel, by decide +kernel,
    by decide +kernel⟩

/-- A FILL of two words at word 16 of space 3. -/
def fillR : OpRec := BitVec.ofNat 512 (packBits [(7, 0), (2, 64), (16, 320), (3, 344)])

/-- The image with the FILL after a piece of a chain whose ZPC stage reads its correction vector at word 16. -/
def imgZ : Image :=
  { imgA 0 with
    ops := [((0, 0), [recA 1 1 1 1 ||| BitVec.ofNat 512 (2 ^ 32), fillR])]
    chains := [BitVec.ofNat 2560 (packBits [(1, 0), (2, 576), (16, 608)])] }

/-- The FILL's work. -/
def workZ : Work := { workT 0 fillR with img := imgZ, no := 1 }

theorem witness_StoresAndSums_corrections :
    Op.cSpace workZ.r = 3 ∧ (64, 72) ∈ workZ.img.corrections 0 0 ∧ 7 < 4 * Op.extM workZ.r ∧ 64 ≤ Op.cBase workZ.r * 4 + 0 ∧
    Op.cBase workZ.r * 4 + 7 < 72 ∧ (workT 0 fillR).img.corrections 0 0 = [] := by decide +kernel

theorem witness_StoresAndSums :
    Mem.wf ({} : Stores).bytes = true ∧ (0 : Nat) < 8 ∧ (13 : Nat) < 14 ∧ 262143 < storeBytes 13 3 ∧ (7 : Nat) < 8 ∧ 1572863 < storeBytes 7 1 ∧
    Op.cBase (recA 7 16 0 0) * 4 + 4 * Op.extM (recA 7 16 0 0) ≤ storeBytes 0 (Op.cSpace (recA 7 16 0 0)) ∧
    (∀ m, m ≤ 3 → -2 ^ 31 < ((List.range m).map fun _ => (1 : Int)).sum ∧ ((List.range m).map fun _ => (1 : Int)).sum < 2 ^ 31 - 1) := by
  refine ⟨by decide, by decide, by decide, by decide, by decide, by decide, by decide +kernel, ?_⟩
  intro m hm
  match m, hm with
  | 0, _ => exact ⟨by decide, by decide⟩
  | 1, _ => exact ⟨by decide, by decide⟩
  | 2, _ => exact ⟨by decide, by decide⟩
  | 3, _ => exact ⟨by decide, by decide⟩

/-! ### The narrow port and the headbox -/

/-- An entry of a tile's store that holds the first bytes of a line. -/
def entryL (line : Nat) : Coalesced := ⟨0, 0, 1, line, [(0, 1), (1, 2), (2, 3), (3, 4)], some 1⟩

theorem witness_NarrowPort :
    (narrowOk 0 1 1572860 4 = true ∧ narrowOk 0 1 1572864 4 = false ∧ narrowOk 0 1 2 4 = false ∧ narrowOk 0 0 0 1 = false ∧
      narrowOk 13 3 262143 1 = true ∧ accessBytes 2 = 4 ∧ accessBytes 0 = 1) ∧
    (∀ n ∈ [15, 16], ((List.range n).map entryL).length = n ∧ ((List.range n).map entryL).all fun x => x.at_ 0 0 1 x.line) ∧
    (∀ n ∈ [4, 5], ((List.range n).all fun i => (entryL 0).bytes.any fun y => y.1 == 0 + i) = decide (n = 4)) ∧
    ([entryL 3].find? fun x => x.at_ 0 0 1 3) = some (entryL 3) ∧ ([entryL 3].find? fun x => x.at_ 0 0 1 4) = none := by decide +kernel

/-- The 60 endpoint bits of a word of tile 0's space 1, and of byte off of a bound object. -/
def tileE (word : Nat) : Nat := packBits [(1, 4), (word, 11)]
def objE (slot off : Nat) : Nat := packBits [(slot, 0), (off, 8)]

/-- A move of 128 bytes in beat 0. -/
def recM (srcKind src dstKind dst : Nat) (compress : Bool) (budget : Nat) (bytes : Nat := 128) : MoveRec :=
  BitVec.ofNat 256 (packBits [(1, 32), (srcKind, 64), (src, 68), (dstKind, 128), (dst, 132), (bytes, 192), (Bits.ofBool compress, 224), (budget, 240)])

/-- A record of each kind, which the loader lets pass. -/
def recOf : MoveKind → MoveRec
  | .plain => recM 1 (tileE 0) 3 (objE 0 0) false 0
  | .compressing => recM 1 (tileE 0) 3 (objE 0 0) true 1
  | .coded => recM 1 (tileE 0) 3 (objE 0 0) false 1
  | .page => recM 4 0 1 (tileE 0) false 0
  | .couch => recM 1 (tileE 0) 5 0 false 0
  | .peer => recM 1 (tileE 0) 6 (objE 0 0) false 0

/-- A record of each kind that reads an object which is not bound. -/
def recBad : MoveKind → MoveRec
  | .plain => recM 3 (objE 9 5) 1 (tileE 0) false 0
  | .compressing => recM 3 (objE 9 5) 1 (tileE 0) true 1
  | .coded => recM 3 (objE 9 5) 1 (tileE 0) false 1
  | .page => recM 3 (objE 9 5) 4 0 false 0
  | .couch => recM 3 (objE 9 5) 5 0 false 0
  | .peer => recM 3 (objE 9 5) 6 (objE 0 0) false 0

/-- A group of one member. -/
def soloG : Group := { id := 1, index := 0, count := 1, lockstep := true, state := 2, members := [(2, 0)] }

/-- The run that moves, with object 0 bound. -/
def runM : Run := { runB with objs := [65536], slots := [slotA] }

/-- The device with a move in progress, its record first in cluster 0. -/
def moveS (m : MoveRec) : State :=
  { (withPtn fun _ => { runningA with run := some runM, group := some soloG }) with images := [{ imgA 0 with moves := [(0, [m])] }], seqs := [seqK] }

/-- The kinds. -/
def kinds : List MoveKind := [.plain, .compressing, .coded, .page, .couch, .peer]

/-- The transaction move of a record. -/
def mvA (m : MoveRec) (next : Nat) (out : List (Nat × Nat)) : Move :=
  { id := 3, cluster := 0, ctx := 1, ptn := 0, record := m, index := 0, bytes := 128, next := next, outstanding := out }

/-- The device with it. -/
def txnS (m : MoveRec) (next : Nat) (out : List (Nat × Nat)) (bad : List Nat) : State :=
  { moveS m with moves := [mvA m next out], poison := bad }

theorem witness_HeadboxMoves :
    (∀ k ∈ kinds, ((moveS (recOf k)).nextMove 0).map (fun y => (y.1, y.2.2.2.1, y.2.2.2.2)) = some (0, recOf k, 0) ∧ moveKind (recOf k) = k ∧
      ((moveS (recOf k)).forbids 0 0 runM (recOf k) ((Mv.source (recOf k)).getD (.layer 0 0)) ((Mv.dest (recOf k)).getD (.layer 0 0))) = none ∧
      ((moveS (recOf k)).codedLength 0 runM ((Mv.source (recOf k)).getD (.layer 0 0))).2 = none ∧
      (Mv.source (recOf k)).isSome ∧ (Mv.dest (recOf k)).isSome ∧ Mv.bytes (recOf k) = 128) ∧
    (∀ k ∈ kinds, ((moveS (recBad k)).nextMove 0).map (fun y => (y.1, y.2.2.2.1, y.2.2.2.2)) = some (0, recBad k, 0) ∧ moveKind (recBad k) = k ∧
      ((moveS (recBad k)).forbids 0 0 runM (recBad k) ((Mv.source (recBad k)).getD (.layer 0 0)) ((Mv.dest (recBad k)).getD (.layer 0 0))) = some 5 ∧
      (Mv.source (recBad k)).isSome ∧ (Mv.dest (recBad k)).isSome) ∧
    (Mv.bytes (recM 1 0 1 0 false 0 0) = 0 ∧ s0.nextMove 0 = none) ∧
    (let m := recOf .plain; let s := txnS m 0 [] [];
      s.move? 0 3 = some (mvA m 0 []) ∧ s.gated (mvA m 0 []) = false ∧ s.halted (mvA m 0 []) = false ∧ 128 * (mvA m 0 []).next < (mvA m 0 []).bytes ∧ s.outstanding 0 < 8192 ∧
      (mvA m 1 []).bytes ≤ 128 * (mvA m 1 []).next) ∧
    (let m := recM 3 (objE 0 0) 1 (tileE 0) false 0; let mv := mvA m 1 [(0, 0)];
      tier1Lines ((txnS m 1 [(0, 0)] []).chunkSpots mv 0).1 ≠ [] ∧
      (let w := recOf .plain; let s := txnS w 1 [(0, 0)] []; let mw := mvA w 1 [(0, 0)];
        s.move? 0 3 = some mw ∧ tier1Lines (s.chunkSpots mw 0).1 = [] ∧ tier1Lines (s.chunkSpots mw 0).2 ≠ [] ∧
        (s.modMove 3 fun _ => { mw with outstanding := [] }).spotPoison (s.chunkSpots mw 0).1 = none) ∧
      (∀ bad ∈ [[], [100 * 1024]], let s := txnS m 1 [(0, 0)] bad;
        s.move? 0 3 = some mv ∧ (mv.outstanding.any fun x => x.1 == 0) = true ∧ (mv.outstanding.any fun x => x.1 == 1) = false ∧
        (((s.modMove 3 fun _ => { mv with outstanding := [] }).meetsLines (tier1Lines (s.chunkSpots mv 0).1) true .clean).spotPoison
          (s.chunkSpots mv 0).1).isSome = !bad.isEmpty)) := by
  refine ⟨by decide +kernel, by decide +kernel, ⟨by decide +kernel, rfl⟩, by decide +kernel, by decide +kernel⟩

theorem witness_HeadboxMoves_queue :
    (∀ k ∈ kinds, (moveS (recOf k)).moveLength 0 0 runM (recOf k) ((Mv.source (recOf k)).getD (.layer 0 0)) ((Mv.dest (recOf k)).getD (.layer 0 0)) =
      if k = .coded then 0 else 128) ∧
    (let s : State := { moveS (recOf .plain) with objs := [{ objA with broken := some 7 }] };
      ([Endpoint.tile 0 1 1 0, .object 0 0].filterMap fun e => (s.endObj runM e).bind (·.broken)) = [7]) ∧
    (let m := recM 3 (objE 0 0) 1 (tileE 0) false 1; let s : State := { moveS m with poison := [100 * 1024] };
      isCodedCopy m = true ∧ moveKind m = .coded ∧ Mv.source m = some (.object 0 0) ∧
        (s.codedLength 0 runM (.object 0 0)).2 = some (1, 0, 100 * 65536)) := by decide +kernel

theorem witness_HeadboxMoves_halted :
    (let m := recOf .plain; let mv := mvA m 0 [(0, 0)];
      let s := (txnS m 0 [(0, 0)] []).modPtn 0 fun x => { x with status := .resetting, reset := some { since := 0, number := 4 } };
      s.move? 0 3 = some mv ∧ s.halted mv = true ∧ s.gated mv = false) ∧
    (let m := recOf .plain; let mv := mvA m 0 [(0, 0)];
      let s := (txnS m 0 [(0, 0)] []).modPtn 0 fun x => { x with beat := { x.beat with closed := true }, holds := { wave := true } };
      s.move? 0 3 = some mv ∧ s.gated mv = true) := by decide +kernel

theorem witness_HeadboxMoves_full : 8192 ≤ (txnS (recOf .plain) 0 (List.replicate 8192 (0, 0)) []).outstanding 0 := by
  have h : ∀ out, (txnS (recOf .plain) 0 out []).outstanding 0 = 0 + out.length := fun _ => rfl
  rw [h, List.length_replicate]

/-! ### Observation -/

/-- Partition 0 with a run of context 1 in progress. -/
def runningO : State := withPtn fun x => { x with run := some runB }

theorem witness_Observation :
    can (.watchSet cq watchA) cq s0 (fun s => s.targetStatus 1 watchA = stOk ∧ s.running 1 = false) ∧
    can (.watchSet cq { watchA with base := 0 }) cq s0 (fun s => s.targetStatus 1 { watchA with base := 0 } ≠ stOk) ∧
    (∀ m ∈ ([0, 1] : List (BitVec 16)), can (.watchClear cq m) cq s0 (fun s => s.running 1 = false)) ∧
    can (.watchRead cq 15 4096) cq s0 (fun s => (s.ctx? 1).isSome) ∧
    can (.watchTrace cq 65536 0 0) cq s0 (fun _ => True) ∧
    can (.watchTrace cq 65536 0 64) cq s0 (fun s => s.live.traceAllow = true ∧ s.ptn? 0 = some ptnA ∧ ptnA.live.traceEn = true ∧
      s.obj? 1 65536 = some objA ∧ objA.desc.kind ≠ kindWeights ∧ (0 : BitVec 42).toNat + 64 ≤ objA.size) ∧
    can (.watchTrace cq 65536 0 64) cq { s0 with live := { DevRegs.reset with obs := 0 } } (fun s => s.live.traceAllow = false) ∧
    can (.watchTrace cq 65536 0 64) cq (withPtn fun x => { x with live := { x.live with obs := 0 } }) (fun s =>
      ∀ p, s.ptn? 0 = some p → p.live.traceEn = false) ∧
    can (.ctrRead cq 0 4096) cq s0 (fun s => (s.ctx? 1).isSome ∧ s.ptn? 0 = some ptnA) ∧
    can (.ctrRead cq 1 4096) cq s0 (fun s => (s.ctx? 1).isSome ∧ s.ptn? 0 = some ptnA ∧ isMgmt 1 = false) ∧
    can (.ctrRead mq 1 4096) mq s0 (fun s => (s.ctx? 0).isSome ∧ s.ptn? 0 = some ptnA ∧ isMgmt 0 = true) ∧
    can (.watchSet cq watchA) cq runningO (fun s => s.targetStatus 1 watchA = stOk ∧ s.running 1 = true) ∧
    can (.ctrClear cq) cq { s0 with accepted := [] } (fun _ => True) ∧
    (let q : Req := { cq with counters := true, idx := 1 };
      let s : State := { s0 with accepted := [{ q := cq, cmd := .ctrClear cq, since := 0 }, { q := q, cmd := .syncWait q 3 10, since := 0, started := true }] };
      ((s.start cq).accepted.any fun a => a.q.ring == cq.ring && a.q != cq && a.started && a.q.counters) = true) ∧
    can (.ctrClear cq) cq s0 (fun s => ((s.start cq).accepted.any fun a => a.q.ring == cq.ring && a.q != cq && a.started && a.q.counters) = false) :=
  ⟨⟨runs rfl, rfl, rfl⟩, ⟨runs rfl, by decide⟩, fun _ _ => ⟨runs rfl, rfl⟩, ⟨runs rfl, rfl⟩, ⟨runs rfl, trivial⟩,
    ⟨runs rfl, rfl, rfl, rfl, rfl, by decide, by decide⟩, ⟨runs rfl, rfl⟩, ⟨runs rfl, fun p h => by cases h; rfl⟩, ⟨runs rfl, rfl, rfl⟩,
    ⟨runs rfl, rfl, rfl, by decide⟩,
    ⟨runs rfl, rfl, rfl, by decide⟩, ⟨runs rfl, rfl, by decide⟩, ⟨runs rfl, trivial⟩, by decide, ⟨runs rfl, rfl⟩⟩

/-! ### The stated rules -/

theorem witness_KvCommits :
    (∀ a ∈ ([0, 2, 3] : List (BitVec 5)), Runnable (.kvCommit cq noA a) cq (asked (.kvCommit cq noA a) cq (seqS 4 2))) ∧
    (seqS 4 2).seq? noA = some (seqA 4 2) ∧ (seqA 4 2).ctx = 1 ∧ (seqA 4 2).state = .opened ∧ ((seqS 4 2).start cq).seqBound (seqA 4 2) = false ∧
    (seqA 4 2).incomplete = false ∧ (2 : BitVec 5).toNat ≤ (seqA 4 2).d ∧ (seqA 4 2).d < (3 : BitVec 5).toNat :=
  ⟨fun _ _ => runs rfl, rfl, rfl, rfl, rfl, rfl, by decide, by decide⟩

/-- Partition 0 with its staged slots. -/
def slotsA (n : Nat) : Partition := { ptnA with staged := { ptnA.staged with fab := BitVec.ofNat 64 (0x100 + n) } }

theorem witness_FabricSlots :
    can (.devCommit hq 4) hq { s0 with staged := { DevRegs.reset with fab := 0x21100 } } (fun s => (4 : BitVec 8).toNat.testBit 2 = true ∧
      ((List.range 8).map fun r => ((s.ptn? r).map fun y => y.amended.slots).getD 6).sum + s.staged.transitSlots = 65) ∧
    (∀ n ∈ [6, 7], can (.ptnCommit hq 64 0) hq (withPtn fun _ => slotsA n) (fun s => s.named hq 0 = some 0 ∧ s.ptn? 0 = some (slotsA n) ∧
      hostOnly hq (slotsA n) = false ∧ (64 : BitVec 8).toNat.testBit 6 = true ∧
      ((List.range 8).map fun r => if r = 0 then (slotsA n).staged.slots else
        ((s.ptn? r).map fun y => y.amended.slots).getD 6).sum + s.live.transitSlots = 58 + n)) := by
  refine ⟨⟨runs rfl, by decide, by decide +kernel⟩, fun n hn => ?_⟩
  simp only [List.mem_cons, List.not_mem_nil, or_false] at hn
  obtain rfl | rfl := hn <;> exact ⟨runs rfl, rfl, rfl, rfl, by decide, by decide +kernel⟩

/-! ### Worked examples of the spec -/

/-- The integer correction (02 R60): 134, zero points 2 and -3, row sum 10, column sum 14, K 4 give 112. -/
theorem test_zero_point : zeroPointCorrect 134 (-3) 10 2 14 4 = (112, 0) := by decide

/-- 131,072 products of 2^14 saturate, 131,071 do not (02 R54): the last two additions. -/
theorem test_int32_saturates : int32Add (131070 * 16384, 0) 16384 = (131071 * 16384, 0) ∧
    int32Add (131071 * 16384, 0) 16384 = (2147483647, 1) := by decide

/-- 1.3 rounds stochastically to 1.375 below the draw 26,214, else to 1.25 (02, the example of E4M3). -/
theorem test_stochastic_e4m3 :
    FVal.encodeStochastic .e4m3 26213 (F32.val 0x3FA66666) = 0x3B ∧ FVal.encodeStochastic .e4m3 26214 (F32.val 0x3FA66666) = 0x3A := by
  decide +kernel

/-- The toy row of 04: rsqrt(17), and 3 and 5 times it in E4M3 are 0.75 and 1.25. -/
theorem test_toy_row : let r := F32.rsqrt (F32.ofInt 17)
    FVal.encode .e4m3 (F32.mul (F32.ofInt 3) r).val = 0x34 ∧ FVal.encode .e4m3 (F32.mul (F32.ofInt 5) r).val = 0x3A ∧
      FVal.encode .bf16 (F32.mul (F32.ofInt 8) r).val = 0x3FF8 := by decide +kernel

/-- Offset 10 GiB + 0x1280 of cluster 4 (08): stack 4, global channel 145, pseudo-channel 1, rank 1, line 174,763: bank 11, column
block 2, row 1,365. -/
theorem test_locate : locate 4 10737422976 = ⟨4, 145, 1, 1, 174763, 11, 2, 1365⟩ := by decide

/-- 54 layers of 11 heads in format 5 (09 R205): 512, 1,024 and 2,048 positions a page and a limit of 3,615,232. -/
theorem test_kv_limit :
    let x : SeqShape := { kvFmt := 5, hd := 7, layers := 54, heads := 11, layout := false, shardLog2 := 0, memberLog2 := 0, rank := 0 }
    x.lanes = 594 ∧ x.perPage 0 = 512 ∧ x.perPage 1 = 1024 ∧ x.perPage 2 = 2048 ∧ x.limit = 3615232 := by decide +kernel

/-- The footprint of a coded group of 64 KiB (06) is 65,792 bytes; entry 524,287 lies in the 33rd log page (09). -/
theorem test_footprint : footprint 65536 = 65792 ∧ logPage 524287 = logLane + 32 := by decide +kernel

/-- A grant's field identifier (12 R314): partition 0's grant_w is 0x11000600. -/
theorem test_field_id : fieldId (PReg.srv.offset 0) 16 = 0x11000600 := by decide

/-- The image with 160 beats. -/
def longA : Image := { imgA 0 with header := BitVec.ofNat 512 (packBits [(0x53437160, 0), (1, 32), (160, 96)]) }

/-- A digest watch of 48 KiB extends every beat of its run by 832 cycles (20 R490). -/
theorem test_extension :
    let a : WatchArgs := { watchA with tileTarget := true, digest := true, fmt := 0, base := 0, bytes := 0, tileBytes := 49152, space := 1, beat := 159 }
    ({ s0 with images := [longA] }.modCtx 1 fun x => { x with watches := x.watches.set 0 { args := some a, result := 0 } }).extension { runB with q := { cq with watch := true } } = 832 := by
  decide +kernel

/-- Partitions are aligned blocks of 1, 2, 4 or 8 clusters (01 R20): the pair {1, 2} is none. -/
theorem test_clusters : clustersOf 0x30 = some (4, 2) ∧ clustersOf 0x06 = none ∧ clustersOf 0x0F = some (0, 4) ∧ clustersOf 0x70 = none := by decide

/-- KV.COMMIT of 3 tokens of sequence 0x100005, bit by bit (12 Tables CMD.3 and CMD.8, 09): opcode 0x49, notify, tag 7. -/
theorem test_packet : Packet.decode (.ctx 1) 0 (0x49 + 2 ^ 13 + 7 * 2 ^ 32 + 0x100005 * 2 ^ 128 + 3 * 2 ^ 160) =
    some (.kvCommit { cq with notify := true } 0x100005 3) := by decide +kernel

/-- A reserved header bit is refused by the decoder; the table gives no row any bits. -/
theorem test_packet_reserved : Packet.decode (.ctx 1) 0 (0x49 + 2 ^ 30) = none ∧ decodeTableWord 32 0x49 = none := by decide +kernel

end Sys2Proof.Tests
end

section
/-! SUPPORT and the settlement of O59 (09 R230): a command on an open sequence that no run binds, what accepting drafts
leaves of the directory, and KV.COMMIT. -/

namespace Sys2Proof.Machine

/-! ### Looking up a sequence -/

@[simp] theorem seq?_start (s : State) (q : Req) (no : BitVec 32) : (s.start q).seq? no = s.seq? no := rfl

/-- The lookup of a sequence reads the directory alone. -/
theorem seq?_congr {s t : State} (h : t.seqs = s.seqs) (no : BitVec 32) : t.seq? no = s.seq? no := by
  simp only [State.seq?, h]

/-- A change that keeps a sequence's index and generation is what its number names afterwards. -/
theorem seq?_modSeq_self {s : State} {no : BitVec 32} {x : Seq} {f : Seq → Seq} (hx : s.seq? no = some x)
    (hi : ∀ y, (f y).index = y.index) (hg : ∀ y, (f y).gen = y.gen) :
    (s.modSeq x.index f).seq? no = some (f x) := by
  have hfind : s.seqs.find? (fun y => y.index == no.toNat % 1048576 && y.gen.toNat == no.toNat / 1048576) = some x := hx
  simp [State.seq?, State.modSeq, Lists.modifyIf, List.find?_map, apply_ite Seq.index, apply_ite Seq.gen, hi,
    hg, hfind]

/-- A change of one sequence leaves every sequence of another index in the directory. -/
theorem mem_modSeq_of_ne {s : State} {i : Nat} {f : Seq → Seq} {z : Seq} (hz : z ∈ s.seqs) (hi : z.index ≠ i) :
    z ∈ (s.modSeq i f).seqs :=
  List.mem_map.mpr ⟨z, hz, by simp [hi]⟩

/-! ### A command on an open sequence -/

/-- An open sequence of the context is not refused to it (09 R201, R228). -/
theorem seqRefuses_opened {s : State} {c : CtxNo} {no : BitVec 32} {x : Seq} (hx : s.seq? no = some x) (hc : x.ctx = c)
    (ho : x.state = .opened) : s.seqRefuses c no = none := by
  simp [State.seqRefuses, hx, hc, ho]

/-- A command on an open sequence of its context that no run binds acts on that sequence. -/
theorem withIdleSeq_opened {q : Req} {no : BitVec 32} {s : State} {c : CtxNo} {x : Seq} (f : CtxNo → Seq → Ran)
    (hq : q.ring = .ctx c) (hx : s.seq? no = some x) (hc : x.ctx = c) (ho : x.state = .opened)
    (hb : s.seqBound x = false) : withIdleSeq q no s f = f c x := by
  simp [withIdleSeq, withSeq, withCtx, ctxOf, hq, seqRefuses_opened hx hc ho, hx, hb]

/-! ### Accepting drafts -/

/-- Laying out recompute chunks changes partitions, not the directory (09 R226). -/
@[simp] theorem queueRecompute_seqs (s : State) (i : Nat) : (s.queueRecompute i).seqs = s.seqs := by
  unfold State.queueRecompute
  split
  · rfl
  · refine List.foldlRecOn (motive := fun t : State => t.seqs = s.seqs) _ _ (State.modPtn_seqs ..) fun t ht j _ => ?_
    dsimp only
    split
    · rw [State.modPtn_seqs, ht]
    · exact ht

/-- Accepting drafts of a sequence changes the directory as the change of its entry does. -/
theorem commitDrafts_seqs (s : State) (x : Seq) (a : Nat) :
    (s.commitDrafts x a).seqs = (s.modSeq x.index fun y => y.commitDrafts a).seqs := by
  unfold State.commitDrafts
  split
  · exact queueRecompute_seqs ..
  · rfl

/-- Where no page is dropped, accepting drafts changes the directory alone. -/
theorem commitDrafts_of_complete {s : State} {x : Seq} (a : Nat) (h : x.incomplete = false) :
    s.commitDrafts x a = { s with seqs := (s.commitDrafts x a).seqs } := by
  simp [State.commitDrafts, h, State.modSeq]

/-- The sequence that a number names holds its accepted drafts afterwards. -/
theorem seq?_commitDrafts_self {s : State} {no : BitVec 32} {x : Seq} (a : Nat) (hx : s.seq? no = some x) :
    (s.commitDrafts x a).seq? no = some (x.commitDrafts a) := by
  rw [seq?_congr (commitDrafts_seqs s x a)]
  exact seq?_modSeq_self hx (fun _ => rfl) fun _ => rfl

/-- Accepting drafts of one sequence leaves every sequence of another index in the directory. -/
theorem mem_commitDrafts_of_ne {s : State} {x z : Seq} (a : Nat) (hz : z ∈ s.seqs) (hi : z.index ≠ x.index) :
    z ∈ (s.commitDrafts x a).seqs := by
  rw [commitDrafts_seqs]
  exact mem_modSeq_of_ne hz hi

theorem commitDrafts_pages_length (x : Seq) (a : Nat) : (x.commitDrafts a).pages.length = x.pages.length :=
  List.length_map ..

/-- Page by page: a page whose first position lies below the new c is no longer tentative, any other stays as it was. -/
theorem commitDrafts_page {x : Seq} {i : Nat} {g h : Page} (a : Nat) (hg : x.pages[i]? = some g)
    (hh : (x.commitDrafts a).pages[i]? = some h) :
    h = if x.shape.first g.no < x.c + a then { g with tentative := false } else g := by
  simpa [Seq.commitDrafts, hg] using hh.symm

/-! ### The row of KV.COMMIT -/

theorem exec_kvCommit (q : Req) (no : BitVec 32) (a : BitVec 5) (s : State) :
    exec (.kvCommit q no a) s = .next (runCommand (.kvCommit q no a) s (kvCommitBody no a)) := rfl

theorem kvCommitBody_zero (no : BitVec 32) (s : State) (q : Req) : kvCommitBody no 0 s q = .status s stOkEmpty := rfl

/-- A count other than 0 on an open, unbound sequence is held against d. -/
theorem kvCommitBody_opened {no : BitVec 32} {a : BitVec 5} {s : State} {q : Req} {c : CtxNo} {x : Seq} (ha : a ≠ 0)
    (hq : q.ring = .ctx c) (hx : s.seq? no = some x) (hc : x.ctx = c) (ho : x.state = .opened)
    (hb : s.seqBound x = false) :
    kvCommitBody no a s q =
      if x.d < a.toNat then .status s stBadField else .status (s.commitDrafts x a.toNat) stOk := by
  rw [kvCommitBody, if_neg ha, withIdleSeq_opened _ hq hx hc ho hb]

/-- Settles O59: the row's body is `Seq.commitDrafts` on the entry that the number names, and the recompute chunks laid
out after it leave the directory alone. -/
theorem kvCommits : Obligations.KvCommits := by
  unfold Obligations.KvCommits
  intro s q no a hr
  refine ⟨?_, fun c x ha hq hx hc ho hb => ?_⟩
  · rintro rfl
    rw [exec_kvCommit, runCommand_done hr (kvCommitBody_zero no _ q)]
  · have hbody := kvCommitBody_opened ha hq ((seq?_start s q no).trans hx) hc ho hb
    refine ⟨fun hd => ?_, fun hd => ?_⟩
    · rw [if_pos hd] at hbody
      rw [exec_kvCommit, runCommand_done hr hbody]
    · rw [if_neg (Nat.not_lt.mpr hd)] at hbody
      refine ⟨(s.start q).commitDrafts x a.toNat, x.commitDrafts a.toNat, ?_, commitDrafts_of_complete _,
        seq?_commitDrafts_self _ hx, rfl, rfl, rfl, commitDrafts_pages_length .., fun i g h hg hh => ?_,
        fun z hz => mem_commitDrafts_of_ne _ hz⟩
      · rw [exec_kvCommit, runCommand_done hr hbody]
      · obtain rfl := commitDrafts_page _ hg hh
        show _ ∧ _ ∧ (_ < x.c + a.toNat → _) ∧ (x.c + a.toNat ≤ _ → _)
        by_cases hlt : x.shape.first g.no < x.c + a.toNat <;> simp [hlt]

end Sys2Proof.Machine
end

section
/-! SUPPORT and the settlement of O60 (13 R336): the sum of slots, how a commit is refused at the first field that fails
(12 R314), and the two commits whose field of the slots fails. -/

namespace Sys2Proof.Machine

/-! ### The first conflict -/

/-- Where a field fails, one that fails is named. -/
theorem firstConflict_of_fails {cs : List (Nat × Bool)} {e : Nat} (h : (e, false) ∈ cs) :
    ∃ f, firstConflict cs = some f ∧ (f, false) ∈ cs := by
  have hne : (cs.filter fun c => !c.2).map (·.1) ≠ [] :=
    List.ne_nil_of_mem (List.mem_map.mpr ⟨_, List.mem_filter.mpr ⟨h, rfl⟩, rfl⟩)
  obtain ⟨f, hf⟩ := Option.ne_none_iff_exists'.mp (mt List.min?_eq_none_iff.mp hne)
  obtain ⟨⟨_, b⟩, hc, rfl⟩ := List.mem_map.mp (List.min?_mem hf)
  obtain ⟨hc, hb⟩ := List.mem_filter.mp hc
  obtain rfl : b = false := by simpa using hb
  exact ⟨_, hf, hc⟩

/-- A partition's commit with a conflict is refused (12 R314): its commit status alone changes. -/
theorem commitPtn_conflict {s : State} {p sel f : Nat} {x : Partition} (cmd : Option Req) (hx : s.ptn? p = some x)
    (hsel : sel ≠ 0) (hf : firstConflict (s.ptnChecks p x sel) = some f) :
    s.commitPtn p sel cmd =
      (s.modPtn p fun y => { y with commitStat := y.commitStat.next 3 stConflict f }, some (stConflict, f)) := by
  simp only [State.commitPtn, hx, if_neg hsel, hf]

/-- A device-scope commit with a conflict is refused (12 R314), and the cap in force does not move: the commit status
alone changes. -/
theorem commitDevice_conflict {s : State} {regs : List DReg} {f : Nat} (hr : regs ≠ [])
    (hf : firstConflict (s.devChecks regs) = some f) :
    s.commitDevice regs = ({ s with devCommit := s.devCommit.next 3 stConflict f }, stConflict, f) := by
  have hdev : s.commitDev regs = ({ s with devCommit := s.devCommit.next 3 stConflict f }, stConflict, f) := by
    simp only [State.commitDev, List.isEmpty_eq_false_iff.mpr hr, hf, Bool.false_eq_true, if_false]
  rw [State.commitDevice, hdev]
  exact Prod.ext (if_pos rfl) rfl

/-! ### A partition after a change, and the checks of a started command -/

theorem ptn?_modPtn_self {s : State} {p : Nat} {x : Partition} (g : Partition → Partition) (hp : p < 8)
    (hx : s.ptn? p = some x) : (s.modPtn p g).ptn? p = some (g x) := by
  rw [State.modPtn, hx]
  simp [State.ptn?, State.setPtn, hp]

@[simp] theorem devChecks_start (s : State) (q : Req) (regs : List DReg) :
    (s.start q).devChecks regs = s.devChecks regs := rfl

@[simp] theorem sumSlots_start (s : State) (q : Req) (p : Nat) (r : Option PtnRegs) :
    (s.start q).sumSlots p r = s.sumSlots p r := rfl

/-! ### The slots -/

/-- The sum runs over the eight partitions: a partition's own slots, those of the given registers for partition p, and 6
where none exists. -/
theorem sumSlots_eq_sum (s : State) (p : Nat) (r : Option PtnRegs) :
    s.sumSlots p r = ((List.range 8).map fun k =>
      ((s.ptn? k).map fun y => if k = p then (r.getD y.amended).slots else y.amended.slots).getD 6).sum := by
  rw [List.sum_eq_foldl, List.foldl_map, State.sumSlots]
  congr 1
  funext n k
  cases s.ptn? k <;> rfl

/-- The device's checks sum what every partition holds. -/
theorem sumSlots_eight (s : State) :
    s.sumSlots 8 none = ((List.range 8).map fun k => ((s.ptn? k).map fun y => y.amended.slots).getD 6).sum := by
  simp only [sumSlots_eq_sum, Option.getD_none, ite_self]

/-- The checks of an existing partition sum its new slots and what every other partition holds. -/
theorem sumSlots_of_ptn {s : State} {p : Nat} {x : Partition} (r : PtnRegs) (hx : s.ptn? p = some x) :
    s.sumSlots p (some r) = ((List.range 8).map fun k =>
      if k = p then r.slots else ((s.ptn? k).map fun y => y.amended.slots).getD 6).sum := by
  rw [sumSlots_eq_sum]
  congr 2
  funext k
  by_cases hk : k = p <;> simp [hk, hx]

/-- A register read after a write of another or of the same. -/
theorem PReg.get_put (k j : PReg) (v : BitVec 64) (r : PtnRegs) :
    k.get (j.put v r) = if j = k then v else k.get r := by
  cases j <;> cases k <;> rfl

/-- Selected copies written one after another: each register reads the source where its block is selected. -/
theorem PReg.get_foldl_put (k : PReg) (sel : Nat) (src r : PtnRegs) (ks : List PReg) :
    k.get (ks.foldl (fun r j => if sel.testBit j.sel then j.put (j.get src) r else r) r) =
      if k ∈ ks ∧ sel.testBit k.sel = true then k.get src else k.get r := by
  induction ks generalizing r with
  | nil => simp
  | cons j js ih =>
    rw [List.foldl_cons, ih]
    by_cases hj : j = k
    · subst hj
      cases hb : sel.testBit j.sel <;> simp [PReg.get_put]
    · have hput : k.get (if sel.testBit j.sel then j.put (j.get src) r else r) = k.get r := by
        split
        · rw [PReg.get_put, if_neg hj]
        · rfl
      rw [hput]
      simp [Ne.symm hj]

/-- A register's snapshot is the staged copy where sel selects its block, the live one otherwise (12 R314). -/
theorem get_snapshot (k : PReg) (x : Partition) (sel : Nat) :
    k.get (x.snapshot sel) = if sel.testBit k.sel then k.get x.staged else k.get x.live := by
  have hk : k ∈ PReg.all := by cases k <;> decide
  rw [Partition.snapshot, PReg.get_foldl_put]
  simp only [hk, true_and]

/-- Where sel selects the fabric's block, the snapshot's slots are the staged ones. -/
theorem slots_snapshot {x : Partition} {sel : Nat} (h : sel.testBit 6 = true) :
    (x.snapshot sel).slots = x.staged.slots := by
  have hfab : (x.snapshot sel).fab = x.staged.fab := (get_snapshot .fab x sel).trans (if_pos h)
  rw [PtnRegs.slots, hfab, PtnRegs.slots]

/-! ### The field that fails -/

/-- More than 64 slots fail the field of FAB_CFG's transit slots. -/
theorem transitSlots_fails {s : State} {regs : List DReg} (hr : DReg.fab ∈ regs)
    (h : 64 < s.sumSlots 8 none + s.staged.transitSlots) : (fieldId (6, 0) 8, false) ∈ s.devChecks regs := by
  have hfab : regs.contains .fab = true := List.contains_iff_mem.mpr hr
  unfold State.devChecks
  refine List.mem_append_right _ ?_
  rw [if_pos hfab]
  simp [Nat.not_le.mpr h]

/-- More than 64 slots fail the field of FAB_PTN_p's slots. -/
theorem ptnSlots_fails {s : State} {p sel : Nat} {x : Partition} (hsel : sel.testBit 6 = true)
    (h : 64 < s.sumSlots p (some (x.snapshot sel)) + s.live.transitSlots) :
    (fieldId (PReg.fab.offset p) 0, false) ∈ s.ptnChecks p x sel := by
  unfold State.ptnChecks
  refine List.mem_append_right _ ?_
  rw [if_pos hsel]
  simp [Nat.not_le.mpr h]

/-- Bit 2 of sel selects FAB_CFG (21 Table MAP.4). -/
theorem fab_mem_chosen {sel : Nat} (h : sel.testBit 2 = true) : DReg.fab ∈ DReg.chosen sel :=
  List.mem_filter.mpr ⟨by decide, h⟩

/-! ### The rows of DEV.COMMIT and PTN.COMMIT -/

theorem exec_devCommit (q : Req) (sel : BitVec 8) (s : State) :
    exec (.devCommit q sel) s = .next (runCommand (.devCommit q sel) s (devCommitBody sel)) := rfl

theorem exec_ptnCommit (q : Req) (sel : BitVec 8) (p : BitVec 3) (s : State) :
    exec (.ptnCommit q sel p) s = .next (runCommand (.ptnCommit q sel p) s (ptnCommitBody sel p)) := rfl

/-- DEV.COMMIT whose first conflict is the field f is refused with it. -/
theorem devCommitBody_conflict {s : State} {sel : BitVec 8} {f : Nat} (q : Req) (hr : DReg.chosen sel.toNat ≠ [])
    (hf : firstConflict (s.devChecks (DReg.chosen sel.toNat)) = some f) :
    devCommitBody sel s q = .done { s with devCommit := s.devCommit.next 3 stConflict f } stConflict f 0 := by
  rw [devCommitBody, commitDevice_conflict hr hf]

/-- A body about a partition that its issuer may name acts on it. -/
theorem withPtn_named {q : Req} {p : BitVec 3} {s : State} {n : Nat} {x : Partition} (g : Nat → Partition → Ran)
    (hn : s.named q p = some n) (hx : s.ptn? n = some x) : withPtn q p s g = g n x := by
  simp only [withPtn, hn, hx]

/-- PTN.COMMIT that host_only lets through, and whose first conflict is the field f, is refused with it. -/
theorem ptnCommitBody_conflict {s : State} {q : Req} {sel : BitVec 8} {p : BitVec 3} {n f : Nat} {x : Partition}
    (hn : s.named q p = some n) (hx : s.ptn? n = some x) (ho : hostOnly q x = false) (hsel : sel.toNat ≠ 0)
    (hf : firstConflict (s.ptnChecks n x sel.toNat) = some f) :
    ptnCommitBody sel p s q =
      .done (s.modPtn n fun y => { y with commitStat := y.commitStat.next 3 stConflict f }) stConflict f 0 := by
  rw [ptnCommitBody, withPtn_named _ hn hx, ho, commitPtn_conflict _ hx hsel hf]
  rfl

/-- A device-scope commit that selects FAB_CFG with more than 64 slots. -/
theorem devCommit_refused_of_slots {s : State} {q : Req} {sel : BitVec 8} (hrun : Runnable (.devCommit q sel) q s)
    (hsel : sel.toNat.testBit 2 = true) (hsum : 64 < s.sumSlots 8 none + s.staged.transitSlots) :
    ∃ f, exec (.devCommit q sel) s =
        .next (({ s.start q with devCommit := s.devCommit.next 3 stConflict f } : State).finish q stConflict f 0) ∧
      (f, false) ∈ s.devChecks (DReg.chosen sel.toNat) := by
  have hfab := fab_mem_chosen hsel
  obtain ⟨f, hf, hmem⟩ := firstConflict_of_fails (transitSlots_fails hfab hsum)
  refine ⟨f, ?_, hmem⟩
  rw [← devChecks_start s q] at hf
  rw [exec_devCommit, runCommand_done hrun (devCommitBody_conflict q (List.ne_nil_of_mem hfab) hf), State.start_devCommit]

/-- A commit that selects FAB_PTN_p with more than 64 slots. -/
theorem ptnCommit_refused_of_slots {s : State} {q : Req} {sel : BitVec 8} {p : BitVec 3} {n : Nat} {x : Partition}
    (hrun : Runnable (.ptnCommit q sel p) q s) (hn : s.named q p = some n) (hx : s.ptn? n = some x)
    (ho : hostOnly q x = false) (hsel : sel.toNat.testBit 6 = true)
    (hsum : 64 < s.sumSlots n (some (x.snapshot sel.toNat)) + s.live.transitSlots) :
    ∃ f, exec (.ptnCommit q sel p) s = .next (((s.start q).modPtn n fun y =>
        { y with commitStat := y.commitStat.next 3 stConflict f }).finish q stConflict f 0) ∧
      (f, false) ∈ (s.start q).ptnChecks n x sel.toNat := by
  rw [← sumSlots_start s q, ← State.start_live s q] at hsum
  obtain ⟨f, hf, hmem⟩ := firstConflict_of_fails (ptnSlots_fails hsel hsum)
  have hne : sel.toNat ≠ 0 := fun h0 => by simp [h0] at hsel
  refine ⟨f, ?_, hmem⟩
  rw [exec_ptnCommit, runCommand_done hrun (ptnCommitBody_conflict hn hx ho hne hf)]

/-- Settles O60: more than 64 slots fail the field of the slots, so the commit is refused at its first field that
fails, which is that field where no other fails. -/
theorem fabricSlots : Obligations.FabricSlots := by
  unfold Obligations.FabricSlots
  refine ⟨fun s q sel hrun hsel hsum => ?_, fun s q sel p n x hrun hn hn8 hx ho hsel hsum => ?_⟩
  · rw [← sumSlots_eight] at hsum
    obtain ⟨f, hexec, hmem⟩ := devCommit_refused_of_slots hrun hsel hsum
    exact ⟨_, f, hexec, State.start_live s q, rfl, fun honly => honly _ hmem rfl⟩
  · rw [← slots_snapshot hsel, ← sumSlots_of_ptn _ hx] at hsum
    obtain ⟨f, hexec, hmem⟩ := ptnCommit_refused_of_slots hrun hn hx ho hsel hsum
    exact ⟨_, f, hexec, by rw [State.modPtn_live, State.start_live], ptn?_modPtn_self _ hn8 hx, fun honly => honly _ hmem rfl⟩

end Sys2Proof.Machine
end

section
/-! SUPPORT and the settlement of O6 (12 R300, R309): the round trip of every ring command, and no packet for another
row. -/

namespace Sys2Proof.Laws.RoundTrip

open Packet

/-- A ring command's packet reads back as the command; every other row carries no packet header. -/
theorem statement_of_req {i : Instr} {q : Req} (hq : i.req? = some q) : Statement i := by
  cases i with
  | devNop => apply devNop
  | devHello => apply devHello
  | devQuery => apply devQuery
  | devAttest => apply devAttest
  | devCommit => apply devCommit
  | ptnCreate => apply ptnCreate
  | ptnDestroy => apply ptnDestroy
  | ptnBind => apply ptnBind
  | ptnQuery => apply ptnQuery
  | ptnStage => apply ptnStage
  | ptnCommit => apply ptnCommit
  | ctxCreate => apply ctxCreate
  | ctxDestroy => apply ctxDestroy
  | ctxLimit => apply ctxLimit
  | ctxQuery => apply ctxQuery
  | ctxSample => apply ctxSample
  | memWrite => apply memWrite
  | memRead => apply memRead
  | memCopy => apply memCopy
  | memFill => apply memFill
  | objCreate => apply objCreate
  | objFree => apply objFree
  | objPin => apply objPin
  | objUnpin => apply objUnpin
  | objPlace => apply objPlace
  | objQuery => apply objQuery
  | seqOpen => apply seqOpen
  | seqClose => apply seqClose
  | seqQuery => apply seqQuery
  | kvGlobal => apply kvGlobal
  | kvCommit => apply kvCommit
  | kvRollback => apply kvRollback
  | kvDrop => apply kvDrop
  | pfxRegister => apply pfxRegister
  | pfxRelease => apply pfxRelease
  | schedLoad => apply schedLoad
  | schedUnload => apply schedUnload
  | schedRun => apply schedRun
  | schedStepset => apply schedStepset
  | schedStepfree => apply schedStepfree
  | schedStep => apply schedStep
  | wgtStore => apply wgtStore
  | wgtDelete => apply wgtDelete
  | wgtServe => apply wgtServe
  | wgtLoad => apply wgtLoad
  | wgtReader => apply wgtReader
  | wgtSwap => apply wgtSwap
  | wgtQuery => apply wgtQuery
  | wgtFree => apply wgtFree
  | fenceBarrier => apply fenceBarrier
  | syncCreate => apply syncCreate
  | syncSignal => apply syncSignal
  | syncWait => apply syncWait
  | syncFree => apply syncFree
  | syncQuery => apply syncQuery
  | watchSet => apply watchSet
  | watchClear => apply watchClear
  | watchRead => apply watchRead
  | watchTrace => apply watchTrace
  | ctrRead => apply ctrRead
  | ctrClear => apply ctrClear
  | pwrCap => apply pwrCap
  | pwrEnter => apply pwrEnter
  | pwrMode => apply pwrMode
  | pwrQuery => apply pwrQuery
  | fabAnchor => apply fabAnchor
  | fabQuery => apply fabQuery
  | fabGroup => apply fabGroup
  | fabLeave => apply fabLeave
  | fabPut => apply fabPut
  | fabRotate => apply fabRotate
  | fwStage => apply fwStage
  | fwVerify => apply fwVerify
  | fwActivate => apply fwActivate
  | fwQuery => apply fwQuery
  | dbgChallenge => apply dbgChallenge
  | dbgRespond => apply dbgRespond
  | dbgRead => apply dbgRead
  | dbgWrite => apply dbgWrite
  | dbgSample => apply dbgSample
  | dbgUnretire => apply dbgUnretire
  | _ => cases hq

end Sys2Proof.Laws.RoundTrip

namespace Sys2Proof.Machine

/-- Settles O6, from the round trip of each ring command. -/
theorem packetRoundTrip : Obligations.PacketRoundTrip := by
  unfold Obligations.PacketRoundTrip
  exact fun _ q hwf hq => Laws.RoundTrip.statement_of_req hq hwf q hq

end Sys2Proof.Machine
end

section
/-! SUPPORT. The row of a ring command by what its body comes to, for every command at once (12 R306). -/

namespace Sys2Proof.Machine

variable {i : Instr} {q : Req} {s t : State} {body : State → Req → Ran} {st r0 r1 : Nat}

/-- The row of an event is its effect. -/
theorem exec_effect (he : exec i s = .next t) {u : State} (h : t = u) : exec i s = .next u := he.trans (h ▸ rfl)

/-- The row of a runnable command whose body is done completes it. -/
theorem exec_done (he : exec i s = .next (runCommand i s body)) (h : Runnable i q s)
    (hb : body (s.start q) q = .done t st r0 r1) : exec i s = .next (t.finish q st r0 r1) := by
  rw [he, runCommand_done h hb]

/-- The row of a runnable command whose body completes it with a status alone. -/
theorem exec_status (he : exec i s = .next (runCommand i s body)) (h : Runnable i q s)
    (hb : body (s.start q) q = .status t st) : exec i s = .next (t.finish q st 0 0) :=
  exec_done he h hb

/-- The row of a runnable command whose body waits changes nothing yet. -/
theorem exec_waits (he : exec i s = .next (runCommand i s body)) (h : Runnable i q s)
    (hb : body (s.start q) q = .waits) : exec i s = .next s := by
  rw [he, runCommand_waits h hb]

/-- The row of a runnable command whose body goes on leaves the command started. -/
theorem exec_goesOn (he : exec i s = .next (runCommand i s body)) (h : Runnable i q s)
    (hb : body (s.start q) q = .goesOn t) : exec i s = .next t := by
  rw [he, runCommand_goesOn h hb]

/-- The row of a runnable command whose body has begun work may run again. -/
theorem exec_again (he : exec i s = .next (runCommand i s body)) (h : Runnable i q s)
    (hb : body (s.start q) q = .again t) : exec i s = .next (t.resume q) := by
  rw [he, runCommand_again h hb]

end Sys2Proof.Machine
end

section
/-! The settlement of O1, O3 and O8: a step, the device after reset, and the completion of a host ring's command. -/

namespace Sys2Proof.Machine

/-- Settles O1: the step reads its queue from the front. -/
theorem stepRunsFront : Obligations.StepRunsFront := by
  unfold Obligations.StepRunsFront
  intro s c rest h
  rw [step, h]

/-- Settles O3, field by field. -/
theorem resetState : Obligations.ResetState := by
  unfold Obligations.ResetState
  refine ⟨rfl, fun h => ?_, fun p => ?_, rfl, rfl, rfl, rfl, rfl, rfl, rfl, rfl, rfl, by decide⟩
  · simp [State.host, State.reset]
  · by_cases hp : p < 8 <;> simp [State.ptn?, State.reset, hp]

/-! ### The completion of a host ring's command -/

theorem toBytes_length (n v : Nat) : (Bits.toBytes n v).length = n := by
  induction n generalizing v with
  | zero => rfl
  | succ n ih => simp [Bits.toBytes, ih]

/-- A port's side after a change of a port's. -/
theorem host_modHost (s : State) (h g : Fin 2) (f : HostSide → HostSide) :
    (s.modHost g f).host h = if g = h then f (s.host h) else s.host h := by
  by_cases hg : g = h
  · subst hg; simp [State.host]
  · have : (g : Nat) ≠ h := fun e => hg (Fin.ext e)
    simp [State.host, this, hg]

/-- A port's ring pair and its memory are those of the state s. -/
def SameRing (s t : State) (h : Fin 2) : Prop :=
  (t.host h).ring = (s.host h).ring ∧ (t.host h).wardenMem = (s.host h).wardenMem

/-- A change of a port's side that leaves ring and ring memory. -/
theorem sameRing_modHost (s : State) (h g : Fin 2) {f : HostSide → HostSide} (hr : ∀ x, (f x).ring = x.ring)
    (hm : ∀ x, (f x).wardenMem = x.wardenMem) : SameRing s (s.modHost g f) h := by
  unfold SameRing
  rw [host_modHost]
  split <;> simp [hr, hm]

theorem sameRing_writeHost (s : State) (h g : Fin 2) (a : Nat) (bs : List Byte) : SameRing s (s.writeHost g a bs) h := by
  unfold State.writeHost
  split
  · exact sameRing_modHost s h g (fun _ => rfl) fun _ => rfl
  · exact ⟨rfl, rfl⟩

theorem sameRing_interrupt (s : State) (h g : Fin 2) (v : BitVec 16) : SameRing s (s.interrupt g v) h := by
  unfold State.interrupt
  split
  · exact ⟨rfl, rfl⟩
  · split
    · exact sameRing_modHost s h g (fun _ => rfl) fun _ => rfl
    · exact ⟨rfl, rfl⟩

theorem sameRing_mirrorEntry (s : State) (r : Ring) (h : Fin 2) (rp : RingPair) (bs : List Byte) :
    SameRing s (s.mirrorEntry r rp bs) h := by
  unfold State.mirrorEntry
  split
  · exact sameRing_writeHost ..
  · exact ⟨rfl, rfl⟩

theorem sameRing_ringInterrupt (s : State) (r : Ring) (h : Fin 2) (v : BitVec 16) : SameRing s (s.ringInterrupt r v) h := by
  unfold State.ringInterrupt
  split
  · exact sameRing_interrupt ..
  · exact ⟨rfl, rfl⟩

/-- The mirror of a host ring's entry reaches host memory alone. -/
theorem State.writeEntry_host_shape (s : State) (h : Fin 2) (body : Nat) (raise : Bool) :
    ∃ hs ints, s.writeEntry (.host h) body raise = { s with hosts := hs, interrupts := ints } := by
  simp only [State.writeEntry, State.ring?, State.writeRing, State.modRing]
  generalize hb : Bits.toBytes 32 _ = bs
  generalize hu : s.modHost h _ = u
  obtain ⟨h1, e1⟩ := State.mirrorEntry_shape u (.host h) (s.host h).ring bs
  rw [e1]
  subst hu
  split
  · exact State.ringInterrupt_shape _ (.host h) _
  · exact ⟨_, _, rfl⟩

/-- An entry of a host ring stands at the completion counter, which advances by one (12 R297). -/
theorem State.writeEntry_host (s : State) (h : Fin 2) (body : Nat) (raise : Bool) :
    let rp := (s.host h).ring
    let t := s.writeEntry (.host h) body raise
    (t.host h).ring = { rp with cqTail := rp.cqTail + 1 } ∧
    (t.host h).wardenMem = Mem.write (s.host h).wardenMem (rp.cqOffset (rp.cqTail.toNat % rp.n))
      (Bits.toBytes 32 (body + rp.phase * 2 ^ 52)) := by
  simp only [State.writeEntry, State.ring?, State.writeRing, State.modRing]
  generalize hu : s.modHost h _ = u
  have hm := sameRing_mirrorEntry u (.host h) h (s.host h).ring (Bits.toBytes 32 (body + (s.host h).ring.phase * 2 ^ 52))
  have key : ∀ v : State, SameRing u v h → ∀ w, SameRing (v.modHost h fun x =>
      { x with ring := { x.ring with cqTail := x.ring.cqTail + 1 } }) w h →
      (w.host h).ring = { (s.host h).ring with cqTail := (s.host h).ring.cqTail + 1 } ∧
      (w.host h).wardenMem = Mem.write (s.host h).wardenMem
        ((s.host h).ring.cqOffset ((s.host h).ring.cqTail.toNat % (s.host h).ring.n))
        (Bits.toBytes 32 (body + (s.host h).ring.phase * 2 ^ 52)) := by
    rintro v ⟨hv, hvm⟩ w ⟨hw, hwm⟩
    rw [host_modHost, if_pos rfl] at hw hwm
    dsimp only at hw hwm
    subst hu
    rw [host_modHost, if_pos rfl] at hv hvm
    dsimp only at hv hvm
    rw [hw, hwm, hv, hvm]
    exact ⟨rfl, rfl⟩
  split
  · exact key _ hm _ (sameRing_ringInterrupt ..)
  · exact key _ hm _ ⟨rfl, rfl⟩

/-- Without the counters flag a completion writes the entry alone (12 R301). -/
theorem State.complete_of_not_counters (s : State) {q : Req} (op since : Nat) (latch : List (BitVec 64)) (st r0 r1 : Nat)
    (hc : q.counters = false) :
    s.complete q op since latch st r0 r1 = { s.writeEntry q.ring
      (completionBody q.ring q.tag.toNat op st r0 r1 (s.now - since) false) q.notify with idleSince := s.now } := by
  simp only [State.complete, State.counterRecord, hc]

/-- Settles O8: without a counter record the completion is the entry alone, and the mirror and the interrupt leave the
ring. -/
theorem completionEntry : Obligations.CompletionEntry := by
  unfold Obligations.CompletionEntry
  intro s q h a st r0 r1 hq hc ha hv hwf
  have hfin : s.finish q st r0 r1 = { ({ s with accepted := s.accepted.filter fun x => x.q != q } : State).writeEntry
      (.host h) (completionBody (.host h) q.tag.toNat a.cmd.opcode st r0 r1 (s.now - a.since) false) q.notify with
      idleSince := s.now } := by
    simp only [State.finish, ha, hv]
    rw [← hq]
    exact State.complete_of_not_counters _ _ _ _ _ _ _ hc
  simp only [hfin, hq]
  obtain ⟨hr, hm⟩ := State.writeEntry_host { s with accepted := s.accepted.filter fun x => x.q != q } h
    (completionBody (.host h) q.tag.toNat a.cmd.opcode st r0 r1 (s.now - a.since) false) q.notify
  obtain ⟨hs, ints, he⟩ := State.writeEntry_host_shape { s with accepted := s.accepted.filter fun x => x.q != q } h
    (completionBody (.host h) q.tag.toNat a.cmd.opcode st r0 r1 (s.now - a.since) false) q.notify
  refine ⟨?_, hr, ?_, fun b hb => ?_, ?_⟩
  · have := Mem.read_write ((s.host h).ring.cqOffset ((s.host h).ring.cqTail.toNat % (s.host h).ring.n)) (Bits.toBytes 32
      (completionBody (.host h) q.tag.toNat a.cmd.opcode st r0 r1 (s.now - a.since) false +
        (s.host h).ring.phase * 2 ^ 52)) hwf
    rw [toBytes_length] at this
    exact (congrArg (Mem.read · _ 32) hm).trans this
  · rw [he]
  · exact (congrArg (Mem.get · b) hm).trans (Mem.get_write_other _ hwf (by rw [toBytes_length]; exact hb))
  · rw [he]

end Sys2Proof.Machine
end

section
/-! SUPPORT and the settlement of O10: DEV, FENCE and SYNC commands (12 R294, R299, R311, 01 R36 to R38). -/

namespace Sys2Proof.Machine

/-! ### Bodies by the ring of their command -/

/-- What the port of a command reaches does not change with its start. -/
@[simp] theorem hostUp_start (s : State) (q p : Req) : (s.start q).hostUp p = s.hostUp p := by
  simp only [State.hostUp, State.hostOf, ringPort_start, host_start]

@[simp] theorem hostOf_start (s : State) (q p : Req) : (s.start q).hostOf p = s.hostOf p := by
  simp only [State.hostOf, ringPort_start]

@[simp] theorem sync?_start (s : State) (q : Req) (p : Nat) (n : BitVec 12) : (s.start q).sync? p n = s.sync? p n := rfl

/-- A body of contexts' rings on a context's ring. -/
theorem withCtx_ctx {q : Req} {c : CtxNo} (s : State) (f : CtxNo → Ran) (hq : q.ring = .ctx c) : withCtx q s f = f c := by
  simp only [withCtx, ctxOf, hq]

/-- A body of contexts' rings denies a host ring (12 R294). -/
theorem withCtx_host {q : Req} {h : Fin 2} (s : State) (f : CtxNo → Ran) (hq : q.ring = .host h) :
    withCtx q s f = .status s stDenied := by
  simp only [withCtx, ctxOf, hq]

theorem withSync_host {q : Req} {h : Fin 2} (n : BitVec 12) (s : State) (f : Nat → Sync → Ran) (hq : q.ring = .host h) :
    withSync q n s f = .status s stDenied := withCtx_host _ _ hq

theorem withSync_none {q : Req} {c : CtxNo} {n : BitVec 12} {s : State} (f : Nat → Sync → Ran) (hq : q.ring = .ctx c)
    (hn : s.sync? (ptnOf c) n = none) : withSync q n s f = .status s stNoObject := by
  simp only [withSync, withCtx_ctx _ _ hq, hn]

theorem withSync_some {q : Req} {c : CtxNo} {n : BitVec 12} {s : State} {y : Sync} (f : Nat → Sync → Ran)
    (hq : q.ring = .ctx c) (hy : s.sync? (ptnOf c) n = some y) : withSync q n s f = f (ptnOf c) y := by
  simp only [withSync, withCtx_ctx _ _ hq, hy]

/-! ### A fence -/

/-- The start of a command leaves which fences a detach has cut off. -/
theorem any_cutOff_start (s : State) (q : Req) :
    ((s.start q).accepted.any fun a => a.q == q && a.cutOff) = s.accepted.any fun a => a.q == q && a.cutOff := by
  simp only [State.start, Lists.modifyIf, List.any_map]
  congr 1
  funext a
  simp only [Function.comp_apply]
  split <;> rfl

/-- A fence completes with ST_HOST_DETACHED just where it is of host scope and its host is out of reach or was detached
since (01 R38). -/
theorem fenceBarrierBody_start (s : State) (q : Req) :
    fenceBarrierBody (s.start q) q =
      if q.fbScope = 3 ∧ (s.hostUp q = false ∨ ∃ a ∈ s.accepted, a.q = q ∧ a.cutOff = true) then
        .status (s.start q) stHostDetached else .status (s.start q) stOk := by
  simp [fenceBarrierBody, any_cutOff_start]

/-! ### A SYNC number -/

/-- The lowest number that is not used is below the bound and free. -/
theorem lowestFree_some {n k : Nat} {used : List Nat} (h : Lists.lowestFree n used = some k) : k < n ∧ k ∉ used := by
  have hk := List.find?_some h
  exact ⟨List.mem_range.mp (List.mem_of_find?_eq_some h), by simpa using hk⟩

theorem lowestFree_eq_none {n : Nat} {used : List Nat} : Lists.lowestFree n used = none ↔ ∀ k < n, k ∈ used := by
  simp [Lists.lowestFree]

/-- A number below a bound that is the value wanted where it is free and else the lowest free one (log entry 3). -/
theorem freeNumber_some {n want : Nat} {used : List Nat} (hw : want < n) (h : ∃ k < n, k ∉ used) :
    ∃ k, (if used.contains want then Lists.lowestFree n used else some want) = some k ∧ k < n ∧ k ∉ used := by
  split
  · cases hl : Lists.lowestFree n used with
    | none =>
      obtain ⟨k, hk, hu⟩ := h
      exact absurd (lowestFree_eq_none.mp hl k hk) hu
    | some k => exact ⟨k, rfl, lowestFree_some hl⟩
  · next hc => exact ⟨want, rfl, hw, by simpa using hc⟩

/-- With every number used there is none. -/
theorem freeNumber_none {n want : Nat} {used : List Nat} (hw : want < n) (h : ∀ k < n, k ∈ used) :
    (if used.contains want then Lists.lowestFree n used else some want) = none := by
  rw [if_pos (by simpa using h want hw), lowestFree_eq_none.mpr h]

/-! ### The two halves of the statement -/

/-- DEV.NOP, DEV.QUERY, DEV.HELLO and FENCE.BARRIER. -/
theorem dev_completes (s : State) (q : Req) :
    (Runnable (.devNop q) q s → exec (.devNop q) s = .next ((s.start q).finish q stOk 0 0)) ∧
    (Runnable (.devQuery q) q s →
      exec (.devQuery q) s = .next ((s.start q).finish q stOk Config.serial.toNat 0x71601100)) :=
  ⟨fun hr => exec_done rfl hr rfl, fun hr => exec_done rfl hr rfl⟩

theorem devHello_host {s : State} {q : Req} {h : Fin 2} {v : BitVec 32} (hr : Runnable (.devHello q v) q s)
    (hq : q.ring = .host h) : exec (.devHello q v) s = .next (((s.start q).modHost h fun x =>
      { x with rtVer := v, hello := true }).finish q stOk s.fw.running.iface.toNat 0) :=
  exec_done rfl hr (by simp only [devHelloBody, hq, State.iface, State.start_fw])

theorem devHello_ctx {s : State} {q : Req} {c : CtxNo} {v : BitVec 32} (hr : Runnable (.devHello q v) q s)
    (hq : q.ring = .ctx c) : exec (.devHello q v) s = .next ((s.start q).finish q stDenied 0 0) :=
  exec_status rfl hr (by simp only [devHelloBody, hq])

theorem fenceBarrier_ok {s : State} {q : Req} (hr : Runnable (.fenceBarrier q) q s)
    (h : q.fbScope = 3 → s.hostUp q = true ∧ ∀ a ∈ s.accepted, a.q = q → a.cutOff = false) :
    exec (.fenceBarrier q) s = .next ((s.start q).finish q stOk 0 0) := by
  refine exec_status rfl hr ((fenceBarrierBody_start s q).trans (if_neg ?_))
  rintro ⟨h3, hd⟩
  obtain ⟨hup, hcut⟩ := h h3
  rcases hd with hd | ⟨a, ha, haq, hc⟩
  · simp [hup] at hd
  · simp [hcut a ha haq] at hc

/-- The commands that name a SYNC object, on a host ring and with a number that names none. -/
theorem sync_refused {s : State} {q : Req} {n : BitVec 12} {v k : BitVec 64} {i : Instr} (hk : k ≠ 0)
    (hi : i ∈ ([.syncQuery q n, .syncWait q n v, .syncSignal q n k, .syncFree q n] : List Instr)) (hr : Runnable i q s) :
    (∀ h, q.ring = .host h → exec i s = .next ((s.start q).finish q stDenied 0 0)) ∧
    (∀ c, q.ring = .ctx c → s.sync? (ptnOf c) n = none → exec i s = .next ((s.start q).finish q stNoObject 0 0)) := by
  simp only [List.mem_cons, List.not_mem_nil, or_false] at hi
  constructor
  · intro h hq
    obtain rfl | rfl | rfl | rfl := hi
    · exact exec_status rfl hr (withSync_host _ _ _ hq)
    · exact exec_status rfl hr (withSync_host _ _ _ hq)
    · exact exec_status rfl hr ((if_neg hk).trans (withSync_host _ _ _ hq))
    · exact exec_status rfl hr (withSync_host _ _ _ hq)
  · intro c hq hn
    rw [← sync?_start s q] at hn
    obtain rfl | rfl | rfl | rfl := hi
    · exact exec_status rfl hr (withSync_none _ hq hn)
    · exact exec_status rfl hr (withSync_none _ hq hn)
    · exact exec_status rfl hr ((if_neg hk).trans (withSync_none _ hq hn))
    · exact exec_status rfl hr (withSync_none _ hq hn)

/-- The number that SYNC.CREATE gives: the free value where that is free, else the lowest that is (log entry 3). -/
def syncNumber (s : State) (x : Partition) : Option Nat :=
  let used := x.syncs.map fun y => y.no.toNat
  let want := (Config.free s.free).toNat % 4096
  if used.contains want then Lists.lowestFree 4096 used else some want

theorem syncCreateBody_some {s : State} {q : Req} {c : CtxNo} {x : Partition} {n : Nat} (v : BitVec 64)
    (hq : q.ring = .ctx c) (hx : s.ptn? (ptnOf c) = some x) (hn : syncNumber s x = some n) :
    syncCreateBody v s q = .done (({ s with free := s.free + 1 } : State).modPtn (ptnOf c) fun z =>
      { z with syncs := z.syncs ++ [⟨BitVec.ofNat 12 n, v⟩] }) stOk n 0 := by
  rw [syncCreateBody, withCtx_ctx _ _ hq]
  simp only [hx]
  split
  · next h => cases hn.symm.trans h
  · next h => cases hn.symm.trans h; rfl

theorem syncCreateBody_none {s : State} {q : Req} {c : CtxNo} {x : Partition} (v : BitVec 64)
    (hq : q.ring = .ctx c) (hx : s.ptn? (ptnOf c) = some x) (hn : syncNumber s x = none) :
    syncCreateBody v s q = .status s stLimit := by
  rw [syncCreateBody, withCtx_ctx _ _ hq]
  simp only [hx]
  split
  · rfl
  · next h => cases hn.symm.trans h

theorem syncCreate_refused {s : State} {q : Req} {v : BitVec 64} (hr : Runnable (.syncCreate q v) q s) :
    (∀ h, q.ring = .host h → exec (.syncCreate q v) s = .next ((s.start q).finish q stDenied 0 0)) ∧
    (∀ c, q.ring = .ctx c → s.ptn? (ptnOf c) = none →
      exec (.syncCreate q v) s = .next ((s.start q).finish q stNoObject 0 0)) := by
  refine ⟨fun h hq => exec_status rfl hr (withCtx_host _ _ hq), fun c hq hx => exec_status rfl hr ?_⟩
  rw [syncCreateBody, withCtx_ctx _ _ hq]
  simp only [ptn?_start, hx]

theorem syncCreate_some {s : State} {q : Req} {c : CtxNo} {x : Partition} {v : BitVec 64}
    (hr : Runnable (.syncCreate q v) q s) (hq : q.ring = .ctx c) (hx : s.ptn? (ptnOf c) = some x)
    (hfree : ∃ k < 4096, k ∉ x.syncs.map fun y => y.no.toNat) :
    ∃ n : Nat, n < 4096 ∧ n ∉ (x.syncs.map fun y => y.no.toNat) ∧
      exec (.syncCreate q v) s = .next (({ s.start q with free := s.free + 1 }.modPtn (ptnOf c) fun z =>
        { z with syncs := z.syncs ++ [({ no := BitVec.ofNat 12 n, value := v } : Sync)] }).finish q stOk n 0) := by
  obtain ⟨n, hn, hlt, hnot⟩ := freeNumber_some (want := (Config.free s.free).toNat % 4096) (Nat.mod_lt _ (by decide)) hfree
  refine ⟨n, hlt, hnot, exec_done rfl hr ?_⟩
  exact syncCreateBody_some v hq ((ptn?_start s q _).trans hx) hn

theorem syncCreate_limit {s : State} {q : Req} {c : CtxNo} {x : Partition} {v : BitVec 64}
    (hr : Runnable (.syncCreate q v) q s) (hq : q.ring = .ctx c) (hx : s.ptn? (ptnOf c) = some x)
    (hfull : ∀ k < 4096, k ∈ x.syncs.map fun y => y.no.toNat) :
    exec (.syncCreate q v) s = .next ((s.start q).finish q stLimit 0 0) := by
  exact exec_status rfl hr (syncCreateBody_none v hq ((ptn?_start s q _).trans hx)
    (freeNumber_none (Nat.mod_lt _ (by decide)) hfull))

theorem syncWait_ctx {s : State} {q : Req} {c : CtxNo} {n : BitVec 12} {v : BitVec 64} {y : Sync}
    (hr : Runnable (.syncWait q n v) q s) (hq : q.ring = .ctx c) (hy : s.sync? (ptnOf c) n = some y) :
    (v.toNat ≤ y.value.toNat → exec (.syncWait q n v) s = .next ((s.start q).finish q stOk 0 0)) ∧
    (y.value.toNat < v.toNat → exec (.syncWait q n v) s = .next (s.start q)) :=
  ⟨fun hle => exec_status rfl hr ((withSync_some (s := s.start q) _ hq hy).trans (if_pos hle)),
    fun hlt => exec_goesOn rfl hr ((withSync_some (s := s.start q) _ hq hy).trans (if_neg (Nat.not_le.mpr hlt)))⟩

/-- Settles O10, row by row. -/
theorem devAndSync : Obligations.DevAndSync := by
  unfold Obligations.DevAndSync
  refine ⟨⟨fun s q => (dev_completes s q).1, fun s q => (dev_completes s q).2, fun _ _ _ _ => devHello_host,
      fun _ _ _ _ => devHello_ctx, fun _ _ => fenceBarrier_ok, fun s q hr h3 hd => ?_⟩,
    fun s q v n k hk i hi hr => sync_refused hk hi hr, fun _ _ _ => syncCreate_refused,
    fun _ _ _ _ _ => syncCreate_some, fun _ _ _ _ _ => syncCreate_limit, fun s q c n y hr hq hy => ?_,
    fun _ _ _ _ _ _ => syncWait_ctx, fun s q n hr => ?_, fun s q c n v y hr hq hv hy => ?_, fun s q c n y hr hq hy => ?_⟩
  · exact exec_status rfl hr ((fenceBarrierBody_start s q).trans (if_pos ⟨h3, hd⟩))
  · exact exec_done rfl hr (withSync_some (s := s.start q) _ hq hy)
  · exact exec_status rfl hr (if_pos rfl)
  · exact exec_status rfl hr ((if_neg hv).trans (withSync_some (s := s.start q) _ hq hy))
  · exact exec_status rfl hr (withSync_some (s := s.start q) _ hq hy)

end Sys2Proof.Machine
end

section
/-! SUPPORT and the settlement of O11: bodies that name objects, the base of a new object, OBJ.CREATE (07 R154, R157,
R159, R170). -/

namespace Sys2Proof.Machine

/-! ### Bodies that name an object -/

theorem withNamed_none {q : Req} {c : CtxNo} {base : BitVec 42} {s : State} (f : Obj → Ran) (hq : q.ring = .ctx c)
    (ho : s.obj? c base = none) : withNamed q base s f = .status s stNoObject := by
  simp only [withNamed, withCtx_ctx _ _ hq, ho]

theorem withNamed_some {q : Req} {c : CtxNo} {base : BitVec 42} {s : State} {o : Obj} (f : Obj → Ran)
    (hq : q.ring = .ctx c) (ho : s.obj? c base = some o) : withNamed q base s f = f o := by
  simp only [withNamed, withCtx_ctx _ _ hq, ho]

theorem withObj_none {q : Req} {c : CtxNo} {base : BitVec 42} {s : State} (f : Obj → Ran) (hq : q.ring = .ctx c)
    (ho : s.obj? c base = none) : withObj q base s f = .status s stNoObject := withNamed_none _ hq ho

/-- An object below a poisoned tree node is out of reach (16 R409). -/
theorem withObj_broken {q : Req} {c : CtxNo} {base : BitVec 42} {s : State} {o : Obj} (f : Obj → Ran)
    (hq : q.ring = .ctx c) (ho : s.obj? c base = some o) (hb : o.broken.isSome = true) :
    withObj q base s f = .status s stPoison :=
  (withNamed_some _ hq ho).trans (if_pos hb)

theorem withObj_some {q : Req} {c : CtxNo} {base : BitVec 42} {s : State} {o : Obj} (f : Obj → Ran)
    (hq : q.ring = .ctx c) (ho : s.obj? c base = some o) (hb : o.broken = none) : withObj q base s f = f o :=
  (withNamed_some _ hq ho).trans (if_neg (by simp [hb]))

/-- The object that a lookup finds carries the names it was looked up by. -/
theorem obj?_names {s : State} {c : CtxNo} {base : BitVec 42} {o : Obj} (ho : s.obj? c base = some o) :
    o.ctx = c ∧ o.desc.vbase = base := by
  simpa using List.find?_some ho

/-! ### The base of a new object -/

theorem tileBytes_pos (d : ObjDesc) : 0 < tileBytes d := by
  unfold tileBytes
  split <;> decide

/-- What a free base keeps (07 R154). -/
theorem baseFree_bounds {s : State} {c : CtxNo} {size span b : Nat} (h : s.baseFree c size span b = true) :
    b ≠ 0 ∧ b % size = 0 ∧ b + span ≤ 2 ^ 42 := by
  simp only [State.baseFree, Bool.and_eq_true, bne_iff_ne, beq_iff_eq, decide_eq_true_eq] at h
  exact ⟨h.1.1.1, h.1.1.2, h.1.2⟩

/-- The base chosen is a free one. -/
theorem chooseBase_free {s t : State} {c : CtxNo} {size span : Nat} {base : BitVec 42}
    (h : s.chooseBase c size span = (t, some base)) : ∃ b, base = BitVec.ofNat 42 b ∧ s.baseFree c size span b = true := by
  rw [State.chooseBase, State.takeFree] at h
  dsimp only at h
  split at h
  · next hf =>
    cases h
    exact ⟨_, rfl, hf⟩
  · obtain ⟨-, h⟩ := Prod.mk.inj h
    obtain ⟨b, hb, rfl⟩ := Option.map_eq_some_iff.mp h
    exact ⟨b, rfl, (List.mem_filter.mp (List.min?_mem hb)).2⟩

/-- A base chosen for some tiles is not 0 and a multiple of the residence tile. -/
theorem chooseBase_aligned {s t : State} {c : CtxNo} {size span : Nat} {base : BitVec 42} (hs : 0 < span)
    (h : s.chooseBase c size span = (t, some base)) : base ≠ 0 ∧ base.toNat % size = 0 := by
  obtain ⟨b, rfl, hf⟩ := chooseBase_free h
  obtain ⟨h0, hm, hle⟩ := baseFree_bounds hf
  have hb : (BitVec.ofNat 42 b).toNat = b := Nat.mod_eq_of_lt (by omega)
  refine ⟨fun he => h0 ?_, by rw [hb, hm]⟩
  simpa [hb] using congrArg BitVec.toNat he

/-- A creation that succeeds gives an aligned base, to a context that has room for one object more. -/
theorem createObj_ok {s t : State} {p : Nat} {c : CtxNo} {d : ObjDesc} {tiles cluster : Nat} {base : BitVec 42}
    (ht : 0 < tiles) (h : s.createObj p c d tiles cluster = (t, .ok base)) :
    base ≠ 0 ∧ base.toNat % tileBytes d = 0 ∧ s.objCount c < 65536 := by
  unfold State.createObj at h
  split at h
  · cases h
  · next hc =>
    split at h
    · cases h
    · next b hb =>
      obtain ⟨h0, hm⟩ := chooseBase_aligned (Nat.mul_pos ht (tileBytes_pos d)) hb
      dsimp only at h
      split at h
      · cases h
      · split at h
        · cases h
          exact ⟨h0, hm, Nat.lt_of_not_le hc⟩
        · cases h

/-- A creation that is refused names the limit or the quota; with 65,536 objects it is the limit, and nothing changed. -/
theorem createObj_error {s t : State} {p : Nat} {c : CtxNo} {d : ObjDesc} {tiles cluster st : Nat}
    (h : s.createObj p c d tiles cluster = (t, .error st)) :
    (st = stLimit ∨ st = stQuota) ∧ (65536 ≤ s.objCount c → st = stLimit ∧ t = s) := by
  unfold State.createObj at h
  split at h
  · cases h
    exact ⟨.inl rfl, fun _ => ⟨rfl, rfl⟩⟩
  · next hc =>
    suffices hst : st = stLimit ∨ st = stQuota from ⟨hst, fun hle => absurd hle hc⟩
    split at h
    · cases h; exact .inl rfl
    · dsimp only at h
      split at h
      · cases h; exact .inr rfl
      · split at h <;> cases h
        exact .inr rfl

/-! ### The row of OBJ.CREATE -/

/-- The body of OBJ.CREATE of a cluster that the partition has, with a length and room among the context's objects. -/
theorem objCreateBody_fits {s : State} {q : Req} {c : CtxNo} {d : ObjDesc} {x : Partition} (hq : q.ring = .ctx c)
    (hx : s.ptn? (ptnOf c) = some x) (hn : d.clu.toNat < x.n) (hl : d.length ≠ 0)
    (hf : s.objFits c d (tilesOf d) = true) :
    let room := s.createRoom (ptnOf c) d (x.low + d.clu.toNat)
    (d.home = 0 → room.carried (ptnOf c) none 0 ≠ 0 → s.pooled (ptnOf c) = true → objCreateBody d s q = .again room) ∧
    (d.home ≠ 0 ∨ s.pooled (ptnOf c) = false ∨ room.carried (ptnOf c) none 0 = 0 →
      (∀ t base, room.createObj (ptnOf c) c d (tilesOf d) (x.low + d.clu.toNat) = (t, .ok base) →
        objCreateBody d s q = .done t stOk base.toNat 0) ∧
      (∀ t st, room.createObj (ptnOf c) c d (tilesOf d) (x.low + d.clu.toNat) = (t, .error st) →
        objCreateBody d s q = .status t st)) := by
  have hbody : ∀ r, (if d.home = 0 && (s.createRoom (ptnOf c) d (x.low + d.clu.toNat)).carried (ptnOf c) none 0 != 0 &&
      s.pooled (ptnOf c) then .again (s.createRoom (ptnOf c) d (x.low + d.clu.toNat)) else
      match (s.createRoom (ptnOf c) d (x.low + d.clu.toNat)).createObj (ptnOf c) c d (tilesOf d) (x.low + d.clu.toNat) with
      | (s', .ok base) => Ran.done s' stOk base.toNat 0
      | (s', .error st) => Ran.status s' st) = r → objCreateBody d s q = r := by
    rintro r rfl
    rw [objCreateBody, withCtx_ctx _ _ hq]
    simp only [hx, if_neg (Nat.not_le.mpr hn), if_neg hl, hf, Bool.not_true, Bool.false_eq_true, if_false] <;> rfl
  refine ⟨fun h0 hc hp => hbody _ ?_, fun hor => ?_⟩
  · simp [h0, hc, hp]
  · have hno : ¬(d.home = 0 && (s.createRoom (ptnOf c) d (x.low + d.clu.toNat)).carried (ptnOf c) none 0 != 0 &&
        s.pooled (ptnOf c)) = true := by
      simp only [Bool.and_eq_true, decide_eq_true_eq, bne_iff_ne]
      rintro ⟨⟨h0, hc⟩, hp⟩
      rcases hor with h | h | h
      · exact h h0
      · simp [h] at hp
      · exact hc h
    exact ⟨fun t base h => hbody _ (by rw [if_neg hno, h]), fun t st h => hbody _ (by rw [if_neg hno, h])⟩

theorem createRoom_of_not_pooled {s : State} {p : Nat} (d : ObjDesc) (cluster : Nat) (h : s.pooled p = false) :
    s.createRoom p d cluster = s := by
  unfold State.createRoom State.makeRoom
  split <;> simp [h]

/-- OBJ.CREATE of a cluster index that the partition does not have, of no length, and without room among the context's
objects. -/
theorem objCreate_refused {s : State} {q : Req} {d : ObjDesc} {c : CtxNo} {x : Partition}
    (hr : Runnable (.objCreate q d) q s) (hq : q.ring = .ctx c) (hx : s.ptn? (ptnOf c) = some x) :
    (x.n ≤ d.clu.toNat → exec (.objCreate q d) s = .next ((s.start q).finish q stBadField 0 0)) ∧
    (d.clu.toNat < x.n → d.length = 0 → exec (.objCreate q d) s = .next ((s.start q).finish q stOkEmpty 0 0)) ∧
    (d.clu.toNat < x.n → d.length ≠ 0 → (s.start q).objFits c d (tilesOf d) = false →
      exec (.objCreate q d) s = .next ((s.start q).finish q stLimit 0 0)) := by
  have hbody : objCreateBody d (s.start q) q = _ := withCtx_ctx _ _ hq
  simp only [ptn?_start, hx] at hbody
  refine ⟨fun hn => exec_status rfl hr ?_, fun hn hl => exec_status rfl hr ?_, fun hn hl hf => exec_status rfl hr ?_⟩
  · rw [hbody, if_pos hn]
  · rw [hbody, if_neg (Nat.not_le.mpr hn), if_pos hl]
  · rw [hbody, if_neg (Nat.not_le.mpr hn), if_neg hl, hf]; rfl

/-- Settles O11, from the cases of the body and from what a creation answers. -/
theorem objectCreation : Obligations.ObjectCreation := by
  unfold Obligations.ObjectCreation
  refine ⟨fun s q d c x hr hq hx => ?_, fun s p c d tiles cluster ht => ?_⟩
  · obtain ⟨hbad, hempty, hlimit⟩ := objCreate_refused hr hq hx
    have hx' := (ptn?_start s q _).trans hx
    refine ⟨hbad, hempty, hlimit, fun hn hl hf hor => ?_, fun hn hl hf h0 hp hc => ?_, fun hp => ?_⟩
    · obtain ⟨-, hmake⟩ := objCreateBody_fits hq hx' hn hl hf
      obtain ⟨hok, herr⟩ := hmake hor
      rcases hmk : ((s.start q).createRoom (ptnOf c) d (x.low + d.clu.toNat)).createObj (ptnOf c) c d (tilesOf d)
        (x.low + d.clu.toNat) with ⟨t, st | base⟩
      · exact exec_status rfl hr (herr t st hmk)
      · exact exec_done rfl hr (hok t base hmk)
    · exact exec_again rfl hr ((objCreateBody_fits hq hx' hn hl hf).1 h0 hc hp)
    · exact createRoom_of_not_pooled (s := s.start q) d _ hp
  · rcases hmk : s.createObj p c d tiles cluster with ⟨t, st | base⟩
    · exact createObj_error hmk
    · exact createObj_ok ht hmk

end Sys2Proof.Machine
end

section
/-! SUPPORT and the settlement of O12: the OBJ commands on an object, and what taking one out leaves (07 R157 to R163,
14 R358). -/

namespace Sys2Proof.Machine

/-! ### What the start of a command leaves of an object's conditions -/

@[simp] theorem loaded_start (s : State) (q : Req) (c : CtxNo) (b : BitVec 42) : (s.start q).loaded c b = s.loaded c b := rfl
@[simp] theorem bound_start (s : State) (q : Req) (o : Obj) : (s.start q).bound o = s.bound o := rfl
@[simp] theorem memWaits_start (s : State) (q : Req) (o : Obj) : (s.start q).memWaits o = s.memWaits o := rfl

/-- The tiles away from home are none just where every tile lies in the home tier. -/
theorem away_isEmpty_iff (o : Obj) : o.away.isEmpty = true ↔ ∀ k ∈ o.tiles, k.place.tier = o.desc.home.toNat := by
  simp only [Obj.away, List.isEmpty_iff, List.map_eq_nil_iff, List.filter_eq_nil_iff, Prod.forall]
  constructor
  · intro h k hk
    obtain ⟨i, hi, rfl⟩ := List.mem_iff_getElem.mp hk
    simpa using h _ i (List.mem_zipIdx_iff_getElem?.mpr (by simp [hi]))
  · intro h k i hk
    simpa using h k (List.fst_mem_of_mem_zipIdx hk)

/-! ### The rows on an object -/

section
variable {s : State} {q : Req} {c : CtxNo} {base : BitVec 42} {o : Obj}

/-- A base that names no object. -/
theorem obj_noObject {home : BitVec 2} (hq : q.ring = .ctx c) (ho : s.obj? c base = none) {i : Instr}
    (hi : i ∈ ([.objPin q base, .objUnpin q base, .objPlace q base home, .objFree q base, .objQuery q base] : List Instr))
    (hr : Runnable i q s) : exec i s = .next ((s.start q).finish q stNoObject 0 0) := by
  simp only [List.mem_cons, List.not_mem_nil, or_false] at hi
  have ho' : (s.start q).obj? c base = none := ho
  obtain rfl | rfl | rfl | rfl | rfl := hi
  · exact exec_status rfl hr (withObj_none _ hq ho')
  · exact exec_status rfl hr (withObj_none _ hq ho')
  · exact exec_status rfl hr (withObj_none _ hq ho')
  · exact exec_status rfl hr (withNamed_none _ hq ho')
  · exact exec_status rfl hr (withObj_none _ hq ho')

/-- An object below a broken node (16 R409). -/
theorem obj_poison {home : BitVec 2} (hq : q.ring = .ctx c) (ho : s.obj? c base = some o) (hb : o.broken.isSome = true)
    {i : Instr} (hi : i ∈ ([.objPin q base, .objUnpin q base, .objPlace q base home, .objQuery q base] : List Instr))
    (hr : Runnable i q s) : exec i s = .next ((s.start q).finish q stPoison 0 0) := by
  simp only [List.mem_cons, List.not_mem_nil, or_false] at hi
  have ho' : (s.start q).obj? c base = some o := ho
  obtain rfl | rfl | rfl | rfl := hi
  · exact exec_status rfl hr (withObj_broken _ hq ho' hb)
  · exact exec_status rfl hr (withObj_broken _ hq ho' hb)
  · exact exec_status rfl hr (withObj_broken _ hq ho' hb)
  · exact exec_status rfl hr (withObj_broken _ hq ho' hb)

/-- An object of a kind that the device creates. -/
theorem obj_ofDevice {home : BitVec 2} (hq : q.ring = .ctx c) (ho : s.obj? c base = some o) (hb : o.broken = none)
    (hd : o.ofDevice = true) {i : Instr}
    (hi : i ∈ ([.objPin q base, .objUnpin q base, .objPlace q base home] : List Instr)) (hr : Runnable i q s) :
    exec i s = .next ((s.start q).finish q stBadField 0 0) := by
  simp only [List.mem_cons, List.not_mem_nil, or_false] at hi
  have ho' : (s.start q).obj? c base = some o := ho
  obtain rfl | rfl | rfl := hi
  · exact exec_status rfl hr ((withObj_some _ hq ho' hb).trans (if_pos hd))
  · exact exec_status rfl hr ((withObj_some _ hq ho' hb).trans (if_pos hd))
  · exact exec_status rfl hr ((withObj_some _ hq ho' hb).trans (if_pos (by simp [hd])))

/-- OBJ.PIN of a loaded image, and of an object that lies at home. -/
theorem objPin_home (hr : Runnable (.objPin q base) q s) (hq : q.ring = .ctx c) (ho : s.obj? c base = some o)
    (hb : o.broken = none) (hd : o.ofDevice = false) :
    (s.loaded o.ctx base = true →
      exec (.objPin q base) s = .next (((s.start q).setPin o.ctx base true).finish q stOk 0 0)) ∧
    (s.loaded o.ctx base = false → (∀ k ∈ o.tiles, k.place.tier = o.desc.home.toNat) → exec (.objPin q base) s =
      .next ((((s.start q).setPin o.ctx base true).cancelMigrations o.ctx base fun m =>
        m.dest.tier != o.desc.home.toNat).finish q stOk 0 0)) := by
  have hbody : objPinBody base (s.start q) q = _ := withObj_some _ hq (s := s.start q) ho hb
  refine ⟨fun hl => exec_status rfl hr (hbody.trans ?_), fun hl hh => exec_status rfl hr (hbody.trans ?_)⟩
  · simp [hd, hl]
  · simp [hd, hl, (away_isEmpty_iff o).mpr hh]

/-- OBJ.PIN of an object with tiles away from home. -/
theorem objPin_away (hr : Runnable (.objPin q base) q s) (hq : q.ring = .ctx c) (ho : s.obj? c base = some o)
    (hb : o.broken = none) (hd : o.ofDevice = false) (hl : s.loaded o.ctx base = false)
    (hh : ∃ k ∈ o.tiles, k.place.tier ≠ o.desc.home.toNat) :
    (s.bound o = true → exec (.objPin q base) s = .next s) ∧
    (s.bound o = false → exec (.objPin q base) s = .next
      (match (s.start q).pinAway (ptnOf o.ctx) o with
      | (u, some st) => u.finish q st 0 0
      | (u, none) => u.resume q)) := by
  have ha : o.away.isEmpty = false := by
    obtain ⟨k, hk, ht⟩ := hh
    exact Bool.eq_false_iff.mpr fun he => ht ((away_isEmpty_iff o).mp he k hk)
  have hbody : objPinBody base (s.start q) q = _ := withObj_some _ hq (s := s.start q) ho hb
  refine ⟨fun hbd => exec_waits rfl hr (hbody.trans ?_), fun hbd => ?_⟩
  · simp [hd, hl, ha, hbd]
  · rcases hp : (s.start q).pinAway (ptnOf o.ctx) o with ⟨u, _ | st⟩
    · exact exec_again rfl hr (hbody.trans (by simp [hd, hl, ha, hbd, hp]))
    · exact exec_status rfl hr (hbody.trans (by simp [hd, hl, ha, hbd, hp]))

/-- OBJ.UNPIN. -/
theorem objUnpin_row (hr : Runnable (.objUnpin q base) q s) (hq : q.ring = .ctx c) (ho : s.obj? c base = some o)
    (hb : o.broken = none) (hd : o.ofDevice = false) :
    (s.loaded o.ctx base = true → exec (.objUnpin q base) s = .next ((s.start q).finish q stInUse 0 0)) ∧
    (s.loaded o.ctx base = false → exec (.objUnpin q base) s =
      .next ((((s.start q).setPin o.ctx base false).reopenReclaim o.ctx).finish q stOk 0 0)) := by
  have hbody : objUnpinBody base (s.start q) q = _ := withObj_some _ hq (s := s.start q) ho hb
  refine ⟨fun hl => exec_status rfl hr (hbody.trans ?_), fun hl => exec_status rfl hr (hbody.trans ?_)⟩
  · simp [hd, hl]
  · simp [hd, hl]

/-- OBJ.PLACE. -/
theorem objPlace_row {home : BitVec 2} (hr : Runnable (.objPlace q base home) q s) (hq : q.ring = .ctx c)
    (ho : s.obj? c base = some o) (hb : o.broken = none) (hd : o.ofDevice = false) :
    let t := (s.start q).giveHome o home
    (o.desc.pin = true → exec (.objPlace q base home) s = .next ((s.start q).finish q stBadField 0 0)) ∧
    (o.desc.pin = false → s.loaded o.ctx base = true →
      exec (.objPlace q base home) s = .next ((s.start q).finish q stInUse 0 0)) ∧
    (o.desc.pin = false → s.loaded o.ctx base = false → s.bound o = true → exec (.objPlace q base home) s = .next s) ∧
    (o.desc.pin = false → s.loaded o.ctx base = false → s.bound o = false →
      (t.objMigrates o.ctx base = true → exec (.objPlace q base home) s = .next (t.resume q)) ∧
      (t.objMigrates o.ctx base = false → exec (.objPlace q base home) s = .next ((t.quotaClear (ptnOf o.ctx)).finish q
        stOk (o.tiles.filter fun k => k.place.tier != home.toNat).length 0))) := by
  have hbody : objPlaceBody base home (s.start q) q = _ := withObj_some _ hq (s := s.start q) ho hb
  refine ⟨fun hp => exec_status rfl hr (hbody.trans ?_), fun hp hl => exec_status rfl hr (hbody.trans ?_),
    fun hp hl hbd => exec_waits rfl hr (hbody.trans ?_), fun hp hl hbd =>
      ⟨fun hm => exec_again rfl hr (hbody.trans ?_), fun hm => exec_done rfl hr (hbody.trans ?_)⟩⟩
  · simp [hp]
  · simp [hd, hp, hl]
  · simp [hd, hp, hl, hbd]
  · simp [hd, hp, hl, hbd, hm]
  · simp [hd, hp, hl, hbd, hm]

/-- OBJ.FREE. -/
theorem objFree_row (hr : Runnable (.objFree q base) q s) (hq : q.ring = .ctx c) (ho : s.obj? c base = some o) :
    (o.ofDevice = true → exec (.objFree q base) s = .next ((s.start q).finish q stBadField 0 0)) ∧
    (o.ofDevice = false → s.loaded o.ctx base = true →
      exec (.objFree q base) s = .next ((s.start q).finish q stInUse 0 0)) ∧
    (o.ofDevice = false → s.loaded o.ctx base = false →
      exec (.objFree q base) s = .next (((s.seqs.filter fun x => x.ctx == o.ctx && x.input == base).foldl
        (fun st x => st.loseIfGone x.index) (((s.start q).dropObj o.ctx base).quotaClear (ptnOf o.ctx))).finish q stOk 0 0)) := by
  have hbody : objFreeBody base (s.start q) q = _ := withNamed_some _ hq (s := s.start q) ho
  refine ⟨fun hd => exec_status rfl hr (hbody.trans ?_), fun hd hl => exec_status rfl hr (hbody.trans ?_),
    fun hd hl => exec_status rfl hr (hbody.trans ?_)⟩
  · simp [hd]
  · simp [hd, hl]
  · simp [hd, hl]

end

/-! ### Taking an object out -/

theorem State.invalidate_shape (s : State) (p space : Nat) (hit : Nat → Bool) :
    ∃ cs, s.invalidate p space hit = { s with caches := cs } := by
  unfold State.invalidate
  split
  · exact ⟨s.caches, rfl⟩
  · exact ⟨_, rfl⟩

/-- Zeroing the units of tiles one after another changes the tiers alone. -/
theorem zeroTiles_shape (d : ObjDesc) (ts : List ResTile) (s : State) :
    ∃ m u l p, ts.foldl (fun st t => st.zeroTier t.place.tier t.place.cluster (t.place.unit * unitBytes) (tileBytes d)) s =
      { s with tier1 := m, undef := u, layer := l, poison := p } := by
  induction ts generalizing s with
  | nil => exact ⟨s.tier1, s.undef, s.layer, s.poison, rfl⟩
  | cons t ts ih =>
    obtain ⟨m, u, l, p, e, -⟩ := State.zeroTier_shape s t.place.tier t.place.cluster (t.place.unit * unitBytes) (tileBytes d)
    rw [List.foldl_cons, e]
    obtain ⟨m', u', l', p', e'⟩ := ih { s with tier1 := m, undef := u, layer := l, poison := p }
    exact ⟨m', u', l', p', e'⟩

/-- A byte of a tier whose cell is 0 and over which nothing stands. -/
def BareZero (s : State) (tier cluster off : Nat) : Prop :=
  Mem.get (if tier = 0 then s.layer else s.tier1) (tierKey tier cluster off) = 0 ∧
    Table.get 0 s.undef (unitKey tier cluster off) = 0

theorem readTier_of_bareZero {s : State} {tier cluster off : Nat} (h : BareZero s tier cluster off) :
    s.readTier tier cluster off 1 = [0] := by
  simp [State.readTier, Mem.read, veiled, veil, h.1, h.2]

/-- Filtering a table by key leaves a key's value or takes it out. -/
theorem Table.get_filter_key {α : Type} (d : α) (t : Table α) (p : Nat → Bool) (a : Nat) :
    Table.get d (t.filter fun x => p x.1) a = if p a = true then Table.get d t a else d := by
  induction t with
  | nil => simp [Table.get]
  | cons x t ih =>
    obtain ⟨k, v⟩ := x
    by_cases hk : k = a
    · subst hk
      cases hp : p k <;> simp [Table.get, hp, ih]
    · cases hp : p k <;> simp [Table.get, hp, ih, hk]

theorem Mem.get_clear_zero {m : Mem} {lo hi b : Nat} (h : Mem.get m b = 0) : Mem.get (Mem.clear m lo hi) b = 0 := by
  by_cases hb : lo ≤ b ∧ b < hi
  · exact Mem.get_clear_in hb
  · rw [Mem.get_clear_out (by omega), h]

/-- Zeroing units leaves a bare zero as it is. -/
theorem bareZero_zeroTier {s : State} {tier cluster off : Nat} (t c o n : Nat) (h : BareZero s tier cluster off) :
    BareZero (s.zeroTier t c o n) tier cluster off := by
  obtain ⟨hm, hu⟩ := h
  have hundef := Table.get_filter_key 0 s.undef (fun k => !(unitKey t c o ≤ k && k < unitKey t c (o + n + 65535)))
    (unitKey tier cluster off)
  rw [hu, ite_self] at hundef
  unfold BareZero State.zeroTier
  by_cases h1 : t = 0 <;> by_cases h0 : tier = 0
  · simp only [if_pos h0, if_pos h1] at hm ⊢
    exact ⟨Mem.get_clear_zero hm, hundef⟩
  · simp only [if_neg h0, if_pos h1] at hm ⊢
    exact ⟨hm, hundef⟩
  · simp only [if_pos h0, if_neg h1] at hm ⊢
    exact ⟨hm, hundef⟩
  · simp only [if_neg h0, if_neg h1] at hm ⊢
    exact ⟨Mem.get_clear_zero hm, hundef⟩

/-- The units that are zeroed are bare zeros. -/
theorem bareZero_of_zeroTier (s : State) {tier : Nat} (ht : tier ≤ 1) (cluster off : Nat) {n b : Nat} (hb : b < n) :
    BareZero (s.zeroTier tier cluster off n) tier cluster (off + b) := by
  have hlo : unitKey tier cluster off ≤ unitKey tier cluster (off + b) := by
    simp only [unitKey, tierKey]; omega
  have hhi : unitKey tier cluster (off + b) < unitKey tier cluster (off + n + 65535) := by
    simp only [unitKey, tierKey]; omega
  have hundef := Table.get_filter_key 0 s.undef (fun k => !(unitKey tier cluster off ≤ k && k < unitKey tier cluster (off + n + 65535)))
    (unitKey tier cluster (off + b))
  rw [if_neg (by simp [hlo, hhi])] at hundef
  unfold BareZero State.zeroTier
  obtain rfl | rfl : tier = 0 ∨ tier = 1 := by omega
  · exact ⟨Mem.get_clear_in (by simp only [tierKey]; omega), hundef⟩
  · exact ⟨Mem.get_clear_in (by simp only [tierKey]; omega), hundef⟩

/-- Every byte of tiles zeroed one after another is a bare zero. -/
theorem bareZero_zeroTiles (d : ObjDesc) (ts : List ResTile) (s : State) {k : ResTile} (hk : k ∈ ts)
    (ht : k.place.tier ≤ 1) {b : Nat} (hb : b < tileBytes d) :
    BareZero (ts.foldl (fun st t => st.zeroTier t.place.tier t.place.cluster (t.place.unit * unitBytes) (tileBytes d)) s)
      k.place.tier k.place.cluster (k.place.unit * unitBytes + b) := by
  have keep : ∀ (us : List ResTile) (u : State), BareZero u k.place.tier k.place.cluster (k.place.unit * unitBytes + b) →
      BareZero (us.foldl (fun st t => st.zeroTier t.place.tier t.place.cluster (t.place.unit * unitBytes) (tileBytes d)) u)
        k.place.tier k.place.cluster (k.place.unit * unitBytes + b) := by
    intro us
    induction us with
    | nil => exact fun _ h => h
    | cons t us ih => exact fun u h => ih _ (bareZero_zeroTier _ _ _ _ h)
  induction ts generalizing s with
  | nil => simp at hk
  | cons t ts ih =>
    rcases List.mem_cons.mp hk with rfl | hk
    · exact keep ts _ (bareZero_of_zeroTier s ht _ _ hb)
    · exact ih _ hk

/-- What stays of the state when an object is taken out, before its units are zeroed. -/
theorem dropObj_eq {s : State} {c : CtxNo} {base : BitVec 42} {o : Obj} (ho : s.obj? c base = some o) :
    ∃ cs, s.dropObj c base =
      let t : State := { s with
        objs := s.objs.filter fun x => !(x.ctx == c && x.desc.vbase == base)
        migrations := s.migrations.filter fun m => !(m.ctx == c && m.base == base)
        caches := cs }
      if o.desc.prot then
        o.tiles.foldl (fun st t => st.zeroTier t.place.tier t.place.cluster (t.place.unit * unitBytes) (tileBytes o.desc)) t
      else t := by
  obtain ⟨cs, e⟩ := State.invalidate_shape (s.cancelMigrations c base fun _ => true) (ptnOf c) (objSpace c) fun g =>
    base.toNat / unitBytes ≤ g && g < base.toNat / unitBytes + o.tiles.length * tileUnits o.desc
  refine ⟨cs, ?_⟩
  rw [State.dropObj]
  simp only [ho]
  rw [e]
  simp only [State.cancelMigrations, Bool.and_true]

/-- Taking an object out changes the tiers and translations beside it, and zeroes what a protected one held. -/
theorem dropObj_leaves {s : State} {c : CtxNo} {base : BitVec 42} {o : Obj} (ho : s.obj? c base = some o) :
    let t := s.dropObj c base
    t.objs = s.objs.filter (fun x => !(x.ctx == c && x.desc.vbase == base)) ∧
    t.migrations = s.migrations.filter (fun m => !(m.ctx == c && m.base == base)) ∧
    t = { s with objs := t.objs, migrations := t.migrations, caches := t.caches, tier1 := t.tier1, undef := t.undef,
                 layer := t.layer, poison := t.poison } ∧
    (o.desc.prot = false → t.tier1 = s.tier1 ∧ t.layer = s.layer) ∧
    (o.desc.prot = true → ∀ k ∈ o.tiles, k.place.tier ≤ 1 → ∀ b < tileBytes o.desc,
      t.readTier k.place.tier k.place.cluster (k.place.unit * unitBytes + b) 1 = [0]) := by
  obtain ⟨cs, e⟩ := dropObj_eq ho
  dsimp only at e
  cases hp : o.desc.prot with
  | false =>
    rw [hp, if_neg Bool.false_ne_true] at e
    rw [e]
    exact ⟨rfl, rfl, rfl, fun _ => ⟨rfl, rfl⟩, fun h => (by cases h)⟩
  | true =>
    rw [hp, if_pos rfl] at e
    obtain ⟨m, u, l, p, ez⟩ := zeroTiles_shape o.desc o.tiles { s with
      objs := s.objs.filter fun x => !(x.ctx == c && x.desc.vbase == base)
      migrations := s.migrations.filter fun m => !(m.ctx == c && m.base == base)
      caches := cs }
    refine ⟨by rw [e, ez], by rw [e, ez], by rw [e, ez], fun h => (by cases h), fun _ k hk ht b hb => ?_⟩
    rw [e]
    exact readTier_of_bareZero (bareZero_zeroTiles o.desc o.tiles _ hk ht hb)

/-- An object taken out is named no more. -/
theorem obj?_filter_self {s t : State} {c : CtxNo} {base : BitVec 42}
    (h : t.objs = s.objs.filter fun x => !(x.ctx == c && x.desc.vbase == base)) : t.obj? c base = none := by
  simp only [State.obj?, h, List.find?_eq_none, List.mem_filter]
  rintro x ⟨-, hx⟩ h
  rw [h] at hx
  cases hx

/-- Settles O12, row by row, with what taking an object out leaves. -/
theorem objectChanges : Obligations.ObjectChanges := by
  unfold Obligations.ObjectChanges
  refine ⟨⟨fun s q c base home hq ho i hi hr => obj_noObject hq ho hi hr, fun s q c base home o hq ho =>
      ⟨fun hb i hi hr => obj_poison hq ho hb hi hr, fun hb hd i hi hr => obj_ofDevice hq ho hb hd hi hr⟩,
    fun s q c base o hr hq ho hb hd => ?_, fun s q c base o hr hq ho hb hd => objUnpin_row hr hq ho hb hd,
    fun s q c base home o hr hq ho hb hd => objPlace_row hr hq ho hb hd,
    fun s q c base o hr hq ho => objFree_row hr hq ho, fun s q c base o hr hq ho hb => ?_⟩, fun s c base o ho => ?_⟩
  · obtain ⟨hload, hhome⟩ := objPin_home hr hq ho hb hd
    exact ⟨hload, hhome, objPin_away hr hq ho hb hd⟩
  · exact exec_done rfl hr (withObj_some (s := s.start q) _ hq ho hb)
  · have hleaves := dropObj_leaves ho
    exact ⟨obj?_filter_self hleaves.1, hleaves⟩

end Sys2Proof.Machine
end

section
/-! SUPPORT and the settlement of O13: the MEM commands on objects that no run binds and no migration moves, and where
they stop short (12 R312, 08 R192). -/

namespace Sys2Proof.Machine

@[simp] theorem readHostOf_start (s : State) (q p : Req) (a : BitVec 64) (n : Nat) :
    (s.start q).readHostOf p a n = s.readHostOf p a n := by
  simp only [State.readHostOf, hostOf_start]
  rfl

section
variable {s : State} {q : Req} {c : CtxNo} {base off : BitVec 42} {a : BitVec 64} {n pat : BitVec 32} {o : Obj}

/-! ### The bodies on an object of the context -/

theorem memWriteBody_some (hq : q.ring = .ctx c) (hn : n ≠ 0) (ho : s.obj? c base = some o) (hb : o.broken = none) :
    memWriteBody base off a n s q =
      if o.desc.kind = kindWeights then .status s stBadField
      else if o.size < off.toNat + n.toNat then .status s stBadField
      else if s.memWaits o then .waits
      else if !s.hostUp q then .status s stHostDetached
      else .status (((((s.writeObj o off.toNat (s.readHostOf q a n.toNat)).hostMeets o off.toNat n.toNat false).countTiers o
        off.toNat n.toNat true).count o.ctx 25 n.toNat)) stOk := by
  rw [memWriteBody, if_neg hn, withObj_some _ hq ho hb]

theorem memFillBody_some (hq : q.ring = .ctx c) (hn : n ≠ 0) (ho : s.obj? c base = some o) (hb : o.broken = none) :
    memFillBody base off pat n s q =
      if o.desc.kind = kindWeights then .status s stBadField
      else if o.size < off.toNat + n.toNat then .status s stBadField
      else if s.memWaits o then .waits
      else .status (((s.writeObj o off.toNat (patternBytes pat n.toNat)).hostMeets o off.toNat n.toNat false).countTiers o
        off.toNat n.toNat true) stOk := by
  rw [memFillBody, if_neg hn, withObj_some _ hq ho hb]

/-- MEM.READ of a range that lies in the object, up to its first poisoned line if there is one. -/
theorem memReadBody_reads (hq : q.ring = .ctx c) (hn : n ≠ 0) (ho : s.obj? c base = some o) (hb : o.broken = none)
    (hle : off.toNat + n.toNat ≤ o.size) (hw : s.memWaits o = false) :
    let t := s.hostMeets o off.toNat n.toNat true
    (t.objPoison o off.toNat n.toNat = none → memReadBody base off a n s q = .status (((t.writeHostOf q a
      (t.readObj o off.toNat n.toNat)).countTiers o off.toNat n.toNat false).count o.ctx 25 n.toNat) stOk) ∧
    (∀ b, t.objPoison o off.toNat n.toNat = some b → memReadBody base off a n s q = .status (((t.writeHostOf q a
      (t.readObj o off.toNat (b - off.toNat))).countTiers o off.toNat (b - off.toNat) false).count o.ctx 25
        (b - off.toNat)) stPoison) := by
  have hbody : memReadBody base off a n s q = _ := (if_neg hn).trans (withObj_some _ hq ho hb)
  rw [if_neg (Nat.not_lt.mpr hle), if_neg (by simp [hw])] at hbody
  dsimp only at hbody
  refine ⟨fun hp => ?_, fun b hp => ?_⟩
  · rw [hbody, hp]; rfl
  · rw [hbody, hp]; rfl

/-- MEM.READ of a range beyond the object, and of an object in use. -/
theorem memReadBody_refused (hq : q.ring = .ctx c) (hn : n ≠ 0) (ho : s.obj? c base = some o) (hb : o.broken = none) :
    (o.size < off.toNat + n.toNat → memReadBody base off a n s q = .status s stBadField) ∧
    (off.toNat + n.toNat ≤ o.size → s.memWaits o = true → memReadBody base off a n s q = .waits) := by
  have hbody : memReadBody base off a n s q = _ := (if_neg hn).trans (withObj_some _ hq ho hb)
  refine ⟨fun hlt => hbody.trans (if_pos hlt), fun hle hw => hbody.trans ?_⟩
  rw [if_neg (Nat.not_lt.mpr hle), if_pos hw]

end

section
variable {s : State} {q : Req} {c : CtxNo} {src srcOff dst dstOff : BitVec 42} {n : BitVec 32} {a b : Obj}

/-- MEM.COPY between ranges that lie in their objects, up to the first poisoned line of the source if there is one. -/
theorem memCopyBody_copies (hq : q.ring = .ctx c) (hn : n ≠ 0) (ha : s.obj? c src = some a) (hab : a.broken = none)
    (hd : s.obj? c dst = some b) (hdb : b.broken = none) (hk : b.desc.kind ≠ kindWeights)
    (hle : srcOff.toNat + n.toNat ≤ a.size) (hle' : dstOff.toNat + n.toNat ≤ b.size) (hw : s.memWaits a = false)
    (hw' : s.memWaits b = false) :
    let t := s.hostMeets a srcOff.toNat n.toNat true
    (t.objPoison a srcOff.toNat n.toNat = none → memCopyBody src srcOff dst dstOff n s q = .status ((((t.writeObj b
      dstOff.toNat (t.readObj a srcOff.toNat n.toNat)).hostMeets b dstOff.toNat n.toNat false).countTiers a srcOff.toNat
        n.toNat false).countTiers b dstOff.toNat n.toNat true) stOk) ∧
    (∀ e, t.objPoison a srcOff.toNat n.toNat = some e → memCopyBody src srcOff dst dstOff n s q = .status ((((t.writeObj b
      dstOff.toNat (t.readObj a srcOff.toNat (e - srcOff.toNat))).hostMeets b dstOff.toNat (e - srcOff.toNat)
        false).countTiers a srcOff.toNat (e - srcOff.toNat) false).countTiers b dstOff.toNat (e - srcOff.toNat) true)
          stPoison) := by
  have hbody : memCopyBody src srcOff dst dstOff n s q = _ :=
    (if_neg hn).trans ((withObj_some _ hq ha hab).trans (withObj_some _ hq hd hdb))
  rw [if_neg hk, if_neg (by omega), if_neg (by simp [hw, hw'])] at hbody
  dsimp only at hbody
  refine ⟨fun hp => ?_, fun e hp => ?_⟩
  · rw [hbody, hp]; rfl
  · rw [hbody, hp]; rfl

/-- MEM.COPY to a weight object or beyond an object, and between objects of which one is in use. -/
theorem memCopyBody_refused (hq : q.ring = .ctx c) (hn : n ≠ 0) (ha : s.obj? c src = some a) (hab : a.broken = none)
    (hd : s.obj? c dst = some b) (hdb : b.broken = none) :
    ((b.desc.kind = kindWeights ∨ a.size < srcOff.toNat + n.toNat ∨ b.size < dstOff.toNat + n.toNat) →
      memCopyBody src srcOff dst dstOff n s q = .status s stBadField) ∧
    (b.desc.kind ≠ kindWeights → srcOff.toNat + n.toNat ≤ a.size → dstOff.toNat + n.toNat ≤ b.size →
      (s.memWaits a || s.memWaits b) = true → memCopyBody src srcOff dst dstOff n s q = .waits) := by
  have hbody : memCopyBody src srcOff dst dstOff n s q = _ :=
    (if_neg hn).trans ((withObj_some _ hq ha hab).trans (withObj_some _ hq hd hdb))
  refine ⟨fun hbad => hbody.trans ?_, fun hk hle hle' hw => hbody.trans ?_⟩
  · by_cases hk : b.desc.kind = kindWeights
    · rw [if_pos hk]
    · rw [if_neg hk, if_pos (hbad.resolve_left hk)]
  · rw [if_neg hk, if_neg (by omega), if_pos hw]

end

/-! ### The rows -/

/-- A MEM command of no bytes. -/
theorem mem_empty {s : State} {q : Req} {x y z w : BitVec 42} {a : BitVec 64} {pat : BitVec 32} {i : Instr}
    (hi : i ∈ ([.memWrite q x y a 0, .memRead q x y a 0, .memCopy q x y z w 0, .memFill q x y pat 0] : List Instr))
    (hr : Runnable i q s) : exec i s = .next ((s.start q).finish q stOkEmpty 0 0) := by
  simp only [List.mem_cons, List.not_mem_nil, or_false] at hi
  obtain rfl | rfl | rfl | rfl := hi
  · exact exec_status rfl hr (if_pos rfl)
  · exact exec_status rfl hr (if_pos rfl)
  · exact exec_status rfl hr (if_pos rfl)
  · exact exec_status rfl hr (if_pos rfl)

section
variable {s : State} {q : Req} {c : CtxNo} {x off y yOff : BitVec 42} {a : BitVec 64} {pat n : BitVec 32} {i : Instr}

/-- A MEM command whose first object does not exist or is out of reach. -/
theorem mem_unreached (hq : q.ring = .ctx c) (hn : n ≠ 0)
    (hi : i ∈ ([.memWrite q x off a n, .memRead q x off a n, .memFill q x off pat n, .memCopy q x off y yOff n] : List Instr))
    (hr : Runnable i q s) :
    (s.obj? c x = none → exec i s = .next ((s.start q).finish q stNoObject 0 0)) ∧
    (∀ o, s.obj? c x = some o → o.broken.isSome → exec i s = .next ((s.start q).finish q stPoison 0 0)) := by
  simp only [List.mem_cons, List.not_mem_nil, or_false] at hi
  rw [← obj?_start s q]
  obtain rfl | rfl | rfl | rfl := hi
  · exact ⟨fun ho => exec_status rfl hr ((if_neg hn).trans (withObj_none _ hq ho)),
      fun o ho hb => exec_status rfl hr ((if_neg hn).trans (withObj_broken _ hq ho hb))⟩
  · exact ⟨fun ho => exec_status rfl hr ((if_neg hn).trans (withObj_none _ hq ho)),
      fun o ho hb => exec_status rfl hr ((if_neg hn).trans (withObj_broken _ hq ho hb))⟩
  · exact ⟨fun ho => exec_status rfl hr ((if_neg hn).trans (withObj_none _ hq ho)),
      fun o ho hb => exec_status rfl hr ((if_neg hn).trans (withObj_broken _ hq ho hb))⟩
  · exact ⟨fun ho => exec_status rfl hr ((if_neg hn).trans (withObj_none _ hq ho)),
      fun o ho hb => exec_status rfl hr ((if_neg hn).trans (withObj_broken _ hq ho hb))⟩

/-- A MEM command beyond its one object, and on one in use. -/
theorem mem_refused {o : Obj} (hq : q.ring = .ctx c) (hn : n ≠ 0) (ho : s.obj? c x = some o) (hb : o.broken = none)
    (hi : i ∈ ([.memWrite q x off a n, .memRead q x off a n, .memFill q x off pat n] : List Instr)) (hr : Runnable i q s) :
    (o.size < off.toNat + n.toNat → exec i s = .next ((s.start q).finish q stBadField 0 0)) ∧
    (off.toNat + n.toNat ≤ o.size → s.memWaits o = true → o.desc.kind ≠ kindWeights → exec i s = .next s) := by
  simp only [List.mem_cons, List.not_mem_nil, or_false] at hi
  have ho' : (s.start q).obj? c x = some o := ho
  obtain rfl | rfl | rfl := hi
  · refine ⟨fun hlt => exec_status rfl hr ((memWriteBody_some hq hn ho' hb).trans ?_),
      fun hle hw hk => exec_waits rfl hr ((memWriteBody_some hq hn ho' hb).trans ?_)⟩
    · rw [if_pos hlt, ite_self]
    · rw [if_neg hk, if_neg (Nat.not_lt.mpr hle)]
      exact if_pos hw
  · obtain ⟨hbad, hwait⟩ := memReadBody_refused (a := a) (off := off) hq hn ho' hb
    exact ⟨fun hlt => exec_status rfl hr (hbad hlt), fun hle hw _ => exec_waits rfl hr (hwait hle hw)⟩
  · refine ⟨fun hlt => exec_status rfl hr ((memFillBody_some hq hn ho' hb).trans ?_),
      fun hle hw hk => exec_waits rfl hr ((memFillBody_some hq hn ho' hb).trans ?_)⟩
    · rw [if_pos hlt, ite_self]
    · rw [if_neg hk, if_neg (Nat.not_lt.mpr hle)]
      exact if_pos hw

/-- A weight object is not written (11 R268). -/
theorem mem_weights {o : Obj} (hq : q.ring = .ctx c) (hn : n ≠ 0) (ho : s.obj? c x = some o) (hb : o.broken = none)
    (hi : i ∈ ([.memWrite q x off a n, .memFill q x off pat n] : List Instr)) (hr : Runnable i q s)
    (hk : o.desc.kind = kindWeights) : exec i s = .next ((s.start q).finish q stBadField 0 0) := by
  simp only [List.mem_cons, List.not_mem_nil, or_false] at hi
  have ho' : (s.start q).obj? c x = some o := ho
  obtain rfl | rfl := hi
  · exact exec_status rfl hr ((memWriteBody_some hq hn ho' hb).trans (if_pos hk))
  · exact exec_status rfl hr ((memFillBody_some hq hn ho' hb).trans (if_pos hk))

/-- MEM.COPY by what its destination is. -/
theorem memCopy_refused {o : Obj} (hq : q.ring = .ctx c) (hn : n ≠ 0) (ho : s.obj? c x = some o) (hb : o.broken = none)
    (hr : Runnable (.memCopy q x off y yOff n) q s) :
    (s.obj? c y = none → exec (.memCopy q x off y yOff n) s = .next ((s.start q).finish q stNoObject 0 0)) ∧
    (∀ d, s.obj? c y = some d →
      (d.broken.isSome → exec (.memCopy q x off y yOff n) s = .next ((s.start q).finish q stPoison 0 0)) ∧
      (d.broken = none → (d.desc.kind = kindWeights ∨ o.size < off.toNat + n.toNat ∨ d.size < yOff.toNat + n.toNat) →
        exec (.memCopy q x off y yOff n) s = .next ((s.start q).finish q stBadField 0 0)) ∧
      (d.broken = none → d.desc.kind ≠ kindWeights → off.toNat + n.toNat ≤ o.size → yOff.toNat + n.toNat ≤ d.size →
        (s.memWaits o || s.memWaits d) = true → exec (.memCopy q x off y yOff n) s = .next s)) := by
  have ho' : (s.start q).obj? c x = some o := ho
  rw [← obj?_start s q]
  refine ⟨fun hd => exec_status rfl hr ((if_neg hn).trans ((withObj_some _ hq ho' hb).trans (withObj_none _ hq hd))),
    fun d hd => ⟨fun hdb => exec_status rfl hr ((if_neg hn).trans ((withObj_some _ hq ho' hb).trans
      (withObj_broken _ hq hd hdb))), fun hdb hbad => exec_status rfl hr ?_, fun hdb hk hle hle' hw =>
        exec_waits rfl hr ?_⟩⟩
  · exact (memCopyBody_refused hq hn ho' hb hd hdb).1 hbad
  · exact (memCopyBody_refused hq hn ho' hb hd hdb).2 hk hle hle' hw

end

/-- Settles O13: what each MEM command does on objects that are free, and where it stops short. -/
theorem memoryCommands : Obligations.MemoryCommands := by
  unfold Obligations.MemoryCommands
  refine ⟨⟨fun s q c base off a n o hr hq hn ho hb hk hle hw hup => exec_status rfl hr ?_,
      fun s q c base off a n o hr hq hn ho hb hle hw => fun hp => exec_status rfl hr ?_,
      fun s q c src srcOff dst dstOff n a b hr hq hn ha hab hd hdb hk hle hle' hw hw' => fun hp => exec_status rfl hr ?_,
      fun s q c base off pat n o hr hq hn ho hb hk hle hw => exec_status rfl hr ?_,
      fun s q x y z w a pat i hi hr => mem_empty hi hr⟩,
    fun s q c x off y yOff a pat n hq hn => ⟨fun i hi hr => mem_unreached hq hn hi hr, fun o ho hb =>
      ⟨fun i hi hr => mem_refused hq hn ho hb hi hr, fun i hi hr hk => mem_weights hq hn ho hb hi hr hk,
        memCopy_refused hq hn ho hb⟩⟩,
    fun s q c base off a n o hr hq hn ho hb hk hle hw hup => exec_status rfl hr ?_,
    fun s q c base off a n o b hr hq hn ho hb hle hw => fun hp => exec_status rfl hr ?_,
    fun s q c src srcOff dst dstOff n a b e hr hq hn ha hab hd hdb hk hle hle' hw hw' => fun hp => exec_status rfl hr ?_⟩
  · rw [memWriteBody_some (s := s.start q) hq hn ho hb, if_neg hk, if_neg (Nat.not_lt.mpr hle), if_neg (by simp [hw]),
      if_neg (by simp [hup]), readHostOf_start]
  · exact (memReadBody_reads (s := s.start q) hq hn ho hb hle hw).1 hp
  · exact (memCopyBody_copies (s := s.start q) hq hn ha hab hd hdb hk hle hle' hw hw').1 hp
  · rw [memFillBody_some (s := s.start q) hq hn ho hb, if_neg hk, if_neg (Nat.not_lt.mpr hle), if_neg (by simp [hw])]
  · rw [memWriteBody_some (s := s.start q) hq hn ho hb, if_neg hk, if_neg (Nat.not_lt.mpr hle), if_neg (by simp [hw]),
      if_pos (by simp [hup])]
  · exact (memReadBody_reads (s := s.start q) hq hn ho hb hle hw).2 b hp
  · exact (memCopyBody_copies (s := s.start q) hq hn ha hab hd hdb hk hle hle' hw hw').2 e hp

end Sys2Proof.Machine
end

section
/-! SUPPORT and the settlement of O17, O18 and O22: PTN.BIND, the configuration of partitions and the device, and commits
(12 R313 to R316, 14 R352, 18 R453). -/

namespace Sys2Proof.Machine

/-! ### PTN.BIND -/

/-- Whether partition p can be bound by a token: orphaned, with that token, and not being destroyed (18 R453). -/
def State.bindable (s : State) (token : BitVec 64) (p : Nat) : Bool :=
  ((s.ptn? p).map fun x => x.token == token && x.orphanedAt.isSome && !x.destroying).getD false

theorem bindable_iff {s : State} {token : BitVec 64} {p : Nat} :
    s.bindable token p = true ↔
      ∃ x, s.ptn? p = some x ∧ x.token = token ∧ x.orphanedAt.isSome = true ∧ x.destroying = false := by
  cases h : s.ptn? p <;> simp [State.bindable, h, and_assoc]

/-- A search over the existing partitions for a bindable one is a search over the eight numbers. -/
theorem find?_ptnNos_bindable (s : State) (token : BitVec 64) :
    s.ptnNos.find? (s.bindable token) = (List.range 8).find? (s.bindable token) := by
  rw [State.ptnNos, List.find?_filter]
  congr 1
  funext p
  cases h : s.ptn? p <;> simp [State.bindable, h, beq_eq_decide]

theorem find?_bindable_none {s : State} {token : BitVec 64}
    (h : ∀ p < 8, ∀ x, s.ptn? p = some x → ¬(x.token = token ∧ x.orphanedAt.isSome ∧ x.destroying = false)) :
    s.ptnNos.find? (s.bindable token) = none := by
  rw [find?_ptnNos_bindable, List.find?_eq_none]
  intro p hp hb
  obtain ⟨x, hx, hfit⟩ := bindable_iff.mp hb
  exact h p (List.mem_range.mp hp) x hx hfit

theorem find?_bindable_some {s : State} {token : BitVec 64} {p : Nat} {x : Partition} (hp : p < 8)
    (hx : s.ptn? p = some x) (ht : x.token = token) (ho : x.orphanedAt.isSome) (hd : x.destroying = false)
    (h : ∀ r < p, ∀ y, s.ptn? r = some y → ¬(y.token = token ∧ y.orphanedAt.isSome ∧ y.destroying = false)) :
    s.ptnNos.find? (s.bindable token) = some p := by
  rw [find?_ptnNos_bindable, List.find?_range_eq_some]
  refine ⟨bindable_iff.mpr ⟨x, hx, ht, ho, hd⟩, List.mem_range.mpr hp, fun r hr => ?_⟩
  rw [Bool.not_eq_true', Bool.eq_false_iff]
  intro hb
  obtain ⟨y, hy, hfit⟩ := bindable_iff.mp hb
  exact h r hr y hy hfit

/-- The body of PTN.BIND on a port that is not barred, where no partition can be bound. -/
theorem ptnBindBody_none {s : State} {q : Req} {h : Fin 2} {token : BitVec 64} (hq : q.ring = .host h)
    (hb : bindBarred s.now (s.host h).badBinds = false) (hn : s.ptnNos.find? (s.bindable token) = none) :
    ptnBindBody token s q = .status (s.modHost h fun x =>
      { x with badBinds := Lists.lastN 16 (x.badBinds ++ [s.now]) }) stNoObject := by
  unfold State.bindable at hn
  simp [ptnBindBody, hq, hb, hn]

/-- The body of PTN.BIND on a port that is not barred, of the partition that can be bound. -/
theorem ptnBindBody_some {s : State} {q : Req} {h : Fin 2} {token : BitVec 64} {p : Nat} (hq : q.ring = .host h)
    (hb : bindBarred s.now (s.host h).badBinds = false) (hn : s.ptnNos.find? (s.bindable token) = some p) :
    (s.rng.failing = true → ptnBindBody token s q = .waits) ∧
    (s.rng.failing = false →
      let new := tokenOf (Config.draw s.draws)
      let t := s.takeDraw.2.modPtn p fun x => { x with
        owner := some h, orphanedAt := none, token := new, binds := BitVec.ofNat 16 (Bits.satAdd 16 x.binds.toNat 1) }
      ptnBindBody token s q = .done (((t.ctxsOf p).foldl (fun st c => st.mirrorAll c) t).event (.ctx (mgmt p)) 0x0090 4 p
        h.val) stOk p new.toNat) := by
  unfold State.bindable at hn
  refine ⟨fun hf => ?_, fun hf => ?_⟩
  · simp [ptnBindBody, hq, hb, hn, hf]
  · simp [ptnBindBody, hq, hb, hn, hf, State.takeDraw]

/-- Settles O17: a port that is barred, one whose token names no orphan, and one that binds. -/
theorem partitionBind : Obligations.PartitionBind := by
  unfold Obligations.PartitionBind
  refine ⟨fun s q h token hr hq hb => exec_status rfl hr ?_, fun s q h token hr hq hb hnone => exec_status rfl hr ?_,
    fun s q h token p x hr hq hb hp hx ht ho hd hmin => ?_⟩
  · simp [ptnBindBody, hq, hb]
  · exact ptnBindBody_none (s := s.start q) hq hb (find?_bindable_none hnone)
  · obtain ⟨hwait, hbind⟩ := ptnBindBody_some (s := s.start q) hq hb (find?_bindable_some hp hx ht ho hd hmin)
    exact ⟨fun hf => exec_waits rfl hr (hwait hf), fun hf => exec_done rfl hr (hbind hf)⟩

/-! ### PTN.QUERY, PTN.STAGE, PTN.COMMIT and DEV.COMMIT -/

@[simp] theorem named_start (s : State) (q p : Req) (n : BitVec 3) : (s.start q).named p n = s.named p n := rfl

theorem withPtn_none {q : Req} {p : BitVec 3} {s : State} (f : Nat → Partition → Ran) (hn : s.named q p = none) :
    withPtn q p s f = .status s stNoObject := by
  simp only [withPtn, hn]

/-- The commands that name a partition which is not their issuer's. -/
theorem ptn_noObject {s : State} {q : Req} {p : BitVec 3} {off : BitVec 20} {region : BitVec 4} {v mask : BitVec 64}
    {sel : BitVec 8} {i : Instr} (hn : s.named q p = none) (hm : mask ≠ 0)
    (hi : i ∈ ([.ptnQuery q p, .ptnStage q off region p v mask, .ptnCommit q sel p] : List Instr)) (hr : Runnable i q s) :
    exec i s = .next ((s.start q).finish q stNoObject 0 0) := by
  simp only [List.mem_cons, List.not_mem_nil, or_false] at hi
  obtain rfl | rfl | rfl := hi
  · exact exec_status rfl hr (withPtn_none (s := s.start q) _ hn)
  · exact exec_status rfl hr ((if_neg hm).trans (withPtn_none (s := s.start q) _ hn))
  · exact exec_status rfl hr (withPtn_none (s := s.start q) _ hn)

/-- PTN.STAGE of a partition that its issuer may name, by the register at the offset (12 R313). -/
theorem ptnStage_row {s : State} {q : Req} {off : BitVec 20} {region : BitVec 4} {p : BitVec 3} {v mask : BitVec 64}
    {n : Nat} {x : Partition} (hr : Runnable (.ptnStage q off region p v mask) q s) (hm : mask ≠ 0)
    (hn : s.named q p = some n) (hx : s.ptn? n = some x) :
    (hostOnly q x = true → exec (.ptnStage q off region p v mask) s = .next ((s.start q).finish q stDenied 0 0)) ∧
    (hostOnly q x = false →
      (∀ r, (PReg.all.find? fun r => r.offset n == (region.toNat, off.toNat)) = some r →
        exec (.ptnStage q off region p v mask) s = .next (((s.start q).stagePtn n r v mask).finish q stOk 0 0)) ∧
      ((PReg.all.find? fun r => r.offset n == (region.toNat, off.toNat)) = none →
        let f := DReg.fltPtn (BitVec.ofNat 3 n).toFin
        (f.offset = (region.toNat, off.toNat) →
          exec (.ptnStage q off region p v mask) s = .next (((s.start q).stageDev f v mask).finish q stOk 0 0)) ∧
        (f.offset ≠ (region.toNat, off.toNat) →
          exec (.ptnStage q off region p v mask) s = .next ((s.start q).finish q stBadField 0 0)))) := by
  have hbody : ptnStageBody off region p v mask (s.start q) q = _ :=
    (if_neg hm).trans (withPtn_named (s := s.start q) _ hn hx)
  refine ⟨fun ho => exec_status rfl hr (hbody.trans (if_pos ho)), fun ho => ?_⟩
  rw [if_neg (by simp [ho])] at hbody
  refine ⟨fun r hf => exec_status rfl hr ?_, fun hf => ⟨fun hoff => exec_status rfl hr ?_,
    fun hoff => exec_status rfl hr ?_⟩⟩
  · rw [hbody, hf]
  · rw [hbody, hf]; exact if_pos hoff
  · rw [hbody, hf]; exact if_neg hoff

/-- PTN.COMMIT of a partition that its issuer may name (12 R314). -/
theorem ptnCommit_row {s t : State} {q : Req} {sel : BitVec 8} {p : BitVec 3} {n : Nat} {x : Partition}
    (hr : Runnable (.ptnCommit q sel p) q s) (hn : s.named q p = some n) (hx : s.ptn? n = some x) :
    (hostOnly q x = true → exec (.ptnCommit q sel p) s = .next ((s.start q).finish q stDenied 0 0)) ∧
    (hostOnly q x = false →
      ((s.start q).commitPtn n sel.toNat (some q) = (t, none) → exec (.ptnCommit q sel p) s = .next t) ∧
      (∀ st fieldNo, (s.start q).commitPtn n sel.toNat (some q) = (t, some (st, fieldNo)) →
        exec (.ptnCommit q sel p) s = .next (t.finish q st fieldNo 0))) := by
  have hbody : ptnCommitBody sel p (s.start q) q = _ := withPtn_named (s := s.start q) _ hn hx
  refine ⟨fun ho => exec_status rfl hr (hbody.trans (if_pos ho)), fun ho => ?_⟩
  rw [if_neg (by simp [ho])] at hbody
  exact ⟨fun hc => exec_goesOn rfl hr (by rw [hbody, hc]), fun st f hc => exec_done rfl hr (by rw [hbody, hc])⟩

/-- Settles O18, row by row. -/
theorem partitionConfig : Obligations.PartitionConfig := by
  unfold Obligations.PartitionConfig
  refine ⟨fun s q p off region v mask sel hn hm i hi hr => ptn_noObject hn hm hi hr,
    fun s q p n x hr hn hx => exec_done rfl hr (withPtn_named (s := s.start q) _ hn hx),
    fun s q off region p v hr => exec_status rfl hr (if_pos rfl),
    fun s q off region p v mask n x hr hm hn hx => ptnStage_row hr hm hn hx,
    fun s t q sel p n x hr hn hx => ptnCommit_row hr hn hx,
    fun s t q sel st fieldNo hr hc => exec_done rfl hr ?_⟩
  simp only [devCommitBody, hc]

/-! ### Commits -/

/-- The lowest field that fails is the first conflict (12 R314). -/
theorem firstConflict_of_least {cs : List (Nat × Bool)} {f : Nat} (hf : (f, false) ∈ cs)
    (hmin : ∀ k ∈ cs, k.2 = false → f ≤ k.1) : firstConflict cs = some f := by
  refine List.min?_eq_some_iff.mpr ⟨List.mem_map.mpr ⟨_, List.mem_filter.mpr ⟨hf, rfl⟩, rfl⟩, fun b hb => ?_⟩
  obtain ⟨k, hk, rfl⟩ := List.mem_map.mp hb
  obtain ⟨hk, hk2⟩ := List.mem_filter.mp hk
  exact hmin k hk (by simpa using hk2)

/-- With every check met there is no conflict. -/
theorem firstConflict_none {cs : List (Nat × Bool)} (h : ∀ k ∈ cs, k.2 = true) : firstConflict cs = none := by
  have : cs.filter (fun c => !c.2) = [] := List.filter_eq_nil_iff.mpr fun k hk => by simp [h k hk]
  rw [firstConflict, this]
  rfl

/-- A commit without conflict takes its snapshot and is pending. -/
theorem commitPtn_passes {s : State} {p sel : Nat} {x : Partition} (cmd : Option Req) (hx : s.ptn? p = some x)
    (hsel : sel ≠ 0) (hf : firstConflict (s.ptnChecks p x sel) = none) :
    s.commitPtn p sel cmd = (s.modPtn p fun y => { y with
      commitStat := y.commitStat.next 1 stOk 0
      commits := y.commits ++ [⟨BitVec.ofNat 8 sel, x.staged, cmd, x.collectedAll⟩] }, none) := by
  simp only [State.commitPtn, hx, if_neg hsel, hf]

/-- A device-scope register read after a write of another or of the same. -/
theorem DReg.get_put (k j : DReg) (v : BitVec 64) (x : DevRegs) : k.get (j.put v x) = if j = k then v else k.get x := by
  cases j with
  | fltPtn i =>
    cases k with
    | fltPtn j =>
      by_cases h : i = j
      · subst h; simp [DReg.get, DReg.put]
      · have : (i : Nat) ≠ j := fun e => h (Fin.ext e)
        simp [DReg.get, DReg.put, h, this]
    | _ => rfl
  | _ => cases k <;> rfl

/-- Registers written one after another from a source: each of them reads the source, every other what it read. -/
theorem DReg.get_foldl_put (k : DReg) (src x : DevRegs) (ks : List DReg) :
    k.get (ks.foldl (fun r j => j.put (j.get src) r) x) = if ks.contains k then k.get src else k.get x := by
  induction ks generalizing x with
  | nil => rfl
  | cons j js ih =>
    rw [List.foldl_cons, ih, DReg.get_put]
    by_cases hj : j = k
    · subst hj; simp
    · simp [hj, Ne.symm hj]

theorem commitDev_of_ne_nil {s : State} {regs : List DReg} (hr : regs ≠ []) :
    (∀ f, firstConflict (s.devChecks regs) = some f →
      s.commitDev regs = ({ s with devCommit := s.devCommit.next 3 stConflict f }, stConflict, f)) ∧
    (firstConflict (s.devChecks regs) = none → s.commitDev regs = ({ s with
      live := regs.foldl (fun r k => k.put (k.get s.staged) r) s.live, devCommit := s.devCommit.next 2 stOk 0 }, stOk, 0)) := by
  have hne : ¬regs.isEmpty = true := by simpa using hr
  unfold State.commitDev
  rw [if_neg hne]
  exact ⟨fun f hf => by rw [hf], fun hf => by rw [hf]⟩

/-- Settles O22, from the first conflict and from what registers read after a commit. -/
theorem commits : Obligations.Commits := by
  unfold Obligations.Commits
  refine ⟨fun s p sel cmd x hx _ => ⟨fun h0 => ?_, fun hsel hall => commitPtn_passes cmd hx hsel (firstConflict_none hall),
      fun f hsel hf hmin => commitPtn_conflict cmd hx hsel (firstConflict_of_least hf hmin)⟩, fun s => rfl,
    fun s regs hr => ⟨fun f hf hmin => (commitDev_of_ne_nil hr).1 f (firstConflict_of_least hf hmin), fun hall =>
      ⟨_, (commitDev_of_ne_nil hr).2 (firstConflict_none hall), fun r _ => DReg.get_foldl_put r _ _ _⟩⟩⟩
  simp only [State.commitPtn, hx, if_pos h0]

end Sys2Proof.Machine
end

section
/-! SUPPORT and the settlement of O19: the CTX commands (01 R22, R23, R26, 07 R175, 14 R352, 16 R406). -/

namespace Sys2Proof.Machine

/-! ### Names of contexts -/

/-- The context that a lookup finds carries the number it was looked up by. -/
theorem ctx?_no {s : State} {c : CtxNo} {x : Context} (h : s.ctx? c = some x) : x.no = c := by
  simpa using List.find?_some h

/-- A change of a context that keeps its number is what the number names afterwards. -/
theorem ctx?_modCtx_self {s : State} {c : CtxNo} {x : Context} {f : Context → Context} (hx : s.ctx? c = some x)
    (hf : ∀ y, (f y).no = y.no) : (s.modCtx c f).ctx? c = some (f x) := by
  have hfind : s.ctxs.find? (fun y => y.no == c) = some x := hx
  have hno := ctx?_no hx
  simp [State.ctx?, Lists.modifyIf, List.find?_map, Function.comp_def, apply_ite Context.no, hf, hfind, hno]

theorem withContext_some {q : Req} {own c : CtxNo} {s : State} {x : Context} (f : Context → Ran) (hq : q.ring = .ctx own)
    (hp : ptnOf c = ptnOf own) (hx : s.ctx? c = some x) : withContext q c s f = f x := by
  simp [withContext, withCtx_ctx _ _ hq, hp, hx]

theorem withContext_none {q : Req} {own c : CtxNo} {s : State} (f : Context → Ran) (hq : q.ring = .ctx own)
    (h : ptnOf c ≠ ptnOf own ∨ s.ctx? c = none) : withContext q c s f = .status s stNoObject := by
  rcases h with h | h
  · simp [withContext, withCtx_ctx _ _ hq, h]
  · by_cases hp : ptnOf c = ptnOf own <;> simp [withContext, withCtx_ctx _ _ hq, hp, h]

/-! ### CTX.CREATE -/

/-- The lowest local index from 1 that no context of partition p has. -/
def State.freeIndex (s : State) (p : Nat) : Option Nat :=
  (List.range 256).find? fun i => i != 0 && (s.ctx? (BitVec.ofNat 11 (p * 256 + i))).isNone

theorem freeIndex_none {s : State} {p : Nat}
    (h : ∀ j, 1 ≤ j → j < 256 → (s.ctx? (BitVec.ofNat 11 (p * 256 + j))).isSome) : s.freeIndex p = none := by
  rw [State.freeIndex, List.find?_eq_none]
  intro j hj hb
  simp only [Bool.and_eq_true, bne_iff_ne, Option.isNone_iff_eq_none] at hb
  have := h j (by omega) (List.mem_range.mp hj)
  simp [hb.2] at this

theorem freeIndex_some {s : State} {p i : Nat} (h1 : 1 ≤ i) (hi : i < 256)
    (hn : s.ctx? (BitVec.ofNat 11 (p * 256 + i)) = none)
    (h : ∀ j, 1 ≤ j → j < i → (s.ctx? (BitVec.ofNat 11 (p * 256 + j))).isSome) : s.freeIndex p = some i := by
  rw [State.freeIndex, List.find?_range_eq_some]
  refine ⟨by simp [hn]; omega, List.mem_range.mpr hi, fun j hj => ?_⟩
  by_cases h0 : j = 0
  · simp [h0]
  · have := h j (by omega) hj
    simp [this]

/-- CTX.CREATE with an index free, by what the creation answers. -/
theorem ctxCreateBody_some {s : State} {q : Req} {own : CtxNo} {i : Nat} (n : BitVec 17) (m : Bool) (a : BitVec 64)
    (v : BitVec 16) (hq : q.ring = .ctx own) (hi : s.freeIndex (ptnOf own) = some i) :
    let c : CtxNo := BitVec.ofNat 11 (ptnOf own * 256 + i)
    (∀ t base, s.createCtx (ptnOf own) c n.toNat (if m then some a else none) v = (t, .ok base) →
      ctxCreateBody n m a v s q = .done t stOk c.toNat base.toNat) ∧
    (∀ t st, s.createCtx (ptnOf own) c n.toNat (if m then some a else none) v = (t, .error st) →
      ctxCreateBody n m a v s q = .status t st) := by
  have hbody : ctxCreateBody n m a v s q = _ := withCtx_ctx _ _ hq
  unfold State.freeIndex at hi
  dsimp only at hbody
  rw [hi] at hbody
  dsimp only at hbody
  exact ⟨fun t base h => by rw [hbody, h], fun t st h => by rw [hbody, h]⟩

/-! ### The rows on a context -/

/-- CTX.LIMIT: the limits stand, and are a cut where the charge does not fit them (07 R175). -/
theorem ctxLimitBody_some {s : State} {q : Req} {own c : CtxNo} {x : Context} (t0 : BitVec 12) (t1 : BitVec 23)
    (hq : q.ring = .ctx own) (hp : ptnOf c = ptnOf own) (hx : s.ctx? c = some x) :
    let u := s.modCtx c fun x => { x with limT0 := some t0.toNat, limT1 := some t1.toNat }
    let v := if u.aboveLimit c then u.cutContext c else u.clearContext { x with limT0 := some t0.toNat, limT1 := some t1.toNat }
    ctxLimitBody c t0 t1 s q = .status (v.quotaClear (ptnOf c)) stOk := by
  have hbody : ctxLimitBody c t0 t1 s q = _ := withContext_some _ hq hp hx
  dsimp only at hbody
  rw [ctx?_modCtx_self (f := fun x => { x with limT0 := some t0.toNat, limT1 := some t1.toNat }) hx fun _ => rfl]
    at hbody
  exact hbody

/-- CTX.SAMPLE of a sample of the object's partition (16 R406). -/
theorem ctxSample_row {s : State} {q : Req} {own c : CtxNo} {number : BitVec 16} {base off : BitVec 42} {n : BitVec 32}
    {o : Obj} (hr : Runnable (.ctxSample q c number base off n) q s) (hq : q.ring = .ctx own) (hn : n ≠ 0)
    (ho : s.obj? own base = some o) (hb : o.broken = none) :
    (ptnOf c ≠ ptnOf o.ctx ∨ s.sample? (ptnOf c) number = none →
      exec (.ctxSample q c number base off n) s = .next ((s.start q).finish q stNoObject 0 0)) ∧
    (∀ bs, ptnOf c = ptnOf o.ctx → s.sample? (ptnOf c) number = some bs →
      (o.desc.kind ≠ kindData ∨ o.size < off.toNat + n.toNat →
        exec (.ctxSample q c number base off n) s = .next ((s.start q).finish q stBadField 0 0)) ∧
      (o.desc.kind = kindData → off.toNat + n.toNat ≤ o.size →
        (s.memWaits o = true → exec (.ctxSample q c number base off n) s = .next s) ∧
        (s.memWaits o = false → exec (.ctxSample q c number base off n) s = .next ((((s.start q).writeObj o off.toNat
          (bs.take n.toNat)).countTiers o off.toNat (bs.take n.toNat).length true).finish q stOk bs.length 0)))) := by
  have hbody : ctxSampleBody c number base off n (s.start q) q = _ :=
    (if_neg hn).trans (withObj_some (s := s.start q) _ hq ho hb)
  rw [← sample?_start s q]
  refine ⟨fun hno => exec_status rfl hr ?_, fun bs hp hs => ⟨fun hbad => exec_status rfl hr ?_, fun hk hle =>
    ⟨fun hw => exec_waits rfl hr ?_, fun hw => exec_done rfl hr ?_⟩⟩⟩
  · have : (if ptnOf c = ptnOf o.ctx then (s.start q).sample? (ptnOf c) number else none) = none :=
      ite_eq_right_iff.mpr fun hp => hno.resolve_left (not_not_intro hp)
    rw [hbody, this]
  · rw [hbody, if_pos hp, hs]
    by_cases hk : o.desc.kind = kindData
    · exact (if_neg (by simp [hk])).trans (if_pos (hbad.resolve_left (not_not_intro hk)))
    · exact if_pos (by simpa using hk)
  · rw [hbody, if_pos hp, hs]
    exact (if_neg (by simp [hk])).trans ((if_neg (Nat.not_lt.mpr hle)).trans (if_pos hw))
  · rw [hbody, if_pos hp, hs]
    exact (if_neg (by simp [hk])).trans ((if_neg (Nat.not_lt.mpr hle)).trans (if_neg (by simp [hw])))

/-- Settles O19, row by row. -/
theorem contexts : Obligations.Contexts := by
  unfold Obligations.Contexts
  refine ⟨⟨fun s q own n m a v hr hq hall => exec_status rfl hr ?_, fun s q own n m a v i hr hq h1 hi hn hmin => ?_,
      fun s q own c x hr hq hp hx => ⟨fun hm => exec_status rfl hr ?_, fun hm => exec_status rfl hr ?_⟩,
      fun s q own c t0 t1 hq hno i hi hr => ?_⟩,
    fun s q own c x t0 t1 hr hq hp hx => exec_status rfl hr (ctxLimitBody_some (s := s.start q) t0 t1 hq hp hx),
    fun s q own c x hr hq hor hp hx => exec_done rfl hr ?_, fun s q own c hr hq hor => exec_status rfl hr ?_,
    fun s q c number base off hr => exec_status rfl hr (if_pos rfl),
    fun s q own c number base off n o hr hq hn ho hb => ctxSample_row hr hq hn ho hb⟩
  · have hbody : ctxCreateBody n m a v (s.start q) q = _ := withCtx_ctx _ _ hq
    have hi := freeIndex_none (s := s.start q) hall
    unfold State.freeIndex at hi
    dsimp only at hbody
    rw [hbody, hi]
  · obtain ⟨hok, herr⟩ := ctxCreateBody_some (s := s.start q) n m a v hq (freeIndex_some h1 hi hn hmin)
    rcases hc : (s.start q).createCtx (ptnOf own) (BitVec.ofNat 11 (ptnOf own * 256 + i)) n.toNat
      (if m then some a else none) v with ⟨t, st | base⟩
    · exact exec_status rfl hr (herr t st hc)
    · exact exec_done rfl hr (hok t base hc)
  · exact (withContext_some (s := s.start q) _ hq hp hx).trans (if_pos hm)
  · exact (withContext_some (s := s.start q) _ hq hp hx).trans (if_neg (by simp [hm]))
  · simp only [List.mem_cons, List.not_mem_nil, or_false] at hi
    obtain rfl | rfl := hi
    · exact exec_status rfl hr (withContext_none (s := s.start q) _ hq hno)
    · exact exec_status rfl hr (withContext_none (s := s.start q) _ hq hno)
  · exact (withCtx_ctx _ _ hq).trans ((if_neg (by rcases hor with h | h <;> simp [h])).trans
      (withContext_some (s := s.start q) _ hq hp hx))
  · have hbody : ctxQueryBody c (s.start q) q = _ := withCtx_ctx _ _ hq
    by_cases hown : (c != own && !isMgmt own) = true
    · exact hbody.trans (if_pos hown)
    · refine hbody.trans ((if_neg hown).trans (withContext_none (s := s.start q) _ hq (hor.resolve_left ?_)))
      rintro ⟨h1, h2⟩
      exact hown (by simp [h1, h2])

end Sys2Proof.Machine
end

section
/-! SUPPORT and the settlement of O20, O21 and O23: register writes and reads of a port (18 R457, 21 R496 to R498). -/

namespace Sys2Proof.Machine

/-! ### The writes of a port -/

/-- An aligned write of an attached port arrives once the device has woken. -/
theorem hostWrite_aligned {s : State} {h : Fin 2} {off : Nat} {wide : Bool} (value : Nat) (hup : s.barUp h = true)
    (ha : off % (if wide then 8 else 4) = 0) : hostWrite h off wide value s = s.wake.arrive h off wide value := by
  simp only [hostWrite, ha, hup, bne_self_eq_false, Bool.not_true, Bool.false_eq_true, if_false]

theorem hostWrite_word {s : State} {h : Fin 2} {off : Nat} (value : Nat) (hup : s.barUp h = true) (ha : off % 4 = 0) :
    hostWrite h off false value s = s.wake.arrive32 h off (value % 2 ^ 32) :=
  hostWrite_aligned value hup ha

/-- A write of 64 bits is two of 32 in ascending order. -/
theorem hostWrite_double {s : State} {h : Fin 2} {off : Nat} (v : BitVec 64) (hup : s.barUp h = true) (ha : off % 8 = 0) :
    hostWrite h off true v.toNat s =
      (s.wake.arrive32 h off (v.toNat % 2 ^ 32)).arrive32 h (off + 4) (v.toNat / 2 ^ 32) := by
  have hv : v.toNat / 2 ^ 32 % 2 ^ 32 = v.toNat / 2 ^ 32 := Nat.mod_eq_of_lt (by omega)
  rw [hostWrite_aligned _ hup ha, State.arrive, hv]
  rfl

/-- A write that is not aligned is an unsupported access (21 R497). -/
theorem hostWrite_unaligned {s : State} {h : Fin 2} {off : BitVec 24} {wide : Bool} (value : Nat)
    (ha : off.toNat % (if wide then 8 else 4) ≠ 0) :
    hostWrite h off.toNat wide value s = if s.barUp h then s.modHost h fun x =>
      { x with barCount := BitVec.ofNat 16 (min (x.barCount.toNat + 1) (2 ^ 16 - 1)), barLastOff := off, barLastWr := true }
      else s := by
  rw [hostWrite, if_pos (by simpa using ha), unsupportedAccessEffect, BitVec.ofNat_toNat, BitVec.setWidth_eq]
  cases s.barUp h <;> rfl

/-! ### The register at an offset -/

/-- The staged registers of partitions that hold a 32-bit word at an offset. -/
def stagedHits (off : Nat) : List (Nat × PReg) :=
  (List.range 8).flatMap fun p => (PReg.all.map fun r => (p, r)).filter fun (_, r) =>
    let a := barOffset (r.offset p)
    a ≤ off && off < a + (if r.wide then 8 else 4)

/-- The staged device-scope register that holds a 32-bit word at an offset. -/
def stagedDevAt (off : Nat) : Option DReg :=
  DReg.all.find? fun r => barOffset r.offset ≤ off && off < barOffset r.offset + (if r.wide then 8 else 4)

theorem writeStagedPtn_hit {s : State} {v : View} {off p : Nat} {r : PReg} (x : Nat)
    (h : (stagedHits off).head? = some (p, r)) (ho : off = barOffset (r.offset p)) :
    s.writeStagedPtn v off x =
      some (if s.seesPtn v p then s.stagePtn p r (BitVec.ofNat 64 x) 0xFFFFFFFF#64 else s) := by
  subst ho
  unfold stagedHits at h
  rw [State.writeStagedPtn, h]
  simp

theorem writeStagedPtn_none {s : State} {v : View} {off : Nat} (x : Nat) (h : (stagedHits off).head? = none) :
    s.writeStagedPtn v off x = none := by
  unfold stagedHits at h
  rw [State.writeStagedPtn, h]
  rfl

/-- Whether a view may write a device-scope register (18 Table LNK.3). -/
def State.mayStage (s : State) (v : View) (r : DReg) : Bool :=
  match r with
  | .fltPtn p => s.seesPtn v p.val
  | _ => s.mayWriteDev v

theorem writeStagedDev_hit {s : State} {v : View} {off : Nat} {r : DReg} (x : Nat) (h : stagedDevAt off = some r)
    (ho : off = barOffset r.offset) :
    s.writeStagedDev v off x =
      some (if s.mayStage v r then s.stageDev r (BitVec.ofNat 64 x) 0xFFFFFFFF#64 else s) := by
  subst ho
  unfold stagedDevAt at h
  rw [State.writeStagedDev, h]
  cases r <;> simp [State.mayStage] <;> rfl

theorem writeStagedDev_none {s : State} {v : View} {off : Nat} (x : Nat) (h : stagedDevAt off = none) :
    s.writeStagedDev v off x = none := by
  unfold stagedDevAt at h
  rw [State.writeStagedDev, h]
  rfl

/-- Outside recovery and the doorbells a word of a staged register is written there. -/
theorem write32_of_staged {s t : State} {v : View} {off x : Nat} (hrec : s.recovery = none)
    (hd : ¬(0x200000 ≤ off ∧ off < 0x300000))
    (h : ((s.writeStagedPtn v off x).orElse fun _ => s.writeStagedDev v off x) = some t) : s.write32 v off x = t := by
  have hd' : ¬(0x200000 ≤ off && off < 0x300000) = true := by simpa using hd
  simp only [State.write32, hrec, if_neg hd', h]

/-- Outside recovery, the doorbells and the staged registers a write goes to the partition's block or the device's. -/
theorem write32_of_unstaged {s : State} {v : View} {off x : Nat} (hrec : s.recovery = none)
    (hd : ¬(0x200000 ≤ off ∧ off < 0x300000)) (hp : (stagedHits off).head? = none) (hv : stagedDevAt off = none) :
    s.write32 v off x = if 0x100000 ≤ off && off < 0x180000 then
      s.writeBlock v ((off - 0x100000) / 0x10000) (off % 0x10000) x else s.writeDev v off x := by
  have hd' : ¬(0x200000 ≤ off && off < 0x300000) = true := by simpa using hd
  simp only [State.write32, hrec, if_neg hd', writeStagedPtn_none x hp, writeStagedDev_none x hv, Option.orElse_none]

/-! The register map places every register alone (21 Table MAP.1): looked up at its own offset it is found. -/

theorem stagedHits_offset : ∀ p : Fin 8, ∀ r ∈ PReg.all, (stagedHits (barOffset (r.offset p.val))).head? = some (p.val, r) ∧
    ¬(0x200000 ≤ barOffset (r.offset p.val) ∧ barOffset (r.offset p.val) < 0x300000) := by decide +kernel

theorem stagedDevAt_offset : ∀ r ∈ DReg.all, stagedDevAt (barOffset r.offset) = some r ∧
    (stagedHits (barOffset r.offset)).head? = none ∧
    ¬(0x200000 ≤ barOffset r.offset ∧ barOffset r.offset < 0x300000) := by decide +kernel

theorem unstaged_ptnCommit : ∀ p : Fin 8, stagedDevAt (0x100000 + p.val * 0x10000) = none ∧
    (stagedHits (0x100000 + p.val * 0x10000)).head? = none := by decide +kernel

theorem unstaged_dev : ∀ off ∈ [0x10, 0x800000, 0x300, 0x48, 0x4C], stagedDevAt off = none ∧
    (stagedHits off).head? = none := by decide +kernel

theorem PReg.mem_all (r : PReg) : r ∈ PReg.all := by cases r <;> decide

theorem DReg.mem_all (r : DReg) : r ∈ DReg.all := by
  cases r with
  | fltPtn p => simp [DReg.all]
  | _ => simp [DReg.all]

/-! ### What a 32-bit write does -/

theorem write32_stagedPtn {s : State} {v : View} {p : Nat} {r : PReg} (x : Nat) (hrec : s.recovery = none) (hp : p < 8)
    (hsee : s.seesPtn v p = true) :
    s.write32 v (barOffset (r.offset p)) x = s.stagePtn p r (BitVec.ofNat 64 x) 0xFFFFFFFF#64 := by
  obtain ⟨hhit, hd⟩ := stagedHits_offset ⟨p, hp⟩ r r.mem_all
  refine write32_of_staged hrec hd ?_
  rw [writeStagedPtn_hit x hhit rfl, if_pos hsee]
  rfl

theorem write32_stagedDev {s : State} {v : View} (r : DReg) (x : Nat) (hrec : s.recovery = none) :
    s.write32 v (barOffset r.offset) x =
      if s.mayStage v r then s.stageDev r (BitVec.ofNat 64 x) 0xFFFFFFFF#64 else s := by
  obtain ⟨hhit, hnone, hd⟩ := stagedDevAt_offset r r.mem_all
  refine write32_of_staged hrec hd ?_
  rw [writeStagedPtn_none x hnone, writeStagedDev_hit x hhit rfl]
  rfl

theorem write32_ptnCommit {s : State} {v : View} {p : Nat} (x : Nat) (hrec : s.recovery = none) (hp : p < 8) :
    s.write32 v (0x100000 + p * 0x10000) x = if s.seesPtn v p then (s.commitPtn p (x % 256) none).1 else s := by
  obtain ⟨hdev, hhit⟩ := unstaged_ptnCommit ⟨p, hp⟩
  have hblock : (0x100000 ≤ 0x100000 + p * 0x10000 && 0x100000 + p * 0x10000 < 0x180000) = true := by
    simp only [Bool.and_eq_true, decide_eq_true_eq]; omega
  have hnum : (0x100000 + p * 0x10000 - 0x100000) / 0x10000 = p := by omega
  have hoff : (0x100000 + p * 0x10000) % 0x10000 = 0 := by omega
  rw [write32_of_unstaged hrec (by omega) hhit hdev, if_pos hblock, hnum, hoff, State.writeBlock]
  cases s.seesPtn v p <;> rfl

/-- A register of the device region that is not staged. -/
theorem write32_dev {s : State} {v : View} {off : Nat} (x : Nat) (hrec : s.recovery = none)
    (hoff : off ∈ [0x10, 0x800000, 0x300, 0x48, 0x4C]) : s.write32 v off x = s.writeDev v off x := by
  obtain ⟨hdev, hhit⟩ := unstaged_dev off hoff
  have hout : ¬(0x200000 ≤ off ∧ off < 0x300000) ∧ ¬(0x100000 ≤ off ∧ off < 0x180000) := by
    simp only [List.mem_cons, List.not_mem_nil, or_false] at hoff
    omega
  rw [write32_of_unstaged hrec hout.1 hhit hdev, if_neg (by simpa using hout.2)]

/-- Settles O20: how a write arrives, and what it does by its register. -/
theorem registerStores : Obligations.RegisterStores := by
  unfold Obligations.RegisterStores
  refine ⟨⟨fun s h off v hup ha => ?_, fun s h off v hup ha => ?_, fun s h off wide v ha => ?_, fun s h p v hup => ?_,
      fun s h v hup => exec_effect rfl (hostWrite_double v hup rfl), fun s h off x => ⟨fun hor => ?_, fun hw hn => ?_⟩⟩,
    fun s v p r x hrec hp hsee _ => write32_stagedPtn x hrec hp hsee, fun s v r x hrec hr _ => ?_,
    fun s v p x hrec _ => write32_stagedDev (.fltPtn p) x hrec, fun s v p x hrec hp _ => write32_ptnCommit x hrec hp,
    fun s v x hrec => ⟨write32_dev x hrec (by simp), write32_dev x hrec (by simp), write32_dev x hrec (by simp), ?_,
      write32_dev x hrec (by simp)⟩⟩
  · have hw := hostWrite_word v.toNat hup ha
    exact ⟨exec_effect rfl hw, exec_effect rfl hw⟩
  · have hw := hostWrite_double v hup ha
    exact ⟨exec_effect rfl hw, exec_effect rfl hw⟩
  · have hw := hostWrite_unaligned (s := s) (h := h) v.toNat ha
    exact ⟨exec_effect rfl hw, exec_effect rfl hw⟩
  · have hword : ∀ off, off % 4 = 0 → hostWrite h off false v.toNat s = s.wake.arrive32 h off v.toNat := by
      intro off ha
      rw [hostWrite_word v.toNat hup ha, Nat.mod_eq_of_lt v.isLt]
    exact ⟨exec_effect rfl (hword _ (by omega)), exec_effect rfl (hword _ rfl),
      exec_effect rfl (hword _ rfl), exec_effect rfl (hword _ rfl)⟩
  · exact if_neg (by rcases hor with h | h <;> simp [h])
  · exact if_pos (by simp [hw, hn])
  · rw [write32_stagedDev r x hrec]
    cases r with
    | fltPtn p => exact absurd rfl (hr p)
    | _ => rfl
  · exact write32_dev x hrec (by simp)

/-! ### DEV_FLD_CFG -/

/-- Settles O21: the branches of the write (18 R457). -/
theorem fieldConfig : Obligations.FieldConfig := by
  unfold Obligations.FieldConfig
  intro s v x hne
  have hbase : (BitVec.ofNat 10 x).toNat % 128 = x % 128 := by
    rw [BitVec.toNat_ofNat]; omega
  rw [State.writeFieldCfg]
  simp only [if_neg hne, hbase]
  refine ⟨fun hmay hnos hlo hhi => ?_, fun hor => ?_⟩
  · rw [if_pos (by simp [hmay, hnos, hlo, hhi])]
    exact ⟨rfl, rfl⟩
  · rw [if_neg]
    · exact ⟨rfl, rfl⟩
    · simp only [Bool.and_eq_true, decide_eq_true_eq, List.isEmpty_iff]
      rintro ⟨⟨⟨hmay, hnos⟩, hlo⟩, hhi⟩
      rcases hor with h | h | h | h
      · rw [hmay] at h; cases h
      · exact h hnos
      · omega
      · omega

/-! ### Register reads -/

/-- The body of a 64-bit read that is aligned, of an attached port. -/
theorem wideRegisterReadEffect_aligned {s : State} {h : Fin 2} {off : BitVec 24} (hup : s.barUp h = true)
    (ha : off.toNat % 8 = 0) :
    (∀ r, s.regAt { port := h } off.toNat = some r → wideRegisterReadEffect h off s =
      if r.bits ≤ 64 then { s with lastRead := BitVec.ofNat 64 (s.word32 { port := h } off.toNat +
        s.word32 { port := h } (off.toNat + 4) * 2 ^ 32) }
      else if off.toNat = r.base then
        { s.modHost h fun x => { x with shadow := r.upper.foldl (fun t kw => Table.set t kw.1 kw.2) x.shadow } with
          lastRead := BitVec.ofNat 64 r.value }
      else { s with lastRead := if r.seen then Table.get 0 (s.host h).shadow off.toNat else 0 }) ∧
    (s.regAt { port := h } off.toNat = none → wideRegisterReadEffect h off s =
      { s with lastRead := BitVec.ofNat 64 (s.word32 { port := h } (off.toNat + 4) * 2 ^ 32) }) := by
  have ha' : ¬(off.toNat % 8 != 0) = true := by simp [ha]
  unfold wideRegisterReadEffect
  simp only [if_neg ha', hup, Bool.not_true, Bool.false_eq_true, if_false]
  exact ⟨fun r hr => by rw [hr], fun hr => by rw [hr]⟩

/-- An unsupported access of an attached port is counted; a read of it gives 0 (21 R497). -/
theorem unsupportedAccessEffect_up {s : State} {h : Fin 2} (off : BitVec 24) (hup : s.barUp h = true) :
    (unsupportedAccessEffect h off true s = s.modHost h fun x =>
      { x with barCount := BitVec.ofNat 16 (min (x.barCount.toNat + 1) (2 ^ 16 - 1)), barLastOff := off, barLastWr := true }) ∧
    (unsupportedAccessEffect h off false s = { s.modHost h fun x =>
      { x with barCount := BitVec.ofNat 16 (min (x.barCount.toNat + 1) (2 ^ 16 - 1)), barLastOff := off,
               barLastWr := false } with lastRead := 0 }) := by
  have hn : ¬(!s.barUp h) = true := by simp [hup]
  exact ⟨if_neg hn, if_neg hn⟩

/-- Settles O23: a read by the width of the register, and an access that no register serves. -/
theorem registerReads : Obligations.RegisterReads := by
  unfold Obligations.RegisterReads
  refine ⟨fun s h off r hup ha hr => ?_, fun s h off hup ha hr =>
    exec_effect rfl ((wideRegisterReadEffect_aligned hup ha).2 hr), fun s h off hup => ?_⟩
  · have hread := (wideRegisterReadEffect_aligned hup ha).1 r hr
    refine ⟨fun hb => exec_effect rfl (hread.trans (if_pos hb)), fun hb he => ?_, fun hb he => ?_⟩
    · exact exec_effect rfl (hread.trans ((if_neg (Nat.not_le.mpr hb)).trans (if_pos he)))
    · exact exec_effect rfl (hread.trans ((if_neg (Nat.not_le.mpr hb)).trans (if_neg he)))
  · obtain ⟨hwr, hrd⟩ := unsupportedAccessEffect_up off hup
    refine ⟨congrArg Host.Outcome.next hwr, congrArg Host.Outcome.next hrd, fun ha => ?_⟩
    exact exec_effect rfl ((if_pos (by simpa using ha)).trans hrd)

end Sys2Proof.Machine
end

section
/-! SUPPORT and the settlement of O24: challenges, responses and sessions of the operator channels (14 R367). -/

namespace Sys2Proof.Machine

@[simp] theorem locked_start (s : State) (q : Req) (ch : Nat) : (s.start q).locked ch = s.locked ch := rfl
@[simp] theorem channel_start (s : State) (q : Req) (ch : Nat) : (s.start q).channel ch = s.channel ch := rfl

@[simp] theorem wardenRuns_modTap (s : State) (f : Tap → Tap) : (s.modTap f).wardenRuns = s.wardenRuns := rfl
@[simp] theorem locked_modTap (s : State) (f : Tap → Tap) (ch : Nat) : (s.modTap f).locked ch = s.locked ch := rfl
@[simp] theorem sessionOpen_modTap (s : State) (f : Tap → Tap) (ch : Nat) : (s.modTap f).sessionOpen ch = s.sessionOpen ch := rfl
@[simp] theorem rng_modTap (s : State) (f : Tap → Tap) : (s.modTap f).rng = s.rng := rfl

/-! ### A response -/

/-- A response that its challenge admits opens the session; any other counts and locks the channel. -/
theorem respond_some {s : State} {ch : Nat} {c : BitVec 256} (bs : List Byte) (hc : (s.channel ch).challenge = some c) :
    (responseOk c ch bs = true →
      s.respond ch bs = (s.modChannel ch fun x => { x with challenge := none, openedAt := some s.now }, stOk)) ∧
    (responseOk c ch bs = false → s.respond ch bs =
      ({ s.modChannel ch (fun x => { x with challenge := none, lockUntil := s.now + 1000000 }) with
        authFail := BitVec.ofNat 16 (min (s.authFail.toNat + 1) (2 ^ 16 - 1)) }, stAuth)) := by
  unfold State.respond
  rw [hc]
  exact ⟨fun h => if_pos h, fun h => if_neg (by simp [h])⟩

/-- A response without a challenge counts as a wrong one (log entry 128). -/
theorem respond_none {s : State} {ch : Nat} (bs : List Byte) (hc : (s.channel ch).challenge = none) :
    s.respond ch bs = ({ s.modChannel ch (fun x => { x with challenge := none, lockUntil := s.now + 1000000 }) with
      authFail := BitVec.ofNat 16 (min (s.authFail.toNat + 1) (2 ^ 16 - 1)) }, stAuth) := by
  unfold State.respond
  rw [hc]
  rfl

/-! ### The commands of a host port -/

/-- The body of DBG.CHALLENGE on a host ring. -/
theorem dbgChallengeBody_host {s : State} {q : Req} {h : Fin 2} (a : BitVec 64) (hq : q.ring = .host h) :
    (s.locked h.val = true → dbgChallengeBody a s q = .status s stInUse) ∧
    (s.locked h.val = false → s.rng.failing = true → dbgChallengeBody a s q = .waits) ∧
    (s.locked h.val = false → s.rng.failing = false → dbgChallengeBody a s q = .status
      ((s.takeDraw.2.modChannel h.val fun x => { x with challenge := some (Config.draw s.draws) }).writeHostOf q a
        (Bits.toBytes 32 (Config.draw s.draws).toNat)) stOk) := by
  refine ⟨fun hl => ?_, fun hl hf => ?_, fun hl hf => ?_⟩
  · simp [dbgChallengeBody, hq, hl]
  · simp [dbgChallengeBody, hq, hl, hf]
  · simp [dbgChallengeBody, hq, hl, hf, State.challenge, State.takeDraw]

/-- The body of DBG.RESPOND on a host ring is the response of its channel. -/
theorem dbgRespondBody_host {s t : State} {q : Req} {h : Fin 2} {a : BitVec 64} {st : Nat} (hq : q.ring = .host h)
    (hr : s.respond h.val (s.readHostOf q a 3732) = (t, st)) : dbgRespondBody a s q = .status t st := by
  simp [dbgRespondBody, hq, hr]

/-! ### The TAP -/

/-- The TAP's challenge while the warden runs. -/
theorem jtagDbgChalEffect_runs {s : State} (hw : s.wardenRuns = true) :
    (s.locked 2 = true → jtagDbgChalEffect s = s.modTap fun x => { x with ir := 0x20 }) ∧
    (s.locked 2 = false → s.rng.failing = true →
      jtagDbgChalEffect s = (s.modTap fun x => { x with ir := 0x20 }).modTap fun x => { x with chal := true }) ∧
    (s.locked 2 = false → s.rng.failing = false → jtagDbgChalEffect s =
      (s.modTap fun x => { x with ir := 0x20 }).takeDraw.2.modChannel 2 fun x =>
        { x with challenge := some (Config.draw s.draws) }) := by
  exact ⟨fun hl => if_pos (by simp [hl]), fun hl hf => (if_neg (by simp [hw, hl])).trans (if_pos hf),
    fun hl hf => (if_neg (by simp [hw, hl])).trans (if_neg (by simp [hf]))⟩

/-- The TAP's response while the warden runs. -/
theorem jtagDbgRespEffect_runs {s : State} (r : BitVec 29856) (hw : s.wardenRuns = true) :
    jtagDbgRespEffect r s = ((s.modTap fun x => { x with ir := 0x21 }).respond 2 (Bits.toBytes 3732 r.toNat)).1 :=
  if_neg (by simp [hw])

/-! ### The end of a session -/

/-- The channel of a debug port. -/
def debugChannel : DbgPort → Nat
  | .host h => h.val
  | .jtag => 2

theorem debugSessionExpiryEffect_due {s : State} {d : DbgPort} {t0 : Nat}
    (ho : (s.channel (debugChannel d)).openedAt = some t0) (ht : t0 + 3600000000 ≤ s.now) :
    debugSessionExpiryEffect d s = s.modChannel (debugChannel d) fun x => { x with openedAt := none } := by
  cases d <;> simp only [debugChannel] at ho <;> simp only [debugSessionExpiryEffect, ho, if_pos ht, debugChannel]

theorem debugSessionExpiryEffect_early {s : State} {d : DbgPort}
    (h : ∀ t0, (s.channel (debugChannel d)).openedAt = some t0 → s.now < t0 + 3600000000) :
    debugSessionExpiryEffect d s = s := by
  unfold debugSessionExpiryEffect
  dsimp only
  split
  · next t0 ho => exact if_neg (Nat.not_le.mpr (h t0 (by cases d <;> exact ho)))
  · rfl

/-- Settles O24: each row by the state of its channel. -/
theorem operatorSessions : Obligations.OperatorSessions := by
  unfold Obligations.OperatorSessions
  refine ⟨fun s q h a hr hq => ?_, fun s q h a hr hq hc => ?_, fun s hw => ?_, fun s d k hk hd => ?_,
    fun s q h a hr hq hl hf => exec_status rfl hr ((dbgChallengeBody_host (s := s.start q) a hq).2.2 hl hf),
    fun s q h a c hr hq hc => ?_, fun s hw hl hf => exec_effect rfl ((jtagDbgChalEffect_runs hw).2.2 hl hf),
    fun s r c hw hc => ?_, fun s h t0 ho ht => exec_effect rfl (debugSessionExpiryEffect_due (d := .host h) ho ht),
    fun s t0 ho ht => exec_effect rfl (debugSessionExpiryEffect_due (d := .jtag) ho ht)⟩
  · obtain ⟨hlock, hwait, -⟩ := dbgChallengeBody_host (s := s.start q) a hq
    exact ⟨fun hl => exec_status rfl hr (hlock hl), fun hl hf => exec_waits rfl hr (hwait hl hf)⟩
  · exact exec_status rfl hr (dbgRespondBody_host hq (respond_none (s := s.start q) _ hc))
  · obtain ⟨hlock, hwait, -⟩ := jtagDbgChalEffect_runs hw
    refine ⟨fun hl => exec_effect rfl (hlock hl), fun hl hf => exec_effect rfl (hwait hl hf), fun r hc => ?_⟩
    exact exec_effect rfl ((jtagDbgRespEffect_runs r hw).trans (congrArg Prod.fst
      (respond_none (s := s.modTap fun x => { x with ir := 0x21 }) _ hc)))
  · exact exec_effect rfl (debugSessionExpiryEffect_early fun t0 ho => hd t0 (by subst hk; cases d <;> exact ho))
  · obtain ⟨hok, hbad⟩ := respond_some (s := s.start q) ((s.start q).readHostOf q a 3732) hc
    rw [readHostOf_start] at hok hbad
    cases hresp : responseOk c h.val (s.readHostOf q a 3732) with
    | true => exact exec_status rfl hr (dbgRespondBody_host hq (by rw [readHostOf_start]; exact hok hresp))
    | false => exact exec_status rfl hr (dbgRespondBody_host hq (by rw [readHostOf_start]; exact hbad hresp))
  · obtain ⟨hok, hbad⟩ := respond_some (s := s.modTap fun x => { x with ir := 0x21 }) (Bits.toBytes 3732 r.toNat) hc
    cases hresp : responseOk c 2 (Bits.toBytes 3732 r.toNat) with
    | true => exact exec_effect rfl ((jtagDbgRespEffect_runs r hw).trans (congrArg Prod.fst (hok hresp)))
    | false => exact exec_effect rfl ((jtagDbgRespEffect_runs r hw).trans (congrArg Prod.fst (hbad hresp)))

end Sys2Proof.Machine
end

section
/-! SUPPORT and the settlement of O25 and O26: DBG commands and the TAP (20 R493, R494), attestation and random draws
(14 R364, R366). -/

namespace Sys2Proof.Machine

/-! ### DBG commands -/

/-- The body of DBG.READ and DBG.WRITE of no bytes, and of a target that does not exist. -/
theorem dbg_refused {s : State} {q : Req} {t : DbgTarget} {i : Instr} (hi : i ∈ ([.dbgRead q t, .dbgWrite q t] : List Instr))
    (hr : Runnable i q s) :
    (t.bytes = 0 → exec i s = .next ((s.start q).finish q stOkEmpty 0 0)) ∧
    (t.bytes ≠ 0 → targetOk t = false → exec i s = .next ((s.start q).finish q stBadField 0 0)) := by
  simp only [List.mem_cons, List.not_mem_nil, or_false] at hi
  obtain rfl | rfl := hi
  · exact ⟨fun hb => exec_status rfl hr (by simp [dbgReadBody, dbgReadRun, hb]),
      fun hb ht => exec_status rfl hr (by rw [dbgReadBody, dbgReadRun, if_neg hb, ht]; rfl)⟩
  · exact ⟨fun hb => exec_status rfl hr (by simp [dbgWriteBody, dbgWriteRun, hb]),
      fun hb ht => exec_status rfl hr (by rw [dbgWriteBody, dbgWriteRun, if_neg hb, ht]; rfl)⟩

/-- An operator's view from a host port sees every register. -/
theorem hostIo_view {q : Req} {h : Fin 2} (hq : q.ring = .host h) : (hostIo q).view = { port := h, all := true } := by
  simp only [hostIo, hq]

theorem dbgReadBody_ok {s : State} {q : Req} {h : Fin 2} {t : DbgTarget} (hq : q.ring = .host h) (hb : t.bytes ≠ 0)
    (ht : targetOk t = true) :
    dbgReadBody t s q = .status (s.writeHostOf q t.host (s.readTarget { port := h, all := true } t).1)
      (if (s.readTarget { port := h, all := true } t).2 then stPoison else stOk) := by
  rw [dbgReadBody, dbgReadRun, if_neg hb, if_neg (by simp [ht]), hostIo_view hq]
  simp [hostIo]

theorem dbgWriteBody_ok {s : State} {q : Req} {h : Fin 2} {t : DbgTarget} (hq : q.ring = .host h) (hb : t.bytes ≠ 0)
    (ht : targetOk t = true) :
    dbgWriteBody t s q = .status (s.writeTarget { port := h, all := true } t (s.readHostOf q t.host t.bytes.toNat)) stOk := by
  rw [dbgWriteBody, dbgWriteRun, if_neg hb, if_neg (by simp [ht]), hostIo_view hq]
  simp [hostIo]

/-- DBG.SAMPLE by the sample that the number names (16 R406). -/
theorem dbgSample_row {s : State} {q : Req} {p : BitVec 3} {number : BitVec 16} {a : BitVec 64} {n : BitVec 32}
    (hr : Runnable (.dbgSample q p number a n) q s) :
    (n = 0 → exec (.dbgSample q p number a n) s = .next ((s.start q).finish q stOkEmpty 0 0)) ∧
    (n ≠ 0 → s.sample? p.toNat number = none →
      exec (.dbgSample q p number a n) s = .next ((s.start q).finish q stNoObject 0 0)) ∧
    (∀ bs, n ≠ 0 → s.sample? p.toNat number = some bs → exec (.dbgSample q p number a n) s =
      .next (((s.start q).writeHostOf q a (bs.take n.toNat)).finish q stOk bs.length 0)) := by
  refine ⟨fun hn => exec_done rfl hr ?_, fun hn hs => exec_done rfl hr ?_, fun bs hn hs => exec_done rfl hr ?_⟩
  · simp [dbgSampleBody, dbgSampleRun, hn]
  · rw [dbgSampleBody, dbgSampleRun, if_neg hn, sample?_start, hs]
  · rw [dbgSampleBody, dbgSampleRun, if_neg hn, sample?_start, hs]
    simp [hostIo]

@[simp] theorem ptnNos_start (s : State) (q : Req) : (s.start q).ptnNos = s.ptnNos := rfl
@[simp] theorem stackRanks_start (s : State) (q : Req) (k : Nat) : (s.start q).stackRanks k = s.stackRanks k := rfl

/-- DBG.UNRETIRE (08 R199). -/
theorem dbgUnretire_row {s : State} {q : Req} {k : BitVec 3} {r : BitVec 2} (hr : Runnable (.dbgUnretire q k r) q s) :
    (s.ptnNos ≠ [] → exec (.dbgUnretire q k r) s = .next ((s.start q).finish q stInUse 0 0)) ∧
    (s.ptnNos = [] → (s.stackRanks k.toNat).rank r.toNat = 3 →
      exec (.dbgUnretire q k r) s = .next (((s.start q).unretire k.toNat r.toNat).finish q stOk 0 0)) ∧
    (s.ptnNos = [] → (s.stackRanks k.toNat).rank r.toNat ≠ 3 →
      exec (.dbgUnretire q k r) s = .next ((s.start q).finish q stOkEmpty 0 0)) := by
  refine ⟨fun hp => exec_status rfl hr ?_, fun hp h3 => exec_status rfl hr ?_, fun hp h3 => exec_status rfl hr ?_⟩
  · simp [dbgUnretireBody, dbgUnretireRun, hp]
  · simp [dbgUnretireBody, dbgUnretireRun, hp, h3]
  · simp [dbgUnretireBody, dbgUnretireRun, hp, h3]

/-! ### The TAP -/

/-- A packet that the TAP's port runs leaves its completion entry in DBG_STAT (20 R494). -/
theorem tapPacket_entry (s : State) (packet : BitVec 512) :
    let tag := (Packet.req (.host 0) 0 (Packet.fields Packet.header (packet.toNat % 2 ^ 128))).tag.toNat
    let entry := fun (st r0 : Nat) => packBits [(tag, 0), (st, 16), (packet.toNat % 256, 32), (0x802, 40), (r0, 64)]
    (∀ i, Packet.decode (.host 0) 0 packet.toNat = some i → i.wellFormed = true → s.tapPacket packet =
      (runTap i s).1.modTap fun x => { x with stat := BitVec.ofNat 256 (entry (runTap i s).2.1 (runTap i s).2.2) }) ∧
    ((∀ i, Packet.decode (.host 0) 0 packet.toNat = some i → i.wellFormed = false) →
      s.tapPacket packet = s.modTap fun x => { x with stat := BitVec.ofNat 256 (entry stBadField 0) }) := by
  refine ⟨fun i hi hw => ?_, fun hnone => ?_⟩
  · simp only [State.tapPacket, hi, hw, if_true]
  · cases hi : Packet.decode (.host 0) 0 packet.toNat with
    | none => simp only [State.tapPacket, hi]
    | some i => simp only [State.tapPacket, hi, hnone i hi, Bool.false_eq_true, if_false]

/-- DBG_CMD with a session open. -/
theorem jtagDbgCmdEffect_open {s : State} (packet : BitVec 512) (hw : s.wardenRuns = true) (hs : s.sessionOpen 2 = true) :
    let t := s.modTap fun x => { x with ir := 0x22 }
    (s.rng.failing = true → tapDraws packet = true →
      jtagDbgCmdEffect packet s = t.modTap fun x => { x with cmds := x.cmds ++ [packet] }) ∧
    (s.rng.failing = false ∨ tapDraws packet = false → jtagDbgCmdEffect packet s = t.tapPacket packet) := by
  have hopen : ¬(!(s.modTap fun x => { x with ir := 0x22 }).wardenRuns ||
      !(s.modTap fun x => { x with ir := 0x22 }).sessionOpen 2) = true := by simp [hw, hs]
  refine ⟨fun hf hd => (if_neg hopen).trans (if_pos (by simp [hf, hd])), fun hor => (if_neg hopen).trans (if_neg ?_)⟩
  rcases hor with h | h <;> simp [h]

/-- DBG_CMD without a session selects the bypass register. -/
theorem jtagDbgCmdEffect_closed {s : State} (packet : BitVec 512) (h : s.wardenRuns = false ∨ s.sessionOpen 2 = false) :
    jtagDbgCmdEffect packet s = (s.modTap fun x => { x with ir := 0x22 }).modTap fun x => { x with bypass := false } :=
  if_pos (by rcases h with h | h <;> simp [h])

/-- Settles O25, row by row. -/
theorem debugAccess : Obligations.DebugAccess := by
  unfold Obligations.DebugAccess
  refine ⟨⟨fun s q t i hi hr => dbg_refused hi hr, fun s q p number a n hr =>
      ⟨(dbgSample_row hr).1, (dbgSample_row hr).2.1⟩,
      fun s q h t hr hq hb ht => exec_status rfl hr (dbgReadBody_ok hq hb ht), fun s q h t hr hq hb ht => ?_,
      fun s q p number a n bs hr => (dbgSample_row hr).2.2 bs, fun s q k r hr => dbgUnretire_row hr⟩,
    fun s => ⟨rfl, rfl⟩, fun s code hc => exec_effect rfl (if_neg (by simp [hc])), fun s bits hs => ?_,
    fun s code hc => exec_effect rfl (if_pos hc), fun s bits hs => ?_,
    fun s packet h => exec_effect rfl (jtagDbgCmdEffect_closed packet h), fun s packet hw hs => ?_⟩
  · exact exec_status rfl hr ((dbgWriteBody_ok hq hb ht).trans (by rw [readHostOf_start]))
  · exact exec_effect rfl (if_neg (by simp [hs]))
  · exact exec_effect rfl (if_pos (by simp [hs]))
  · obtain ⟨hwait, hrun⟩ := jtagDbgCmdEffect_open packet hw hs
    obtain ⟨hok, hbad⟩ := tapPacket_entry (s.modTap fun x => { x with ir := 0x22 }) packet
    exact ⟨fun hf hd => exec_effect rfl (hwait hf hd), fun hor =>
      ⟨fun i hi hwf => exec_effect rfl ((hrun hor).trans (hok i hi hwf)),
        fun hnone => exec_effect rfl ((hrun hor).trans (hbad hnone))⟩⟩

/-! ### Bytes of a quote -/

theorem toBytes_drop (n v k : Nat) : (Bits.toBytes n v).drop k = Bits.toBytes (n - k) (v / 256 ^ k) := by
  induction k generalizing n v with
  | zero => simp
  | succ k ih =>
    cases n with
    | zero => simp [Bits.toBytes]
    | succ n =>
      rw [Bits.toBytes, List.drop_succ_cons, ih, Nat.div_div_eq_div_mul, Nat.pow_succ', Nat.add_sub_add_right]

theorem toBytes_take (n v k : Nat) : (Bits.toBytes n v).take k = Bits.toBytes (min k n) v := by
  induction k generalizing n v with
  | zero => simp [Bits.toBytes]
  | succ k ih =>
    cases n with
    | zero => simp [Bits.toBytes]
    | succ n => rw [Bits.toBytes, List.take_succ_cons, ih, Nat.add_min_add_right, Bits.toBytes]

/-- Bytes above those asked for do not matter. -/
theorem toBytes_mod (n v : Nat) : Bits.toBytes n (v % 256 ^ n) = Bits.toBytes n v := by
  induction n generalizing v with
  | zero => rfl
  | succ n ih =>
    have hlow : BitVec.ofNat 8 (v % 256 ^ (n + 1)) = BitVec.ofNat 8 v := by
      apply BitVec.eq_of_toNat_eq
      simp only [BitVec.toNat_ofNat]
      exact Nat.mod_mod_of_dvd v (Dvd.intro_left (256 ^ n) rfl)
    have hhigh : v % 256 ^ (n + 1) / 256 = v / 256 % 256 ^ n := by
      rw [Nat.pow_succ', Nat.mod_mul_right_div_self]
    rw [Bits.toBytes, Bits.toBytes, hlow, hhigh, ih]

/-- Fields from bit k on are a multiple of 2^k. -/
theorem dvd_packBits {k : Nat} {l : List (Nat × Nat)} (h : ∀ x ∈ l, k ≤ x.2) : 2 ^ k ∣ packBits l := by
  induction l with
  | nil => exact Nat.dvd_zero _
  | cons x l ih =>
    obtain ⟨v, lsb⟩ := x
    refine Nat.dvd_add (Dvd.dvd.mul_left (Nat.pow_dvd_pow 2 (h _ (List.mem_cons_self ..))) v) (ih fun y hy => ?_)
    exact h y (List.mem_cons_of_mem _ hy)

/-- The third of fields that begin at bits 0, 32 and 64, with the others from bit 128 on. -/
theorem packBits_third {a b c : Nat} {rest : List (Nat × Nat)} (h : ∀ x ∈ rest, 128 ≤ x.2) (ha : a < 2 ^ 32)
    (hb : b < 2 ^ 32) (hc : c < 2 ^ 64) :
    packBits ((a, 0) :: (b, 32) :: (c, 64) :: rest) / 256 ^ 8 % 256 ^ 8 = c % 256 ^ 8 := by
  obtain ⟨m, hm⟩ := dvd_packBits h
  simp only [packBits, hm]
  omega

theorem fitBytes_length (n : Nat) (bs : List Byte) : (fitBytes n bs).length = n := by
  simp [fitBytes]

theorem fitBytes_prefix {n k : Nat} {bs : List Byte} (hk : k ≤ n) (hl : k ≤ bs.length) :
    (fitBytes n bs).take k = bs.take k := by
  rw [fitBytes, List.take_take, Nat.min_eq_left hk, List.take_append_of_le_length hl]

/-- Bytes 8 to 15 of a quote's body are its nonce (14 Table PTN.3). -/
theorem quoteBody_nonce (s : State) (nonce : BitVec 64) :
    ((s.quoteBody nonce).drop 8).take 8 = Bits.toBytes 8 nonce.toNat := by
  rw [State.quoteBody, toBytes_drop, toBytes_take, ← toBytes_mod, ← toBytes_mod _ nonce.toNat]
  exact congrArg (Bits.toBytes 8) (packBits_third (by simp) (by decide) (by decide) nonce.isLt)

/-- So they are of the quote. -/
theorem makeQuote_nonce (s : State) (nonce : BitVec 64) :
    ((s.makeQuote nonce).2.drop 8).take 8 = Bits.toBytes 8 nonce.toNat := by
  have hlen : (s.quoteBody nonce).length = 256 := toBytes_length ..
  have hhead : ∀ bs : List Byte, (fitBytes 4096 (s.quoteBody nonce ++ bs)).take 16 = (s.quoteBody nonce).take 16 :=
    fun bs => by
      rw [fitBytes_prefix (by decide) (by rw [List.length_append, hlen]; omega), List.take_append_of_le_length (by omega)]
  have hwindow : ∀ l : List Byte, (l.drop 8).take 8 = (l.take 16).drop 8 := fun l => by rw [List.drop_take]
  rw [State.makeQuote]
  dsimp only
  rw [List.append_assoc, hwindow, hhead, ← hwindow, quoteBody_nonce]

/-! ### Draws -/

/-- A reseed with nothing that waits at the TAP makes no challenge. -/
theorem tapGoesOn_idle {s : State} (hc : s.tap.chal = false) (hcmds : s.tap.cmds = []) : s.tapGoesOn = s := by
  have ht : (s.modTap fun x => { x with chal := false, cmds := [] }) = s := by
    obtain ⟨⟩ := s
    simp only [State.modTap] at hc hcmds ⊢
    rw [← hc, ← hcmds]
  simp only [State.tapGoesOn, hc, hcmds, ht, Bool.false_and, Bool.false_eq_true, if_false, List.foldl_nil, ite_self]

/-- Settles O26, row by row; the nonce stands in the quote's body. -/
theorem quotesAndDraws : Obligations.QuotesAndDraws := by
  unfold Obligations.QuotesAndDraws
  refine ⟨fun s q nonce a n hr hn => ⟨fun hlt => exec_status rfl hr ((if_neg hn).trans (if_pos hlt)), fun hle hf =>
      exec_waits rfl hr ?_⟩, fun s hw => exec_effect rfl (if_pos (by simp [hw])), fun s ho hn => exec_effect rfl (if_pos ?_),
    fun s q nonce a hr => exec_status rfl hr (if_pos rfl), fun s q nonce a n hr hle hf =>
      ⟨exec_status rfl hr ?_, fitBytes_length .., makeQuote_nonce ..⟩,
    fun s hw => exec_effect rfl (if_neg (by simp [hw])), fun s hor => ⟨exec_effect rfl (if_neg ?_), fun hc hcmds => tapGoesOn_idle hc hcmds⟩⟩
  · exact (if_neg hn).trans ((if_neg (Nat.not_lt.mpr hle)).trans (if_pos hf))
  · simp only [Bool.and_eq_true, decide_eq_true_eq]
    exact ⟨ho, hn⟩
  · have hn : n ≠ 0 := fun h => by subst h; exact absurd hle (by decide)
    exact (if_neg hn).trans ((if_neg (Nat.not_lt.mpr hle)).trans (if_neg (by simp [hf])))
  · simp only [Bool.and_eq_true, decide_eq_true_eq]
    omega

end Sys2Proof.Machine
end

section
/-! SUPPORT. Doorbells, acceptance and delivery of events (12 R295 to R302). -/

namespace Sys2Proof.Machine

/-! ### Doorbells -/

/-- A write to a port's host memory leaves which rings it may ring. -/
theorem ringsDoorbell_modHost_mem (s : State) (h : Fin 2) (r : Ring) (f : HostSide → Mem) :
    (s.modHost h fun x => { x with mem := f x }).ringsDoorbell h r = s.ringsDoorbell h r := by
  have ho : ((s.modHost h fun x => { x with mem := f x }).host h).attached = (s.host h).attached := by
    rw [host_modHost, if_pos rfl]
  exact congrArg (· && s.ringPort r == some h) ho

/-- A write to a port's host memory leaves every ring's counters. -/
theorem ring?_modHost_mem (s : State) (h : Fin 2) (r : Ring) (f : HostSide → Mem) :
    (s.modHost h fun x => { x with mem := f x }).ring? r = s.ring? r := by
  cases r with
  | ctx c => rfl
  | host p =>
    refine congrArg some ?_
    rw [host_modHost]
    split <;> rfl

/-- A write of a ring's submission counter, by what the ring holds. -/
theorem takeTail_some {s : State} {r : Ring} {rp : RingPair} (h : s.ring? r = some rp) (v : BitVec 32)
    (units : List (BitVec 512)) :
    s.takeTail r v units = if rp.tailOk v then (s.storeUnits r rp.sqTail.toNat units).modRing r fun x => { x with sqTail := v }
      else (s.storeUnits r rp.sqTail.toNat units).event r 0x0002 1 v.toNat 0 := by
  simp only [State.takeTail, h]

/-- A write of a ring's completion head, by what the ring holds. -/
theorem takeHead_some {s : State} {r : Ring} {rp : RingPair} (h : s.ring? r = some rp) (v : BitVec 32) :
    s.takeHead r v = if rp.headOk v then s.modRing r fun x => { x with cqHead := v } else s.event r 0x0002 2 v.toNat 0 := by
  simp only [State.takeHead, h]

/-! ### Acceptance and delivery -/

/-- A ring takes a packet that is exposed and has room. -/
theorem takes_iff {s : State} {r : Ring} {rp : RingPair} (h : s.ring? r = some rp) :
    s.takes r = (s.accepts r && rp.sqTail != rp.sqHead &&
      s.roomFor r rp (unitsOf (Bits.ofBytes (s.readRing r (rp.sqHead.toNat % rp.n * 64) 64)))) := by
  simp only [State.takes, h]

/-- A served ring with its submission head moved: the time stays. -/
theorem serve_modRing_now (s : State) (r : Ring) (f : RingPair → RingPair) : ((s.serve r).modRing r f).now = s.now := by
  cases r <;> simp [State.serve, State.modRing]

/-- Settles O9, doorbell by doorbell, then packet and event. -/
theorem ringTraffic : Obligations.RingTraffic := by
  unfold Obligations.RingTraffic
  refine ⟨⟨fun s h r v units host rp hd hrp => exec_effect rfl ?_, fun s h r v rp hd hrp => exec_effect rfl ?_⟩,
    fun s r rp w hrp hw ha hne hroom hturn => ?_, fun s r rp b e rest hrp hb hwait => ⟨fun h => exec_effect rfl ?_, fun hwr hfree =>
      ⟨fun h0 => exec_effect rfl ?_, fun h0 => exec_effect rfl ?_⟩⟩⟩
  · have hd' := (ringsDoorbell_modHost_mem s.wake h r fun x => host.foldl (fun m (a, b) => Mem.put m a b) x.mem).trans hd
    have hrp' := (ring?_modHost_mem s.wake h r fun x => host.foldl (fun m (a, b) => Mem.put m a b) x.mem).trans hrp
    exact (if_neg (by simpa using hd')).trans (takeTail_some hrp' v units)
  · exact (if_neg (by simpa using hd)).trans (takeHead_some hrp v)
  · have htakes : ¬ (!s.takes r || !s.isTurn r) = true := by
      rw [takes_iff hrp]
      simp [ha, hne, hturn, hw ▸ hroom]
    refine ⟨fun o ho => exec_effect rfl ?_, fun hno => ⟨fun hdec => exec_effect rfl ?_, fun i hdec => ⟨fun st hst =>
      exec_effect rfl ?_, fun hst => exec_effect rfl ?_⟩⟩⟩
    all_goals
      rw [packetAcceptEffect, hrp]
      refine (if_neg htakes).trans ?_
    · rw [ho]
    · rw [hno]
      dsimp only
      rw [← hw, hdec]
    · rw [hno]
      dsimp only
      rw [← hw, hdec]
      dsimp only
      rw [hst]
    · rw [hno]
      dsimp only
      rw [← hw, hdec]
      dsimp only
      rw [hst]
      dsimp only
      rw [serve_modRing_now]
  · rw [eventDeliverEffect, hrp, hb]
    dsimp only
    rw [hwait]
    exact if_pos (by simpa using h)
  · rw [eventDeliverEffect, hrp, hb]
    dsimp only
    rw [hwait]
    refine (if_neg (by simpa [hwr] using hfree)).trans ?_
    rw [if_pos h0]
  · rw [eventDeliverEffect, hrp, hb]
    dsimp only
    rw [hwait]
    refine (if_neg (by simpa [hwr] using hfree)).trans ?_
    rw [if_neg h0]

end Sys2Proof.Machine
end

section
/-! SUPPORT. Partitions begin and end (01 R20, R27; 14 R352, R359, R364). -/

namespace Sys2Proof.Machine

/-! ### The cluster sets of 01 R20 -/

/-- The cluster sets that 01 R20 allows, by their first cluster and their number. -/
def clusterSets : List (Nat × Nat) := [1, 2, 4, 8].flatMap fun n => (List.range (8 / n)).map fun k => (k * n, n)

/-- They are 1, 2, 4 or 8 clusters from a multiple of their number on. -/
theorem mem_clusterSets {low n : Nat} :
    (low, n) ∈ clusterSets ↔ (n = 1 ∨ n = 2 ∨ n = 4 ∨ n = 8) ∧ n ∣ low ∧ low + n ≤ 8 := by
  have hsmall : ∀ low n : Fin 9, ((low.val, n.val) ∈ clusterSets ↔
      (n.val = 1 ∨ n.val = 2 ∨ n.val = 4 ∨ n.val = 8) ∧ n.val ∣ low.val ∧ low.val + n.val ≤ 8) := by decide +kernel
  have hlow : ∀ p ∈ clusterSets, p.1 + p.2 ≤ 8 := by decide
  by_cases h : low + n ≤ 8
  · exact hsmall ⟨low, by omega⟩ ⟨n, by omega⟩
  · exact ⟨fun hm => absurd (hlow _ hm) h, fun hm => absurd hm.2.2 h⟩

/-- Each is told by its own mask. -/
theorem clustersOf_iff_bits : ∀ mask : BitVec 8, ∀ p ∈ clusterSets, (clustersOf mask = some p ↔
    ∀ c : Fin 8, (mask.getLsbD c.val = true ↔ p.1 ≤ c.val ∧ c.val < p.1 + p.2)) := by decide +kernel

/-- A mask tells none but those sets. -/
theorem clustersOf_mem {mask : BitVec 8} {p : Nat × Nat} (h : clustersOf mask = some p) : p ∈ clusterSets :=
  List.mem_of_find?_eq_some h

theorem clustersOf_iff (mask : BitVec 8) (low n : Nat) : clustersOf mask = some (low, n) ↔
    (n = 1 ∨ n = 2 ∨ n = 4 ∨ n = 8) ∧ n ∣ low ∧ low + n ≤ 8 ∧
      ∀ c : Fin 8, (mask.getLsbD c.val = true ↔ low ≤ c.val ∧ c.val < low + n) := by
  constructor
  · intro h
    have hm := clustersOf_mem h
    obtain ⟨hn, hd, hl⟩ := mem_clusterSets.mp hm
    exact ⟨hn, hd, hl, (clustersOf_iff_bits mask _ hm).mp h⟩
  · rintro ⟨hn, hd, hl, hbits⟩
    exact (clustersOf_iff_bits mask _ (mem_clusterSets.mpr ⟨hn, hd, hl⟩)).mpr hbits

/-! ### PTN.CREATE and PTN.DESTROY -/

/-- The number under which a partition stands: the one asked for, or else the lowest one not in use. -/
def newNo (want : BitVec 3) (use : Bool) (s : State) : Option Nat :=
  if use then some want.toNat else (List.range 8).find? fun p => (s.ptn? p).isNone

/-- The lowest number not in use is found. -/
theorem newNo_eq {want : BitVec 3} {use : Bool} {s : State} {p : Nat}
    (h : if use then p = want.toNat else p < 8 ∧ ∀ j < p, (s.ptn? j).isSome) (hp : s.ptn? p = none) :
    newNo want use s = some p := by
  cases use with
  | true => simpa [newNo] using h.symm
  | false =>
    obtain ⟨hlt, hbelow⟩ : p < 8 ∧ ∀ j < p, (s.ptn? j).isSome := h
    refine (List.find?_range_eq_some).mpr ⟨by simp [hp], List.mem_range.mpr hlt, fun j hj => ?_⟩
    simpa using hbelow j hj

/-- PTN.CREATE, by its cluster set and where it stands. -/
theorem ptnCreateBody_bad {mask : BitVec 8} {share : BitVec 21} {n : BitVec 17} {want : BitVec 3} {use : Bool}
    {v : BitVec 16} {s : State} {q : Req} {h : Fin 2} (hq : q.ring = .host h) (hc : clustersOf mask = none) :
    ptnCreateBody mask share n want use v s q = .status s stBadField := by
  simp only [ptnCreateBody, hq, hc]

section
variable {mask : BitVec 8} {share : BitVec 21} {n : BitVec 17} {want : BitVec 3} {use : Bool} {v : BitVec 16} {s : State}
  {q : Req} {h : Fin 2} {low k : Nat}

theorem ptnCreateBody_held (hq : q.ring = .host h) (hc : clustersOf mask = some (low, k))
    (hheld : ∃ i < k, (s.ptnOfCluster (low + i)).isSome) : ptnCreateBody mask share n want use v s q = .status s stBadField := by
  rw [ptnCreateBody, hq, hc]
  exact if_pos (by simpa using hheld)

theorem any_cluster_held (hfree : ∀ i < k, s.ptnOfCluster (low + i) = none) :
    ¬ ((List.range k).any fun i => (s.ptnOfCluster (low + i)).isSome) = true := by
  simpa using hfree

theorem ptnCreateBody_full (hq : q.ring = .host h) (hc : clustersOf mask = some (low, k))
    (hfree : ∀ i < k, s.ptnOfCluster (low + i) = none) (hno : newNo want use s = none) :
    ptnCreateBody mask share n want use v s q = .status s stLimit := by
  rw [ptnCreateBody, hq, hc]
  refine (if_neg (any_cluster_held hfree)).trans ?_
  rw [newNo] at hno
  rw [hno]

theorem ptnCreateBody_taken {p : Nat} (hq : q.ring = .host h) (hc : clustersOf mask = some (low, k))
    (hfree : ∀ i < k, s.ptnOfCluster (low + i) = none) (hno : newNo want use s = some p) (hp : (s.ptn? p).isSome) :
    ptnCreateBody mask share n want use v s q = .status s stInUse := by
  rw [ptnCreateBody, hq, hc]
  refine (if_neg (any_cluster_held hfree)).trans ?_
  rw [newNo] at hno
  rw [hno]
  exact if_pos hp

theorem ptnCreateBody_noRoom {p : Nat} (hq : q.ring = .host h) (hc : clustersOf mask = some (low, k))
    (hfree : ∀ i < k, s.ptnOfCluster (low + i) = none) (hno : newNo want use s = some p) (hp : s.ptn? p = none)
    (hroom : s.freeShare share.toNat = none ∨ s.freeUnit 1 low (k * 64 + 4 * (share.toNat / 4096)) 1 = none) :
    ptnCreateBody mask share n want use v s q = .status s stLimit := by
  rw [ptnCreateBody, hq, hc]
  refine (if_neg (any_cluster_held hfree)).trans ?_
  rw [newNo] at hno
  rw [hno]
  refine (if_neg (by simp [hp])).trans ?_
  rcases hroom with hroom | hroom
  · rw [hroom]
  · rw [hroom]
    cases s.freeShare share.toNat <;> rfl

theorem ptnCreateBody_waits {p base reserve : Nat} (hq : q.ring = .host h) (hc : clustersOf mask = some (low, k))
    (hfree : ∀ i < k, s.ptnOfCluster (low + i) = none) (hno : newNo want use s = some p) (hp : s.ptn? p = none)
    (hshare : s.freeShare share.toNat = some base)
    (hres : s.freeUnit 1 low (k * 64 + 4 * (share.toNat / 4096)) 1 = some reserve)
    (hwait : s.tier1Ready = false ∨ s.rng.failing = true) :
    ptnCreateBody mask share n want use v s q = .waits := by
  rw [ptnCreateBody, hq, hc]
  refine (if_neg (any_cluster_held hfree)).trans ?_
  rw [newNo] at hno
  rw [hno]
  refine (if_neg (by simp [hp])).trans ?_
  rw [hshare, hres]
  exact if_pos (by rcases hwait with h | h <;> simp [h])

/-- The state in which a new partition's management context is created. -/
def withNewPtn (s : State) (h : Fin 2) (p low k share reserve base : Nat) : State :=
  (s.takeDraw.2.freshPtn p low k).setPtn p
    (some (newPartition low k share reserve base (tokenOf s.takeDraw.1) h (s.host h).attached s.takeDraw.2))

theorem ptnCreateBody_made {p base reserve : Nat} (hq : q.ring = .host h) (hc : clustersOf mask = some (low, k))
    (hfree : ∀ i < k, s.ptnOfCluster (low + i) = none) (hno : newNo want use s = some p) (hp : s.ptn? p = none)
    (hshare : s.freeShare share.toNat = some base)
    (hres : s.freeUnit 1 low (k * 64 + 4 * (share.toNat / 4096)) 1 = some reserve)
    (hready : s.tier1Ready = true) (hdraws : s.rng.failing = false) :
    (∀ t b, (withNewPtn s h p low k share.toNat reserve base).createCtx p (mgmt p) n.toNat none v = (t, .ok b) →
      ptnCreateBody mask share n want use v s q = .done t stOk p (tokenOf s.takeDraw.1).toNat) ∧
    (∀ t st, (withNewPtn s h p low k share.toNat reserve base).createCtx p (mgmt p) n.toNat none v = (t, .error st) →
      ptnCreateBody mask share n want use v s q = .status s st) := by
  rw [ptnCreateBody, hq, hc]
  dsimp only
  rw [if_neg (any_cluster_held hfree)]
  rw [newNo] at hno
  rw [hno]
  dsimp only
  rw [if_neg (by simp [hp]), hshare, hres]
  dsimp only
  rw [if_neg (by simp [hready, hdraws])]
  refine ⟨fun t b hmade => ?_, fun t st hmade => ?_⟩
  all_goals
    rw [withNewPtn] at hmade
    rw [hmade]

end

/-- Settles O15: each refusal by its lemma, then the creation. -/
theorem partitionCreation : Obligations.PartitionCreation := by
  unfold Obligations.PartitionCreation
  refine ⟨clustersOf_iff, ⟨fun s q h mask share n want use v hr hq hc => exec_status rfl hr (ptnCreateBody_bad hq hc),
    fun s q h mask share n want use v low k hr hq hc => ⟨fun hheld => exec_status rfl hr (ptnCreateBody_held hq hc hheld),
      fun hfree huse hp => exec_status rfl hr (ptnCreateBody_taken (p := want.toNat) hq hc hfree (by simp [newNo, huse]) hp),
      fun hfree huse hall => exec_status rfl hr (ptnCreateBody_full hq hc hfree ?_),
      fun p hfree hno hp => ⟨fun hroom => exec_status rfl hr (ptnCreateBody_noRoom hq hc hfree (newNo_eq hno hp) hp hroom),
        fun hshare hres hwait => ?_⟩,
      fun p base reserve hfree hno hp hshare hres hready hdraws => ?_⟩⟩, fun s low n share reserve base token h up => ?_⟩
  · refine (if_neg (by simp [huse])).trans (List.find?_eq_none.mpr fun j hj => ?_)
    have := hall j (List.mem_range.mp hj)
    simpa [Option.isSome_iff_ne_none] using this
  · obtain ⟨base, hbase⟩ := Option.isSome_iff_exists.mp hshare
    obtain ⟨reserve, hreserve⟩ := Option.isSome_iff_exists.mp hres
    exact exec_waits rfl hr (ptnCreateBody_waits hq hc hfree (newNo_eq hno hp) hp hbase hreserve hwait)
  · obtain ⟨hok, herr⟩ := ptnCreateBody_made (s := s.start q) (share := share) (n := n) (v := v) hq hc hfree (newNo_eq hno hp) hp
      hshare hres hready hdraws
    intro u x
    rcases hmade : ((u.freshPtn p low k).setPtn p (some x)).createCtx p (mgmt p) n.toNat none v with ⟨t, st | b⟩
    · exact exec_status rfl hr (herr t st hmade)
    · exact exec_done rfl hr (hok t b hmade)
  · refine ⟨rfl, rfl, rfl, rfl, rfl, rfl, rfl, rfl, rfl, rfl, rfl, rfl, ?_⟩
    cases up <;> simp [newPartition]

end Sys2Proof.Machine
end

section
/-! SUPPORT. The end of a partition (01 R27, 14 R352, R359). -/

namespace Sys2Proof.Machine

/-! ### What zeroing comes to -/

/-- The state t is s with units of the tiers zeroed: the rest of the state stays, and what read 0 reads 0. -/
def Zeroed (s t : State) : Prop :=
  (∃ m u l k, t = { s with tier1 := m, undef := u, layer := l, poison := k }) ∧
    ∀ tier cluster off, BareZero s tier cluster off → BareZero t tier cluster off

theorem Zeroed.refl (s : State) : Zeroed s s := ⟨⟨s.tier1, s.undef, s.layer, s.poison, rfl⟩, fun _ _ _ h => h⟩

theorem Zeroed.trans {s t u : State} (h : Zeroed s t) (k : Zeroed t u) : Zeroed s u := by
  obtain ⟨⟨m, v, l, p, rfl⟩, hz⟩ := h
  obtain ⟨⟨m', v', l', p', e⟩, kz⟩ := k
  exact ⟨⟨m', v', l', p', e⟩, fun _ _ _ h => kz _ _ _ (hz _ _ _ h)⟩

theorem zeroed_zeroTier (s : State) (t c o n : Nat) : Zeroed s (s.zeroTier t c o n) := by
  obtain ⟨m, u, l, p, e, -⟩ := State.zeroTier_shape s t c o n
  exact ⟨⟨m, u, l, p, e⟩, fun _ _ _ h => bareZero_zeroTier t c o n h⟩

/-- A run of steps that each zero units zeroes units. -/
theorem zeroed_foldl {α : Type} {f : State → α → State} (h : ∀ s a, Zeroed s (f s a)) (as : List α) (s : State) :
    Zeroed s (as.foldl f s) := by
  induction as generalizing s with
  | nil => exact .refl s
  | cons a as ih => exact (h s a).trans (ih _)

/-- Zero a cluster's layer store and those of its regions of tier 1 that are in service (14 R359). -/
def zeroCluster (st : State) (c : Nat) : State :=
  (List.range 4).foldl (fun st r =>
    if st.unitOut (r * regionUnits) then st
    else st.zeroTier 1 c (r * regionUnits * unitBytes) (regionUnits * unitBytes)) (st.zeroTier 0 c 0 layerSpan)

theorem zeroed_regions (c : Nat) (s : State) : Zeroed s ((List.range 4).foldl (fun st r =>
    if st.unitOut (r * regionUnits) then st
    else st.zeroTier 1 c (r * regionUnits * unitBytes) (regionUnits * unitBytes)) s) := by
  refine zeroed_foldl (fun s r => ?_) _ s
  split
  · exact .refl s
  · exact zeroed_zeroTier ..

theorem zeroed_zeroCluster (s : State) (c : Nat) : Zeroed s (zeroCluster s c) :=
  (zeroed_zeroTier s 0 c 0 layerSpan).trans (zeroed_regions c _)

/-- Every byte of the layer stores zeroed one after another is a bare zero. -/
theorem bareZero_zeroClusters {low k b : Nat} (hb : b < layerSpan) (ks : List Nat) (hk : k ∈ ks) (s : State) :
    BareZero (ks.foldl (fun st k => zeroCluster st (low + k)) s) 0 (low + k) b := by
  induction ks generalizing s with
  | nil => simp at hk
  | cons j ks ih =>
    rcases List.mem_cons.mp hk with rfl | hk
    · have hlayer := bareZero_of_zeroTier s (tier := 0) (by decide) (low + k) 0 hb
      rw [Nat.zero_add] at hlayer
      exact (zeroed_foldl (fun s k => zeroed_zeroCluster s (low + k)) ks _).2 _ _ _ ((zeroed_regions _ _).2 _ _ _ hlayer)
    · exact ih hk _

/-! ### A freed partition -/

/-- Freeing a partition clears its tile stores, zeroes its clusters, and takes it out. -/
theorem freePtn_eq {s : State} {p : Nat} {x : Partition} (h : s.ptn? p = some x) :
    ∃ poison free, s.freePtn p = State.setPtn { ((List.range x.n).foldl (fun st k => zeroCluster st (x.low + k))
      { s with stores := s.stores.clearClusters x.low x.n }) with poison := poison, free := free } p none := by
  rw [State.freePtn, h]
  exact ⟨_, _, rfl⟩

/-- Partitions set and read. -/
theorem ptn?_setPtn_self (s : State) (p : Nat) (x : Partition) (hp : (s.ptn? p).isSome) (y : Option Partition) :
    (s.setPtn p y).ptn? p = y := by
  have hlt : p < 8 := by
    by_contra h
    simp [State.ptn?, Vector.getElem?_eq_none (Nat.le_of_not_lt h)] at hp
  simp [State.ptn?, State.setPtn, hlt]

theorem ptn?_setPtn_ne (s : State) {p r : Nat} (h : r ≠ p) (y : Option Partition) : (s.setPtn p y).ptn? r = s.ptn? r := by
  simp [State.ptn?, State.setPtn, Vector.getElem?_setIfInBounds, h.symm]

/-- What freeing a partition leaves. -/
theorem freePtn_leaves {s : State} {p : Nat} {x : Partition} (h : s.ptn? p = some x) :
    (s.freePtn p).ptn? p = none ∧ (∀ r, r ≠ p → (s.freePtn p).ptn? r = s.ptn? r) ∧
      (∀ k < x.n, ∀ b < layerSpan, (s.freePtn p).readTier 0 (x.low + k) b 1 = [0]) ∧
      (s.freePtn p).objs = s.objs ∧ (s.freePtn p).live = s.live ∧ (s.freePtn p).hosts = s.hosts := by
  obtain ⟨poison, free, e⟩ := freePtn_eq h
  have hbytes := fun k (hk : k < x.n) b (hb : b < layerSpan) => readTier_of_bareZero
    (bareZero_zeroClusters (low := x.low) hb (List.range x.n) (List.mem_range.mpr hk)
      { s with stores := s.stores.clearClusters x.low x.n })
  obtain ⟨⟨m, u, l, k, ez⟩, -⟩ := zeroed_foldl (fun s k => zeroed_zeroCluster s (x.low + k)) (List.range x.n)
    { s with stores := s.stores.clearClusters x.low x.n }
  rw [e]
  refine ⟨ptn?_setPtn_self _ p x ?_ none, fun r hr => (ptn?_setPtn_ne _ hr none).trans ?_, hbytes, ?_, ?_, ?_⟩
  · rw [ez]
    exact Option.isSome_iff_exists.mpr ⟨x, h⟩
  all_goals
    rw [ez]
    rfl

/-- Settles O16: the row's first and second execution, and what the freed partition leaves. -/
theorem partitionEnd : Obligations.PartitionEnd := by
  unfold Obligations.PartitionEnd
  have first : ∀ (s : State) (q : Req) (p : BitVec 3), (s.accepted.any fun a => a.cmd == .ptnDestroy q p && a.started) = false →
      ptnDestroyEffect q p s = runCommand (.ptnDestroy q p) s (ptnDestroyBody p) := fun s q p hgo => by
    rw [ptnDestroyEffect]
    exact if_neg (by simp [hgo])
  refine ⟨⟨fun s q p hr hgo hn => ?_, fun s q p n x hr hn hx hgo => ⟨fun hd => ?_, fun hd => ?_⟩,
    fun s q p x hgo hx hd => exec_effect rfl (if_pos ?_)⟩, fun s p x h => freePtn_leaves h⟩
  · exact exec_status (congrArg _ (first s q p hgo)) hr (withPtn_none (s := s.start q) _ hn)
  · exact exec_goesOn (congrArg _ (first s q p hgo)) hr ((withPtn_named (s := s.start q) _ hn hx).trans (if_neg (by simp [hd])))
  · exact exec_status (congrArg _ (first s q p hgo)) hr ((withPtn_named (s := s.start q) _ hn hx).trans (if_pos hd))
  · simp only [hx, hgo, hd, Option.map_some, Option.getD_some, Bool.and_self]

end Sys2Proof.Machine
end

section
/-! SUPPORT. The field port: the message gate, what accepted messages do, and the device's own messages (18 R456 to
R463). -/

namespace Sys2Proof.Machine

/-! ### A message behind the gate -/

section
variable {off : Nat} {f : CanFrame} {s t : State} {body : State → State}

/-- A frame with another identifier than the row's. -/
theorem onMessage_other (h : f.ident.toNat ≠ s.field.block + off) : onMessage off f s body = s := by
  simp [onMessage, h]

/-- A frame that the gate drops. -/
theorem onMessage_dropped (h : f.ident.toNat = s.field.block + off) (hg : s.gate f = (t, false)) :
    onMessage off f s body = t := by
  simp [onMessage, h, hg]

/-- A frame that the gate accepts. -/
theorem onMessage_accepted (h : f.ident.toNat = s.field.block + off) (hg : s.gate f = (t, true)) :
    onMessage off f s body = body t := by
  simp [onMessage, h, hg]

end

/-- How a cap request is clamped, and how that is told. -/
theorem clampCap_eq (floor w : Nat) (emerg : Bool) : clampCap floor w emerg =
    (if emerg then max 120 w else max floor w, if emerg then (if w < 120 then 2 else 0) else (if w < floor then 1 else 0)) := by
  unfold clampCap
  cases emerg with
  | true =>
    by_cases h : w < 120
    · simp [h, Nat.max_eq_left (Nat.le_of_lt h)]
    · simp [h, Nat.max_eq_right (Nat.le_of_not_lt h)]
  | false =>
    by_cases h : w < floor
    · simp [h, Nat.max_eq_left (Nat.le_of_lt h)]
    · simp [h, Nat.max_eq_right (Nat.le_of_not_lt h)]

/-! ### The gate, branch by branch -/

section
variable {s : State} {f : CanFrame}

/-- A frame that the field side does not look at. -/
theorem gate_outside (h : s.field.vdd = false ∨ f.ident.toNat < s.field.block ∨ s.field.block + 16 ≤ f.ident.toNat) :
    s.gate f = (s, false) := by
  refine if_pos ?_
  rcases h with h | h | h
  · simp [h]
  · simp [h]
  · have : 16 ≤ f.ident.toNat - s.field.block := by omega
    simp [this]

theorem not_outside (hv : s.field.vdd = true) (hlo : s.field.block ≤ f.ident.toNat) (hhi : f.ident.toNat < s.field.block + 16) :
    ¬ ((!s.field.vdd || decide (f.ident.toNat < s.field.block) || decide (16 ≤ f.ident.toNat - s.field.block)) = true) := by
  simp only [hv, Bool.not_true, Bool.false_or, Bool.or_eq_true, decide_eq_true_eq]
  omega

/-- A frame of the block while the field core restarts. -/
theorem gate_restarting (hv : s.field.vdd = true) (hlo : s.field.block ≤ f.ident.toNat)
    (hhi : f.ident.toNat < s.field.block + 16) (hr : s.restarting fieldIsland = true) :
    s.gate f = (s.modField fun x => { x with badValue := sat16 x.badValue }, false) :=
  (if_neg (not_outside hv hlo hhi)).trans (if_pos hr)

/-- A frame of the block that no message has. -/
theorem gate_unknown (hv : s.field.vdd = true) (hr : s.restarting fieldIsland = false)
    (hlo : s.field.block + 4 ≤ f.ident.toNat) (hhi : f.ident.toNat < s.field.block + 16) :
    s.gate f = (s.modField fun x => { x with unknownId := sat16 x.unknownId }, false) :=
  (if_neg (not_outside hv (by omega) hhi)).trans ((if_neg (by simp [hr])).trans (if_pos (by omega)))

/-- A message's frame comes to the checks of its form, its sequence byte and its value. -/
theorem gate_message {off : Nat} (hv : s.field.vdd = true) (hr : s.restarting fieldIsland = false) (hoff : off < 4)
    (hid : f.ident.toNat = s.field.block + off) : s.gate f =
      if !formOk off f then (s.modField fun x => { x with badForm := sat16 x.badForm }, false)
      else if (s.field.rxSeq.any fun e => e.1 == off && f.data.head? == some e.2) then
        (s.modField fun x => { x with repeats := sat16 x.repeats }, false)
      else if !s.valueOk off f then (s.modField fun x => { x with badValue := sat16 x.badValue }, false)
      else (s.modField fun x => { x with
        rxSeq := Table.set x.rxSeq off (f.data.headD 0), accepted := BitVec.ofNat 32 (Bits.satAdd 32 x.accepted.toNat 1) }, true) := by
  have hsub : f.ident.toNat - s.field.block = off := by omega
  rw [State.gate, if_neg (not_outside hv (by omega) (by omega)), hsub, if_neg (by simp [hr]), if_neg (by omega)]

end

/-- The gate leaves which cores restart. -/
theorem gate_restarting_eq {s t : State} {f : CanFrame} {ok : Bool} (h : s.gate f = (t, ok)) (island : Nat) :
    t.restarting island = s.restarting island := by
  suffices hf : (s.gate f).1.flt = s.flt by
    rw [h] at hf
    exact congrArg (fun x : FaultState => x.restarting.any fun r => r.island == island) hf
  rw [State.gate]
  split_ifs <;> rfl

/-- Settles O28: the messages behind the gate, then the gate itself. -/
theorem fieldMessages : Obligations.FieldMessages := by
  unfold Obligations.FieldMessages
  refine ⟨⟨fun s f off e he hoff => ⟨fun hid => ?_, fun t hid hg => ?_⟩,
      fun s t f hid hg => exec_effect rfl (show shedDirectiveEffect f s = _ from
        onMessage_accepted (hid.trans (Nat.add_zero _).symm) hg),
      fun s t f hid hg => ⟨fun hw => exec_effect rfl ((onMessage_accepted hid hg).trans ?_), fun hw =>
        exec_effect rfl ((onMessage_accepted hid hg).trans ?_)⟩,
      fun s t f hid hg => exec_effect rfl (show fieldWakeEffect f s = _ from onMessage_accepted hid hg),
      fun s t f hid hg => exec_effect rfl (show attestationRequestEffect f s = _ from onMessage_accepted hid hg), fun s level => rfl⟩,
    fun s f hv hlo hhi hr => gate_restarting hv hlo hhi hr, fun s f => rfl, fun s f h => gate_outside h,
    fun s f hv hr hlo hhi => exec_effect rfl ((if_neg (Nat.not_lt.mpr hlo)).trans (congrArg Prod.fst (gate_unknown hv hr hlo hhi))),
    fun s f off hv hr hoff hid => ?_⟩
  · subst hoff
    simp only [List.mem_cons, List.not_mem_nil, or_false] at he
    rcases he with rfl | rfl | rfl | rfl <;> exact exec_effect rfl (onMessage_other hid)
  · subst hoff
    simp only [List.mem_cons, List.not_mem_nil, or_false] at he
    rcases he with rfl | rfl | rfl | rfl <;> exact exec_effect rfl (onMessage_dropped hid hg)
  · have hrest : t.restarting wardenIsland = false := (gate_restarting_eq hg wardenIsland).trans hw
    refine (if_neg (by simp [hrest])).trans ?_
    rw [State.applyCapRequest, clampCap_eq]
  · exact if_pos ((gate_restarting_eq hg wardenIsland).trans hw)
  · rw [gate_message hv hr hoff hid]
    refine ⟨fun hform => if_pos (by simp [hform]), fun hform hrep => ?_, fun hform hrep => ⟨fun hval => ?_, fun hval => ?_⟩⟩
    · exact (if_neg (by simp [hform])).trans (if_pos hrep)
    · exact (if_neg (by simp [hform])).trans ((if_neg (by simp [hrep])).trans (if_pos (by simp [hval])))
    · rw [if_neg (by simp [hform]), if_neg (by simp [hrep]), if_neg (by simp [hval])]
      exact ⟨rfl, rfl, _, rfl⟩

/-! ### The device's own messages -/

/-- The state after a fault summary of an item: it takes the next number and is sent. -/
def withSummary (s : State) (i : FieldItem) : State :=
  let bs := s.summaryBytes (s.field.summaryNo + 1).toNat i
  (s.sendCan 9 32 bs).modField fun x => { x with summaryNo := s.field.summaryNo + 1, summary := bs, summaryAt := s.now }

/-- What it leaves of the queue, and what it notes. -/
theorem withSummary_leaves (s : State) (i : FieldItem) : ∃ bs : List Byte, bs.length = 29 ∧
    (withSummary s i).field.items = s.field.items ∧ (withSummary s i).field.lost = s.field.lost ∧
    (withSummary s i).field.summaryNo = s.field.summaryNo + 1 ∧ (withSummary s i).field.summary = bs ∧
    (withSummary s i).field.summaryAt = s.now ∧ (withSummary s i).field.sent.length = s.field.sent.length + 1 ∧
    ∃ x, withSummary s i = { s with field := x } :=
  ⟨s.summaryBytes (s.field.summaryNo + 1).toNat i, toBytes_length .., rfl, rfl, rfl, rfl, rfl, List.length_append, _, rfl⟩

/-- FAULT_SUMMARY while the field core sends, by what is lost and queued. -/
theorem faultSummary_lost {s : State} (hs : s.fieldSends = true) (hf : s.field.firmware = true) (hl : s.field.lost ≠ 0) :
    faultSummaryEffect s = withSummary (s.modField fun x => { x with lost := 0 }) ⟨0xFF, s.field.lost, 0, 0⟩ := by
  obtain ⟨n, hn⟩ := Nat.exists_eq_succ_of_ne_zero hl
  rw [faultSummaryEffect, if_neg (by simp [hs, hf]), hn]
  rfl

theorem faultSummary_item {s : State} {i : FieldItem} {rest : List FieldItem} (hs : s.fieldSends = true)
    (hf : s.field.firmware = true) (hl : s.field.lost = 0) (hi : s.field.items = i :: rest) :
    faultSummaryEffect s = withSummary (s.modField fun x => { x with items := rest }) i := by
  rw [faultSummaryEffect, if_neg (by simp [hs, hf]), hl, hi]
  rfl

theorem faultSummary_again {s : State} (hs : s.fieldSends = true) (hf : s.field.firmware = true) (hl : s.field.lost = 0)
    (hi : s.field.items = []) : faultSummaryEffect s =
      if s.field.summary.isEmpty || s.now < s.field.summaryAt + 1000000 then s
      else (s.sendCan 9 32 s.field.summary).modField fun x => { x with summaryAt := s.now } := by
  rw [faultSummaryEffect, if_neg (by simp [hs, hf]), hl, hi]

/-- A quote's fragment, by the quote under way. -/
theorem quoteFragment_some {s : State} {bs : List Byte} {i : Nat} (hq : s.field.quote = some (bs, i)) :
    quoteFragmentEffect s =
      if !s.fieldSends || (i != 0 && s.now < s.field.quoteAt + 1000) ||
        (bs.isEmpty && (s.rng.failing || s.power != .run || s.restarting wardenIsland)) then s
      else
        let u := if bs.isEmpty then s.makeQuote s.field.quoteNonce else (s, bs)
        (u.1.sendCan 10 64 (BitVec.ofNat 8 i :: (u.2.drop (56 * i)).take 56)).modField fun x =>
          { x with quoteAt := u.1.now, quote := if i = 73 then none else some (u.2, i + 1) } := by
  rw [quoteFragmentEffect, hq]
  rfl

/-- Settles O29, message by message. -/
theorem fieldReports : Obligations.FieldReports := by
  unfold Obligations.FieldReports
  refine ⟨fun s hs => ⟨exec_effect rfl (if_pos (by simp [hs])), exec_effect rfl ?_, exec_effect rfl (if_pos (by simp [hs]))⟩,
    fun s hq => exec_effect rfl ?_, fun s bs i hq hi hnow => exec_effect rfl ?_, fun s i hq hs hi => ?_,
    fun s hs hf => exec_effect rfl (if_pos (by simp [hf])), fun s hs hf hl hi => ⟨fun h => exec_effect rfl ?_, fun hn h =>
      exec_effect rfl ?_⟩, fun s hs hf hl => ?_, fun s hs hnow => exec_effect rfl (if_neg ?_),
    fun s hnow => exec_effect rfl (if_pos (by simp [hnow])), fun s bs i hq hs hb hi => exec_effect rfl ?_,
    fun s i rest hs hf hl hi => ?_, fun s hv => exec_effect rfl (if_neg (by simp [hv])), fun s hv => exec_effect rfl (if_pos hv),
    fun s => rfl⟩
  · cases hq : s.field.quote with
    | none =>
      rw [quoteFragmentEffect, hq]
    | some x => exact (quoteFragment_some (bs := x.1) (i := x.2) hq).trans (if_pos (by simp [hs]))
  · rw [quoteFragmentEffect, hq]
  · exact (quoteFragment_some hq).trans (if_pos (by simp [hi, hnow]))
  · have hdue : ¬ (i ≠ 0 ∧ s.now < s.field.quoteAt + 1000) := by omega
    refine ⟨fun hready => exec_effect rfl ((quoteFragment_some hq).trans (if_pos ?_)), fun hready => exec_effect rfl
      ((quoteFragment_some hq).trans ((if_neg ?_).trans rfl))⟩
    · simp only [Bool.and_eq_false_iff, Bool.not_eq_false', beq_eq_false_iff_ne] at hready
      rcases hready with (h | h) | h <;> simp [h]
    · simp only [Bool.and_eq_true, Bool.not_eq_true', beq_iff_eq] at hready
      obtain ⟨⟨hr, hp⟩, hw⟩ := hready
      simpa [hs, hr, hw, hp] using hdue
  · refine (faultSummary_again hs hf hl hi).trans (if_pos ?_)
    rcases h with h | h <;> simp [h]
  · exact (faultSummary_again hs hf hl hi).trans (if_neg (by simp [hn, h]))
  · obtain ⟨bs, hlen, hitems, hlost, hno, hsum, hat, hsent, x, hx⟩ :=
      withSummary_leaves (s.modField fun x => { x with lost := 0 }) ⟨0xFF, s.field.lost, 0, 0⟩
    exact ⟨bs, _, exec_effect rfl (faultSummary_lost hs hf hl), hlen, hitems, hlost, hno, hsum, hat, hsent, x, hx⟩
  · simp [hs, hnow]
  · have hdue : ¬ (i ≠ 0 ∧ s.now < s.field.quoteAt + 1000) := by omega
    refine (quoteFragment_some hq).trans ((if_neg (by simpa [hs, hb] using hdue)).trans ?_)
    rw [if_neg (by simp [hb])]
  · obtain ⟨bs, hlen, hitems, -, hno, hsum, hat, hsent, x, hx⟩ := withSummary_leaves (s.modField fun x => { x with items := rest }) i
    exact ⟨bs, _, exec_effect rfl (faultSummary_item hs hf hl hi), hlen, hitems, hno, hsum, hat, hsent, x, hx⟩

end Sys2Proof.Machine
end

section
/-! SUPPORT. The limits of power and the ageing of islands (15 R390, R393, 08 R186). -/

namespace Sys2Proof.Machine

/-! ### Tables -/

theorem Table.get_set_self {α : Type} (d : α) (t : Table α) (a : Nat) (x : α) : Table.get d (Table.set t a x) a = x := by
  induction t with
  | nil => simp [Table.set, Table.get]
  | cons e t ih =>
    obtain ⟨k, v⟩ := e
    rw [Table.set]
    split_ifs with h1 h2
    · simp [Table.get]
    · simp [Table.get]
    · have : k ≠ a := fun h => h2 h.symm
      simp [Table.get, this, ih]

theorem Table.get_set_ne {α : Type} (d : α) (t : Table α) {a j : Nat} (h : j ≠ a) (x : α) :
    Table.get d (Table.set t a x) j = Table.get d t j := by
  induction t with
  | nil => simp [Table.set, Table.get, h.symm]
  | cons e t ih =>
    obtain ⟨k, v⟩ := e
    rw [Table.set]
    split_ifs with h1 h2
    · simp [Table.get, h.symm]
    · subst h2
      simp [Table.get, h.symm]
    · simp [Table.get, ih]

/-! ### What is told of a limit -/

/-- The state t is s with events and guarantees told: hosts, contexts, partitions and the field core's queue changed. -/
def Told (s t : State) : Prop := ∃ hs cs ps is n, t = { s with
  hosts := hs, ctxs := cs, ptns := ps, field := { s.field with items := is, lost := n } }

theorem Told.refl (s : State) : Told s s := ⟨s.hosts, s.ctxs, s.ptns, s.field.items, s.field.lost, rfl⟩

theorem Told.trans {s t u : State} (h : Told s t) (k : Told t u) : Told s u := by
  obtain ⟨_, _, _, _, _, rfl⟩ := h
  obtain ⟨hs, cs, ps, is, n, rfl⟩ := k
  exact ⟨hs, cs, ps, is, n, rfl⟩

theorem told_foldl {α : Type} {f : State → α → State} (h : ∀ s a, Told s (f s a)) (as : List α) (s : State) :
    Told s (as.foldl f s) := by
  induction as generalizing s with
  | nil => exact .refl s
  | cons a as ih => exact (h s a).trans (ih _)

theorem told_setPtn (s : State) (p : Nat) (x : Option Partition) : Told s (s.setPtn p x) :=
  ⟨s.hosts, s.ctxs, _, s.field.items, s.field.lost, rfl⟩

theorem told_modPtn (s : State) (p : Nat) (f : Partition → Partition) : Told s (s.modPtn p f) := by
  unfold State.modPtn
  split
  · exact .refl s
  · exact told_setPtn ..

theorem told_event (s : State) (r : Ring) (code a0 a1 a2 : Nat) : Told s (s.event r code a0 a1 a2) := by
  obtain ⟨hs, cs, e⟩ := State.event_shape s r code a0 a1 a2
  exact ⟨hs, cs, s.ptns, s.field.items, s.field.lost, e⟩

theorem told_eventHosts (s : State) (code a0 a1 a2 : Nat) : Told s (s.eventHosts code a0 a1 a2) := by
  refine told_foldl (fun s h => ?_) _ s
  split
  · exact told_event ..
  · exact .refl s

theorem told_eventMgmts (s : State) (code a0 a1 a2 : Nat) : Told s (s.eventMgmts code a0 a1 a2) :=
  told_foldl (fun s p => told_event s _ code a0 a1 a2) _ s

theorem told_report (s : State) (code a0 a1 a2 : Nat) : Told s (s.report code a0 a1 a2) := by
  unfold State.report
  split_ifs
  · exact .refl s
  · exact ⟨s.hosts, s.ctxs, s.ptns, _, s.field.lost, rfl⟩
  · exact ⟨s.hosts, s.ctxs, s.ptns, s.field.items, _, rfl⟩

theorem told_guaranteeEvent (s : State) (p code a0 slot late : Nat) : Told s (s.guaranteeEvent p code a0 slot late) := by
  unfold State.guaranteeEvent
  split
  · exact .refl s
  · dsimp only
    split_ifs
    · exact (told_event ..).trans (told_event ..)
    · exact told_event ..

theorem told_breach (s : State) (p reason late : Nat) (slot : Option Nat) : Told s (s.breach p reason late slot) := by
  unfold State.breach
  split
  · exact .refl s
  · split_ifs
    · exact .refl s
    · exact (told_modPtn ..).trans (told_guaranteeEvent ..)
    · exact (told_modPtn ..).trans (told_guaranteeEvent ..)

theorem told_restored (s : State) (p : Nat) : Told s (s.restored p) := by
  unfold State.restored
  split
  · exact .refl s
  · exact told_guaranteeEvent ..

theorem told_refreshHolds (s : State) : Told s s.refreshHolds := by
  refine told_foldl (fun s p => ?_) _ s
  split
  · exact .refl s
  · dsimp only
    split_ifs
    · exact (told_modPtn ..).trans (told_breach ..)
    · exact (told_modPtn ..).trans (told_restored ..)
    · exact told_modPtn ..

theorem told_guardLimits (s : State) : Told s s.guardLimits := by
  refine told_foldl (fun s p => ?_) _ s
  split
  · exact .refl s
  · dsimp only
    split_ifs
    · exact .refl s
    · exact (told_modPtn ..).trans (told_breach ..)
    · exact told_modPtn ..
    · exact (told_modPtn ..).trans (told_restored ..)

/-- New clocks are told too, beside the clocks themselves. -/
theorem setClocks_shape (s : State) : ∃ cs, Told { s with pwr := { s.pwr with clocks := cs } } s.setClocks :=
  ⟨_, told_foldl (fun _ _ => told_modPtn ..) _ _⟩

/-! ### Limits -/

/-- The limits set, by what they are and what is told. -/
theorem setLimits_told {s : State} (hw : s.wardenRuns = true) (acting : BitVec 5) (c : Nat) : ∃ cs,
    Told { s with pwr := { s.pwr with acting := acting, ceiling := max 150 (min 250 c), clocks := cs } } (s.setLimits acting c) := by
  obtain ⟨cs, h⟩ := setClocks_shape { s with pwr := { s.pwr with acting := acting, ceiling := max 150 (min 250 c) } }
  refine ⟨cs, ?_⟩
  rw [State.setLimits, if_neg (by simp [hw])]
  refine ((h.trans (told_refreshHolds _)).trans ?_).trans (told_guardLimits _)
  split_ifs
  · exact ((told_eventHosts ..).trans (told_eventMgmts ..)).trans (told_report ..)
  · exact .refl _

theorem setLimits_asleep {s : State} (hw : s.wardenRuns = false) (acting : BitVec 5) (c : Nat) : s.setLimits acting c = s := by
  rw [State.setLimits, if_pos (by simp [hw])]

/-- A row of the limits that begins or ends. -/
theorem withRow_acts (a : BitVec 5) (on : Bool) :
    (withRow a 0 on).getLsbD 0 = on ∧ (withRow a 1 on).getLsbD 1 = on ∧ (withRow a 1 on).getLsbD 0 = a.getLsbD 0 := by
  cases on <;> simp [withRow]

/-- What setting limits leaves, whether the warden runs or not. -/
theorem setLimits_leaves (s : State) (acting : BitVec 5) (c : Nat) :
    (s.setLimits acting c).pwr.die = s.pwr.die ∧ (s.setLimits acting c).pwr.stackTemps = s.pwr.stackTemps ∧
      (s.setLimits acting c).memc = s.memc ∧ (s.setLimits acting c).field.tripped = s.field.tripped := by
  cases hw : s.wardenRuns with
  | false => rw [setLimits_asleep hw]; exact ⟨rfl, rfl, rfl, rfl⟩
  | true =>
    obtain ⟨_, _, _, _, _, _, e⟩ := setLimits_told hw acting c
    rw [e]
    exact ⟨rfl, rfl, rfl, rfl⟩

/-- The limits in force once set. -/
theorem setLimits_pwr {s : State} (hw : s.wardenRuns = true) (acting : BitVec 5) (c : Nat) :
    (s.setLimits acting c).pwr.acting = acting ∧ (s.setLimits acting c).pwr.ceiling = max 150 (min 250 c) := by
  obtain ⟨_, _, _, _, _, _, e⟩ := setLimits_told hw acting c
  rw [e]
  exact ⟨rfl, rfl⟩

/-- The hottest stack as the fold finds it: from a start, the stacks of a list. -/
def hotter (w : Power) (m : Int × Nat) (i : Nat) : Int × Nat :=
  match w.stackTemps[i]? with
  | some t => if celsius t > m.1 then (celsius t, i) else m
  | none => m

theorem hotter_some {w : Power} {i : Nat} (hi : i < 6) (m : Int × Nat) :
    (hotter w m i).1 = max m.1 (celsius w.stackTemps[i]) := by
  have h : w.stackTemps[i]? = some w.stackTemps[i] := Vector.getElem?_eq_getElem hi
  simp only [hotter, h]
  split <;> omega

/-- The hottest stack bounds every stack, and is one of them. -/
theorem hotter_foldl {w : Power} (is : List Nat) (his : ∀ i ∈ is, i < 6) (m : Int × Nat) (b : Int) :
    (is.foldl (hotter w) m).1 ≤ b ↔ m.1 ≤ b ∧ ∀ i, (hi : i < 6) → i ∈ is → celsius w.stackTemps[i] ≤ b := by
  induction is generalizing m with
  | nil => simp
  | cons i is ih =>
    have hi : i < 6 := his i (by simp)
    rw [List.foldl_cons, ih (fun j hj => his j (by simp [hj])), hotter_some hi]
    constructor
    · rintro ⟨hm, hall⟩
      refine ⟨by omega, fun j hj hmem => ?_⟩
      rcases List.mem_cons.mp hmem with rfl | hmem
      · omega
      · exact hall j hj hmem
    · rintro ⟨hm, hall⟩
      have := hall i hi (by simp)
      exact ⟨by omega, fun j hj hmem => hall j hj (by simp [hmem])⟩

/-- Every stack is at most as hot as a bound when the hottest is. -/
theorem hottest_le_iff (w : Power) (b : Int) : w.hottest.1 ≤ b ↔ ∀ k : Fin 6, celsius w.stackTemps[k] ≤ b := by
  refine (hotter_foldl (w := w) (List.range 6) (fun i hi => List.mem_range.mp hi) (celsius w.stackTemps[0], 0) b).trans ?_
  constructor
  · exact fun h k => h.2 k.val k.isLt (List.mem_range.mpr k.isLt)
  · exact fun h => ⟨h 0, fun i hi _ => h ⟨i, hi⟩⟩

/-- The refresh rates that readings set. -/
def doubledBy (temps : Vector (BitVec 8) 6) (old : Vector Bool 6) : Vector Bool 6 := Vector.ofFn fun i : Fin 6 =>
  if celsius temps[i] > 85 then true else if celsius temps[i] ≤ 82 then false else old[i]

/-- They are set stack by stack. -/
theorem doubledBy_get (temps : Vector (BitVec 8) 6) (old : Vector Bool 6) (k : Fin 6) :
    (85 < celsius temps[k] → (doubledBy temps old)[k] = true) ∧ (celsius temps[k] ≤ 82 → (doubledBy temps old)[k] = false) ∧
      (82 < celsius temps[k] → celsius temps[k] ≤ 85 → (doubledBy temps old)[k] = old[k]) := by
  have hd : (doubledBy temps old)[k] = if celsius temps[k] > 85 then true else if celsius temps[k] ≤ 82 then false else old[k] :=
    Vector.getElem_ofFn ..
  rw [hd]
  refine ⟨fun h => if_pos h, fun h => ?_, fun h1 h2 => ?_⟩
  · rw [if_neg (by omega), if_pos h]
  · rw [if_neg (by omega), if_neg (by omega)]

/-- The state in which a reading of the temperatures sets limits. -/
def readTemps (die : BitVec 8) (temps : Vector (BitVec 8) 6) (s : State) : State :=
  { s with
    pwr := { s.pwr with die := die, stackTemps := temps }
    memc := { s.memc with doubled := doubledBy temps s.memc.doubled }
    field := { s.field with tripped := s.field.tripped && 90 < celsius die } }

/-- A reading of the temperatures, by the rows that it begins and ends. -/
theorem tempReadout_eq (die : BitVec 8) (temps : Vector (BitVec 8) 6) (s : State) : tempReadoutEffect die temps s =
    if (readTemps die temps s).restarting wardenIsland then readTemps die temps s
    else (readTemps die temps s).setLimits (withRow (withRow (readTemps die temps s).pwr.acting 0
        (if celsius die ≥ 105 || (readTemps die temps s).pwr.hottest.1 ≥ 95 then true
          else if celsius die ≤ 100 && (readTemps die temps s).pwr.hottest.1 ≤ 90 then false else (readTemps die temps s).pwr.acts 0)) 1
        (if celsius die ≥ 112 then true else if celsius die ≤ 105 then false else (readTemps die temps s).pwr.acts 1))
      (if celsius die ≥ 112 then 150 else (readTemps die temps s).pwr.ceiling) := by
  rfl

/-- What a reading of the temperatures leaves, before and after limits. -/
theorem tempReadout_leaves (die : BitVec 8) (temps : Vector (BitVec 8) 6) (s : State) :
    (tempReadoutEffect die temps s).pwr.die = die ∧ (tempReadoutEffect die temps s).pwr.stackTemps = temps ∧
      (tempReadoutEffect die temps s).memc.doubled = doubledBy temps s.memc.doubled ∧
      (tempReadoutEffect die temps s).field.tripped = (s.field.tripped && 90 < celsius die) := by
  rw [tempReadout_eq]
  split
  · exact ⟨rfl, rfl, rfl, rfl⟩
  · obtain ⟨hd, ht, hm, hf⟩ := setLimits_leaves (readTemps die temps s) _ _
    exact ⟨hd, ht, congrArg (·.doubled) hm, hf⟩

/-- The rows that a reading sets while the warden runs and is not restarting. -/
theorem tempReadout_rows {die : BitVec 8} {temps : Vector (BitVec 8) 6} {s : State} (hw : s.wardenRuns = true)
    (hr : s.restarting wardenIsland = false) :
    (tempReadoutEffect die temps s).pwr.acts 0 = (if celsius die ≥ 105 || (readTemps die temps s).pwr.hottest.1 ≥ 95 then true
      else if celsius die ≤ 100 && (readTemps die temps s).pwr.hottest.1 ≤ 90 then false else s.pwr.acts 0) ∧
    (tempReadoutEffect die temps s).pwr.acts 1 = (if celsius die ≥ 112 then true else if celsius die ≤ 105 then false else s.pwr.acts 1) ∧
    (tempReadoutEffect die temps s).pwr.ceiling = max 150 (min 250 (if celsius die ≥ 112 then 150 else s.pwr.ceiling)) := by
  have hr' : ¬ (readTemps die temps s).restarting wardenIsland = true := (Bool.not_eq_true _).mpr hr
  have hw' : (readTemps die temps s).wardenRuns = true := hw
  rw [tempReadout_eq, if_neg hr']
  obtain ⟨ha, hc⟩ := setLimits_pwr hw' (withRow (withRow (readTemps die temps s).pwr.acting 0
        (if celsius die ≥ 105 || (readTemps die temps s).pwr.hottest.1 ≥ 95 then true
          else if celsius die ≤ 100 && (readTemps die temps s).pwr.hottest.1 ≤ 90 then false else (readTemps die temps s).pwr.acts 0)) 1
        (if celsius die ≥ 112 then true else if celsius die ≤ 105 then false else (readTemps die temps s).pwr.acts 1))
      (if celsius die ≥ 112 then 150 else (readTemps die temps s).pwr.ceiling)
  refine ⟨?_, ?_, hc⟩
  · rw [Power.acts, ha, (withRow_acts _ _).2.2, (withRow_acts _ _).1]
    rfl
  · rw [Power.acts, ha, (withRow_acts _ _).2.1]
    rfl

/-- A step of the ceiling while the warden does not restart. -/
theorem ceilingStep_eq {s : State} (hr : s.restarting wardenIsland = false) : ceilingStepEffect s =
    let hot := s.pwr.acts 0 && (celsius s.pwr.die ≥ 105 || s.pwr.hottest.1 ≥ 95)
    let cooler := if hot then s.pwr.ceiling - 5 else s.pwr.ceiling
    if s.pwr.acts 4 then
      if s.takeFree.1.getLsbD 0 then s.takeFree.2.setLimits (withRow s.pwr.acting 4 false) cooler
      else s.takeFree.2.setLimits s.pwr.acting (cooler - 1)
    else if hot then s.setLimits s.pwr.acting cooler
    else if s.pwr.acting &&& 0x1B#5 = 0 then s.setLimits s.pwr.acting (s.pwr.ceiling + 5)
    else s := by
  rw [ceilingStepEffect, if_neg (by simp [hr])]
  rfl

/-- With none of rows 0, 1, 3 and 4 acting, rows 0 and 4 do not act. -/
theorem acts_of_none {w : Power} (h : w.acting &&& 0x1B#5 = 0) : w.acts 0 = false ∧ w.acts 4 = false := by
  have hall : ∀ a : BitVec 5, a &&& 0x1B#5 = 0 → a.getLsbD 0 = false ∧ a.getLsbD 4 = false := by decide
  exact hall w.acting h

/-! ### The ageing of islands -/

/-- The least margin as the fold finds it. -/
theorem leastMargin {least : BitVec 16} (ms : List (BitVec 16)) (m : BitVec 16) (hm : least = m ∨ least ∈ ms)
    (hle : Bits.signed 16 least.toNat ≤ Bits.signed 16 m.toNat)
    (hall : ∀ x ∈ ms, Bits.signed 16 least.toNat ≤ Bits.signed 16 x.toNat) :
    ms.foldl (fun m x => if (Bits.signed 16 x.toNat) < (Bits.signed 16 m.toNat) then x else m) m = least := by
  have inj : ∀ x y : BitVec 16, Bits.signed 16 x.toNat = Bits.signed 16 y.toNat → x = y := fun x y h => by
    refine BitVec.eq_of_toNat_eq ?_
    have := x.isLt
    have := y.isLt
    simp only [Bits.signed] at h
    split at h <;> split at h <;> omega
  induction ms generalizing m with
  | nil => exact (hm.resolve_right List.not_mem_nil).symm
  | cons x ms ih =>
    have hx := hall x (by simp)
    rw [List.foldl_cons]
    refine ih _ ?_ ?_ fun y hy => hall y (by simp [hy])
    · split_ifs with h
      · rcases hm with rfl | hm
        · omega
        · exact (List.mem_cons.mp hm)
      · rcases hm with rfl | hm
        · exact .inl rfl
        · rcases List.mem_cons.mp hm with rfl | hm
          · exact .inl (inj _ _ (by omega))
          · exact .inr hm
    · split_ifs <;> assumption

/-- What the re-plan makes of an island. -/
def replanned (i : Nat) (a : IslandAge) (up : Nat) : IslandAge :=
  let top := Config.voltageCeiling i
  let v := tableVoltage i a.fMax
  let past := up != 0 && top < v + a.offset + up
  let moves := past && movingIsland i && islandBottom i < a.fMax
  let b : IslandAge := { a with
    offset := if up = 0 then a.offset else if past then max a.offset (top - v) else a.offset + up
    fMax := if moves then max (islandBottom i) (a.fMax - islandStep i) else a.fMax
    offsets := Lists.lastN 1024 (a.offsets ++ [a.offset]) }
  let full := top ≤ tableVoltage i b.fMax + b.offset
  let spent := if movingIsland i then past && !moves else full
  let b := { b with forecast := forecastHours i b, atCeiling := full, exhausted := a.exhausted || spent }
  { b with low := a.low || b.forecast < 8760 }

theorem told_ageingEvent (s : State) (i : Nat) (a : IslandAge) (code : Nat) : Told s (s.ageingEvent i a code) :=
  (told_eventHosts ..).trans (told_report ..)

/-- A step that may be taken or left tells no more than the step. -/
theorem told_ite {s t : State} (c : Prop) [Decidable c] (h : Told s t) : Told s (if c then t else s) := by
  split
  · exact h
  · exact .refl s

theorem Told.flash {s t : State} (h : Told s t) (fl : Flash) : Told { s with flash := fl } { t with flash := fl } := by
  obtain ⟨hs, cs, ps, is, n, rfl⟩ := h
  exact ⟨hs, cs, ps, is, n, rfl⟩

/-- What is told of a re-plan that made b of an island's age a. -/
def tellReplan (i : Nat) (a b : IslandAge) (past moves : Bool) (s : State) : State :=
  let s := if i = 150 then s.record (.ages s.pwr.ages) else s
  let s := if b.low && !a.low then s.ageingEvent i b 1 else s
  let s := if (b.atCeiling || past) && !a.atCeiling then s.ageingEvent i b 2 else s
  let s := if moves then s.ageingEvent i b 3 else s
  let s := if b.exhausted && !a.exhausted then s.ageingEvent i b 4 else s
  s.guardLimits

theorem tellReplan_told (i : Nat) (a b : IslandAge) (past moves : Bool) (s : State) :
    ∃ fl, Told { s with flash := fl } (tellReplan i a b past moves s) := by
  have hrecord : ∃ fl, (if i = 150 then s.record (.ages s.pwr.ages) else s) = { s with flash := fl } := by
    split
    · exact ⟨_, rfl⟩
    · exact ⟨s.flash, rfl⟩
  obtain ⟨fl, e⟩ := hrecord
  refine ⟨fl, ?_⟩
  rw [tellReplan, e]
  exact ((((told_ite _ (told_ageingEvent ..)).trans (told_ite _ (told_ageingEvent ..))).trans
    (told_ite _ (told_ageingEvent ..))).trans (told_ite _ (told_ageingEvent ..))).trans (told_guardLimits _)

/-- A re-plan that comes to an island: the island's age, the turn and the clocks, and what is told of them. -/
theorem ageingReplan_eq {s : State} {i : Fin 152} {m : Vector (BitVec 16) 4} (h : s.replans i.val = true) :
    ∃ began past moves, ageingReplanEffect i m s =
      let least := m.toList.foldl (fun m x => if (Bits.signed 16 x.toNat) < (Bits.signed 16 m.toNat) then x else m) m[0]
      let b := replanned i.val (s.age i.val) (Config.restoreSteps i.val least)
      tellReplan i.val (s.age i.val) b past moves (State.setClocks { s with
        pwr := { s.pwr with replan := (i.val + 1) % 151, replanned := began, ages := Table.set s.pwr.ages i.val b } }) := by
  rw [ageingReplanEffect, if_neg (by simp [h])]
  exact ⟨_, _, _, rfl⟩

/-- So it leaves the rest of the state, but for what is told. -/
theorem ageingReplan_told {s : State} {i : Fin 152} {m : Vector (BitVec 16) 4} {least : BitVec 16} (h : s.replans i.val = true)
    (hl : m.toList.foldl (fun m x => if (Bits.signed 16 x.toNat) < (Bits.signed 16 m.toNat) then x else m) m[0] = least) :
    ∃ began cs fl, Told { s with
      pwr := { s.pwr with
        replan := (i.val + 1) % 151, replanned := began, clocks := cs
        ages := Table.set s.pwr.ages i.val (replanned i.val (s.age i.val) (Config.restoreSteps i.val least)) }
      flash := fl } (ageingReplanEffect i m s) := by
  obtain ⟨began, past, moves, e⟩ := ageingReplan_eq (m := m) h
  rw [e, hl]
  obtain ⟨cs, hc⟩ := setClocks_shape { s with pwr := { s.pwr with
    replan := (i.val + 1) % 151, replanned := began
    ages := Table.set s.pwr.ages i.val (replanned i.val (s.age i.val) (Config.restoreSteps i.val least)) } }
  obtain ⟨fl, ht⟩ := tellReplan_told i.val (s.age i.val) (replanned i.val (s.age i.val) (Config.restoreSteps i.val least)) past moves
    (State.setClocks { s with pwr := { s.pwr with
      replan := (i.val + 1) % 151, replanned := began
      ages := Table.set s.pwr.ages i.val (replanned i.val (s.age i.val) (Config.restoreSteps i.val least)) } })
  exact ⟨began, cs, fl, (hc.flash fl).trans ht⟩

/-- The offset, the highest clock and the exhaustion that a re-plan leaves. -/
theorem replanned_eq (i : Nat) (a : IslandAge) (up : Nat) :
    let past := up ≠ 0 ∧ Config.voltageCeiling i < tableVoltage i a.fMax + a.offset + up
    let v := tableVoltage i a.fMax
    (replanned i a up).offset =
      (if up = 0 then a.offset else if past then max a.offset (Config.voltageCeiling i - v) else a.offset + up) ∧
    (replanned i a up).fMax = (if past ∧ movingIsland i = true ∧ islandBottom i < a.fMax
      then max (islandBottom i) (a.fMax - islandStep i) else a.fMax) ∧
    ((replanned i a up).exhausted = true ↔ a.exhausted = true ∨
      (if movingIsland i = true then past ∧ a.fMax ≤ islandBottom i
       else Config.voltageCeiling i ≤ v + (replanned i a up).offset)) := by
  intro past v
  have hpast : ((up != 0 && decide (Config.voltageCeiling i < tableVoltage i a.fMax + a.offset + up)) = true) = past := by
    simp [past]
  refine ⟨?_, ?_, ?_⟩
  · simp only [replanned, hpast]
    rfl
  · simp only [replanned, Bool.and_eq_true, hpast, decide_eq_true_eq, and_assoc]
  · simp only [replanned, Bool.or_eq_true]
    refine or_congr Iff.rfl ?_
    cases hm : movingIsland i with
    | true =>
      by_cases hp : past
      · have hp' := hpast.symm ▸ hp
        simp only [hp', Bool.true_and, if_true, Bool.not_eq_true', decide_eq_false_iff_not, Nat.not_lt, hp, true_and]
      · have hp' : (up != 0 && decide (Config.voltageCeiling i < tableVoltage i a.fMax + a.offset + up)) = false :=
          (Bool.not_eq_true _).mp (hpast ▸ hp)
        simp [hp', hp]
    | false =>
      simp only [Bool.and_false, Bool.false_eq_true, if_false, Bool.false_and, decide_eq_true_eq]
      exact Iff.rfl

/-- Settles O32: the limits row by row, then the re-plan. -/
theorem powerLimitsAgeing : Obligations.PowerLimitsAgeing := by
  unfold Obligations.PowerLimitsAgeing
  refine ⟨⟨fun s die temps => ?_, fun s hr => ⟨exec_effect rfl (if_pos hr), exec_effect rfl (if_pos hr)⟩, fun s hr => ?_,
      fun s => rfl, fun s => rfl, fun s hr => exec_effect rfl (if_neg (by simp [hr])), fun s acting c hw => ?_⟩,
    fun s i => ?_, fun s i m h => exec_effect rfl (if_pos (by simp [h])), fun s i m least h hmem hall => ?_⟩
  · obtain ⟨hdie, htemps, hdoubled, htrip⟩ := tempReadout_leaves die temps s
    refine ⟨_, rfl, hdie, htemps, fun k => ?_, fun hr => ?_, fun hw hr => ?_, fun h => ?_, fun h => ?_⟩
    · rw [hdoubled]
      exact doubledBy_get ..
    · rw [tempReadout_eq, if_pos (show (readTemps die temps s).restarting wardenIsland = true from hr)]
      exact ⟨rfl, rfl⟩
    · obtain ⟨h0, h1, hc⟩ := tempReadout_rows (die := die) (temps := temps) hw hr
      have hhot := hottest_le_iff (readTemps die temps s).pwr
      rw [h0, h1, hc]
      refine ⟨fun h => if_pos ?_, fun hd hk => ?_, fun h => ⟨if_pos h, ?_⟩, fun h => ?_⟩
      · simp only [Bool.or_eq_true, decide_eq_true_eq]
        refine h.imp id fun ⟨k, hk⟩ => ?_
        have := (hhot 94).not.mpr fun hall => absurd (show celsius temps[k] ≤ 94 from hall k) (by omega)
        omega
      · have := (hhot 90).mpr hk
        rw [if_neg (by simp; omega), if_pos (by simp; omega)]
      · rw [if_pos h]; rfl
      · rw [if_neg (by omega), if_pos h]
    · rw [htrip]; simp [h]
    · rw [htrip]; simp; omega
  · intro hot cooler
    rw [show exec .ceilingStep s = .next (ceilingStepEffect s) from rfl, ceilingStep_eq hr]
    have hdec : (s.pwr.acts 0 && (decide (celsius s.pwr.die ≥ 105) || decide (s.pwr.hottest.1 ≥ 95))) = decide hot := by
      simp [hot]
    dsimp only
    simp only [hdec, decide_eq_true_eq]
    refine ⟨fun h4 => ?_, fun h4 hh => ?_, fun h0 => ?_, fun h4 hh h0 => ?_⟩
    · rw [if_pos h4]
      rfl
    · rw [if_neg (by simp [h4]), if_pos hh, if_pos hh]
    · obtain ⟨hn0, hn4⟩ := acts_of_none h0
      rw [if_neg (by simp [hn4]), if_neg (by simp [hot, hn0]), if_pos h0]
    · rw [if_neg (by simp [h4]), if_neg hh, if_neg h0]
  · obtain ⟨ha, hc⟩ := setLimits_pwr hw acting c
    exact ⟨ha, hc, by omega, by omega⟩
  · simp only [State.replans, Bool.and_eq_true, Bool.or_eq_true, bne_iff_ne, beq_iff_eq, Bool.not_eq_true', decide_eq_true_eq,
      and_assoc]
  · obtain ⟨began, cs, fl, _, _, _, _, _, e⟩ := ageingReplan_told (m := m) h
      (leastMargin m.toList m[0] (.inr hmem) (hall _ (by simp)) hall)
    obtain ⟨hoff, hmax, hex⟩ := replanned_eq i.val (s.age i.val) (Config.restoreSteps i.val least)
    have hage : (ageingReplanEffect i m s).age i.val = replanned i.val (s.age i.val) (Config.restoreSteps i.val least) := by
      rw [e]
      exact Table.get_set_self ..
    refine ⟨_, rfl, ?_⟩
    rw [hage]
    refine ⟨hoff, hmax, hex, ?_, fun j hj => ?_, ?_, ?_⟩
    all_goals rw [e]
    exact Table.get_set_ne _ _ hj _

end Sys2Proof.Machine
end

section
/-! SUPPORT. The PWR commands and the power estimates (15 R378, R379, R395). -/

namespace Sys2Proof.Machine

/-! ### PWR.QUERY by its kind -/

section
variable {kind : BitVec 2} {p : BitVec 3} {island : BitVec 8} {point : BitVec 4} {s : State} {q : Req}

theorem pwrQueryBody_device (hk : kind = 0) : pwrQueryBody kind p island point s q = .done s stOk s.pwrStat 0 := by
  subst hk; rfl

/-- A partition that the ring reaches. -/
theorem pwrQueryBody_ptn (hk : kind = 1) : pwrQueryBody kind p island point s q =
    match (match q.ring with
      | .ctx c => some (ptnOf c)
      | .host h => if s.owner p.toNat = some h then some p.toNat else none).bind s.ptn? with
    | some x => .done s stOk (State.pwrPtnStat x) 0
    | none => .status s stNoObject := by
  subst hk; rfl

theorem pwrQueryBody_island (hk : kind = 2) : pwrQueryBody kind p island point s q =
    if !(ctxOf q.ring).isNone then .status s stDenied
    else if 150 < island.toNat then .status s stBadField
    else .done s stOk (packBits [((s.age island.toNat).offset % 256, 0), ((s.age island.toNat).fMax % 256, 8),
      (Bits.ofBool (s.age island.toNat).exhausted, 16)]) (s.age island.toNat).forecast := by
  subst hk; rfl

theorem pwrQueryBody_point (hk : kind = 3) : pwrQueryBody kind p island point s q =
    if !(ctxOf q.ring).isNone then .status s stDenied
    else if 150 < island.toNat || (!movingIsland island.toNat && point != 0) then .status s stBadField
    else .done s stOk (packBits [((islandPoint island.toNat point.toNat).1 % 256, 0),
      ((islandPoint island.toNat point.toNat).2 % 65536, 16)]) (Config.voltageCeiling island.toNat % 65536) := by
  subst hk; rfl

/-- The kinds that name an island. -/
theorem kind_island (h : kind.toNat ≥ 2) : kind = 2 ∨ kind = 3 := by
  have hall : ∀ k : BitVec 2, k.toNat ≥ 2 → k = 2 ∨ k = 3 := by decide
  exact hall kind h

end

/-- A ring's partition, as the started state has it. -/
theorem reachesPtn_start (s : State) (q : Req) (r : Ring) (p : Nat) : (s.start q).reachesPtn r p = s.reachesPtn r p := by
  cases r <;> simp [State.reachesPtn]

/-- PWR.MODE of a partition that the ring reaches, or that empties no phase entries. -/
theorem pwrModeBody_reached {mode drizzle clear : Bool} {p : BitVec 3} {s : State} {q : Req}
    (h : clear = false ∨ s.reachesPtn q.ring p.toNat = true) : pwrModeBody mode drizzle clear p s q =
      let r := (s.stageDev .pwrCfg (BitVec.ofNat 64 (Bits.ofBool mode + 2 * Bits.ofBool drizzle)) 3).commitDevice [.pwrCfg]
      .done (if clear && r.2.1 == stOk then r.1.clearPhases p.toNat else r.1) r.2.1 r.2.2 0 := by
  refine (if_neg ?_).trans rfl
  rcases h with h | h <;> simp [h]

/-- Settles O33, command by command. -/
theorem powerCommands : Obligations.PowerCommands := by
  unfold Obligations.PowerCommands
  refine ⟨fun s q host floor hr => exec_done rfl hr rfl, fun s q mode drizzle clear p hr => ⟨fun h => ?_, fun hc hp hst => ?_, fun hc hp =>
      exec_status rfl hr (if_pos ?_)⟩, fun s q kind p island point hr => ⟨fun hk => exec_done rfl hr (pwrQueryBody_device hk),
      fun h x hk hq ho hx => exec_done rfl hr ((pwrQueryBody_ptn hk).trans ?_), fun c x hk hq hx =>
        exec_done rfl hr ((pwrQueryBody_ptn hk).trans ?_), fun h hk hq ho => exec_status rfl hr ((pwrQueryBody_ptn hk).trans ?_),
      fun c hk hq hx => exec_status rfl hr ((pwrQueryBody_ptn hk).trans ?_), fun h hk hq hbad => ?_, fun h hk hq hi =>
        exec_done rfl hr ((pwrQueryBody_island hk).trans ?_), fun h hk hq hi hp =>
        exec_done rfl hr ((pwrQueryBody_point hk).trans ?_), fun c hk hq => ?_⟩,
    fun s p mw hw => exec_effect rfl (if_pos hw), fun s p mw hw => exec_effect rfl (if_neg (by simp [hw]))⟩
  · refine exec_done rfl hr ((pwrModeBody_reached ?_).trans (congrArg (Ran.done · _ _ _) (if_neg ?_)))
    · exact h.imp id fun h => (reachesPtn_start ..).trans h.2
    · rcases h with h | h
      · simp [h]
      · simp only [Bool.and_eq_true, beq_iff_eq, not_and]
        exact fun _ => h.1
  · refine exec_done rfl hr ((pwrModeBody_reached (.inr ((reachesPtn_start ..).trans hp))).trans ?_)
    dsimp only
    rw [if_pos (by simp only [hc, Bool.true_and, beq_iff_eq]; exact hst)]
    exact congrArg (Ran.done _ · _ _) hst
  · simp [hc, reachesPtn_start, hp]
  · rw [hq]; simp [ho, hx]
  · rw [hq]; simp [hx]
  · rw [hq]
    dsimp only
    rw [if_neg ho, Option.bind_none]
  · rw [hq]
    dsimp only
    rw [Option.bind_some, hx]
  · rcases kind_island hk with hk | hk
    · refine exec_status rfl hr ((pwrQueryBody_island hk).trans ((if_neg (by simp [hq, ctxOf])).trans (if_pos ?_)))
      rcases hbad with hbad | ⟨h3, -⟩
      · exact hbad
      · rw [hk] at h3; exact absurd h3 (by decide)
    · refine exec_status rfl hr ((pwrQueryBody_point hk).trans ((if_neg (by simp [hq, ctxOf])).trans (if_pos ?_)))
      rcases hbad with hbad | ⟨-, hm, hp⟩
      · simp [hbad]
      · simp only [hm, bne_iff_ne.mpr hp, Bool.not_false, Bool.and_self, Bool.or_true]
  · exact (if_neg (by simp [hq, ctxOf])).trans (if_neg (by omega))
  · refine (if_neg (by simp [hq, ctxOf])).trans (if_neg ?_)
    simp only [Bool.or_eq_true, decide_eq_true_eq, Bool.and_eq_true, Bool.not_eq_true', bne_iff_ne, not_or, not_and, not_not, Nat.not_lt]
    exact ⟨hi, fun hm => hp.resolve_left (by simp [hm])⟩
  · rcases kind_island hk with hk | hk
    · exact exec_status rfl hr ((pwrQueryBody_island hk).trans (if_pos (by simp [hq, ctxOf])))
    · exact exec_status rfl hr ((pwrQueryBody_point hk).trans (if_pos (by simp [hq, ctxOf])))

end Sys2Proof.Machine
end

section
/-! SUPPORT. Restarts of control cores, Becalmed, watchdogs and deadlines (16 R399, R411, R412, R416; 12 R307). -/

namespace Sys2Proof.Machine

/-! ### Partitions set and read -/

theorem ptn?_lt {s : State} {p : Nat} {x : Partition} (h : s.ptn? p = some x) : p < 8 := by
  by_contra hge
  simp [State.ptn?, Vector.getElem?_eq_none (Nat.le_of_not_lt hge)] at h

/-- A partition changed, as every number reads it. -/
theorem ptn?_modPtn (s : State) (p r : Nat) (f : Partition → Partition) :
    (s.modPtn p f).ptn? r = if r = p then (s.ptn? p).map f else s.ptn? r := by
  cases hx : s.ptn? p with
  | none =>
    have e : s.modPtn p f = s := by
      unfold State.modPtn
      rw [hx]
    rw [e, Option.map_none]
    split_ifs with h
    · rw [h, hx]
    · rfl
  | some x =>
    split_ifs with h
    · rw [h, ptn?_modPtn_self f (ptn?_lt hx) hx, Option.map_some]
    · unfold State.modPtn
      rw [hx]
      exact ptn?_setPtn_ne s h _

theorem ptnNos_mem {s : State} {p : Nat} {x : Partition} (h : s.ptn? p = some x) : p ∈ s.ptnNos := by
  simp [State.ptnNos, h, ptn?_lt h]

/-! ### Becalmed -/

/-- The state t is s with what Becalmed changes: the Felt ports, the records log, the causes, and what is told. -/
def Becalms (s t : State) : Prop := ∃ fe fl b c lc ot,
  Told { s with felt := { s.felt with ports := fe }, flash := fl, flt := { s.flt with becalmed := b, cause := c, lastCause := lc, outTimes := ot } } t

theorem Told.becalms {s t : State} (h : Told s t) : Becalms s t :=
  ⟨s.felt.ports, s.flash, s.flt.becalmed, s.flt.cause, s.flt.lastCause, s.flt.outTimes, h⟩

theorem Becalms.trans {s t u : State} (h : Becalms s t) (k : Becalms t u) : Becalms s u := by
  obtain ⟨_, _, _, _, _, _, _, _, _, _, _, rfl⟩ := h
  obtain ⟨fe, fl, b, c, lc, ot, hs, cs, ps, is, n, rfl⟩ := k
  exact ⟨fe, fl, b, c, lc, ot, hs, cs, ps, is, n, rfl⟩

/-- A partition taken out of service as the device is becalmed. -/
def becalmPtn (now : Nat) (number : BitVec 16) (st : State) (p : Nat) : State :=
  match st.ptn? p with
  | none => st
  | some x =>
    if x.status == .outOfService then st
    else
      ((st.stopRun p).copyRecord p).modPtn p fun y =>
        { y with
          status := .outOfService, reset := some ({ since := now, number := number, ctx := none } : ResetInProgress)
          ctxResets := [], ptnResets := [] }

/-- The state in which Becalmed takes the partitions out of service. -/
def becalmed (s : State) (cause : Nat) : State :=
  State.record { s with flt := { s.flt with becalmed := true, cause := cause, lastCause := cause } } (.cause cause)

/-- What becomes of a device that is not Becalmed yet. -/
theorem becalm_eq {s : State} (h : s.flt.becalmed = false) (cause : Nat) :
    s.becalm cause = (((becalmed s cause).ptnNos.foldl (becalmPtn s.now (s.flt.recNo - 1)) (becalmed s cause)).portsDown.eventHosts
      0x0015 cause (s.flt.recNo - 1).toNat 0).report 0x04 cause (s.flt.recNo - 1).toNat 0 := by
  rw [State.becalm, if_neg (by simp [h])]
  rfl

theorem told_copyRecord (s : State) (p : Nat) : Told s (s.copyRecord p) := by
  unfold State.copyRecord
  split
  · exact told_modPtn ..
  · exact .refl s

theorem told_becalmPtn (now : Nat) (number : BitVec 16) (s : State) (p : Nat) : Told s (becalmPtn now number s p) := by
  unfold becalmPtn
  split
  · exact .refl s
  · split
    · exact .refl s
    · exact ((told_modPtn ..).trans (told_copyRecord ..)).trans (told_modPtn ..)

theorem becalms_portsDown (s : State) : Becalms s s.portsDown :=
  ⟨_, s.flash, s.flt.becalmed, s.flt.cause, s.flt.lastCause, s.flt.outTimes, .refl _⟩

theorem becalms_becalm (s : State) (cause : Nat) : Becalms s (s.becalm cause) := by
  cases h : s.flt.becalmed with
  | true =>
    rw [State.becalm, if_pos h]
    exact (Told.refl s).becalms
  | false =>
    rw [becalm_eq h]
    have hstart : Becalms s (becalmed s cause) := ⟨s.felt.ports, _, true, cause, cause, s.flt.outTimes, .refl _⟩
    exact ((hstart.trans (told_foldl (told_becalmPtn _ _) _ _).becalms).trans (becalms_portsDown _)).trans
      ((told_eventHosts ..).trans (told_report ..)).becalms

/-- A partition becalmed is out of service, and no other changes. -/
theorem becalmPtn_self (now : Nat) (number : BitVec 16) (s : State) (p : Nat) {x : Partition}
    (h : (becalmPtn now number s p).ptn? p = some x) : x.status = .outOfService := by
  unfold becalmPtn at h
  split at h
  · simp_all
  · split at h
    · simp_all
    · rw [ptn?_modPtn, if_pos rfl] at h
      obtain ⟨y, -, rfl⟩ := Option.map_eq_some_iff.mp h
      rfl

theorem becalmPtn_other (now : Nat) (number : BitVec 16) (s : State) {p r : Nat} (h : r ≠ p) :
    (becalmPtn now number s p).ptn? r = s.ptn? r := by
  have hrec : ∀ u : State, (u.copyRecord p).ptn? r = u.ptn? r := fun u => by
    unfold State.copyRecord
    split
    · rw [ptn?_modPtn, if_neg h]
    · rfl
  unfold becalmPtn
  split
  · rfl
  · split
    · rfl
    · rw [ptn?_modPtn, if_neg h, hrec, State.stopRun, ptn?_modPtn, if_neg h]

/-- Once every number of a list was becalmed, its partitions are out of service. -/
theorem becalmPtns (now : Nat) (number : BitVec 16) (ps : List Nat) (s : State) {p : Nat} {x : Partition}
    (hp : p ∈ ps ∨ ∀ y, s.ptn? p = some y → y.status = .outOfService)
    (h : (ps.foldl (becalmPtn now number) s).ptn? p = some x) : x.status = .outOfService := by
  induction ps generalizing s with
  | nil => exact (hp.resolve_left List.not_mem_nil) x h
  | cons q ps ih =>
    refine ih (becalmPtn now number s q) ?_ h
    by_cases hq : p = q
    · subst hq
      exact .inr fun y hy => becalmPtn_self now number s p hy
    · rcases hp with hp | hp
      · exact .inl ((List.mem_cons.mp hp).resolve_left hq)
      · exact .inr fun y hy => hp y ((becalmPtn_other now number s hq).symm.trans hy)

theorem eventHosts_shape (s : State) (code a0 a1 a2 : Nat) : ∃ hs cs, s.eventHosts code a0 a1 a2 = { s with hosts := hs, ctxs := cs } := by
  unfold State.eventHosts
  simp only [List.foldl_cons, List.foldl_nil]
  split
  · obtain ⟨hs, cs, e⟩ := State.event_shape s (.host 0) code a0 a1 a2
    rw [e]
    split
    · obtain ⟨hs', cs', e'⟩ := State.event_shape { s with hosts := hs, ctxs := cs } (.host 1) code a0 a1 a2
      exact ⟨hs', cs', e'⟩
    · exact ⟨hs, cs, rfl⟩
  · split
    · exact State.event_shape ..
    · exact ⟨s.hosts, s.ctxs, rfl⟩

theorem report_shape (s : State) (code a0 a1 a2 : Nat) : ∃ is n, s.report code a0 a1 a2 =
    { s with field := { s.field with items := is, lost := n } } := by
  unfold State.report
  split_ifs
  · exact ⟨s.field.items, s.field.lost, rfl⟩
  · exact ⟨_, s.field.lost, rfl⟩
  · exact ⟨s.field.items, _, rfl⟩

/-- A device that becomes Becalmed has every partition out of service. -/
theorem becalm_out {s : State} (h : s.flt.becalmed = false) (cause : Nat) {p : Nat} {x : Partition}
    (hx : (s.becalm cause).ptn? p = some x) : x.status = .outOfService := by
  rw [becalm_eq h] at hx
  obtain ⟨is, n, er⟩ := report_shape (State.eventHosts (State.portsDown ((becalmed s cause).ptnNos.foldl
    (becalmPtn s.now (s.flt.recNo - 1)) (becalmed s cause))) 0x0015 cause (s.flt.recNo - 1).toNat 0) 0x04 cause (s.flt.recNo - 1).toNat 0
  obtain ⟨hs, cs, ee⟩ := eventHosts_shape (State.portsDown ((becalmed s cause).ptnNos.foldl
    (becalmPtn s.now (s.flt.recNo - 1)) (becalmed s cause))) 0x0015 cause (s.flt.recNo - 1).toNat 0
  rw [er, ee] at hx
  refine becalmPtns s.now (s.flt.recNo - 1) (becalmed s cause).ptnNos (becalmed s cause) ?_ hx
  by_cases hp : p ∈ (becalmed s cause).ptnNos
  · exact .inl hp
  · exact .inr fun y hy => absurd (ptnNos_mem hy) hp

theorem becalm_becalmed (s : State) (cause : Nat) : (s.becalm cause).flt.becalmed = true := by
  cases h : s.flt.becalmed with
  | true => rw [State.becalm, if_pos h, h]
  | false =>
    rw [becalm_eq h]
    have hflt : ∀ {t u : State}, Told t u → u.flt = t.flt := by
      rintro t u ⟨_, _, _, _, _, rfl⟩
      rfl
    rw [hflt ((told_eventHosts ..).trans (told_report ..)), State.portsDown]
    exact congrArg FaultState.becalmed (hflt (told_foldl (told_becalmPtn _ _) _ _))

/-! ### A core's restart begins -/

theorem becalms_goOut (s : State) (p : Nat) (number : BitVec 16) (c : Option CtxNo) : Becalms s (s.goOut p number c) := by
  have hout : Becalms s { s with flt := { s.flt with outTimes := inWindow s.now s.live.outWin s.flt.outTimes ++ [s.now] } } :=
    ⟨s.felt.ports, s.flash, s.flt.becalmed, s.flt.cause, s.flt.lastCause, _, .refl _⟩
  have hstop := fun f g => hout.trans ((told_modPtn _ p f).trans (told_modPtn _ p g)).becalms
  unfold State.goOut
  dsimp only
  split_ifs
  · exact (hstop _ _).trans (becalms_becalm _ 1)
  · exact hstop _ _

/-- The state in which a core's restart has begun. -/
def restartBegun (s : State) (island : Nat) : State :=
  { s with flt := { s.flt with
    restarting := s.flt.restarting ++ [({ island := island, since := s.now } : CoreRestart)]
    restartTimes := Table.set s.flt.restartTimes island (inWindow s.now 60 (Table.get [] s.flt.restartTimes island) ++ [s.now])
    lastCore := island
    restarts := BitVec.ofNat 16 (Bits.satAdd 16 s.flt.restarts.toNat 1) } }

/-- A third restart within the window may take a partition or the device out. -/
theorem becalms_startRestart {s : State} {island : Nat} (h : s.restarting island = false) :
    Becalms (restartBegun s island) (s.startRestart island) := by
  unfold State.startRestart
  rw [if_neg (by simp [h])]
  have hreport := (told_report (restartBegun s island) 0x09 island (restartBegun s island).flt.restarts.toNat 0).becalms
  dsimp only
  split_ifs
  · exact hreport
  · split
    · split_ifs
      · exact hreport
      · exact (hreport.trans (told_copyRecord ..).becalms).trans (becalms_goOut ..)
    · exact hreport
  · exact hreport.trans (becalms_becalm ..)
  · exact hreport

theorem Becalms.flt {s t : State} (h : Becalms s t) : t.flt.recNo = s.flt.recNo ∧ t.flt.lastCore = s.flt.lastCore ∧
    t.flt.restartTimes = s.flt.restartTimes ∧ t.flt.restarting = s.flt.restarting := by
  obtain ⟨_, _, _, _, _, _, _, _, _, _, _, rfl⟩ := h
  exact ⟨rfl, rfl, rfl, rfl⟩

/-- A fault with no partition of its own takes the device's next record number. -/
theorem takeRecord_device {s : State} {f : FaultInfo} (h : f.ptn = none) : ∃ rs,
    Told { s with flt := { s.flt with records := rs, recNo := s.flt.recNo + 1 } } (s.takeRecord f).1 := by
  rw [State.takeRecord, h]
  exact ⟨_, told_eventHosts ..⟩

/-- What a core's fault notes. -/
theorem raiseFault_core_flt {s : State} {island : Nat} (h : s.restarting island = false) :
    let t := s.raiseFault { kind := 0x0B, island := island }
    t.restarting island = true ∧ t.flt.recNo = s.flt.recNo + 1 ∧ t.flt.lastCore = island ∧
      Table.get [] t.flt.restartTimes island = inWindow s.now 60 (Table.get [] s.flt.restartTimes island) ++ [s.now] := by
  intro t
  obtain ⟨hrestart, hno, htimes, hnow⟩ : (s.takeRecord { kind := 0x0B, island := island }).1.flt.restarting = s.flt.restarting ∧
      (s.takeRecord { kind := 0x0B, island := island }).1.flt.recNo = s.flt.recNo + 1 ∧
      (s.takeRecord { kind := 0x0B, island := island }).1.flt.restartTimes = s.flt.restartTimes ∧
      (s.takeRecord { kind := 0x0B, island := island }).1.now = s.now := by
    obtain ⟨rs, hs, cs, ps, is, n, e⟩ := takeRecord_device (s := s) (f := { kind := 0x0B, island := island }) rfl
    rw [e]
    exact ⟨rfl, rfl, rfl, rfl⟩
  have hidle : (s.takeRecord { kind := 0x0B, island := island }).1.restarting island = false := by
    rw [State.restarting, hrestart]
    exact h
  obtain ⟨tno, tcore, ttimes, trest⟩ := (becalms_startRestart hidle).flt
  refine ⟨?_, tno.trans hno, tcore, ?_⟩
  · rw [State.restarting]
    refine (congrArg (fun l : List CoreRestart => l.any fun r => r.island == island) trest).trans ?_
    simp [restartBegun]
  · refine (congrArg (fun l => Table.get [] l island) ttimes).trans ((Table.get_set_self ..).trans ?_)
    rw [htimes, hnow]

/-! ### A core's restart ends -/

theorem copySection_activation (f : Firmware) (m : Mem) (core : Nat) : (f.copySection m core).activation = f.activation := by
  unfold Firmware.copySection
  split <;> rfl

/-- A section loaded anew changes the code area alone. -/
theorem reloadSection_shape (s : State) (core : Nat) :
    ∃ fw, s.reloadSection core = { s with fw := fw } ∧ fw.activation = s.fw.activation := by
  unfold State.reloadSection
  split
  · exact ⟨s.fw, rfl, rfl⟩
  · split
    · exact ⟨_, rfl, copySection_activation ..⟩
    · split
      · exact ⟨_, rfl, copySection_activation ..⟩
      · exact ⟨s.fw, rfl, rfl⟩

/-- The four islands whose core takes something up again as its restart ends are four. -/
theorem islands_distinct : fieldIsland ≠ storeIsland ∧ fieldIsland ≠ wardenIsland ∧ fieldIsland ≠ linkerIsland ∧
    storeIsland ≠ wardenIsland ∧ storeIsland ≠ linkerIsland ∧ wardenIsland ≠ linkerIsland := by decide

/-- With no activation in progress a core's restart goes no further. -/
theorem activationRestarted_none {s : State} (h : s.fw.activation = none) (island : Nat) : s.activationRestarted island = s := by
  rw [State.activationRestarted, h]

/-- Settles O36: the faults of a core, then the end of its restart. -/
theorem coreRestarts : Obligations.CoreRestarts := by
  unfold Obligations.CoreRestarts
  refine ⟨fun s i hc hr => ?_, fun s i h => ?_, fun s i hi => exec_effect rfl (if_pos hi), fun s i hr => ?_,
    fun s i hr => exec_effect rfl (if_pos (by simp [hr]))⟩
  · have hfault : s.coreFault i.val = s.raiseFault { kind := 0x0B, island := i.val } := if_pos (by simp [hc, hr])
    exact ⟨exec_effect rfl hfault, exec_effect rfl hfault, fun hi => exec_effect rfl ((if_neg hi).trans hfault),
      raiseFault_core_flt hr⟩
  · have hfault : s.coreFault i.val = s := if_neg (by rcases h with h | h <;> simp [h])
    refine ⟨exec_effect rfl hfault, exec_effect rfl hfault, exec_effect rfl ?_⟩
    rw [coreProgressWatchdogEffect, hfault, ite_self]
  · intro r u v
    obtain ⟨fw, e, hact⟩ := reloadSection_shape s (sectionOf i.val)
    have heff : coreRestartEffect i s = if !r.fw.sectionGood (sectionOf i.val) then r else v.activationRestarted i.val := by
      have hr' : r = { s with fw := fw } := e
      rw [coreRestartEffect, if_neg (by simp [hr])]
      refine ite_congr rfl (fun _ => rfl) fun _ => congrArg (State.activationRestarted · i.val) ?_
      obtain ⟨hfs, hfw, hfl, hsw, hsl, hwl⟩ := islands_distinct
      simp only [v, u]
      rw [hr', e]
      by_cases hf : i.val = fieldIsland
      · simp only [hf, if_true, if_neg hfs, if_neg hfw, if_neg hfl]
      by_cases hs : i.val = storeIsland
      · simp only [hs, if_true, if_neg hfs.symm, if_neg hsw, if_neg hsl]
      by_cases hw : i.val = wardenIsland
      · simp only [hw, if_true, if_neg hfw.symm, if_neg hsw.symm, if_neg hwl]
      · simp only [if_neg hf, if_neg hs, if_neg hw]
    refine ⟨fun hbad => exec_effect rfl (heff.trans (if_pos (by simp [hbad]))), fun hgood =>
      ⟨exec_effect rfl (heff.trans (if_neg (by simp [hgood]))), ?_, fun j hj => ?_, fun hnone hlo hhi =>
        exec_effect rfl (heff.trans ((if_neg (by simp [hgood])).trans ?_))⟩⟩
    · simp [u, State.restarting]
    · simp only [u, State.restarting, List.any_filter]
      refine congrArg (List.any s.flt.restarting) (funext fun x => ?_)
      by_cases hx : x.island = j
      · simp [hx, hj]
      · simp [hx]
    · have hv : v = u := by
        have hf : i.val ≠ fieldIsland := fun h => absurd (h ▸ hhi) (by decide)
        have hs : i.val ≠ storeIsland := fun h => absurd (h ▸ hhi) (by decide)
        have hw : i.val ≠ wardenIsland := fun h => absurd (h ▸ hhi) (by decide)
        have hl : i.val ≠ linkerIsland := fun h => absurd (h ▸ hhi) (by decide)
        simp only [v, if_neg hf, if_neg hs, if_neg hw, if_neg hl]
      rw [hv]
      refine activationRestarted_none ?_ _
      exact (congrArg (fun x : State => x.fw.activation) e).trans (hact.trans hnone)

end Sys2Proof.Machine
end

section
/-! SUPPORT. Watchdogs and command deadlines (16 R399, Table FLT.2; 12 R307). -/

namespace Sys2Proof.Machine

/-! ### Watchdogs -/

theorem ctxResetWatchdog_some {s : State} {c : CtxNo} {r : ResetInProgress} (h : (s.ctx? c).bind (·.reset) = some r) :
    ctxResetWatchdogEffect c s = if s.now ≤ r.since + 300 then s
      else s.raiseFault { kind := 0x0A, ptn := some (ptnOf c), ctx := some c } := by
  simp only [ctxResetWatchdogEffect, h]

theorem ptnResetWatchdog_some {s : State} {p : Fin 8} {x : Partition} {r : ResetInProgress} (hx : s.ptn? p.val = some x)
    (hs : x.status = .resetting) (hr : x.reset = some r) :
    ptnResetWatchdogEffect p s = if s.now ≤ r.since + 1000 then s else s.raiseFault { kind := 0x0C } := by
  have h : ((s.ptn? p.val).filter fun x => x.status == .resetting).bind (·.reset) = some r := by
    simp [hx, Option.filter, hs, hr]
  simp only [ptnResetWatchdogEffect, h]

theorem coreRestartWatchdog_some {s : State} {i : Fin 152} {r : CoreRestart}
    (h : (s.flt.restarting.find? fun r => r.island == i.val) = some r) :
    coreRestartWatchdogEffect i s = if s.now ≤ r.since + 400 then s else s.raiseFault { kind := 0x0C } := by
  simp only [coreRestartWatchdogEffect, h]

/-! ### Deadlines -/

/-- Whether a command is a run. -/
def isRun : Instr → Bool
  | .schedRun .. => true
  | .schedStep .. => true
  | _ => false

/-- The commands of opcodes 0x62 and 0x65 are the runs. -/
theorem opcode_isRun (i : Instr) : (i.opcode == 0x62 || i.opcode == 0x65) = isRun i := by
  cases i <;> rfl

theorem isRun_cases {i : Instr} (h : isRun i = true) : (∃ q a, i = .schedRun q a) ∨ (∃ q a, i = .schedStep q a) := by
  cases i with
  | schedRun q a => exact .inl ⟨q, a, rfl⟩
  | schedStep q a => exact .inr ⟨q, a, rfl⟩
  | _ => cases h

section
variable {s : State} {a : Accepted} (hf : (s.accepted.find? fun x => x.q.ring == a.q.ring && x.q.idx == a.q.idx) = some a)
include hf

/-- The deadline of an accepted command, before and after it has passed. -/
theorem commandDeadline_before (h : a.pastDeadline s.now = false) : commandDeadlineEffect a.q.ring a.q.idx s = s := by
  rw [commandDeadlineEffect, hf]
  exact if_pos (by simp [h])

theorem commandDeadline_waiting (h : a.pastDeadline s.now = true) (hs : a.started = false) :
    commandDeadlineEffect a.q.ring a.q.idx s = s.finish a.q stDeadline 0 0 := by
  rw [commandDeadlineEffect, hf]
  exact (if_neg (by simp [h])).trans (if_pos (by simp [hs]))

/-- A command in progress that is no run of a context. -/
theorem commandDeadline_plain (h : a.pastDeadline s.now = true) (hs : a.started = true)
    (hrun : ∀ c, isRun a.cmd = true → a.q.ring ≠ .ctx c) :
    commandDeadlineEffect a.q.ring a.q.idx s = s.finish a.q stDeadline 0 0 := by
  rw [commandDeadlineEffect, hf]
  refine (if_neg (by simp [h])).trans ((if_neg (by simp [hs])).trans ?_)
  split
  next c hcmd hring => exact absurd hring (hrun _ (by rw [hcmd]; rfl))
  next c hcmd hring => exact absurd hring (hrun _ (by rw [hcmd]; rfl))
  next => rfl

/-- A run in progress of a context. -/
theorem commandDeadline_run {c : CtxNo} (h : a.pastDeadline s.now = true) (hs : a.started = true) (hrun : isRun a.cmd = true)
    (hring : a.q.ring = .ctx c) : commandDeadlineEffect a.q.ring a.q.idx s = s.deadlineRun (ptnOf c) a.q := by
  rw [commandDeadlineEffect, hf]
  refine (if_neg (by simp [h])).trans ((if_neg (by simp [hs])).trans ?_)
  rw [hring]
  rcases isRun_cases hrun with ⟨q, b, hcmd⟩ | ⟨q, b, hcmd⟩ <;> rw [hcmd]

end

/-- The deadline of a run by what the partition holds of it. -/
theorem deadlineRun_gone {s : State} {p : Nat} {q : Req}
    (h : ∀ x, s.ptn? p = some x → (x.run.toList ++ x.queue).find? (fun n => n.q == q) = none) : s.deadlineRun p q = s := by
  rw [State.deadlineRun]
  cases hx : s.ptn? p with
  | none => rfl
  | some x =>
    dsimp only
    rw [h x hx]

theorem deadlineRun_some {s : State} {p : Nat} {q : Req} {x : Partition} {r : Run} (hx : s.ptn? p = some x)
    (hr : (x.run.toList ++ x.queue).find? (fun n => n.q == q) = some r) :
    s.deadlineRun p q = if !r.released then s.withdrawRun p r else if x.beat.closed then s.testDeadline p else s := by
  rw [State.deadlineRun, hx]
  dsimp only
  rw [hr]

/-! ### Transactions -/

theorem txnWatchdog_gone {s : State} {c : Fin 8} {id chunk : Nat}
    (h : ∀ mv, (s.moves.find? fun m => m.id == id && m.cluster == c.val) = some mv → ∀ o ∈ mv.outstanding, o.1 ≠ chunk) :
    txnWatchdogEffect c id chunk s = s := by
  rw [txnWatchdogEffect]
  cases hm : s.moves.find? fun m => m.id == id && m.cluster == c.val with
  | none => rfl
  | some mv =>
    dsimp only
    have hnone : (mv.outstanding.find? fun o => o.1 == chunk) = none :=
      List.find?_eq_none.mpr fun o ho => by simpa using h mv hm o ho
    rw [hnone]

theorem txnWatchdog_some {s : State} {c : Fin 8} {mv : Move} {chunk since : Nat}
    (hm : (s.moves.find? fun m => m.id == mv.id && m.cluster == c.val) = some mv)
    (ho : (mv.outstanding.find? fun o => o.1 == chunk) = some (chunk, since)) (hlate : since + 100 < s.now)
    (hd : Mv.dstKind mv.record ≠ 6) :
    let t := s.modMove mv.id fun m => { m with outstanding := m.outstanding.filter fun o => o.1 != chunk }
    (s.chunkLine mv chunk = none → txnWatchdogEffect c mv.id chunk s = t.raiseFault (t.moveFault mv 0x03 0)) ∧
    (∀ k a, s.chunkLine mv chunk = some (k, a) →
      txnWatchdogEffect c mv.id chunk s = t.raiseFault { t.poisonFault mv (1, k, a) with kind := 0x03 }) := by
  intro t
  have hnow : ¬ (decide (s.now ≤ since + 100) || decide (Mv.dstKind mv.record = 6)) = true := by
    simp [hd]
    omega
  refine ⟨fun hl => ?_, fun k a hl => ?_⟩
  all_goals
    rw [txnWatchdogEffect, hm]
    dsimp only
    rw [ho]
    refine (if_neg hnow).trans ?_
    rw [hl]

theorem txnWatchdog_within {s : State} {c : Fin 8} {mv : Move} {chunk since : Nat}
    (hm : (s.moves.find? fun m => m.id == mv.id && m.cluster == c.val) = some mv)
    (ho : (mv.outstanding.find? fun o => o.1 == chunk) = some (chunk, since))
    (h : s.now ≤ since + 100 ∨ Mv.dstKind mv.record = 6) : txnWatchdogEffect c mv.id chunk s = s := by
  rw [txnWatchdogEffect, hm]
  dsimp only
  rw [ho]
  exact if_pos (by simpa using h)

/-- Settles O37: each watchdog within and past its time, then the deadlines. -/
theorem timeLimits : Obligations.TimeLimits := by
  unfold Obligations.TimeLimits
  refine ⟨⟨fun s c mv chunk since hm ho => ⟨fun h => exec_effect rfl (txnWatchdog_within hm ho h), fun hlate hd => ?_⟩,
      fun s c id chunk h => exec_effect rfl (txnWatchdog_gone h), fun s c h => exec_effect rfl ?_, fun s p h => exec_effect rfl ?_,
      fun s i h => exec_effect rfl ?_, fun s c r h => ⟨fun ht => exec_effect rfl ((ctxResetWatchdog_some h).trans (if_pos ht)), fun ht =>
        exec_effect rfl ((ctxResetWatchdog_some h).trans (if_neg (by omega)))⟩,
      fun s p x r hx hs hr => ⟨fun ht => exec_effect rfl ((ptnResetWatchdog_some hx hs hr).trans (if_pos ht)), fun ht =>
        exec_effect rfl ((ptnResetWatchdog_some hx hs hr).trans (if_neg (by omega)))⟩,
      fun s i r h => ⟨fun ht => exec_effect rfl ((coreRestartWatchdog_some h).trans (if_pos ht)), fun ht =>
        exec_effect rfl ((coreRestartWatchdog_some h).trans (if_neg (by omega)))⟩,
      fun s => ⟨becalm_becalmed _ 2, fun p x hx hb => ?_⟩⟩,
    fun s r n h => exec_effect rfl ?_, fun s a hf => ⟨fun h => exec_effect rfl (commandDeadline_before hf h), fun h =>
      ⟨fun hs => exec_effect rfl (commandDeadline_waiting hf h hs), fun hs h62 h65 => exec_effect rfl (commandDeadline_plain hf h hs ?_),
        fun p hs hring => exec_effect rfl (commandDeadline_plain hf h hs ?_), fun c hs hring hop hgone => exec_effect rfl ?_,
        fun c x r hs hring hop hx hr => ?_⟩⟩⟩
  · obtain ⟨hnone, hsome⟩ := txnWatchdog_some hm ho hlate hd
    intro t
    rcases hl : s.chunkLine mv chunk with - | ⟨k, a⟩
    · exact exec_effect rfl (hnone hl)
    · exact exec_effect rfl (hsome k a hl)
  · simp only [ctxResetWatchdogEffect, h]
  · have hnone : ((s.ptn? p.val).filter fun x => x.status == .resetting).bind (·.reset) = none := by
      cases hx : s.ptn? p.val with
      | none => rfl
      | some x => rcases h x hx with h | h <;> simp [Option.filter, h]
    simp only [ptnResetWatchdogEffect, hnone]
  · have hnone : (s.flt.restarting.find? fun r => r.island == i.val) = none := by
      simpa [State.restarting] using h
    simp only [coreRestartWatchdogEffect, hnone]
  · obtain ⟨rs, hs, cs, ps, is, n, e⟩ := takeRecord_device (s := s) (f := { kind := 0x0C }) rfl
    refine becalm_out (s := (s.takeRecord { kind := 0x0C }).1) ?_ 2 hx
    rw [e]
    exact hb
  · rw [commandDeadlineEffect, h]
  · intro c hrun
    rw [← opcode_isRun, Bool.or_eq_true, beq_iff_eq, beq_iff_eq] at hrun
    exact absurd hrun (by simp [h62, h65])
  · exact fun c _ hc => by rw [hring] at hc; cases hc
  · have hrun : isRun a.cmd = true := by
      rw [← opcode_isRun]
      simpa using hop
    exact (commandDeadline_run hf h hs hrun hring).trans (deadlineRun_gone hgone)
  · have hrun : isRun a.cmd = true := by
      rw [← opcode_isRun]
      simpa using hop
    have heff := (commandDeadline_run hf h hs hrun hring).trans (deadlineRun_some hx hr)
    exact ⟨fun hrel => exec_effect rfl (heff.trans (if_pos (by simp [hrel]))), fun hrel hc => exec_effect rfl (heff.trans
      ((if_neg (by simp [hrel])).trans (if_pos hc))), fun hrel hc => exec_effect rfl (heff.trans
      ((if_neg (by simp [hrel])).trans (if_neg (by simp [hc]))))⟩

end Sys2Proof.Machine
end

section
/-! SUPPORT. The stacked memory: scrub, failing ranks and the end of a copy (08 R186 to R195). -/

namespace Sys2Proof.Machine

/-! ### What a fault of the device leaves -/

/-- The state t is s with what faults and their responses change: hosts, contexts, partitions, the field core, the Felt
ports, the flash store and the fault state. -/
def Around (s t : State) : Prop := ∃ hs cs ps fi fe fl ft, t = { s with
  hosts := hs, ctxs := cs, ptns := ps, field := fi, felt := { s.felt with ports := fe }, flash := fl, flt := ft }

theorem Around.refl (s : State) : Around s s := ⟨s.hosts, s.ctxs, s.ptns, s.field, s.felt.ports, s.flash, s.flt, rfl⟩

theorem Around.trans {s t u : State} (h : Around s t) (k : Around t u) : Around s u := by
  obtain ⟨_, _, _, _, _, _, _, rfl⟩ := h
  obtain ⟨hs, cs, ps, fi, fe, fl, ft, rfl⟩ := k
  exact ⟨hs, cs, ps, fi, fe, fl, ft, rfl⟩

theorem Told.around {s t : State} (h : Told s t) : Around s t := by
  obtain ⟨hs, cs, ps, is, n, rfl⟩ := h
  exact ⟨hs, cs, ps, _, s.felt.ports, s.flash, s.flt, rfl⟩

theorem Becalms.around {s t : State} (h : Becalms s t) : Around s t := by
  obtain ⟨fe, fl, b, c, lc, ot, hs, cs, ps, is, n, rfl⟩ := h
  exact ⟨hs, cs, ps, _, fe, fl, _, rfl⟩

/-- The fault that becalms the device. -/
theorem around_becalmed (s : State) : Around s (s.raiseFault { kind := 0x0C }) := by
  obtain ⟨rs, h⟩ := takeRecord_device (s := s) (f := { kind := 0x0C }) rfl
  have hflt : Around s { s with flt := { s.flt with records := rs, recNo := s.flt.recNo + 1 } } :=
    ⟨s.hosts, s.ctxs, s.ptns, s.field, s.felt.ports, s.flash, _, rfl⟩
  exact (hflt.trans h.around).trans (becalms_becalm _ 2).around

theorem told_cutToCapacity (s : State) (p : Nat) : Told s (s.cutToCapacity p) := by
  unfold State.cutToCapacity
  split
  · exact .refl s
  · dsimp only
    split_ifs
    · exact .refl s
    · exact told_modPtn ..

theorem around_regionsFell (s : State) : Around s s.regionsFell := by
  have hcut := (told_foldl told_cutToCapacity s.ptnNos s).around
  unfold State.regionsFell
  dsimp only
  split_ifs
  · exact hcut.trans (around_becalmed _)
  · exact hcut

theorem told_rankEvent (s : State) (stack rank case_ : Nat) : Told s (s.rankEvent stack rank case_) :=
  (told_eventMgmts ..).trans (told_report ..)

/-! ### Ranks -/

/-- A change of a stack's ranks: the stacks' ranks, the regions in service and the records log. -/
theorem modRanks_shape (s : State) (stack : Nat) (f : RankState → RankState) : ∃ b fl, s.modRanks stack f = { s with
    memc := { s.memc with ranks := s.memc.ranks.mapFinIdx fun i x _ => if i = stack then f x else x, regions := b }
    flash := fl } := by
  unfold State.modRanks
  dsimp only
  split
  · exact ⟨_, s.flash, rfl⟩
  · exact ⟨_, _, rfl⟩

/-- The ranks of each stack after one stack's were changed. -/
theorem stackRanks_modRanks (s : State) (stack k : Nat) (hk : k < 6) (f : RankState → RankState) :
    (s.modRanks stack f).stackRanks k = if k = stack then f (s.stackRanks k) else s.stackRanks k := by
  obtain ⟨b, fl, e⟩ := modRanks_shape s stack f
  rw [e]
  simp [State.stackRanks, hk]

theorem stackRanks_of_memc {s t : State} (h : t.memc = s.memc) (k : Nat) : t.stackRanks k = s.stackRanks k :=
  congrArg (fun m : MemCtl => (m.ranks[k]?).getD {}) h

theorem Around.memc {s t : State} (h : Around s t) : t.memc = s.memc ∧ t.poison = s.poison ∧ t.poisonReports = s.poisonReports ∧
    t.tier1 = s.tier1 ∧ t.objs = s.objs := by
  obtain ⟨_, _, _, _, _, _, _, rfl⟩ := h
  exact ⟨rfl, rfl, rfl, rfl, rfl⟩

/-- A failing rank leaves the lines and what is known to be poisoned. -/
theorem rankFails_leaves (s : State) (stack r : Nat) : (s.rankFails stack r).poison = s.poison ∧
    (s.rankFails stack r).poisonReports = s.poisonReports ∧ (s.rankFails stack r).tier1 = s.tier1 := by
  have key : ∀ (f : RankState → RankState) (t : State), Around (s.modRanks stack f) t →
      t.poison = s.poison ∧ t.poisonReports = s.poisonReports ∧ t.tier1 = s.tier1 := fun f t h => by
    obtain ⟨-, hp, hr, ht, -⟩ := h.memc
    obtain ⟨b, fl, e⟩ := modRanks_shape s stack f
    rw [hp, hr, ht, e]
    exact ⟨rfl, rfl, rfl⟩
  unfold State.rankFails
  dsimp only
  split
  · split
    · exact key _ _ (told_rankEvent ..).around
    · exact key _ _ ((told_rankEvent ..).around.trans (around_regionsFell _))
  · split
    · exact key _ _ ((told_rankEvent ..).around.trans (around_regionsFell _))
    · exact key _ _ (.refl _)
  · exact ⟨rfl, rfl, rfl⟩

theorem rank_setRank (x : RankState) {r : Nat} (hr : r < 4) {k : Nat} (hk : k < 4) : (x.setRank r k).rank r = k := by
  simp [RankState.rank, RankState.setRank, hr, Nat.mod_eq_of_lt hk]

/-- What a rank's copy changes: the poison found, and how much is copied. -/
theorem copyTo_shape (s : State) (stack rank bytes : Nat) : ∃ p r n, s.copyTo stack rank bytes =
    State.modRanks { s with poison := p, poisonReports := r, free := n } stack fun y => { y with copied := bytes } := by
  have key : ∀ (ls : List Nat) (t : State), ∃ p r, ls.foldl State.poisonLine t = { t with poison := p, poisonReports := r } := by
    intro ls
    induction ls with
    | nil => exact fun t => ⟨t.poison, t.poisonReports, rfl⟩
    | cons l ls ih =>
      intro t
      obtain ⟨p, r, e⟩ := ih (t.poisonLine l)
      exact ⟨p, r, e⟩
  obtain ⟨p, r, e⟩ := key ((linesOf stack rank ((s.stackRanks stack).copied / 8192) (bytes / 8192)).filter (Config.copyFails s.free))
    s.takeFree.2
  exact ⟨p, r, s.free + 1, by rw [State.copyTo, e]; rfl⟩

/-! ### The rows -/

/-- A scrub of a line that a rank serves meets what is found there. -/
theorem patrolScrub_meets {s : State} {c : Fin 8} {line : Nat} {o : ReadOutcome} (hs : s.stacksRun = true) (hl : line < clusterLines)
    (hr : (s.stackRanks (locate c.val (line * 64)).stack).rank (locate c.val (line * 64)).rank ≠ 3 ∨
      (s.stackRanks (locate c.val (line * 64)).stack).spares (locate c.val (line * 64)).rank = true) :
    patrolScrubEffect c line o s = s.meets c.val (line * 64) true o := by
  refine if_neg ?_
  simp only [hs, Bool.not_true, Bool.false_or, Bool.or_eq_true, decide_eq_true_eq, Bool.and_eq_true, beq_iff_eq,
    Bool.not_eq_true', not_or, not_and]
  exact ⟨by omega, fun h3 => by simp [hr.resolve_left (not_not.mpr h3)]⟩

theorem mem_poisonLine (s : State) (line : Nat) : line ∈ (s.poisonLine line).poison ∧ line ∈ (s.poisonLine line).poisonReports := by
  unfold State.poisonLine
  constructor
  · dsimp only
    split
    next h => simpa using h
    next => simp
  · dsimp only
    split
    next h => simpa using h
    next => simp

/-- The end of a copy retires the rank that the spare replaces. -/
theorem rankCopyDone_told {s : State} {stack : Fin 6} {k : Nat} (hs : s.stacksRun = true)
    (hret : (s.stackRanks stack.val).retiring = some k) : ∃ p r n, Told
      (State.modRanks (State.modRanks { s with poison := p, poisonReports := r, free := n } stack.val fun y =>
        { y with copied := rankBytes }) stack.val fun y => y.setRank k 3) (rankCopyDoneEffect stack s) := by
  obtain ⟨p, r, n, e⟩ := copyTo_shape s stack.val k rankBytes
  refine ⟨p, r, n, ?_⟩
  rw [rankCopyDoneEffect, hret, ← e]
  dsimp only
  rw [if_neg (by simp [hs])]
  exact (told_eventMgmts ..).trans (told_report ..)

theorem modRanks_leaves (s : State) (stack : Nat) (f : RankState → RankState) :
    (s.modRanks stack f).tier1 = s.tier1 ∧ (s.modRanks stack f).objs = s.objs := by
  obtain ⟨b, fl, e⟩ := modRanks_shape s stack f
  rw [e]
  exact ⟨rfl, rfl⟩

/-- Settles O38: the scrub by what it meets, a rank's failure, the end of a copy, and the refresh rate. -/
theorem stackedMemory : Obligations.StackedMemory := by
  unfold Obligations.StackedMemory
  refine ⟨fun s c line o hs hl hr => ?_, fun s c line o h => exec_effect rfl (if_pos ?_), fun s stack h => exec_effect rfl ?_,
    fun s stack r h0 h3 hu hsp => ?_, fun s stack hs hu h2 => ?_, fun s stack b => ⟨_, rfl, ?_⟩⟩
  · intro ch known
    have hmeets := patrolScrub_meets (o := o) hs hl hr
    refine ⟨fun ho => exec_effect rfl (hmeets.trans ?_), fun hk ho => exec_effect rfl (hmeets.trans ?_), fun ho =>
      exec_effect rfl (hmeets.trans ?_), fun hk ho => ⟨_, exec_effect rfl hmeets, ?_⟩, fun hk ho => ⟨_, exec_effect rfl hmeets, ?_⟩,
      fun ho => exec_effect rfl (hmeets.trans ?_)⟩
    · subst ho; rfl
    · have hk' : (true && s.poison.contains (lineOf c.val (line * 64))) = true := by simpa using hk
      rcases ho with rfl | rfl <;> exact if_pos hk'
    · subst ho; rfl
    · subst ho
      have hk' : ¬ (true && s.poison.contains (lineOf c.val (line * 64))) = true := by simpa using hk
      have e : s.meets c.val (line * 64) true .corrected = s.countCorrected ch := if_neg hk'
      rw [e]
      exact ⟨Table.get_set_self .., fun k hne => Table.get_set_ne _ _ hne _, rfl, rfl⟩
    · subst ho
      have hk' : ¬ (true && s.poison.contains (lineOf c.val (line * 64))) = true := by simpa using hk
      have e : s.meets c.val (line * 64) true .uncorrectable =
        (s.poisonLine (lineOf c.val (line * 64))).rankFails _ _ := if_neg hk'
      obtain ⟨hp, hr, ht⟩ := rankFails_leaves (s.poisonLine (lineOf c.val (line * 64))) (locate c.val (line * 64)).stack
        (s.servedBy (locate c.val (line * 64)))
      rw [e, hp, hr, ht]
      obtain ⟨hmem, hrep⟩ := mem_poisonLine s (lineOf c.val (line * 64))
      exact ⟨hmem, hrep, rfl⟩
    · subst ho; rfl
  · rcases h with h | h | ⟨h3, hsp⟩
    · simp [h]
    · simp [h]
    · simp [h3, hsp]
  · rw [rankCopyDoneEffect]
    split
    next => rfl
    next r hr => exact if_pos (by rcases h with h | h <;> simp_all)
  · have e : s.rankFails stack.val r.val = (s.modRanks stack.val fun y =>
        { y.setRank r.val 2 with spareUsed := true, spareFor := BitVec.ofNat 2 r.val, spareSpent := true, copied := 0 }).rankEvent
          stack.val r.val 0 := by
      rw [State.rankFails]
      simp only [h0]
      exact if_pos (by simp [h3, hu, hsp])
    intro y
    have hother := fun k => stackRanks_of_memc ((told_rankEvent (s.modRanks stack.val fun y =>
      { y.setRank r.val 2 with spareUsed := true, spareFor := BitVec.ofNat 2 r.val, spareSpent := true, copied := 0 })
        stack.val r.val 0).around.memc.1) k
    have hy : y = _ := (congrArg (State.stackRanks · stack.val) e).trans ((hother stack.val).trans
      (stackRanks_modRanks s stack.val stack.val stack.isLt _))
    rw [if_pos rfl] at hy
    rw [hy]
    refine ⟨rank_setRank _ (by omega) (by decide), rfl, ?_, rfl, rfl, fun k hk => ?_⟩
    · show (BitVec.ofNat 2 r.val).toNat = r.val
      rw [BitVec.toNat_ofNat]
      omega
    · rw [e, hother, stackRanks_modRanks _ _ _ k.isLt, if_neg fun h => hk (Fin.ext h)]
  · have hret : (s.stackRanks stack.val).retiring = some (s.stackRanks stack.val).spareFor.toNat := if_pos (by simp [hu, h2])
    obtain ⟨p, r, n, h⟩ := rankCopyDone_told hs hret
    obtain ⟨hm, -, -, ht, ho⟩ := h.around.memc
    have hranks := stackRanks_of_memc hm stack.val
    rw [stackRanks_modRanks _ _ _ stack.isLt, if_pos rfl, stackRanks_modRanks _ _ _ stack.isLt, if_pos rfl] at hranks
    refine ⟨_, rfl, ?_, ?_, ?_, ?_⟩
    · rw [hranks]
      exact rank_setRank _ (BitVec.isLt _) (by decide)
    · rw [hranks]
      rfl
    · rw [ho, (modRanks_leaves ..).2, (modRanks_leaves ..).2]
    · rw [ht, (modRanks_leaves ..).1, (modRanks_leaves ..).1]
  · refine ⟨fun h => ?_, fun h => ?_, fun h1 h2 => ?_, fun k hk => ?_, rfl⟩
    · simp [h]
    · simp [h]
      omega
    · have h1' : ¬ celsius b ≤ 82 := by omega
      have h2' : ¬ 85 < celsius b := by omega
      simp [h1', h2']
    · have : stack.val ≠ k.val := fun h => hk (Fin.ext h.symm)
      simp [this]

end Sys2Proof.Machine
end

section
/-! SUPPORT. The keepers: migration, promotion, reclaim and poison (07 R161, R163, R172 to R175; 08 R193). -/

namespace Sys2Proof.Machine

/-! ### Migration and promotion -/

/-- TILE_MIGRATE of a tile that is there. -/
theorem tileMigrate_some {s : State} {c : CtxNo} {base : BitVec 42} {i : Nat} {o : Obj} {t : ResTile} (ho : s.obj? c base = some o)
    (ht : o.tiles[i]? = some t) :
    ((!s.keeperWorks (ptnOf c) || s.bound o || s.migrating c base i || (t.place.tier == 1 && !s.evacTurn c base i)) = true →
      tileMigrateEffect c base i s = s) ∧
    (s.migrationDest (ptnOf c) o t = none → tileMigrateEffect c base i s = s) ∧
    (∀ d, (!s.keeperWorks (ptnOf c) || s.bound o || s.migrating c base i || (t.place.tier == 1 && !s.evacTurn c base i)) = false →
      s.migrationDest (ptnOf c) o t = some d →
      tileMigrateEffect c base i s = { s with migrations := s.migrations ++ [⟨c, base, i, d⟩] }) := by
  refine ⟨fun h => ?_, fun hd => ?_, fun d h hd => ?_⟩
  all_goals
    rw [tileMigrateEffect, ho]
    dsimp only
    rw [ht]
    dsimp only
  · exact if_pos h
  · rw [hd, ite_self]
  · rw [if_neg (by rw [h]; decide), hd]
    rfl

/-- A place in tier 0 for a displaced tile. -/
theorem promotion_eq_some {s : State} {p : Nat} {o : Obj} {t : ResTile} {d : Place} : s.promotion p o t = some d ↔
    s.overQuota p (some o.ctx) = false ∧ s.within p (some o.ctx) 0 (tileUnits o.desc) = true ∧
      ∃ u, s.freeUnit 0 t.place.cluster (tileUnits o.desc) (tileUnits o.desc) = some u ∧ d = ⟨0, t.place.cluster, u⟩ := by
  rw [State.promotion]
  cases s.overQuota p (some o.ctx) with
  | true => simp
  | false =>
    cases s.within p (some o.ctx) 0 (tileUnits o.desc) with
    | false => simp
    | true => simp [Option.map_eq_some_iff, eq_comm]

/-- TILE_PROMOTE while the keeper works, by what the displaced tiles find. -/
theorem tilePromote_found {s : State} {p : Fin 8} (hw : s.keeperWorks p.val = true) :
    (∀ o i d, ((s.displaced p.val).findSome? fun x => (s.promotion p.val x.1 x.2.1).map fun d => (x.1, x.2.2, d)) = some (o, i, d) →
      tilePromoteEffect p s = s.startMigration o.ctx o.desc.vbase i d) ∧
    (((s.displaced p.val).findSome? fun x => (s.promotion p.val x.1 x.2.1).map fun d => (x.1, x.2.2, d)) = none →
      tilePromoteEffect p s = s) := by
  refine ⟨fun o i d h => ?_, fun h => ?_⟩
  all_goals
    rw [tilePromoteEffect, if_neg (by simp [hw]), h]

/-! ### A reclaim that has nothing to do -/

/-- The state t is s with hosts and contexts changed, and no context of partition p that does not reclaim does so now. -/
def Unreclaiming (p : Nat) (s t : State) : Prop :=
  (∃ hs cs, t = { s with hosts := hs, ctxs := cs }) ∧
    ((∀ c ∈ s.ctxsOf p, c.reclaiming = false) → ∀ c ∈ t.ctxsOf p, c.reclaiming = false)

theorem Unreclaiming.refl (p : Nat) (s : State) : Unreclaiming p s s := ⟨⟨s.hosts, s.ctxs, rfl⟩, id⟩

theorem Unreclaiming.trans {p : Nat} {s t u : State} (h : Unreclaiming p s t) (k : Unreclaiming p t u) : Unreclaiming p s u := by
  obtain ⟨⟨_, _, rfl⟩, hf⟩ := h
  obtain ⟨⟨hs, cs, rfl⟩, kf⟩ := k
  exact ⟨⟨hs, cs, rfl⟩, fun h => kf (hf h)⟩

theorem unreclaiming_modCtx (p : Nat) (s : State) (c : CtxNo) {f : Context → Context} (hno : ∀ x, (f x).no = x.no)
    (hre : ∀ x, (f x).reclaiming = x.reclaiming) : Unreclaiming p s (s.modCtx c f) := by
  refine ⟨⟨s.hosts, _, rfl⟩, fun h x hx => ?_⟩
  simp only [State.ctxsOf, State.modCtx, Lists.modifyIf, List.mem_filter, List.mem_map, beq_iff_eq] at hx h
  obtain ⟨⟨y, hy, rfl⟩, hp⟩ := hx
  split at hp
  next hc =>
    rw [if_pos hc, hre]
    exact h y ⟨hy, by rw [← hp, hno]⟩
  next hc =>
    rw [if_neg hc]
    exact h y ⟨hy, hp⟩

theorem unreclaiming_event (p : Nat) (s : State) (r : Ring) (code a0 a1 a2 : Nat) : Unreclaiming p s (s.event r code a0 a1 a2) := by
  cases r with
  | host h => exact ⟨⟨_, s.ctxs, rfl⟩, id⟩
  | ctx c => exact unreclaiming_modCtx p s c (fun _ => rfl) fun _ => rfl

theorem unreclaiming_joinReclaim (p q : Nat) (s : State) : Unreclaiming p s (s.joinReclaim q) := by
  have key : ∀ (cs : List Context) (u : State), Unreclaiming p u (cs.foldl (fun st c =>
      if c.reclaiming then st else st.modCtx c.no fun y => { y with reclaimOff := false }) u) := by
    intro cs
    induction cs with
    | nil => exact fun u => .refl p u
    | cons c cs ih =>
      intro u
      refine Unreclaiming.trans ?_ (ih _)
      dsimp only
      split
      · exact .refl p u
      · exact unreclaiming_modCtx p u c.no (fun _ => rfl) fun _ => rfl
  exact key _ s

/-- A reclaim of a partition that finds charge and target met, and nothing under way, ends with no residual. -/
theorem reclaim_met {s : State} {p : Nat} {x : Partition} (hx : s.ptn? p = some x) (h0 : s.charge p 0 ≤ s.quota p 0)
    (h1 : s.charge p 1 ≤ s.quota p 1) (hc0 : s.carried p none 0 = 0) (hc1 : s.carried p none 1 = 0) (hs : s.stranded p = 0) :
    ∃ t, s.reclaim { p := p } = ((State.modPtn t p fun y =>
        { y with reclaiming := false, residT0 := 0, residT1 := 0, overT0 := false, overT1 := false }).event
          (.ctx (mgmt p)) 0x0021 0xFFF 0 0).event (.ctx (mgmt p)) 0x0022 0xFFF 0 0 ∧ Unreclaiming p s t := by
  have hd0 : s.reclaimDue { p := p } 0 ≤ s.reclaimTarget { p := p } 0 := by
    show s.charge p 0 + s.carried p none (1 - 0) - s.carried p none 0 ≤ s.quota p 0
    rw [hc0, hc1]
    exact h0
  have hd1 : s.reclaimDue { p := p } 1 ≤ s.reclaimTarget { p := p } 1 := by
    show s.charge p 1 + s.carried p none (1 - 1) - s.carried p none 1 ≤ s.quota p 1
    rw [hc0, hc1]
    exact h1
  have htiles : ∀ l, s.reclaimTier0 { p := p } l = s := fun l => by
    cases l with
    | nil => rfl
    | cons e l => exact if_pos hd0
  have hpages : ∀ l, s.reclaimTier1 { p := p } l = s := fun l => by
    cases l with
    | nil => rfl
    | cons e l => exact if_pos hd1
  have hwaits : s.reclaimWaits { p := p } = false := by
    simp [State.reclaimWaits, Nat.not_lt.mpr hd0, Nat.not_lt.mpr hd1]
  have hr0 : s.reclaimCharge { p := p } 0 - s.reclaimTarget { p := p } 0 = 0 := Nat.sub_eq_zero_of_le h0
  have hr1 : s.reclaimCharge { p := p } 1 - s.reclaimTarget { p := p } 1 = 0 := Nat.sub_eq_zero_of_le h1
  refine ⟨s.joinReclaim p, ?_, unreclaiming_joinReclaim p p s⟩
  rw [State.reclaim, htiles]
  dsimp only
  rw [hpages, if_neg (by simp [hwaits, hc0]), hr0, hr1, hs]
  rfl

/-- Reclaims of contexts none of which reclaims do nothing. -/
theorem reclaims_idle {p : Nat} (cs : List Context) (h : ∀ c ∈ cs, c.reclaiming = false) (s : State) :
    cs.foldl (fun st c => if c.reclaiming then st.reclaim { p := p, ctx := some c.no } else st) s = s := by
  induction cs with
  | nil => rfl
  | cons c cs ih =>
    rw [List.foldl_cons, if_neg (by simp [h c (by simp)])]
    exact ih fun d hd => h d (by simp [hd])

theorem quotaReclaim_some {s : State} {p : Fin 8} {x : Partition} (hx : s.ptn? p.val = some x) (hw : s.keeperWorks p.val = true) :
    (x.reclaiming = false → quotaReclaimEffect p s = (s.ctxsOf p.val).foldl (fun st c =>
      if c.reclaiming then st.reclaim { p := p.val, ctx := some c.no } else st) s) ∧
    (x.reclaiming = true → quotaReclaimEffect p s = ((s.reclaim { p := p.val }).ctxsOf p.val).foldl (fun st c =>
      if c.reclaiming then st.reclaim { p := p.val, ctx := some c.no } else st) (s.reclaim { p := p.val })) := by
  refine ⟨fun h => ?_, fun h => ?_⟩
  · rw [quotaReclaimEffect, hx]
    dsimp only
    rw [if_neg (by simp [hw]), if_neg (by simp [h])]
  · rw [quotaReclaimEffect, hx]
    dsimp only
    rw [if_neg (by simp [hw]), if_pos h]

/-- The end of that reclaim: the partition, the contexts, and what stays. -/
theorem reclaim_met_leaves {s : State} {p : Nat} {x : Partition} (hx : s.ptn? p = some x) (h0 : s.charge p 0 ≤ s.quota p 0)
    (h1 : s.charge p 1 ≤ s.quota p 1) (hc0 : s.carried p none 0 = 0) (hc1 : s.carried p none 1 = 0) (hs : s.stranded p = 0)
    (hctx : ∀ c ∈ s.ctxsOf p, c.reclaiming = false) :
    let t := s.reclaim { p := p }
    t.objs = s.objs ∧ t.seqs = s.seqs ∧ t.migrations = s.migrations ∧ (∀ c ∈ t.ctxsOf p, c.reclaiming = false) ∧
      t.ptn? p = some { x with reclaiming := false, residT0 := 0, residT1 := 0, overT0 := false, overT1 := false } := by
  intro t
  obtain ⟨u, e, ⟨hs', cs', eu⟩, hu⟩ := reclaim_met hx h0 h1 hc0 hc1 hs
  have hux : u.ptn? p = some x := by rw [eu]; exact hx
  obtain ⟨⟨hs₂, cs₂, et⟩, ht⟩ := (unreclaiming_event p (State.modPtn u p fun y =>
        { y with reclaiming := false, residT0 := 0, residT1 := 0, overT0 := false, overT1 := false })
          (.ctx (mgmt p)) 0x0021 0xFFF 0 0).trans (unreclaiming_event p _ (.ctx (mgmt p)) 0x0022 0xFFF 0 0)
  have hte : t = { (State.modPtn u p fun y =>
        { y with reclaiming := false, residT0 := 0, residT1 := 0, overT0 := false, overT1 := false }) with hosts := hs₂, ctxs := cs₂ } :=
    e.trans et
  have hctxs : ∀ c ∈ t.ctxsOf p, c.reclaiming = false := by
    have := ht (fun c hc => hu hctx c (by simpa [State.ctxsOf] using hc))
    rw [show t = _ from e]
    exact this
  refine ⟨?_, ?_, ?_, hctxs, ?_⟩
  · rw [hte, eu]; simp
  · rw [hte, eu]; simp
  · rw [hte, eu]; simp
  · rw [hte]
    exact ptn?_modPtn_self _ (ptn?_lt hx) hux

/-! ### Poison -/

section
variable {s : State} {c : Fin 8} {line p : Nat}

theorem keeperPoison_free (h : s.ptnOfCluster c.val = none) : keeperPoisonActionEffect c line s =
    { s with poisonReports := s.poisonReports.filter (· != c.val * clusterLines + line) } := by
  simp only [keeperPoisonActionEffect, h]

theorem keeperPoison_idle (h : s.ptnOfCluster c.val = some p)
    (hi : s.keeperWorks p = false ∨ c.val * clusterLines + line ∉ s.poisonReports) : keeperPoisonActionEffect c line s = s := by
  rw [keeperPoisonActionEffect]
  simp only [h]
  exact if_pos (by rcases hi with hi | hi <;> simp [hi])

/-- A reported line of a partition whose keeper works. -/
theorem keeperPoison_reported {x : Partition} (h : s.ptnOfCluster c.val = some p) (hx : s.ptn? p = some x)
    (hw : s.keeperWorks p = true) (hr : c.val * clusterLines + line ∈ s.poisonReports) :
    let n := c.val * clusterLines + line
    let u := line * 64 / unitBytes
    let t := { s with poisonReports := s.poisonReports.filter (· != n) }
    keeperPoisonActionEffect c line s =
      if !s.poison.contains n then t
      else if x.low = c.val ∧ x.reserve ≤ u ∧ u < x.reserve + x.n * 64 + 4 * (x.share / 4096) then t.reservePoisoned p x (line * 64)
      else if x.records.any fun r => r.units.contains (c.val, u) then t.sampleLoses c.val (line * 64)
      else (t.tileAt c.val u).elim (if t.pageHeld c.val u then s else t.pagePoisoned c.val u) fun e =>
        if e.1.desc.drop != 2 then t else if t.tileWanted e.1 e.2.1 then s else t.startRefetch e.1 e.2.1 e.2.2 := by
  intro n u t
  rw [keeperPoisonActionEffect]
  simp only [h]
  rw [if_neg (by simp [hr, hw])]
  refine if_congr Iff.rfl rfl ?_
  have hx' : State.ptn? { s with poisonReports := s.poisonReports.filter (· != c.val * clusterLines + line) } p = some x := hx
  rw [hx']
  refine if_congr Iff.rfl rfl (if_congr Iff.rfl rfl ?_)
  show (match t.tileAt c.val u with
    | some (o, i, y) => if o.desc.drop != 2 then t else if t.tileWanted o i then s else t.startRefetch o i y
    | none => if t.pageHeld c.val u then s else t.pagePoisoned c.val u) = _
  rcases t.tileAt c.val u with - | ⟨o, i, y⟩ <;> rfl

end

/-- Settles O39, keeper by keeper. -/
theorem keepers : Obligations.Keepers := by
  unfold Obligations.Keepers
  refine ⟨fun s c base i o t ho ht hw => ⟨fun d hb hm hv hd => exec_effect rfl ((tileMigrate_some ho ht).2.2 d ?_ hd), fun h =>
      exec_effect rfl ?_⟩, fun s c base i h => exec_effect rfl ?_, fun s p o t i d first rest hw hsplit hnone hd => exec_effect rfl
      ((tilePromote_found hw).1 o i d ?_), fun s p o t d => promotion_eq_some, fun s p h => exec_effect rfl ?_,
    fun s p h => exec_effect rfl ?_, fun s p x hx hre hctx => exec_effect rfl ?_,
    fun s p x hx hw hre hctx h0 h1 hc0 hc1 hst => ⟨_, rfl, ?_⟩, fun s c line h => exec_effect rfl (keeperPoison_free h),
    fun s c line p h hi => exec_effect rfl (keeperPoison_idle h hi), fun s c line p x h hx hw hr => ?_⟩
  · rw [hw, hb, hm]
    by_cases ht1 : t.place.tier = 1
    · simp [ht1, hv ht1]
    · simp [ht1]
  · rcases h with h | h | ⟨ht1, hv⟩ | h
    · exact (tileMigrate_some ho ht).1 (by simp [h])
    · exact (tileMigrate_some ho ht).1 (by simp [h])
    · exact (tileMigrate_some ho ht).1 (by simp [ht1, hv])
    · exact (tileMigrate_some ho ht).2.1 h
  · cases ho : s.obj? c base with
    | none => simp only [tileMigrateEffect, ho]
    | some o =>
      cases ht : o.tiles[i]? with
      | none => simp only [tileMigrateEffect, ho, ht]
      | some t =>
        rcases h with h | h
        · exact (tileMigrate_some ho ht).1 (by simp [h])
        · exact absurd (h o ho) (by simp [ht])
  · rw [hsplit, List.findSome?_append, List.findSome?_eq_none_iff.mpr fun x hx => by rw [hnone x hx]; rfl]
    simp [hd]
  · cases hw : s.keeperWorks p.val with
    | false => exact if_pos (by simp [hw])
    | true =>
      refine (tilePromote_found hw).2 (List.findSome?_eq_none_iff.mpr fun x hx => ?_)
      rw [h.resolve_left (by simp [hw]) x hx]
      rfl
  · cases hx : s.ptn? p.val with
    | none => simp only [quotaReclaimEffect, hx]
    | some x =>
      rw [quotaReclaimEffect, hx]
      exact if_pos (by simp [h.resolve_left (by simp [hx])])
  · cases hw : s.keeperWorks p.val with
    | false =>
      rw [quotaReclaimEffect, hx]
      exact if_pos (by simp [hw])
    | true => exact ((quotaReclaim_some hx hw).1 hre).trans (reclaims_idle _ hctx s)
  · obtain ⟨ho, hseq, hmig, hnone, hp⟩ := reclaim_met_leaves hx h0 h1 hc0 hc1 hst hctx
    rw [((quotaReclaim_some hx hw).2 hre).trans (reclaims_idle _ hnone _)]
    exact ⟨ho, hseq, hmig, hp⟩
  · intro n u t reserved
    have heff := keeperPoison_reported h hx hw hr
    refine ⟨fun hn => exec_effect rfl (heff.trans (if_pos (by simpa using hn))), fun hn => ⟨fun hres => exec_effect rfl (heff.trans ?_),
      fun hres hrec => exec_effect rfl (heff.trans ?_), fun hres hrec => ⟨fun o i g hta => exec_effect rfl (heff.trans ?_), fun hta hh =>
        exec_effect rfl (heff.trans ?_), fun hta hh => exec_effect rfl (heff.trans ?_)⟩⟩⟩
    all_goals refine (if_neg (by simpa using hn)).trans ?_
    · exact if_pos hres
    · exact (if_neg hres).trans (if_pos hrec)
    all_goals refine (if_neg hres).trans ((if_neg (Bool.eq_false_iff.mp hrec)).trans ?_)
    · rw [hta]
      exact if_congr bne_iff_ne rfl rfl
    · rw [hta]
      exact if_neg (Bool.eq_false_iff.mp hh)
    · rw [hta]
      exact if_pos hh

end Sys2Proof.Machine
end

section
/-! SUPPORT. Sending on the Felt ports: what it leaves (13 R318, R330, R335, R345). -/

namespace Sys2Proof.Machine

/-! ### Ports -/

theorem port_modPort_self (s : State) (k : Fin 8) (f : Port → Port) : (s.modPort k f).port k = f (s.port k) := by
  simp [State.modPort, State.modFelt, State.port]

theorem port_modPort_ne (s : State) {k j : Fin 8} (h : j ≠ k) (f : Port → Port) : (s.modPort k f).port j = s.port j := by
  have hv : k.val ≠ j.val := fun e => h (Fin.ext e.symm)
  simp [State.modPort, State.modFelt, State.port, hv]

theorem port_modPort (s : State) (k j : Fin 8) (f : Port → Port) :
    (s.modPort k f).port j = if j = k then f (s.port j) else s.port j := by
  split_ifs with h
  · subst h
    exact port_modPort_self s j f
  · exact port_modPort_ne s h f

/-! ### What sending leaves -/

/-- The port y is x with frames sent: counters, turns and credits have moved on. -/
def Port.Moved (x y : Port) : Prop := ∃ c l a cr r, y = { x with txCtr := c, lastSent := l, slotAt := a, credits := cr, returned := r }

theorem Port.Moved.refl (x : Port) : x.Moved x := ⟨x.txCtr, x.lastSent, x.slotAt, x.credits, x.returned, rfl⟩

theorem Port.Moved.trans {x y z : Port} (h : x.Moved y) (k : y.Moved z) : x.Moved z := by
  obtain ⟨_, _, _, _, _, rfl⟩ := h
  obtain ⟨c, l, a, cr, r, rfl⟩ := k
  exact ⟨c, l, a, cr, r, rfl⟩

/-- The state t is s with frames sent: what left, what waits, what awaits an acknowledgement and the device's own frames
have changed, and the ports have moved on. -/
def Sends (s t : State) : Prop :=
  (∃ ps se un wa ow, t = { s with felt := { s.felt with ports := ps, sent := se, unacked := un, waiting := wa, own := ow } }) ∧
    ∀ k, (s.port k).Moved (t.port k)

theorem Sends.refl (s : State) : Sends s s :=
  ⟨⟨s.felt.ports, s.felt.sent, s.felt.unacked, s.felt.waiting, s.felt.own, rfl⟩, fun k => .refl (s.port k)⟩

theorem Sends.trans {s t u : State} (h : Sends s t) (k : Sends t u) : Sends s u := by
  obtain ⟨⟨_, _, _, _, _, rfl⟩, hp⟩ := h
  obtain ⟨⟨ps, se, un, wa, ow, e⟩, kp⟩ := k
  exact ⟨⟨ps, se, un, wa, ow, e⟩, fun j => (hp j).trans (kp j)⟩

theorem sends_foldl {α : Type} {f : State → α → State} (h : ∀ s a, Sends s (f s a)) (as : List α) (s : State) :
    Sends s (as.foldl f s) := by
  induction as generalizing s with
  | nil => exact .refl s
  | cons a as ih => exact (h s a).trans (ih _)

theorem sends_modPort (s : State) (k : Fin 8) {f : Port → Port} (h : ∀ x : Port, x.Moved (f x)) : Sends s (s.modPort k f) := by
  refine ⟨⟨_, s.felt.sent, s.felt.unacked, s.felt.waiting, s.felt.own, rfl⟩, fun j => ?_⟩
  rw [port_modPort]
  split_ifs
  · exact h _
  · exact .refl _

/-- Changes of what left, what waits, what is unacknowledged and what came from the device itself. -/
theorem sends_modFelt (s : State) (se : List Sent) (un : List Unacked) (wa ow : List Outgoing) :
    Sends s { s with felt := { s.felt with sent := se, unacked := un, waiting := wa, own := ow } } :=
  ⟨⟨s.felt.ports, se, un, wa, ow, rfl⟩, fun k => .refl (s.port k)⟩

theorem sends_putOut (s : State) (k : Fin 8) (o : Outgoing) : Sends s (s.putOut k o) :=
  (sends_modFelt s _ s.felt.unacked s.felt.waiting s.felt.own).trans
    (sends_modPort _ k fun x => ⟨_, _, _, _, x.returned, rfl⟩)

theorem sends_giveCredit (s : State) (x : Option (Fin 8 × Nat)) : Sends s (s.giveCredit x) := by
  cases x with
  | none => exact .refl s
  | some e => exact sends_modPort s e.1 fun x => ⟨x.txCtr, x.lastSent, x.slotAt, x.credits, _, rfl⟩

theorem sends_markSent (s : State) (k : Fin 8) (o : Outgoing) : Sends s (s.markSent k o) := by
  unfold State.markSent
  split
  · exact sends_modFelt s s.felt.sent _ s.felt.waiting s.felt.own
  · exact .refl s

theorem sends_markHere (s : State) (o : Outgoing) : Sends s (s.markHere o) := by
  unfold State.markHere
  split
  · exact sends_modFelt s s.felt.sent _ s.felt.waiting s.felt.own
  · exact .refl s

theorem sends_deliverHere (s : State) (o : Outgoing) : Sends s (s.deliverHere o) :=
  sends_modFelt s s.felt.sent s.felt.unacked s.felt.waiting _

theorem sends_send (s : State) (o : Outgoing) : Sends s (s.send o) := by
  have hwait : Sends s (s.modFelt fun f => { f with waiting := f.waiting ++ [o] }) :=
    sends_modFelt s s.felt.sent s.felt.unacked _ s.felt.own
  unfold State.send
  dsimp only
  split
  · exact hwait
  · split
    · split
      · exact sends_giveCredit ..
      · split
        · have hout := fun t : Tree => (sends_foldl (fun s k => sends_putOut s k o) t.ports s).trans (sends_giveCredit _ o.owes)
          split
          · exact (hout _).trans (sends_deliverHere ..)
          · exact hout _
        · exact hwait
    · split
      · exact (sends_markHere ..).trans (sends_deliverHere ..)
      · split
        · exact ((sends_putOut ..).trans (sends_markSent ..)).trans (sends_giveCredit ..)
        · exact hwait

theorem sends_flush (s : State) : Sends s s.flush :=
  (sends_modFelt s s.felt.sent s.felt.unacked [] s.felt.own).trans (sends_foldl (fun s o => sends_send s o) _ _)

theorem sends_sendLink (s : State) (k : Fin 8) (body : FeltBody) : Sends s (s.sendLink k body) := sends_send ..

theorem sends_flood (s : State) (except : Option (Fin 8)) (body : FeltBody) : Sends s (s.flood except body) :=
  sends_foldl (fun s k => sends_sendLink s k body) _ s

theorem sends_sendControl (s : State) (spart : Nat) (dst : BitVec 16) (dpart : BitVec 3) (body : FeltBody) :
    Sends s (s.sendControl spart dst dpart body) := sends_send ..

theorem sends_resend (s : State) (u : Unacked) : Sends s (s.resend u) := by
  unfold State.resend
  dsimp only
  split
  · exact .refl s
  · exact sends_send ..

theorem sends_resendFrom (s : State) (k : Fin 8) : Sends s (s.resendFrom k) := sends_foldl (fun s u => sends_resend s u) _ s

/-- What sending leaves of a port. -/
theorem Sends.port {s t : State} (h : Sends s t) (k : Fin 8) : (t.port k).phase = (s.port k).phase ∧
    (t.port k).healthy = (s.port k).healthy ∧ (t.port k).tagFail = (s.port k).tagFail := by
  obtain ⟨_, _, _, _, _, e⟩ := h.2 k
  rw [e]
  exact ⟨rfl, rfl, rfl⟩

/-- What sending leaves of the rest of the state. -/
theorem Sends.leaves {s t : State} (h : Sends s t) : t.tier1 = s.tier1 ∧ t.ptns = s.ptns ∧ t.accepted = s.accepted ∧ t.flt = s.flt := by
  obtain ⟨⟨_, _, _, _, _, rfl⟩, -⟩ := h
  exact ⟨rfl, rfl, rfl, rfl⟩

/-- A link that goes down leaves the state but the Felt side, and its port as a dropped one. -/
theorem linkDown_sends (s : State) (k : Fin 8) (phase : LinkPhase) :
    Sends (s.modPort k fun x => x.dropped s.now phase) (s.linkDown k phase) := by
  unfold State.linkDown
  dsimp only
  split
  · exact ((sends_flood ..).trans (sends_resendFrom ..)).trans (sends_flush _)
  · exact .refl _

end Sys2Proof.Machine
end

section
/-! SUPPORT. Received Felt frames and the Felt links (13 R318 to R324, R330). -/

namespace Sys2Proof.Machine

/-! ### Dropped and accepted frames -/

/-- The port that a dropped frame leaves, before what sixteen or four drops bring. -/
def withDrop (now : Nat) (x : Port) : Port :=
  let ds := (x.drops.filter fun t => now < t + 1000) ++ [now]
  { x with tagFail := BitVec.ofNat 16 (Bits.satAdd 16 x.tagFail.toNat 1), drops := ds, healthy := x.healthy && ds.length < 4 }

theorem dropFrame_eq (s : State) (k : Fin 8) : s.dropFrame k =
    let n := ((s.port k).drops.filter fun t => s.now < t + 1000).length + 1
    let t := s.modPort k (withDrop s.now)
    if 16 ≤ n then t.linkDown k .failed else if 4 ≤ n then t.flush else t := by
  have hlen : (((s.port k).drops.filter fun t => s.now < t + 1000) ++ [s.now]).length =
      ((s.port k).drops.filter fun t => s.now < t + 1000).length + 1 := by simp
  have hmod : (s.modPort k fun x =>
      { x with tagFail := BitVec.ofNat 16 (Bits.satAdd 16 x.tagFail.toNat 1)
               drops := ((s.port k).drops.filter fun t => s.now < t + 1000) ++ [s.now]
               healthy := x.healthy && (((s.port k).drops.filter fun t => s.now < t + 1000) ++ [s.now]).length < 4 }) =
      s.modPort k (withDrop s.now) := rfl
  rw [State.dropFrame]
  dsimp only
  rw [hmod, hlen]

theorem receive_dropped {s : State} {k : Fin 8} {f : Frame} (h : (s.port k).accepts f = none) :
    s.receive k f = (s.dropFrame k, false) := by
  simp only [State.receive, h]

/-- The port after an accepted frame, under its present key or the next. -/
def taken (now : Nat) (f : Frame) (isNext : Bool) (x : Port) : Port :=
  if isNext then { x with epoch := x.next.getD x.epoch, next := none, rxKp := !x.rxKp, rxTop := f.ctr, nextTop := 0, lastValid := now }
  else { x with rxTop := f.ctr, lastValid := now }

theorem receive_accepted {s : State} {k : Fin 8} {f : Frame} {isNext : Bool} (h : (s.port k).accepts f = some isNext) :
    s.receive k f = (s.modPort k (taken s.now f isNext), true) := by
  simp only [State.receive, h]
  rfl

/-- An accepted frame leaves the phase, and what else it does not name. -/
theorem receive_keeps {s t : State} {k : Fin 8} {f : Frame} (h : s.receive k f = (t, true)) :
    (t.port k).phase = (s.port k).phase := by
  cases ha : (s.port k).accepts f with
  | none =>
    rw [receive_dropped ha] at h
    cases h
  | some isNext =>
    rw [receive_accepted ha] at h
    cases h
    rw [port_modPort_self, taken]
    split <;> rfl

/-- What a frame accepted says of its counter, its key and its form. -/
theorem accepts_some {x : Port} {f : Frame} {isNext : Bool} (h : x.accepts f = some isNext) :
    ∃ key top, x.rxKey f = some (key, top, isNext) ∧ frameFormOk f = true ∧ top.toNat < f.ctr.toNat := by
  unfold Port.accepts at h
  split at h
  next => cases h
  next key top n hk =>
    split at h
    next hok =>
      simp only [Bool.and_eq_true, decide_eq_true_eq] at hok
      cases h
      exact ⟨key, top, hk, hok.1.1, hok.2⟩
    next => cases h

/-- The counter that a frame under the present or the next key is checked against. -/
theorem rxKey_top {x : Port} {f : Frame} {key : BitVec 256} {top : BitVec 64} {isNext : Bool}
    (h : x.rxKey f = some (key, top, isNext)) : top = if isNext then x.nextTop else x.rxTop := by
  unfold Port.rxKey at h
  split at h
  · cases h; rfl
  · cases h; rfl
  · split at h
    · cases h; rfl
    · obtain ⟨e, -, he⟩ := Option.map_eq_some_iff.mp h
      cases he
      rfl
  · cases h

/-- A frame that no form allows is not accepted. -/
theorem accepts_badForm {x : Port} {f : Frame} (h : frameFormOk f = false) : x.accepts f = none := by
  cases ha : x.accepts f with
  | none => rfl
  | some n =>
    obtain ⟨-, -, -, hf, -⟩ := accepts_some ha
    rw [h] at hf
    cases hf

theorem frameFormOk_false {f : Frame} (h : f.type = 0 ∨ 6 ≤ f.type.toNat ∨ f.rsvd ≠ 0 ∨ 4096 < f.length.toNat ∨
    f.length.toNat ≠ f.payload.length ∨ (3 ≤ f.type.toNat ∧ f.length ≠ 16)) : frameFormOk f = false := by
  rw [← Bool.not_eq_true]
  simp only [frameFormOk, Bool.and_eq_true, Bool.or_eq_true, decide_eq_true_eq, beq_iff_eq, not_and]
  rintro ⟨⟨⟨⟨⟨⟨h1, h5⟩, hr⟩, hl⟩, hp⟩, hc⟩, -⟩
  rcases h with h | h | h | h | h | ⟨h3, h⟩
  · rw [h] at h1; exact absurd h1 (by decide)
  · omega
  · exact absurd hr h
  · omega
  · exact absurd hp h
  · exact absurd (hc.resolve_left (by omega)) h

/-! ### Rows that a frame drives -/

theorem onFrame_dropped {k : Fin 8} {f : Frame} {s t : State} {body : Frame → State → State} (h : s.receive k f = (t, false)) :
    onFrame k f s body = t := by
  simp only [onFrame, h]

theorem onFrame_accepted {k : Fin 8} {f : Frame} {s t : State} {body : Frame → State → State} (h : s.receive k f = (t, true)) :
    onFrame k f s body = body ((s.port k).opened f) t := by
  simp only [onFrame, h]

/-- A row of a frame on a port in another state, and with a frame that is dropped. -/
theorem onPhase_other {s : State} {k : Fin 8} {p : LinkPhase} (h : (s.port k).phase ≠ p) (u : State) :
    (if (s.port k).phase != p then s else u) = s := if_pos (by simpa using h)

theorem onPhase_dropped {s t : State} {k : Fin 8} {f : Frame} {p : LinkPhase} {body : Frame → State → State}
    (h : (s.port k).phase = p) (hr : s.receive k f = (t, false)) :
    (if (s.port k).phase != p then s else onFrame k f s body) = t := (if_neg (by simp [h])).trans (onFrame_dropped hr)

theorem onPhase_accepted {s t : State} {k : Fin 8} {f : Frame} {p : LinkPhase} {body : Frame → State → State}
    (h : (s.port k).phase = p) (hr : s.receive k f = (t, true)) :
    (if (s.port k).phase != p then s else onFrame k f s body) = body ((s.port k).opened f) t :=
  (if_neg (by simp [h])).trans (onFrame_accepted hr)

theorem forLinker_waits {s : State} {w : HeldWork} {act : State → State} (h : s.restarting linkerIsland = true) :
    s.forLinker w act = { s with heldWork := s.heldWork ++ [w] } := if_pos h

theorem forLinker_acts {s : State} {w : HeldWork} {act : State → State} (h : s.restarting linkerIsland = false) :
    s.forLinker w act = act s := if_neg (by simp [h])

/-- The gate of the ports (13 R319, R322, R323). -/
theorem feltGate :
    (∀ (s : State) (k : Fin 8) (f : Frame), (s.port k).accepts f = none →
     (s.receive k f).2 = false ∧ ((s.receive k f).1.port k).tagFail = BitVec.ofNat 16 (min ((s.port k).tagFail.toNat + 1) 65535) ∧
     let n := ((s.port k).drops.filter fun t => s.now < t + 1000).length + 1
     (4 ≤ n → ((s.receive k f).1.port k).healthy = false) ∧ (16 ≤ n → ((s.receive k f).1.port k).phase = .failed) ∧
     (n < 4 → ((s.receive k f).1.port k).healthy = (s.port k).healthy) ∧
     (n < 16 → ((s.receive k f).1.port k).phase = (s.port k).phase) ∧
     (s.receive k f).1.tier1 = s.tier1 ∧ (s.receive k f).1.ptns = s.ptns ∧ (s.receive k f).1.accepted = s.accepted) := by
  intro s k f h
  rw [receive_dropped h, dropFrame_eq]
  dsimp only
  generalize hn : ((s.port k).drops.filter fun t => s.now < t + 1000).length + 1 = n
  have hwith : (withDrop s.now (s.port k)).healthy = ((s.port k).healthy && decide (n < 4)) := by
    simp [withDrop, ← hn]
  refine ⟨rfl, ?_⟩
  by_cases h16 : 16 ≤ n
  · rw [if_pos h16]
    have hs := linkDown_sends (s.modPort k (withDrop s.now)) k .failed
    obtain ⟨hp, hh, ht⟩ := hs.port k
    obtain ⟨h1, h2, h3, -⟩ := hs.leaves
    rw [hp, hh, ht, h1, h2, h3, port_modPort_self, port_modPort_self]
    exact ⟨rfl, fun _ => rfl, fun _ => rfl, fun _ => by omega, fun _ => by omega, rfl, rfl, rfl⟩
  · rw [if_neg h16]
    have hs : Sends (s.modPort k (withDrop s.now)) (if 4 ≤ n then (s.modPort k (withDrop s.now)).flush else s.modPort k (withDrop s.now)) := by
      split
      · exact sends_flush _
      · exact .refl _
    obtain ⟨hp, hh, ht⟩ := hs.port k
    obtain ⟨h1, h2, h3, -⟩ := hs.leaves
    rw [hp, hh, ht, h1, h2, h3, port_modPort_self, hwith]
    refine ⟨rfl, fun h4 => ?_, fun _ => by omega, fun h4 => ?_, fun _ => rfl, rfl, rfl, rfl⟩
    · simp [Nat.not_lt.mpr h4]
    · simp [h4]

/-- A frame's row, by its phase and whether the frame is dropped. -/
theorem exec_phase {i : Instr} {s : State} {k : Fin 8} {f : Frame} {p : LinkPhase} {body : Frame → State → State}
    (he : exec i s = .next (if (s.port k).phase != p then s else onFrame k f s body)) :
    ((s.port k).phase ≠ p → exec i s = .next s) ∧
      (∀ t, (s.port k).phase = p → s.receive k f = (t, false) → exec i s = .next t) ∧
      (∀ t, (s.port k).phase = p → s.receive k f = (t, true) → exec i s = .next (body ((s.port k).opened f) t)) :=
  ⟨fun h => exec_effect he (onPhase_other h _), fun _ h hr => exec_effect he (onPhase_dropped h hr), fun _ h hr =>
    exec_effect he (onPhase_accepted h hr)⟩

/-- Training starts on a port that is down or failed, where links may be brought up. -/
theorem startTraining_idle {s : State} {k : Fin 8} (h : (Config.linkRoot = 0 ∨ s.flt.becalmed = true ∨ s.linksRun = false) ∨
    ((s.port k).phase ≠ .down ∧ (s.port k).phase ≠ .failed)) : s.startTraining k = s := by
  unfold State.startTraining
  split
  · rfl
  next hrun =>
    have hphase := h.resolve_left fun h => hrun (by rcases h with h | h | h <;> simp [h])
    split
    next hd => exact absurd hd hphase.1
    next hf => exact absurd hf hphase.2
    next => rfl

theorem startTraining_starts {s : State} {k : Fin 8} (h : ¬ (Config.linkRoot = 0 ∨ s.flt.becalmed = true ∨ s.linksRun = false))
    (hp : (s.port k).phase = .down ∨ (s.port k).phase = .failed) :
    s.startTraining k = s.modPort k fun x => { x with phase := .training, since := s.now } := by
  unfold State.startTraining
  have hn : ¬ (decide (Config.linkRoot = 0) || s.flt.becalmed || !s.linksRun) = true := by simpa [not_or, and_assoc] using h
  rw [if_neg hn]
  rcases hp with hp | hp <;> rw [hp]

theorem modPort_modPort (s : State) (k : Fin 8) (f g : Port → Port) :
    (s.modPort k f).modPort k g = s.modPort k fun x => g (f x) := by
  simp [State.modPort, State.modFelt]

/-- The port that the right proof brings up (13 R321, R324). -/
def brought (now : Nat) (y : Port) : Port :=
  { y with
    phase := .up, healthy := true, rotations := 0, txEpoch := y.epoch, txCtr := 1, txKp := false, rxKp := false
    rxTop := 0, nextTop := 0, next := none, drops := [], lastUnc := none, lastValid := now, keysSince := now
    credits := (List.range 256).map fun i => (i, Config.initialCredit i), returned := [] }

/-- Settles O40: the gate, then the links row by row. -/
theorem feltGateLinks : Obligations.FeltGateLinks := by
  unfold Obligations.FeltGateLinks
  refine ⟨⟨feltGate, fun s k f next h => ?_, fun x f h => accepts_badForm (frameFormOk_false h),
      fun s k f sn b64 n32 m32 a r16 g16 pf ls j adm flag e he => ?_, fun s t k f sn ep nonce iface a pf hr hw e he hp => ?_⟩,
    fun s k => ?_, fun s k => ?_, fun s k => ?_, fun s k => ?_, fun s t k f sn nonce iface addr hp hr hw => ?_,
    fun s t k f proof hp hr hw => ?_, fun s t k f hp hr hw => ?_, fun s k => ?_, fun s k => ?_, fun s k => ?_, fun s k => rfl⟩
  · obtain ⟨key, top, hk, -, hctr⟩ := accepts_some h
    have htop := rxKey_top hk
    rw [receive_accepted h]
    dsimp only
    rw [port_modPort_self]
    refine ⟨rfl, ?_, ?_, fun hn => ?_, fun hn => ?_⟩
    · unfold taken; split <;> rfl
    · unfold taken; split <;> rfl
    · subst hn
      exact ⟨(show top = (s.port k).rxTop from htop) ▸ hctr, rfl⟩
    · subst hn
      exact ⟨(show top = (s.port k).nextTop from htop) ▸ hctr, rfl, rfl⟩
  · simp only [List.mem_cons, List.not_mem_nil, or_false] at he
    rcases he with rfl | rfl | rfl | rfl | rfl | rfl | rfl | rfl | rfl | rfl | rfl | rfl | rfl | rfl | rfl <;>
      exact ⟨(exec_phase rfl).1, (exec_phase rfl).2.1⟩
  · simp only [List.mem_cons, List.not_mem_nil, or_false] at he
    rcases he with rfl | rfl | rfl | rfl <;> exact ((exec_phase rfl).2.2 t hp hr).trans (congrArg _ (forLinker_waits hw))
  · intro u idle
    refine ⟨fun hw => exec_effect rfl (show linkSignalEffect k s = _ from forLinker_waits hw), fun hw h =>
      exec_effect rfl (show linkSignalEffect k s = _ from (forLinker_acts (s := u) hw).trans ?_), fun hw h hp =>
      exec_effect rfl (show linkSignalEffect k s = _ from (forLinker_acts (s := u) hw).trans ?_)⟩
    · refine startTraining_idle (h.imp id fun h => ?_)
      rw [port_modPort_self]
      exact h
    · refine (startTraining_starts (s := u) h ?_).trans (modPort_modPort ..)
      rw [port_modPort_self]
      exact hp
  · refine ⟨fun hw => exec_effect rfl (show linkTrainingCompleteEffect k s = _ from forLinker_waits hw), fun hw h =>
      exec_effect rfl (show linkTrainingCompleteEffect k s = _ from (forLinker_acts hw).trans (if_pos ?_)), fun hw hp ht hr =>
      ⟨_, _, s.takeDraw.2, exec_effect rfl (show linkTrainingCompleteEffect k s = _ from (forLinker_acts hw).trans (if_neg ?_)), rfl, rfl⟩⟩
    · rcases h with h | h | h <;> simp [h]
    · simp [hp, hr, ht]
  · intro due
    exact ⟨fun h => exec_effect rfl (if_pos (by simpa [due, and_assoc] using h)), fun h => exec_effect rfl (if_neg (by simpa [due, and_assoc] using h))⟩
  · intro due
    exact ⟨fun h => exec_effect rfl (if_pos (by simpa [due, and_assoc] using h)), fun h => exec_effect rfl (if_neg (by simpa [due, and_assoc] using h))⟩
  · have heff := ((exec_phase (i := .helloFrame k f sn nonce iface addr) rfl).2.2 t hp hr).trans (congrArg _ (forLinker_acts hw))
    have hph : ¬ ((t.port k).phase != .hello) = true := by simp [receive_keeps hr, hp]
    exact ⟨fun h => heff.trans (congrArg _ ((if_neg hph).trans (if_pos h))), fun h => heff.trans (congrArg _ ((if_neg hph).trans (if_neg h)))⟩
  · have heff := ((exec_phase (i := .proofFrame k f proof) rfl).2.2 t hp hr).trans (congrArg _ (forLinker_acts hw))
    have hph : ¬ ((t.port k).phase != .authentication) = true := by simp [receive_keeps hr, hp]
    refine ⟨fun h => heff.trans (congrArg _ ((if_neg hph).trans (if_pos (by simpa using h)))), fun h => ?_⟩
    refine ⟨t.modPort k (brought t.now), ?_, ?_, ?_, ?_, ?_, fun j hj => port_modPort_ne t hj _, heff.trans (congrArg _ ((if_neg hph).trans
      (if_neg (by simp [h]))))⟩
    all_goals
      rw [port_modPort_self]
      rfl
  · have hrot := ((exec_phase (i := .rotateFrame k f ((t.port k).txEpoch + 1)) rfl).2.2 t hp hr).trans (congrArg _ (forLinker_acts hw))
    have hack := ((exec_phase (i := .rotateAcknowledgement k f) rfl).2.2 t hp hr).trans (congrArg _ (forLinker_acts hw))
    have hup : (t.port k).phase = .up := (receive_keeps hr).trans hp
    refine ⟨hrot.trans (congrArg _ (if_neg (by simp [hup]))), fun e he => ?_, fun h => hack.trans (congrArg _ (if_pos (by simp [hup, h]))),
      fun h => hack.trans (congrArg _ (if_neg (by simp [h])))⟩
    exact ((exec_phase (i := .rotateFrame k f e) rfl).2.2 t hp hr).trans (congrArg _ ((forLinker_acts hw).trans (if_pos (by rw [bne_iff_ne.mpr he, Bool.or_true]))))
  · intro x due
    refine ⟨fun h => exec_effect rfl (if_pos (by simpa [due, x, or_assoc] using h)), fun h => exec_effect rfl (if_neg (by simpa [due, x, or_assoc] using h)),
      fun h => if_pos (by simpa [or_assoc] using h), fun hp hr hn hw => if_neg (by simpa [hw] using ⟨⟨hp, hr⟩, hn⟩)⟩
  · refine ⟨fun h => exec_effect rfl ?_, fun t ht => ⟨fun h => exec_effect rfl ?_, fun h => exec_effect rfl ?_⟩⟩
    · simp only [rotationAckTimeoutEffect, h]
    · simp only [rotationAckTimeoutEffect, ht, if_pos h]
    · simp only [rotationAckTimeoutEffect, ht, if_neg (Nat.not_le.mpr h)]
  · intro up quiet
    have hquiet : (match (s.port k).lastUnc with
        | some t => decide (t + 1000 ≤ s.now)
        | none => true) = true ↔ ∀ t, (s.port k).lastUnc = some t → t + 1000 ≤ s.now := by
      cases (s.port k).lastUnc <;> simp
    refine ⟨fun hu h => exec_effect rfl (if_pos ?_), fun h => exec_effect rfl (if_neg ?_),
      fun hu h => exec_effect rfl (if_pos ?_), fun h => exec_effect rfl (if_neg ?_), fun h => exec_effect rfl ?_,
      fun h => exec_effect rfl ?_, fun hu h => exec_effect rfl (if_pos ?_), fun h => exec_effect rfl (if_neg ?_)⟩
    · simpa using And.intro hu h
    · simpa [imp_iff_not_or] using h
    · simpa using And.intro hu h
    · simpa [imp_iff_not_or] using h
    · rw [fecLockLossEffect]
      rcases h with h | h | h | h <;> rw [h]
    · rw [fecLockLossEffect]
      rcases h with h | h | h <;> rw [h]
    · rw [Bool.and_eq_true, Bool.and_eq_true, beq_iff_eq, decide_eq_true_eq]
      exact ⟨⟨hu, hquiet.mpr h.2⟩, h.1⟩
    · rw [Bool.and_eq_true, Bool.and_eq_true, beq_iff_eq, decide_eq_true_eq]
      rintro ⟨⟨hu, hq⟩, hd⟩
      exact h.elim (fun h => h hu) fun h => h ⟨hd, hquiet.mp hq⟩

end Sys2Proof.Machine
end

section
/-! SUPPORT. The fabric: routes, addresses, trees and the FAB commands (13 R326 to R333, R345 to R347). -/

namespace Sys2Proof.Machine

/-! ### What a fault leaves -/

theorem around_modCtx (s : State) (c : CtxNo) (f : Context → Context) : Around s (s.modCtx c f) :=
  ⟨s.hosts, _, s.ptns, s.field, s.felt.ports, s.flash, s.flt, rfl⟩

theorem around_startPtnReset (s : State) (p : Nat) (number : BitVec 16) (c : Option CtxNo) : Around s (s.startPtnReset p number c) := by
  unfold State.startPtnReset
  split
  · exact .refl s
  · split
    · exact .refl s
    · dsimp only
      split
      · exact (becalms_goOut ..).around
      · exact ((told_modPtn ..).trans (told_modPtn ..)).around

theorem around_startCtxReset (s : State) (c : CtxNo) (number : BitVec 16) : Around s (s.startCtxReset c number) := by
  unfold State.startCtxReset
  dsimp only
  split
  · split
    · exact .refl s
    · split
      · exact around_startPtnReset ..
      · split
        · exact around_startPtnReset ..
        · refine Around.trans (Around.trans ?_ (around_modCtx ..)) (told_modPtn ..).around
          split
          · split
            · exact (told_modPtn ..).around
            · exact .refl s
          · exact .refl s
  · exact .refl s

theorem around_takeRecord (s : State) (f : FaultInfo) : Around s (s.takeRecord f).1 := by
  cases hp : f.ptn with
  | none =>
    obtain ⟨rs, h⟩ := takeRecord_device (s := s) hp
    have hflt : Around s { s with flt := { s.flt with records := rs, recNo := s.flt.recNo + 1 } } :=
      ⟨s.hosts, s.ctxs, s.ptns, s.field, s.felt.ports, s.flash, _, rfl⟩
    exact hflt.trans h.around
  | some p =>
    rw [State.takeRecord, hp]
    dsimp only
    split
    · exact .refl s
    · dsimp only
      split
      · split
        · exact ((told_modPtn ..).trans (told_event ..)).around
        · exact (((told_modPtn ..).trans (told_event ..)).trans (told_event ..)).around
      · exact ((told_modPtn ..).trans (told_event ..)).around

theorem around_startRestart (s : State) (island : Nat) : Around s (s.startRestart island) := by
  cases h : s.restarting island with
  | true =>
    rw [State.startRestart, if_pos h]
    exact .refl s
  | false =>
    have hbegun : Around s (restartBegun s island) := ⟨s.hosts, s.ctxs, s.ptns, s.field, s.felt.ports, s.flash, _, rfl⟩
    exact hbegun.trans (becalms_startRestart h).around

theorem around_raiseFault (s : State) (f : FaultInfo) : Around s (s.raiseFault f) := by
  have hrec := around_takeRecord s f
  unfold State.raiseFault
  dsimp only
  split
  · exact hrec.trans (around_startRestart ..)
  · split
    · exact hrec.trans (becalms_becalm _ 2).around
    · split
      · split
        · exact hrec.trans (around_startPtnReset ..)
        · exact hrec
      · split
        · exact hrec.trans (around_startCtxReset ..)
        · exact hrec

theorem around_endGroupRun (s : State) (p : Nat) : Around s (s.endGroupRun p) := by
  unfold State.endGroupRun
  split
  · split
    · exact around_startCtxReset ..
    · exact .refl s
  · exact .refl s

/-! ### The time of the device and of its last change of routes -/

/-- The states s and t have the same time and the same change of routes. -/
def SameTimes (s t : State) : Prop := t.now = s.now ∧ t.felt.routesAt = s.felt.routesAt

theorem SameTimes.refl (s : State) : SameTimes s s := ⟨rfl, rfl⟩

theorem SameTimes.trans {s t u : State} (h : SameTimes s t) (k : SameTimes t u) : SameTimes s u :=
  ⟨k.1.trans h.1, k.2.trans h.2⟩

theorem sameTimes_foldl {α : Type} {f : State → α → State} (h : ∀ s a, SameTimes s (f s a)) (as : List α) (s : State) :
    SameTimes s (as.foldl f s) := by
  induction as generalizing s with
  | nil => exact .refl s
  | cons a as ih => exact (h s a).trans (ih _)

theorem Around.sameTimes {s t : State} (h : Around s t) : SameTimes s t := by
  obtain ⟨_, _, _, _, _, _, _, rfl⟩ := h
  exact .refl s

theorem Sends.sameTimes {s t : State} (h : Sends s t) : SameTimes s t := by
  obtain ⟨⟨_, _, _, _, _, rfl⟩, -⟩ := h
  exact .refl s

theorem sameTimes_finish (s : State) (q : Req) (st r0 r1 : Nat) : SameTimes s (s.finish q st r0 r1) := by
  obtain ⟨_, _, _, _, _, _, _, _, h, -, -⟩ := s.finish_shape q st r0 r1
  rw [h]
  exact .refl s

theorem sends_announce (s : State) : Sends s s.announce := sends_flood ..

theorem sends_sendLeave (s : State) (p : Nat) (moved : Bool) : Sends s (s.sendLeave p moved) := by
  unfold State.sendLeave
  split
  · exact .refl s
  · exact sends_foldl (fun s m => sends_sendControl ..) _ s

theorem sameTimes_dropJoins (s : State) (p : Nat) : SameTimes s (s.dropJoins p) := .refl s

theorem sameTimes_dissolve (s : State) (p : Nat) (addr : BitVec 16) (reason : Nat) : SameTimes s (s.dissolve p addr reason) := by
  unfold State.dissolve
  split
  · exact .refl s
  · exact ((told_modPtn ..).around.sameTimes.trans (sameTimes_dropJoins ..)).trans (told_event ..).around.sameTimes

theorem sameTimes_endPuts (s : State) (p : Nat) (addr : BitVec 16) : SameTimes s (s.endPuts p addr) := by
  refine SameTimes.trans (t := s.modFelt fun f => { f with unacked := f.unacked.filter fun u => !(u.spart.toNat == p && u.dst == addr) })
    (.refl s) (sameTimes_foldl (fun st q => ?_) _ _)
  split
  · split
    · exact sameTimes_finish ..
    · exact .refl st
  · exact .refl st

theorem sameTimes_endFences (s : State) (owed : List Req) : SameTimes s (s.endFences owed) :=
  sameTimes_foldl (fun s q => sameTimes_finish ..) _ s

theorem sameTimes_loseMember (s : State) (p : Nat) (addr : BitVec 16) : SameTimes s (s.loseMember p addr) :=
  (((sameTimes_endPuts ..).trans (sameTimes_dissolve ..)).trans (sameTimes_endFences ..)).trans (around_raiseFault ..).sameTimes

theorem sameTimes_addressMoved (s : State) : SameTimes s s.addressMoved := by
  refine sameTimes_foldl (fun st p => ?_) _ s
  split
  · exact ((sends_sendLeave ..).sameTimes.trans (around_endGroupRun ..).sameTimes).trans (sameTimes_dissolve ..)
  · exact .refl st

theorem sameTimes_settleAddress (s : State) : SameTimes s s.settleAddress := by
  unfold State.settleAddress
  dsimp only
  split
  · exact (sameTimes_addressMoved s).trans (SameTimes.trans (by exact .refl _) (sends_announce _).sameTimes)
  · exact .refl s

theorem sameTimes_elect (s : State) : SameTimes s s.elect := by
  unfold State.elect
  dsimp only
  split <;> exact .refl s

theorem sameTimes_settleAnchor (s : State) : SameTimes s s.settleAnchor := by
  unfold State.settleAnchor
  dsimp only
  split
  · exact sameTimes_elect s
  · exact (sameTimes_elect s).trans (sends_announce _).sameTimes

/-! ### Recomputed routes -/

/-- The device when its routes have been recomputed: its anchor and address settled, the routes in force, and the change
of routes noted (13 R333). -/
def rerouted (s : State) : State :=
  let t := s.settleAnchor.installRoutes.settleAddress
  t.modFelt fun f => { f with
    assigned := f.assigned.filter fun y => t.reachable.contains y.1
    merging := false
    routesAt := some t.now
    keptBy := f.anchorSn }

/-- A partition loses the first member of its group that the routes no longer reach (13 R347). -/
def loseUnreached (st : State) (p : Nat) : State :=
  match st.group? p with
  | none => st
  | some g =>
    match g.others.find? fun m => !st.reaches m.1 with
    | some m => st.loseMember p m.1
    | none => st

/-- The trees that are left: a device that has received all leaves its own (13 R346). -/
def leaveTrees (s : State) : State :=
  s.modFelt fun f => { f with trees := (f.trees.map fun t => { t with leaf := t.leaf && s.receives t }).filter fun t =>
    t.leaf || !t.branches.isEmpty }

/-- A receiver of a tree sends its join again. -/
def rejoin (st : State) (t : Tree) : State :=
  if !t.leaf || st.felt.addr == some t.reader then st
  else st.send ⟨t.reader, st.felt.addr.getD 0, 0, 0, 0, 9, none, .treeJoin t.reader t.group, none⟩

/-- The device with its new routes, before the frames that waited for a route leave. -/
def routed (s : State) : State :=
  let t := leaveTrees ((rerouted s).ptnNos.foldl loseUnreached (rerouted s))
  t.felt.trees.foldl rejoin t

theorem routeInstall_routed {s : State} (h : s.restarting linkerIsland = false) : routeInstallEffect s = (routed s).flush := by
  rw [routeInstallEffect, if_neg (Bool.eq_false_iff.mp h)]
  rfl

theorem sameTimes_installRoutes (s : State) : SameTimes s s.installRoutes := .refl s

theorem routesAt_rerouted (s : State) : (rerouted s).felt.routesAt = some s.now := by
  have h := ((sameTimes_settleAnchor s).trans (sameTimes_installRoutes _)).trans (sameTimes_settleAddress _)
  exact congrArg some h.1

theorem sameTimes_loseUnreached (s : State) (p : Nat) : SameTimes s (loseUnreached s p) := by
  unfold loseUnreached
  split
  · exact .refl s
  · split
    · exact sameTimes_loseMember ..
    · exact .refl s

theorem sends_rejoin (s : State) (t : Tree) : Sends s (rejoin s t) := by
  unfold rejoin
  split
  · exact .refl s
  · exact sends_send ..

theorem sameTimes_leaveTrees (s : State) : SameTimes s (leaveTrees s) := .refl s

theorem routesAt_routed (s : State) : (routed s).felt.routesAt = some s.now :=
  (((sameTimes_foldl sameTimes_loseUnreached _ _).trans (sameTimes_leaveTrees _)).trans
    (sends_foldl sends_rejoin _ _).sameTimes).2.trans (routesAt_rerouted s)

/-- The state t is s with the fabric's state, whose trees are kept, and the number of the next free value. -/
def FabricOnly (s t : State) : Prop := ∃ f n, t = { s with felt := f, free := n } ∧ f.trees = s.felt.trees

theorem FabricOnly.trans {s t u : State} (h : FabricOnly s t) (k : FabricOnly t u) : FabricOnly s u := by
  obtain ⟨_, _, rfl, ht⟩ := h
  obtain ⟨f, n, rfl, ku⟩ := k
  exact ⟨f, n, rfl, ku.trans ht⟩

theorem Sends.fabricOnly {s t : State} (h : Sends s t) : FabricOnly s t := by
  obtain ⟨⟨ps, se, un, wa, ow, rfl⟩, -⟩ := h
  exact ⟨_, s.free, rfl, rfl⟩

theorem fabricOnly_modFelt (s : State) {f : Felt → Felt} (h : (f s.felt).trees = s.felt.trees) : FabricOnly s (s.modFelt f) :=
  ⟨_, s.free, rfl, h⟩

theorem fabricOnly_settleAnchor (s : State) : FabricOnly s s.settleAnchor := by
  have helect : FabricOnly s s.elect := by
    unfold State.elect
    dsimp only
    split <;> exact fabricOnly_modFelt s rfl
  unfold State.settleAnchor
  dsimp only
  split
  · exact helect
  · exact helect.trans (sends_announce _).fabricOnly

theorem fabricOnly_installRoutes (s : State) : FabricOnly s s.installRoutes := ⟨_, s.free + 1, rfl, rfl⟩

theorem fabricOnly_settleAddress {s : State} (h : s.ptnNos = []) : FabricOnly s s.settleAddress := by
  unfold State.settleAddress State.addressMoved
  rw [h]
  dsimp only [List.foldl_nil]
  split
  · exact (fabricOnly_modFelt s rfl).trans (sends_announce _).fabricOnly
  · exact fabricOnly_modFelt s (f := id) rfl

theorem FabricOnly.ptnNos {s t : State} (h : FabricOnly s t) : t.ptnNos = s.ptnNos := by
  obtain ⟨_, _, rfl, -⟩ := h
  rfl

/-- With no partition and no tree, the new routes change the fabric alone. -/
theorem routed_bare {s : State} (hp : s.ptnNos = []) (ht : s.felt.trees = []) :
    (routed s).felt.merging = false ∧ (routed s).felt.keptBy = (routed s).felt.anchorSn ∧ (routed s).tier1 = s.tier1 := by
  have hroutes := (fabricOnly_settleAnchor s).trans (fabricOnly_installRoutes _)
  have hsettled := hroutes.trans (fabricOnly_settleAddress (hroutes.ptnNos.trans hp))
  have hno : (rerouted s).ptnNos = [] := hsettled.ptnNos.trans hp
  have htrees : (leaveTrees (rerouted s)).felt.trees = [] := by
    obtain ⟨f, n, h, hf⟩ := hsettled
    have : (rerouted s).felt.trees = [] := by
      rw [rerouted, h]
      exact hf.trans ht
    simp [leaveTrees, State.modFelt, this]
  have hrouted : routed s = leaveTrees (rerouted s) := by
    rw [routed, hno, List.foldl_nil, htrees, List.foldl_nil]
  rw [hrouted]
  refine ⟨rfl, rfl, ?_⟩
  obtain ⟨f, n, h, -⟩ := hsettled
  show (s.settleAnchor.installRoutes.settleAddress).tier1 = s.tier1
  rw [h]

theorem routeInstall_row {s : State} (h : s.restarting linkerIsland = false) :
    ∃ t : State, exec .routeInstall s = .next t.flush ∧ t.felt.routesAt = some s.now ∧
      (s.ptnNos = [] → s.felt.trees = [] → t.felt.merging = false ∧ t.felt.keptBy = t.felt.anchorSn ∧ t.tier1 = s.tier1) :=
  ⟨routed s, exec_effect rfl (routeInstall_routed h), routesAt_routed s, routed_bare⟩

/-! ### Trees -/

theorem opened_payload (x : Port) (f : Frame) : ∃ bs, x.opened f = { f with payload := bs } := by
  unfold Port.opened
  split
  · exact ⟨_, rfl⟩
  · exact ⟨_, rfl⟩

theorem modifyIf_find? {α : Type} {p : α → Bool} {f : α → α} (hf : ∀ y, p y = true → p (f y) = true) (xs : List α) :
    (Lists.modifyIf p f xs).find? p = (xs.find? p).map f := by
  induction xs with
  | nil => rfl
  | cons x xs ih =>
    unfold Lists.modifyIf at ih ⊢
    rw [List.map_cons]
    by_cases h : p x = true
    · rw [if_pos h, List.find?_cons_of_pos (hf x h), List.find?_cons_of_pos h]
      rfl
    · rw [if_neg h, List.find?_cons_of_neg h, List.find?_cons_of_neg h, ih]

theorem addBranch_new {t : State} {reader group : BitVec 16} (h : t.tree? reader group = none) (hn : t.felt.trees.length < 256) (k : Fin 8) :
    t.addBranch reader group k = (t.modFelt fun x =>
      { x with trees := x.trees ++ [{ reader := reader, group := group, branches := [(k.val, t.now)] }] }, true) := by
  rw [State.addBranch, h]
  exact if_neg (by omega)

theorem addBranch_full {t : State} {reader group : BitVec 16} (h : t.tree? reader group = none) (hn : 256 ≤ t.felt.trees.length) (k : Fin 8) :
    t.addBranch reader group k = (t, false) := by
  rw [State.addBranch, h]
  exact if_pos hn

theorem addBranch_known {t : State} {reader group : BitVec 16} {y : Tree} (h : t.tree? reader group = some y) (k : Fin 8) :
    (t.addBranch reader group k).2 = true ∧ (t.addBranch reader group k).1.tree? reader group =
      some { y with branches := (y.branches.filter fun b => b.1 != k.val) ++ [(k.val, t.now)] } := by
  rw [State.addBranch, h]
  refine ⟨rfl, ?_⟩
  dsimp only [State.tree?, State.modFelt] at h ⊢
  refine (modifyIf_find? ?_ _).trans (by rw [h]; rfl)
  exact fun _ hy => hy

theorem addBranch_addr (t : State) (reader group : BitVec 16) (k : Fin 8) : (t.addBranch reader group k).1.felt.addr = t.felt.addr := by
  unfold State.addBranch
  split
  · rfl
  · split <;> rfl

/-- What a join that is received does, by what the tree's table answers (13 R346). -/
def joined (reader group : BitVec 16) (f : Frame) : State × Bool → State
  | (u, false) => u
  | (u, true) => if u.felt.addr == some reader then u.feltWake else u.forward { f with dst := reader } (.treeJoin reader group)

theorem treeJoin_joined {s t : State} {k : Fin 8} {f : Frame} (hp : (s.port k).phase = .up) (hr : s.receive k f = (t, true))
    (reader group : BitVec 16) :
    exec (.treeJoin k f reader group) s = .next (joined reader group f (t.addBranch reader group k)) := by
  obtain ⟨bs, hbs⟩ := opened_payload (s.port k) f
  refine ((exec_phase rfl).2.2 t hp hr).trans (congrArg _ ?_)
  rw [hbs]
  rcases t.addBranch reader group k with ⟨u, _ | _⟩ <;> rfl

/-! ### Addresses -/

theorem addressAssign_idle {s : State} {sn : BitVec 64} {a : BitVec 16}
    (h : ¬ (if s.felt.anchorSn = Config.serial then s.addressFor sn = some a.toNat
      else s.felt.anchorSn ≠ 0 ∧ (sn, a) ∉ s.felt.assigned)) : addressAssignEffect sn a s = s := by
  rw [addressAssignEffect]
  refine if_pos ?_
  split at h
  next ha => simp [ha, h]
  next ha =>
    have hno : (s.felt.anchorSn == 0 || s.felt.assigned.contains (sn, a)) = true := by
      by_contra hc
      exact h (by simpa using hc)
    rw [hno]
    simp [ha]

theorem addressAssign_due {s : State} {sn : BitVec 64} {a : BitVec 16}
    (h : if s.felt.anchorSn = Config.serial then s.addressFor sn = some a.toNat
      else s.felt.anchorSn ≠ 0 ∧ (sn, a) ∉ s.felt.assigned) :
    ((s.felt.anchorSn == Config.serial && s.addressFor sn != some a.toNat) ||
      (!(s.felt.anchorSn == Config.serial) && (s.felt.anchorSn == 0 || s.felt.assigned.contains (sn, a)))) = false := by
  split at h
  next ha => simp [ha, h]
  next ha => simpa [ha] using h

/-- The fabric with another device's new link state kept, before the anchor is settled (13 R327). -/
def stateKept (ls : LinkState) (s : State) : State :=
  let had := s.felt.states.any fun y => y.serial == ls.serial && y.addr.isSome
  let t := s.modFelt fun x => { x with
    states := (x.states.filter fun y => y.serial != ls.serial) ++ [ls]
    assigned := match ls.addr with
      | some a => (x.assigned.filter fun y => y.1 != ls.serial) ++ [(ls.serial, a)]
      | none => if had then x.assigned.filter fun y => y.1 != ls.serial else x.assigned }
  t.modFelt fun x => { x with merging := x.merging || t.reachable.any fun x => !s.reachable.contains x }

theorem stateKept_states (ls : LinkState) (s : State) :
    (stateKept ls s).felt.states = (s.felt.states.filter fun y => y.serial != ls.serial) ++ [ls] := rfl

theorem stateKept_addr (ls : LinkState) (s : State) : (stateKept ls s).felt.addr = s.felt.addr := rfl

theorem stateKept_ports (ls : LinkState) (s : State) : (stateKept ls s).felt.ports = s.felt.ports := rfl

theorem stateKept_merging {ls : LinkState} {s : State} (h : s.felt.merging = true) : (stateKept ls s).felt.merging = true :=
  Bool.or_eq_true_iff.mpr (.inl h)

theorem stateKept_assigned {ls : LinkState} {a : BitVec 16} (h : ls.addr = some a) (s : State) :
    (ls.serial, a) ∈ (stateKept ls s).felt.assigned := by
  dsimp only [stateKept, State.modFelt]
  rw [h]
  exact List.mem_append_right _ (List.mem_singleton_self _)

theorem linkState_new {s t : State} {k : Fin 8} {f : Frame} {ls : LinkState} (hp : (s.port k).phase = .up)
    (hr : s.receive k f = (t, true)) (hs : ls.serial ≠ Config.serial) (hl : ls ∉ t.felt.states) :
    exec (.linkStateFrame k f ls) s =
      .next ((stateKept ls t).settleAnchor.keepAddress.flood (some k) (.linkState ls)).settleAddress :=
  ((exec_phase rfl).2.2 t hp hr).trans (congrArg _ (if_neg (by simp [hs, hl])))

/-- An assignment of an address noted (13 R326). -/
def assignmentNoted (sn : BitVec 64) (a : BitVec 16) (s : State) : State :=
  s.modFelt fun x => { x with assigned := (x.assigned.filter fun y => y.1 != sn) ++ [(sn, a)] }

theorem addressAssign_other {s : State} {sn : BitVec 64} {a : BitVec 16}
    (hd : if s.felt.anchorSn = Config.serial then s.addressFor sn = some a.toNat
      else s.felt.anchorSn ≠ 0 ∧ (sn, a) ∉ s.felt.assigned) (hn : sn ≠ Config.serial) :
    addressAssignEffect sn a s = (assignmentNoted sn a s).flood none (.assign sn a) := by
  rw [addressAssignEffect]
  refine (if_neg (Bool.eq_false_iff.mp (addressAssign_due hd))).trans ?_
  dsimp only
  rw [if_neg hn, if_neg (by simp [hn])]
  simp only [if_neg hn]
  rfl

theorem addressAssign_own {s : State} {a : BitVec 16}
    (hd : if s.felt.anchorSn = Config.serial then s.addressFor Config.serial = some a.toNat
      else s.felt.anchorSn ≠ 0 ∧ (Config.serial, a) ∉ s.felt.assigned) :
    addressAssignEffect Config.serial a s =
      ((((assignmentNoted Config.serial a (if s.felt.addr.isSome ∧ s.felt.addr ≠ some a then s.addressMoved else s)).modFelt fun x =>
        { x with addr := some a, keptBy := x.anchorSn }).flood none (.assign Config.serial a)).announce).flush := by
  rw [addressAssignEffect]
  refine (if_neg (Bool.eq_false_iff.mp (addressAssign_due hd))).trans ?_
  dsimp only
  rw [if_pos rfl]
  simp only [if_true, beq_self_eq_true, Bool.true_and, Bool.and_eq_true, bne_iff_ne]
  rfl

/-- A branch of a tree that its change of routes still allows (13 R346). -/
def branchKept (s : State) (k : Fin 8) (b : Nat × Nat) : Bool :=
  b.1 != k.val || s.felt.routesAt.all fun t => t ≤ b.2 || s.now < t + 5000

theorem branchKept_recent {s : State} {k : Fin 8} {b : Nat × Nat} {r : Nat} (h : branchKept s k b = true) (hk : b.1 = k.val)
    (hr : s.felt.routesAt = some r) : r ≤ b.2 ∨ s.now < r + 5000 := by
  simpa [branchKept, hk, hr] using h

/-- The trees with the overdue branches of one of them taken out. -/
def pruned (s : State) (reader group : BitVec 16) (k : Fin 8) : List Tree :=
  (s.felt.trees.map fun t => if t.reader = reader ∧ t.group = group then { t with branches := t.branches.filter (branchKept s k) } else t).filter
    fun t => t.leaf || !t.branches.isEmpty

theorem branchPrune_pruned (s : State) (reader group : BitVec 16) (k : Fin 8) :
    exec (.branchPrune reader group k) s = .next { s with felt := { s.felt with trees := pruned s reader group k } } := rfl

theorem pruned_kept {s : State} {reader group : BitVec 16} {k : Fin 8} {t : Tree} (h : t ∈ pruned s reader group k)
    (hr : t.reader = reader) (hg : t.group = group) {b : Nat × Nat} (hb : b ∈ t.branches) : branchKept s k b = true := by
  obtain ⟨y, -, rfl⟩ := List.mem_map.mp (List.mem_filter.mp h).1
  by_cases hy : y.reader = reader ∧ y.group = group
  · rw [if_pos hy] at hb
    exact (List.mem_filter.mp hb).2
  · rw [if_neg hy] at hr hg
    exact absurd ⟨hr, hg⟩ hy

theorem mem_pruned {s : State} {reader group : BitVec 16} {t : Tree} (h : t ∈ s.felt.trees) (hn : t.reader ≠ reader ∨ t.group ≠ group)
    (hl : t.leaf = true ∨ t.branches ≠ []) (k : Fin 8) : t ∈ pruned s reader group k := by
  refine List.mem_filter.mpr ⟨List.mem_map.mpr ⟨t, h, if_neg ?_⟩, by simpa using hl⟩
  rintro ⟨hr, hg⟩
  exact hn.elim (absurd hr) (absurd hg)

theorem fabAnchor_claims {s : State} {q : Req} {host : BitVec 64} {n : BitVec 17} (h : Runnable (.fabAnchor q true host n) q s) :
    exec (.fabAnchor q true host n) s = .next
      (if ((s.start q).felt.states.any fun l => l.claimed && l.serial != Config.serial && (s.start q).reachable.contains l.serial) = true then
        (s.start q).finish q stInUse 0 0
      else match readPlan ((s.start q).readHostOf q host (16 * n.toNat)) n.toNat with
        | none => (s.start q).finish q stBadField 0 0
        | some plan => ((((s.start q).modFelt fun f =>
          { f with claimed := true, anchorSn := Config.serial, plan := plan }).keepAddress.announce).finish q stOk 0 0)) := by
  have hbody : fabAnchorBody true host n (s.start q) q = (if ((s.start q).felt.states.any fun l =>
      l.claimed && l.serial != Config.serial && (s.start q).reachable.contains l.serial) = true then .status (s.start q) stInUse
    else match readPlan ((s.start q).readHostOf q host (16 * n.toNat)) n.toNat with
      | none => .status (s.start q) stBadField
      | some plan => .status (((s.start q).modFelt fun f =>
          { f with claimed := true, anchorSn := Config.serial, plan := plan }).keepAddress.announce) stOk) := rfl
  by_cases hc : ((s.start q).felt.states.any fun l => l.claimed && l.serial != Config.serial && (s.start q).reachable.contains l.serial) = true
  · rw [if_pos hc] at hbody ⊢
    exact exec_status rfl h hbody
  · rw [if_neg hc] at hbody ⊢
    cases hp : readPlan ((s.start q).readHostOf q host (16 * n.toNat)) n.toNat with
    | none =>
      rw [hp] at hbody
      exact exec_status rfl h hbody
    | some plan =>
      rw [hp] at hbody
      exact exec_status rfl h hbody

theorem fabQuery_kind {kind : BitVec 2} (h : 2 ≤ kind.toNat) : kind ≠ 0 ∧ kind ≠ 1 := by
  constructor <;> rintro rfl <;> exact absurd h (by decide)

/-- Settles O41: the fabric, row by row. -/
theorem feltFabric : Obligations.FeltFabric := by
  unfold Obligations.FeltFabric
  refine ⟨fun s k hop ch n => ⟨fun hp => exec_effect rfl (if_neg (by simp [hp])), fun hp => exec_effect rfl (onPhase_other hp _)⟩,
    fun s t k f ls hp hr => ⟨fun h => ((exec_phase rfl).2.2 t hp hr).trans (congrArg _ (if_pos (by simpa using h))), fun hs hl =>
      ⟨stateKept ls t, linkState_new hp hr hs hl, stateKept_states .., stateKept_addr .., stateKept_ports .., stateKept_merging,
        fun a ha => stateKept_assigned ha t⟩⟩,
    fun s sn a => ⟨fun hd => exec_effect rfl (addressAssign_idle hd), fun hd hn => exec_effect rfl (addressAssign_other hd hn),
      fun hd hs => ?_⟩,
    fun s h => exec_effect rfl (show routeInstallEffect s = _ from if_pos h), fun s h => routeInstall_row h,
    fun t reader group k => ⟨fun h hn => addBranch_new h hn k, fun h hn => addBranch_full h hn k, fun y h => addBranch_known h k⟩,
    fun s t k f reader group hp hr => ?_, fun s reader group k => ⟨_, branchPrune_pruned s reader group k, rfl,
      fun t ht hr hg b hb hk r hra => branchKept_recent (pruned_kept ht hr hg hb) hk hra, fun t ht hn hl => mem_pruned ht hn hl k⟩,
    fun s q host n => ⟨fabAnchor_claims, fun h => ⟨fun hc => exec_status rfl h (if_pos hc), fun hc =>
      exec_status rfl h (if_neg (Bool.eq_false_iff.mp hc))⟩⟩,
    fun s q kind port h => ?_, fun s q port h => ?_⟩
  · subst hs
    exact exec_effect rfl (addressAssign_own hd)
  · intro u
    rw [treeJoin_joined hp hr]
    have haddr := addBranch_addr t reader group k
    refine ⟨fun hb => ?_, fun hb h => ?_, fun hb h => ?_⟩
    all_goals rw [show t.addBranch reader group k = (u, (t.addBranch reader group k).2) from rfl, hb]
    · rfl
    · exact congrArg _ (if_pos (by simpa [u, haddr] using h))
    · exact congrArg _ (if_neg (by simpa [u, haddr] using h))
  · intro u
    refine ⟨fun hk => exec_done rfl h (if_pos hk), fun hk => exec_done rfl h ?_, fun c hk hc => exec_done rfl h ?_,
      fun n hk hn => exec_status rfl h ?_⟩
    · subst hk; rfl
    · obtain ⟨h0, h1⟩ := fabQuery_kind hk
      rw [fabQueryBody, if_neg h0, if_neg h1, hc]
      rfl
    · obtain ⟨h0, h1⟩ := fabQuery_kind hk
      rw [fabQueryBody, if_neg h0, if_neg h1, hn]
      rfl
  · intro ks
    refine ⟨fun hr => exec_waits rfl h (if_pos hr), fun hr => ⟨fun hk => exec_status rfl h ?_, fun hk => exec_status rfl h ?_⟩⟩
    · exact (if_neg (Bool.eq_false_iff.mp hr)).trans (if_neg (by simpa [ks] using hk))
    · exact (if_neg (Bool.eq_false_iff.mp hr)).trans (if_pos (by simpa [ks] using hk))

end Sys2Proof.Machine
end

section
/-! SUPPORT. Data streams over Felt and FAB.PUT (13 R331, R334, R340, R350). -/

namespace Sys2Proof.Machine

/-! ### Acknowledgements -/

/-- The state t awaits no acknowledgement that s does not await. -/
def Forgets (s t : State) : Prop := ∀ x ∈ t.felt.unacked, x ∈ s.felt.unacked

theorem Forgets.refl (s : State) : Forgets s s := fun _ h => h

theorem Forgets.trans {s t u : State} (h : Forgets s t) (k : Forgets t u) : Forgets s u := fun x hx => h x (k x hx)

theorem Around.forgets {s t : State} (h : Around s t) : Forgets s t := by
  obtain ⟨_, _, _, _, _, _, _, rfl⟩ := h
  exact .refl s

theorem forgets_finish (s : State) (q : Req) (st r0 r1 : Nat) : Forgets s (s.finish q st r0 r1) := by
  obtain ⟨_, _, _, _, _, _, _, _, h, -, -⟩ := s.finish_shape q st r0 r1
  rw [h]
  exact .refl s

/-- Whether two frames are copies of the same frame of a stream. -/
def Unacked.copyOf (u x : Unacked) : Bool := x.spart == u.spart && x.dst == u.dst && x.dpart == u.dpart && x.seq == u.seq

/-- The frames of a stream let go. -/
def State.letGo (s : State) (p : Unacked → Bool) : State := s.modFelt fun f => { f with unacked := f.unacked.filter fun x => !p x }

theorem forgets_letGo (s : State) (p : Unacked → Bool) : Forgets s (s.letGo p) := fun _ h => (List.mem_filter.mp h).1

theorem takeAck_letGo (s : State) (beyond : Bool) (u : Unacked) : Forgets (s.letGo u.copyOf) (s.takeAck beyond u) := by
  unfold State.takeAck
  dsimp only
  split
  · split
    · split
      · refine Forgets.trans ?_ (around_raiseFault ..).forgets
        split <;> exact .refl _
      · split <;> exact .refl _
    · split <;> exact .refl _
  · split
    · exact fun x hx => (List.mem_filter.mp (forgets_finish _ _ _ _ _ x hx)).1
    · split
      · exact .refl _
      · exact forgets_finish _ _ _ _ _
  · exact .refl _

theorem takeAck_forgets (s : State) (beyond : Bool) (u : Unacked) : Forgets s (s.takeAck beyond u) :=
  (forgets_letGo s u.copyOf).trans (takeAck_letGo s beyond u)

theorem not_copyOf_takeAck {s : State} {beyond : Bool} {u x : Unacked} (h : x ∈ (s.takeAck beyond u).felt.unacked) :
    u.copyOf x = false := by
  simpa using (List.mem_filter.mp (takeAck_letGo s beyond u x h)).2

theorem takeAck_fold {beyond : Bool} {us : List Unacked} {s : State} {x : Unacked}
    (h : x ∈ (us.foldl (fun st u => st.takeAck beyond u) s).felt.unacked) :
    x ∈ s.felt.unacked ∧ ∀ u ∈ us, u.copyOf x = false := by
  induction us generalizing s with
  | nil => exact ⟨h, by simp⟩
  | cons u us ih =>
    obtain ⟨hx, hus⟩ := ih h
    refine ⟨takeAck_forgets s beyond u x hx, fun v hv => ?_⟩
    rcases List.mem_cons.mp hv with rfl | hv
    · exact not_copyOf_takeAck hx
    · exact hus v hv

theorem feltWake_felt (s : State) : s.feltWake.felt = s.felt := by
  unfold State.feltWake
  split
  next h =>
    unfold State.wake
    rw [h]
    rfl
  · rfl

/-- A frame that an acknowledgement names is let go (13 R332). -/
theorem takeAcks_letGo {s : State} {f : Frame} {first n : BitVec 32} {beyond : Bool} {x : Unacked}
    (h : x ∈ (s.takeAcks f first n beyond).felt.unacked) (hp : x.spart = f.dpart) (hd : x.dst = f.src) (hq : x.dpart = f.spart) :
    n.toNat ≤ (x.seq - first).toNat := by
  obtain ⟨hx, hno⟩ := takeAck_fold h
  rw [feltWake_felt] at hx
  by_contra hlt
  have hself := hno x (List.mem_filter.mpr ⟨hx, by simpa [hp, hd, hq, -BitVec.toNat_sub] using Nat.not_le.mp hlt⟩)
  simp [Unacked.copyOf] at hself

/-! ### Frames taken -/

theorem takeData_foreign {s : State} {f : Frame} (h : ¬ (s.feltWake.groupTakes f = true ∨ s.feltWake.sessionTakes f = true)) :
    s.takeData f = s.feltWake.modFelt fun x => { x with foreignDrops := x.foreignDrops + 1 } := by
  rw [State.takeData]
  exact if_pos (by simpa using h)

theorem takeData_mine {s : State} {f : Frame} (h : s.feltWake.groupTakes f = true ∨ s.feltWake.sessionTakes f = true) :
    s.takeData f = (if f.seq = Table.get Config.firstSeq s.feltWake.felt.rxSeq (rxKey f) then
        (s.feltWake.deliver f).deliverHeld (rxKey f) (s.feltWake.deliver f).felt.rxHeld.length
      else if (f.seq - Table.get Config.firstSeq s.feltWake.felt.rxSeq (rxKey f)).toNat < 2 ^ 31 then
        if (s.feltWake.felt.rxHeld.any fun y => rxKey y == rxKey f && y.seq == f.seq) = true then s.feltWake
        else s.feltWake.modFelt fun x => { x with rxHeld := x.rxHeld ++ [f] }
      else s.feltWake.sendControl f.dpart.toNat f.src f.spart (.ack f.seq 1 (s.feltWake.runsBeyond f))) := by
  rw [State.takeData]
  exact if_neg (by simpa [or_iff_not_imp_left] using h)

theorem writeReceived_none {s : State} {p : Nat} (h : s.receiveObj p = none) (off : Nat) (bs : List Byte) :
    s.writeReceived p off bs = (s, false) := by
  rw [State.writeReceived, h]

theorem writeReceived_some {s : State} {p : Nat} {o : Obj} (h : s.receiveObj p = some o) (off : Nat) (bs : List Byte) :
    s.writeReceived p off bs = (if o.broken.isSome = true then (s.nodeFault o, true)
      else if o.desc.kind = kindWeights then (s, true)
      else if o.size < off + bs.length then (s.modFelt fun f => { f with beyondDrops := f.beyondDrops + 1 }, false)
      else ((s.writeObj o off bs).count (mgmt p) 24 bs.length, true)) := by
  rw [State.writeReceived, h]

/-! ### Frames sent again -/

theorem frameResend_none {s : State} {part : Fin 8} {dst : BitVec 16} {dpart : BitVec 3} {sq : BitVec 32}
    (h : (s.felt.unacked.find? fun u => u.spart.toNat == part.val && u.dst == dst && u.dpart == dpart && u.seq == sq) = none) :
    frameResendTimerEffect part dst dpart sq s = s := by
  rw [frameResendTimerEffect, h]

theorem frameResend_some {s : State} {part : Fin 8} {dst : BitVec 16} {dpart : BitVec 3} {sq : BitVec 32} {u : Unacked}
    (h : (s.felt.unacked.find? fun u => u.spart.toNat == part.val && u.dst == dst && u.dpart == dpart && u.seq == sq) = some u) :
    frameResendTimerEffect part dst dpart sq s = if u.sentAt + 20 ≤ s.now then s.resend u else s := by
  rw [frameResendTimerEffect, h]

/-! ### FAB.PUT -/

section
variable {s : State} {q : Req} {c : CtxNo} {src so : BitVec 42} {m : BitVec 8} {off : BitVec 48} {n : BitVec 32} {o : Obj}

theorem fabPutBody_noMember (hn : n ≠ 0) (hq : q.ring = .ctx c) (ho : s.obj? c src = some o) (hb : o.broken = none)
    (h : ∀ g, s.group? (ptnOf o.ctx) = some g → g.state ≠ 2 ∨ g.members[m.toNat]? = none) :
    fabPutBody src so m off n s q = .status s stNoObject := by
  rw [fabPutBody, if_neg hn]
  refine (withObj_some _ hq ho hb).trans ?_
  cases hg : (s.group? (ptnOf o.ctx)).filter fun g => g.state == 2 with
  | none => simp only [hg]
  | some g =>
    obtain ⟨hgs, h2⟩ := Option.filter_eq_some_iff.mp hg
    have hm := (h g hgs).resolve_left (not_not_intro (by simpa using h2))
    simp only [hg, hm]

/-- What FAB.PUT of bytes of an object does towards a member of its group (13 R340, R350). -/
def putTo (s : State) (q : Req) (so : BitVec 42) (m : BitVec 8) (off : BitVec 48) (n : BitVec 32) (o : Obj) (g : Group)
    (w : BitVec 16 × BitVec 3) : Ran :=
  let bs := s.readObj o so.toNat n.toNat
  let u := (s.countTiers o so.toNat n.toNat false).count o.ctx 23 n.toNat
  if (u.felt.addr == some w.1 && m.toNat != g.index && (u.receiveObj w.2.toNat).any fun r => r.size < off.toNat + n.toNat) = true then
    .status (u.modFelt fun f => { f with beyondDrops := f.beyondDrops + 1 }) stBadField
  else if m.toNat = g.index then
    if (u.writeReceived (ptnOf o.ctx) off.toNat bs).2 = true then .status (u.writeReceived (ptnOf o.ctx) off.toNat bs).1 stOk
    else .status (u.writeReceived (ptnOf o.ctx) off.toNat bs).1 stBadField
  else .goesOn ((frameCuts (n.toNat / 4096 + 1) off.toNat bs).foldl (fun st (a, b) =>
    st.sendData (ptnOf o.ctx) w.1 w.2 a b (some q) none) u)

theorem fabPutBody_member {g : Group} {w : BitVec 16 × BitVec 3} (hn : n ≠ 0) (hq : q.ring = .ctx c) (ho : s.obj? c src = some o)
    (hb : o.broken = none) (hg : s.group? (ptnOf o.ctx) = some g) (h2 : g.state = 2) (hm : g.members[m.toNat]? = some w) :
    fabPutBody src so m off n s q = if o.size < so.toNat + n.toNat then .status s stBadField
      else if (s.objPoison o so.toNat n.toNat).isSome = true then .status s stPoison else putTo s q so m off n o g w := by
  rw [fabPutBody, if_neg hn]
  refine (withObj_some _ hq ho hb).trans ?_
  have hf : (s.group? (ptnOf o.ctx)).filter (fun g => g.state == 2) = some g :=
    Option.filter_eq_some_iff.mpr ⟨hg, by simpa using h2⟩
  dsimp only
  rw [hf]
  dsimp only
  rw [hm]
  dsimp only
  unfold putTo
  congr 2
  dsimp only
  congr 1
  split
  · split
    next h => rw [h]; rfl
    next h => rw [h]; rfl
  · rfl

end

theorem around_foldl {α : Type} {f : State → α → State} (h : ∀ s a, Around s (f s a)) (as : List α) (s : State) :
    Around s (as.foldl f s) := by
  induction as generalizing s with
  | nil => exact .refl s
  | cons a as ih => exact (h s a).trans (ih _)

theorem around_countTiers (s : State) (o : Obj) (off n : Nat) (write : Bool) : Around s (s.countTiers o off n write) := by
  refine around_foldl (fun st a => ?_) _ s
  dsimp only
  split
  · exact around_modCtx ..
  · exact .refl st

theorem Around.addr {s t : State} (h : Around s t) : t.felt.addr = s.felt.addr := by
  obtain ⟨_, _, _, _, _, _, _, rfl⟩ := h
  rfl

/-- A row of a frame of data or of an acknowledgement on a port that is up, as a field of the frame says. -/
theorem opened_fields (x : Port) (f : Frame) : (x.opened f).type = f.type ∧ (x.opened f).dst = f.dst ∧ (x.opened f).seq = f.seq ∧
    (x.opened f).offset = f.offset ∧ (x.opened f).src = f.src ∧ (x.opened f).dpart = f.dpart ∧ (x.opened f).spart = f.spart ∧
    (x.opened f).hops = f.hops := by
  obtain ⟨bs, h⟩ := opened_payload x f
  rw [h]
  exact ⟨rfl, rfl, rfl, rfl, rfl, rfl, rfl, rfl⟩

/-- Settles O42: the rows of a stream, and FAB.PUT. -/
theorem feltStreams : Obligations.FeltStreams := by
  unfold Obligations.FeltStreams
  refine ⟨fun s t k f hp hr => ?_, fun s f => ?_, fun s p off bs => ⟨fun h => writeReceived_none h off bs, fun o ho => ?_⟩,
    fun s t k f first n beyond hp hr => ⟨fun ha => ?_, fun ha => ⟨t.takeAcks ((s.port k).opened f) first n beyond, ?_, ?_⟩⟩,
    fun s part dst dpart sq => ⟨fun h => exec_effect rfl (frameResend_none h), fun u hu => ?_⟩,
    fun s q src so m off h => exec_status rfl h (if_pos rfl), fun s q src so m off n h hn => ?_⟩
  · intro f'
    obtain ⟨ht, hd, hs, ho, -, -, -, hh⟩ := opened_fields (s.port k) f
    have hrow := (exec_phase (i := .dataFrame k f) rfl).2.2 t hp hr
    refine ⟨fun h1 => hrow.trans (congrArg _ (if_pos ?_)), fun h1 ha => hrow.trans (congrArg _ ((if_neg ?_).trans ((if_pos ?_).trans ?_))),
      fun h1 ha => hrow.trans (congrArg _ ((if_neg ?_).trans ((if_neg ?_).trans ?_)))⟩
    · simpa [ht] using h1
    · simpa [ht] using h1
    · simpa [hd] using ha
    · unfold frameBuffer
      rw [hs, ho, hh, (opened_fields (s.port k) f).2.2.2.2.2.2.1]
    · simpa [ht] using h1
    · simpa [hd] using ha
    · unfold frameBuffer
      rw [hh, (opened_fields (s.port k) f).2.2.2.2.2.2.1]
  · intro u want mine
    refine ⟨takeData_foreign, fun h hw => (takeData_mine h).trans (if_pos hw), fun h hw hl hno => (takeData_mine h).trans
      ((if_neg hw).trans ((if_pos hl).trans (if_neg ?_))), fun h hw hl hy => (takeData_mine h).trans
      ((if_neg hw).trans ((if_pos hl).trans (if_pos ?_))), fun h hl => (takeData_mine h).trans ((if_neg ?_).trans (if_neg (Nat.not_lt.mpr hl)))⟩
    · simpa using hno
    · simpa using hy
    · intro hw
      rw [show f.seq - want = 0 by rw [hw]; exact BitVec.sub_self _] at hl
      exact absurd hl (by decide)
  · rw [writeReceived_some ho]
    refine ⟨fun hb => if_pos (by simpa [Option.isSome_iff_ne_none] using hb), fun hb hk => (if_neg (by simp [hb])).trans (if_pos hk),
      fun hb hk hl => (if_neg (by simp [hb])).trans ((if_neg hk).trans (if_neg (by omega))),
      fun hb hk hl => (if_neg (by simp [hb])).trans ((if_neg hk).trans (if_pos hl))⟩
  · obtain ⟨-, hd, -⟩ := opened_fields (s.port k) f
    refine ((exec_phase rfl).2.2 t hp hr).trans (congrArg _ ((if_pos ?_).trans ?_))
    · simpa [hd] using ha
    · obtain ⟨bs, hbs⟩ := opened_payload (s.port k) f
      rw [hbs]
      rfl
  · obtain ⟨-, hd, -⟩ := opened_fields (s.port k) f
    exact ((exec_phase rfl).2.2 t hp hr).trans (congrArg _ (if_neg (by simpa [hd] using ha)))
  · obtain ⟨-, -, -, -, hsrc, hdp, hsp, -⟩ := opened_fields (s.port k) f
    exact fun x hx h1 h2 h3 => takeAcks_letGo hx (h1.trans hdp.symm) (h2.trans hsrc.symm) (h3.trans hsp.symm)
  · intro o
    refine ⟨fun h hw => exec_effect rfl ((frameResend_some hu).trans ((if_pos h).trans (if_neg (mt List.contains_iff_mem.mp hw)))),
      fun h => exec_effect rfl ((frameResend_some hu).trans ?_)⟩
    by_cases hs : u.sentAt + 20 ≤ s.now
    · exact (if_pos hs).trans (if_pos (List.contains_iff_mem.mpr (h.resolve_left (by omega))))
    · exact if_neg hs
  · intro ends
    refine ⟨fun x hq => exec_status rfl h ((if_neg hn).trans (withCtx_host _ _ hq)), fun c hq =>
      ⟨fun ho => exec_status rfl h ((if_neg hn).trans (withObj_none _ hq ho)), fun o ho =>
        ⟨fun hb => exec_status rfl h ((if_neg hn).trans (withObj_broken _ hq ho (Option.isSome_iff_ne_none.mpr hb))),
          fun hb hg => exec_status rfl h (fabPutBody_noMember hn hq ho hb hg), fun g w hb hg h2 hm => ?_⟩⟩⟩
    have hbody := fabPutBody_member (s := s.start q) (so := so) (off := off) hn hq ho hb hg h2 hm
    refine ⟨fun hl => exec_status rfl h (hbody.trans (if_pos hl)), fun hl hpo => exec_status rfl h (hbody.trans ((if_neg (by omega)).trans
      (if_pos (Option.isSome_iff_ne_none.mpr hpo)))), fun hl hpo => ?_⟩
    intro u bs beyond
    have hput := hbody.trans ((if_neg (by omega)).trans (if_neg (by simp [hpo])))
    have haddr : u.felt.addr = s.felt.addr := ((around_countTiers (s.start q) o so.toNat n.toNat false).trans (around_modCtx ..)).addr
    have hbey : (u.felt.addr == some w.1 && m.toNat != g.index &&
        (u.receiveObj w.2.toNat).any fun r => r.size < off.toNat + n.toNat) = true ↔ beyond := by
      simp [beyond, haddr, and_assoc, Option.any_eq_true]
    refine ⟨fun hy => exec_status rfl h (hput.trans (if_pos (hbey.mpr hy))), fun hy hi => exec_goesOn rfl h (hput.trans
      ((if_neg (mt hbey.mp hy)).trans (if_neg hi))), fun hi => ?_⟩
    have hown := hput.trans ((if_neg (mt hbey.mp fun hy => hy.2.1 hi)).trans (if_pos hi))
    by_cases hw : (u.writeReceived (ptnOf o.ctx) off.toNat bs).2 = true
    · exact (exec_status rfl h (hown.trans (if_pos hw))).trans (congrArg _ (if_pos hw).symm)
    · exact (exec_status rfl h (hown.trans (if_neg hw))).trans (congrArg _ (if_neg hw).symm)

end Sys2Proof.Machine
end

section
/-! SUPPORT. Felt groups: forming, leaving and the frames of group beats (13 R338 to R347). -/

namespace Sys2Proof.Machine

/-! ### Frames of members -/

section
variable {s t : State} {k : Fin 8} {f : Frame}

/-- A member's frame for another device goes on. -/
theorem onMember_forward {body : FeltBody} {act : MemberAct} {i : Instr} (he : exec i s = .next (onMember k f body s act))
    (hp : (s.port k).phase = .up) (hr : s.receive k f = (t, true)) (ha : t.felt.addr ≠ some f.dst) :
    exec i s = .next (t.forward f body) := by
  obtain ⟨bs, hbs⟩ := opened_payload (s.port k) f
  refine ((exec_phase (he.trans (congrArg _ (by rw [onMember]))) (p := .up)).2.2 t hp hr).trans (congrArg _ ?_)
  rw [hbs]
  exact if_pos (by simpa using ha)

/-- A member's frame for this device is taken. -/
theorem onMember_taken {body : FeltBody} {act : MemberAct} {i : Instr} (he : exec i s = .next (onMember k f body s act))
    (hp : (s.port k).phase = .up) (hr : s.receive k f = (t, true)) (ha : t.felt.addr = some f.dst) :
    exec i s = .next (t.takeMember f act) := by
  obtain ⟨bs, hbs⟩ := opened_payload (s.port k) f
  refine ((exec_phase (he.trans (congrArg _ (by rw [onMember]))) (p := .up)).2.2 t hp hr).trans (congrArg _ ?_)
  rw [hbs]
  exact if_neg (by simpa using ha)

theorem takeMember_none {act : MemberAct} (h : ∀ g, t.feltWake.group? f.dpart.toNat = some g → g.indexOf f.src f.spart = none) :
    t.takeMember f act = t.feltWake := by
  rw [State.takeMember]
  cases hg : t.feltWake.group? f.dpart.toNat with
  | none => rfl
  | some g =>
    dsimp only
    rw [h g hg]

theorem takeMember_some {act : MemberAct} {g : Group} {i : Nat} (hg : t.feltWake.group? f.dpart.toNat = some g)
    (hi : g.indexOf f.src f.spart = some i) : t.takeMember f act = act t.feltWake f.dpart.toNat g i := by
  rw [State.takeMember, hg]
  dsimp only
  rw [hi]

end

/-! ### Joins -/

theorem joinOf_taken (s : State) (f : Frame) (j : JoinInfo) :
    (s.modFelt fun x => { x with joins := (x.joins.filter fun y => !(y.part == f.dpart && y.src == f.src && y.spart == f.spart)) ++
      [⟨f.dpart, f.src, f.spart, j⟩] }).joinOf f.dpart.toNat (f.src, f.spart) = some j := by
  have hold : (s.felt.joins.filter fun y => !(y.part == f.dpart && y.src == f.src && y.spart == f.spart)).find?
      (fun y => y.part.toNat == f.dpart.toNat && y.src == f.src && y.spart == f.spart) = none := by
    refine List.find?_eq_none.mpr fun y hy => ?_
    have hne := (List.mem_filter.mp hy).2
    simpa [BitVec.toNat_eq, or_assoc, imp_iff_not_or] using hne
  dsimp only [State.joinOf, State.modFelt]
  rw [List.find?_append, hold]
  simp

theorem groupFormTimeout_idle {s : State} {p : Fin 8}
    (h : ∀ g, s.group? p.val = some g → g.state ≠ 1 ∨ s.now < g.since + 10000000 ∨ s.restarting linkerIsland = true) :
    groupFormTimeoutEffect p s = s := by
  rw [groupFormTimeoutEffect]
  cases hg : (s.group? p.val).filter fun g => g.state == 1 with
  | none => rfl
  | some g =>
    obtain ⟨hgs, h1⟩ := Option.filter_eq_some_iff.mp hg
    refine if_neg ?_
    rcases (h g hgs).resolve_left (not_not_intro (by simpa using h1)) with h | h
    · simp [Nat.not_le.mpr h]
    · simp [h]

theorem groupFormTimeout_due {s : State} {p : Fin 8} {g : Group} (hg : s.group? p.val = some g) (h1 : g.state = 1)
    (ht : g.since + 10000000 ≤ s.now) (hl : s.restarting linkerIsland = false) :
    groupFormTimeoutEffect p s = s.dissolve p.val ((s.unjoined p.val g).getD 0) 4 := by
  have hf : (s.group? p.val).filter (fun g => g.state == 1) = some g := Option.filter_eq_some_iff.mpr ⟨hg, by simpa using h1⟩
  rw [groupFormTimeoutEffect, hf]
  exact if_pos (by simp [ht, hl])

/-! ### What the end of a group's beat leaves -/

theorem run?_modPtn (s : State) (p : Nat) {f : Partition → Partition} (h : ∀ x, (f x).run = x.run) (r : Nat) :
    (s.modPtn p f).run? r = s.run? r := by
  unfold State.run?
  rw [ptn?_modPtn]
  split
  next hr =>
    subst hr
    cases s.ptn? r with
    | none => rfl
    | some x => exact h x
  · rfl

theorem run?_clearDones (s : State) (p r : Nat) : (s.clearDones p).run? r = s.run? r := by
  refine (run?_modPtn _ p ?_ r).trans (run?_modPtn s p (fun x => ?_) r)
  · exact fun _ => rfl
  · dsimp only
    split
    · rfl
    · split
      · rfl
      · split <;> rfl

theorem onAbort_runs {s : State} {p i : Nat} {g : Group} {r : Run} (h : s.run? p = some r) (hr : r.released = true)
    (hs : r.stopped = false) : onAbort s p g i = (s.clearDones p).raiseFault
      { kind := 0x08, ptn := some p, ctx := some r.ctx, beat := r.beat, address := i } := by
  have hf : ((s.clearDones p).run? p).filter (fun r => r.released && !r.stopped) = some r := by
    rw [run?_clearDones]
    exact Option.filter_eq_some_iff.mpr ⟨h, by simp [hr, hs]⟩
  rw [onAbort, hf]

theorem onAbort_idle {s : State} {p i : Nat} {g : Group} (h : ∀ r, s.run? p = some r → r.released = false ∨ r.stopped = true) :
    onAbort s p g i = s.clearDones p := by
  have hf : ((s.clearDones p).run? p).filter (fun r => r.released && !r.stopped) = none := by
    rw [run?_clearDones]
    refine Option.filter_eq_none_iff.mpr fun r hr => ?_
    rcases h r hr with h | h <;> simp [h]
  rw [onAbort, hf]

/-! ### FAB.GROUP -/

section
variable {s : State} {q : Req} {c : CtxNo} {a : GroupArgs} {o : Obj}

/-- The member list of FAB.GROUP as its bytes. -/
def listBytes (s : State) (a : GroupArgs) (o : Obj) : List Byte := s.readObj o a.listOff.toNat (4 * (a.count.toNat + 1))

/-- The member list of FAB.GROUP, where it is well formed. -/
def listMembers (s : State) (a : GroupArgs) (o : Obj) : Option (List (BitVec 16 × BitVec 3)) :=
  (List.range (a.count.toNat + 1)).mapM fun i => readMember (Bits.ofBytes (((listBytes s a o).drop (4 * i)).take 4))

/-- The group that FAB.GROUP records. -/
def newGroup (s : State) (a : GroupArgs) (o : Obj) (ms : List (BitVec 16 × BitVec 3)) : Group where
  id := a.group
  index := a.index.toNat
  count := a.count.toNat + 1
  lockstep := a.lockstep
  members := ms
  digest := Config.sha3 (listBytes s a o)
  receive := a.receive
  since := s.now

/-- A group recorded, with its joins sent. -/
def groupBegun (s : State) (p : Nat) (g : Group) : State :=
  (g.others.foldl (fun st m => st.sendControl p m.1 m.2 (.join g.join)) (s.modPtn p fun x => { x with group := some g })).checkJoins p

theorem fabGroupBody_waits (hq : q.ring = .ctx c) (ho : s.obj? c a.list = some o) (hb : o.broken = none)
    (hl : s.restarting linkerIsland = true) : fabGroupBody a s q = .waits :=
  (withObj_some _ hq ho hb).trans (if_pos hl)

theorem fabGroupBody_free (hq : q.ring = .ctx c) (ho : s.obj? c a.list = some o) (hb : o.broken = none)
    (hl : s.restarting linkerIsland = false) : fabGroupBody a s q =
      if (s.group? (ptnOf o.ctx)).isSome = true then .status s stInUse
      else if (a.receive != 0 && (s.obj? o.ctx a.receive).isNone) = true then .status s stNoObject
      else if (a.receive != 0 && (s.obj? o.ctx a.receive).any (fun r => r.desc.kind == kindWeights)) = true then .status s stBadField
      else if o.size < a.listOff.toNat + 4 * (a.count.toNat + 1) then .status s stBadField
      else if (s.objPoison o a.listOff.toNat (4 * (a.count.toNat + 1))).isSome = true then .status s stPoison
      else (listMembers s a o).elim (.status s stBadField) fun ms =>
        if (s.felt.addr.isNone || ms[a.index.toNat]? != some (s.felt.addr.getD 0, BitVec.ofNat 3 (ptnOf o.ctx))) = true then
          .status s stBadField
        else .status (groupBegun s (ptnOf o.ctx) (newGroup s a o ms)) stOk := by
  refine (withObj_some _ hq ho hb).trans ((if_neg (Bool.eq_false_iff.mp hl)).trans ?_)
  congr 5
  cases h : listMembers s a o with
  | none =>
    unfold listMembers listBytes at h
    dsimp only
    rw [h]
    rfl
  | some ms =>
    unfold listMembers listBytes at h
    dsimp only
    rw [h]
    rfl

/-- FAB.GROUP on a list, where no group is in force. -/
theorem fabGroupBody_list (hq : q.ring = .ctx c) (ho : s.obj? c a.list = some o)
    (hf : o.broken = none ∧ s.restarting linkerIsland = false ∧ s.group? (ptnOf o.ctx) = none)
    (ht : a.receive = 0 ∨ ∃ r, s.obj? o.ctx a.receive = some r ∧ r.desc.kind ≠ kindWeights) : fabGroupBody a s q =
      if o.size < a.listOff.toNat + 4 * (a.count.toNat + 1) then .status s stBadField
      else if (s.objPoison o a.listOff.toNat (4 * (a.count.toNat + 1))).isSome = true then .status s stPoison
      else (listMembers s a o).elim (.status s stBadField) fun ms =>
        if (s.felt.addr.isNone || ms[a.index.toNat]? != some (s.felt.addr.getD 0, BitVec.ofNat 3 (ptnOf o.ctx))) = true then
          .status s stBadField
        else .status (groupBegun s (ptnOf o.ctx) (newGroup s a o ms)) stOk := by
  obtain ⟨hb, hl, hg⟩ := hf
  refine (fabGroupBody_free hq ho hb hl).trans ((if_neg (by simp [hg])).trans ((if_neg ?_).trans (if_neg ?_)))
  · rcases ht with h | ⟨r, hr, -⟩
    · simp [h]
    · simp [hr]
  · rcases ht with h | ⟨r, hr, hk⟩
    · simp [h]
    · simpa [hr] using fun _ => hk

/-- FAB.GROUP of a receive object that is not there, or is of weights. -/
theorem fabGroupBody_receive (hq : q.ring = .ctx c) (ho : s.obj? c a.list = some o)
    (hf : o.broken = none ∧ s.restarting linkerIsland = false ∧ s.group? (ptnOf o.ctx) = none) (hr : a.receive ≠ 0) :
    (s.obj? o.ctx a.receive = none → fabGroupBody a s q = .status s stNoObject) ∧
      ∀ r, s.obj? o.ctx a.receive = some r → r.desc.kind = kindWeights → fabGroupBody a s q = .status s stBadField := by
  obtain ⟨hb, hl, hg⟩ := hf
  have hfree := (fabGroupBody_free hq ho hb hl).trans (if_neg (by simp [hg]))
  refine ⟨fun hn => hfree.trans (if_pos ?_), fun r hs hk => hfree.trans ((if_neg ?_).trans (if_pos ?_))⟩
  · simpa [hn] using hr
  · simp [hs]
  · simpa [hs, hk] using hr

end

/-- Settles O43: the rows of a group, case by case. -/
theorem feltGroups : Obligations.FeltGroups := by
  unfold Obligations.FeltGroups
  refine ⟨fun s q a h => ?_, fun s t k f j hp hr => ?_, fun s p => ⟨fun h => exec_effect rfl (groupFormTimeout_idle h),
      fun g hg h1 ht hl => exec_effect rfl (groupFormTimeout_due hg h1 ht hl)⟩,
    fun s q h => ⟨fun x hq => exec_status rfl h (withCtx_host _ _ hq), fun c hq hg => exec_status rfl h ?_,
      fun c hq hg => exec_status rfl h ?_⟩,
    fun s t k f b adm moved hp hr e he => ?_, fun s t k f g i hp hr ha hg hi => ?_⟩
  · intro ends n
    refine ⟨fun x hq => exec_status rfl h (withCtx_host _ _ hq), fun c hq => ⟨fun ho => exec_status rfl h (withObj_none _ hq ho),
      fun o ho => ?_⟩⟩
    intro p bs list free takes
    refine ⟨fun hb => exec_status rfl h (withObj_broken _ hq ho (Option.isSome_iff_ne_none.mpr hb)),
      fun hb hl => exec_waits rfl h (fabGroupBody_waits (s := s.start q) hq ho hb hl), fun hb hl hg => exec_status rfl h
        ((fabGroupBody_free (s := s.start q) hq ho hb hl).trans (if_pos (Option.isSome_iff_ne_none.mpr hg))), ?_, ?_, ?_, ?_, ?_⟩
    · exact fun hf hrec hro => exec_status rfl h ((fabGroupBody_receive (s := s.start q) hq ho hf hrec).1 hro)
    · exact fun hf r hrec hro hk => exec_status rfl h ((fabGroupBody_receive (s := s.start q) hq ho hf hrec).2 r hro hk)
    · exact fun hf ht hn => exec_status rfl h ((fabGroupBody_list (s := s.start q) hq ho hf ht).trans (if_pos hn))
    · exact fun hf ht hn hpo => exec_status rfl h ((fabGroupBody_list (s := s.start q) hq ho hf ht).trans
        ((if_neg (Nat.not_lt.mpr hn)).trans (if_pos (Option.isSome_iff_ne_none.mpr hpo))))
    · intro hf ht hn hpo
      have hlist := (fabGroupBody_list (s := s.start q) hq ho hf ht).trans ((if_neg (Nat.not_lt.mpr hn)).trans (if_neg (by simp [show (s.start q).objPoison o a.listOff.toNat (4 * (a.count.toNat + 1)) = none from hpo])))
      refine ⟨fun hno => exec_status rfl h ?_, fun ms hms => ⟨fun haddr => exec_status rfl h ?_, fun own haddr => ?_⟩⟩
      · rw [hlist, show listMembers (s.start q) a o = none from hno, Option.elim_none]
      · rw [hlist, show listMembers (s.start q) a o = some ms from hms, Option.elim_some]
        exact if_pos (by simp [haddr])
      · rw [show listMembers (s.start q) a o = some ms from hms, Option.elim_some,
          show (s.start q).felt.addr = some own from haddr] at hlist
        exact ⟨fun hm => exec_status rfl h (hlist.trans (if_pos (by simpa using hm))), fun hm =>
          exec_status rfl h (hlist.trans (if_neg (by simp [hm, p])))⟩
  · obtain ⟨bs, hbs⟩ := opened_payload (s.port k) f
    have hrow := (exec_phase (i := .joinFrame k f j) rfl).2.2 t hp hr
    rw [hbs] at hrow ⊢
    refine ⟨fun ha => hrow.trans (congrArg _ (if_pos (by simpa using ha))), fun ha hl => hrow.trans (congrArg _
      ((if_neg (by simpa using ha)).trans (forLinker_waits hl))), fun ha hl => ⟨_, hrow.trans (congrArg _
      ((if_neg (by simpa using ha)).trans (forLinker_acts hl))), joinOf_taken t.feltWake f j⟩⟩
  · exact (withCtx_ctx _ _ hq).trans (if_pos (Option.isNone_iff_eq_none.mpr hg))
  · exact (withCtx_ctx _ _ hq).trans (if_neg (mt Option.isNone_iff_eq_none.mp hg))
  · simp only [List.mem_cons, List.not_mem_nil, or_false] at he
    rcases he with rfl | rfl | rfl | rfl | rfl <;>
      exact ⟨onMember_forward rfl hp hr, fun ha hno => (onMember_taken rfl hp hr ha).trans (congrArg _ (takeMember_none hno))⟩
  · intro u p
    have htaken {i' : Instr} {body : FeltBody} {act : MemberAct} (he : exec i' s = .next (onMember k f body s act)) :
        exec i' s = .next (act u p g i) := (onMember_taken he hp hr ha).trans (congrArg _ (takeMember_some hg hi))
    refine ⟨fun moved => htaken (body := .leave moved) (act := onLeave f.src moved) rfl, fun b adm => ⟨fun h0 => (htaken rfl).trans (congrArg _ (if_pos (by simpa using h0))),
        fun h0 => (htaken rfl).trans (congrArg _ (if_neg (by simpa using h0)))⟩,
      fun b => ⟨fun h0 hd hu => (htaken rfl).trans (congrArg _ (if_pos (by simp [h0, hd, hu]))), fun hno => (htaken rfl).trans
        (congrArg _ (if_neg ?_))⟩, fun hh => (htaken rfl).trans (congrArg _ (if_pos (List.contains_iff_mem.mpr hh))),
      fun hh h0 => (htaken rfl).trans (congrArg _ ((if_neg (mt List.contains_iff_mem.mp hh)).trans (if_neg h0))),
      fun hh h0 => ⟨(List.range g.count).filter fun j => j != 0 && j != i, fun j => by simp,
        (htaken rfl).trans (congrArg _ ((if_neg (mt List.contains_iff_mem.mp hh)).trans (if_pos h0)))⟩,
      fun r hr hrel hst => (htaken rfl).trans (congrArg _ (onAbort_runs hr hrel hst)),
      fun hno => (htaken rfl).trans (congrArg _ (onAbort_idle hno))⟩
    rcases hno with h | h | h <;> simp [h]

end Sys2Proof.Machine
end

section
/-! SUPPORT and the settlement of O57: watch points, trace and counters (20 R485 to R492). -/

namespace Sys2Proof.Machine

section
variable {s : State} {q : Req} {c : CtxNo}

theorem watchClearBody_ctx {mask : BitVec 16} (hq : q.ring = .ctx c) (hm : mask ≠ 0) : watchClearBody mask s q =
    if s.running c = true then .waits
    else .status (s.modCtx c fun x => { x with watches := x.watches.mapFinIdx fun i w _ => if mask.getLsbD i then {} else w }) stOk :=
  (if_neg hm).trans (withCtx_ctx _ _ hq)

theorem watchTraceBody_denied {base off : BitVec 42} {n : BitVec 32} (hq : q.ring = .ctx c) (hn : n ≠ 0)
    (h : ¬ (s.live.traceAllow = true ∧ ∃ p, s.ptn? (ptnOf c) = some p ∧ p.live.traceEn = true)) :
    watchTraceBody base off n s q = .status s stDenied := by
  refine (withCtx_ctx _ _ hq).trans ((if_neg hn).trans (if_pos ?_))
  cases hp : s.ptn? (ptnOf c) with
  | none => simp
  | some p => simpa [hp, or_iff_not_imp_left] using h

theorem watchTraceBody_allowed {base off : BitVec 42} {n : BitVec 32} (hq : q.ring = .ctx c) (hn : n ≠ 0)
    (h : s.live.traceAllow = true ∧ ∃ p, s.ptn? (ptnOf c) = some p ∧ p.live.traceEn = true) :
    (s.obj? c base = none → watchTraceBody base off n s q = .status s stNoObject) ∧
      ∀ o, s.obj? c base = some o → watchTraceBody base off n s q =
        if o.desc.kind = kindWeights ∨ o.size < off.toNat + n.toNat then .status s stBadField
        else .status (s.modCtx c fun x => { x with trace := some { base := base, offset := off, bytes := n } }) stOk := by
  obtain ⟨ht, p, hp, hen⟩ := h
  have hallow : ¬ (!(s.live.traceAllow && ((s.ptn? (ptnOf c)).map (·.live.traceEn)).getD false)) = true := by simp [ht, hp, hen]
  refine ⟨fun ho => (withCtx_ctx _ _ hq).trans ((if_neg hn).trans ((if_neg hallow).trans ?_)),
    fun o ho => (withCtx_ctx _ _ hq).trans ((if_neg hn).trans ((if_neg hallow).trans ?_))⟩
  · rw [ho]
  · rw [ho]

theorem ctrReadBody_clusters {kind : BitVec 2} {host : BitVec 64} (hq : q.ring = .ctx c) (hk : kind ≠ 0) (hm : isMgmt c = true) :
    (s.ptn? (ptnOf c) = none → ctrReadBody kind host s q = .status s stNoObject) ∧
      ∀ p, s.ptn? (ptnOf c) = some p → ctrReadBody kind host s q = .status (s.writeHostOf q host
        (((List.range p.n).flatMap fun k => Bits.toBytes 64 ((s.groups[p.low + k]?.map GroupCounters.bits).getD 0)) ++
          p.channels.flatMap fun h => Bits.toBytes 8 (s.obsEcc h))) stOk := by
  refine ⟨fun hp => (withCtx_ctx _ _ hq).trans ((if_neg hk).trans ((if_neg (by simp [hm])).trans ?_)),
    fun p hp => (withCtx_ctx _ _ hq).trans ((if_neg hk).trans ((if_neg (by simp [hm])).trans ?_))⟩
  · rw [hp]
  · rw [hp]

theorem ctrClearBody_others (hq : q.ring = .ctx c) :
    ((∃ a ∈ s.accepted, a.q.ring = q.ring ∧ a.q ≠ q ∧ a.started = true ∧ a.q.counters = true) → ctrClearBody s q = .waits) ∧
      (¬ (∃ a ∈ s.accepted, a.q.ring = q.ring ∧ a.q ≠ q ∧ a.started = true ∧ a.q.counters = true) →
        ctrClearBody s q = .status (s.modCtx c fun x => { x with counters := List.replicate 32 0 }) stOk) := by
  have hany : (s.accepted.any fun a => a.q.ring == q.ring && a.q != q && a.started && a.q.counters) = true ↔
      ∃ a ∈ s.accepted, a.q.ring = q.ring ∧ a.q ≠ q ∧ a.started = true ∧ a.q.counters = true := by
    simp [List.any_eq_true, and_assoc]
  exact ⟨fun h => (withCtx_ctx _ _ hq).trans (if_pos (hany.mpr h)), fun h => (withCtx_ctx _ _ hq).trans (if_neg (mt hany.mp h))⟩

end

theorem targetStatus_object {s : State} {c : CtxNo} {a : WatchArgs} (h : a.tileTarget = false) :
    (s.obj? c a.base = none → s.targetStatus c a = stNoObject) ∧ ∀ o, s.obj? c a.base = some o →
      s.targetStatus c a = if a.offset.toNat + a.bytes.toNat ≤ o.size ∧ a.bytes.toNat ≤ 2 ^ 30 then stOk else stBadField := by
  refine ⟨fun ho => ?_, fun o ho => ?_⟩
  all_goals
    rw [State.targetStatus, if_neg (Bool.eq_false_iff.mp h), ho]

/-- Settles O57: each command by its ring, its target and its range. -/
theorem observation : Obligations.Observation := by
  unfold Obligations.Observation
  refine ⟨fun s q a mask i k host base off n hm e he hr h hq => ?_, fun s q c a h hq => ⟨fun ht => ?_, fun ht hr => ?_, fun ht hr => ?_⟩,
    fun s c a => ⟨fun ht => if_pos ht, fun ht => (targetStatus_object ht).1, fun o ht => (targetStatus_object ht).2 o⟩,
    fun s q h => exec_status rfl h (if_pos rfl), fun s q c mask h hq hm => ⟨fun hr => ?_, fun hr => ?_⟩, fun s q c i host h hq => ?_,
    fun s q c base off n h hq => ?_, fun s q c kind host h hq => ?_, fun s q c h hq => ?_⟩
  · simp only [List.mem_cons, List.not_mem_nil, or_false] at he
    rcases he with rfl | rfl | rfl | rfl | rfl | rfl
    · exact exec_status rfl hr (withCtx_host _ _ hq)
    · exact exec_status rfl hr ((if_neg hm).trans (withCtx_host _ _ hq))
    · exact exec_status rfl hr (withCtx_host _ _ hq)
    · exact exec_status rfl hr (withCtx_host _ _ hq)
    · exact exec_status rfl hr (withCtx_host _ _ hq)
    · exact exec_status rfl hr (withCtx_host _ _ hq)
  · exact exec_status rfl h ((withCtx_ctx _ _ hq).trans (if_pos ht))
  · exact exec_waits rfl h ((withCtx_ctx _ _ hq).trans ((if_neg (not_not_intro ht)).trans (if_pos hr)))
  · exact exec_status rfl h ((withCtx_ctx _ _ hq).trans ((if_neg (not_not_intro ht)).trans (if_neg (Bool.eq_false_iff.mp hr))))
  · exact exec_waits rfl h ((watchClearBody_ctx hq hm).trans (if_pos hr))
  · refine ⟨fun v => v.mapFinIdx fun i w _ => if mask.getLsbD i then {} else w,
      exec_status rfl h ((watchClearBody_ctx hq hm).trans (if_neg (Bool.eq_false_iff.mp hr))), fun v i => by simp⟩
  · exact exec_status rfl h (withCtx_ctx _ _ hq)
  · refine ⟨fun hn => exec_status rfl h ((withCtx_ctx _ _ hq).trans (if_pos hn)),
      fun hn hd => exec_status rfl h (watchTraceBody_denied hq hn hd),
      fun hn ha ho => exec_status rfl h ((watchTraceBody_allowed (s := s.start q) (off := off) hq hn ha).1 ho), fun o hn ha ho => ?_⟩
    have hbody := (watchTraceBody_allowed (s := s.start q) (off := off) hq hn ha).2 o ho
    exact ⟨fun hb => exec_status rfl h (hbody.trans (if_pos hb)), fun hk hl =>
      exec_status rfl h (hbody.trans (if_neg (not_or.mpr ⟨hk, Nat.not_lt.mpr hl⟩)))⟩
  · exact ⟨fun hk => exec_status rfl h ((withCtx_ctx _ _ hq).trans (if_pos hk)), fun hk hm => exec_status rfl h
        ((withCtx_ctx _ _ hq).trans ((if_neg hk).trans (if_pos (by simp [hm])))),
      fun hk hm hp => exec_status rfl h ((ctrReadBody_clusters (s := s.start q) (host := host) hq hk hm).1 hp),
      fun p hk hm hp => exec_status rfl h ((ctrReadBody_clusters (s := s.start q) hq hk hm).2 p hp)⟩
  · exact ⟨fun ho => exec_waits rfl h ((ctrClearBody_others hq).1 ho), fun ho => exec_status rfl h ((ctrClearBody_others hq).2 ho)⟩

end Sys2Proof.Machine
end

section
/-! SUPPORT and the settlement of O55: the narrow port of the tile stores (05 R119). -/

namespace Sys2Proof.Machine

/-! ### Bytes laid over a line -/

theorem ofBytes_toBytes (n v : Nat) : Bits.ofBytes (Bits.toBytes n v) = v % 256 ^ n := by
  induction n generalizing v with
  | zero => simp [Bits.toBytes, Bits.ofBytes, Nat.mod_one]
  | succ n ih =>
    rw [Bits.toBytes, Bits.ofBytes, ih, BitVec.toNat_ofNat]
    show v % 256 + 256 * (v / 256 % 256 ^ n) = _
    rw [Nat.pow_succ', Nat.mod_mul]

theorem Table.mem_set_self {α : Type} (t : Table α) (a : Nat) (x : α) : ∃ y ∈ Table.set t a x, y.1 = a := by
  induction t with
  | nil => exact ⟨(a, x), by simp [Table.set], rfl⟩
  | cons e t ih =>
    obtain ⟨k, v⟩ := e
    rw [Table.set]
    split_ifs
    · exact ⟨(a, x), by simp, rfl⟩
    · exact ⟨(a, x), by simp, rfl⟩
    · obtain ⟨y, hy, ha⟩ := ih
      exact ⟨y, List.mem_cons_of_mem _ hy, ha⟩

theorem Table.mem_set_of_mem {α : Type} {t : Table α} {a j : Nat} {x : α} (h : ∃ y ∈ t, y.1 = j) :
    ∃ y ∈ Table.set t a x, y.1 = j := by
  induction t with
  | nil => simp at h
  | cons e t ih =>
    obtain ⟨k, v⟩ := e
    obtain ⟨y, hy, hj⟩ := h
    rw [Table.set]
    split_ifs with h1 h2
    · exact ⟨y, List.mem_cons_of_mem _ hy, hj⟩
    · rcases List.mem_cons.mp hy with rfl | hy
      · exact ⟨(a, x), by simp, h2.trans hj⟩
      · exact ⟨y, List.mem_cons_of_mem _ hy, hj⟩
    · rcases List.mem_cons.mp hy with rfl | hy
      · exact ⟨_, List.mem_cons_self, hj⟩
      · obtain ⟨z, hz, hzj⟩ := ih ⟨y, hy, hj⟩
        exact ⟨z, List.mem_cons_of_mem _ hz, hzj⟩

theorem layOver_mem {m : Mem} {j : Nat} (h : ∃ y ∈ m, y.1 = j) (off : Nat) (bs : List Byte) : ∃ y ∈ layOver m off bs, y.1 = j := by
  induction bs generalizing m off with
  | nil => exact h
  | cons b bs ih => exact ih (Table.mem_set_of_mem h) _

theorem layOver_below (m : Mem) (off : Nat) (bs : List Byte) {j : Nat} (h : j < off) :
    Table.get 0 (layOver m off bs) j = Table.get 0 m j := by
  induction bs generalizing m off with
  | nil => rfl
  | cons b bs ih => exact (ih _ _ (by omega)).trans (Table.get_set_ne _ _ (by omega) _)

theorem layOver_covers (m : Mem) (off : Nat) (bs : List Byte) {i : Nat} (h : i < bs.length) :
    ∃ y ∈ layOver m off bs, y.1 = off + i := by
  induction bs generalizing m off i with
  | nil => simp at h
  | cons b bs ih =>
    cases i with
    | zero => exact layOver_mem (Table.mem_set_self m off b) _ bs
    | succ i =>
      have := ih (Table.set m off b) (off + 1) (i := i) (by simpa using h)
      rwa [Nat.add_assoc, Nat.add_comm 1 i] at this

theorem layOver_get (m : Mem) (off : Nat) (bs : List Byte) :
    (List.range bs.length).map (fun i => Table.get 0 (layOver m off bs) (off + i)) = bs := by
  induction bs generalizing m off with
  | nil => rfl
  | cons b bs ih =>
    rw [List.length_cons, List.range_succ_eq_map, List.map_cons, List.map_map]
    congr 1
    · exact (layOver_below _ _ bs (Nat.lt_succ_self off)).trans (Table.get_set_self ..)
    · refine Eq.trans (List.map_congr_left fun i _ => ?_) (ih (Table.set m off b) (off + 1))
      show Table.get 0 (layOver m off (b :: bs)) (off + (i + 1)) = Table.get 0 (layOver (Table.set m off b) (off + 1) bs) (off + 1 + i)
      rw [show off + (i + 1) = off + 1 + i by omega]
      rfl

/-! ### The three rows -/

section
variable {s : State} {c : Fin 8} {t : Fin 14} {sp : BitVec 4} {b : BitVec 24} {size : BitVec 2}

theorem refused_iff (h : narrowOk t.val sp.toNat b.toNat (accessBytes size) = false ∨ size = 3) :
    (!narrowOk t.val sp.toNat b.toNat (accessBytes size) || decide (2 < size.toNat)) = true := by
  rcases h with h | rfl
  · simp [h]
  · simp

theorem allowed_not (hok : narrowOk t.val sp.toNat b.toNat (accessBytes size) = true) (hs : size ≠ 3) :
    ¬ (!narrowOk t.val sp.toNat b.toNat (accessBytes size) || decide (2 < size.toNat)) = true := by
  have : size.toNat ≠ 3 := fun h => hs (BitVec.eq_of_toNat_eq h)
  have := size.isLt
  simp [hok]
  omega

theorem narrowLoad_bank (hok : narrowOk t.val sp.toNat b.toNat (accessBytes size) = true) (hs : size ≠ 3)
    (hn : (s.stores.coalesced.find? fun x => x.at_ c.val t.val sp.toNat (b.toNat / lineBytes t.val sp.toNat)) = none) :
    narrowLoadEffect c t sp b size s =
      { s with lastRead := BitVec.ofNat 64 (Bits.ofBytes (s.stores.read c.val t.val sp.toNat b.toNat (accessBytes size))) } := by
  rw [narrowLoadEffect]
  refine (if_neg (allowed_not hok hs)).trans ?_
  dsimp only
  rw [hn]

theorem narrowLoad_entry {x : Coalesced} (hok : narrowOk t.val sp.toNat b.toNat (accessBytes size) = true) (hs : size ≠ 3)
    (hx : (s.stores.coalesced.find? fun x => x.at_ c.val t.val sp.toNat (b.toNat / lineBytes t.val sp.toNat)) = some x) :
    ((∀ i < accessBytes size, ∃ y ∈ x.bytes, y.1 = b.toNat % lineBytes t.val sp.toNat + i) → narrowLoadEffect c t sp b size s =
      { s with lastRead := BitVec.ofNat 64 (Bits.ofBytes ((List.range (accessBytes size)).map fun i =>
        Table.get 0 x.bytes (b.toNat % lineBytes t.val sp.toNat + i))) }) ∧
    (¬ (∀ i < accessBytes size, ∃ y ∈ x.bytes, y.1 = b.toNat % lineBytes t.val sp.toNat + i) → narrowLoadEffect c t sp b size s =
      { s.writeBack x with lastRead := BitVec.ofNat 64 (Bits.ofBytes ((s.writeBack x).stores.read c.val t.val sp.toNat b.toNat
        (accessBytes size))) }) := by
  have hcov : ((List.range (accessBytes size)).all fun i => x.bytes.any fun y => y.1 == b.toNat % lineBytes t.val sp.toNat + i) = true ↔
      ∀ i < accessBytes size, ∃ y ∈ x.bytes, y.1 = b.toNat % lineBytes t.val sp.toNat + i := by
    simp [List.all_eq_true, List.any_eq_true]
  rw [narrowLoadEffect]
  refine ⟨fun h => (if_neg (allowed_not hok hs)).trans ?_, fun h => (if_neg (allowed_not hok hs)).trans ?_⟩
  all_goals
    dsimp only
    rw [hx]
  · exact if_pos (hcov.mpr h)
  · exact if_neg (mt hcov.mp h)

end

theorem Stores.write_coalesced (st : Stores) (tag : Option CtxNo) (c t sp b : Nat) (bs : List Byte) :
    (st.write tag c t sp b bs).coalesced = st.coalesced := by
  induction bs generalizing st b with
  | nil => rfl
  | cons v vs ih => exact ih (st.writeByte tag c t sp b v) (b + 1)

/-- A write-back lets its entry's line go, and no other (05 R119). -/
theorem writeBack_coalesced (s : State) (x : Coalesced) : (s.writeBack x).stores.coalesced =
    s.stores.coalesced.filter fun y => !y.at_ x.cluster x.tile x.space x.line := by
  have hbytes (bs : List (Nat × Byte)) (st : Stores) : (bs.foldl (fun (st : Stores) b =>
      st.write x.ctx x.cluster x.tile x.space (x.line * lineBytes x.tile x.space + b.1) [b.2]) st).coalesced = st.coalesced := by
    induction bs generalizing st with
    | nil => rfl
    | cons b bs ih => exact (ih _).trans (Stores.write_coalesced ..)
  unfold State.writeBack
  dsimp only
  rw [hbytes]

theorem at_iff (x : Coalesced) (c t sp line : Nat) :
    x.at_ c t sp line = true ↔ x.cluster = c ∧ x.tile = t ∧ x.space = sp ∧ x.line = line := by
  simp [Coalesced.at_, and_assoc]

section
variable {s : State} {c : Fin 8} {t : Fin 14} {sp : BitVec 4} {b : BitVec 24} {size : BitVec 2} {v : BitVec 32} {tag : Option CtxNo}

/-- The bytes of an access laid over what an entry holds of its line. -/
def laid (t : Fin 14) (sp : BitVec 4) (b : BitVec 24) (size : BitVec 2) (v : BitVec 32) (m : Mem) : Mem :=
  layOver m (b.toNat % lineBytes t.val sp.toNat) (Bits.toBytes (accessBytes size) v.toNat)

/-- A load of what has just been laid over the line's entry reads it back. -/
theorem narrowLoad_laid {x : Coalesced} {m : Mem} (hok : narrowOk t.val sp.toNat b.toNat (accessBytes size) = true) (hs : size ≠ 3)
    (hx : (s.stores.coalesced.find? fun x => x.at_ c.val t.val sp.toNat (b.toNat / lineBytes t.val sp.toNat)) = some x)
    (hb : x.bytes = laid t sp b size v m) :
    narrowLoadEffect c t sp b size s = { s with lastRead := BitVec.ofNat 64 (v.toNat % 2 ^ (8 * accessBytes size)) } := by
  have hlen : (Bits.toBytes (accessBytes size) v.toNat).length = accessBytes size := toBytes_length ..
  refine ((narrowLoad_entry hok hs hx).1 fun i hi => ?_).trans ?_
  · rw [hb]
    exact layOver_covers _ _ _ (by rwa [hlen])
  · have hget := layOver_get m (b.toNat % lineBytes t.val sp.toNat) (Bits.toBytes (accessBytes size) v.toNat)
    rw [hlen] at hget
    rw [hb, laid, hget, ofBytes_toBytes, Nat.pow_mul]

/-- Whether an entry is that of the line that an access lies in. -/
def lineHeld (c : Fin 8) (t : Fin 14) (sp : BitVec 4) (b : BitVec 24) (x : Coalesced) : Bool :=
  x.at_ c.val t.val sp.toNat (b.toNat / lineBytes t.val sp.toNat)

/-- An entry of a line with a store merged into it. -/
def mergedInto (t : Fin 14) (sp : BitVec 4) (b : BitVec 24) (size : BitVec 2) (v : BitVec 32) (tag : Option CtxNo) (x : Coalesced) :
    Coalesced :=
  { x with bytes := laid t sp b size v x.bytes, ctx := tag.orElse fun _ => x.ctx }

theorem narrowStore_merges (hok : narrowOk t.val sp.toNat b.toNat (accessBytes size) = true) (hs : size ≠ 3)
    (h : (s.stores.coalesced.any fun x => x.at_ c.val t.val sp.toNat (b.toNat / lineBytes t.val sp.toNat)) = true) :
    narrowStoreEffect c t sp b size v tag s = { s with stores := { s.stores with
      coalesced := Lists.modifyIf (lineHeld c t sp b) (mergedInto t sp b size v tag) s.stores.coalesced } } := by
  rw [narrowStoreEffect]
  exact (if_neg (allowed_not hok hs)).trans (if_pos h)

/-- The device once a store's place among its entries is free: the oldest has been written back where all 16 are taken. -/
def roomMade (s : State) (c : Fin 8) (t : Fin 14) (sp : BitVec 4) : State :=
  let mine := s.stores.coalesced.filter fun x => x.cluster == c.val && x.tile == t.val && x.space == sp.toNat
  match mine.head? with
  | some x => if 16 ≤ mine.length then s.writeBack x else s
  | none => s

theorem roomMade_free (h : (s.stores.coalesced.filter fun x => x.cluster == c.val && x.tile == t.val && x.space == sp.toNat).length < 16) :
    roomMade s c t sp = s := by
  unfold roomMade
  dsimp only
  split
  · exact if_neg (Nat.not_le.mpr h)
  · rfl

theorem roomMade_stores (s : State) (c : Fin 8) (t : Fin 14) (sp : BitVec 4) :
    roomMade s c t sp = { s with stores := (roomMade s c t sp).stores } ∧
      ∀ x ∈ (roomMade s c t sp).stores.coalesced, x ∈ s.stores.coalesced := by
  unfold roomMade
  dsimp only
  split
  · split
    next x _ _ =>
      rw [writeBack_coalesced]
      exact ⟨rfl, fun y hy => (List.mem_filter.mp hy).1⟩
    · exact ⟨rfl, fun _ h => h⟩
  · exact ⟨rfl, fun _ h => h⟩

theorem narrowStore_takes (hok : narrowOk t.val sp.toNat b.toNat (accessBytes size) = true) (hs : size ≠ 3)
    (h : ¬ (s.stores.coalesced.any fun x => x.at_ c.val t.val sp.toNat (b.toNat / lineBytes t.val sp.toNat)) = true) :
    narrowStoreEffect c t sp b size v tag s = { roomMade s c t sp with stores := { (roomMade s c t sp).stores with
      coalesced := (roomMade s c t sp).stores.coalesced ++
        [⟨c.val, t.val, sp.toNat, b.toNat / lineBytes t.val sp.toNat, laid t sp b size v [], tag⟩] } } := by
  rw [narrowStoreEffect]
  exact (if_neg (allowed_not hok hs)).trans (if_neg h)

/-- A store is held with its line and reads back at once. -/
theorem narrowStore_held (hok : narrowOk t.val sp.toNat b.toNat (accessBytes size) = true) (hs : size ≠ 3) :
    ((s.stores.coalesced.filter fun x => x.cluster == c.val && x.tile == t.val && x.space == sp.toNat).length < 16 →
      (narrowStoreEffect c t sp b size v tag s).stores.bytes = s.stores.bytes ∧
      (narrowStoreEffect c t sp b size v tag s).stores.tags = s.stores.tags) ∧
    narrowStoreEffect c t sp b size v tag s = { s with stores := (narrowStoreEffect c t sp b size v tag s).stores } ∧
    ∃ x m, ((narrowStoreEffect c t sp b size v tag s).stores.coalesced.find?
      fun x => x.at_ c.val t.val sp.toNat (b.toNat / lineBytes t.val sp.toNat)) = some x ∧ x.bytes = laid t sp b size v m := by
  by_cases h : (s.stores.coalesced.any fun x => x.at_ c.val t.val sp.toNat (b.toNat / lineBytes t.val sp.toNat)) = true
  · rw [narrowStore_merges hok hs h]
    refine ⟨fun _ => ⟨rfl, rfl⟩, rfl, ?_⟩
    obtain ⟨x, hx⟩ := Option.isSome_iff_exists.mp ((List.find?_isSome (p := lineHeld c t sp b)).mpr (List.any_eq_true.mp h))
    refine ⟨mergedInto t sp b size v tag x, x.bytes, ?_, rfl⟩
    have hkeep (y : Coalesced) (hy : lineHeld c t sp b y = true) : lineHeld c t sp b (mergedInto t sp b size v tag y) = true := hy
    exact (modifyIf_find? hkeep _).trans (by rw [hx]; rfl)
  · rw [narrowStore_takes hok hs h]
    obtain ⟨hst, hmem⟩ := roomMade_stores s c t sp
    refine ⟨fun hfree => ?_, ?_, ⟨c.val, t.val, sp.toNat, b.toNat / lineBytes t.val sp.toNat, laid t sp b size v [], tag⟩, [], ?_, rfl⟩
    · rw [roomMade_free hfree]
      exact ⟨rfl, rfl⟩
    · rw [hst]
    · have hnone : ((roomMade s c t sp).stores.coalesced.find?
          fun x => x.at_ c.val t.val sp.toNat (b.toNat / lineBytes t.val sp.toNat)) = none :=
        List.find?_eq_none.mpr fun y hy hat => h (List.any_eq_true.mpr ⟨y, hmem y hy, hat⟩)
      dsimp only
      rw [List.find?_append, hnone]
      simp [Coalesced.at_]

end

theorem coalesceWriteback_some {s : State} {c : Fin 8} {t : Fin 14} {sp : BitVec 4} {line : BitVec 16} {x : Coalesced}
    (h : (s.stores.coalesced.find? fun x => x.at_ c.val t.val sp.toNat line.toNat) = some x) :
    coalesceWritebackEffect c t sp line s = s.writeBack x ∧
      ∀ y : Coalesced, y.at_ x.cluster x.tile x.space x.line = y.at_ c.val t.val sp.toNat line.toNat := by
  obtain ⟨h1, h2, h3, h4⟩ := (at_iff x _ _ _ _).mp (List.find?_some (p := fun x : Coalesced => x.at_ c.val t.val sp.toNat line.toNat) h)
  rw [coalesceWritebackEffect, h]
  exact ⟨rfl, fun y => by rw [h1, h2, h3, h4]⟩

/-- Settles O55: what each row does with the line's entry, and with none. -/
theorem narrowPort : Obligations.NarrowPort := by
  unfold Obligations.NarrowPort
  refine ⟨fun s c t sp b size v tag hok hs => ?_, fun s c t sp b size hok hs => ⟨fun hn => exec_effect rfl (narrowLoad_bank hok hs hn),
      fun x hx => ⟨fun h => exec_effect rfl ((narrowLoad_entry hok hs hx).1 h), fun h => exec_effect rfl ((narrowLoad_entry hok hs hx).2 h)⟩⟩,
    fun s c t sp b size v tag h => ⟨exec_effect rfl (if_pos (refused_iff h)), exec_effect rfl (if_pos (refused_iff h))⟩,
    fun s c t sp line => ⟨fun hn => exec_effect rfl ?_, fun x hx => ?_⟩⟩
  · obtain ⟨hfree, hst, x, m, hx, hb⟩ := narrowStore_held (s := s) (c := c) (v := v) (tag := tag) hok hs
    exact ⟨narrowStoreEffect c t sp b size v tag s, rfl, hfree, hst, _, exec_effect rfl (narrowLoad_laid hok hs hx hb), rfl, rfl⟩
  · rw [coalesceWritebackEffect, hn]
  · obtain ⟨hrow, hat⟩ := coalesceWriteback_some hx
    refine ⟨exec_effect rfl hrow, fun y hy => ?_, fun y hy hno => ?_, rfl⟩
    · rw [writeBack_coalesced] at hy
      simpa [hat] using (List.mem_filter.mp hy).2
    · rw [writeBack_coalesced]
      exact List.mem_filter.mpr ⟨hy, by simp [hat, hno]⟩

end Sys2Proof.Machine
end

section
/-! SUPPORT and the settlement of O48: the FW commands (17 R421, R433, R438, R439). -/

namespace Sys2Proof.Machine

theorem restarting_startRestart (s : State) (island : Nat) : (s.startRestart island).restarting island = true := by
  cases h : s.restarting island with
  | true =>
    rw [State.startRestart, if_pos h]
    exact h
  | false =>
    rw [State.restarting, (becalms_startRestart h).flt.2.2.2]
    simp [restartBegun]

theorem Around.fw {s t : State} (h : Around s t) : t.fw = s.fw := by
  obtain ⟨_, _, _, _, _, _, _, rfl⟩ := h
  rfl

section
variable {s : State} {q : Req}

theorem fwVerifyBody_none (ha : s.fw.activation = none) (hr : readFw s.fw.staged = none) : fwVerifyBody s q = .status s stBadField := by
  refine (if_neg (by simp [ha])).trans ?_
  rw [hr]

theorem fwVerifyBody_some {x : FwHead} (ha : s.fw.activation = none) (hr : readFw s.fw.staged = some x) : fwVerifyBody s q =
    if (!x.authentic s.fw.staged s.fw.steps) = true then .status s stAuth
    else if s.fw.running.imgVer.toNat < x.compat.toNat then .status s stBadField
    else .done (s.modFw fun f => { f with staging := 2, verified := some x.info }) stOk
      (packBits [(x.info.imgVer.toNat, 0), (x.info.rbIndex.toNat, 32)]) 0 := by
  refine (if_neg (by simp [ha])).trans ?_
  rw [hr]

theorem fwActivateBody_some {image : FwInfo} (ha : s.fw.activation = none) (hv : s.fw.verified = some image) : fwActivateBody s q =
    .goesOn ((s.modFw fun f => { f with activation := some { q := some q, image := image } }).activateCore (sequencerIsland 0)) := by
  refine (if_neg (by simp [ha])).trans ?_
  rw [hv]

theorem fwActivateBody_none (ha : s.fw.activation = none) (hv : s.fw.verified = none) : fwActivateBody s q = .status s stBadField := by
  refine (if_neg (by simp [ha])).trans ?_
  rw [hv]

end

/-- Settles O48: each command by its conditions in their order. -/
theorem firmwareCommands : Obligations.FirmwareCommands := by
  unfold Obligations.FirmwareCommands
  refine ⟨fun s q host off n h => ⟨fun ha hn => exec_status rfl h ((if_neg hn).trans (if_pos ha)), fun hn => exec_status rfl h (if_pos hn),
      fun ha hn hu => exec_status rfl h ((if_neg hn).trans ((if_neg (by simp [ha])).trans (if_pos (by simp [hu])))), fun ha hn hu => ?_⟩,
    fun s q h => ⟨fun ha => exec_status rfl h (if_pos ha), fun ha => ?_⟩,
    fun s q h => ⟨fun ha => exec_status rfl h (if_pos ha), fun ha hv => exec_status rfl h (fwActivateBody_none (s := s.start q) ha hv),
      fun image ha hv => ?_⟩, fun s q h => exec_done rfl h rfl⟩
  · refine exec_status rfl h ((if_neg hn).trans ((if_neg (by simp [ha])).trans ((if_neg (by simp [hu])).trans ?_)))
    rw [readHostOf_start]
  · cases hr : readFw s.fw.staged with
    | none => exact exec_status rfl h (fwVerifyBody_none (s := s.start q) ha hr)
    | some x =>
      have hbody := fwVerifyBody_some (s := s.start q) (q := q) ha hr
      dsimp only
      split_ifs with hx hv
      · exact exec_status rfl h (hbody.trans (if_pos (by simp [hx])))
      · exact exec_status rfl h (hbody.trans ((if_neg (by simp [hx])).trans (if_pos hv)))
      · exact exec_done rfl h (hbody.trans ((if_neg (by simp [hx])).trans (if_neg hv)))
  · refine ⟨_, exec_goesOn rfl h (fwActivateBody_some (s := s.start q) ha hv), (around_startRestart ..).fw, restarting_startRestart ..⟩

end Sys2Proof.Machine
end

section
/-! SUPPORT and the settlement of O56: the headbox's moves and their transactions (01 R16, 05 R132). -/

namespace Sys2Proof.Machine

/-! ### The issue of a move record -/

section
variable {s : State} {kind : MoveKind} {c p : Nat} {x : Partition} {r : Run} {m : MoveRec} {i : Nat}

/-- The device with a move record of a run noted as issued. -/
def issuedRec (s : State) (c p : Nat) (x : Partition) (i : Nat) : State :=
  s.modRun p fun z => { z with issued := z.issued ++ [(c - x.low, i)] }

theorem issuedRec_moveNo (s : State) (c p : Nat) (x : Partition) (i : Nat) : (issuedRec s c p x i).moveNo = s.moveNo :=
  State.modPtn_moveNo ..

/-- The move that a record asks for. -/
def moveOf (no : Nat) (u : State) (c p : Nat) (x : Partition) (r : Run) (m : MoveRec) (i : Nat) (src dst : Endpoint) : Move :=
  { id := no, cluster := c, ctx := r.ctx, ptn := p, record := m, index := i,
    bytes := u.moveLength p x.low r m src dst, lastBeat := Mv.lastBeat m }

/-- The poisoned nodes above a move's ends (16 R409). -/
def brokenNodes (u : State) (r : Run) (src dst : Endpoint) : List Nat := [src, dst].filterMap fun e => (u.endObj r e).bind (·.broken)

/-- The device with one more number of a move taken. -/
def numbered (u : State) : State := { u with moveNo := u.moveNo + 1 }

/-- A couch run's move: it carries the rows that it read (06 R147). -/
def withRows (u : State) (x : Partition) (r : Run) (src : Endpoint) (mv : Move) : Move :=
  { mv with couch := (u.spots x.low r src false 0 mv.bytes).map u.spotByte }

/-- What a record that may move does: its move is queued, a couch run with the rows that it read. -/
def queued (u : State) (kind : MoveKind) (x : Partition) (r : Run) (src : Endpoint) (mv : Move) : State :=
  if kind = .couch then { numbered u with moves := (numbered u).moves ++ [withRows (numbered u) x r src mv] }
  else if mv.bytes = 0 then numbered u
  else { numbered u with moves := (numbered u).moves ++ [mv] }

theorem queued_couch (u : State) (x : Partition) (r : Run) (src : Endpoint) (mv : Move) : queued u .couch x r src mv =
    { numbered u with moves := (numbered u).moves ++ [withRows (numbered u) x r src mv] } := by
  rw [queued, if_pos rfl]

theorem queued_bytes (u : State) (x : Partition) (r : Run) (src : Endpoint) {kind : MoveKind} {mv : Move} (hk : kind ≠ .couch)
    (hb : mv.bytes ≠ 0) : queued u kind x r src mv = { numbered u with moves := (numbered u).moves ++ [mv] } := by
  rw [queued, if_neg hk, if_neg hb]

theorem queued_empty (u : State) (x : Partition) (r : Run) (src : Endpoint) {kind : MoveKind} {mv : Move} (hk : kind ≠ .couch)
    (hb : mv.bytes = 0) : queued u kind x r src mv = numbered u := by
  rw [queued, if_neg hk, if_pos hb]

theorem issueMove_none (h : s.nextMove c = none) (kind : MoveKind) : s.issueMove kind c = s := by
  rw [State.issueMove, h]

theorem issueMove_other (h : s.nextMove c = some (p, x, r, m, i)) (hk : moveKind m ≠ kind) : s.issueMove kind c = s := by
  rw [State.issueMove, h]
  exact if_pos (by simpa using hk)

theorem issueMove_endless (h : s.nextMove c = some (p, x, r, m, i)) (hk : moveKind m = kind)
    (he : Mv.source m = none ∨ Mv.dest m = none) : s.issueMove kind c = issuedRec s c p x i := by
  have hk' : ¬ (moveKind m != kind) = true := by simp [hk]
  simp only [State.issueMove, h, if_neg hk']
  rcases he with he | he
  · simp only [he]
    rfl
  · simp only [he]
    cases Mv.source m <;> rfl

variable {src dst : Endpoint}

theorem issueMove_empty (h : s.nextMove c = some (p, x, r, m, i)) (hk : moveKind m = kind) (hs : Mv.source m = some src)
    (hd : Mv.dest m = some dst) (hb : Mv.bytes m = 0) : s.issueMove kind c = issuedRec s c p x i := by
  have hk' : ¬ (moveKind m != kind) = true := by simp [hk]
  simp only [State.issueMove, h, if_neg hk', hs, hd, if_pos hb]
  rfl

/-- A record of bytes below a poisoned node (16 R409). -/
theorem issueMove_broken {a : Nat} {l : List Nat} (h : s.nextMove c = some (p, x, r, m, i)) (hk : moveKind m = kind)
    (hs : Mv.source m = some src) (hd : Mv.dest m = some dst) (hb : Mv.bytes m ≠ 0)
    (hn : brokenNodes (issuedRec s c p x i) r src dst = a :: l) : s.issueMove kind c =
      (issuedRec s c p x i).raiseFault ((issuedRec s c p x i).poisonFault (moveOf s.moveNo (issuedRec s c p x i) c p x r m i src dst) (1, x.low, a)) := by
  unfold brokenNodes issuedRec at hn
  have hk' : ¬ (moveKind m != kind) = true := by simp [hk]
  simp only [State.issueMove, h, if_neg hk', hs, hd, if_neg hb, hn]
  rfl

/-- A coded copy of bytes whose header is poisoned (06 R149). -/
theorem issueMove_header {a : Nat × Nat × Nat} (h : s.nextMove c = some (p, x, r, m, i)) (hk : moveKind m = kind)
    (hs : Mv.source m = some src) (hd : Mv.dest m = some dst) (hb : Mv.bytes m ≠ 0)
    (hn : brokenNodes (issuedRec s c p x i) r src dst = []) (hc : isCodedCopy m = true)
    (hh : ((issuedRec s c p x i).codedLength x.low r src).2 = some a) : s.issueMove kind c =
      (issuedRec s c p x i).raiseFault ((issuedRec s c p x i).poisonFault (moveOf s.moveNo (issuedRec s c p x i) c p x r m i src dst) a) := by
  unfold brokenNodes at hn
  unfold issuedRec at hn hh
  have hk' : ¬ (moveKind m != kind) = true := by simp [hk]
  simp only [State.issueMove, h, if_neg hk', hs, hd, if_neg hb, hn, if_pos hc, hh]
  rfl

/-- A record of bytes that meets no poison (05 R132): it is forbidden, or queued. -/
theorem issueMove_whole (h : s.nextMove c = some (p, x, r, m, i)) (hk : moveKind m = kind)
    (hs : Mv.source m = some src) (hd : Mv.dest m = some dst) (hb : Mv.bytes m ≠ 0)
    (hn : brokenNodes (issuedRec s c p x i) r src dst = [])
    (hh : isCodedCopy m = true → ((issuedRec s c p x i).codedLength x.low r src).2 = none) :
    (∀ a, (issuedRec s c p x i).forbids p x.low r m src dst = some a → s.issueMove kind c =
      (issuedRec s c p x i).raiseFault ((issuedRec s c p x i).moveFault (moveOf s.moveNo (issuedRec s c p x i) c p x r m i src dst) 0x07 a)) ∧
    ((issuedRec s c p x i).forbids p x.low r m src dst = none → s.issueMove kind c =
      queued (issuedRec s c p x i) kind x r src (moveOf s.moveNo (issuedRec s c p x i) c p x r m i src dst)) := by
  have hcode : (if isCodedCopy m = true then ((issuedRec s c p x i).codedLength x.low r src).2 else none) = none := by
    split
    next hc => exact hh hc
    · rfl
  unfold brokenNodes at hn
  unfold issuedRec at hn hcode
  have hk' : ¬ (moveKind m != kind) = true := by simp [hk]
  refine ⟨fun a hf => ?_, fun hf => ?_⟩
  all_goals
    unfold issuedRec at hf
    simp only [State.issueMove, h, if_neg hk', hs, hd, if_neg hb, hn, hcode, hf]
    rw [← issuedRec_moveNo s c p x i]
    rfl

end

/-! ### Transactions -/

theorem hbTxnIssue_idle {s : State} {c : Fin 8} {id : Nat} (h : ∀ mv, s.move? c.val id = some mv → s.gated mv = true ∨
    s.halted mv = true ∨ mv.bytes ≤ 128 * mv.next ∨ 8192 ≤ s.outstanding c.val) : hbTxnIssueEffect c id s = s := by
  rw [hbTxnIssueEffect]
  cases hm : s.move? c.val id with
  | none => rfl
  | some mv =>
    refine if_pos ?_
    rcases h mv hm with h | h | h | h <;> simp [h]

theorem hbTxnIssue_goes {s : State} {c : Fin 8} {id : Nat} {mv : Move} (hm : s.move? c.val id = some mv) (hg : s.gated mv = false)
    (hh : s.halted mv = false) (hb : 128 * mv.next < mv.bytes) (ho : s.outstanding c.val < 8192) : hbTxnIssueEffect c id s =
      ((s.translateSpots c.val mv.ctx ((s.chunkSpots mv mv.next).1 ++ (s.chunkSpots mv mv.next).2)).modMove id fun m =>
        { m with next := m.next + 1, outstanding := m.outstanding ++ [(m.next, s.now)] }) := by
  rw [hbTxnIssueEffect, hm]
  exact if_neg (by simp [hg, hh, hb, ho])

theorem hbTxnRetire_idle {s : State} {c : Fin 8} {id chunk : Nat} {o w : ReadOutcome} (h : ∀ mv, s.move? c.val id = some mv →
    s.gated mv = true ∨ ∀ x ∈ mv.outstanding, x.1 ≠ chunk) : hbTxnRetireEffect c id chunk o w s = s := by
  rw [hbTxnRetireEffect]
  cases hm : s.move? c.val id with
  | none => rfl
  | some mv =>
    refine if_pos ?_
    rcases h mv hm with h | h
    · simp [h]
    · have hno : (mv.outstanding.any fun x => x.1 == chunk) = false := List.any_eq_false.mpr fun x hx => by simpa using h x hx
      simp [hno]

/-- A transaction that retires: its move with the transaction taken out. -/
def retiredMove (mv : Move) (chunk : Nat) : Move := { mv with outstanding := mv.outstanding.filter fun x => x.1 != chunk }

theorem hbTxnRetire_retires {s : State} {c : Fin 8} {id chunk : Nat} {o w : ReadOutcome} {mv : Move} {src dst : List Spot}
    (hm : s.move? c.val id = some mv) (hsp : s.chunkSpots mv chunk = (src, dst)) (hg : s.gated mv = false)
    (ho : ∃ x ∈ mv.outstanding, x.1 = chunk) :
    (s.halted mv = true → tier1Lines src ≠ [] →
      hbTxnRetireEffect c id chunk o w s = s.modMove id fun _ => retiredMove mv chunk) ∧
    (s.halted mv = false ∨ tier1Lines src = [] →
      let v := (s.modMove id fun _ => retiredMove mv chunk).meetsLines (tier1Lines src) true o
      (∀ a, v.spotPoison src = some a → hbTxnRetireEffect c id chunk o w s = v.raiseFault (v.poisonFault mv a)) ∧
      (v.spotPoison src = none → hbTxnRetireEffect c id chunk o w s =
        ((v.deliverChunk (retiredMove mv chunk) chunk src dst).meetsLines (tier1Lines dst) false w).settleMove
          (retiredMove mv chunk) w)) := by
  have hopen : ¬ (s.gated mv || !(mv.outstanding.any fun x => x.1 == chunk)) = true := by simpa [hg] using ho
  have hrow : hbTxnRetireEffect c id chunk o w s =
      if ((s.modMove id fun _ => retiredMove mv chunk).halted mv && !(tier1Lines src).isEmpty) = true then
        s.modMove id fun _ => retiredMove mv chunk
      else
        match ((s.modMove id fun _ => retiredMove mv chunk).meetsLines (tier1Lines src) true o).spotPoison src with
        | some a => ((s.modMove id fun _ => retiredMove mv chunk).meetsLines (tier1Lines src) true o).raiseFault
            (((s.modMove id fun _ => retiredMove mv chunk).meetsLines (tier1Lines src) true o).poisonFault mv a)
        | none => ((((s.modMove id fun _ => retiredMove mv chunk).meetsLines (tier1Lines src) true o).deliverChunk
            (retiredMove mv chunk) chunk src dst).meetsLines (tier1Lines dst) false w).settleMove (retiredMove mv chunk) w := by
    simp only [hbTxnRetireEffect, hm, if_neg hopen, hsp]
    rfl
  rw [hrow, show (s.modMove id fun _ => retiredMove mv chunk).halted mv = s.halted mv from rfl]
  refine ⟨fun hh hr => if_pos (by simpa [hh] using hr), fun hr => ?_⟩
  have hgo : ¬ (s.halted mv && !(tier1Lines src).isEmpty) = true := by
    rcases hr with h | h <;> simp [h]
  intro v
  refine ⟨fun a hp => (if_neg hgo).trans ?_, fun hp => (if_neg hgo).trans ?_⟩
  · rw [hp]
  · rw [hp]

/-- Settles O56: the issue of a record by what stops it, and a transaction's issue and return. -/
theorem headboxMoves : Obligations.HeadboxMoves := by
  unfold Obligations.HeadboxMoves
  refine ⟨fun s c => ⟨rfl, rfl, rfl, rfl, rfl, rfl⟩, fun s kind c h => issueMove_none h kind, fun s kind c p x r m i h => ?_,
    fun s c id => ⟨fun h => exec_effect rfl (hbTxnIssue_idle h), fun mv hm hg hh hb ho => exec_effect rfl (hbTxnIssue_goes hm hg hh hb ho)⟩,
    fun s c id chunk o w => ⟨fun h => exec_effect rfl (hbTxnRetire_idle h), fun mv hm hg ho => ?_⟩⟩
  · intro u
    refine ⟨issueMove_other h, issueMove_endless h, fun src dst hk hs hd => ?_⟩
    intro mv nodes
    refine ⟨issueMove_empty h hk hs hd, fun a l hb hn => issueMove_broken h hk hs hd hb hn,
      fun a hb hn hc hh => issueMove_header h hk hs hd hb hn hc hh, fun hb hn hh => ?_⟩
    obtain ⟨hforbid, hqueue⟩ := issueMove_whole h hk hs hd hb hn hh
    refine ⟨hforbid, fun hf => ?_⟩
    intro t
    refine ⟨fun hc => ?_, fun hc hm => (hqueue hf).trans (queued_bytes u x r src (mv := moveOf s.moveNo u c p x r m i src dst) hc hm),
      fun hc hm => (hqueue hf).trans (queued_empty u x r src (mv := moveOf s.moveNo u c p x r m i src dst) hc hm)⟩
    subst hc
    exact (hqueue hf).trans (queued_couch ..)
  · intro mv' t sp reads v
    obtain ⟨hdrop, hgo⟩ := hbTxnRetire_retires (o := o) (w := w) hm rfl hg ho
    exact ⟨fun hh hr => exec_effect rfl (hdrop hh hr), fun hr a hp => exec_effect rfl ((hgo hr).1 a hp),
      fun hr hp => exec_effect rfl ((hgo hr).2 hp)⟩

end Sys2Proof.Machine
end

section
/-! SUPPORT and the settlement of O54: a tile store reads back what is written, FILL's region, and the exact INT32 sum (02
R48, 03 R78, 14 R355). -/

namespace Sys2Proof.Machine

/-! ### Keys of bytes and lines -/

theorem storeBytes_space {t sp b : Nat} (h : b < storeBytes t sp) : sp < 4 ∧ b < 1572864 := by
  by_contra hc
  unfold storeBytes at h
  split at h <;> split at h <;> omega

theorem lineBytes_bounds (t sp : Nat) : 256 ≤ lineBytes t sp ∧ lineBytes t sp ≤ 512 := by
  unfold lineBytes
  split <;> omega

theorem storeKey_inj {c t sp b c' t' sp' b' : Nat} (ht : t < 14) (hb : b < storeBytes t sp) (ht' : t' < 14) (hb' : b' < storeBytes t' sp')
    (h : storeKey c' t' sp' b' = storeKey c t sp b) : (c', t', sp', b') = (c, t, sp, b) := by
  obtain ⟨hs, hb⟩ := storeBytes_space hb
  obtain ⟨hs', hb'⟩ := storeBytes_space hb'
  unfold storeKey at h
  have h1 : c' = c := by omega
  have h2 : t' = t := by omega
  have h3 : sp' = sp := by omega
  have h4 : b' = b := by omega
  rw [h1, h2, h3, h4]

theorem line_lt {b t sp : Nat} (hb : b < 1572864) : b / lineBytes t sp < 8192 := by
  obtain ⟨hl, -⟩ := lineBytes_bounds t sp
  exact Nat.div_lt_of_lt_mul (by nlinarith)

theorem storeLine_store {c t sp b c' t' sp' b' : Nat} (ht : t < 14) (hb : b < storeBytes t sp) (ht' : t' < 14)
    (hb' : b' < storeBytes t' sp') (h : storeLine c' t' sp' b' = storeLine c t sp b) :
    c' = c ∧ t' = t ∧ sp' = sp ∧ b' / lineBytes t sp = b / lineBytes t sp := by
  obtain ⟨hs, hb⟩ := storeBytes_space hb
  obtain ⟨hs', hb'⟩ := storeBytes_space hb'
  have hl := line_lt (t := t) (sp := sp) hb
  have hl' := line_lt (t := t') (sp := sp') hb'
  unfold storeLine at h
  generalize b / lineBytes t sp = l at *
  generalize hq : b' / lineBytes t' sp' = l' at *
  have h1 : c' = c := by omega
  have h2 : t' = t := by omega
  have h3 : sp' = sp := by omega
  subst h1 h2 h3
  exact ⟨rfl, rfl, rfl, by omega⟩

/-- The keys of a line's bytes are those of its store's bytes with the line's number. -/
theorem key_in_line {c t sp b c' t' sp' b' : Nat} (ht : t < 14) (hb : b < storeBytes t sp) (ht' : t' < 14) (hb' : b' < storeBytes t' sp') :
    (storeKey c t sp (b / lineBytes t sp * lineBytes t sp) ≤ storeKey c' t' sp' b' ∧
      storeKey c' t' sp' b' < storeKey c t sp (b / lineBytes t sp * lineBytes t sp) + lineBytes t sp) ↔
    storeLine c' t' sp' b' = storeLine c t sp b := by
  obtain ⟨hs, hlt⟩ := storeBytes_space hb
  obtain ⟨hs', hlt'⟩ := storeBytes_space hb'
  obtain ⟨hl, hu⟩ := lineBytes_bounds t sp
  have hle := Nat.div_mul_le_self b (lineBytes t sp)
  constructor
  · rintro ⟨h1, h2⟩
    unfold storeKey at h1 h2
    have hc : c' = c := by omega
    have htt : t' = t := by omega
    have hsp : sp' = sp := by omega
    subst hc htt hsp
    have hdiv : b' / lineBytes t' sp' = b / lineBytes t' sp' := by
      refine Nat.div_eq_of_lt_le (by omega) ?_
      rw [Nat.succ_mul]
      omega
    rw [storeLine, storeLine, hdiv]
  · intro h
    obtain ⟨rfl, rfl, rfl, hd⟩ := storeLine_store ht hb ht' hb' h
    have h1 := Nat.div_mul_le_self b' (lineBytes t' sp')
    have h2 := Nat.lt_div_mul_add (a := b') (b := lineBytes t' sp') (by omega)
    rw [hd] at h1 h2
    unfold storeKey
    omega

/-! ### Clear bits -/

theorem unclear_any (line x : Nat) (rs : List (Nat × Nat)) :
    ((unclear line rs).any fun (lo, hi) => lo ≤ x && x < hi) = (decide (x ≠ line) && rs.any fun (lo, hi) => lo ≤ x && x < hi) := by
  induction rs with
  | nil => simp [unclear]
  | cons r rs ih =>
    obtain ⟨lo, hi⟩ := r
    unfold unclear at ih ⊢
    rw [List.flatMap_cons, List.any_append, ih, List.any_cons]
    have hone : ((if (decide (lo ≤ line) && decide (line < hi)) = true then
        (if lo < line then [(lo, line)] else []) ++ (if line + 1 < hi then [(line + 1, hi)] else [])
        else [(lo, hi)]).any fun (lo, hi) => decide (lo ≤ x) && decide (x < hi)) =
        (decide (x ≠ line) && (decide (lo ≤ x) && decide (x < hi))) := by
      rw [Bool.eq_iff_iff]
      split_ifs <;> simp at * <;> omega
    rw [hone, Bool.and_or_distrib_left]

/-! ### A byte written -/

section
variable {st : Stores} {tag : Option CtxNo} {c t sp b : Nat} {v : Byte}

theorem writeByte_open (h : st.isCleared (storeLine c t sp b) = false) :
    (st.writeByte tag c t sp b v).bytes = Mem.put st.bytes (storeKey c t sp b) v ∧
      (st.writeByte tag c t sp b v).cleared = st.cleared := by
  unfold Stores.writeByte
  simp only [h]
  exact ⟨rfl, rfl⟩

theorem writeByte_cleared (h : st.isCleared (storeLine c t sp b) = true) :
    (st.writeByte tag c t sp b v).bytes = Mem.put (Mem.clear st.bytes (storeKey c t sp (b / lineBytes t sp * lineBytes t sp))
        (storeKey c t sp (b / lineBytes t sp * lineBytes t sp) + lineBytes t sp)) (storeKey c t sp b) v ∧
      (st.writeByte tag c t sp b v).cleared = unclear (storeLine c t sp b) st.cleared := by
  unfold Stores.writeByte
  simp only [h]
  exact ⟨rfl, rfl⟩

/-- A byte written reads back. -/
theorem readByte_writeByte (hwf : Mem.wf st.bytes = true) : (st.writeByte tag c t sp b v).readByte c t sp b = v := by
  unfold Stores.readByte Stores.isCleared
  cases h : st.isCleared (storeLine c t sp b) with
  | false =>
    obtain ⟨hbytes, hcl⟩ := writeByte_open (tag := tag) (v := v) h
    rw [hbytes, hcl, if_neg (by exact Bool.eq_false_iff.mp h), Mem.get_put_same _ _ hwf]
  | true =>
    obtain ⟨hbytes, hcl⟩ := writeByte_cleared (tag := tag) (v := v) h
    rw [hbytes, hcl, unclear_any, if_neg (by simp), Mem.get_put_same _ _ (Mem.clear_wf _ _ hwf)]

/-- No other byte of any store changes, whether or not the line was cleared (14 R355). -/
theorem readByte_writeByte_other {c' t' sp' b' : Nat} (hwf : Mem.wf st.bytes = true) (ht : t < 14) (hb : b < storeBytes t sp)
    (ht' : t' < 14) (hb' : b' < storeBytes t' sp') (hne : (c', t', sp', b') ≠ (c, t, sp, b)) :
    (st.writeByte tag c t sp b v).readByte c' t' sp' b' = st.readByte c' t' sp' b' := by
  have hkey : storeKey c' t' sp' b' ≠ storeKey c t sp b := fun h => hne (storeKey_inj ht hb ht' hb' h)
  unfold Stores.readByte Stores.isCleared
  cases h : st.isCleared (storeLine c t sp b) with
  | false =>
    obtain ⟨hbytes, hcl⟩ := writeByte_open (tag := tag) (v := v) h
    rw [hbytes, hcl, Mem.get_put_other _ hwf hkey]
  | true =>
    obtain ⟨hbytes, hcl⟩ := writeByte_cleared (tag := tag) (v := v) h
    rw [hbytes, hcl, unclear_any, Mem.get_put_other _ (Mem.clear_wf _ _ hwf) hkey]
    by_cases hline : storeLine c' t' sp' b' = storeLine c t sp b
    · rw [Mem.get_clear_in ((key_in_line ht hb ht' hb').mpr hline), hline, ite_self]
      exact (if_pos h).symm
    · rw [Mem.get_clear_out (by have := mt (key_in_line (c := c) (c' := c') ht hb ht' hb').mp hline; omega),
        decide_eq_true hline, Bool.true_and]

end

/-! ### Bytes written -/

theorem writeByte_bytes_wf {st : Stores} (tag : Option CtxNo) (c t sp b : Nat) (v : Byte) (h : Mem.wf st.bytes = true) :
    Mem.wf (st.writeByte tag c t sp b v).bytes = true := by
  unfold Stores.writeByte
  dsimp only
  split
  · exact Mem.put_wf _ _ (Mem.clear_wf _ _ h)
  · exact Mem.put_wf _ _ h

/-- Byte i of what is written at b reads back; the bytes below b keep what they hold. -/
theorem readByte_write {tag : Option CtxNo} {c t sp : Nat} (ht : t < 14) (vs : List Byte) {st : Stores} {b : Nat}
    (hwf : Mem.wf st.bytes = true) (hb : b + vs.length ≤ storeBytes t sp) :
    (∀ j < b, j < storeBytes t sp → (st.write tag c t sp b vs).readByte c t sp j = st.readByte c t sp j) ∧
      ∀ i, (h : i < vs.length) → (st.write tag c t sp b vs).readByte c t sp (b + i) = vs[i] := by
  induction vs generalizing st b with
  | nil => exact ⟨fun j _ _ => rfl, fun i h => absurd h (Nat.not_lt_zero i)⟩
  | cons v vs ih =>
    rw [List.length_cons] at hb
    obtain ⟨hbelow, hsame⟩ := ih (st := st.writeByte tag c t sp b v) (b := b + 1) (writeByte_bytes_wf tag c t sp b v hwf) (by omega)
    refine ⟨fun j hj hjs => (hbelow j (by omega) hjs).trans ?_, fun i hi => ?_⟩
    · exact readByte_writeByte_other hwf ht (by omega) ht hjs (by simp; omega)
    · cases i with
      | zero => exact (hbelow b (by omega) (by omega)).trans (readByte_writeByte hwf)
      | succ i =>
        have := hsame i (by simpa using hi)
        rw [show b + 1 + i = b + (i + 1) by omega] at this
        exact this

theorem read_eq_map (st : Stores) (c t sp b n : Nat) : st.read c t sp b n = (List.range n).map fun i => st.readByte c t sp (b + i) := by
  induction n generalizing b with
  | zero => rfl
  | succ n ih =>
    rw [Stores.read, ih, List.range_succ_eq_map, List.map_cons, List.map_map]
    congr 1
    refine List.map_congr_left fun i _ => ?_
    simp only [Function.comp_apply]
    congr 1
    omega

/-! ### FILL -/

/-- The bytes of FILL's region: its word in every word. -/
def fillBytes (w : Work) : List Byte := (List.range (Op.extM w.r)).flatMap fun _ => Bits.toBytes 4 (Op.aStride w.r)

theorem flatMap_const_length {α : Type} (n : Nat) (xs : List α) : ((List.range n).flatMap fun _ => xs).length = n * xs.length := by
  simp [List.length_flatMap]

theorem flatMap_const_get {α : Type} (n : Nat) (xs : List α) {i j : Nat} (hi : i < n) (hj : j < xs.length) (d : α) :
    ((List.range n).flatMap fun _ => xs).getD (xs.length * i + j) d = xs.getD j d := by
  induction n generalizing i with
  | zero => omega
  | succ n ih =>
    rw [List.range_succ_eq_map, List.flatMap_cons, List.flatMap_map]
    cases i with
    | zero =>
      rw [Nat.mul_zero, Nat.zero_add, List.getD_append _ _ _ _ hj]
    | succ i =>
      rw [List.getD_append_right _ _ _ _ (by rw [Nat.mul_succ]; omega), ← ih (i := i) (by omega)]
      congr 1
      rw [Nat.mul_succ]
      omega

theorem fillBytes_length (w : Work) : (fillBytes w).length = 4 * Op.extM w.r := by
  rw [fillBytes, flatMap_const_length, toBytes_length, Nat.mul_comm]

theorem fillBytes_getD (w : Work) {j : Nat} (h : j < 4 * Op.extM w.r) :
    (fillBytes w).getD j 0 = (Bits.toBytes 4 (Op.aStride w.r)).getD (j % 4) 0 := by
  have := flatMap_const_get (Op.extM w.r) (Bits.toBytes 4 (Op.aStride w.r)) (i := j / 4) (j := j % 4) (by omega)
    (by rw [toBytes_length]; omega) 0
  rwa [toBytes_length, Nat.div_add_mod] at this

/-- FILL's region holds its pattern in every word, where it holds no correction vector (03 R78). -/
theorem fillWords_word {w : Work} {a : Acted} (hwf : Mem.wf a.stores.bytes = true) (ht : w.t < 14)
    (hb : Op.cBase w.r * 4 + 4 * Op.extM w.r ≤ storeBytes w.t (Op.cSpace w.r))
    (hv : ∀ v ∈ w.img.corrections w.k w.t, Op.cSpace w.r = 3 → Op.cBase w.r * 4 + 4 * Op.extM w.r ≤ v.1 ∨ v.2 ≤ Op.cBase w.r * 4)
    {i : Nat} (hi : i < Op.extM w.r) :
    (w.fillWords a).stores.read w.c w.t (Op.cSpace w.r) (Op.cBase w.r * 4 + 4 * i) 4 = Bits.toBytes 4 (Op.aStride w.r) := by
  have hput : w.fillWords a = w.put a (Op.cSpace w.r) (Op.cBase w.r * 4) (fillBytes w) := by
    refine if_pos (List.all_eq_true.mpr fun v hmem => ?_)
    have hlen : ((List.range (Op.extM w.r)).flatMap fun _ => Bits.toBytes 4 (Op.aStride w.r)).length = 4 * Op.extM w.r :=
      fillBytes_length w
    split at hmem
    next h3 => simpa [hlen] using hv v hmem h3
    · simp at hmem
  obtain ⟨-, hsame⟩ := readByte_write (tag := some w.ctx) (c := w.c) ht (fillBytes w) hwf (by rw [fillBytes_length]; exact hb)
  have hword := toBytes_length 4 (Op.aStride w.r)
  rw [hput, read_eq_map]
  refine List.ext_getElem (by simp [hword]) fun j hj _ => ?_
  have hj4 : j < 4 := by simpa using hj
  have hin : 4 * i + j < (fillBytes w).length := by rw [fillBytes_length]; omega
  have := hsame (4 * i + j) hin
  rw [← List.getD_eq_getElem _ 0 hin, fillBytes_getD w (by omega), show (4 * i + j) % 4 = j by omega,
    List.getD_eq_getElem _ 0 (by rw [hword]; exact hj4)] at this
  rw [List.getElem_map, List.getElem_range, Nat.add_assoc]
  exact this

/-! ### FILL over a correction vector -/

/-- One byte of FILL where its region holds correction vectors: loaded for the next beat inside them, written outside (03
R78). -/
def fillByte (w : Work) (s : Acted) (v : Byte) (i : Nat) : Acted :=
  if (w.img.corrections w.k w.t).any fun (lo, hi) => lo ≤ Op.cBase w.r * 4 + i && Op.cBase w.r * 4 + i < hi then
    s.load 4 (tileNo w.c w.t) (Op.cBase w.r * 4 + i) [v] (some w.ctx)
  else w.put s (Op.cSpace w.r) (Op.cBase w.r * 4 + i) [v]

theorem Stores.write_loads (st : Stores) (tag : Option CtxNo) (c t sp b : Nat) (bs : List Byte) :
    (st.write tag c t sp b bs).loads = st.loads := by
  induction bs generalizing st b with
  | nil => rfl
  | cons v vs ih => exact ih (st.writeByte tag c t sp b v) (b + 1)

theorem fillByte_loads (w : Work) (s : Acted) (v : Byte) (i : Nat) {l : PendingLoad} (h : l ∈ s.stores.loads) :
    l ∈ (fillByte w s v i).stores.loads := by
  unfold fillByte
  split
  · exact List.mem_append_left _ h
  · exact (Stores.write_loads ..).symm ▸ h

theorem foldl_fillByte_keeps (w : Work) (vs : List (Byte × Nat)) (s : Acted) {l : PendingLoad} (h : l ∈ s.stores.loads) :
    l ∈ (vs.foldl (fun s (v, i) => fillByte w s v i) s).stores.loads := by
  induction vs generalizing s with
  | nil => exact h
  | cons v vs ih => exact ih _ (fillByte_loads w s v.1 v.2 h)

theorem foldl_fillByte_loads (w : Work) {vs : List (Byte × Nat)} {s : Acted} {v : Byte} {i : Nat} (h : (v, i) ∈ vs)
    (hin : ((w.img.corrections w.k w.t).any fun (lo, hi) => lo ≤ Op.cBase w.r * 4 + i && Op.cBase w.r * 4 + i < hi) = true) :
    ∃ l ∈ (vs.foldl (fun s (v, i) => fillByte w s v i) s).stores.loads, l.store = 4 ∧ l.key = tileNo w.c w.t ∧
      l.first = Op.cBase w.r * 4 + i ∧ l.bytes = [v] := by
  induction vs generalizing s with
  | nil => simp at h
  | cons x vs ih =>
    rcases List.mem_cons.mp h with rfl | h
    · refine ⟨⟨4, tileNo w.c w.t, Op.cBase w.r * 4 + i, [v], some w.ctx⟩, foldl_fillByte_keeps w vs _ ?_, rfl, rfl, rfl, rfl⟩
      have hload : fillByte w s v i = s.load 4 (tileNo w.c w.t) (Op.cBase w.r * 4 + i) [v] (some w.ctx) := if_pos hin
      change _ ∈ (fillByte w s v i).stores.loads
      rw [hload]
      exact List.mem_append_right _ (List.mem_singleton_self _)
    · exact ih h

/-- A correction vector in FILL's region shows its pattern from the next beat on (03 R78). -/
theorem fillWords_loads {w : Work} (a : Acted) {v : Nat × Nat} {j : Nat} (hs : Op.cSpace w.r = 3) (hv : v ∈ w.img.corrections w.k w.t)
    (hj : j < 4 * Op.extM w.r) (h1 : v.1 ≤ Op.cBase w.r * 4 + j) (h2 : Op.cBase w.r * 4 + j < v.2) :
    ∃ l ∈ (w.fillWords a).stores.loads, l.store = 4 ∧ l.key = tileNo w.c w.t ∧ l.first = Op.cBase w.r * 4 + j ∧
      l.bytes = [(Bits.toBytes 4 (Op.aStride w.r)).getD (j % 4) 0] := by
  have hlen := fillBytes_length w
  have hfold : w.fillWords a = (fillBytes w).zipIdx.foldl (fun s (v, i) => fillByte w s v i) a := by
    rw [Work.fillWords, Work.putLoaded, if_pos hs]
    refine if_neg fun hall => ?_
    have := List.all_eq_true.mp hall v hv
    change (decide (Op.cBase w.r * 4 + (fillBytes w).length ≤ v.1) || decide (v.2 ≤ Op.cBase w.r * 4)) = true at this
    simp [hlen] at this
    omega
  rw [hfold, ← fillBytes_getD w hj]
  refine foldl_fillByte_loads w ?_ (List.any_eq_true.mpr ⟨v, hv, by simp [h1, h2]⟩)
  rw [List.getD_eq_getElem _ 0 (by rw [hlen]; exact hj)]
  exact List.mk_mem_zipIdx_iff_getElem?.mpr (List.getElem?_eq_getElem _)

/-! ### Sums -/

/-- An accumulation whose partial sums stay within 32 bits is exact (02 R48). -/
theorem sumInt_exact {p : Nat → Int} {n : Nat}
    (h : ∀ m, m ≤ n → -2 ^ 31 < ((List.range m).map p).sum ∧ ((List.range m).map p).sum < 2 ^ 31 - 1) :
    sumInt p n 0 = (((List.range n).map p).sum, 0) := by
  induction n with
  | zero => rfl
  | succ n ih =>
    have hprev := ih fun m hm => h m (by omega)
    obtain ⟨hlo, hhi⟩ := h n (by omega)
    obtain ⟨hlo', hhi'⟩ := h (n + 1) (by omega)
    unfold sumInt at hprev ⊢
    rw [List.range_succ, List.map_append, List.sum_append, List.map_singleton, List.sum_singleton] at hlo' hhi' ⊢
    rw [List.foldl_append, hprev, List.foldl_cons, List.foldl_nil, int32Add]
    generalize ((List.range n).map p).sum = z at *
    dsimp only
    rw [if_neg (by unfold int32Max int32Min; omega), if_neg (by unfold int32Max; omega), if_neg (by unfold int32Min; omega)]

/-- Settles O54. -/
theorem storesAndSums : Obligations.StoresAndSums := by
  unfold Obligations.StoresAndSums
  exact ⟨fun st tag c t sp b v hwf hc ht hb => ⟨readByte_writeByte hwf, fun c' t' sp' b' hc' ht' hb' hne =>
      readByte_writeByte_other hwf ht hb ht' hb' hne⟩,
    fun w a hwf hc ht hb hv i hi => fillWords_word hwf ht hb hv hi,
    fun w a v j hs hv hj h1 h2 => fillWords_loads a hs hv hj h1 h2, fun p n h => sumInt_exact h⟩

end Sys2Proof.Machine
end

section
/-! SUPPORT. What the keepers' work on pages, objects, partitions and commands leaves: one relation, and one lemma per
function (07 R157 to R170, 09 R205 to R236). -/

namespace Sys2Proof.Machine

/-- The state t is s with what the keepers and the completion of commands change: free values, hosts, partitions, contexts,
commands, objects, images, migrations, moves, caches, tiers, poison, sequences, handles, interrupts and the field core. -/
def Kept (s t : State) : Prop := ∃ fr hs ps cs ac ob im mi mv ca t1 un po pr se ge ha la ints ids fi, t = { s with
  free := fr, hosts := hs, ptns := ps, ctxs := cs, accepted := ac, objs := ob, images := im, migrations := mi, moves := mv,
  caches := ca, tier1 := t1, undef := un, poison := po, poisonReports := pr, seqs := se, gens := ge, handles := ha, layer := la,
  interrupts := ints, idleSince := ids, field := fi }

theorem Kept.refl (s : State) : Kept s s := ⟨_, _, _, _, _, _, _, _, _, _, _, _, _, _, _, _, _, _, _, _, _, rfl⟩

theorem Kept.trans {s t u : State} (h : Kept s t) (k : Kept t u) : Kept s u := by
  obtain ⟨_, _, _, _, _, _, _, _, _, _, _, _, _, _, _, _, _, _, _, _, _, rfl⟩ := h
  obtain ⟨_, _, _, _, _, _, _, _, _, _, _, _, _, _, _, _, _, _, _, _, _, rfl⟩ := k
  exact ⟨_, _, _, _, _, _, _, _, _, _, _, _, _, _, _, _, _, _, _, _, _, rfl⟩

theorem kept_foldl {α : Type} {f : State → α → State} (h : ∀ s a, Kept s (f s a)) (as : List α) (s : State) : Kept s (as.foldl f s) := by
  induction as generalizing s with
  | nil => exact .refl s
  | cons a as ih => exact (h s a).trans (ih _)

theorem Kept.leaves {s t : State} (h : Kept s t) : t.weights = s.weights ∧ t.awaited = s.awaited ∧ t.serving = s.serving ∧
    t.library = s.library ∧ t.now = s.now ∧ t.flash = s.flash ∧ t.felt = s.felt ∧ t.fw = s.fw ∧ t.flt = s.flt := by
  obtain ⟨_, _, _, _, _, _, _, _, _, _, _, _, _, _, _, _, _, _, _, _, _, rfl⟩ := h
  exact ⟨rfl, rfl, rfl, rfl, rfl, rfl, rfl, rfl, rfl⟩

theorem Told.kept {s t : State} (h : Told s t) : Kept s t := by
  obtain ⟨hs, cs, ps, is, n, rfl⟩ := h
  exact ⟨_, _, _, _, _, _, _, _, _, _, _, _, _, _, _, _, _, _, _, _, _, rfl⟩

/-! ### The fields -/

theorem kept_takeFree (s : State) : Kept s s.takeFree.2 := ⟨_, _, _, _, _, _, _, _, _, _, _, _, _, _, _, _, _, _, _, _, _, rfl⟩

theorem kept_modCtx (s : State) (c : CtxNo) (f : Context → Context) : Kept s (s.modCtx c f) :=
  ⟨_, _, _, _, _, _, _, _, _, _, _, _, _, _, _, _, _, _, _, _, _, rfl⟩

theorem kept_count (s : State) (c : CtxNo) (i k : Nat) : Kept s (s.count c i k) := kept_modCtx ..

theorem kept_modPtn (s : State) (p : Nat) (f : Partition → Partition) : Kept s (s.modPtn p f) := (told_modPtn ..).kept

theorem kept_event (s : State) (r : Ring) (code a0 a1 a2 : Nat) : Kept s (s.event r code a0 a1 a2) := (told_event ..).kept

theorem kept_modSeq (s : State) (i : Nat) (f : Seq → Seq) : Kept s (s.modSeq i f) :=
  ⟨_, _, _, _, _, _, _, _, _, _, _, _, _, _, _, _, _, _, _, _, _, rfl⟩

theorem kept_modObj (s : State) (c : CtxNo) (b : BitVec 42) (f : Obj → Obj) : Kept s (s.modObj c b f) :=
  ⟨_, _, _, _, _, _, _, _, _, _, _, _, _, _, _, _, _, _, _, _, _, rfl⟩

theorem kept_cancelMigrations (s : State) (c : CtxNo) (b : BitVec 42) (p : Migration → Bool) : Kept s (s.cancelMigrations c b p) :=
  ⟨_, _, _, _, _, _, _, _, _, _, _, _, _, _, _, _, _, _, _, _, _, rfl⟩

theorem kept_undefineUnits (s : State) (tier cluster unit k : Nat) : Kept s (s.undefineUnits tier cluster unit k) :=
  ⟨_, _, _, _, _, _, _, _, _, _, _, _, _, _, _, _, _, _, _, _, _, rfl⟩

theorem kept_invalidate (s : State) (p space : Nat) (hit : Nat → Bool) : Kept s (s.invalidate p space hit) := by
  unfold State.invalidate
  split
  · exact .refl s
  · exact ⟨_, _, _, _, _, _, _, _, _, _, _, _, _, _, _, _, _, _, _, _, _, rfl⟩

theorem kept_writeTier (s : State) (tier c off : Nat) (bs : List Byte) : Kept s (s.writeTier tier c off bs) := by
  obtain ⟨_, _, _, h, -, -⟩ := s.writeTier_shape tier c off bs
  rw [h]
  exact ⟨_, _, _, _, _, _, _, _, _, _, _, _, _, _, _, _, _, _, _, _, _, rfl⟩

theorem kept_zeroTier (s : State) (tier c off n : Nat) : Kept s (s.zeroTier tier c off n) := by
  unfold State.zeroTier
  dsimp only
  split <;> exact ⟨_, _, _, _, _, _, _, _, _, _, _, _, _, _, _, _, _, _, _, _, _, rfl⟩

theorem kept_writeObj (s : State) (o : Obj) (off : Nat) (bs : List Byte) : Kept s (s.writeObj o off bs) := by
  obtain ⟨_, _, _, h, -, -⟩ := s.writeObj_shape o off bs
  rw [h]
  exact ⟨_, _, _, _, _, _, _, _, _, _, _, _, _, _, _, _, _, _, _, _, _, rfl⟩

theorem kept_finish (s : State) (q : Req) (st r0 r1 : Nat) : Kept s (s.finish q st r0 r1) := by
  obtain ⟨_, _, _, _, _, _, _, _, h, -, -⟩ := s.finish_shape q st r0 r1
  rw [h]
  exact ⟨_, _, _, _, _, _, _, _, _, _, _, _, _, _, _, _, _, _, _, _, _, rfl⟩

theorem kept_countTiers (s : State) (o : Obj) (off n : Nat) (write : Bool) : Kept s (s.countTiers o off n write) := by
  refine kept_foldl (fun st a => ?_) _ s
  dsimp only
  split
  · exact kept_count ..
  · exact .refl st

/-! ### Pages -/

theorem kept_queueRecompute (s : State) (index : Nat) : Kept s (s.queueRecompute index) := by
  unfold State.queueRecompute
  split
  · exact .refl s
  · refine (kept_modPtn ..).trans (kept_foldl (fun st j => ?_) _ _)
    dsimp only
    split
    · exact kept_modPtn ..
    · exact .refl st

theorem kept_loseIfGone (s : State) (index : Nat) : Kept s (s.loseIfGone index) := by
  unfold State.loseIfGone
  split
  · exact .refl s
  · split
    · exact ((kept_modSeq ..).trans (kept_modPtn ..)).trans (kept_event ..)
    · exact .refl s

theorem kept_dropOwn (s : State) (index : Nat) (nos : List Nat) : Kept s (s.dropOwn index nos) := by
  unfold State.dropOwn
  split
  · exact .refl s
  · dsimp only
    split
    · exact .refl s
    · exact ((((kept_modSeq ..).trans (kept_invalidate ..)).trans (kept_count ..)).trans (kept_event ..)).trans
        ((kept_queueRecompute ..).trans (kept_loseIfGone ..))

theorem kept_quotaClear (s : State) (p : Nat) : Kept s (s.quotaClear p) := by
  unfold State.quotaClear
  split
  · exact .refl s
  · dsimp only
    refine Kept.trans ?_ (kept_foldl (fun st c => ?_) _ _)
    · split
      · exact ((kept_modPtn ..).trans (kept_modPtn ..)).trans (kept_event ..)
      · exact kept_modPtn ..
    · split
      · exact (kept_modCtx ..).trans (kept_event ..)
      · exact .refl st

theorem kept_handles (s : State) (hs : List Handle) : Kept s { s with handles := hs } :=
  ⟨_, _, _, _, _, _, _, _, _, _, _, _, _, _, _, _, _, _, _, _, _, rfl⟩

theorem kept_dropPages (s : State) (index : Nat) (nos : List Nat) : Kept s (s.dropPages index nos) := by
  unfold State.dropPages
  split
  · exact .refl s
  · dsimp only
    refine Kept.trans ?_ (kept_quotaClear ..)
    have hothers (ys : List Seq) (hit : Page → Bool) := (kept_dropOwn s index nos).trans
      (kept_foldl (fun st (y : Seq) => kept_dropOwn st y.index ((y.pages.filter hit).map (·.no))) ys _)
    split
    · exact hothers ..
    · exact (hothers ..).trans (kept_handles ..)

theorem kept_poolRoom (s : State) (p cluster k align fuel : Nat) : Kept s (s.poolRoom p cluster k align fuel).1 := by
  induction fuel generalizing s with
  | zero => exact .refl s
  | succ fuel ih =>
    unfold State.poolRoom
    split
    · exact .refl s
    · split
      · exact .refl s
      · exact (kept_dropPages ..).trans (ih _)

theorem kept_alloc (s : State) (p : Nat) (c : Option CtxNo) (tier cluster k align : Nat) : Kept s (s.alloc p c tier cluster k align).1 := by
  unfold State.alloc
  split_ifs
  · exact .refl s
  · exact kept_poolRoom ..
  · exact .refl s
  · exact .refl s

theorem kept_layNodes (s : State) (p : Nat) : Kept s (s.layNodes p) := by
  have hadd (f : State × List TreeNode → Nat × Nat × Nat → List TreeNode) (ns : List (Nat × Nat × Nat)) (acc : State × List TreeNode) :
      Kept acc.1 (ns.foldl (fun acc n => (acc.1.takeFree.2, f acc n)) acc).1 := by
    induction ns generalizing acc with
    | nil => exact .refl _
    | cons n ns ih => exact (kept_takeFree acc.1).trans (ih _)
  unfold State.layNodes
  split
  · exact .refl s
  · exact (hadd _ _ _).trans (kept_modPtn ..)

theorem kept_putLogs (x : Seq) (vs : List Nat) (s : State) (t : Nat) : Kept s (s.putLogs x t vs) := by
  induction vs generalizing s t with
  | nil => exact .refl s
  | cons v vs ih =>
    refine Kept.trans ?_ (ih _ _)
    unfold State.putLog
    split
    · exact kept_writeTier ..
    · exact .refl s

theorem kept_restoreSlot (s : State) (sl : Slot) : Kept s (s.restoreSlot sl) := by
  unfold State.restoreSlot
  split
  · exact .refl s
  · split
    · exact .refl s
    · exact ((kept_putLogs ..).trans (kept_invalidate ..)).trans (kept_modSeq ..)

theorem kept_requeueSlot (s : State) (sl : Slot) : Kept s (s.requeueSlot sl) := by
  unfold State.requeueSlot
  split
  · exact kept_modPtn ..
  · exact .refl s

theorem kept_restoreSlots (s : State) (slots : List Slot) : Kept s (s.restoreSlots slots) :=
  kept_foldl (fun st sl => (kept_restoreSlot st sl).trans (kept_requeueSlot ..)) _ s

theorem kept_pagePoisoned (s : State) (cluster unit : Nat) : Kept s (s.pagePoisoned cluster unit) := by
  unfold State.pagePoisoned
  dsimp only
  refine Kept.trans (Kept.trans (Kept.trans ?_ (kept_handles ..)) (kept_foldl (fun st (x : Seq) => kept_loseIfGone st x.index) _ _))
    (kept_foldl kept_quotaClear _ _)
  exact kept_foldl (fun st (x : Seq) => kept_dropPages st x.index _) _ s

theorem kept_dropHeld (s : State) (p : Nat) : Kept s (s.dropHeld p) := by
  unfold State.dropHeld
  split
  · exact .refl s
  · refine kept_foldl (fun st (x : Nat × Nat × Nat) => Kept.trans (t := { st with poisonReports := st.poisonReports.filter fun y => y != x.1 }) ?_
      (kept_pagePoisoned ..)) _ s
    exact ⟨_, _, _, _, _, _, _, _, _, _, _, _, _, _, _, _, _, _, _, _, _, rfl⟩

/-! ### Runs that end -/

theorem kept_moves (s : State) (ms : List Move) : Kept s { s with moves := ms } :=
  ⟨_, _, _, _, _, _, _, _, _, _, _, _, _, _, _, _, _, _, _, _, _, rfl⟩

theorem kept_stampRun (s : State) (p : Nat) (r : Run) : Kept s (s.stampRun p r) := by
  unfold State.stampRun
  split
  · exact .refl s
  · refine Kept.trans (kept_foldl (fun st sl => ?_) _ _) (kept_foldl (fun st b => kept_modObj ..) _ _)
    split
    · exact kept_modSeq ..
    · exact .refl st

theorem kept_dropWritten (s : State) (r : Run) : Kept s (s.dropWritten r) := by
  refine kept_foldl (fun st sl => ?_) _ s
  split
  · exact kept_dropPages ..
  · exact .refl st

theorem kept_discardRun (s : State) (p : Nat) : Kept s (s.discardRun p) := by
  unfold State.discardRun
  split
  · exact .refl s
  · exact ((((kept_moves ..).trans (kept_stampRun ..)).trans (kept_dropWritten ..)).trans (kept_restoreSlots ..)).trans
      ((kept_modPtn ..).trans (kept_dropHeld ..))

theorem kept_abortWatches (s : State) (r : Run) : Kept s (s.abortWatches r) := by
  unfold State.abortWatches
  split
  · exact kept_foldl (fun st x => kept_modCtx ..) _ s
  · exact .refl s

theorem kept_checkReserved (s : State) (p : Nat) (r : Run) : Kept s (s.checkReserved p r) := by
  unfold State.checkReserved
  split
  · split
    · exact (told_breach ..).kept
    · exact .refl s
  · exact .refl s

theorem kept_endRun (s : State) (p status : Nat) : Kept s (s.endRun p status) := by
  unfold State.endRun
  split
  · exact .refl s
  · exact ((((((kept_moves ..).trans (kept_stampRun ..)).trans (kept_abortWatches ..)).trans (kept_restoreSlots ..)).trans
      (kept_modPtn ..)).trans ((kept_dropHeld ..).trans (kept_checkReserved ..))).trans (kept_finish ..)

/-! ### Objects -/

theorem kept_objs (s : State) (os : List Obj) : Kept s { s with objs := os } :=
  ⟨_, _, _, _, _, _, _, _, _, _, _, _, _, _, _, _, _, _, _, _, _, rfl⟩

theorem kept_dropObj (s : State) (c : CtxNo) (base : BitVec 42) : Kept s (s.dropObj c base) := by
  unfold State.dropObj
  split
  · exact .refl s
  · dsimp only
    have hout (os : List Obj) (hit : Nat → Bool) (n : Nat) := ((kept_cancelMigrations s c base fun _ => true).trans
      (kept_invalidate _ (ptnOf c) n hit)).trans (kept_objs _ os)
    split
    · exact (hout ..).trans (kept_foldl (fun st t => kept_zeroTier ..) _ _)
    · exact hout ..

theorem kept_chooseBase (s : State) (c : CtxNo) (size span : Nat) : Kept s (s.chooseBase c size span).1 := by
  unfold State.chooseBase
  dsimp only
  split <;> exact kept_takeFree s

theorem kept_placeShards (p low : Nat) (c : CtxNo) (base : BitVec 42) (xs : List Shard) (s : State) :
    Kept s (s.placeShards p low c base xs).1 := by
  induction xs generalizing s with
  | nil => exact .refl s
  | cons x xs ih =>
    have halloc := kept_alloc s p (some c) 1 (low + x.cluster) 32 32
    unfold State.placeShards
    dsimp only
    split
    next t u h =>
      rw [h] at halloc
      exact ((halloc.trans (kept_modObj ..)).trans (kept_undefineUnits ..)).trans (ih _)
    next t h =>
      rw [h] at halloc
      exact halloc

theorem kept_createWeights (s : State) (p : Nat) (x : Partition) (c : CtxNo) (m : Manifest) (prot : Bool) :
    Kept s (s.createWeights p x c m prot).1 := by
  have hbase := kept_chooseBase s c shardTile (m.shards.length * shardTile)
  unfold State.createWeights
  split
  · exact .refl s
  · split
    next t h =>
      rw [h] at hbase
      exact hbase
    next t base h =>
      rw [h] at hbase
      dsimp only
      have hplace (os : List Obj) := (hbase.trans (kept_objs t os)).trans (kept_placeShards p x.low c base m.shards _)
      split
      next u hu =>
        have := hplace (t.objs ++ [⟨c, { deviceDesc kindWeights 1 2 true true prot m.total with vbase := base }, [], none⟩])
        rw [hu] at this
        exact this.trans (kept_objs ..)
      next u hu =>
        have := hplace (t.objs ++ [⟨c, { deviceDesc kindWeights 1 2 true true prot m.total with vbase := base }, [], none⟩])
        rw [hu] at this
        split
        · exact this.trans (kept_layNodes ..)
        · exact this.trans (kept_objs ..)

end Sys2Proof.Machine
end

section
/-! SUPPORT and the settlement of O46: the commands of weight objects (11 R267, R276, R279, R284, R291). -/

namespace Sys2Proof.Machine

theorem check_some (m : Manifest) : Manifest.check (some m) = if m.authentic = true then .ok m else .error stAuth := rfl

section
variable {s : State} {q : Req} {c : CtxNo}

/-! ### WGT.LOAD -/

/-- The weight object that a load of a library manifest begins. -/
def loadingObj (s : State) (q : Req) (c : CtxNo) (base : BitVec 42) (m : Manifest) : WeightObj :=
  { ctx := c, base := base, manifest := m, source := .library, phase := .loading, q := some q,
    wanted := m.shards.map fun y => { tile := y.tile, ready := true, from_ := some s.now, last := s.now } }

theorem createWeights_error {p : Nat} {x : Partition} {m : Manifest} {prot : Bool} {st : Nat}
    (h : (s.createWeights p x c m prot).2 = .error st) : st = stLimit ∨ st = stQuota := by
  unfold State.createWeights at h
  split at h
  · exact .inl (Except.error.inj h).symm
  · split at h
    · exact .inl (Except.error.inj h).symm
    · dsimp only at h
      split at h
      · exact .inr (Except.error.inj h).symm
      · split at h
        · exact absurd h (by simp)
        · exact .inr (Except.error.inj h).symm

theorem load_inauthentic {m : Manifest} (h : m.authentic = false) (src : ShardSource) (prot : Bool) :
    s.load q c (some m) src prot = (s, some stAuth) := by
  rw [State.load, check_some, if_neg (by simp [h])]

theorem load_clusters {m : Manifest} {x : Partition} (h : m.authentic = true) (hx : s.ptn? (ptnOf c) = some x) (hn : m.clusters ≠ x.n)
    (src : ShardSource) (prot : Bool) : s.load q c (some m) src prot = (s, some stBadField) := by
  rw [State.load, check_some, if_pos h, hx]
  exact if_pos (by simpa using hn)

theorem load_fails {m : Manifest} {x : Partition} {st : Nat} {prot : Bool} (h : m.authentic = true) (hx : s.ptn? (ptnOf c) = some x)
    (hn : m.clusters = x.n) (hf : (s.createWeights (ptnOf c) x c m prot).2 = .error st) (src : ShardSource) :
    s.load q c (some m) src prot = ((s.createWeights (ptnOf c) x c m prot).1, some st) := by
  rw [State.load, check_some, if_pos h, hx]
  refine (if_neg (by simp [hn])).trans ?_
  rcases hc : s.createWeights (ptnOf c) x c m prot with ⟨t, r⟩
  rw [hc] at hf
  dsimp only at hf
  rw [hf]

theorem load_begins {m : Manifest} {x : Partition} {base : BitVec 42} {prot : Bool} (h : m.authentic = true)
    (hx : s.ptn? (ptnOf c) = some x) (hn : m.clusters = x.n) (hf : (s.createWeights (ptnOf c) x c m prot).2 = .ok base) :
    s.load q c (some m) .library prot = ({ (s.createWeights (ptnOf c) x c m prot).1 with
      weights := (s.createWeights (ptnOf c) x c m prot).1.weights ++ [loadingObj s q c base m] }, none) := by
  rw [State.load, check_some, if_pos h, hx]
  refine (if_neg (by simp [hn])).trans ?_
  rcases hc : s.createWeights (ptnOf c) x c m prot with ⟨t, r⟩
  rw [hc] at hf
  dsimp only at hf
  rw [hf]
  rfl

variable {src : WgtSource} {prot : Bool} {i : Instr}

theorem wgtLoadBody_room (hq : q.ring = .ctx c) (hn : s.weightCount c < 4) :
    (src.isLocal = false → wgtLoadBody i src prot s q = .goesOn
      (({ s with awaited := s.awaited ++ [({ q := q, cmd := i, session := src.session, reader := src.reader } : Awaited)] } : State).joinTree
        c src.session src.reader)) ∧
    (src.isLocal = true → s.entry? src.modelId src.version = none → wgtLoadBody i src prot s q = .status s stNoObject) ∧
    (src.isLocal = true → ∀ e, s.entry? src.modelId src.version = some e →
      (∀ t, s.load q c (some e.manifest) .library prot = (t, none) → wgtLoadBody i src prot s q = .goesOn t) ∧
      ∀ t st, s.load q c (some e.manifest) .library prot = (t, some st) → wgtLoadBody i src prot s q = .status t st) := by
  have hgo {r : Ran} (h : (if src.isLocal = true then _ else _) = r) : wgtLoadBody i src prot s q = r :=
    (withCtx_ctx _ _ hq).trans ((if_neg (Nat.not_le.mpr hn)).trans h)
  refine ⟨fun hl => hgo (if_neg (by simp [hl])), fun hl he => hgo ((if_pos hl).trans ?_), fun hl e he =>
    ⟨fun t ht => hgo ((if_pos hl).trans ?_), fun t st ht => hgo ((if_pos hl).trans ?_)⟩⟩
  · rw [he]
  · rw [he]
    dsimp only
    rw [ht]
  · rw [he]
    dsimp only
    rw [ht]

/-! ### WGT.SWAP -/

/-- Whether a command is a WGT.SWAP of an object. -/
def swapsObj (base : BitVec 42) : Instr → Bool
  | .wgtSwap _ b _ _ => b == base
  | _ => false

theorem swapsObj_iff (base : BitVec 42) (j : Instr) : swapsObj base j = true ↔ ∃ q d src, j = .wgtSwap q base d src := by
  constructor
  · intro h
    unfold swapsObj at h
    split at h
    next q b d src => exact ⟨q, d, src, by rw [beq_iff_eq.mp h]⟩
    · exact absurd h (by simp)
  · rintro ⟨q, d, src, rfl⟩
    simp [swapsObj]

/-- Whether a command of a context awaits the manifest of a swap of an object. -/
def swapAwaits (c : CtxNo) (base : BitVec 42) (a : Awaited) : Bool := ctxOf a.q.ring == some c && swapsObj base a.cmd

theorem any_swapAwaits (as : List Awaited) (c : CtxNo) (base : BitVec 42) : as.any (swapAwaits c base) = true ↔
    ∃ a ∈ as, ctxOf a.q.ring = some c ∧ ∃ q' d' src', a.cmd = .wgtSwap q' base d' src' := by
  simp [List.any_eq_true, swapAwaits, swapsObj_iff]

theorem swap_eq {w : WeightObj} {m : Manifest} {d : Nat} : s.swap q w (some m) .library d =
    if m.authentic = true then
      if w.manifest.matches_ m = true then
        if m.version = w.manifest.version ∧ w.phase ≠ .lost then (s, some stOkEmpty)
        else (s.modWeight w.ctx w.base fun y =>
          { y with phase := .swapping, q := some q, next := some m, nextSource := .library, deadline := d, effective := false,
                   wasLost := w.phase == .lost, overwritten := [], wanted := m.shards.map fun x => { tile := x.tile } }, none)
      else (s, some stBadField)
    else (s, some stAuth) := by
  rw [State.swap, check_some]
  by_cases ha : m.authentic = true
  · rw [if_pos ha, if_pos ha]
    by_cases hm : w.manifest.matches_ m = true
    · rw [if_pos hm]
      exact if_neg (by simp [hm])
    · rw [if_neg hm]
      exact if_pos (by simpa using hm)
  · rw [if_neg ha, if_neg ha]

theorem weight?_names {base : BitVec 42} {w : WeightObj} (h : s.weight? c base = some w) : w.ctx = c ∧ w.base = base := by
  simpa using List.find?_some h

variable {base : BitVec 42} {d : BitVec 14} {w : WeightObj}

theorem wgtSwapBody_none (hq : q.ring = .ctx c) (hw : s.weight? c base = none) : wgtSwapBody i base d src s q = .status s stNoObject := by
  refine (withCtx_ctx _ _ hq).trans ?_
  rw [hw]

/-- Whether a swap of an object may not begin. -/
def swapBusy (s : State) (c : CtxNo) (base : BitVec 42) (w : WeightObj) : Bool :=
  w.phase == .loading || w.phase == .swapping || w.phase == .rollingBack || s.awaited.any (swapAwaits c base)

theorem swapBusy_iff : swapBusy s c base w = true ↔ w.phase = .loading ∨ w.phase = .swapping ∨ w.phase = .rollingBack ∨
    ∃ a ∈ s.awaited, ctxOf a.q.ring = some c ∧ ∃ q' d' src', a.cmd = .wgtSwap q' base d' src' := by
  simp only [swapBusy, Bool.or_eq_true, beq_iff_eq, any_swapAwaits, or_assoc]

theorem wgtSwapBody_busy (hq : q.ring = .ctx c) (hw : s.weight? c base = some w) (hb : swapBusy s c base w = true) :
    wgtSwapBody i base d src s q = .status s stInUse := by
  refine (withCtx_ctx _ _ hq).trans ?_
  rw [hw]
  exact if_pos hb

theorem wgtSwapBody_idle (hq : q.ring = .ctx c) (hw : s.weight? c base = some w) (hb : swapBusy s c base w = false) :
    (src.isLocal = false → wgtSwapBody i base d src s q = .goesOn
      (({ s with awaited := s.awaited ++ [({ q := q, cmd := i, session := src.session, reader := src.reader } : Awaited)] } : State).joinTree
        c src.session src.reader)) ∧
    (src.isLocal = true → s.entry? src.modelId src.version = none → wgtSwapBody i base d src s q = .status s stNoObject) ∧
    (src.isLocal = true → ∀ e, s.entry? src.modelId src.version = some e →
      (∀ t, s.swap q w (some e.manifest) .library (if d = 0 then 50 else d.toNat) = (t, none) →
        wgtSwapBody i base d src s q = .goesOn t) ∧
      ∀ t st, s.swap q w (some e.manifest) .library (if d = 0 then 50 else d.toNat) = (t, some st) →
        wgtSwapBody i base d src s q = .status t st) := by
  refine ⟨fun hl => ?_, fun hl he => ?_, fun hl e he => ⟨fun t ht => ?_, fun t st ht => ?_⟩⟩
  all_goals
    refine (withCtx_ctx _ _ hq).trans ?_
    rw [hw]
    refine (if_neg (Bool.eq_false_iff.mp hb)).trans ?_
  · exact if_neg (by simp [hl])
  · rw [if_pos hl, he]
  · rw [if_pos hl, he]
    dsimp only
    rw [ht]
  · rw [if_pos hl, he]
    dsimp only
    rw [ht]

/-! ### WGT.READER, WGT.QUERY and WGT.FREE -/

/-- Whether a reader is needed by what an object receives. -/
def needsReader (w : WeightObj) : Bool := w.phase == .loading || w.phase == .swapping || w.phase == .rollingBack || !w.refetch.isEmpty

theorem needsReader_iff (w : WeightObj) : needsReader w = true ↔
    w.phase = .loading ∨ w.phase = .swapping ∨ w.phase = .rollingBack ∨ w.refetch ≠ [] := by
  simp [needsReader, or_assoc]

/-- An object given another reader (11 R291). -/
def withReader (w : WeightObj) (now : Nat) (src : ShardSource) (y : WeightObj) : WeightObj :=
  let y := { y with wanted := y.wanted.map fun (x : Wanted) => { x with refused := 0, asked := 0, gaveUp := false, last := now } }
  if w.phase = .swapping then { y with nextSource := src } else { y with source := src }

variable {session : BitVec 32} {reader : BitVec 16}

theorem wgtReaderBody_none (hq : q.ring = .ctx c) (hw : s.weight? c base = none) :
    wgtReaderBody base session reader s q = .status s stNoObject := by
  refine (withCtx_ctx _ _ hq).trans ?_
  dsimp only
  rw [hw]

theorem wgtReaderBody_some (hq : q.ring = .ctx c) (hw : s.weight? c base = some w) : wgtReaderBody base session reader s q =
    if needsReader w = true then .status (((w.wanted.filter (·.ready)).map (·.tile) ++ (w.refetch.filter fun x => !x.got).map (·.tile)).foldl
        (fun st t => st.request c (.session session reader) t) (s.modWeight c base (withReader w s.now (.session session reader)))) stOk
    else if s.awaited.any (swapAwaits c base) = true then
      .status (({ s with awaited := s.awaited.map fun a => if swapAwaits c base a = true then { a with session := session, reader := reader } else a } :
        State).joinTree c session reader) stOk
    else .status s stNoObject := by
  refine (withCtx_ctx _ _ hq).trans ?_
  dsimp only
  rw [hw]
  rfl

theorem wgtQueryBody_ctx (hq : q.ring = .ctx c) : (s.weight? c base = none → wgtQueryBody base s q = .status s stNoObject) ∧
    ∀ w, s.weight? c base = some w → wgtQueryBody base s q =
      .done s stOk (packBits [(w.manifest.version.toNat, 0), (w.phase.code, 32), (w.layersNew, 40)]) w.manifest.modelId.toNat := by
  refine ⟨fun hw => (withCtx_ctx _ _ hq).trans ?_, fun w hw => (withCtx_ctx _ _ hq).trans ?_⟩
  · rw [hw]
  · rw [hw]

theorem wgtFreeBody_none (hq : q.ring = .ctx c) (h : s.obj? c base = none ∨ s.weight? c base = none) :
    wgtFreeBody base s q = .status s stNoObject := by
  cases ho : s.obj? c base with
  | none => exact withNamed_none _ hq ho
  | some o =>
    refine (withNamed_some _ hq ho).trans ?_
    rw [(obj?_names ho).1, h.resolve_left (by simp [ho])]

theorem wgtFreeBody_some {o : Obj} (hq : q.ring = .ctx c) (ho : s.obj? c base = some o) (hw : s.weight? c base = some w) :
    wgtFreeBody base s q = if (w.phase == .swapping || w.phase == .rollingBack) = true then .status s stInUse
      else if s.bound o = true then .waits
      else .status ((s.dropWeights c base stAborted).quotaClear (ptnOf c)) stOk := by
  refine (withNamed_some _ hq ho).trans ?_
  rw [(obj?_names ho).1, hw]

end

/-- WGT.LOAD of a library manifest (11 R276). -/
theorem wgtLoad_library {s : State} {q : Req} {c : CtxNo} {x : Partition} {src : WgtSource} {prot : Bool} {e : LibraryEntry}
    (h : Runnable (.wgtLoad q src prot) q s) (hq : q.ring = .ctx c) (hx : s.ptn? (ptnOf c) = some x) (hn : (s.start q).weightCount c < 4)
    (hl : src.isLocal = true) (he : s.entry? src.modelId src.version = some e) :
    let made := (s.start q).createWeights (ptnOf c) x c e.manifest prot
    (e.manifest.authentic = false → exec (.wgtLoad q src prot) s = .next ((s.start q).finish q stAuth 0 0)) ∧
    (e.manifest.authentic = true → e.manifest.clusters ≠ x.n →
      exec (.wgtLoad q src prot) s = .next ((s.start q).finish q stBadField 0 0)) ∧
    (e.manifest.authentic = true → e.manifest.clusters = x.n → ∀ st, made.2 = .error st →
      exec (.wgtLoad q src prot) s = .next (made.1.finish q st 0 0) ∧ made.1.weights = s.weights ∧ (st = stLimit ∨ st = stQuota)) ∧
    (e.manifest.authentic = true → e.manifest.clusters = x.n → ∀ base, made.2 = .ok base → ∃ w, w.ctx = c ∧ w.base = base ∧
      w.manifest = e.manifest ∧ w.phase = .loading ∧ w.q = some q ∧ w.source = .library ∧
      w.wanted.map (·.tile) = e.manifest.shards.map (·.tile) ∧ (∀ z ∈ w.wanted, z.ready = true) ∧
      exec (.wgtLoad q src prot) s = .next { made.1 with weights := s.weights ++ [w] }) := by
  intro made
  obtain ⟨hgo, hst⟩ := (wgtLoadBody_room (s := s.start q) (prot := prot) (i := .wgtLoad q src prot) hq hn).2.2 hl e he
  have hweights : made.1.weights = s.weights := (kept_createWeights ..).leaves.1
  refine ⟨fun ha => exec_status rfl h (hst _ _ (load_inauthentic (s := s.start q) ha ..)), fun ha hc => exec_status rfl h (hst _ _ (load_clusters (s := s.start q) ha hx hc ..)),
    fun ha hc st hm => ⟨exec_status rfl h (hst _ _ (load_fails (s := s.start q) ha hx hc hm _)), hweights, createWeights_error hm⟩, fun ha hc base hm => ?_⟩
  refine ⟨loadingObj (s.start q) q c base e.manifest, rfl, rfl, rfl, rfl, rfl, rfl, ?_, fun z hz => ?_, ?_⟩
  · simp [loadingObj]
  · obtain ⟨y, -, rfl⟩ := List.mem_map.mp hz
    rfl
  · rw [← hweights]
    exact exec_goesOn rfl h (hgo _ (load_begins (s := s.start q) ha hx hc hm))

/-- WGT.SWAP to a library manifest (11 R279). -/
theorem wgtSwap_library {s : State} {q : Req} {c : CtxNo} {base : BitVec 42} {d : BitVec 14} {src : WgtSource} {w : WeightObj}
    {e : LibraryEntry} (h : Runnable (.wgtSwap q base d src) q s) (hq : q.ring = .ctx c) (hw : s.weight? c base = some w)
    (hb : swapBusy (s.start q) c base w = false) (hl : src.isLocal = true) (he : s.entry? src.modelId src.version = some e) :
    let ends := fun (st : Nat) => exec (.wgtSwap q base d src) s = .next ((s.start q).finish q st 0 0)
    (e.manifest.authentic = false → ends stAuth) ∧
    (e.manifest.authentic = true → w.manifest.matches_ e.manifest = false → ends stBadField) ∧
    (e.manifest.authentic = true → w.manifest.matches_ e.manifest = true → e.manifest.version = w.manifest.version →
      w.phase ≠ .lost → ends stOkEmpty) ∧
    (e.manifest.authentic = true → w.manifest.matches_ e.manifest = true →
      e.manifest.version ≠ w.manifest.version ∨ w.phase = .lost → exec (.wgtSwap q base d src) s =
        .next ((s.start q).modWeight c base fun y => { y with
          phase := .swapping, q := some q, next := some e.manifest, nextSource := .library,
          deadline := (if d = 0 then 50 else d.toNat), effective := false, wasLost := w.phase == .lost, overwritten := [],
          wanted := e.manifest.shards.map fun x => { tile := x.tile } })) := by
  intro ends
  obtain ⟨hgo, hst⟩ := (wgtSwapBody_idle (s := s.start q) (i := .wgtSwap q base d src) (d := d) hq hw hb).2.2 hl e he
  obtain ⟨hc, hbase⟩ := weight?_names hw
  refine ⟨fun ha => exec_status rfl h (hst _ _ ?_), fun ha hm => exec_status rfl h (hst _ _ ?_),
    fun ha hm hv hp => exec_status rfl h (hst _ _ ?_), fun ha hm hor => exec_goesOn rfl h (hgo _ ?_)⟩
  all_goals rw [swap_eq]
  · exact if_neg (by simp [ha])
  · exact (if_pos ha).trans (if_neg (by simp [hm]))
  · exact (if_pos ha).trans ((if_pos hm).trans (if_pos ⟨hv, hp⟩))
  · rw [if_pos ha, if_pos hm, if_neg (by tauto), hc, hbase]

/-- Settles O46. -/
theorem weightObjects : Obligations.WeightObjects := by
  unfold Obligations.WeightObjects
  refine ⟨fun s q src prot h => ?_, fun s q base d src h => ?_, fun s q base session reader h => ?_, fun s q base h => ?_, fun s q base h => ?_⟩
  · intro ends
    refine ⟨fun x hq => exec_status rfl h (withCtx_host _ _ hq), fun c x hq hx => ⟨fun hn => exec_status rfl h
      ((withCtx_ctx _ _ hq).trans (if_pos hn)), fun hn hl => exec_goesOn rfl h ((wgtLoadBody_room hq hn).1 hl),
      fun hn hl he => exec_status rfl h ((wgtLoadBody_room (s := s.start q) hq hn).2.1 hl he),
      fun hn hl e he => wgtLoad_library h hq hx hn hl he⟩⟩
  · intro ends
    refine ⟨fun x hq => exec_status rfl h (withCtx_host _ _ hq), fun c hq => ?_⟩
    intro asked
    refine ⟨fun hw => exec_status rfl h (wgtSwapBody_none (s := s.start q) hq hw), fun w hw => ⟨fun hb => exec_status rfl h
      (wgtSwapBody_busy (s := s.start q) hq hw (swapBusy_iff.mpr hb)), fun hp hno => ?_⟩⟩
    have hb : swapBusy (s.start q) c base w = false := by
      rw [Bool.eq_false_iff, Ne, swapBusy_iff]
      rintro (hb | hb | hb | hb)
      · simp [hb] at hp
      · simp [hb] at hp
      · simp [hb] at hp
      · exact hno hb
    obtain ⟨hses, hnone, -⟩ := wgtSwapBody_idle (s := s.start q) (src := src) (i := .wgtSwap q base d src) (d := d) hq hw hb
    refine ⟨fun hl => exec_goesOn rfl h (hses hl), fun hl he => exec_status rfl h (hnone hl he), fun hl e he => ?_⟩
    obtain ⟨hauth, hmatch, hsame, hgoes⟩ := wgtSwap_library h hq hw hb hl he
    exact ⟨hauth, hmatch, fun ha hm hv hr => hsame ha hm hv (by simp [hr]), hgoes⟩
  · intro ends
    refine ⟨fun x hq => exec_status rfl h (withCtx_host _ _ hq), fun c hq => ?_⟩
    intro swapWaits
    refine ⟨fun hw => exec_status rfl h (wgtReaderBody_none (s := s.start q) hq hw), fun w hw => ?_⟩
    have hbody := wgtReaderBody_some (s := s.start q) (session := session) (reader := reader) hq hw
    intro needs
    refine ⟨fun hn => ?_, fun hn hs => ?_, fun hn hs => exec_status rfl h (hbody.trans ((if_neg (mt (needsReader_iff w).mp hn)).trans
      (if_neg (Bool.eq_false_iff.mp hs))))⟩
    · exact exec_status rfl h (hbody.trans (if_pos ((needsReader_iff w).mpr hn)))
    · exact exec_status rfl h (hbody.trans ((if_neg (mt (needsReader_iff w).mp hn)).trans (if_pos hs)))
  · exact ⟨fun x hq => exec_status rfl h (withCtx_host _ _ hq), fun c hq => ⟨fun hw => exec_status rfl h ((wgtQueryBody_ctx hq).1 hw),
      fun w hw => exec_done rfl h ((wgtQueryBody_ctx (s := s.start q) hq).2 w hw)⟩⟩
  · intro ends
    refine ⟨fun x hq => exec_status rfl h (withCtx_host _ _ hq), fun c hq => ⟨fun hno => exec_status rfl h
      (wgtFreeBody_none (s := s.start q) hq hno), fun w o ho hc hw => ?_⟩⟩
    have hbody := wgtFreeBody_some (s := s.start q) hq ho hw
    refine ⟨fun hp => exec_status rfl h (hbody.trans (if_pos (by simpa using hp))), fun h1 h2 hb => exec_waits rfl h
      (hbody.trans ((if_neg (by simp [h1, h2])).trans (if_pos hb))), fun h1 h2 hb => exec_status rfl h
      (hbody.trans ((if_neg (by simp [h1, h2])).trans (if_neg (Bool.eq_false_iff.mp hb))))⟩

end Sys2Proof.Machine
end

section
/-! SUPPORT and the settlement of O44: shards of a weight object, and their swaps and reloads (11 R276 to R290). -/

namespace Sys2Proof.Machine

/-! ### The weight object of a name -/

theorem weight?_congr {s t : State} (h : t.weights = s.weights) (c : CtxNo) (base : BitVec 42) : t.weight? c base = s.weight? c base := by
  unfold State.weight?
  rw [h]

theorem Kept.weight? {s t : State} (h : Kept s t) (c : CtxNo) (base : BitVec 42) : t.weight? c base = s.weight? c base :=
  weight?_congr h.leaves.1 c base

theorem Sends.weight? {s t : State} (h : Sends s t) (c : CtxNo) (base : BitVec 42) : t.weight? c base = s.weight? c base := by
  obtain ⟨⟨_, _, _, _, _, rfl⟩, -⟩ := h
  rfl

/-- A change of a weight object keeps its name. -/
theorem weight?_modWeight {s : State} {c : CtxNo} {base : BitVec 42} {w : WeightObj} {f : WeightObj → WeightObj}
    (h : s.weight? c base = some w) (hf : ∀ y, (f y).ctx = y.ctx ∧ (f y).base = y.base) :
    (s.modWeight c base f).weight? c base = some (f w) := by
  refine (modifyIf_find? (fun y hy => ?_) s.weights).trans (by rw [show s.weights.find? _ = some w from h]; rfl)
  rw [(hf y).1, (hf y).2]
  exact hy

/-- The object with the refetches given up that a condition names. -/
def refetchesLeft (p : Refetch → Bool) (w : WeightObj) : WeightObj := { w with refetch := w.refetch.filter fun x => !p x }

theorem kept_zeroPlaces (s : State) (w : WeightObj) (p : Refetch → Bool) : ∃ t, Kept s t ∧
    s.endRefetches w p = t.modWeight w.ctx w.base (refetchesLeft p) := by
  unfold State.endRefetches
  split
  · split
    · exact ⟨_, kept_foldl (fun st (x : Refetch) => kept_zeroTier st x.dest.tier x.dest.cluster (x.dest.unit * unitBytes) shardTile) _ s, rfl⟩
    · exact ⟨s, .refl s, rfl⟩
  · exact ⟨s, .refl s, rfl⟩

theorem weight?_endRefetches {s : State} {c : CtxNo} {base : BitVec 42} {w : WeightObj} (h : s.weight? c base = some w) (p : Refetch → Bool) :
    (s.endRefetches w p).weight? c base = some (refetchesLeft p w) := by
  obtain ⟨t, hk, he⟩ := kept_zeroPlaces s w p
  obtain ⟨rfl, rfl⟩ := weight?_names h
  rw [he]
  exact weight?_modWeight ((hk.weight? _ _).trans h) fun y => ⟨rfl, rfl⟩

/-! ### An object that has all it wants -/

/-- An object whose load, swap or reload is over. -/
def settled (w : WeightObj) : WeightObj :=
  { w with phase := .ready, q := none, next := none, effective := false, wasLost := false, overwritten := [] }

theorem kept_forgetOld (s : State) (c : CtxNo) (base : BitVec 42) : Kept s (s.forgetOld c base) := kept_modPtn ..

theorem settleWeights_wanting {s : State} {w : WeightObj} (h : w.wanted ≠ []) : s.settleWeights w = s := by
  rw [State.settleWeights]
  exact if_pos (by simpa using h)

/-- The end of a load, swap or reload with nothing more wanted: the object is ready, of the version that it was given (11
R276, R285, R287). -/
theorem settleWeights_done {s : State} {c : CtxNo} {base : BitVec 42} {w : WeightObj} (h : s.weight? c base = some w)
    (hw : w.wanted = []) : ∃ y, (s.settleWeights w).weight? c base = some y ∧ y.wanted = [] ∧
      (w.phase ≠ .lost → w.phase ≠ .ready → y.phase = .ready ∧ y.q = none) ∧ (w.phase ≠ .swapping → y.manifest = w.manifest) := by
  obtain ⟨rfl, rfl⟩ := weight?_names h
  have hend (t : State) (q : Option Req) (code r0 : Nat) : Kept t (match q with
      | some q => t.finish q code r0 0
      | none => t) := by
    split
    · exact kept_finish ..
    · exact .refl t
  rw [State.settleWeights, if_neg (by simp [hw])]
  cases hp : w.phase with
  | loading =>
    exact ⟨settled w, ((hend ..).weight? _ _).trans (weight?_modWeight h fun y => ⟨rfl, rfl⟩), hw, fun _ _ => ⟨rfl, rfl⟩, fun _ => rfl⟩
  | swapping =>
    refine ⟨{ settled w with manifest := w.next.getD w.manifest, source := w.nextSource }, ?_, hw, fun _ _ => ⟨rfl, rfl⟩,
      fun hne => absurd rfl hne⟩
    exact ((((kept_forgetOld ..).trans (kept_event ..)).trans (hend ..)).weight? _ _).trans (weight?_modWeight h fun y => ⟨rfl, rfl⟩)
  | rollingBack =>
    refine ⟨settled w, ?_, hw, fun _ _ => ⟨rfl, rfl⟩, fun _ => rfl⟩
    exact ((((kept_forgetOld ..).trans (kept_event ..)).trans (hend ..)).weight? _ _).trans (weight?_modWeight h fun y => ⟨rfl, rfl⟩)
  | ready => exact ⟨w, h, hw, fun _ hne => absurd rfl hne, fun _ => rfl⟩
  | lost => exact ⟨w, h, hw, fun hne _ => absurd rfl hne, fun _ => rfl⟩

theorem await_shape (w : WeightObj) (now : Nat) : ∃ ws, w.await now = { w with wanted := ws } ∧ ws.map (·.tile) = w.wanted.map (·.tile) := by
  unfold WeightObj.await
  split
  · exact ⟨w.wanted, rfl, rfl⟩
  · refine ⟨_, rfl, ?_⟩
    rw [List.map_map]
    refine List.map_congr_left fun y _ => ?_
    simp only [Function.comp_apply]
    split <;> rfl

/-! ### Shards that arrive -/

section
variable {s : State} {c : CtxNo} {base : BitVec 42} {tile : Nat} {bs : List Byte} {w : WeightObj} {o : Obj} {sh : Shard}

/-- A shard's bytes counted for its context. -/
def shardCounted (s : State) (c : CtxNo) (n : Nat) : State := (s.count c 22 n).count c 24 n

theorem kept_shardCounted (s : State) (c : CtxNo) (n : Nat) : Kept s (shardCounted s c n) := (kept_count ..).trans (kept_count ..)

/-- The device with a wanted shard's bytes written in place, and its tile overwritten. -/
def shardWritten (s : State) (w : WeightObj) (o : Obj) (tile n : Nat) (bs : List Byte) : State :=
  ((shardCounted ((s.writeObj o (tile * shardTile) (bs.take n)).countTiers o (tile * shardTile) (min bs.length n) true) w.ctx
    bs.length).endRefetches w fun z => z.tile == tile).modWeight w.ctx w.base fun y =>
      { y with overwritten := if w.overwritten.contains tile then w.overwritten else w.overwritten ++ [tile] }

theorem weight?_shardWritten (h : s.weight? c base = some w) (o : Obj) (tile n : Nat) (bs : List Byte) : ∃ rs os,
    (shardWritten s w o tile n bs).weight? c base = some { w with refetch := rs, overwritten := os } := by
  obtain ⟨rfl, rfl⟩ := weight?_names h
  have hk : Kept s (shardCounted ((s.writeObj o (tile * shardTile) (bs.take n)).countTiers o (tile * shardTile) (min bs.length n) true)
      w.ctx bs.length) := ((kept_writeObj ..).trans (kept_countTiers ..)).trans (kept_shardCounted ..)
  exact ⟨(refetchesLeft (fun z => z.tile == tile) w).refetch, if w.overwritten.contains tile then w.overwritten else w.overwritten ++ [tile],
    weight?_modWeight (weight?_endRefetches ((hk.weight? _ _).trans h) _) fun y => ⟨rfl, rfl⟩⟩

/-- A wanted shard that matches: it is wanted no more. -/
def notWanting (tile now : Nat) (y : WeightObj) : WeightObj :=
  WeightObj.await { y with wanted := y.wanted.filter fun z => z.tile != tile } now

/-- A wanted shard that was refused: it is counted, up to the third. -/
def refusedAgain (tile : Nat) (y : WeightObj) : WeightObj :=
  { y with wanted := y.wanted.map fun (z : Wanted) =>
    if z.tile = tile then { z with refused := z.refused + 1, gaveUp := 3 ≤ z.refused + 1 } else z }

theorem shardArrives_none (h : s.obj? w.ctx w.base = none ∨ w.target.shards[tile]? = none) :
    s.shardArrives false w tile bs = s := by
  rw [State.shardArrives]
  rcases h with h | h
  · rw [h]
  · rw [h]
    cases s.obj? w.ctx w.base <;> rfl

theorem shardArrives_refused {x : Wanted} (ho : s.obj? w.ctx w.base = some o) (hs : w.target.shards[tile]? = some sh)
    (hx : (w.wanted.find? fun x => x.tile == tile && x.ready) = some x)
    (h : x.gaveUp = true ∨ w.targetSource = .library ∨ ∃ m ∈ s.migrations, m.ctx = w.ctx ∧ m.base = w.base ∧ m.tile = tile) :
    s.shardArrives false w tile bs = s := by
  simp only [State.shardArrives, ho, hs, hx]
  refine if_pos ?_
  rcases h with h | h | ⟨m, hm, h1, h2, h3⟩
  · simp [h]
  · simp [h]
  · have : (s.migrations.any fun m => m.ctx == w.ctx && m.base == w.base && m.tile == tile) = true :=
      List.any_eq_true.mpr ⟨m, hm, by simp [h1, h2, h3]⟩
    simp [this]

theorem shardArrives_wanted {x : Wanted} (ho : s.obj? w.ctx w.base = some o) (hs : w.target.shards[tile]? = some sh)
    (hx : (w.wanted.find? fun x => x.tile == tile && x.ready) = some x) (hg : x.gaveUp = false) (hl : w.targetSource ≠ .library)
    (hm : ∀ m ∈ s.migrations, ¬ (m.ctx = w.ctx ∧ m.base = w.base ∧ m.tile = tile)) :
    (w.target.shardOk tile bs = true → ∀ v, ((shardWritten s w o tile sh.length bs).modWeight w.ctx w.base
        (notWanting tile (shardWritten s w o tile sh.length bs).now)).weight? w.ctx w.base = some v →
      s.shardArrives false w tile bs = ((shardWritten s w o tile sh.length bs).modWeight w.ctx w.base
        (notWanting tile (shardWritten s w o tile sh.length bs).now)).settleWeights v) ∧
    (w.target.shardOk tile bs = false → s.shardArrives false w tile bs =
      if 3 ≤ x.refused + 1 then ((shardWritten s w o tile sh.length bs).modWeight w.ctx w.base (refusedAgain tile)).event (.ctx w.ctx) 0x0060
        w.base.toNat tile 1
      else ((shardWritten s w o tile sh.length bs).modWeight w.ctx w.base (refusedAgain tile)).request w.ctx w.targetSource tile) := by
  have hmoving : (s.migrations.any fun m => m.ctx == w.ctx && m.base == w.base && m.tile == tile) = false :=
    List.any_eq_false.mpr fun m hmem => by simpa [and_assoc] using hm m hmem
  have hown : ((w.targetSource == .library) == false) = true := by simpa using hl
  have hgo : ¬ ((s.migrations.any fun m => m.ctx == w.ctx && m.base == w.base && m.tile == tile) || x.gaveUp ||
      !((w.targetSource == .library) == false)) = true := by simp [hmoving, hg, hl]
  refine ⟨fun hok v hv => ?_, fun hok => ?_⟩
  · unfold notWanting shardWritten shardCounted at hv
    simp only [State.shardArrives, ho, hs, hx]
    refine (if_neg hgo).trans ((if_pos hok).trans ?_)
    simp only [Bool.false_eq_true, if_false]
    rw [hv]
    rfl
  · simp only [State.shardArrives, ho, hs, hx]
    exact (if_neg hgo).trans (if_neg (Bool.eq_false_iff.mp hok))

theorem filter_tiles (tile : Nat) (zs : List Wanted) :
    (zs.filter fun z => z.tile != tile).map (·.tile) = (zs.map (·.tile)).filter (· != tile) := by
  induction zs with
  | nil => rfl
  | cons z zs ih =>
    rw [List.filter_cons, List.map_cons, List.filter_cons]
    split <;> simp [*]

/-- A wanted shard that matches is wanted no more, and the last one ends what the object was receiving (11 R276). -/
theorem shardArrives_matches {x : Wanted} (h : s.weight? c base = some w) (ho : s.obj? c base = some o)
    (hs : w.target.shards[tile]? = some sh) (hx : (w.wanted.find? fun x => x.tile == tile && x.ready) = some x) (hg : x.gaveUp = false)
    (hl : w.targetSource ≠ .library) (hm : ∀ m ∈ s.migrations, ¬ (m.ctx = c ∧ m.base = base ∧ m.tile = tile))
    (hok : w.target.shardOk tile bs = true) : ∃ y, (s.shardArrives false w tile bs).weight? c base = some y ∧
      y.wanted.map (·.tile) = (w.wanted.map (·.tile)).filter (· != tile) ∧
      (w.phase ≠ .lost → w.phase ≠ .ready → (∀ z ∈ w.wanted, z.tile = tile) → y.phase = .ready ∧ y.q = none) := by
  obtain ⟨rs, os, hw⟩ := weight?_shardWritten h o tile sh.length bs
  obtain ⟨rfl, rfl⟩ := weight?_names h
  obtain ⟨ws, ha, htiles⟩ := await_shape
    { w with refetch := rs, overwritten := os, wanted := w.wanted.filter fun z => z.tile != tile } (shardWritten s w o tile sh.length bs).now
  rw [filter_tiles] at htiles
  have hv := weight?_modWeight (f := notWanting tile (shardWritten s w o tile sh.length bs).now) hw fun y => by
    obtain ⟨_, hy, -⟩ := await_shape { y with wanted := y.wanted.filter fun z => z.tile != tile } (shardWritten s w o tile sh.length bs).now
    rw [notWanting, hy]
    exact ⟨rfl, rfl⟩
  rw [(shardArrives_wanted ho hs hx hg hl hm).1 hok _ hv]
  rw [notWanting, ha] at hv ⊢
  by_cases hws : ws = []
  · obtain ⟨y, hy, hyw, hdone, -⟩ := settleWeights_done hv hws
    refine ⟨y, hy, ?_, fun h1 h2 _ => hdone h1 h2⟩
    rw [hyw, ← htiles, hws]
  · rw [settleWeights_wanting (by exact hws)]
    refine ⟨_, hv, htiles, fun _ _ hall => absurd ?_ hws⟩
    rw [← List.map_eq_nil_iff (f := (·.tile)), htiles, List.filter_eq_nil_iff]
    intro i hi
    obtain ⟨z, hz, rfl⟩ := List.mem_map.mp hi
    simp [hall z hz]

theorem sends_request (s : State) (c : CtxNo) (src : ShardSource) (tile : Nat) : Sends s (s.request c src tile) := by
  unfold State.request
  split
  · exact sends_sendControl ..
  · exact .refl s

/-- A wanted shard that does not match is counted, and given up at the third (11 R277). -/
theorem shardArrives_mismatches {x : Wanted} (h : s.weight? c base = some w) (ho : s.obj? c base = some o)
    (hs : w.target.shards[tile]? = some sh) (hx : (w.wanted.find? fun x => x.tile == tile && x.ready) = some x) (hg : x.gaveUp = false)
    (hl : w.targetSource ≠ .library) (hm : ∀ m ∈ s.migrations, ¬ (m.ctx = c ∧ m.base = base ∧ m.tile = tile))
    (hok : w.target.shardOk tile bs = false) : ∃ y, (s.shardArrives false w tile bs).weight? c base = some y ∧
      y.phase = w.phase ∧ y.wanted.map (·.tile) = w.wanted.map (·.tile) ∧
      ∀ z ∈ y.wanted, z.tile = tile → z.gaveUp = true ∨ z.refused < 3 := by
  obtain ⟨rs, os, hw⟩ := weight?_shardWritten h o tile sh.length bs
  obtain ⟨rfl, rfl⟩ := weight?_names h
  have hv := weight?_modWeight (f := refusedAgain tile) hw fun y => ⟨rfl, rfl⟩
  rw [(shardArrives_wanted ho hs hx hg hl hm).2 hok]
  refine ⟨refusedAgain tile { w with refetch := rs, overwritten := os }, ?_, rfl, ?_, fun z hz ht => ?_⟩
  · split
    · exact ((kept_event ..).weight? _ _).trans hv
    · exact ((sends_request ..).weight? _ _).trans hv
  · simp only [refusedAgain, List.map_map]
    refine List.map_congr_left fun z _ => ?_
    simp only [Function.comp_apply]
    split <;> rfl
  · obtain ⟨z', -, rfl⟩ := List.mem_map.mp hz
    by_cases hz' : z'.tile = tile
    · rw [if_pos hz']
      by_cases h3 : 3 ≤ z'.refused + 1
      · exact .inl (by simpa using h3)
      · exact .inr (Nat.not_le.mp h3)
    · rw [if_neg hz'] at ht
      exact absurd ht hz'

/-- A shard that a refetch waits for, or that nothing wants (08 R193). -/
theorem shardArrives_refetch (ho : s.obj? w.ctx w.base = some o) (hs : w.target.shards[tile]? = some sh)
    (hx : (w.wanted.find? fun x => x.tile == tile && x.ready) = none) :
    ((w.refetch.find? fun x => x.tile == tile && !x.got) = none → s.shardArrives false w tile bs = s) ∧
    ∀ x, (w.refetch.find? fun x => x.tile == tile && !x.got) = some x →
      ((w.holding tile).2 = .library → s.shardArrives false w tile bs = s) ∧
      ((w.holding tile).2 ≠ .library → (w.holding tile).1.shardOk tile bs = true → s.shardArrives false w tile bs =
        shardCounted ((s.writeTier x.dest.tier x.dest.cluster (x.dest.unit * unitBytes) bs).modWeight w.ctx w.base fun y =>
          { y with refetch := y.refetch.map fun y => if y.tile = tile then { y with got := true } else y }) w.ctx bs.length) ∧
      ((w.holding tile).2 ≠ .library → (w.holding tile).1.shardOk tile bs = false →
        s.shardArrives false w tile bs = s.request w.ctx (w.holding tile).2 tile) := by
  refine ⟨fun hr => ?_, fun x hr => ?_⟩
  · simp only [State.shardArrives, ho, hs, hx, hr]
  · rcases hh : w.holding tile with ⟨m, src⟩
    refine ⟨fun hl => ?_, fun hl hok => ?_, fun hl hok => ?_⟩
    all_goals
      dsimp only at hl
      simp only [State.shardArrives, ho, hs, hx, hr, hh]
    · exact if_pos (by simp [hl])
    · exact (if_neg (by simp [hl])).trans (if_pos hok)
    · exact (if_neg (by simp [hl])).trans (if_neg (by simp at hok ⊢; exact hok))

end

/-! ### Shards that are late -/

section
variable {s : State} {c : CtxNo} {base : BitVec 42} {tile : Nat} {w : WeightObj}

theorem shardMissing_idle (h : ∀ w x, s.weight? c base = some w → (w.wanted.find? fun y => y.tile == tile) = some x →
    x.gaveUp = true ∨ x.from_ = none ∨ s.now < x.last + 20000) : shardMissingEffect c base tile s = s := by
  rw [shardMissingEffect]
  cases hw : s.weight? c base with
  | none => rfl
  | some w =>
    dsimp only
    cases hx : w.wanted.find? fun y => y.tile == tile with
    | none => rfl
    | some x =>
      refine if_pos ?_
      rcases h w x hw hx with h | h | h <;> simp [h]

/-- A missing shard is asked for again (11 R277). -/
def askedAgain (tile now : Nat) (y : WeightObj) : WeightObj :=
  { y with wanted := y.wanted.map fun (z : Wanted) => if z.tile = tile then { z with asked := z.asked + 1, last := now } else z }

theorem shardMissing_asks {x : Wanted} (hw : s.weight? c base = some w) (hx : (w.wanted.find? fun y => y.tile == tile) = some x)
    (hg : x.gaveUp = false) (hf : x.from_ ≠ none) (ht : x.last + 20000 ≤ s.now) : shardMissingEffect c base tile s =
      if (x.asked + 1) % 3 = 0 then
        ((s.modWeight c base (askedAgain tile s.now)).request c w.targetSource tile).event (.ctx c) 0x0060 base.toNat tile 2
      else (s.modWeight c base (askedAgain tile s.now)).request c w.targetSource tile := by
  have hgo : ¬ (x.gaveUp || x.from_.isNone || decide (s.now < x.last + 20000)) = true := by simp [hg, hf, ht]
  simp only [shardMissingEffect, hw, hx]
  exact if_neg hgo

theorem overdue_from {x : Wanted} (hx : (w.wanted.find? fun y => y.tile == tile) = some x) :
    (w.wanted.find? fun y => y.tile == tile).bind (·.from_) = x.from_ := by
  rw [hx]
  rfl

theorem shardOverdue_idle (h : ∀ w x since, s.weight? c base = some w → (w.wanted.find? fun y => y.tile == tile) = some x →
    x.from_ = some since → s.now < since + w.deadline * 1000 ∨ (w.phase ≠ .swapping ∧ w.phase ≠ .rollingBack)) :
    shardOverdueEffect c base tile s = s := by
  rw [shardOverdueEffect]
  cases hw : s.weight? c base with
  | none => rfl
  | some w =>
    dsimp only
    cases hf : (w.wanted.find? fun y => y.tile == tile).bind (·.from_) with
    | none => rfl
    | some since =>
      obtain ⟨x, hx, hxf⟩ := Option.bind_eq_some_iff.mp hf
      dsimp only
      rcases h w x since hw hx hxf with h | ⟨h1, h2⟩
      · exact if_pos h
      · split
        · rfl
        · split
          next h => exact absurd h h1
          next h => exact absurd h h2
          · rfl

theorem shardOverdue_due {x : Wanted} {since : Nat} (hw : s.weight? c base = some w)
    (hx : (w.wanted.find? fun y => y.tile == tile) = some x) (hf : x.from_ = some since) (ht : since + w.deadline * 1000 ≤ s.now) :
    (w.phase = .swapping → shardOverdueEffect c base tile s = s.rollBackSwap w (w.manifest.layerOf tile) tile) ∧
      (w.phase = .rollingBack → shardOverdueEffect c base tile s = s.loseWeights w) := by
  have hb := (overdue_from hx).trans hf
  refine ⟨fun hp => ?_, fun hp => ?_⟩
  all_goals
    simp only [shardOverdueEffect, hw, hb, hp]
    exact if_neg (Nat.not_lt.mpr ht)

end

/-! ### Rolling back -/

theorem mem_insertBy {α : Type} (le : α → α → Bool) (x y : α) (xs : List α) : y ∈ Lists.insertBy le x xs ↔ y = x ∨ y ∈ xs := by
  induction xs with
  | nil => simp [Lists.insertBy]
  | cons z zs ih =>
    rw [Lists.insertBy]
    split
    · rw [List.mem_cons, ih, List.mem_cons]
      tauto
    · simp

theorem mem_sortBy {α : Type} (le : α → α → Bool) (y : α) (xs : List α) : y ∈ Lists.sortBy le xs ↔ y ∈ xs := by
  induction xs with
  | nil => rfl
  | cons x xs ih => rw [Lists.sortBy, mem_insertBy, ih, List.mem_cons]

section
variable {s : State} {c : CtxNo} {base : BitVec 42} {w : WeightObj}

/-- A reload that takes effect, or finds that it has nothing to reload (11 R287). -/
theorem reloadEffect_begins (h : s.weight? c base = some w) (hp : w.phase = .rollingBack) (he : w.effective = false) :
    ∃ y, (s.reloadEffect c base).weight? c base = some y ∧ y.manifest = w.manifest ∧
      (w.wanted ≠ [] → y.phase = .rollingBack ∧ y.next = w.next ∧ y.wanted.map (·.tile) = w.wanted.map (·.tile)) ∧
      (w.wanted = [] → y.phase = .ready ∧ y.q = none) := by
  obtain ⟨ws, ha, htiles⟩ := await_shape { w with effective := true, wanted := w.wanted.map fun x => { x with ready := true } } s.now
  have hready : (w.wanted.map fun x => { x with ready := true }).map (·.tile) = w.wanted.map (·.tile) := by
    rw [List.map_map]
    rfl
  rw [hready] at htiles
  have hv : (s.modWeight c base fun _ => { w with effective := true, wanted := ws }).weight? c base =
      some { w with effective := true, wanted := ws } := by
    refine (modifyIf_find? (fun y hy => ?_) s.weights).trans (by rw [show s.weights.find? _ = some w from h]; rfl)
    obtain ⟨h1, h2⟩ := weight?_names h
    simp [h1, h2]
  have hrow : s.reloadEffect c base = (s.modWeight c base fun _ => { w with effective := true, wanted := ws }).settleWeights
      { w with effective := true, wanted := ws } := by
    rw [State.reloadEffect, h]
    refine (if_neg (by simp [hp, he])).trans ?_
    dsimp only at ha ⊢
    rw [ha]
  rw [hrow]
  by_cases hw : w.wanted = []
  · have hws : ws = [] := List.map_eq_nil_iff.mp (htiles.trans (by rw [hw]; rfl))
    obtain ⟨y, hy, -, hdone, hman⟩ := settleWeights_done hv hws
    refine ⟨y, hy, hman (by simp [hp]), fun hne => absurd hw hne, fun _ => hdone ?_ ?_⟩
    · simp [hp]
    · simp [hp]
  · have hws : ws ≠ [] := fun hws => hw (List.map_eq_nil_iff.mp (htiles.symm.trans (by rw [hws]; rfl)))
    rw [settleWeights_wanting (by exact hws)]
    exact ⟨_, hv, rfl, fun _ => ⟨hp, rfl, htiles⟩, fun h => absurd h hw⟩

/-- A lost weight object, that wants what is given. -/
def lostWeights (wanted : List Wanted) (y : WeightObj) : WeightObj :=
  { y with phase := .lost, q := none, next := none, effective := false, overwritten := [], wanted := wanted }

/-- A swap of a lost object that rolls back leaves it lost (11 R289). -/
theorem rollBackSwap_lost (h : s.weight? c base = some w) (hl : w.wasLost = true) (layer tile : Nat) :
    ∃ y, (s.rollBackSwap w layer tile).weight? c base = some y ∧ y.phase = .lost ∧ y.q = none ∧ y.manifest = w.manifest := by
  have he := ((kept_event s (.ctx w.ctx) 0x0062 w.base.toNat layer tile).weight? c base).trans h
  obtain ⟨rfl, rfl⟩ := weight?_names h
  have hv := weight?_modWeight (f := lostWeights (w.manifest.shards.map fun x => { tile := x.tile })) he fun y => ⟨rfl, rfl⟩
  refine ⟨lostWeights (w.manifest.shards.map fun x => { tile := x.tile }) w, ?_, rfl, rfl, rfl⟩
  unfold State.rollBackSwap
  dsimp only
  rw [if_pos hl]
  split
  · exact ((kept_finish ..).weight? _ _).trans hv
  · exact hv

/-- An object whose swap rolls back: it wants what was overwritten (11 R287). -/
def rolledBack (w y : WeightObj) : WeightObj :=
  { refetchesLeft (fun z => (Lists.sortBy (fun a b => decide (a ≤ b)) w.overwritten).contains z.tile) y with
    phase := .rollingBack, effective := false, wanted := (Lists.sortBy (fun a b => decide (a ≤ b)) w.overwritten).map fun t => { tile := t } }

theorem rolledBack_tiles (w y : WeightObj) (i : Nat) : i ∈ (rolledBack w y).wanted.map (·.tile) ↔ i ∈ w.overwritten := by
  simp [rolledBack, mem_sortBy]

theorem rolledBack_wanted (w y : WeightObj) : (rolledBack w y).wanted = [] ↔ w.overwritten = [] := by
  rw [← List.map_eq_nil_iff (f := (·.tile)), List.eq_nil_iff_forall_not_mem, List.eq_nil_iff_forall_not_mem]
  simp only [rolledBack_tiles]

/-- The device as a swap begins to roll back. -/
def rolledBackState (s : State) (w : WeightObj) : State :=
  (s.endRefetches w fun z => (Lists.sortBy (fun a b => decide (a ≤ b)) w.overwritten).contains z.tile).modWeight w.ctx w.base fun y =>
    { y with phase := .rollingBack, effective := false,
             wanted := (Lists.sortBy (fun a b => decide (a ≤ b)) w.overwritten).map fun t => { tile := t } }

theorem event_ptns (s : State) (r : Ring) (code a0 a1 a2 : Nat) : (s.event r code a0 a1 a2).ptns = s.ptns := by
  obtain ⟨_, _, h⟩ := State.event_shape s r code a0 a1 a2
  rw [h]

theorem zeroTier_ptns (s : State) (tier k a n : Nat) : (s.zeroTier tier k a n).ptns = s.ptns := by
  obtain ⟨_, _, _, _, h, -⟩ := State.zeroTier_shape s tier k a n
  rw [h]

theorem rolledBackState_ptns (s : State) (w : WeightObj) : (rolledBackState s w).ptns = s.ptns := by
  have hfold (xs : List Refetch) (u : State) : (xs.foldl (fun (st : State) (x : Refetch) =>
      st.zeroTier x.dest.tier x.dest.cluster (x.dest.unit * unitBytes) shardTile) u).ptns = u.ptns := by
    induction xs generalizing u with
    | nil => rfl
    | cons x xs ih => exact (ih _).trans (zeroTier_ptns ..)
  unfold rolledBackState State.endRefetches
  split
  · split
    · exact hfold ..
    · rfl
  · rfl

/-- The swap of an object that was not lost rolls back: what was overwritten is wanted again, and nothing overwritten ends it
at once where no run is in progress (11 R287). -/
theorem rollBackSwap_kept (h : s.weight? c base = some w) (hl : w.wasLost = false) (layer tile : Nat) :
    ∃ y, (s.rollBackSwap w layer tile).weight? c base = some y ∧ y.manifest = w.manifest ∧
      (w.overwritten ≠ [] → y.phase = .rollingBack ∧ y.next = w.next ∧ ∀ i, i ∈ y.wanted.map (·.tile) ↔ i ∈ w.overwritten) ∧
      (w.overwritten = [] → s.run? (ptnOf c) = none → y.phase = .ready ∧ y.q = none) := by
  have he := ((kept_event s (.ctx w.ctx) 0x0062 w.base.toNat layer tile).weight? c base).trans h
  have hptns := event_ptns s (.ctx w.ctx) 0x0062 w.base.toNat layer tile
  obtain ⟨rfl, rfl⟩ := weight?_names h
  generalize hs : s.event (.ctx w.ctx) 0x0062 w.base.toNat layer tile = t at he hptns
  obtain ⟨u, hu⟩ : ∃ u, u = rolledBackState t w := ⟨_, rfl⟩
  have hv : u.weight? w.ctx w.base = some (rolledBack w w) := by
    rw [hu]
    exact weight?_modWeight (weight?_endRefetches he _) fun y => ⟨rfl, rfl⟩
  have hrow : s.rollBackSwap w layer tile = match (u.ptn? (ptnOf w.ctx)).bind fun x => x.run.map fun r => (x, r) with
      | none => u.reloadEffect w.ctx w.base
      | some (x, r) =>
        if !(r.ctx == w.ctx && r.objs.contains w.base && !r.oldFor.contains w.base && u.hasReached r w) then u.reloadEffect w.ctx w.base
        else if x.beat.closed then (u.discardRun (ptnOf w.ctx)).reloadEffect w.ctx w.base
        else u.modPtn (ptnOf w.ctx) fun y => { y with run := y.run.map fun z => { z with discard := true } } := by
    rw [hu, ← hs]
    exact if_neg (by simp [hl])
  have hback (v : State) (hvw : v.weight? w.ctx w.base = some (rolledBack w w)) :
      ∃ y, (v.reloadEffect w.ctx w.base).weight? w.ctx w.base = some y ∧ y.manifest = w.manifest ∧
        (w.overwritten ≠ [] → y.phase = .rollingBack ∧ y.next = w.next ∧ ∀ i, i ∈ y.wanted.map (·.tile) ↔ i ∈ w.overwritten) ∧
        (w.overwritten = [] → y.phase = .ready ∧ y.q = none) := by
    obtain ⟨y, hy, hm, hmore, hend⟩ := reloadEffect_begins hvw rfl rfl
    refine ⟨y, hy, hm, fun ho => ?_, fun ho => hend ((rolledBack_wanted w w).mpr ho)⟩
    obtain ⟨h1, h2, h3⟩ := hmore ((rolledBack_wanted w w).not.mpr ho)
    exact ⟨h1, h2, fun i => by rw [h3, rolledBack_tiles]⟩
  have hptn : u.ptn? (ptnOf w.ctx) = s.ptn? (ptnOf w.ctx) := by
    unfold State.ptn?
    rw [hu, rolledBackState_ptns, hptns]
  rw [hrow, hptn]
  cases hx : (s.ptn? (ptnOf w.ctx)).bind fun x => x.run.map fun r => (x, r) with
  | none =>
    obtain ⟨y, hy, hm, h1, h2⟩ := hback u hv
    exact ⟨y, hy, hm, h1, fun ho _ => h2 ho⟩
  | some xr =>
    obtain ⟨x, r⟩ := xr
    have hrun : s.run? (ptnOf w.ctx) ≠ none := by
      obtain ⟨x', hx', hr⟩ := Option.bind_eq_some_iff.mp hx
      obtain ⟨r', hr', -⟩ := Option.map_eq_some_iff.mp hr
      simp [State.run?, hx', hr']
    dsimp only
    split
    · obtain ⟨y, hy, hm, h1, h2⟩ := hback u hv
      exact ⟨y, hy, hm, h1, fun ho _ => h2 ho⟩
    · split
      · obtain ⟨y, hy, hm, h1, h2⟩ := hback (u.discardRun (ptnOf w.ctx)) (((kept_discardRun ..).weight? _ _).trans hv)
        exact ⟨y, hy, hm, h1, fun ho _ => h2 ho⟩
      · exact ⟨rolledBack w w, ((kept_modPtn ..).weight? _ _).trans hv, rfl, fun _ => ⟨rfl, rfl, rolledBack_tiles w w⟩,
          fun _ hr => absurd hr hrun⟩

/-- What loses an object (11 R289). -/
theorem loseWeights_lost (h : s.weight? c base = some w) :
    ∃ y, (s.loseWeights w).weight? c base = some y ∧ y.phase = .lost ∧ y.q = none ∧ y.manifest = w.manifest := by
  obtain ⟨rfl, rfl⟩ := weight?_names h
  have hv := weight?_modWeight (f := fun y => lostWeights y.wanted y) h fun y => ⟨rfl, rfl⟩
  have he := ((kept_event _ (.ctx w.ctx) 0x0064 w.base.toNat 0 0).weight? w.ctx w.base).trans hv
  have hend (t : State) (ht : t.weight? w.ctx w.base = some (lostWeights w.wanted w)) :
      (match (t.ptn? (ptnOf w.ctx)).bind fun x => x.run.map fun r => (x, r) with
        | some (x, r) => if x.holds.wave && x.beat.closed && t.heldOnLost r (if r.released then r.beat + 1 else 0) then
            t.endRun (ptnOf w.ctx) stWgtLost else t
        | none => t).weight? w.ctx w.base = some (lostWeights w.wanted w) := by
    cases (t.ptn? (ptnOf w.ctx)).bind fun x => x.run.map fun r => (x, r) with
    | none => exact ht
    | some xr =>
      dsimp only
      generalize t.heldOnLost xr.2 (if xr.2.released then xr.2.beat + 1 else 0) = lost
      split
      · exact ((kept_endRun ..).weight? _ _).trans ht
      · exact ht
  refine ⟨lostWeights w.wanted w, ?_, rfl, rfl, rfl⟩
  unfold State.loseWeights
  dsimp only
  cases hq : w.q with
  | none => exact hend _ he
  | some q => exact hend _ (((kept_finish ..).weight? _ _).trans he)

theorem shardReceive_some {bs : List Byte} (h : s.weight? c base = some w) :
    exec (.shardReceive c base tile bs) s = .next (s.shardArrives false w tile bs) := by
  refine exec_effect rfl ?_
  rw [shardReceiveEffect, h]

/-! ### The wave gate's release -/

theorem waveRelease_stays {p : Fin 8} (h : s.run? p.val = none) : waveReleaseEffect p s = s := by
  have hb : ((s.ptn? p.val).bind fun x => x.run.map fun r => (x, r)) = none := by
    unfold State.run? at h
    cases hx : s.ptn? p.val with
    | none => rfl
    | some x =>
      rw [hx] at h
      rw [Option.bind_some, show x.run = none from h]
      rfl
  rw [waveReleaseEffect, hb]

theorem waveRelease_run {p : Fin 8} {x : Partition} {r : Run} (hx : s.ptn? p.val = some x) (hr : x.run = some r) :
    waveReleaseEffect p s = if x.holds.wave && !s.waveHeld r (if r.released then r.beat + 1 else 0) then
      s.modPtn p.val fun y => { y with holds := { y.holds with wave := false } } else s := by
  have hb : ((s.ptn? p.val).bind fun x => x.run.map fun r => (x, r)) = some (x, r) := by
    rw [hx, Option.bind_some, hr]
    rfl
  rw [waveReleaseEffect, hb]

end

/-- Settles O44, from what a shard that arrives, is missed or is overdue does to its weight object, and what the end of a swap, a
reload or a loss leaves of it. -/
theorem shards : Obligations.Shards := by
  unfold Obligations.Shards
  refine ⟨fun s c base tile bs => ⟨fun h => ?_, fun w o hw ho => ?_⟩, fun s c base tile => ⟨fun h => ?_, fun w x hw hx hg hf ht => ?_⟩,
    fun s c base tile => ⟨fun h => ?_, fun w x since hw hx hf ht => ?_⟩,
    fun s p => ⟨fun h => exec_effect rfl (waveRelease_stays h), fun x r hx hr => ?_⟩⟩
  · rcases h with h | h
    · refine exec_effect rfl ?_
      rw [shardReceiveEffect, h]
    · cases hw : s.weight? c base with
      | none =>
        refine exec_effect rfl ?_
        rw [shardReceiveEffect, hw]
      | some w =>
        obtain ⟨rfl, rfl⟩ := weight?_names hw
        exact (shardReceive_some hw).trans (congrArg _ (shardArrives_none (.inl h)))
  · have hrow := shardReceive_some (tile := tile) (bs := bs) hw
    have hname := weight?_names hw
    obtain ⟨rfl, rfl⟩ := hname
    refine ⟨fun hsh => hrow.trans (congrArg _ (shardArrives_none (.inr hsh))), fun sh hsh =>
      ⟨fun x hx h => hrow.trans (congrArg _ (shardArrives_refused ho hsh hx h)), fun x hx hg hl hm => ⟨fun hok => ?_, fun hok => ?_⟩,
        fun hx hr => hrow.trans (congrArg _ ((shardArrives_refetch ho hsh hx).1 hr)), fun x hx hr => ?_⟩⟩
    · obtain ⟨y, hy, htiles, hdone⟩ := shardArrives_matches hw ho hsh hx hg hl hm hok
      refine ⟨_, y, hrow, hy, fun z hz hzt => ?_, htiles, hdone⟩
      have hmem : z.tile ∈ (w.wanted.map (·.tile)).filter (· != tile) := htiles ▸ List.mem_map_of_mem hz
      simp [hzt] at hmem
    · obtain ⟨y, hy⟩ := shardArrives_mismatches hw ho hsh hx hg hl hm hok
      exact ⟨_, y, hrow, hy⟩
    · obtain ⟨h1, h2, h3⟩ := (shardArrives_refetch (bs := bs) ho hsh hx).2 x hr
      exact ⟨fun hl => hrow.trans (congrArg _ (h1 hl)), fun hl hok => hrow.trans (congrArg _ (h2 hl hok)),
        fun hl hok => hrow.trans (congrArg _ (h3 hl hok))⟩
  · exact exec_effect rfl (shardMissing_idle h)
  · exact exec_effect rfl (shardMissing_asks hw hx hg hf ht)
  · exact exec_effect rfl (shardOverdue_idle h)
  · obtain ⟨hswap, hback⟩ := shardOverdue_due hw hx hf ht
    refine ⟨fun hp => exec_effect rfl (hswap hp), fun _ hl => rollBackSwap_lost hw hl _ _, fun _ hl => rollBackSwap_kept hw hl _ _,
      fun hp => ?_⟩
    obtain ⟨y, hy⟩ := loseWeights_lost hw
    exact ⟨_, y, exec_effect rfl (hback hp), hy⟩
  · refine ⟨fun h => exec_effect rfl ((waveRelease_run hx hr).trans (if_neg ?_)), fun h1 h2 =>
      exec_effect rfl ((waveRelease_run hx hr).trans (if_pos ?_))⟩
    · rcases h with h | h <;> simp [h]
    · simp [h1, h2]

end Sys2Proof.Machine
end

section
/-! SUPPORT and the settlement of O45: weight sessions, multicast frames and the library's entries (11 R272 to R276, R282, 13 R331,
R345, R346). -/

namespace Sys2Proof.Machine

/-! ### Multicast frames -/

section
variable {s : State} {k : Fin 8} {f : Frame}

theorem forward_far {body : FeltBody} {owes : Option (Fin 8 × Nat)} (h : f.hops = 15) :
    s.forward f body owes = (s.modFelt fun x => { x with hopDrops := x.hopDrops + 1 }).giveCredit owes := if_pos (by rw [h]; decide)

theorem forward_on {body : FeltBody} {owes : Option (Fin 8 × Nat)} (h : f.hops ≠ 15) :
    s.forward f body owes =
      s.send ⟨f.dst, f.src, f.dpart, f.spart, f.hops.toNat + 1, if f.type.toNat ≤ 2 then 8 else 9, none, body, owes⟩ :=
  if_neg (by have : f.hops.toNat ≠ 15 := fun e => h (BitVec.eq_of_toNat_eq e); omega)

end

section
variable {s : State} {o : Outgoing} {reader group : BitVec 16} {sq : BitVec 32} {off : BitVec 48} {bs : List Byte}

theorem send_waits (h : s.maySend o = false) : s.send o = s.modFelt fun f => { f with waiting := f.waiting ++ [o] } := if_pos (by simp [h])

/-- A frame of a tree that the device has not: it is dropped, and its credit goes back (13 R345). -/
theorem send_noTree (hb : o.body = .multicast reader group sq off bs) (h : s.maySend o = true) (ht : s.tree? reader group = none) :
    s.send o = s.giveCredit o.owes := by
  rw [State.send, if_neg (by simp [h]), hb]
  dsimp only
  rw [ht]

/-- A frame of a tree goes out on every branch once all have room (13 R346). -/
theorem send_tree {t : Tree} (hb : o.body = .multicast reader group sq off bs) (h : s.maySend o = true) (ht : s.tree? reader group = some t) :
    s.send o = if t.ports.all fun k => (s.port k).phase == .up && s.hasRoom k o then
        if t.leaf then ((t.ports.foldl (fun st k => st.putOut k o) s).giveCredit o.owes).deliverHere o
        else (t.ports.foldl (fun st k => st.putOut k o) s).giveCredit o.owes
      else s.modFelt fun f => { f with waiting := f.waiting ++ [o] } := by
  rw [State.send, if_neg (by simp [h]), hb]
  dsimp only
  rw [ht]

end

/-! ### Requests and the linger time -/

section
variable {s : State} {no : BitVec 32} {r : BitVec 16} {tile : Nat}

theorem modifyIf_none {α : Type} {p : α → Bool} {f : α → α} {xs : List α} (h : ∀ x ∈ xs, p x = false) : Lists.modifyIf p f xs = xs := by
  refine (List.map_congr_left fun x hx => ?_).trans (List.map_id xs)
  rw [h x hx]
  rfl

/-- A session that a receiver has asked for a shard. -/
def askedFor (now : Nat) (r : BitVec 16) (tile : Nat) (x : Serving) : Serving :=
  { x with resends := if x.resends.contains (r, tile) then x.resends else x.resends ++ [(r, tile)]
           lingerFrom := x.lingerFrom.map fun _ => now }

theorem mem_askedFor (now : Nat) (r : BitVec 16) (tile : Nat) (x : Serving) : (r, tile) ∈ (askedFor now r tile x).resends := by
  unfold askedFor
  dsimp only
  split
  next h => exact List.contains_iff_mem.mp h
  · simp

theorem askedFor_keeps (now : Nat) (r : BitVec 16) (tile : Nat) (x : Serving) : ∀ z ∈ x.resends, z ∈ (askedFor now r tile x).resends := by
  intro z hz
  unfold askedFor
  dsimp only
  split
  · exact hz
  · exact List.mem_append_left _ hz

theorem resendRequest_eq : resendRequestEffect no r tile s =
    { s with serving := Lists.modifyIf (fun x => x.session == no) (askedFor s.now r tile) s.serving } := rfl

theorem resendRequest_stays (h : ∀ x ∈ s.serving, x.session ≠ no) : resendRequestEffect no r tile s = s := by
  rw [resendRequest_eq, modifyIf_none fun x hx => by simpa using h x hx]

theorem resendRequest_find {x : Serving} (h : (s.serving.find? fun x => x.session == no) = some x) :
    ((resendRequestEffect no r tile s).serving.find? fun x => x.session == no) = some (askedFor s.now r tile x) := by
  rw [resendRequest_eq]
  refine (modifyIf_find? (fun y hy => ?_) s.serving).trans (by rw [h]; rfl)
  exact hy

/-- A session whose linger time has passed with no request. -/
def Serving.spent (now : Nat) (x : Serving) : Bool := x.lingerFrom.any fun t => t + x.linger ≤ now && x.resends.isEmpty

theorem spent_iff (now : Nat) (x : Serving) : x.spent now = true ↔ x.resends = [] ∧ ∃ t, x.lingerFrom = some t ∧ t + x.linger ≤ now := by
  unfold Serving.spent
  cases x.lingerFrom <;> simp [and_comm]

theorem lingerExpiry_stays (h : (s.serving.find? fun x => x.session == no && x.spent s.now) = none) :
    sessionLingerExpiryEffect no s = s := by
  unfold Serving.spent at h
  rw [sessionLingerExpiryEffect]
  dsimp only
  rw [h]

theorem lingerExpiry_ends {x : Serving} (h : (s.serving.find? fun x => x.session == no && x.spent s.now) = some x) :
    sessionLingerExpiryEffect no s = s.endSession x stOk := by
  unfold Serving.spent at h
  rw [sessionLingerExpiryEffect]
  dsimp only
  rw [h]

end

/-! ### What serving a shard leaves -/

/-- The state t has the sessions, the weight objects and the time of s. -/
def SameSessions (s t : State) : Prop := t.serving = s.serving ∧ t.weights = s.weights ∧ t.now = s.now

theorem SameSessions.trans {s t u : State} (h : SameSessions s t) (k : SameSessions t u) : SameSessions s u :=
  ⟨k.1.trans h.1, k.2.1.trans h.2.1, k.2.2.trans h.2.2⟩

theorem sameSessions_send {s t : State} (h : SameSessions s t) (o : Outgoing) : SameSessions s (t.send o) := by
  obtain ⟨⟨_, _, _, _, _, he⟩, -⟩ := sends_send t o
  rw [he]
  exact h

theorem sameSessions_foldl {α : Type} {f : State → α → State} (h : ∀ s a, SameSessions s (f s a)) (as : List α) (s : State) :
    SameSessions s (as.foldl f s) := by
  induction as generalizing s with
  | nil => exact ⟨rfl, rfl, rfl⟩
  | cons a as ih => exact (h s a).trans (ih _)

theorem sameSessions_sendGroup (s : State) (x : Serving) (bs : List Byte) : SameSessions s (s.sendGroup x bs) := by
  refine sameSessions_foldl (fun s a => ?_) _ s
  obtain ⟨off, b⟩ := a
  exact sameSessions_send ⟨rfl, rfl, rfl⟩ _

theorem sameSessions_sendData (s : State) (spart : Nat) (dst : BitVec 16) (dpart : BitVec 3) (off : Nat) (bs : List Byte) (q : Option Req)
    (m : Option Nat) : SameSessions s (s.sendData spart dst dpart off bs q m) := sameSessions_send ⟨rfl, rfl, rfl⟩ _

theorem modServing_one {s : State} {x : Serving} {q : Req} (h : s.serving = [x]) (hq : x.q = q) (f : Serving → Serving) :
    (s.modServing q f).serving = [f x] := by
  simp [State.modServing, Lists.modifyIf, h, hq]

/-- The frames of a shard to the receivers that asked for it. -/
def sentAgain (s : State) (p : Nat) (v : Nat) (asked : List (BitVec 16 × Nat)) (bs : List Byte) : State :=
  asked.foldl (fun st y => (frameCuts (bs.length / 4096 + 1) 0 bs).foldl
    (fun z (a, b) => z.sendData p y.1 (BitVec.ofNat 3 v) a b none none) st) s

theorem sameSessions_sentAgain (s : State) (p v : Nat) (asked : List (BitVec 16 × Nat)) (bs : List Byte) :
    SameSessions s (sentAgain s p v asked bs) :=
  sameSessions_foldl (fun s y => sameSessions_foldl (fun z ab => sameSessions_sendData ..) _ s) _ s

section
variable {s : State} {x : Serving} {m : Manifest} {tile : Nat} {bs : List Byte}

/-- Whether a shard is the next one that a session sends. -/
def Serving.turn (x : Serving) (m : Manifest) (tile : Nat) : Bool := x.position == tile && x.position < m.shards.length

theorem turn_iff : x.turn m tile = true ↔ x.position = tile ∧ tile < m.shards.length := by
  unfold Serving.turn
  simp only [Bool.and_eq_true, beq_iff_eq, decide_eq_true_eq]
  exact ⟨fun ⟨h1, h2⟩ => ⟨h1, h1 ▸ h2⟩, fun ⟨h1, h2⟩ => ⟨h1, h1.symm ▸ h2⟩⟩

theorem turn_not (h : x.position ≠ tile ∨ m.shards.length ≤ x.position) : x.turn m tile = false := by
  rw [← Bool.not_eq_true, turn_iff]
  rintro ⟨h1, h2⟩
  rcases h with h | h
  · exact h h1
  · omega

theorem asked_isEmpty : (x.resends.filter fun y => y.2 == tile).isEmpty = true ↔ ∀ y ∈ x.resends, y.2 ≠ tile := by
  simp [List.isEmpty_iff, List.filter_eq_nil_iff]

/-- A session whose shard was read well: its failures are forgotten. -/
def forgiven (tile : Nat) (y : Serving) : Serving := { y with fails := y.fails.filter fun z => z.1 != tile }

/-- A session that has sent its next shard. -/
def goneOn (now : Nat) (last : Bool) (y : Serving) : Serving :=
  { y with position := y.position + 1, lingerFrom := if last then some now else y.lingerFrom }

theorem serveShard_idle (ht : x.turn m tile = false) (ha : (x.resends.filter fun y => y.2 == tile).isEmpty = true) :
    s.serveShard x m tile bs = s := by
  unfold Serving.turn at ht
  exact if_pos (by rw [ht, ha]; rfl)

theorem serveShard_turn (ht : x.turn m tile = true) (hok : m.shardOk tile bs = true) : s.serveShard x m tile bs =
    ((s.modServing x.q (forgiven tile)).sendGroup x bs).modServing x.q
      (goneOn ((s.modServing x.q (forgiven tile)).sendGroup x bs).now (x.position + 1 = m.shards.length)) := by
  unfold Serving.turn at ht
  unfold State.serveShard
  dsimp only
  rw [ht, if_neg (by simp), if_pos hok, if_pos rfl]
  unfold goneOn
  simp only [decide_eq_true_eq]
  rfl

theorem serveShard_asked (ht : x.turn m tile = false) (ha : (x.resends.filter fun y => y.2 == tile).isEmpty = false)
    (hok : m.shardOk tile bs = true) : s.serveShard x m tile bs =
      (sentAgain (s.modServing x.q (forgiven tile)).takeFree.2 (((ctxOf x.q.ring).map ptnOf).getD 0)
        (s.modServing x.q (forgiven tile)).takeFree.1.toNat (x.resends.filter fun y => y.2 == tile) bs).modServing x.q
        fun y => { y with resends := y.resends.filter fun z => z.2 != tile } := by
  unfold Serving.turn at ht
  unfold State.serveShard
  dsimp only
  rw [ht, if_neg (by simp [ha]), if_pos hok, if_neg (by decide)]
  rfl

theorem serveShard_fails (h : x.turn m tile = true ∨ (x.resends.filter fun y => y.2 == tile).isEmpty = false)
    (hok : m.shardOk tile bs = false) : s.serveShard x m tile bs =
      if 3 ≤ Table.get 0 x.fails tile + 1 then s.endSession x stPoison
      else s.modServing x.q fun y => { y with fails := Table.set y.fails tile (Table.get 0 y.fails tile + 1) } := by
  unfold Serving.turn at h
  refine (if_neg ?_).trans (if_neg (by simp [hok]))
  rcases h with h | h
  · simp only [h]; simp
  · simp only [h]; simp

theorem serveShard_weights (s : State) (x : Serving) (m : Manifest) (tile : Nat) (bs : List Byte) :
    (s.serveShard x m tile bs).weights = s.weights := by
  cases ht : x.turn m tile with
  | true =>
    cases hok : m.shardOk tile bs with
    | true => rw [serveShard_turn ht hok]; exact (sameSessions_sendGroup ..).2.1
    | false =>
      rw [serveShard_fails (.inl ht) hok]
      split
      · exact (kept_finish ..).leaves.1
      · rfl
  | false =>
    cases ha : (x.resends.filter fun y => y.2 == tile).isEmpty with
    | true => rw [serveShard_idle ht ha]
    | false =>
      cases hok : m.shardOk tile bs with
      | true => rw [serveShard_asked ht ha hok]; exact (sameSessions_sentAgain ..).2.1
      | false =>
        rw [serveShard_fails (.inr ha) hok]
        split
        · exact (kept_finish ..).leaves.1
        · rfl

end

/-! ### The flash store -/

/-- The state t is s with another flash store. -/
def FlashOnly (s t : State) : Prop := ∃ fl, t = { s with flash := fl }

theorem FlashOnly.refl (s : State) : FlashOnly s s := ⟨s.flash, rfl⟩

theorem FlashOnly.trans {s t u : State} (h : FlashOnly s t) (k : FlashOnly t u) : FlashOnly s u := by
  obtain ⟨_, rfl⟩ := h
  obtain ⟨fl, rfl⟩ := k
  exact ⟨fl, rfl⟩

theorem flashOnly_foldl {α : Type} {f : State → α → State} (h : ∀ s a, FlashOnly s (f s a)) (as : List α) (s : State) :
    FlashOnly s (as.foldl f s) := by
  induction as generalizing s with
  | nil => exact .refl s
  | cons a as ih => exact (h s a).trans (ih _)

theorem flashOnly_modFlash (s : State) (f : Flash → Flash) : FlashOnly s (s.modFlash f) := ⟨_, rfl⟩

theorem flashOnly_countPages (s : State) (errors : List (Nat × Nat)) : FlashOnly s (s.countPages errors) :=
  flashOnly_foldl (fun s a => flashOnly_modFlash s _) _ s

theorem flashOnly_dropJobs (s : State) (p : FlashJob → Bool) : FlashOnly s (s.dropJobs p) := flashOnly_modFlash ..

theorem flashOnly_addJobs (s : State) (js : List FlashJob) : FlashOnly s (s.addJobs js) :=
  flashOnly_foldl (fun s j => flashOnly_modFlash s _) js s

theorem flashOnly_leaveDirty (s : State) (is : List Nat) : FlashOnly s (s.leaveDirty is) := by
  unfold State.leaveDirty
  exact ((flashOnly_modFlash ..).trans (flashOnly_dropJobs ..)).trans (flashOnly_foldl (fun s i => flashOnly_addJobs ..) _ _)

theorem flashOnly_record (s : State) (r : LogRecord) : FlashOnly s (s.record r) := flashOnly_modFlash ..

theorem deleteEntry_library (s : State) (e : LibraryEntry) : (s.deleteEntry e).library = s.library.filter (· != e) := by
  unfold State.deleteEntry State.recordLibrary
  obtain ⟨fl, h⟩ := (flashOnly_leaveDirty { s.modFlash fun f => { f with
    copying := f.copying.filter fun c => !e.stripes.contains c.src, freed := f.freed ++ e.stripes.filter fun i => !f.freed.contains i }
    with library := s.library.filter fun x => x != e } ((s.flash.copying.filter fun c => e.stripes.contains c.src).map Copying.dst)).trans
    (flashOnly_record ..)
  exact (congrArg State.library h).trans rfl

/-! ### Reads of the library -/

section
variable {s : State} {model : BitVec 64} {version : BitVec 32} {tile : Nat} {r : FlashRead} {e : LibraryEntry}

/-- The pages of a shard that a read names, with their corrections. -/
def readErrors (e : LibraryEntry) (tile : Nat) (r : FlashRead) : List (Nat × Nat) :=
  r.pages.filterMap fun x => (((shardPages e.manifest tile)[x.1]?).bind (entryKey e.stripes)).map fun key => (key, x.2)

theorem flashRead_waits (he : s.entry? model version = some e)
    (h : s.restarting storeIsland = true ∨ s.stacksRun = false ∨
      ∃ k ∈ (shardPages e.manifest tile).filterMap (entryKey e.stripes), s.keyBusy k = true) :
    flashReadCompleteEffect model version tile r s = s := by
  simp only [flashReadCompleteEffect, he]
  refine if_pos ?_
  rcases h with h | h | h
  · simp [h]
  · simp [h]
  · have : (((shardPages e.manifest tile).filterMap (entryKey e.stripes)).any s.keyBusy) = true := List.any_eq_true.mpr h
    simp only [this, Bool.or_true]

/-- A read of a library shard for the sessions, with no weight object to take it. -/
theorem flashRead_serves (he : s.entry? model version = some e) (h1 : s.restarting storeIsland = false) (h2 : s.stacksRun = true)
    (h3 : ∀ k ∈ (shardPages e.manifest tile).filterMap (entryKey e.stripes), s.keyBusy k = false) {t : State}
    (ht : (s.countPages (readErrors e tile r)).serving.foldl (fun st x => if x.modelId = model ∧ x.version = version then
      st.serveShard x e.manifest tile (s.readShard e.stripes e.manifest tile r.pages r.bytes) else st) (s.countPages (readErrors e tile r)) = t)
    (hw : t.weights = []) : flashReadCompleteEffect model version tile r s = t.copyWorn (readErrors e tile r) := by
  have hkeys : (((shardPages e.manifest tile).filterMap (entryKey e.stripes)).any s.keyBusy) = false :=
    List.any_eq_false.mpr fun k hk => by simp [h3 k hk]
  simp only [flashReadCompleteEffect, he]
  refine (if_neg (by rw [h1, h2, hkeys]; decide)).trans ?_
  unfold readErrors at ht ⊢
  rw [ht, hw]
  rfl

end

/-! ### WGT.SERVE and WGT.DELETE -/

section
variable {s : State} {q : Req} {model : BitVec 64} {version session : BitVec 32} {group linger : BitVec 16}

theorem wgtServe_noEntry (h : s.entry? model version = none) : wgtServeBody model version session group linger s q = .status s stNoObject := by
  rw [wgtServeBody, h]

theorem wgtServe_full {x : LibraryEntry} (h : s.entry? model version = some x) (hn : 8 ≤ s.serving.length) :
    wgtServeBody model version session group linger s q = .status s stLimit := by
  rw [wgtServeBody, h]
  exact if_pos hn

theorem wgtServe_opens {x : LibraryEntry} (h : s.entry? model version = some x) (hn : s.serving.length < 8) :
    let y : Serving := { q := q, session := session, modelId := model, version := version, group := group,
                         linger := (if linger = 0 then 60 else linger.toNat) * 1000000 }
    wgtServeBody model version session group linger s q = .goesOn (({ s with serving := s.serving ++ [y] }).sendGroup y x.manifest.raw) := by
  rw [wgtServeBody, h]
  exact if_neg (by omega)

theorem wgtDelete_noEntry (h : s.entry? model version = none) : wgtDeleteBody model version s q = .status s stNoObject := by
  rw [wgtDeleteBody, h]

/-- Whether a version of the library is used by a weight object or a session (11 R291). -/
def entryUsed (s : State) (model : BitVec 64) (version : BitVec 32) : Bool :=
  (s.weights.any fun w => (w.manifest.modelId == model && w.manifest.version == version) ||
    w.next.any fun m => m.modelId == model && m.version == version) || s.serving.any fun x => x.modelId == model && x.version == version

theorem entryUsed_iff : entryUsed s model version = true ↔
    (∃ w ∈ s.weights, (w.manifest.modelId = model ∧ w.manifest.version = version) ∨
      ∃ m, w.next = some m ∧ m.modelId = model ∧ m.version = version) ∨ ∃ x ∈ s.serving, x.modelId = model ∧ x.version = version := by
  have hnext (w : WeightObj) : (w.next.any fun m => m.modelId == model && m.version == version) = true ↔
      ∃ m, w.next = some m ∧ m.modelId = model ∧ m.version = version := by
    cases w.next <;> simp
  simp only [entryUsed, Bool.or_eq_true, List.any_eq_true, hnext, Bool.and_eq_true, beq_iff_eq]

theorem wgtDelete_entry {x : LibraryEntry} (h : s.entry? model version = some x) : wgtDeleteBody model version s q =
    if entryUsed s model version then .status s stInUse else .status (s.deleteEntry x) stOk := by
  rw [wgtDeleteBody, h]
  rfl

end

/-- Settles O45, from what a multicast frame, a request, the linger time and a read of the library do to the sessions. -/
theorem sessions : Obligations.Sessions := by
  unfold Obligations.Sessions
  refine ⟨fun s t k f hp hr => ?_, fun s o reader group sq off bs hb => ?_, fun s reader group off bs => rfl, fun s no r tile => ?_,
    fun s no => ?_, fun s model version tile r => ?_, fun s x m tile bs hs => ?_, fun s q model version session group linger hr => ?_,
    fun s q model version hr => ?_⟩
  · have hrow := (exec_phase (i := .multicastFrame k f) rfl).2.2 t hp hr
    obtain ⟨h1, h2, h3, h4, h5, h6, h7, h8⟩ := opened_fields (s.port k) f
    have hsame : ((s.port k).opened f).tree = f.tree ∧ frameBuffer k ((s.port k).opened f) = frameBuffer k f := by
      obtain ⟨bs, h⟩ := opened_payload (s.port k) f
      rw [h]
      exact ⟨rfl, rfl⟩
    obtain ⟨htree, hbuf⟩ := hsame
    refine ⟨fun ht => hrow.trans (congrArg _ (if_pos ?_)), fun ht hh => hrow.trans (congrArg _ ((if_neg ?_).trans ?_)),
      fun ht hh => hrow.trans (congrArg _ ((if_neg ?_).trans ?_))⟩
    · simpa [h1] using ht
    · simp [h1, ht]
    · dsimp only
      rw [forward_on (by rw [h8]; exact hh), h1, h2, h3, h4, h5, h6, h7, h8, htree, hbuf, ht]
      rfl
    · simp [h1, ht]
    · dsimp only
      rw [forward_far (by rw [h8]; exact hh), hbuf]
  · refine ⟨send_waits, send_noTree hb, fun t hm ht => ⟨fun ⟨k, hk, hno⟩ => ?_, fun hall => ?_⟩⟩
    · refine (send_tree hb hm ht).trans (if_neg fun hall => ?_)
      have := List.all_eq_true.mp hall k hk
      rcases hno with hno | hno
      · simp [hno] at this
      · simp [hno] at this
    · refine (send_tree hb hm ht).trans (if_pos (List.all_eq_true.mpr fun k hk => ?_))
      obtain ⟨h1, h2⟩ := hall k hk
      simp [h1, h2]
  · refine ⟨fun h => exec_effect rfl (resendRequest_stays h), fun x hx => ?_⟩
    exact ⟨_, askedFor s.now r tile x, rfl, resendRequest_find hx, mem_askedFor .., askedFor_keeps _ _ _ _, rfl, rfl, rfl⟩
  · have hspent (x : Serving) : (x.session == no && x.spent s.now) = true ↔
        x.session = no ∧ x.resends = [] ∧ ∃ since, x.lingerFrom = some since ∧ since + x.linger ≤ s.now := by
      rw [Bool.and_eq_true, beq_iff_eq, spent_iff]
    refine ⟨fun h => exec_effect rfl (lingerExpiry_stays (List.find?_eq_none.mpr fun x hx hb => h x hx ((hspent x).mp hb))),
      fun ⟨x, hx, hsp⟩ => ?_⟩
    cases hf : s.serving.find? fun x => x.session == no && x.spent s.now with
    | none => exact absurd ((hspent x).mpr hsp) (List.find?_eq_none.mp hf x hx)
    | some y => exact ⟨y, List.mem_of_find?_eq_some hf, (hspent y).mp (List.find?_some (p := fun x : Serving => x.session == no && x.spent s.now) hf), exec_effect rfl (lingerExpiry_ends hf)⟩
  · refine ⟨fun h => exec_effect rfl ?_, fun e he => ⟨fun h => exec_effect rfl (flashRead_waits he h), fun h1 h2 h3 hw => ?_⟩⟩
    · rw [flashReadCompleteEffect, h]
    · obtain ⟨fl, hfl⟩ := flashOnly_countPages s (readErrors e tile r)
      have hserving : (s.countPages (readErrors e tile r)).serving = s.serving := by rw [hfl]
      have hweights : (s.countPages (readErrors e tile r)).weights = [] := by rw [hfl]; exact hw
      refine ⟨fun hs => exec_effect rfl (flashRead_serves he h1 h2 h3 ?_ hweights), fun x hs hm hv =>
        exec_effect rfl (flashRead_serves he h1 h2 h3 ?_ ((serveShard_weights ..).trans hweights))⟩
      · rw [hserving, hs]
        rfl
      · rw [hserving, hs]
        exact if_pos ⟨hm, hv⟩
  · refine ⟨fun ht ha => serveShard_idle (turn_not ht) (asked_isEmpty.mpr ha), fun h1 h2 hok => ?_, fun ht ha hok => ?_, fun h hok => ?_⟩
    · obtain ⟨hserving, -, hnow⟩ := sameSessions_sendGroup (s.modServing x.q (forgiven tile)) x bs
      rw [serveShard_turn (turn_iff.mpr ⟨h1, h2⟩) hok, hnow]
      refine ⟨_, modServing_one (hserving.trans (modServing_one hs rfl _)) rfl _, congrArg (· + 1) h1, rfl, rfl, ?_⟩
      simp only [goneOn, decide_eq_true_eq]
      rfl
    · obtain ⟨y, hy, hyt⟩ := ha
      have hasked : (x.resends.filter fun y => y.2 == tile).isEmpty = false :=
        Bool.eq_false_iff.mpr fun he => asked_isEmpty.mp he y hy hyt
      rw [serveShard_asked (turn_not ht) hasked hok]
      refine ⟨_, modServing_one ((sameSessions_sentAgain (s.modServing x.q (forgiven tile)).takeFree.2 ..).1.trans
        (modServing_one hs rfl (forgiven tile))) rfl _, ?_⟩
      exact ⟨rfl, rfl, rfl⟩
    · have hrow : s.serveShard x m tile bs = if 3 ≤ Table.get 0 x.fails tile + 1 then s.endSession x stPoison
          else s.modServing x.q fun y => { y with fails := Table.set y.fails tile (Table.get 0 y.fails tile + 1) } := by
        refine serveShard_fails (h.imp turn_iff.mpr fun ⟨y, hy, hyt⟩ => ?_) hok
        exact Bool.eq_false_iff.mpr fun he => asked_isEmpty.mp he y hy hyt
      refine ⟨fun hn => (hrow.trans (if_neg (by omega))).trans ?_, fun hn => (hrow.trans (if_pos hn)).trans ?_⟩
      · simp [State.modServing, Lists.modifyIf, hs]
      · simp [State.endSession, hs]
  · refine ⟨fun h => exec_status rfl hr (wgtServe_noEntry (s := s.start q) h), fun x h hn =>
      exec_status rfl hr (wgtServe_full (s := s.start q) h hn), fun x h hn => exec_goesOn rfl hr (wgtServe_opens (s := s.start q) h hn)⟩
  · refine ⟨fun h => exec_status rfl hr (wgtDelete_noEntry (s := s.start q) h), fun x h => ⟨fun hu => ?_, fun hu => ?_⟩⟩
    · exact exec_status rfl hr ((wgtDelete_entry (s := s.start q) h).trans (if_pos (entryUsed_iff.mpr hu)))
    · exact ⟨exec_status rfl hr ((wgtDelete_entry (s := s.start q) h).trans (if_neg (entryUsed_iff.not.mpr hu))), deleteEntry_library ..⟩

end Sys2Proof.Machine
end

section
/-! SUPPORT and the settlement of O47: WGT.STORE, the end of a flash operation and the patrol (11 R272, 17 R423 to R431). -/

namespace Sys2Proof.Machine

/-! ### What is out of service stays out of service -/

/-- The blocks that s has retired and the stripes that it has withdrawn are so in t. -/
def KeepsBad (s t : State) : Prop :=
  (∀ b ∈ s.flash.retired, b ∈ t.flash.retired) ∧ ∀ i ∈ s.flash.withdrawn, i ∈ t.flash.withdrawn

theorem KeepsBad.refl (s : State) : KeepsBad s s := ⟨fun _ h => h, fun _ h => h⟩

theorem KeepsBad.trans {s t u : State} (h : KeepsBad s t) (k : KeepsBad t u) : KeepsBad s u :=
  ⟨fun b hb => k.1 b (h.1 b hb), fun i hi => k.2 i (h.2 i hi)⟩

theorem keepsBad_same {s t : State} (h : t.flash.retired = s.flash.retired ∧ t.flash.withdrawn = s.flash.withdrawn) : KeepsBad s t :=
  ⟨fun b hb => by rw [h.1]; exact hb, fun i hi => by rw [h.2]; exact hi⟩

theorem keepsBad_foldl {α : Type} {f : State → α → State} (h : ∀ s a, KeepsBad s (f s a)) (as : List α) (s : State) :
    KeepsBad s (as.foldl f s) := by
  induction as generalizing s with
  | nil => exact .refl s
  | cons a as ih => exact (h s a).trans (ih _)

theorem keepsBad_ite {s t u : State} {c : Prop} [Decidable c] (ht : KeepsBad s t) (hu : KeepsBad s u) : KeepsBad s (if c then t else u) := by
  split
  · exact ht
  · exact hu

theorem keepsBad_addJobs (s : State) (js : List FlashJob) : KeepsBad s (s.addJobs js) :=
  keepsBad_foldl (f := State.addJob) (fun _ _ => keepsBad_same ⟨rfl, rfl⟩) js s

theorem keepsBad_tryJob (s : State) (no : Nat) : KeepsBad s (s.tryJob no) := by
  unfold State.tryJob
  split
  · exact .refl s
  · dsimp only
    refine keepsBad_ite (.refl s) (keepsBad_ite (keepsBad_ite (.refl s) ?_) ?_)
    · split
      · exact keepsBad_same ⟨rfl, rfl⟩
      · exact .refl s
    · split
      · exact keepsBad_ite (.refl s) (keepsBad_same ⟨rfl, rfl⟩)
      · exact keepsBad_ite (.refl s) (keepsBad_ite (keepsBad_same ⟨rfl, rfl⟩) (keepsBad_same ⟨rfl, rfl⟩))
      · exact .refl s

theorem keepsBad_journalTurn (s : State) (d : Nat) : KeepsBad s (s.journalTurn d) := by
  unfold State.journalTurn
  split
  · exact .refl s
  · refine keepsBad_ite (.refl s) ?_
    dsimp only
    split
    · exact keepsBad_same ⟨rfl, rfl⟩
    · split
      · exact .refl s
      · exact keepsBad_ite (keepsBad_same ⟨rfl, rfl⟩) (keepsBad_ite (.refl s) (keepsBad_same ⟨rfl, rfl⟩))

/-- What a log die writes next once it has a page. -/
theorem keepsBad_logTurn (s : State) (d : Nat) : KeepsBad s (s.logTurn d) := by
  have hwrite (t : State) : KeepsBad t (match t.flash.logs[d]? with
      | none => t
      | some y =>
        match y.queue with
        | [] => t
        | r :: _ =>
          if t.planeBusy d (planeOf y.block) then t
          else t.modFlash fun f => { f with logs := f.logs.setIfInBounds d { y with writing := some r } }) := by
    split
    · exact .refl t
    · split
      · exact .refl t
      · exact keepsBad_ite (.refl t) (keepsBad_same ⟨rfl, rfl⟩)
  unfold State.logTurn
  split
  · exact .refl s
  · refine keepsBad_ite (.refl s) (keepsBad_ite (.refl s) (KeepsBad.trans (keepsBad_ite ?_ (.refl s)) (hwrite _)))
    exact keepsBad_same ⟨rfl, rfl⟩

theorem keepsBad_issueFlash (s : State) : KeepsBad s s.issueFlash :=
  keepsBad_ite (.refl s) (((keepsBad_foldl keepsBad_tryJob ..).trans (keepsBad_foldl keepsBad_journalTurn ..)).trans
    (keepsBad_foldl keepsBad_logTurn ..))

theorem keepsBad_writeStripe (s : State) (q : Req) (m : Manifest) (pos i : Nat) : KeepsBad s (s.writeStripe q m pos i) :=
  (keepsBad_ite (keepsBad_addJobs ..) (.refl s)).trans (keepsBad_addJobs ..)

theorem keepsBad_writeCopy (s : State) (src dst : Nat) : KeepsBad s (s.writeCopy src dst) :=
  (keepsBad_ite (keepsBad_addJobs ..) (.refl s)).trans (keepsBad_addJobs ..)

theorem keepsBad_startCopy (s : State) (i : Nat) : KeepsBad s (s.startCopy i) := by
  refine keepsBad_ite (.refl s) ?_
  split
  · exact .refl s
  · refine .trans ?_ (keepsBad_issueFlash _)
    refine .trans ?_ (keepsBad_writeCopy ..)
    exact keepsBad_same ⟨rfl, rfl⟩

theorem keepsBad_dropJobs (s : State) (p : FlashJob → Bool) : KeepsBad s (s.dropJobs p) := keepsBad_same ⟨rfl, rfl⟩

theorem keepsBad_leaveDirty (s : State) (is : List Nat) : KeepsBad s (s.leaveDirty is) := by
  refine KeepsBad.trans ?_ (keepsBad_foldl (f := fun st i => st.addJobs (st.eraseStripe i)) (fun _ _ => keepsBad_addJobs ..) _ _)
  refine .trans ?_ (keepsBad_dropJobs ..)
  exact keepsBad_same ⟨rfl, rfl⟩

theorem Kept.keepsBad {s t : State} (h : Kept s t) : KeepsBad s t := by
  obtain ⟨-, -, -, -, -, hf, -⟩ := h.leaves
  exact keepsBad_same (by rw [hf]; exact ⟨rfl, rfl⟩)

theorem keepsBad_endStore (s : State) (x : Storing) (status : Nat) : KeepsBad s (s.endStore x status) := by
  refine .trans ?_ (kept_finish ..).keepsBad
  refine .trans ?_ (keepsBad_leaveDirty ..)
  exact keepsBad_same ⟨rfl, rfl⟩

theorem mem_joined (b : Nat) (bs : List Nat) : b ∈ if bs.contains b then bs else bs ++ [b] := by
  split
  next h => exact List.contains_iff_mem.mp h
  · simp

/-- A stripe that is withdrawn, with what becomes of the store or copy that it was part of (17 R427, R428). -/
theorem keepsBad_loseStripe (s : State) (i : Nat) : KeepsBad s (s.loseStripe i) ∧ i ∈ (s.loseStripe i).flash.withdrawn := by
  obtain ⟨t, ht⟩ : ∃ t, t = (s.modFlash fun f => { f with
    withdrawn := if f.withdrawn.contains i then f.withdrawn else f.withdrawn ++ [i]
    dirty := f.dirty.filter (· != i), freed := f.freed.filter (· != i) }).dropJobs fun j => libraryBlock j.block && j.block / 4 == i := ⟨_, rfl⟩
  have hs : KeepsBad s t ∧ i ∈ t.flash.withdrawn := by
    rw [ht]
    refine ⟨⟨fun b hb => hb, fun j hj => ?_⟩, ?_⟩
    · change j ∈ (if s.flash.withdrawn.contains i then s.flash.withdrawn else s.flash.withdrawn ++ [i])
      split
      · exact hj
      · exact List.mem_append_left _ hj
    · exact mem_joined _ _
  have hrest : KeepsBad t (s.loseStripe i) := by
    have hcopy : KeepsBad t (match t.flash.copying.find? fun c => c.dst == i with
        | some c => (t.modFlash fun f => { f with copying := f.copying.filter fun x => x.dst != i }).startCopy c.src
        | none => t) := by
      split
      · exact .trans (keepsBad_same (t := t.modFlash _) ⟨rfl, rfl⟩) (keepsBad_startCopy ..)
      · exact .refl t
    have hstore (u : State) : KeepsBad u (match u.flash.storing.find? fun x => x.stripes.contains i with
        | none => u
        | some x =>
          match u.stripeOrder with
          | [] => u.endStore x stQuota
          | k :: _ => ((u.modStoring x.q fun y => { y with stripes := y.stripes.map fun z => if z = i then k else z }).modFlash
              fun f => { f with freed := f.freed.filter (· != k) }).writeStripe x.q x.manifest (x.stripes.idxOf i) k) := by
      split
      · exact .refl u
      · split
        · exact keepsBad_endStore ..
        · refine .trans ?_ (keepsBad_writeStripe ..)
          exact keepsBad_same ⟨rfl, rfl⟩
    rw [ht] at hcopy ⊢
    exact hcopy.trans (hstore _)
  exact ⟨hs.1.trans hrest, hrest.2 i hs.2⟩

/-- A failed operation retires its block, and withdraws the stripe that holds it (17 R427). -/
theorem retireBlock_bad (s : State) (d block : Nat) (op : FlashOp) :
    blockName d block ∈ (s.retireBlock d block op).flash.retired ∧ (64 ≤ block → block / 4 ∈ (s.retireBlock d block op).flash.withdrawn) := by
  obtain ⟨t, ht⟩ : ∃ t, t = (s.modDie d fun x =>
      match op with
      | .program => { x with progFail := BitVec.ofNat 16 (Bits.satAdd 16 x.progFail.toNat 1) }
      | .erase => { x with eraseFail := BitVec.ofNat 16 (Bits.satAdd 16 x.eraseFail.toNat 1) }).modFlash fun f =>
      { f with retired := if f.retired.contains (blockName d block) then f.retired else f.retired ++ [blockName d block] } := ⟨_, rfl⟩
  have hb : blockName d block ∈ t.flash.retired := by
    rw [ht]
    exact mem_joined _ _
  have hrow : s.retireBlock d block op = if libraryBlock block then t.loseStripe (block / 4) else t := by
    rw [ht]
    rfl
  rw [hrow]
  by_cases hl : libraryBlock block = true
  · rw [if_pos hl]
    obtain ⟨h1, h2⟩ := keepsBad_loseStripe t (block / 4)
    exact ⟨h1.1 _ hb, fun _ => h2⟩
  · rw [if_neg hl]
    exact ⟨hb, fun h => absurd (by simpa [libraryBlock] using h) hl⟩

theorem jobFails_retires {s : State} {j : FlashJob} (hb : j.boot = false) (hs : j.use ≠ .swap) (hl : j.use ≠ .log) :
    s.jobFails j = (s.dropJob j.no).retireBlock j.die j.block j.op := by
  unfold State.jobFails
  dsimp only
  split
  next h => exact absurd h hs
  next h => exact absurd h hl
  · rw [hb]

/-! ### The end of an operation -/

section
variable {s : State} {d block : Nat} {op : FlashOp} {failed : Bool}

theorem opEnds_job {j : FlashJob} (h : (s.flash.jobs.find? fun j => j.issued && j.die == d && j.block == block && j.op == op) = some j) :
    s.opEnds d block op failed = if failed then (s.setFlags d block op failed).jobFails j else (s.setFlags d block op failed).jobDone j := by
  unfold State.opEnds
  rw [h]

theorem opEnds_erase (h : (s.flash.jobs.find? fun j => j.issued && j.die == d && j.block == block && j.op == .erase) = none) :
    s.opEnds d block .erase failed = s := by
  unfold State.opEnds
  rw [h]

/-- The journal of a die that writes to a block. -/
def journalAt (s : State) (d block : Nat) : Option (Journal × JournalWrite) :=
  (s.flash.journals[d]?).bind fun x => if x.active = block then x.writing.map fun w => (x, w) else none

/-- The log of a die that writes to a block. -/
def logAt (s : State) (d block : Nat) : Option (LogDie × BitVec 64 × LogRecord) :=
  (s.flash.logs[d]?).bind fun x => if x.block = block then x.writing.map fun r => (x, r) else none

theorem journalAt_some {x : Journal} {w : JournalWrite} (h1 : s.flash.journals[d]? = some x) (h2 : x.active = block)
    (h3 : x.writing = some w) : journalAt s d block = some (x, w) := by
  rw [journalAt, h1, Option.bind_some, if_pos h2, h3]
  rfl

theorem journalAt_none (h : ∀ x, s.flash.journals[d]? = some x → x.active = block → x.writing = none) : journalAt s d block = none := by
  rw [journalAt, Option.bind_eq_none_iff]
  intro x hx
  split
  next h2 => rw [h x hx h2]; rfl
  · rfl

theorem logAt_some {x : LogDie} {r : BitVec 64 × LogRecord} (h1 : s.flash.logs[d]? = some x) (h2 : x.block = block)
    (h3 : x.writing = some r) : logAt s d block = some (x, r) := by
  rw [logAt, h1, Option.bind_some, if_pos h2, h3]
  rfl

theorem logAt_none (h : ∀ x, s.flash.logs[d]? = some x → x.block = block → x.writing = none) : logAt s d block = none := by
  rw [logAt, Option.bind_eq_none_iff]
  intro x hx
  split
  next h2 => rw [h x hx h2]; rfl
  · rfl

variable (hjob : (s.flash.jobs.find? fun j => j.issued && j.die == d && j.block == block && j.op == .program) = none)
include hjob

theorem opEnds_journal {x : Journal} {w : JournalWrite} (h : journalAt s d block = some (x, w)) :
    s.opEnds d block .program failed =
      if failed then (s.setFlags d block .program failed).journalFails d x else (s.setFlags d block .program failed).journalDone d x w := by
  unfold journalAt at h
  unfold State.opEnds
  rw [hjob]
  dsimp only
  rw [h]

theorem opEnds_log {x : LogDie} {r : BitVec 64 × LogRecord} (h : journalAt s d block = none) (hl : logAt s d block = some (x, r)) :
    s.opEnds d block .program failed =
      if failed then (s.setFlags d block .program failed).logFails d block .program else (s.setFlags d block .program failed).logDone d x r := by
  unfold journalAt at h
  unfold logAt at hl
  unfold State.opEnds
  rw [hjob]
  dsimp only
  rw [h, hl]

theorem opEnds_none (h : journalAt s d block = none) (hl : logAt s d block = none) : s.opEnds d block .program failed = s := by
  unfold journalAt at h
  unfold logAt at hl
  unfold State.opEnds
  rw [hjob]
  dsimp only
  rw [h, hl]

end

/-! ### The patrol and the copies of worn stripes -/

section
variable {s : State}

theorem copyWorn_none {errors : List (Nat × Nat)} (h : ∀ x ∈ errors, x.2 ≤ 48 ∨ keyBlock x.1 < 64) : s.copyWorn errors = s := by
  unfold State.copyWorn
  rw [List.filterMap_eq_nil_iff.mpr]
  · rfl
  · intro x hx
    refine if_neg ?_
    rcases h x hx with h | h
    · simp; omega
    · simp [libraryBlock]; omega

theorem startCopy_stays {i : Nat} (h : (∀ e ∈ s.library, i ∉ e.stripes) ∨ (∃ c ∈ s.flash.copying, c.src = i) ∨ s.stripeOrder = []) :
    s.startCopy i = s := by
  by_cases hc : (!(s.library.any fun e => e.stripes.contains i) || s.flash.copying.any fun c => c.src == i) = true
  · exact if_pos hc
  · refine (if_neg hc).trans ?_
    simp only [Bool.or_eq_true, Bool.not_eq_true', not_or, Bool.not_eq_false, List.any_eq_true, List.contains_iff_mem, beq_iff_eq] at hc
    obtain ⟨⟨e, he, hi⟩, hcopy⟩ := hc
    rcases h with h | h | h
    · exact absurd hi (h e he)
    · exact absurd h hcopy
    · rw [h]

theorem startCopy_begins {i k : Nat} {rest : List Nat} (h1 : ∃ e ∈ s.library, i ∈ e.stripes) (h2 : ∀ c ∈ s.flash.copying, c.src ≠ i)
    (h3 : s.stripeOrder = k :: rest) : s.startCopy i =
      ((s.modFlash fun f => { f with copying := f.copying ++ [⟨i, k⟩], freed := f.freed.filter (· != k) }).writeCopy i k).issueFlash := by
  refine (if_neg ?_).trans (by rw [h3])
  simp only [Bool.or_eq_true, Bool.not_eq_true', not_or, Bool.not_eq_false, List.any_eq_true, List.contains_iff_mem, beq_iff_eq]
  exact ⟨h1, fun ⟨c, hc, he⟩ => h2 c hc he⟩

/-- The pages that a patrol read of a stripe names, with their corrections. -/
def patrolErrors (s : State) (i : Nat) (pages : List (Nat × Nat)) : List (Nat × Nat) :=
  (pages.map fun x => (stripeKey i x.1, x.2)).filter fun x => s.page x.1 != .blank

theorem flashPatrol_eq (i : BitVec 12) (pages : List (Nat × Nat)) : flashPatrolEffect i pages s =
    if s.restarting storeIsland || !s.stacksRun || (patrolErrors s i.toNat pages).any fun x => s.keyBusy x.1 then s
    else (s.countPages (patrolErrors s i.toNat pages)).copyWorn (patrolErrors s i.toNat pages) := rfl

end

/-! ### WGT.STORE -/

theorem mem_freeStripes_of_order {s : State} {i : Nat} (h : i ∈ s.stripeOrder) : i ∈ s.freeStripes := (mem_sortBy _ _ _).mp h

theorem flashOnly_writeStripe (s : State) (q : Req) (m : Manifest) (pos i : Nat) : FlashOnly s (s.writeStripe q m pos i) := by
  unfold State.writeStripe
  dsimp only
  split
  · exact (flashOnly_addJobs ..).trans (flashOnly_addJobs ..)
  · exact flashOnly_addJobs ..

section
variable {s : State} {q : Req} {c : CtxNo} {base : BitVec 42} {o : Obj} {m : Manifest}

theorem wgtStore_kind (hq : q.ring = .ctx c) (ho : s.obj? c base = some o) (hb : o.broken = none) (hk : o.desc.kind ≠ kindData) :
    wgtStoreBody base s q = .status s stBadField := (withObj_some _ hq ho hb).trans (if_pos (by simpa using hk))

theorem wgtStore_headPoison (hq : q.ring = .ctx c) (ho : s.obj? c base = some o) (hb : o.broken = none) (hk : o.desc.kind = kindData)
    (hp : s.objPoison o 0 64 ≠ none) : wgtStoreBody base s q = .status s stPoison :=
  (withObj_some _ hq ho hb).trans ((if_neg (by simp [hk])).trans (if_pos (Option.isSome_iff_ne_none.mpr hp)))

/-- The manifest that an object begins with. -/
def storedManifest (s : State) (o : Obj) : Option Manifest := readManifest (s.readObj o 0 (min o.size (manifestBytes 65535)))

/-- The end of the last shard that a manifest lays out. -/
def storedEnd (m : Manifest) : Nat :=
  ((shardOffsets (manifestBytes m.shards.length) m.shards).zip (m.shards.map (·.length))).foldl (fun n x => max n (x.1 + x.2)) 0

/-- Whether the library, or a store in progress, has a manifest's pair of model and version (11 R272). -/
def pairStored (s : State) (m : Manifest) : Bool :=
  (s.library.any fun e => e.manifest.modelId == m.modelId && e.manifest.version == m.version) ||
    s.flash.storing.any fun x => x.manifest.modelId == m.modelId && x.manifest.version == m.version

theorem pairStored_iff : pairStored s m = true ↔ (∃ e ∈ s.library, e.manifest.modelId = m.modelId ∧ e.manifest.version = m.version) ∨
    ∃ x ∈ s.flash.storing, x.manifest.modelId = m.modelId ∧ x.manifest.version = m.version := by
  simp only [pairStored, Bool.or_eq_true, List.any_eq_true, Bool.and_eq_true, beq_iff_eq]

/-- The device with a store begun in the stripes given. -/
def storeBegun (s : State) (q : Req) (o : Obj) (base : BitVec 42) (m : Manifest) (is : List Nat) : State :=
  is.zipIdx.foldl (fun st y => st.writeStripe q m y.2 y.1) (s.modFlash fun f => { f with
    storing := f.storing ++ [{ q := q, ctx := o.ctx, base := base, manifest := m, stripes := is }]
    freed := f.freed.filter fun i => !is.contains i })

theorem storeBegun_library (s : State) (q : Req) (o : Obj) (base : BitVec 42) (m : Manifest) (is : List Nat) :
    (storeBegun s q o base m is).library = s.library := by
  have hfold (t : State) : FlashOnly t (is.zipIdx.foldl (fun st y => st.writeStripe q m y.2 y.1) t) :=
    flashOnly_foldl (fun s y => flashOnly_writeStripe ..) _ t
  obtain ⟨fl, h⟩ := hfold (s.modFlash fun f => { f with
    storing := f.storing ++ [{ q := q, ctx := o.ctx, base := base, manifest := m, stripes := is }]
    freed := f.freed.filter fun i => !is.contains i })
  exact (congrArg State.library h).trans rfl

variable (hq : q.ring = .ctx c) (ho : s.obj? c base = some o) (hb : o.broken = none) (hk : o.desc.kind = kindData)
  (hp : s.objPoison o 0 64 = none)
include hq ho hb hk hp

theorem wgtStore_malformed (hm : storedManifest s o = none) : wgtStoreBody base s q = .status s stBadField := by
  unfold storedManifest at hm
  refine (withObj_some _ hq ho hb).trans ((if_neg (by simp [hk])).trans ((if_neg (by simp [hp])).trans ?_))
  rw [hm]
  rfl

theorem wgtStore_inauthentic (hm : storedManifest s o = some m) (ha : m.authentic = false) : wgtStoreBody base s q = .status s stAuth := by
  unfold storedManifest at hm
  refine (withObj_some _ hq ho hb).trans ((if_neg (by simp [hk])).trans ((if_neg (by simp [hp])).trans ?_))
  rw [hm, check_some, if_neg (by simp [ha])]

theorem wgtStore_authentic (hm : storedManifest s o = some m) (ha : m.authentic = true) : wgtStoreBody base s q =
    if o.size < storedEnd m then .status s stBadField
    else if pairStored s m then .status s stInUse
    else if 1024 ≤ s.library.length + (s.flash.storing.filter fun x => x.recording.isNone).length then .status s stLimit
    else if (s.objPoison o 0 (storedEnd m)).isSome then .status s stPoison
    else if (s.stripeOrder.take (stripesFor m)).length < stripesFor m then .status s stQuota
    else .goesOn (storeBegun s q o base m (s.stripeOrder.take (stripesFor m))).issueFlash := by
  unfold storedManifest at hm
  refine (withObj_some _ hq ho hb).trans ((if_neg (by simp [hk])).trans ((if_neg (by simp [hp])).trans ?_))
  rw [hm, check_some, if_pos ha]
  rfl

end

/-- Settles O47, from the chain of WGT.STORE's checks, the end of an operation and the copies that the patrol begins. -/
theorem flashStore : Obligations.FlashStore := by
  unfold Obligations.FlashStore
  refine ⟨fun s q base hr => ⟨fun h hq => ?_, fun c hq => ⟨fun ho => ?_, fun o ho => ?_⟩⟩, fun s d block op failed => ?_,
    fun s d block op failed => ?_, fun s j hb hs hl => ?_, fun s i pages => ?_, fun s errors h => copyWorn_none h,
    fun s i => ⟨startCopy_stays, fun k rest => startCopy_begins⟩⟩
  · exact exec_status rfl hr (withCtx_host _ _ hq)
  · exact exec_status rfl hr (withObj_none _ hq ho)
  · refine ⟨fun hb => exec_status rfl hr (withObj_broken _ hq ho (Option.isSome_iff_ne_none.mpr hb)), fun hb hk => exec_status rfl hr (wgtStore_kind hq ho hb hk),
      fun hb hk hp => exec_status rfl hr (wgtStore_headPoison hq ho hb hk hp), fun hb hk hp => ⟨fun hm =>
        exec_status rfl hr (wgtStore_malformed hq ho hb hk hp hm), fun m hm => ?_⟩⟩
    have hrow := wgtStore_authentic (s := s.start q) (q := q) hq ho hb hk hp hm
    refine ⟨fun ha => exec_status rfl hr (wgtStore_inauthentic hq ho hb hk hp hm ha), fun ha h1 => ?_, fun ha h1 h2 => ?_,
      fun ha h1 h2 h3 => ?_, fun ha h1 h2 h3 h4 => ?_, fun ha h1 h2 h3 h4 => ⟨fun h5 => ?_, fun h5 => ⟨?_, fun i hi => ?_, ?_⟩⟩⟩
    · exact exec_status rfl hr ((hrow ha).trans (if_pos h1))
    all_goals have hend : ¬ o.size < storedEnd m := Nat.not_lt.mpr h1
    · exact exec_status rfl hr ((hrow ha).trans ((if_neg hend).trans (if_pos (pairStored_iff.mpr h2))))
    all_goals have hpair : ¬ pairStored (s.start q) m = true := pairStored_iff.not.mpr h2
    · exact exec_status rfl hr ((hrow ha).trans ((if_neg hend).trans ((if_neg hpair).trans (if_pos h3))))
    · exact exec_status rfl hr ((hrow ha).trans ((if_neg hend).trans ((if_neg hpair).trans ((if_neg h3).trans
        (if_pos (Option.isSome_iff_ne_none.mpr h4))))))
    · exact exec_status rfl hr ((hrow ha).trans ((if_neg hend).trans ((if_neg hpair).trans ((if_neg h3).trans
        ((if_neg (by rw [show (s.start q).objPoison o 0 (storedEnd m) = none from h4]; decide)).trans (if_pos h5))))))
    · exact exec_goesOn rfl hr ((hrow ha).trans ((if_neg hend).trans ((if_neg hpair).trans ((if_neg h3).trans
        ((if_neg (by rw [show (s.start q).objPoison o 0 (storedEnd m) = none from h4]; decide)).trans (if_neg (by omega)))))))
    · exact mem_freeStripes_of_order (List.mem_of_mem_take hi)
    · exact storeBegun_library ..
  · refine ⟨fun h => exec_effect rfl (if_pos ?_), fun h1 h2 h3 => exec_effect rfl ((if_neg ?_).trans (if_pos h3)),
      fun h1 h2 h3 => exec_effect rfl ((if_neg ?_).trans (if_neg (by simp [h3])))⟩
    · rcases h with h | h <;> simp [h]
    · simp [h1, h2]
    · simp [h1, h2]
  · refine ⟨fun j hj => opEnds_job hj, fun hj hop => ?_, fun hj hop x w h1 h2 h3 => ?_, fun hj hop hx => ⟨fun x r h1 h2 h3 => ?_, fun hl => ?_⟩⟩
    all_goals subst hop
    · exact opEnds_erase hj
    · exact opEnds_journal hj (journalAt_some h1 h2 h3)
    · exact opEnds_log hj (journalAt_none hx) (logAt_some h1 h2 h3)
    · exact opEnds_none hj (journalAt_none hx) (logAt_none hl)
  · rw [jobFails_retires hb hs hl]
    exact retireBlock_bad ..
  · refine ⟨fun h => exec_effect rfl ((flashPatrol_eq i pages).trans (if_pos ?_)), fun h1 h2 h3 =>
      exec_effect rfl ((flashPatrol_eq i pages).trans (if_neg ?_))⟩
    · rcases h with h | h | h
      · simp [h]
      · simp [h]
      · have : ((patrolErrors s i.toNat pages).any fun x => s.keyBusy x.1) = true := List.any_eq_true.mpr h
        simp [this]
    · have : ((patrolErrors s i.toNat pages).any fun x => s.keyBusy x.1) = false := List.any_eq_false.mpr fun x hx => by simp [h3 x hx]
      rw [this, h1, h2]
      decide

end Sys2Proof.Machine
end

section
/-! SUPPORT and the settlement of O49: sequences, prefixes and the KV commands (09 R201 to R239, 10 R253, R254). -/

namespace Sys2Proof.Machine

/-! ### Commands on a sequence -/

section
variable {s : State} {q : Req} {c : CtxNo} {no : BitVec 32} {x : Seq}

theorem seqRefuses_none (h : s.seq? no = none) : s.seqRefuses c no = some stNoObject := by
  rw [State.seqRefuses, h]

theorem seqRefuses_foreign (h : s.seq? no = some x) (hx : x.ctx ≠ c ∨ x.state = .closing) : s.seqRefuses c no = some stNoObject := by
  rw [State.seqRefuses, h]
  dsimp only
  split
  · rfl
  next hc =>
    have hctx : x.ctx = c := by simpa using hc
    rw [hx.resolve_left (not_not_intro hctx)]

theorem seqRefuses_lost (h : s.seq? no = some x) (hc : x.ctx = c) (hl : x.state = .lost) : s.seqRefuses c no = some stKvLost := by
  rw [State.seqRefuses, h]
  refine (if_neg (by simp [hc])).trans ?_
  rw [hl]

theorem withIdleSeq_refused {st : Nat} (f : CtxNo → Seq → Ran) (hq : q.ring = .ctx c) (h : s.seqRefuses c no = some st) :
    withIdleSeq q no s f = .status s st := by
  unfold withIdleSeq withSeq
  refine (withCtx_ctx _ _ hq).trans ?_
  rw [h]

theorem withIdleSeq_some (f : CtxNo → Seq → Ran) (hq : q.ring = .ctx c) (h : s.seqRefuses c no = none) (hx : s.seq? no = some x) :
    withIdleSeq q no s f = if s.seqBound x then .waits else f c x := by
  unfold withIdleSeq withSeq
  refine (withCtx_ctx _ _ hq).trans ?_
  rw [h, hx]

theorem withIdleSeq_acts (f : CtxNo → Seq → Ran) (hq : q.ring = .ctx c) (h : s.seqRefuses c no = none) (hx : s.seq? no = some x)
    (hb : s.seqBound x = false) : withIdleSeq q no s f = f c x := (withIdleSeq_some f hq h hx).trans (if_neg (by simp [hb]))

theorem withIdleSeq_waits (f : CtxNo → Seq → Ran) (hq : q.ring = .ctx c) (h : s.seqRefuses c no = none) (hx : s.seq? no = some x)
    (hb : s.seqBound x = true) : withIdleSeq q no s f = .waits := (withIdleSeq_some f hq h hx).trans (if_pos hb)

end

/-! ### SEQ.OPEN -/

section
variable {s : State} {q : Req} {c : CtxNo} {a : SeqOpenArgs} {x : Partition}

/-- The handle that SEQ.OPEN names. -/
def namedHandle (s : State) (c : CtxNo) (a : SeqOpenArgs) : Option Handle := if a.fromHandle then s.handle? (ptnOf c) a.handle else none

/-- The new sequence of SEQ.OPEN (09 R205, R233). -/
def openedSeq (s : State) (c : CtxNo) (x : Partition) (a : SeqOpenArgs) (h : Option Handle) (index : Nat) : Seq :=
  { index := index, gen := Table.get 0 s.gens index, ctx := c, shape := seqShape a, w := a.w, stamp := x.beat.count, input := a.input,
    c := (h.map (·.p)).getD 0, glob := (h.map (·.glob)).getD [], pages := (h.map fun v => v.pages.map sharePage).getD [] }

/-- The device with a sequence added. -/
def withNewSeq (s : State) (y : Seq) : State := { s with seqs := s.seqs ++ [y] }

theorem exists_unused {n : Nat} {used : List Nat} (h : used.length < n) : ∃ k < n, k ∉ used := by
  by_contra hall
  have hsub : List.range n ⊆ used := fun k hk => by
    by_contra hu
    exact hall ⟨k, List.mem_range.mp hk, hu⟩
  have := (List.nodup_range.subperm hsub).length_le
  rw [List.length_range] at this
  omega

theorem chooseIndex_full {p : Nat} (h : x.share ≤ (s.seqsOf p).length) : s.chooseIndex p x = (s.takeFree.2, none) :=
  if_pos (by rw [List.length_map]; exact h)

/-- Where the directory has room the index chosen is one that no sequence of the partition has. -/
theorem chooseIndex_some {p : Nat} (h : (s.seqsOf p).length < x.share) :
    ∃ i, s.chooseIndex p x = (s.takeFree.2, some i) ∧ ∀ z ∈ s.seqsOf p, z.index ≠ i := by
  have hfresh {i : Nat} (hi : i ∉ (s.seqsOf p).map (·.index)) : ∀ z ∈ s.seqsOf p, z.index ≠ i :=
    fun z hz e => hi (e ▸ List.mem_map_of_mem hz)
  by_cases hw : ((s.seqsOf p).map (·.index)).contains (x.dirIndex (s.takeFree.1.toNat % x.share)) = true
  · obtain ⟨k, hk, hu⟩ : ∃ k < (s.seqsOf p).length + 1, x.dirIndex k ∉ (s.seqsOf p).map (·.index) := by
      obtain ⟨k, hk, hu⟩ := exists_unused (n := (s.seqsOf p).length + 1) (used := ((s.seqsOf p).map (·.index)).map (· - x.dirBase))
        (by simp)
      refine ⟨k, hk, fun hmem => hu (List.mem_map.mpr ⟨_, hmem, ?_⟩)⟩
      simp [Partition.dirIndex]
    cases hf : ((List.range (((s.seqsOf p).map (·.index)).length + 1)).map x.dirIndex).find?
        fun i => !((s.seqsOf p).map (·.index)).contains i with
    | none =>
      refine absurd ?_ (List.find?_eq_none.mp hf (x.dirIndex k) (List.mem_map_of_mem (List.mem_range.mpr (by simpa using hk))))
      simpa using hu
    | some i =>
      refine ⟨i, ?_, hfresh ?_⟩
      · exact (if_neg (by rw [List.length_map]; exact Nat.not_le.mpr h)).trans ((if_pos hw).trans (congrArg (Prod.mk _) hf))
      · have := List.find?_some hf
        simpa using this
  · refine ⟨x.dirIndex (s.takeFree.1.toNat % x.share), ?_, hfresh ?_⟩
    · exact (if_neg (by rw [List.length_map]; exact Nat.not_le.mpr h)).trans (if_neg hw)
    · simpa using hw

theorem seqOpen_noPtn (hq : q.ring = .ctx c) (h : s.ptn? (ptnOf c) = none) : seqOpenBody a s q = .status s stNoObject := by
  refine (withCtx_ctx _ _ hq).trans ?_
  dsimp only
  rw [h]

/-- SEQ.OPEN names a handle that there is not. -/
def handleMissing (s : State) (c : CtxNo) (a : SeqOpenArgs) : Bool := a.fromHandle && (namedHandle s c a).isNone

/-- SEQ.OPEN names an input object that there is not. -/
def inputMissing (s : State) (c : CtxNo) (a : SeqOpenArgs) : Bool := a.input != 0 && (s.obj? c a.input).isNone

/-- SEQ.OPEN names a handle of another shape. -/
def shapeDiffers (s : State) (c : CtxNo) (a : SeqOpenArgs) : Bool := (namedHandle s c a).any fun h => h.shape != seqShape a

theorem handleMissing_iff : handleMissing s c a = false ↔ a.fromHandle = false ∨ namedHandle s c a ≠ none := by
  unfold handleMissing
  cases a.fromHandle <;> cases namedHandle s c a <;> simp

theorem inputMissing_iff : inputMissing s c a = false ↔ a.input = 0 ∨ s.obj? c a.input ≠ none := by
  unfold inputMissing
  by_cases hi : a.input = 0
  · simp [hi]
  · cases s.obj? c a.input <;> simp [hi]

theorem shapeDiffers_iff : shapeDiffers s c a = false ↔ ∀ v, namedHandle s c a = some v → v.shape = seqShape a := by
  unfold shapeDiffers
  cases namedHandle s c a <;> simp

section
variable (hq : q.ring = .ctx c) (hx : s.ptn? (ptnOf c) = some x)
include hq hx

theorem seqOpen_noHandle (h : handleMissing s c a = true) : seqOpenBody a s q = .status s stNoObject := by
  refine (withCtx_ctx _ _ hq).trans ?_
  dsimp only
  rw [hx]
  exact if_pos h

variable (h1 : handleMissing s c a = false)
include h1

theorem seqOpen_noInput (h : inputMissing s c a = true) : seqOpenBody a s q = .status s stNoObject := by
  refine (withCtx_ctx _ _ hq).trans ?_
  dsimp only
  rw [hx]
  exact (if_neg (Bool.eq_false_iff.mp h1)).trans (if_pos h)

variable (h2 : inputMissing s c a = false)
include h2

theorem seqOpen_shape (h : shapeDiffers s c a = true) : seqOpenBody a s q = .status s stBadField := by
  refine (withCtx_ctx _ _ hq).trans ?_
  dsimp only
  rw [hx]
  exact (if_neg (Bool.eq_false_iff.mp h1)).trans ((if_neg (Bool.eq_false_iff.mp h2)).trans
    (if_pos h))

variable (h3 : shapeDiffers s c a = false)
include h3

theorem seqOpen_objects (h : 65536 ≤ s.objCount c) : seqOpenBody a s q = .status s stLimit := by
  refine (withCtx_ctx _ _ hq).trans ?_
  dsimp only
  rw [hx]
  exact (if_neg (Bool.eq_false_iff.mp h1)).trans ((if_neg (Bool.eq_false_iff.mp h2)).trans
    ((if_neg (Bool.eq_false_iff.mp h3)).trans (if_pos h)))

variable (h4 : s.objCount c < 65536)
include h4

theorem seqOpen_full (h : x.share ≤ (s.seqsOf (ptnOf c)).length) : seqOpenBody a s q = .status s.takeFree.2 stLimit := by
  refine (withCtx_ctx _ _ hq).trans ?_
  dsimp only
  rw [hx]
  refine (if_neg (Bool.eq_false_iff.mp h1)).trans ((if_neg (Bool.eq_false_iff.mp h2)).trans
    ((if_neg (Bool.eq_false_iff.mp h3)).trans ((if_neg (Nat.not_le.mpr h4)).trans ?_)))
  rw [chooseIndex_full h]

theorem seqOpen_opens {i : Nat} (h : s.chooseIndex (ptnOf c) x = (s.takeFree.2, some i)) : seqOpenBody a s q =
    if (withNewSeq s.takeFree.2 (openedSeq s c x a (namedHandle s c a) i)).nodesFit (ptnOf c) then
      .done (if (openedSeq s c x a (namedHandle s c a) i).incomplete then
          ((withNewSeq s.takeFree.2 (openedSeq s c x a (namedHandle s c a) i)).layNodes (ptnOf c)).queueRecompute i
        else (withNewSeq s.takeFree.2 (openedSeq s c x a (namedHandle s c a) i)).layNodes (ptnOf c)) stOk
        (openedSeq s c x a (namedHandle s c a) i).no.toNat 0
    else .status s.takeFree.2 stQuota := by
  refine (withCtx_ctx _ _ hq).trans ?_
  dsimp only
  rw [hx]
  refine (if_neg (Bool.eq_false_iff.mp h1)).trans ((if_neg (Bool.eq_false_iff.mp h2)).trans
    ((if_neg (Bool.eq_false_iff.mp h3)).trans ((if_neg (Nat.not_le.mpr h4)).trans ?_)))
  rw [h]
  show _ = if (withNewSeq s.takeFree.2 (openedSeq s c x a (namedHandle s c a) i)).nodesFit (ptnOf c) then _ else _
  unfold namedHandle
  cases (if a.fromHandle then s.handle? (ptnOf c) a.handle else none) with
  | none => rfl
  | some v => rfl

end

end

/-! ### SEQ.CLOSE and SEQ.QUERY -/

section
variable {s : State} {q : Req} {c : CtxNo} {no : BitVec 32} {x : Seq} {host : BitVec 64}

theorem seqClose_foreign (hq : q.ring = .ctx c) (h : ∀ x, s.seq? no = some x → x.ctx ≠ c ∨ x.state = .closing) :
    seqCloseBody no s q = .status s stNoObject := by
  refine (withCtx_ctx _ _ hq).trans ?_
  cases hx : s.seq? no with
  | none => rfl
  | some x => exact if_pos (by rcases h x hx with h | h <;> simp [h])

theorem seqQuery_foreign (hq : q.ring = .ctx c) (h : ∀ x, s.seq? no = some x → x.ctx ≠ c ∨ x.state = .closing) :
    seqQueryBody no host s q = .status s stNoObject := by
  refine (withCtx_ctx _ _ hq).trans ?_
  cases hx : s.seq? no with
  | none => rfl
  | some x => exact if_pos (by rcases h x hx with h | h <;> simp [h])

variable (hq : q.ring = .ctx c) (hx : s.seq? no = some x) (hc : x.ctx = c) (hs : x.state ≠ .closing)
include hq hx hc hs

theorem seqClose_named : seqCloseBody no s q =
    if s.seqBound x then .waits else .status ((s.closeSeq x).quotaClear (ptnOf c)) stOk := by
  refine (withCtx_ctx _ _ hq).trans ?_
  rw [hx]
  exact if_neg (by simp [hc, hs])

theorem seqQuery_named : seqQueryBody no host s q = .status (s.writeHostOf q host (Bits.toBytes 64 (s.entryOf x))) stOk := by
  refine (withCtx_ctx _ _ hq).trans ?_
  rw [hx]
  exact if_neg (by simp [hc, hs])

end

theorem invalidate_shape (s : State) (p space : Nat) (hit : Nat → Bool) : ∃ ca, s.invalidate p space hit = { s with caches := ca } := by
  unfold State.invalidate
  split
  · exact ⟨s.caches, rfl⟩
  · exact ⟨_, rfl⟩

/-- The closing of a sequence frees its entry, whose generation moves on (09 R201). -/
theorem closeSeq_leaves (s : State) (x : Seq) :
    (s.closeSeq x).seqs = s.seqs.filter (fun y => y.index != x.index) ∧ (s.closeSeq x).gens = Table.set s.gens x.index (x.gen + 1) := by
  obtain ⟨ca, hca⟩ := invalidate_shape
    { s with seqs := s.seqs.filter (fun y => y.index != x.index), gens := Table.set s.gens x.index (x.gen + 1) } (ptnOf x.ctx) x.index
    fun _ => true
  unfold State.closeSeq State.settleHandles
  dsimp only
  rw [hca]
  obtain ⟨_, _, _, _, _, h⟩ := told_modPtn _ (ptnOf x.ctx) fun pt : Partition =>
    { pt with recompute := pt.recompute.filter fun ch => ch.seq != x.no }
  rw [h]
  exact ⟨rfl, rfl⟩

/-! ### KV and PFX commands -/

section
variable {s : State} {q : Req} {c : CtxNo} {no : BitVec 32} {x : Seq}

/-- The device with the global list of a sequence replaced. -/
def globalList (s : State) (i : Nat) (l : List Nat) : State := (s.modSeq i fun y => { y with glob := l }).putGlob i

variable (hq : q.ring = .ctx c) (hr : s.seqRefuses c no = none) (hx : s.seq? no = some x) (hb : s.seqBound x = false)
include hq hr hx hb

theorem kvGlobal_cleared (base off : BitVec 42) : kvGlobalBody no 0 true base off s q = .status (globalList s x.index []) stOk :=
  (if_neg (by simp)).trans ((withIdleSeq_acts _ hq hr hx hb).trans (if_pos rfl))

theorem kvGlobal_obj {n : BitVec 7} (hn : n ≠ 0) (clear : Bool) (base off : BitVec 42) : kvGlobalBody no n clear base off s q =
    withObj q base s fun o =>
      if o.size < off.toNat + 4 * n.toNat then .status s stBadField
      else if s.objMigrates o.ctx base then .waits
      else if (s.objPoison o off.toNat (4 * n.toNat)).isSome then .status s stPoison
      else if ascendingBelow x.c ((List.range n.toNat).map fun i => s.objWord o (off.toNat + 4 * i) 4) then
        .status (globalList s x.index ((List.range n.toNat).map fun i => s.objWord o (off.toNat + 4 * i) 4)) stOk
      else .status s stBadField :=
  (if_neg fun h => hn h.1).trans ((withIdleSeq_acts _ hq hr hx hb).trans (if_neg hn))

theorem kvCommit_idle {a : BitVec 5} (ha : a ≠ 0) : kvCommitBody no a s q =
    if x.d < a.toNat then .status s stBadField else .status (s.commitDrafts x a.toNat) stOk :=
  (if_neg ha).trans (withIdleSeq_acts _ hq hr hx hb)

theorem kvRollback_idle : kvRollbackBody no s q =
    if x.d = 0 then .status s stOkEmpty else .status ((s.rollback x).quotaClear (ptnOf c)) stOk := withIdleSeq_acts _ hq hr hx hb

/-- The pages that KV.DROP drops: the oldest droppable ones (09 R206). -/
def dropped (s : State) (x : Seq) (n : Nat) : List Nat := ((x.pages.filter fun g => s.droppable x g).take n).map (·.no)

theorem kvDrop_idle {n : BitVec 24} (hn : n ≠ 0) : kvDropBody no n s q =
    .done ((s.dropPages x.index (dropped s x n.toNat)).quotaClear (ptnOf c)) stOk (dropped s x n.toNat).length 0 :=
  (if_neg hn).trans (withIdleSeq_acts _ hq hr hx hb)

end

/-! ### PFX.REGISTER and PFX.RELEASE -/

section
variable {s : State} {q : Req} {c : CtxNo} {no : BitVec 32} {x : Seq} {p : BitVec 23}

/-- The handles that are not released. -/
def liveHandles (s : State) : List Handle := s.handles.filter fun h => !h.released

/-- The device, or the partition of a context, holds as many handles as it may (10 R253). -/
def HandlesFull (s : State) (c : CtxNo) : Prop := 65536 ≤ (liveHandles s).length ∨
  ((s.ptn? (ptnOf c)).map (·.live.pfxLimit)).getD 0 ≤ ((liveHandles s).filter fun h => h.ptn == ptnOf c).length

/-- The handle that a registration makes of an index and a draw (09 R233). -/
def newHandle (c : CtxNo) (x : Seq) (p : Nat) (v : BitVec 64) : Handle :=
  { handle := v, ptn := ptnOf c, ctx := c, p := p, glob := x.glob.filter fun t => t < p, shape := x.shape,
    pages := (x.pages.filter fun g => x.shape.holdsBelow p g.no).map sharePage }

/-- The device with a handle registered, whose pages the sequence shares. -/
def registered (s : State) (x : Seq) (p : Nat) (h : Handle) : State :=
  { s.takeFree.2.takeDraw.2 with handles := s.handles ++ [h] }.modSeq x.index fun y =>
    { y with pages := y.pages.map fun (g : Page) => if x.shape.holdsBelow p g.no then sharePage g else g }

section
variable (hq : q.ring = .ctx c) (hr : s.seqRefuses c no = none) (hx : s.seq? no = some x) (hb : s.seqBound x = false) (hp : p ≠ 0)
include hq hr hx hb hp

theorem pfxRegister_drafts (hd : x.d ≠ 0) : pfxRegisterBody no p s q = .status s stSeqState :=
  (if_neg hp).trans ((withIdleSeq_acts _ hq hr hx hb).trans (if_pos (by simpa using hd)))

variable (hd : x.d = 0)
include hd

theorem pfxRegister_beyond (hc : x.c < p.toNat) : pfxRegisterBody no p s q = .status s stBadField :=
  (if_neg hp).trans ((withIdleSeq_acts _ hq hr hx hb).trans ((if_neg (by simp [hd])).trans (if_pos hc)))

variable (hc : p.toNat ≤ x.c)
include hc

theorem pfxRegister_full (hf : HandlesFull s c) : pfxRegisterBody no p s q = .status s stLimit :=
  (if_neg hp).trans ((withIdleSeq_acts _ hq hr hx hb).trans ((if_neg (by simp [hd])).trans ((if_neg (Nat.not_lt.mpr hc)).trans (if_pos hf))))

theorem pfxRegister_waits (hf : ¬ HandlesFull s c) (hg : s.rng.failing = true) : pfxRegisterBody no p s q = .waits :=
  (if_neg hp).trans ((withIdleSeq_acts _ hq hr hx hb).trans ((if_neg (by simp [hd])).trans ((if_neg (Nat.not_lt.mpr hc)).trans
    ((if_neg hf).trans (if_pos hg)))))

/-- A registration takes an index that no live handle has (09 R233). -/
theorem pfxRegister_registers (hf : ¬ HandlesFull s c) (hg : s.rng.failing = false) : ∃ i < 65536, ∃ d,
    (∀ z ∈ liveHandles s, z.handle.toNat % 65536 ≠ i) ∧ pfxRegisterBody no p s q =
      .done (registered s x p.toNat (newHandle c x p.toNat (BitVec.ofNat 64 (i + d % 2 ^ 48 * 65536)))) stOk
        (BitVec.ofNat 64 (i + d % 2 ^ 48 * 65536)).toNat 0 := by
  obtain ⟨i, hi, hlt, hu⟩ := freeNumber_some (n := 65536) (want := s.takeFree.1.toNat % 65536)
    (used := (liveHandles s).map fun h => h.handle.toNat % 65536) (Nat.mod_lt _ (by decide)) (exists_unused (by
      rw [List.length_map]
      exact Nat.lt_of_not_le fun h => hf (.inl h)))
  refine ⟨i, hlt, s.takeFree.2.takeDraw.1.toNat, fun z hz e => hu (List.mem_map.mpr ⟨z, hz, e⟩), ?_⟩
  refine (if_neg hp).trans ((withIdleSeq_acts _ hq hr hx hb).trans ((if_neg (by simp [hd])).trans ((if_neg (Nat.not_lt.mpr hc)).trans
    ((if_neg hf).trans ((if_neg (by simp [hg])).trans ?_)))))
  unfold liveHandles at hi
  dsimp only
  rw [hi]
  rfl

end

theorem handleIndex {i : Nat} (hi : i < 65536) (d : Nat) : (BitVec.ofNat 64 (i + d % 2 ^ 48 * 65536)).toNat % 65536 = i := by
  rw [BitVec.toNat_ofNat]
  omega

/-- The device with a handle released (09 R236). -/
def handleReleased (s : State) (v : BitVec 64) : State :=
  ({ s with handles := Lists.modifyIf (fun y => y.handle == v) (fun y => { y with released := true }) s.handles } : State).settleHandles

theorem mem_settleHandles {s : State} {z : Handle} (h : z ∈ s.settleHandles.handles) :
    ∃ y ∈ s.handles, z.handle = y.handle ∧ z.released = y.released := by
  obtain ⟨y, hy, hyz⟩ := List.mem_filterMap.mp h
  refine ⟨y, hy, ?_⟩
  split at hyz
  · dsimp only at hyz
    split at hyz
    · exact absurd hyz (by simp)
    · obtain rfl := Option.some.inj hyz
      exact ⟨rfl, rfl⟩
  · obtain rfl := Option.some.inj hyz
    exact ⟨rfl, rfl⟩

theorem handleReleased_released (s : State) (v : BitVec 64) : ∀ z ∈ (handleReleased s v).handles, z.handle = v → z.released = true := by
  intro z hz hv
  obtain ⟨y, hy, hh, hrel⟩ := mem_settleHandles hz
  obtain ⟨w, -, rfl⟩ := List.mem_map.mp hy
  rw [hh] at hv
  rw [hrel]
  by_cases hw : w.handle = v
  · simp [hw]
  · simp [hw] at hv

theorem pfxRelease_none {v : BitVec 64} (hq : q.ring = .ctx c) (h : s.handle? (ptnOf c) v = none) :
    pfxReleaseBody v s q = .status s stNoObject := by
  refine (withCtx_ctx _ _ hq).trans ?_
  rw [h]

theorem pfxRelease_some {v : BitVec 64} {h : Handle} (hq : q.ring = .ctx c) (hh : s.handle? (ptnOf c) v = some h) :
    pfxReleaseBody v s q = if (h.ctx == c && !h.ended) || isMgmt c then .status ((handleReleased s v).quotaClear (ptnOf c)) stOk
      else .status s stNoObject := by
  refine (withCtx_ctx _ _ hq).trans ?_
  rw [hh]
  rfl

end

/-- A command on an idle sequence on a host ring, refused and bound. -/
theorem onIdleSeq_answers {i : Instr} {s : State} {q : Req} {no : BitVec 32} {body : State → Req → Ran} {f : CtxNo → Seq → Ran}
    (he : exec i s = .next (runCommand i s body)) (hb : body (s.start q) q = withIdleSeq q no (s.start q) f) (hr : Runnable i q s) :
    (∀ h, q.ring = .host h → exec i s = .next ((s.start q).finish q stDenied 0 0)) ∧
    ∀ c, q.ring = .ctx c →
      (∀ st, s.seqRefuses c no = some st → exec i s = .next ((s.start q).finish q st 0 0)) ∧
      (∀ x, s.seqRefuses c no = none → s.seq? no = some x → (s.start q).seqBound x = true → exec i s = .next s) :=
  ⟨fun _ hq => exec_status he hr (hb.trans (withCtx_host _ _ hq)), fun _ hq =>
    ⟨fun _ h => exec_status he hr (hb.trans (withIdleSeq_refused (s := s.start q) f hq h)), fun _ h hx hbound =>
      exec_waits he hr (hb.trans (withIdleSeq_waits (s := s.start q) f hq h hx hbound))⟩⟩

/-- Settles O49, from the chain of SEQ.OPEN's checks, the commands on an idle sequence and the handles. -/
theorem sequences : Obligations.Sequences := by
  unfold Obligations.Sequences
  refine ⟨⟨fun s q a hr => ⟨fun h hq => exec_status rfl hr (withCtx_host _ _ hq), fun c hq => ⟨fun h =>
      exec_status rfl hr (seqOpen_noPtn (s := s.start q) hq h), fun x hx => ?_⟩⟩, fun s q no host i hi hr => ?_,
      fun s q c no x hq hx hc hs => ?_⟩,
    ⟨fun s q no base off i hi hr => ?_, fun s q no n clear base off a k p h1 h2 h3 h4 i hi hr => ?_,
      fun s c no => ⟨seqRefuses_none, fun x hx => ⟨seqRefuses_foreign hx, seqRefuses_lost hx, fun hc => seqRefuses_opened hx hc⟩⟩,
      fun s q c no x hq hx hr hb => ?_, fun s q v hr => ⟨fun h hq => exec_status rfl hr (withCtx_host _ _ hq), fun c hq => ⟨fun h =>
      exec_status rfl hr (pfxRelease_none (s := s.start q) hq h), fun h hh => ?_⟩⟩⟩⟩
  · have hgiven := handleMissing_iff (s := s.start q) (c := c) (a := a)
    have hinput := inputMissing_iff (s := s.start q) (c := c) (a := a)
    have hshape := shapeDiffers_iff (s := s.start q) (c := c) (a := a)
    refine ⟨fun h => ?_, fun h1 h2 h3 => ?_, fun h1 h2 => ?_, fun h1 h2 => ?_, fun h1 h2 h3 => ?_, fun h1 h2 h3 => ?_⟩
    · exact exec_status rfl hr (seqOpen_noHandle (s := s.start q) hq hx (by rw [← Bool.not_eq_false, hgiven]; exact h))
    · refine exec_status rfl hr (seqOpen_noInput (s := s.start q) hq hx (hgiven.mpr h1) ?_)
      rw [← Bool.not_eq_false, hinput]
      rintro (h | h)
      · exact h2 h
      · exact h h3
    · refine exec_status rfl hr (seqOpen_shape (s := s.start q) hq hx (hgiven.mpr h1.1) (hinput.mpr h1.2) ?_)
      rw [← Bool.not_eq_false, hshape]
      exact fun h => h2 ⟨h1, h⟩
    · exact exec_status rfl hr (seqOpen_objects (s := s.start q) hq hx (hgiven.mpr h1.1.1) (hinput.mpr h1.1.2) (hshape.mpr h1.2) h2)
    · exact exec_status rfl hr (seqOpen_full (s := s.start q) hq hx (hgiven.mpr h1.1.1) (hinput.mpr h1.1.2) (hshape.mpr h1.2) h2 h3)
    · obtain ⟨i, hi, hfresh⟩ := chooseIndex_some (s := s.start q) (p := ptnOf c) (x := x) h3
      have hrow := seqOpen_opens (s := s.start q) (q := q) hq hx (hgiven.mpr h1.1.1) (hinput.mpr h1.1.2) (hshape.mpr h1.2) h2 hi
      refine ⟨openedSeq (s.start q) c x a (namedHandle (s.start q) c a) i, hfresh, rfl, rfl, rfl, rfl, rfl, rfl, rfl, rfl, rfl,
        fun hfit => exec_status rfl hr (hrow.trans (if_neg (Bool.eq_false_iff.mp hfit))), fun hfit => exec_done rfl hr (hrow.trans (if_pos hfit))⟩
  · simp only [List.mem_cons, List.not_mem_nil, or_false] at hi
    rcases hi with rfl | rfl
    · exact ⟨fun h hq => exec_status rfl hr (withCtx_host _ _ hq), fun c hq h => exec_status rfl hr (seqClose_foreign (s := s.start q) hq h)⟩
    · exact ⟨fun h hq => exec_status rfl hr (withCtx_host _ _ hq), fun c hq h => exec_status rfl hr (seqQuery_foreign (s := s.start q) hq h)⟩
  · have hclose := seqClose_named (s := s.start q) (q := q) hq hx hc hs
    obtain ⟨hseqs, hgens⟩ := closeSeq_leaves (s.start q) x
    refine ⟨fun hr hb => exec_waits rfl hr (hclose.trans (if_pos hb)), fun hr hb => ⟨(s.start q).closeSeq x,
      exec_status rfl hr (hclose.trans (if_neg (by simp [hb]))), fun y hy => ?_, ?_, fun y hy hne => ?_⟩,
      fun host hr => exec_status rfl hr (seqQuery_named (s := s.start q) hq hx hc hs)⟩
    · rw [hseqs] at hy
      simpa using (List.mem_filter.mp hy).2
    · rw [hgens]
      exact Table.get_set_self ..
    · rw [hseqs]
      exact List.mem_filter.mpr ⟨hy, by simpa using hne⟩
  · simp only [List.mem_cons, List.not_mem_nil, or_false] at hi
    rcases hi with rfl | rfl | rfl | rfl
    · exact exec_status rfl hr (if_pos (by simp))
    · exact exec_status rfl hr (if_pos rfl)
    · exact exec_status rfl hr (if_pos rfl)
    · exact exec_status rfl hr (if_pos rfl)
  · simp only [List.mem_cons, List.not_mem_nil, or_false] at hi
    rcases hi with rfl | rfl | rfl | rfl | rfl
    · exact onIdleSeq_answers rfl (if_neg fun ⟨h, hc⟩ => h1.elim (fun h1 => h1 h) fun h1 => by simp [h1] at hc) hr
    · exact onIdleSeq_answers rfl (if_neg h2) hr
    · exact onIdleSeq_answers rfl rfl hr
    · exact onIdleSeq_answers rfl (if_neg h3) hr
    · exact onIdleSeq_answers rfl (if_neg h4) hr
  · refine ⟨fun base off hrun => exec_status rfl hrun (kvGlobal_cleared (s := s.start q) hq hr hx hb base off),
      fun n clear base off hrun hn => ?_, fun a hrun ha => ?_, fun hrun => ?_, fun n hrun hn => ?_, fun p hrun hp => ?_⟩
    · have hrow := kvGlobal_obj (s := s.start q) (q := q) hq hr hx hb hn clear base off
      refine ⟨fun ho => exec_status rfl hrun (hrow.trans (withObj_none (s := s.start q) _ hq ho)), fun o ho hoc => ⟨fun hbr =>
        exec_status rfl hrun (hrow.trans (withObj_broken (s := s.start q) _ hq ho (Option.isSome_iff_ne_none.mpr hbr))),
        fun hbr h1 => ?_, fun hbr h1 h2 => ?_, fun hbr h1 h2 => ⟨fun h3 => ?_, fun h3 h4 => ?_, fun h3 h4 => ?_⟩⟩⟩
      all_goals
        have hgo := hrow.trans (withObj_some (s := s.start q) _ hq ho hbr)
        rw [hoc] at hgo
      · exact exec_status rfl hrun (hgo.trans (if_pos h1))
      all_goals have hlen := Nat.not_lt.mpr h1
      · exact exec_waits rfl hrun (hgo.trans ((if_neg hlen).trans (if_pos h2)))
      all_goals have hmoves := Bool.eq_false_iff.mp h2
      · exact exec_status rfl hrun (hgo.trans ((if_neg hlen).trans ((if_neg hmoves).trans (if_pos (Option.isSome_iff_ne_none.mpr h3)))))
      · exact exec_status rfl hrun (hgo.trans ((if_neg hlen).trans ((if_neg hmoves).trans ((if_neg (by rw [h3]; decide)).trans
          (if_neg (Bool.eq_false_iff.mp h4))))))
      · exact exec_status rfl hrun (hgo.trans ((if_neg hlen).trans ((if_neg hmoves).trans ((if_neg (by rw [h3]; decide)).trans
          (if_pos h4)))))
    · have hrow := kvCommit_idle (s := s.start q) (q := q) hq hr hx hb ha
      exact ⟨fun h => exec_status rfl hrun (hrow.trans (if_neg (Nat.not_lt.mpr h))), fun h => exec_status rfl hrun (hrow.trans (if_pos h))⟩
    · have hrow := kvRollback_idle (s := s.start q) (q := q) hq hr hx hb
      exact ⟨fun h => exec_status rfl hrun (hrow.trans (if_pos h)), fun h => exec_status rfl hrun (hrow.trans (if_neg h))⟩
    · exact exec_done rfl hrun (kvDrop_idle (s := s.start q) hq hr hx hb hn)
    · refine ⟨fun h1 => exec_status rfl hrun (pfxRegister_drafts (s := s.start q) hq hr hx hb hp h1),
        fun h1 h2 => exec_status rfl hrun (pfxRegister_beyond (s := s.start q) hq hr hx hb hp h1 h2),
        fun h1 h2 h3 => exec_status rfl hrun (pfxRegister_full (s := s.start q) hq hr hx hb hp h1 h2 h3),
        fun h1 h2 h3 h4 => exec_waits rfl hrun (pfxRegister_waits (s := s.start q) hq hr hx hb hp h1 h2 h3 h4), fun h1 h2 h3 h4 => ?_⟩
      obtain ⟨i, hlt, d, hfresh, hrow⟩ := pfxRegister_registers (s := s.start q) hq hr hx hb hp h1 h2 h3 h4
      refine ⟨newHandle c x p.toNat (BitVec.ofNat 64 (i + d % 2 ^ 48 * 65536)), exec_done rfl hrun hrow, rfl, rfl, rfl, rfl, rfl, rfl, rfl,
        fun z hz hrel => ?_⟩
      rw [show (newHandle c x p.toNat (BitVec.ofNat 64 (i + d % 2 ^ 48 * 65536))).handle.toNat % 65536 = i from handleIndex hlt d]
      exact hfresh z (List.mem_filter.mpr ⟨hz, by simp [hrel]⟩)
  · have hrow := pfxRelease_some (s := s.start q) (q := q) hq hh
    refine ⟨fun h1 => ⟨_, exec_status rfl hr (hrow.trans (if_pos ?_)), handleReleased_released _ _⟩, fun h1 h2 =>
      exec_status rfl hr (hrow.trans (if_neg ?_))⟩
    · rcases h1 with ⟨h1, h2⟩ | h1
      · simp [h1, h2]
      · simp [h1]
    · rcases h1 with h1 | h1 <;> simp [h1, h2]

end Sys2Proof.Machine
end

section
/-! SUPPORT and the settlement of O50: the SCHED commands (05 R134, R135, 07 R158, R161, 10 R241 to R259, 12 R310). -/

namespace Sys2Proof.Machine

/-! ### SCHED.LOAD -/

section
variable {s : State} {q : Req} {c : CtxNo} {base : BitVec 42} {o : Obj}

/-- What SCHED.LOAD does once its image is known to keep the loader's rules and its tiles are free to move (05 R134). -/
def placeImage (v : State) (c : CtxNo) (base : BitVec 42) (n : Nat) (i : Image) : Ran :=
  if v.objMigrates c base then .again v
  else
    match v.pinImage c base (List.range n) with
    | (s', false) => .status s' stQuota
    | (s', true) => if s'.objMigrates c base then .again s' else .status { s' with images := s'.images ++ [i] } stOk

theorem placeImage_pinned {v t : State} {n : Nat} {i : Image} (hm : v.objMigrates c base = false)
    (hp : v.pinImage c base (List.range n) = (t, true)) :
    placeImage v c base n i = if t.objMigrates c base then .again t else .status { t with images := t.images ++ [i] } stOk := by
  rw [placeImage, if_neg (by simp [hm]), hp]

theorem placeImage_full {v t : State} {n : Nat} {i : Image} (hm : v.objMigrates c base = false)
    (hp : v.pinImage c base (List.range n) = (t, false)) : placeImage v c base n i = .status t stQuota := by
  rw [placeImage, if_neg (by simp [hm]), hp]

variable (hq : q.ring = .ctx c) (ho : s.obj? c base = some o) (hb : o.broken = none)
include hq ho hb

theorem schedLoad_loaded (hl : s.loaded c base = true) : schedLoadBody base s q = .status s stInUse := by
  obtain ⟨hc, -⟩ := obj?_names ho
  exact (withObj_some _ hq ho hb).trans (if_pos (by rw [hc]; exact hl))

variable (hl : s.loaded c base = false)
include hl

theorem schedLoad_kind (hk : o.desc.kind ≠ kindImage) : schedLoadBody base s q = .status s stBadField := by
  obtain ⟨hc, -⟩ := obj?_names ho
  exact (withObj_some _ hq ho hb).trans ((if_neg (by rw [hc, hl]; decide)).trans (if_pos (by simpa using hk)))

variable (hk : o.desc.kind = kindImage)
include hk

theorem schedLoad_poison (hp : s.objPoison o 0 o.size ≠ none) : schedLoadBody base s q = .status s stPoison := by
  obtain ⟨hc, -⟩ := obj?_names ho
  exact (withObj_some _ hq ho hb).trans ((if_neg (by rw [hc, hl]; decide)).trans ((if_neg (by simp [hk])).trans
    (if_pos (Option.isSome_iff_ne_none.mpr hp))))

variable (hp : s.objPoison o 0 o.size = none)
include hp

theorem schedLoad_noImage (h : readImage c base (s.readObj o 0 o.size) = none ∨ s.ptn? (ptnOf c) = none) :
    schedLoadBody base s q = .status s stBadField := by
  obtain ⟨rfl, -⟩ := obj?_names ho
  refine (withObj_some _ hq ho hb).trans ((if_neg (by rw [hl]; decide)).trans ((if_neg (by simp [hk])).trans
    ((if_neg (by rw [hp]; decide)).trans ?_)))
  rcases h with h | h
  · rw [h]
  · rw [h]
    cases readImage o.ctx base (s.readObj o 0 o.size) <;> rfl

theorem schedLoad_image {i : Image} {x : Partition} (hi : readImage c base (s.readObj o 0 o.size) = some i) (hx : s.ptn? (ptnOf c) = some x) :
    schedLoadBody base s q = if !imageOk i s.stores x (x.group.any fun g => g.lockstep) then .status s stBadField
      else if s.bound o && o.tiles.any (fun t => t.place.tier == 0) then .waits
      else placeImage (s.cancelMigrations c base fun m => m.dest.tier == 0) c base o.tiles.length i := by
  obtain ⟨rfl, -⟩ := obj?_names ho
  refine (withObj_some _ hq ho hb).trans ((if_neg (by rw [hl]; decide)).trans ((if_neg (by simp [hk])).trans
    ((if_neg (by rw [hp]; decide)).trans ?_)))
  rw [hi, hx]
  rfl

end

/-! ### SCHED.RUN and SCHED.STEP -/

section
variable {s : State} {q : Req} {c : CtxNo} {a : RunArgs}

theorem schedRun_missing (hq : q.ring = .ctx c) (h : s.image? c a.image = none ∨ s.ptn? (ptnOf c) = none) :
    schedRunBody a s q = .status s stNoObject := by
  refine (withCtx_ctx _ _ hq).trans ?_
  rcases h with h | h
  · rw [h]
  · rw [h]
    cases s.image? c a.image <;> rfl

theorem schedRun_waits {img : Image} {x : Partition} (hq : q.ring = .ctx c) (hi : s.image? c a.image = some img)
    (hx : s.ptn? (ptnOf c) = some x) (hm : s.objMigrates c a.list = true) : schedRunBody a s q = .waits := by
  refine (withCtx_ctx _ _ hq).trans ?_
  rw [hi, hx]
  exact if_pos hm

theorem schedRun_refused {img : Image} {x : Partition} {st : Nat} (hq : q.ring = .ctx c) (hi : s.image? c a.image = some img)
    (hx : s.ptn? (ptnOf c) = some x) (hm : s.objMigrates c a.list = false)
    (hl : s.readList c a (List.range a.nBind.toNat) = .error st) : schedRunBody a s q = .status s st := by
  refine (withCtx_ctx _ _ hq).trans ?_
  rw [hi, hx]
  refine (if_neg (Bool.eq_false_iff.mp hm)).trans ?_
  rw [hl]

theorem schedRun_listed {img : Image} {x : Partition} {objs : List (BitVec 42)} {slots : List Slot} (hq : q.ring = .ctx c)
    (hi : s.image? c a.image = some img) (hx : s.ptn? (ptnOf c) = some x) (hm : s.objMigrates c a.list = false)
    (hl : s.readList c a (List.range a.nBind.toNat) = .ok (objs, slots)) : schedRunBody a s q =
      if s.tooLong x c false img.nBeats then .status s stLimit
      else .goesOn (s.enqueue (ptnOf c)
        { q := q, ctx := c, isStep := false, image := a.image, args := a, objs := objs, slots := slots }) := by
  refine (withCtx_ctx _ _ hq).trans ?_
  rw [hi, hx]
  refine (if_neg (Bool.eq_false_iff.mp hm)).trans ?_
  rw [hl]

/-- The step set that a SCHED.STEP names. -/
def namedSet (s : State) (c : CtxNo) (a : RunArgs) : Option (Partition × StepSet) :=
  (s.ptn? (ptnOf c)).bind fun x => (x.stepSet? c a.image.toNat).map fun t => (x, t)

theorem namedSet_none (h : ∀ x, s.ptn? (ptnOf c) = some x → x.stepSet? c a.image.toNat = none) : namedSet s c a = none := by
  rw [namedSet, Option.bind_eq_none_iff]
  intro x hx
  rw [h x hx]
  rfl

theorem namedSet_some {x : Partition} {t : StepSet} (hx : s.ptn? (ptnOf c) = some x) (ht : x.stepSet? c a.image.toNat = some t) :
    namedSet s c a = some (x, t) := by
  rw [namedSet, hx, Option.bind_some, ht]
  rfl

/-- The list entries that a step reads: those of its decode slots, then those of its chunks (10 R251). -/
def stepList (s : State) (c : CtxNo) (a : RunArgs) : Except Nat (List (BitVec 42) × List Slot) :=
  s.readList c a (List.range a.nBind.toNat ++ (List.range a.q.toNat).map fun i => 255 - i)

/-- Whether a step's list has decode slots, then chunks, of different sequences (10 R251). -/
def stepShaped (a : RunArgs) (slots : List Slot) : Bool :=
  (slots.take a.nBind.toNat).all Slot.decodes && (slots.drop a.nBind.toNat).all Slot.chunks && distinctSeqs slots

/-- The result object that a verified step names. -/
def stepResult (s : State) (c : CtxNo) (a : RunArgs) : Option Obj := if a.verify then s.obj? c a.result else none

/-- Whether a verified step's result object cannot take its results. -/
def resultRefused (s : State) (c : CtxNo) (a : RunArgs) : Bool :=
  (stepResult s c a).any fun o => o.size < 128 * (a.nBind.toNat + 1) || o.desc.kind == kindWeights

/-- The variant that a step takes. -/
def stepVariant (t : StepSet) (a : RunArgs) (slots : List Slot) : Option (Nat × Variant) :=
  selectVariant t.variants a.nBind.toNat a.q.toNat ((slots.drop a.nBind.toNat).map Slot.rows)

theorem schedStep_asks (hn : a.nBind ≠ 0 ∨ a.q ≠ 0) : ¬ (a.nBind.toNat = 0 ∧ a.q.toNat = 0) := fun ⟨h1, h2⟩ =>
  hn.elim (fun h => h (BitVec.eq_of_toNat_eq h1)) fun h => h (BitVec.eq_of_toNat_eq h2)

section
variable (hq : q.ring = .ctx c) (hn : a.nBind ≠ 0 ∨ a.q ≠ 0)
include hq hn

theorem schedStep_noSet (h : namedSet s c a = none) : schedStepBody a s q = .status s stNoObject := by
  unfold namedSet at h
  refine (if_neg (schedStep_asks hn)).trans ((withCtx_ctx _ _ hq).trans ?_)
  dsimp only
  rw [h]

variable {x : Partition} {t : StepSet} (hs : namedSet s c a = some (x, t))
include hs

theorem schedStep_many (h : 256 < a.nBind.toNat + a.q.toNat) : schedStepBody a s q = .status s stLimit := by
  unfold namedSet at hs
  refine (if_neg (schedStep_asks hn)).trans ((withCtx_ctx _ _ hq).trans ?_)
  dsimp only
  rw [hs]
  exact if_pos h

variable (hl : a.nBind.toNat + a.q.toNat ≤ 256)
include hl

theorem schedStep_waits (h : s.objMigrates c a.list = true) : schedStepBody a s q = .waits := by
  unfold namedSet at hs
  refine (if_neg (schedStep_asks hn)).trans ((withCtx_ctx _ _ hq).trans ?_)
  dsimp only
  rw [hs]
  exact (if_neg (Nat.not_lt.mpr hl)).trans (if_pos h)

variable (hm : s.objMigrates c a.list = false)
include hm

theorem schedStep_refused {st : Nat} (h : stepList s c a = .error st) : schedStepBody a s q = .status s st := by
  unfold namedSet at hs
  unfold stepList at h
  refine (if_neg (schedStep_asks hn)).trans ((withCtx_ctx _ _ hq).trans ?_)
  dsimp only
  rw [hs]
  refine (if_neg (Nat.not_lt.mpr hl)).trans ((if_neg (Bool.eq_false_iff.mp hm)).trans ?_)
  rw [h]

variable {objs : List (BitVec 42)} {slots : List Slot} (hlist : stepList s c a = .ok (objs, slots))
include hlist

/-- What a SCHED.STEP whose list is read goes on to look at. -/
theorem schedStep_listed (r : Ran) (h : (if !stepShaped a slots then .status s stBadField
      else if a.verify && (stepResult s c a).isNone then .status s stNoObject
      else if resultRefused s c a then .status s stBadField
      else match stepVariant t a slots with
        | none => .status s stLimit
        | some (i, v) =>
          if s.tooLong x c true (((s.image? c v.image).map Image.nBeats).getD 0) then .status s stLimit
          else .goesOn (s.enqueue (ptnOf c)
            { q := q, ctx := c, isStep := true, image := v.image, variant := i, args := a, objs := objs, slots := slots })) = r) :
    schedStepBody a s q = r := by
  unfold namedSet at hs
  unfold stepList at hlist
  refine (if_neg (schedStep_asks hn)).trans ((withCtx_ctx _ _ hq).trans ?_)
  dsimp only
  rw [hs]
  refine (if_neg (Nat.not_lt.mpr hl)).trans ((if_neg (Bool.eq_false_iff.mp hm)).trans ?_)
  rw [hlist]
  exact h

theorem schedStep_unshaped (h : stepShaped a slots = false) : schedStepBody a s q = .status s stBadField :=
  schedStep_listed hq hn hs hl hm hlist _ (if_pos (by simp [h]))

variable (hsh : stepShaped a slots = true)
include hsh

theorem schedStep_noResult (hv : a.verify = true) (h : s.obj? c a.result = none) : schedStepBody a s q = .status s stNoObject :=
  schedStep_listed hq hn hs hl hm hlist _ ((if_neg (by simp [hsh])).trans (if_pos (by simp [stepResult, hv, h])))

theorem schedStep_resultRefused {o : Obj} (hv : a.verify = true) (ho : s.obj? c a.result = some o)
    (h : o.size < 128 * (a.nBind.toNat + 1) ∨ o.desc.kind = kindWeights) : schedStepBody a s q = .status s stBadField :=
  schedStep_listed hq hn hs hl hm hlist _ ((if_neg (by simp [hsh])).trans ((if_neg (by simp [stepResult, hv, ho])).trans
    (if_pos (by simpa [resultRefused, stepResult, hv, ho] using h))))

variable (hr : a.verify = true → ∃ o, s.obj? c a.result = some o ∧ 128 * (a.nBind.toNat + 1) ≤ o.size ∧ o.desc.kind ≠ kindWeights)
include hr

/-- A step whose list and result object are in order, with the variant that it takes. -/
theorem schedStep_takes (r : Ran) (h : (match stepVariant t a slots with
        | none => .status s stLimit
        | some (i, v) =>
          if s.tooLong x c true (((s.image? c v.image).map Image.nBeats).getD 0) then .status s stLimit
          else .goesOn (s.enqueue (ptnOf c)
            { q := q, ctx := c, isStep := true, image := v.image, variant := i, args := a, objs := objs, slots := slots })) = r) :
    schedStepBody a s q = r := by
  refine schedStep_listed hq hn hs hl hm hlist r ((if_neg (by simp [hsh])).trans ?_)
  cases hv : a.verify with
  | false => exact (if_neg (by simp)).trans ((if_neg (by simp [resultRefused, stepResult, hv])).trans h)
  | true =>
    obtain ⟨o, ho, h1, h2⟩ := hr hv
    exact (if_neg (by simp [stepResult, hv, ho])).trans ((if_neg (by simp [resultRefused, stepResult, hv, ho, h2]; omega)).trans h)

theorem schedStep_noVariant (h : stepVariant t a slots = none) : schedStepBody a s q = .status s stLimit :=
  schedStep_takes hq hn hs hl hm hlist hsh hr _ (by rw [h])

theorem schedStep_variant {i : Nat} {v : Variant} (h : stepVariant t a slots = some (i, v)) : schedStepBody a s q =
    if s.tooLong x c true (((s.image? c v.image).map Image.nBeats).getD 0) then .status s stLimit
    else .goesOn (s.enqueue (ptnOf c)
      { q := q, ctx := c, isStep := true, image := v.image, variant := i, args := a, objs := objs, slots := slots }) :=
  schedStep_takes hq hn hs hl hm hlist hsh hr _ (by rw [h])

end

end

/-! ### SCHED.UNLOAD, SCHED.STEPSET and SCHED.STEPFREE -/

section
variable {s : State} {q : Req} {c : CtxNo} {base off : BitVec 42}

/-- Whether an accepted command runs an image for a ring. -/
def runsImage (r : Ring) (base : BitVec 42) (a : Accepted) : Bool :=
  match a.cmd with
  | .schedRun q b => b.image == base && q.ring == r
  | _ => false

theorem runsImage_iff {r : Ring} {a : Accepted} : runsImage r base a = true ↔ ∃ q b, a.cmd = .schedRun q b ∧ b.image = base ∧ q.ring = r := by
  unfold runsImage
  split
  next q b h => simp [h]
  next h => exact ⟨fun h => absurd h (by decide), fun ⟨q, b, hc, _⟩ => absurd hc (h q b)⟩

/-- Whether an accepted command runs a step set for a ring. -/
def runsSet (r : Ring) (n : BitVec 4) (a : Accepted) : Bool :=
  match a.cmd with
  | .schedStep q b => b.image.toNat == n.toNat && q.ring == r
  | _ => false

theorem runsSet_iff {r : Ring} {n : BitVec 4} {a : Accepted} :
    runsSet r n a = true ↔ ∃ q b, a.cmd = .schedStep q b ∧ b.image.toNat = n.toNat ∧ q.ring = r := by
  unfold runsSet
  split
  next q b h => simp [h]
  next h => exact ⟨fun h => absurd h (by decide), fun ⟨q, b, hc, _⟩ => absurd hc (h q b)⟩

/-- Whether a step set of the context names an image (10 R250). -/
def inStepSet (s : State) (c : CtxNo) (base : BitVec 42) : Bool :=
  (s.ptn? (ptnOf c)).any fun x => x.stepSets.any fun t => t.ctx == c && t.variants.any fun v => v.image == base

theorem inStepSet_iff : inStepSet s c base = true ↔
    ∃ x, s.ptn? (ptnOf c) = some x ∧ ∃ t ∈ x.stepSets, t.ctx = c ∧ ∃ v ∈ t.variants, v.image = base := by
  unfold inStepSet
  cases s.ptn? (ptnOf c) <;> simp

theorem schedUnload_eq (hq : q.ring = .ctx c) : schedUnloadBody base s q =
    if !s.loaded c base then .status s stNoObject
    else if inStepSet s c base then .status s stBadField
    else if s.accepted.any (runsImage q.ring base) then .status s stInUse
    else .status { s with images := s.images.filter fun i => !(i.ctx == c && i.base == base) } stOk := withCtx_ctx _ _ hq

theorem schedStepfree_eq {n : BitVec 4} (hq : q.ring = .ctx c) : schedStepfreeBody n s q =
    if ((s.ptn? (ptnOf c)).bind fun x => x.stepSet? c n.toNat).isNone then .status s stNoObject
    else if s.accepted.any (runsSet q.ring n) then .status s stInUse
    else .status (s.modPtn (ptnOf c) fun x =>
      { x with stepSets := x.stepSets.filter fun t => !(t.ctx == c && t.no == n.toNat) }) stOk := withCtx_ctx _ _ hq

/-- The images that a step set's variants name. -/
def setImages (s : State) (c : CtxNo) (vs : List Variant) : List Image := vs.filterMap fun v => s.image? c v.image

/-- Whether every image of a list is kin to the first. -/
def allKin : List Image → Bool
  | [] => false
  | i :: is => is.all fun j => i.kin j

theorem allKin_iff {imgs : List Image} : allKin imgs = true ↔ ∃ img rest, imgs = img :: rest ∧ ∀ j ∈ rest, img.kin j = true := by
  cases imgs with
  | nil => simp [allKin]
  | cons i is => simp [allKin]

/-- Whether the slots of a Guarded partition hold the images of a set (10 R259). -/
def setFits (x : Partition) (imgs : List Image) : Bool :=
  !x.live.guarded || slotFits (imgs.foldl (fun m i => max m i.nBeats) 0) x.live.beatLen x.live.fG x.live.periodUs

section
variable {n : BitVec 4} {o : Obj} (hq : q.ring = .ctx c) (ho : s.obj? c base = some o) (hb : o.broken = none) (hn : n ≠ 0)
include hq ho hb hn

theorem schedStepset_beyond (h : o.size < off.toNat + 16 * n.toNat) : schedStepsetBody base off n s q = .status s stBadField :=
  (if_neg hn).trans ((withObj_some _ hq ho hb).trans (if_pos h))

variable (hs : off.toNat + 16 * n.toNat ≤ o.size)
include hs

theorem schedStepset_waits (h : s.objMigrates c base = true) : schedStepsetBody base off n s q = .waits := by
  obtain ⟨rfl, -⟩ := obj?_names ho
  exact (if_neg hn).trans ((withObj_some _ hq ho hb).trans ((if_neg (Nat.not_lt.mpr hs)).trans (if_pos h)))

variable (hm : s.objMigrates c base = false)
include hm

theorem schedStepset_poison (h : s.objPoison o off.toNat (16 * n.toNat) ≠ none) : schedStepsetBody base off n s q = .status s stPoison := by
  obtain ⟨rfl, -⟩ := obj?_names ho
  exact (if_neg hn).trans ((withObj_some _ hq ho hb).trans ((if_neg (Nat.not_lt.mpr hs)).trans ((if_neg (Bool.eq_false_iff.mp hm)).trans
    (if_pos (Option.isSome_iff_ne_none.mpr h)))))

variable (hp : s.objPoison o off.toNat (16 * n.toNat) = none)
include hp

theorem schedStepset_unread (h : s.readVariants o off.toNat n.toNat = none ∨ s.ptn? (ptnOf c) = none) :
    schedStepsetBody base off n s q = .status s stBadField := by
  obtain ⟨rfl, -⟩ := obj?_names ho
  refine (if_neg hn).trans ((withObj_some _ hq ho hb).trans ((if_neg (Nat.not_lt.mpr hs)).trans ((if_neg (Bool.eq_false_iff.mp hm)).trans
    ((if_neg (by rw [hp]; decide)).trans ?_))))
  rcases h with h | h
  · rw [h]
  · rw [h]
    cases s.readVariants o off.toNat n.toNat <;> rfl

variable {vs : List Variant} {x : Partition} (hv : s.readVariants o off.toNat n.toNat = some vs) (hx : s.ptn? (ptnOf c) = some x)
include hv hx

theorem schedStepset_read (r : Ran) (h : (if (setImages s c vs).length != vs.length || !allKin (setImages s c vs) then .status s stBadField
      else if !setFits x (setImages s c vs) then .status s stLimit
      else match if (x.stepSets.map (·.no)).contains (s.takeFree.1.toNat % 16) then Lists.lowestFree 16 (x.stepSets.map (·.no))
          else some (s.takeFree.1.toNat % 16) with
        | none => .status s.takeFree.2 stLimit
        | some no => .done (s.takeFree.2.modPtn (ptnOf c) fun y => { y with stepSets := y.stepSets ++ [⟨no, c, vs⟩] }) stOk no 0) = r) :
    schedStepsetBody base off n s q = r := by
  obtain ⟨rfl, -⟩ := obj?_names ho
  refine (if_neg hn).trans ((withObj_some _ hq ho hb).trans ((if_neg (Nat.not_lt.mpr hs)).trans ((if_neg (Bool.eq_false_iff.mp hm)).trans
    ((if_neg (by rw [hp]; decide)).trans ?_))))
  rw [hv, hx]
  exact h

theorem schedStepset_disagrees (h : ¬ ((setImages s c vs).length = vs.length ∧ allKin (setImages s c vs) = true)) :
    schedStepsetBody base off n s q = .status s stBadField := by
  refine schedStepset_read hq ho hb hn hs hm hp hv hx _ (if_pos ?_)
  by_contra hc
  exact h (by simpa using hc)

variable (hagree : (setImages s c vs).length = vs.length ∧ allKin (setImages s c vs) = true)
include hagree

theorem schedStepset_long (h : setFits x (setImages s c vs) = false) : schedStepsetBody base off n s q = .status s stLimit :=
  schedStepset_read hq ho hb hn hs hm hp hv hx _ ((if_neg (by simp [hagree])).trans (if_pos (by simp [h])))

variable (hfits : setFits x (setImages s c vs) = true)
include hfits

theorem schedStepset_full (h : ∀ no < 16, ∃ z ∈ x.stepSets, z.no = no) : schedStepsetBody base off n s q = .status s.takeFree.2 stLimit := by
  refine schedStepset_read hq ho hb hn hs hm hp hv hx _ ((if_neg (by simp [hagree])).trans ((if_neg (by simp [hfits])).trans ?_))
  have hmem (no : Nat) (hno : no < 16) : no ∈ x.stepSets.map (·.no) := List.mem_map.mpr (h no hno)
  rw [if_pos (List.contains_iff_mem.mpr (hmem _ (Nat.mod_lt _ (by decide)))), lowestFree_eq_none.mpr hmem]

theorem schedStepset_numbers (h : ∃ no < 16, ∀ z ∈ x.stepSets, z.no ≠ no) : ∃ no < 16, (∀ z ∈ x.stepSets, z.no ≠ no) ∧
    schedStepsetBody base off n s q =
      .done (s.takeFree.2.modPtn (ptnOf c) fun y => { y with stepSets := y.stepSets ++ [⟨no, c, vs⟩] }) stOk no 0 := by
  have hnot (no : Nat) : no ∉ x.stepSets.map (·.no) ↔ ∀ z ∈ x.stepSets, z.no ≠ no := by simp
  obtain ⟨no, hno, hlt, hu⟩ := freeNumber_some (n := 16) (want := s.takeFree.1.toNat % 16) (used := x.stepSets.map (·.no))
    (Nat.mod_lt _ (by decide)) (h.imp fun no hno => ⟨hno.1, (hnot no).mpr hno.2⟩)
  refine ⟨no, hlt, (hnot no).mp hu, schedStepset_read hq ho hb hn hs hm hp hv hx _ ((if_neg (by simp [hagree])).trans
    ((if_neg (by simp [hfits])).trans ?_))⟩
  rw [hno]

end

end

/-- Settles O50, from the chains of checks of the SCHED commands. -/
theorem programs : Obligations.Programs := by
  unfold Obligations.Programs
  refine ⟨fun s q base off n k a hk ha i hi hr h hq => ?_, fun s q c base hr hq => ⟨fun ho => ?_, fun o ho hoc => ?_⟩,
    fun s q c a hr hq => ⟨fun h => ?_, fun img x hi hx => ?_⟩, fun s q a hr h1 h2 => exec_status rfl hr (if_pos (by simp [h1, h2])),
    fun s q c a hr hq hn => ⟨fun h => ?_, fun x t hx ht => ?_⟩, fun s q c base hr hq => ?_,
    fun s q base off n hr hn => exec_status rfl hr (if_pos hn), fun s q c base off n hr hq hn => ⟨fun ho => ?_, fun o ho hoc => ?_⟩,
    fun s q c n hr hq => ⟨fun h => ?_, fun x hx h => ?_⟩⟩
  · simp only [List.mem_cons, List.not_mem_nil, or_false] at hi
    rcases hi with rfl | rfl | rfl | rfl | rfl | rfl
    · exact exec_status rfl hr (withCtx_host _ _ hq)
    · exact exec_status rfl hr (withCtx_host _ _ hq)
    · exact exec_status rfl hr ((if_neg (schedStep_asks ha)).trans (withCtx_host _ _ hq))
    · exact exec_status rfl hr (withCtx_host _ _ hq)
    · exact exec_status rfl hr ((if_neg hk).trans (withCtx_host _ _ hq))
    · exact exec_status rfl hr (withCtx_host _ _ hq)
  · exact exec_status rfl hr (withObj_none (s := s.start q) _ hq ho)
  · refine ⟨fun hb => exec_status rfl hr (withObj_broken (s := s.start q) _ hq ho (Option.isSome_iff_ne_none.mpr hb)),
      fun hb hl => exec_status rfl hr (schedLoad_loaded (s := s.start q) hq ho hb hl),
      fun hb hl hk => exec_status rfl hr (schedLoad_kind (s := s.start q) hq ho hb hl hk),
      fun hb hl hk hp => exec_status rfl hr (schedLoad_poison (s := s.start q) hq ho hb hl hk hp), fun hb hl hk hp =>
      ⟨fun h => exec_status rfl hr (schedLoad_noImage (s := s.start q) hq ho hb hl hk hp h), fun i x hi hx => ?_⟩⟩
    have hrow := schedLoad_image (s := s.start q) (q := q) hq ho hb hl hk hp hi hx
    have haway : (o.tiles.any fun t => t.place.tier == 0) = true ↔ ∃ t ∈ o.tiles, t.place.tier = 0 := by simp
    have hstays (h : (s.start q).bound o = false ∨ ¬ ∃ t ∈ o.tiles, t.place.tier = 0) :
        ¬ ((s.start q).bound o && o.tiles.any fun t => t.place.tier == 0) = true := by
      rw [Bool.and_eq_true, haway]
      exact fun ⟨h1, h2⟩ => h.elim (fun h => by simp [h] at h1) fun h => h h2
    refine ⟨fun hok => exec_status rfl hr (hrow.trans (if_pos (congrArg (!·) hok))), fun hok hbd haw => ?_, fun hok hst hm => ?_,
      fun hok hst hm => ?_⟩
    all_goals have hgo := hrow.trans (if_neg (Bool.eq_false_iff.mp (congrArg (!·) hok)))
    · exact exec_waits rfl hr (hgo.trans (if_pos (by rw [hbd, haway.mpr haw]; rfl)))
    · exact exec_again rfl hr (hgo.trans ((if_neg (hstays hst)).trans (if_pos hm)))
    · have hplace := hgo.trans (if_neg (hstays hst))
      refine ⟨fun hp => exec_status rfl hr (hplace.trans (placeImage_full hm (Prod.ext rfl hp))), fun hp hmv => ?_, fun hp hmv => ?_⟩
      · exact exec_again rfl hr (hplace.trans ((placeImage_pinned hm (Prod.ext rfl hp)).trans (if_pos hmv)))
      · exact exec_status rfl hr (hplace.trans ((placeImage_pinned hm (Prod.ext rfl hp)).trans (if_neg (Bool.eq_false_iff.mp hmv))))
  · exact exec_status rfl hr (schedRun_missing (s := s.start q) hq h)
  · refine ⟨fun hm => exec_waits rfl hr (schedRun_waits (s := s.start q) hq hi hx hm), fun hm st hl =>
      exec_status rfl hr (schedRun_refused (s := s.start q) hq hi hx hm hl), fun hm objs slots hl => ?_⟩
    have hrow := schedRun_listed (s := s.start q) hq hi hx hm hl
    exact ⟨fun h => exec_status rfl hr (hrow.trans (if_pos h)), fun h => exec_goesOn rfl hr (hrow.trans (if_neg (Bool.eq_false_iff.mp h)))⟩
  · exact exec_status rfl hr (schedStep_noSet (s := s.start q) hq hn (namedSet_none (s := s.start q) h))
  · have hs := namedSet_some (s := s.start q) hx ht
    refine ⟨fun h => exec_status rfl hr (schedStep_many (s := s.start q) hq hn hs h), fun hl hm =>
      exec_waits rfl hr (schedStep_waits (s := s.start q) hq hn hs hl hm), fun hl hm st h =>
      exec_status rfl hr (schedStep_refused (s := s.start q) hq hn hs hl hm h), fun hl hm objs slots hlist => ⟨fun h => ?_, fun h hv hno => ?_,
      fun h r hv ho hno => ?_, fun h hres hno => ?_, fun h hres i v hvar => ?_⟩⟩
    · exact exec_status rfl hr (schedStep_unshaped (s := s.start q) hq hn hs hl hm hlist (Bool.eq_false_iff.mpr h))
    · exact exec_status rfl hr (schedStep_noResult (s := s.start q) hq hn hs hl hm hlist h hv hno)
    · refine exec_status rfl hr (schedStep_resultRefused (s := s.start q) hq hn hs hl hm hlist h hv ho ?_)
      by_contra hc
      exact hno fun _ => ⟨r, ho, by omega, fun hk => hc (.inr hk)⟩
    · exact exec_status rfl hr (schedStep_noVariant (s := s.start q) hq hn hs hl hm hlist h hres hno)
    · have hrow := schedStep_variant (s := s.start q) hq hn hs hl hm hlist h hres hvar
      exact ⟨fun h => exec_status rfl hr (hrow.trans (if_pos h)), fun h => exec_goesOn rfl hr (hrow.trans (if_neg (Bool.eq_false_iff.mp h)))⟩
  · have hrow := schedUnload_eq (s := s.start q) (base := base) hq
    have hnamed := inStepSet_iff (s := s.start q) (c := c) (base := base)
    have hused : ((s.start q).accepted.any (runsImage q.ring base)) = true ↔
        ∃ a ∈ (s.start q).accepted, ∃ r b, a.cmd = .schedRun r b ∧ b.image = base ∧ r.ring = q.ring := by
      simp only [List.any_eq_true, runsImage_iff]
    refine ⟨fun h => exec_status rfl hr (hrow.trans (if_pos (congrArg (!·) h))), fun h h1 => ?_, fun h h1 h2 => ?_, fun h h1 h2 => ?_⟩
    all_goals have hgo := hrow.trans (if_neg (Bool.eq_false_iff.mp (congrArg (!·) h)))
    · exact exec_status rfl hr (hgo.trans (if_pos (hnamed.mpr h1)))
    · exact exec_status rfl hr (hgo.trans ((if_neg (hnamed.not.mpr h1)).trans (if_pos (hused.mpr h2))))
    · exact exec_status rfl hr (hgo.trans ((if_neg (hnamed.not.mpr h1)).trans (if_neg (hused.not.mpr h2))))
  · exact exec_status rfl hr ((if_neg hn).trans (withObj_none (s := s.start q) _ hq ho))
  · refine ⟨fun hb => exec_status rfl hr ((if_neg hn).trans (withObj_broken (s := s.start q) _ hq ho (Option.isSome_iff_ne_none.mpr hb))),
      fun hb h => exec_status rfl hr (schedStepset_beyond (s := s.start q) hq ho hb hn h),
      fun hb h hm => exec_waits rfl hr (schedStepset_waits (s := s.start q) hq ho hb hn h hm),
      fun hb h hm hp => exec_status rfl hr (schedStepset_poison (s := s.start q) hq ho hb hn h hm hp), fun hb h hm hp =>
      ⟨fun hu => exec_status rfl hr (schedStepset_unread (s := s.start q) hq ho hb hn h hm hp hu), fun vs x hv hx => ?_⟩⟩
    have hkin := allKin_iff (imgs := setImages (s.start q) c vs)
    have hfit : setFits x (setImages (s.start q) c vs) = true ↔ x.live.guarded = false ∨
        slotFits ((setImages (s.start q) c vs).foldl (fun m i => max m i.nBeats) 0) x.live.beatLen x.live.fG x.live.periodUs = true := by
      simp [setFits]
    refine ⟨fun ha => ?_, fun ha hf => ?_, fun ha hf hfull => ?_, fun ha hf hfree => ?_⟩
    · exact exec_status rfl hr (schedStepset_disagrees (s := s.start q) hq ho hb hn h hm hp hv hx fun hc => ha ⟨hc.1, hkin.mp hc.2⟩)
    all_goals have hagree := And.intro ha.1 (hkin.mpr ha.2)
    · exact exec_status rfl hr (schedStepset_long (s := s.start q) hq ho hb hn h hm hp hv hx hagree (Bool.eq_false_iff.mpr (hfit.not.mpr hf)))
    · exact exec_status rfl hr (schedStepset_full (s := s.start q) hq ho hb hn h hm hp hv hx hagree (hfit.mpr hf) hfull)
    · obtain ⟨no, hlt, hu, hrow⟩ := schedStepset_numbers (s := s.start q) hq ho hb hn h hm hp hv hx hagree (hfit.mpr hf) hfree
      exact ⟨no, hlt, hu, exec_done rfl hr hrow⟩
  · refine exec_status rfl hr ((schedStepfree_eq (s := s.start q) hq).trans (if_pos ?_))
    rw [Option.isNone_iff_eq_none, Option.bind_eq_none_iff]
    exact h
  · have hused : ((s.start q).accepted.any (runsSet q.ring n)) = true ↔
        ∃ a ∈ (s.start q).accepted, ∃ r b, a.cmd = .schedStep r b ∧ b.image.toNat = n.toNat ∧ r.ring = q.ring := by
      simp only [List.any_eq_true, runsSet_iff]
    have hgo := (schedStepfree_eq (s := s.start q) (n := n) hq).trans (if_neg (by
      rw [show (s.start q).ptn? (ptnOf c) = some x from hx, Option.bind_some]
      simpa using h))
    exact ⟨fun hu => exec_status rfl hr (hgo.trans (if_pos (hused.mpr hu))), fun hu => exec_status rfl hr (hgo.trans (if_neg (hused.not.mpr hu)))⟩

end Sys2Proof.Machine
end

section
/-! SUPPORT. What leaves the time, the queued runs and whether a run is in progress as they were, in every partition. -/

namespace Sys2Proof.Machine

/-- What a partition has in hand: whether a run is in progress, and the runs that are queued. -/
def Partition.hand (x : Partition) : Bool × List Run := (x.run.isSome, x.queue)

/-- The state t has the time and the images of s and, in every partition, a run in progress and queued runs as s has. -/
def SameQueues (s t : State) : Prop := (t.now = s.now ∧ t.images = s.images) ∧ ∀ p, (t.ptn? p).map Partition.hand = (s.ptn? p).map Partition.hand

theorem SameQueues.refl (s : State) : SameQueues s s := ⟨⟨rfl, rfl⟩, fun _ => rfl⟩

theorem SameQueues.trans {s t u : State} (h : SameQueues s t) (k : SameQueues t u) : SameQueues s u :=
  ⟨⟨k.1.1.trans h.1.1, k.1.2.trans h.1.2⟩, fun p => (k.2 p).trans (h.2 p)⟩

theorem sameQueues_foldl {α : Type} {f : State → α → State} (h : ∀ s a, SameQueues s (f s a)) (as : List α) (s : State) :
    SameQueues s (as.foldl f s) := by
  induction as generalizing s with
  | nil => exact .refl s
  | cons a as ih => exact (h s a).trans (ih _)

theorem sameQueues_ite {s t u : State} {c : Prop} [Decidable c] (ht : SameQueues s t) (hu : SameQueues s u) :
    SameQueues s (if c then t else u) := by
  split
  · exact ht
  · exact hu

/-- What the relation says of one partition. -/
theorem SameQueues.ptn {s t : State} (h : SameQueues s t) {p : Nat} {x : Partition} (hx : s.ptn? p = some x) :
    ∃ y, t.ptn? p = some y ∧ y.run.isSome = x.run.isSome ∧ y.queue = x.queue := by
  have hp := h.2 p
  rw [hx] at hp
  obtain ⟨y, hy, e⟩ := Option.map_eq_some_iff.mp hp
  exact ⟨y, hy, congrArg Prod.fst e, congrArg Prod.snd e⟩

/-! ### The fields -/

theorem sameQueues_modPtn (s : State) (p : Nat) {f : Partition → Partition} (h : ∀ x, (f x).hand = x.hand) : SameQueues s (s.modPtn p f) := by
  refine ⟨?_, fun r => ?_⟩
  · obtain ⟨_, _, _, _, _, e⟩ := told_modPtn s p f
    rw [e]
    exact ⟨rfl, rfl⟩
  · rw [ptn?_modPtn]
    split
    next hr =>
      rw [hr]
      cases s.ptn? p with
      | none => rfl
      | some x => exact congrArg some (h x)
    · rfl

theorem sameQueues_event (s : State) (r : Ring) (code a0 a1 a2 : Nat) : SameQueues s (s.event r code a0 a1 a2) := by
  obtain ⟨_, _, e⟩ := State.event_shape s r code a0 a1 a2
  rw [e]
  exact ⟨⟨rfl, rfl⟩, fun _ => rfl⟩

theorem sameQueues_modSeq (s : State) (i : Nat) (f : Seq → Seq) : SameQueues s (s.modSeq i f) := ⟨⟨rfl, rfl⟩, fun _ => rfl⟩

theorem sameQueues_modObj (s : State) (c : CtxNo) (b : BitVec 42) (f : Obj → Obj) : SameQueues s (s.modObj c b f) := ⟨⟨rfl, rfl⟩, fun _ => rfl⟩

theorem sameQueues_modCtx (s : State) (c : CtxNo) (f : Context → Context) : SameQueues s (s.modCtx c f) := ⟨⟨rfl, rfl⟩, fun _ => rfl⟩

theorem sameQueues_count (s : State) (c : CtxNo) (i k : Nat) : SameQueues s (s.count c i k) := sameQueues_modCtx ..

theorem sameQueues_invalidate (s : State) (p space : Nat) (hit : Nat → Bool) : SameQueues s (s.invalidate p space hit) := by
  obtain ⟨ca, e⟩ := invalidate_shape s p space hit
  rw [e]
  exact ⟨⟨rfl, rfl⟩, fun _ => rfl⟩

theorem sameQueues_writeTier (s : State) (tier c off : Nat) (bs : List Byte) : SameQueues s (s.writeTier tier c off bs) := by
  obtain ⟨_, _, _, e, -, -⟩ := s.writeTier_shape tier c off bs
  rw [e]
  exact ⟨⟨rfl, rfl⟩, fun _ => rfl⟩

theorem sameQueues_zeroTier (s : State) (tier c off n : Nat) : SameQueues s (s.zeroTier tier c off n) := by
  obtain ⟨_, _, _, _, e, -⟩ := s.zeroTier_shape tier c off n
  rw [e]
  exact ⟨⟨rfl, rfl⟩, fun _ => rfl⟩

theorem sameQueues_writeObj (s : State) (o : Obj) (off : Nat) (bs : List Byte) : SameQueues s (s.writeObj o off bs) := by
  obtain ⟨_, _, _, e, -, -⟩ := s.writeObj_shape o off bs
  rw [e]
  exact ⟨⟨rfl, rfl⟩, fun _ => rfl⟩

/-! ### Pages -/

theorem sameQueues_queueRecompute (s : State) (index : Nat) : SameQueues s (s.queueRecompute index) := by
  unfold State.queueRecompute
  split
  · exact .refl s
  · refine (sameQueues_modPtn _ _ ?_).trans (sameQueues_foldl (fun st j => ?_) _ _)
    · exact fun _ => rfl
    · refine sameQueues_ite (sameQueues_modPtn _ _ ?_) (.refl st)
      exact fun _ => rfl

theorem sameQueues_loseIfGone (s : State) (index : Nat) : SameQueues s (s.loseIfGone index) := by
  unfold State.loseIfGone
  split
  · exact .refl s
  · refine sameQueues_ite (((sameQueues_modSeq ..).trans (sameQueues_modPtn _ _ ?_)).trans (sameQueues_event ..)) (.refl s)
    exact fun _ => rfl

theorem sameQueues_dropOwn (s : State) (index : Nat) (nos : List Nat) : SameQueues s (s.dropOwn index nos) := by
  unfold State.dropOwn
  split
  · exact .refl s
  · exact sameQueues_ite (.refl s) (((((sameQueues_modSeq ..).trans (sameQueues_invalidate ..)).trans (sameQueues_count ..)).trans
      (sameQueues_event ..)).trans ((sameQueues_queueRecompute ..).trans (sameQueues_loseIfGone ..)))

theorem sameQueues_quotaClear (s : State) (p : Nat) : SameQueues s (s.quotaClear p) := by
  unfold State.quotaClear
  split
  · exact .refl s
  · dsimp only
    refine SameQueues.trans ?_ (sameQueues_foldl (fun st c => ?_) _ _)
    · split
      · refine ((sameQueues_modPtn _ _ ?_).trans (sameQueues_modPtn _ _ ?_)).trans (sameQueues_event ..) <;> exact fun _ => rfl
      · exact sameQueues_modPtn _ _ fun _ => rfl
    · exact sameQueues_ite ((sameQueues_modCtx ..).trans (sameQueues_event ..)) (.refl st)

theorem sameQueues_dropPages (s : State) (index : Nat) (nos : List Nat) : SameQueues s (s.dropPages index nos) := by
  unfold State.dropPages
  split
  · exact .refl s
  · dsimp only
    refine SameQueues.trans ?_ (sameQueues_quotaClear ..)
    have hothers (ys : List Seq) (hit : Page → Bool) := (sameQueues_dropOwn s index nos).trans
      (sameQueues_foldl (fun st (y : Seq) => sameQueues_dropOwn st y.index ((y.pages.filter hit).map (·.no))) ys _)
    split
    · exact hothers ..
    · exact (hothers ..).trans ⟨⟨rfl, rfl⟩, fun _ => rfl⟩

theorem sameQueues_pagePoisoned (s : State) (cluster unit : Nat) : SameQueues s (s.pagePoisoned cluster unit) := by
  unfold State.pagePoisoned
  dsimp only
  refine SameQueues.trans (SameQueues.trans (SameQueues.trans ?_ ⟨⟨rfl, rfl⟩, fun _ => rfl⟩)
    (sameQueues_foldl (fun st (x : Seq) => sameQueues_loseIfGone st x.index) _ _)) (sameQueues_foldl sameQueues_quotaClear _ _)
  exact sameQueues_foldl (fun st (x : Seq) => sameQueues_dropPages st x.index _) _ s

theorem sameQueues_dropHeld (s : State) (p : Nat) : SameQueues s (s.dropHeld p) := by
  unfold State.dropHeld
  split
  · exact .refl s
  · refine sameQueues_foldl (fun st (x : Nat × Nat × Nat) => SameQueues.trans
      (t := { st with poisonReports := st.poisonReports.filter fun y => y != x.1 }) ?_ (sameQueues_pagePoisoned ..)) _ s
    exact ⟨⟨rfl, rfl⟩, fun _ => rfl⟩

theorem sameQueues_moveTile (s : State) (c : CtxNo) (base : BitVec 42) (i : Nat) (dest : Place) : SameQueues s (s.moveTile c base i dest) := by
  unfold State.moveTile
  split
  · exact .refl s
  · split
    · exact .refl s
    · have hmoved (from_ to_ n k : Nat) (bs : List Byte) (f : Obj → Obj) (hit : Nat → Bool) : SameQueues s
          ((((((s.writeTier dest.tier dest.cluster (dest.unit * unitBytes) bs).movePoison from_ to_ n).modObj c base f).invalidate
            (ptnOf c) (objSpace c) hit)).count c 31 k) := by
        refine .trans (.trans ?_ (sameQueues_invalidate ..)) (sameQueues_count ..)
        exact (sameQueues_writeTier s dest.tier dest.cluster (dest.unit * unitBytes) bs).trans ⟨⟨rfl, rfl⟩, fun _ => rfl⟩
      exact sameQueues_ite ((hmoved ..).trans (sameQueues_zeroTier ..)) (hmoved ..)

theorem sameQueues_switchMigrations (s : State) (p : Nat) : SameQueues s (s.switchMigrations p) := by
  refine sameQueues_ite (.refl s) ?_
  have hmove := sameQueues_foldl (f := fun (st : State) (m : Migration) =>
      { st.moveTile m.ctx m.base m.tile m.dest with migrations := st.migrations.filter fun y => y != m })
    (fun st m => (sameQueues_moveTile st m.ctx m.base m.tile m.dest).trans ⟨⟨rfl, rfl⟩, fun _ => rfl⟩)
    (s.migrations.filter fun m => ptnOf m.ctx == p) s
  exact sameQueues_ite hmove (hmove.trans (sameQueues_quotaClear ..))

theorem sameQueues_setIslands (s : State) (is : List Nat) : SameQueues s (s.setIslands is) := ⟨⟨rfl, rfl⟩, fun _ => rfl⟩

theorem sameQueues_setClocks (s : State) : SameQueues s s.setClocks := by
  refine SameQueues.trans (sameQueues_setIslands ..) (sameQueues_foldl (fun st p => ?_) _ _)
  exact sameQueues_modPtn _ _ fun _ => rfl

end Sys2Proof.Machine
end

section
/-! SUPPORT and the settlement of O51: the beat ring (05 R119 to R128, 10 R258 to R264, 13 R341 to R343). -/

namespace Sys2Proof.Machine

/-! ### The collect token and the release -/

section
variable {s : State}

theorem memberCollect_ptn {c : Fin 8} {m : Fin 15} {p : Nat} {x : Partition} (hp : s.ptnOfCluster c.val = some p) (hx : s.ptn? p = some x) :
    memberCollectEffect c m s = if !s.ringRuns p || x.beat.closed || x.beat.collected.contains (c.val, m.val) then s
      else if s.memberDone p x c.val m.val then (s.flushTile c.val m.val).modPtn p fun y =>
        { y with beat := { y.beat with collected := y.beat.collected ++ [(c.val, m.val)] } }
      else s := by
  rw [memberCollectEffect, hp]
  dsimp only
  rw [hx]

theorem memberCollect_stays {c : Fin 8} {m : Fin 15} (h : ∀ p x, s.ptnOfCluster c.val = some p → s.ptn? p = some x →
    s.ringRuns p = false ∨ x.beat.closed = true ∨ (c.val, m.val) ∈ x.beat.collected ∨ s.memberDone p x c.val m.val = false) :
    memberCollectEffect c m s = s := by
  cases hp : s.ptnOfCluster c.val with
  | none => rw [memberCollectEffect, hp]
  | some p =>
    cases hx : s.ptn? p with
    | none =>
      rw [memberCollectEffect, hp]
      dsimp only
      rw [hx]
    | some x =>
      rw [memberCollect_ptn hp hx]
      rcases h p x hp hx with h | h | h | h
      · exact if_pos (by simp [h])
      · exact if_pos (by simp [h])
      · exact if_pos (by simp [h])
      · exact ite_eq_left_iff.mpr fun _ => if_neg (by simp [h])

theorem memberCollect_passes {c : Fin 8} {m : Fin 15} {p : Nat} {x : Partition} (hp : s.ptnOfCluster c.val = some p)
    (hx : s.ptn? p = some x) (h1 : s.ringRuns p = true) (h2 : x.beat.closed = false) (h3 : (c.val, m.val) ∉ x.beat.collected)
    (h4 : s.memberDone p x c.val m.val = true) : memberCollectEffect c m s = (s.flushTile c.val m.val).modPtn p fun y =>
      { y with beat := { y.beat with collected := y.beat.collected ++ [(c.val, m.val)] } } :=
  (memberCollect_ptn hp hx).trans ((if_neg (by simp [h1, h2, h3])).trans (if_pos h4))

/-- Whether a member of a lockstep group has reported its beat done. -/
def doneReported (s : State) (p : Nat) : Bool := ((s.lockstep p).map (·.doneSent)).getD false

theorem doneReported_iff {p : Nat} : doneReported s p = true ↔ ∃ g, s.lockstep p = some g ∧ g.doneSent = true := by
  unfold doneReported
  cases s.lockstep p <;> simp

/-- Whether a beat may close: every member has collected, and its cycles have passed (05 R120). -/
def beatDue (s : State) (x : Partition) (ns : Nat) : Bool := x.collectedAll && s.beatCycles x * 160 < (ns + 1) * x.fMin

theorem beatDue_iff {x : Partition} {ns : Nat} :
    beatDue s x ns = true ↔ x.collectedAll = true ∧ s.beatCycles x * 160 < (ns + 1) * x.fMin := by
  simp [beatDue]

/-- The partition with its beat closed and what the boundary brings applied. -/
def atBoundary (s : State) (p : Nat) (x : Partition) (ns : Nat) : State :=
  let u := if x.beat.closed then s else s.closeBeat p ns
  (if (u.lockstep p).isSome then u else u.applyBoundary p).planBoundary p

variable {p : Fin 8} {ns : BitVec 32} {x : Partition}

theorem beatRelease_noPtn (h : s.ptn? p.val = none) : beatReleaseEffect p ns s = s := by
  rw [beatReleaseEffect, h]

theorem beatRelease_stays (hx : s.ptn? p.val = some x) (h : s.ringRuns p.val = false ∨ doneReported s p.val = true ∨
    (x.beat.closed = false ∧ beatDue s x ns.toNat = false)) : beatReleaseEffect p ns s = s := by
  rw [beatReleaseEffect, hx]
  unfold doneReported beatDue at h
  refine if_pos ?_
  rcases h with h | h | ⟨h1, h2⟩
  · simp [h]
  · simp only [h, Bool.or_true, Bool.true_or]
  · simp only [h1, h2, Bool.or_self, Bool.not_false, Bool.or_true]

section
variable (hx : s.ptn? p.val = some x) (h1 : s.ringRuns p.val = true) (h2 : doneReported s p.val = false)
  (h3 : x.beat.closed = true ∨ beatDue s x ns.toNat = true)
include hx h1 h2 h3

theorem beatRelease_goes : ¬ (!s.ringRuns p.val || doneReported s p.val || !(x.beat.closed || beatDue s x ns.toNat)) = true := by
  rcases h3 with h | h <;> simp [h1, h2, h]

theorem beatRelease_alone (h : (atBoundary s p.val x ns.toNat).lockstep p.val = none) : beatReleaseEffect p ns s =
    if (((atBoundary s p.val x ns.toNat).ptn? p.val).map (·.held)).getD false then (atBoundary s p.val x ns.toNat).markHeld p.val
    else (atBoundary s p.val x ns.toNat).openBeat p.val false := by
  have hgo := beatRelease_goes hx h1 h2 h3
  unfold doneReported beatDue at hgo
  unfold atBoundary at h ⊢
  rw [beatReleaseEffect, hx]
  refine (if_neg hgo).trans ?_
  dsimp only at h ⊢
  rw [h]

theorem beatRelease_group {g : Group} (h : (atBoundary s p.val x ns.toNat).lockstep p.val = some g) : beatReleaseEffect p ns s =
    if (((atBoundary s p.val x ns.toNat).ptn? p.val).map (·.held)).getD false then
      ((atBoundary s p.val x ns.toNat).markHeld p.val).reportHeld p.val g
    else (atBoundary s p.val x ns.toNat).reportDone p.val g := by
  have hgo := beatRelease_goes hx h1 h2 h3
  unfold doneReported beatDue at hgo
  unfold atBoundary at h ⊢
  rw [beatReleaseEffect, hx]
  refine (if_neg hgo).trans ?_
  dsimp only at h ⊢
  rw [h]

end

end

/-! ### Boundaries and the next beat -/

theorem applyBoundary_once {s : State} {p : Nat} {x : Partition} (hx : s.ptn? p = some x) (h : x.beat.closed = false ∨ x.beat.applied = true) :
    s.applyBoundary p = s := by
  rw [State.applyBoundary, hx]
  exact if_pos (by rcases h with h | h <;> simp [h])

/-- The beat as it opens. -/
def BeatRing.opened (b : BeatRing) (now : Nat) : BeatRing :=
  { b with since := now, closed := false, applied := false, collected := [], slip := none, paused := 0 }

/-- What the opening of a beat changes: the migrations that switch, the clocks, and the partition. -/
theorem openBeat_shape {s : State} {p : Nat} {x : Partition} (hx : (s.switchMigrations p).ptn? p = some x) (idle : Bool) :
    ∃ (po : _) (is : List Nat) (f : Partition → Partition), s.openBeat p idle =
      (((((s.switchMigrations p).modPtn p fun y => { y with power := po }).setClocks).setIslands is).modPtn p f) ∧
      ∀ z, (f z).beat = z.beat.opened ((((s.switchMigrations p).modPtn p fun y => { y with power := po }).setClocks).setIslands is).now := by
  unfold State.openBeat
  dsimp only
  rw [hx]
  exact ⟨_, _, _, rfl, fun _ => rfl⟩

/-- The beat that opens: new from its time on (05 R119). -/
theorem openBeat_opens {s : State} {p : Nat} {x : Partition} (hx : s.ptn? p = some x) (idle : Bool) :
    ∃ y, (s.openBeat p idle).ptn? p = some y ∧ y.beat.closed = false ∧ y.beat.applied = false ∧ y.beat.since = s.now ∧
      y.beat.collected = [] ∧ y.beat.slip = none := by
  have hswitch := sameQueues_switchMigrations s p
  obtain ⟨x', hx', -⟩ := hswitch.ptn hx
  obtain ⟨po, is, f, he, hf⟩ := openBeat_shape hx' idle
  have hclocks : SameQueues s ((((s.switchMigrations p).modPtn p fun y => { y with power := po }).setClocks).setIslands is) := by
    refine .trans (.trans (hswitch.trans ?_) (sameQueues_setClocks _)) (sameQueues_setIslands ..)
    exact sameQueues_modPtn _ p fun _ => rfl
  obtain ⟨z, hz, -⟩ := hclocks.ptn hx
  have hb := hf z
  rw [hclocks.1.1] at hb
  refine ⟨f z, by rw [he, ptn?_modPtn, if_pos rfl, hz, Option.map_some], ?_⟩
  rw [hb]
  exact ⟨rfl, rfl, rfl, rfl, rfl⟩

/-! ### Slips -/

section
variable {s : State} {p : Fin 8} {x : Partition} {r : Run}

/-- The first member of a partition that has not collected. -/
def Partition.lateMember (x : Partition) : Option (Nat × Nat) := x.members.find? fun m => !x.beat.collected.contains m

/-- Whether a slip is not to be noted: the beat is over, or has slipped, or the group waits, or the period has not passed (05
R127). -/
def slipIdle (s : State) (p : Nat) (x : Partition) : Bool :=
  x.beat.closed || x.beat.slip.isSome || s.groupWaits p || !s.elapsed x 1 || !s.ringRuns p

theorem slip_late {c m : Nat} (hx : s.ptn? p.val = some x) (hr : x.openRun = some r) (hl : x.lateMember = some (c, m)) :
    slipEffect p s = if slipIdle s p.val x then s else
      (s.modRun p.val fun z => { z with slipped := true, faulted := true }).modPtn p.val fun y =>
        { y with beat := { y.beat with slip := some s.now, late := (m + 16 * (c - x.low), s.recordOf p.val x r c m) } } := by
  unfold Partition.lateMember at hl
  rw [slipEffect, hx]
  dsimp only
  rw [hr, hl]
  rfl

theorem slip_stays (h : ∀ x r cm, s.ptn? p.val = some x → x.openRun = some r → x.lateMember = some cm → slipIdle s p.val x = true) :
    slipEffect p s = s := by
  cases hx : s.ptn? p.val with
  | none => rw [slipEffect, hx]
  | some x =>
    cases hr : x.openRun with
    | none =>
      rw [slipEffect, hx]
      dsimp only
      rw [hr]
    | some r =>
      cases hl : x.lateMember with
      | none =>
        unfold Partition.lateMember at hl
        rw [slipEffect, hx]
        dsimp only
        rw [hr, hl]
      | some cm => exact (slip_late hx hr hl).trans (if_pos (h x r cm hx hr hl))

theorem slipIdle_iff {q : Nat} : slipIdle s q x = true ↔ x.beat.closed = true ∨ x.beat.slip ≠ none ∨ s.groupWaits q = true ∨
    s.elapsed x 1 = false ∨ s.ringRuns q = false := by
  simp [slipIdle, Option.isSome_iff_ne_none, or_assoc]

/-- Whether a member of the partition has slipped in its open beat (05 R127). -/
def hasSlipped (s : State) (p : Nat) (x : Partition) : Bool :=
  x.beat.slip.isSome && !x.beat.closed && !x.collectedAll && !s.groupWaits p

/-- Whether a member that has reported done waits for a group in which none is held (13 R342). -/
def awaitsGroup (s : State) (p : Nat) : Bool := (s.lockstep p).any fun g => g.doneSent && g.helds.isEmpty

/-- The run that a slip at its ceiling would abandon. -/
def slipRun (s : State) (p : Nat) (x : Partition) : Option Run :=
  if awaitsGroup s p then x.run.filter fun r => r.released && !r.stopped else x.openRun

theorem hasSlipped_iff {q : Nat} : hasSlipped s q x = true ↔
    x.beat.slip ≠ none ∧ x.beat.closed = false ∧ x.collectedAll = false ∧ s.groupWaits q = false := by
  simp [hasSlipped, Option.isSome_iff_ne_none, and_assoc]

theorem awaitsGroup_iff {q : Nat} : awaitsGroup s q = true ↔ ∃ g, s.lockstep q = some g ∧ g.doneSent = true ∧ g.helds = [] := by
  unfold awaitsGroup
  cases s.lockstep q <;> simp

theorem slipRun_iff {q : Nat} : slipRun s q x = some r ↔
    (awaitsGroup s q = true → x.run = some r ∧ r.released = true ∧ r.stopped = false) ∧ (¬ awaitsGroup s q = true → x.openRun = some r) := by
  unfold slipRun
  split
  next h => simp [h, Option.filter_eq_some_iff]
  next h => simp [h]

theorem slipAbandon_run (hx : s.ptn? p.val = some x) (hr : slipRun s p.val x = some r) : slipAbandonEffect p s =
    if !(hasSlipped s p.val x || awaitsGroup s p.val) || !s.elapsed x x.live.slipCeiling || !s.ringRuns p.val then s
    else match s.lockstep p.val with
      | some g => ((g.others.foldl (fun st m => st.sendControl p.val m.1 m.2 .abort) s).clearDones p.val).abandon p.val x r
          (if hasSlipped s p.val x then none else some g.index)
      | none => s.abandon p.val x r none := by
  unfold slipRun awaitsGroup at hr
  rw [slipAbandonEffect, hx]
  dsimp only
  rw [hr]
  rfl

theorem slipAbandon_stays (h : ∀ x r, s.ptn? p.val = some x → slipRun s p.val x = some r →
    (hasSlipped s p.val x = false ∧ awaitsGroup s p.val = false) ∨ s.elapsed x x.live.slipCeiling = false ∨ s.ringRuns p.val = false) :
    slipAbandonEffect p s = s := by
  cases hx : s.ptn? p.val with
  | none => rw [slipAbandonEffect, hx]
  | some x =>
    cases hr : slipRun s p.val x with
    | none =>
      unfold slipRun awaitsGroup at hr
      rw [slipAbandonEffect, hx]
      dsimp only
      rw [hr]
    | some r =>
      refine (slipAbandon_run hx hr).trans (if_pos ?_)
      rcases h x r hx hr with ⟨h1, h2⟩ | h | h
      · simp [h1, h2]
      · simp [h]
      · simp [h]

theorem slipAbandon_goes (h1 : hasSlipped s p.val x = true ∨ awaitsGroup s p.val = true) (h2 : s.elapsed x x.live.slipCeiling = true)
    (h3 : s.ringRuns p.val = true) :
    ¬ (!(hasSlipped s p.val x || awaitsGroup s p.val) || !s.elapsed x x.live.slipCeiling || !s.ringRuns p.val) = true := by
  rcases h1 with h1 | h1 <;> simp [h1, h2, h3]

end

/-! ### Slots -/

section
variable {s : State} {p : Fin 8} {x : Partition}

/-- The queued runs that a partition's reservation is for (10 R260). -/
def reservedRuns (x : Partition) : List Run := x.queue.filter fun r => x.reserves r.ctx r.isStep

/-- A slot falls due: at its time in a reset, and else as a beat opens (10 R260). -/
def SlotFalls (s : State) (x : Partition) : Prop :=
  if x.status == .resetting then x.slotTime x.slotNo ≤ s.now
  else (!x.beat.closed && x.beat.since == s.now && x.slotTime x.slotNo ≤ s.now) = true

theorem slotFalls_resetting (h : x.status = .resetting) : SlotFalls s x ↔ x.slotTime x.slotNo ≤ s.now := by
  simp [SlotFalls, h]

theorem slotFalls_opening (h : x.status ≠ .resetting) :
    SlotFalls s x ↔ (x.beat.closed = false ∧ x.beat.since = s.now) ∧ x.slotTime x.slotNo ≤ s.now := by
  simp [SlotFalls, h]

/-- A run with the slot given that goes to the oldest reserved run that has none. -/
def giveSlot (x : Partition) (now : Nat) (r : Run) : Run :=
  match (reservedRuns x).find? fun y => y.reserved.isNone with
  | some y => if r.q = y.q then { r with reserved := some (x.slotNo, now) } else r
  | none => r

/-- The partition past its slot. -/
def slotPast (x : Partition) (now : Nat) (resetting : Bool) (y : Partition) : Partition :=
  { y with slotNo := y.slotNo + 1, slots := y.slots + 1, queue := if resetting then y.queue else y.queue.map (giveSlot x now) }

theorem slotDue_stays (hx : s.ptn? p.val = some x) (h : x.live.guarded = false ∨ ¬ SlotFalls s x ∨ x.status = .outOfService) :
    slotDueEffect p s = s := by
  rw [slotDueEffect, hx]
  refine if_pos ?_
  simp only [Bool.or_eq_true, Bool.not_eq_true', decide_eq_false_iff_not, beq_iff_eq]
  rcases h with h | h | h
  · exact .inl (.inl h)
  · exact .inl (.inr (by simpa [SlotFalls] using h))
  · exact .inr h

theorem slotDue_falls (hx : s.ptn? p.val = some x) (h1 : x.live.guarded = true) (h2 : SlotFalls s x) (h3 : x.status ≠ .outOfService) :
    slotDueEffect p s =
      if x.status == .resetting then (s.modPtn p.val (slotPast x s.now (x.status == .resetting))).breach p.val 5 0
      else if (reservedRuns x).isEmpty then (s.modPtn p.val (slotPast x s.now (x.status == .resetting))).breach p.val 6 0
      else s.modPtn p.val (slotPast x s.now (x.status == .resetting)) := by
  rw [slotDueEffect, hx]
  refine if_neg ?_
  simp only [Bool.or_eq_true, Bool.not_eq_true', decide_eq_false_iff_not, beq_iff_eq, not_or]
  exact ⟨⟨by simp [h1], not_not_intro (by simpa [SlotFalls] using h2)⟩, h3⟩

theorem slotPast_none (now : Nat) (h : (reservedRuns x).find? (fun y => y.reserved.isNone) = none) :
    slotPast x now false = fun y => { y with slotNo := y.slotNo + 1, slots := y.slots + 1 } := by
  have hgive : giveSlot x now = id := by
    funext r
    rw [giveSlot, h]
    rfl
  funext y
  unfold slotPast
  rw [hgive, List.map_id]
  rfl

theorem slotPast_some (now : Nat) {r : Run} (h : (reservedRuns x).find? (fun y => y.reserved.isNone) = some r) :
    slotPast x now false = fun y => { y with slotNo := y.slotNo + 1, slots := y.slots + 1, queue := y.queue.map fun y =>
      if y.q = r.q then { y with reserved := some (x.slotNo, now) } else y } := by
  have hgive : giveSlot x now = fun y => if y.q = r.q then { y with reserved := some (x.slotNo, now) } else y := by
    funext y
    rw [giveSlot, h]
  funext y
  unfold slotPast
  rw [hgive]
  rfl

end

/-- Settles O51, from the rows of the collect token, the release, the slips and the slots, and the beat that opens. -/
theorem beatRing : Obligations.BeatRing := by
  unfold Obligations.BeatRing
  refine ⟨fun s c m => ⟨fun h => exec_effect rfl (memberCollect_stays h), fun p x hp hx h1 h2 h3 h4 =>
      exec_effect rfl (memberCollect_passes hp hx h1 h2 h3 h4)⟩, fun s p ns => ⟨fun h => ?_, fun x hx h1 h2 h3 => ?_⟩,
    fun s p x hx => ⟨applyBoundary_once hx, openBeat_opens hx⟩, fun s p => ⟨fun h => ?_, fun x r c m hx hr hl h1 h2 h3 h4 h5 => ?_⟩,
    fun s p => ⟨fun h => ?_, fun x r hx hm h1 h2 h3 => ?_⟩, fun s p => ⟨fun h => ?_, fun x hx => ⟨fun h => ?_, fun h1 h2 h3 => ?_,
      fun h1 h2 h3 h4 => ?_⟩⟩⟩
  · cases hx : s.ptn? p.val with
    | none => exact exec_effect rfl (beatRelease_noPtn hx)
    | some x =>
      refine exec_effect rfl (beatRelease_stays hx ((h x hx).imp_right fun h => h.imp doneReported_iff.mpr fun ⟨h1, h2⟩ => ⟨h1, ?_⟩))
      exact Bool.eq_false_iff.mpr fun hd => h2 (beatDue_iff.mp hd)
  · have hsent : doneReported s p.val = false := Bool.eq_false_iff.mpr fun hd => h2 (doneReported_iff.mp hd)
    have hdue := h3.imp_right (beatDue_iff (s := s) (x := x) (ns := ns.toNat)).mpr
    exact ⟨fun hl => exec_effect rfl (beatRelease_alone hx h1 hsent hdue hl), fun g hl => exec_effect rfl (beatRelease_group hx h1 hsent hdue hl)⟩
  · exact exec_effect rfl (slip_stays fun x r cm hx hr hl => slipIdle_iff.mpr (h x r cm hx hr hl))
  · refine exec_effect rfl ((slip_late hx hr hl).trans (if_neg fun hi => ?_))
    rcases slipIdle_iff.mp hi with h | h | h | h | h
    · simp [h1] at h
    · exact h h2
    · simp [h3] at h
    · simp [h4] at h
    · simp [h5] at h
  · refine exec_effect rfl (slipAbandon_stays fun x r hx hr => ?_)
    have hmine := slipRun_iff.mp hr
    rw [awaitsGroup_iff] at hmine
    refine (h x r hx hmine).imp_left fun ⟨h1, h2⟩ => ⟨?_, ?_⟩
    · exact Bool.eq_false_iff.mpr (hasSlipped_iff.not.mpr h1)
    · exact Bool.eq_false_iff.mpr (awaitsGroup_iff.not.mpr h2)
  · have hr : slipRun s p.val x = some r := by
      rw [slipRun_iff, awaitsGroup_iff]
      exact hm
    have hrow := (slipAbandon_run hx hr).trans (if_neg (slipAbandon_goes (h1.imp hasSlipped_iff.mpr awaitsGroup_iff.mpr) h2 h3))
    refine ⟨fun hg => exec_effect rfl (hrow.trans (by rw [hg])), fun g hg => ⟨fun hl => exec_effect rfl (hrow.trans ?_), fun hl =>
      exec_effect rfl (hrow.trans ?_)⟩⟩
    · rw [hg]
      dsimp only
      rw [if_pos (hasSlipped_iff.mpr hl)]
    · rw [hg]
      dsimp only
      rw [if_neg (hasSlipped_iff.not.mpr hl)]
  · refine exec_effect rfl ?_
    rw [slotDueEffect, h]
  · refine exec_effect rfl (slotDue_stays hx ?_)
    rcases h with h | h | h | ⟨h1, h2⟩
    · exact .inl h
    · exact .inr (.inr h)
    · refine .inr (.inl ?_)
      by_cases hs : x.status = .resetting
      · rw [slotFalls_resetting hs]
        omega
      · rw [slotFalls_opening hs]
        exact fun h' => absurd h'.2 (by omega)
    · refine .inr (.inl ?_)
      rw [slotFalls_opening (by rw [h1]; decide)]
      exact fun h' => h2 h'.1
  · refine exec_effect rfl ((slotDue_falls hx h1 ((slotFalls_resetting h3).mpr h2) (by rw [h3]; decide)).trans ((if_pos (by simp [h3])).trans ?_))
    rw [h3]
    rfl
  · have hs : x.status ≠ .resetting := by rw [h3]; decide
    have hrow := slotDue_falls hx h1 ((slotFalls_opening hs).mpr ⟨h4, h2⟩) (by rw [h3]; decide)
    have hstatus : (x.status == .resetting) = false := by simpa using hs
    rw [hstatus, if_neg (by decide)] at hrow
    refine ⟨fun hm => exec_effect rfl (hrow.trans ?_), fun hm hall => exec_effect rfl (hrow.trans ?_), fun r hf => exec_effect rfl (hrow.trans ?_)⟩
    · have hm' : reservedRuns x = [] := hm
      rw [if_pos (by rw [hm']; rfl), slotPast_none _ (by rw [hm']; rfl)]
    · have hm' : ¬ (reservedRuns x).isEmpty = true := fun he => hm (List.isEmpty_iff.mp he)
      rw [if_neg hm', slotPast_none]
      exact List.find?_eq_none.mpr fun r hr => by simpa using hall r hr
    · have hmem : r ∈ reservedRuns x := List.mem_of_find?_eq_some hf
      rw [if_neg (fun he => by rw [List.isEmpty_iff.mp he] at hmem; exact absurd hmem (by simp)), slotPast_some _ hf]

end Sys2Proof.Machine
end

section
/-! SUPPORT and the settlement of O52: the runs of a partition (05 R135, 10 R246 to R260, 12 R307, 13 R340, 15 R388, 16 R411). -/

namespace Sys2Proof.Machine

/-! ### What the verification of a run leaves -/

theorem sameQueues_eventHosts (s : State) (code a0 a1 a2 : Nat) : SameQueues s (s.eventHosts code a0 a1 a2) :=
  sameQueues_foldl (fun st _ => sameQueues_ite (sameQueues_event ..) (.refl st)) _ s

theorem sameQueues_report (s : State) (code a0 a1 a2 : Nat) : SameQueues s (s.report code a0 a1 a2) :=
  sameQueues_ite (.refl s) (sameQueues_ite ⟨⟨rfl, rfl⟩, fun _ => rfl⟩ ⟨⟨rfl, rfl⟩, fun _ => rfl⟩)

theorem sameQueues_stopRun (s : State) (p : Nat) : SameQueues s (s.stopRun p) :=
  sameQueues_modPtn _ _ fun x => by
    unfold Partition.hand
    cases x.run <;> rfl

theorem sameQueues_copyRecord (s : State) (p : Nat) : SameQueues s (s.copyRecord p) := by
  unfold State.copyRecord
  split
  · exact sameQueues_modPtn _ _ fun _ => rfl
  · exact .refl s

theorem sameQueues_becalmPtn (now : Nat) (number : BitVec 16) (s : State) (p : Nat) : SameQueues s (becalmPtn now number s p) := by
  unfold becalmPtn
  split
  · exact .refl s
  · refine sameQueues_ite (.refl s) (((sameQueues_stopRun ..).trans (sameQueues_copyRecord ..)).trans (sameQueues_modPtn _ _ ?_))
    exact fun _ => rfl

theorem sameQueues_portsDown (s : State) : SameQueues s s.portsDown := ⟨⟨rfl, rfl⟩, fun _ => rfl⟩

theorem sameQueues_becalm (s : State) (cause : Nat) : SameQueues s (s.becalm cause) := by
  cases h : s.flt.becalmed with
  | true =>
    rw [State.becalm, if_pos h]
    exact .refl s
  | false =>
    rw [becalm_eq h]
    have hstart : SameQueues s (becalmed s cause) := ⟨⟨rfl, rfl⟩, fun _ => rfl⟩
    exact ((hstart.trans (sameQueues_foldl (sameQueues_becalmPtn _ _) _ _)).trans (sameQueues_portsDown _)).trans
      ((sameQueues_eventHosts ..).trans (sameQueues_report ..))

theorem sameQueues_goOut (s : State) (p : Nat) (number : BitVec 16) (c : Option CtxNo) : SameQueues s (s.goOut p number c) := by
  have hout (f : Partition → Partition) (hf : ∀ x, (f x).hand = x.hand) (ot : List Nat) :
      SameQueues s ((({ s with flt := { s.flt with outTimes := ot } } : State).stopRun p).modPtn p f) := by
    refine .trans (.trans ?_ (sameQueues_stopRun ..)) (sameQueues_modPtn _ _ hf)
    exact ⟨⟨rfl, rfl⟩, fun _ => rfl⟩
  refine sameQueues_ite ((hout _ ?_ _).trans (sameQueues_becalm ..)) (hout _ ?_ _) <;> exact fun _ => rfl

theorem sameQueues_startPtnReset (s : State) (p : Nat) (number : BitVec 16) (c : Option CtxNo) : SameQueues s (s.startPtnReset p number c) := by
  unfold State.startPtnReset
  split
  · exact .refl s
  · refine sameQueues_ite (.refl s) (sameQueues_ite (sameQueues_goOut ..) ((sameQueues_stopRun ..).trans (sameQueues_modPtn _ _ ?_)))
    exact fun _ => rfl

theorem sameQueues_startCtxReset (s : State) (c : CtxNo) (number : BitVec 16) : SameQueues s (s.startCtxReset c number) := by
  unfold State.startCtxReset
  dsimp only
  split
  next x y _ _ =>
    have hstop : SameQueues s (match x.run with
        | some r => if r.ctx = c then s.stopRun (ptnOf c) else s
        | none => s) := by
      split
      · exact sameQueues_ite (sameQueues_stopRun ..) (.refl s)
      · exact .refl s
    refine sameQueues_ite (.refl s) (sameQueues_ite (sameQueues_startPtnReset ..) (sameQueues_ite (sameQueues_startPtnReset ..)
      ((hstop.trans (sameQueues_modCtx ..)).trans (sameQueues_modPtn _ _ ?_))))
    exact fun _ => rfl
  · exact .refl s

theorem sameQueues_takeRecord (s : State) (f : FaultInfo) : SameQueues s (s.takeRecord f).1 := by
  unfold State.takeRecord
  dsimp only
  split
  · split
    · exact .refl s
    · split
      · refine sameQueues_ite ?_ (.trans ?_ (sameQueues_event ..))
        all_goals
          refine .trans ?_ (sameQueues_event ..)
          exact sameQueues_modPtn _ _ fun _ => rfl
      · refine .trans ?_ (sameQueues_event ..)
        exact sameQueues_modPtn _ _ fun _ => rfl
  · exact SameQueues.trans ⟨⟨rfl, rfl⟩, fun _ => rfl⟩ (sameQueues_eventHosts ..)

/-- A fault whose response is the reset of its context leaves the queues (16 Table FLT.1). -/
theorem raiseFault_ctx {s : State} {f : FaultInfo} {c : CtxNo} (hc : f.ctx = some c)
    (hk : f.kind ≠ 0x0B ∧ f.kind ≠ 0x0C ∧ f.kind ≠ 0x05 ∧ f.kind ≠ 0x09 ∧ f.kind ≠ 0x0A) :
    s.raiseFault f = (s.takeRecord f).1.startCtxReset c (s.takeRecord f).2 := by
  obtain ⟨h1, h2, h3, h4, h5⟩ := hk
  unfold State.raiseFault
  dsimp only
  rw [if_neg h1, if_neg h2, if_neg (by simp [h3, h4, h5]), hc]

theorem sameQueues_nodeFault (s : State) (o : Obj) : SameQueues s (s.nodeFault o) := by
  unfold State.nodeFault
  split
  · dsimp only
    rw [raiseFault_ctx rfl (by dsimp only; decide)]
    exact (sameQueues_takeRecord ..).trans (sameQueues_startCtxReset ..)
  · exact .refl s

theorem sameQueues_commitDrafts (s : State) (x : Seq) (a : Nat) : SameQueues s (s.commitDrafts x a) :=
  sameQueues_ite ((sameQueues_modSeq ..).trans (sameQueues_queueRecompute ..)) (sameQueues_modSeq ..)

theorem sameQueues_putLogs (x : Seq) (vs : List Nat) (s : State) (t : Nat) : SameQueues s (s.putLogs x t vs) := by
  induction vs generalizing s t with
  | nil => exact .refl s
  | cons v vs ih =>
    refine SameQueues.trans ?_ (ih _ _)
    unfold State.putLog
    split
    · exact sameQueues_writeTier ..
    · exact .refl s

theorem sameQueues_rollback (s : State) (x : Seq) : SameQueues s (s.rollback x) :=
  ((sameQueues_putLogs ..).trans (sameQueues_invalidate ..)).trans (sameQueues_modSeq ..)

theorem sameQueues_verifySlot (s : State) (o : Obj) (sl : Slot) : SameQueues s (s.verifySlot o sl) := by
  unfold State.verifySlot
  split
  · exact .refl s
  next x _ =>
    have hback (t : State) (ht : SameQueues s t) : SameQueues s (match t.seq? sl.seq with
        | some y => t.rollback y
        | none => t) := by
      split
      · exact ht.trans (sameQueues_rollback ..)
      · exact ht
    have hdone (a : Nat) := hback _ (sameQueues_commitDrafts s x a)
    exact sameQueues_ite ((hdone _).trans (sameQueues_nodeFault ..)) (sameQueues_ite (hdone _) ((hdone _).trans (sameQueues_writeObj ..)))

theorem sameQueues_verifyRun (s : State) (r : Run) : SameQueues s (s.verifyRun r) := by
  refine sameQueues_ite (.refl s) ?_
  split
  · exact .refl s
  · exact sameQueues_foldl (fun st sl => sameQueues_verifySlot ..) _ s

theorem sameQueues_stampRun (s : State) (p : Nat) (r : Run) : SameQueues s (s.stampRun p r) := by
  refine sameQueues_ite (.refl s) (SameQueues.trans (sameQueues_foldl (fun st sl => ?_) _ _)
    (sameQueues_foldl (fun st b => sameQueues_modObj ..) _ _))
  split
  · exact sameQueues_modSeq ..
  · exact .refl st

theorem sameQueues_takeWatch (s : State) (c : CtxNo) (i : Nat) (a : WatchArgs) (tag : Nat) : SameQueues s (s.takeWatch c i a tag) := by
  unfold State.takeWatch
  dsimp only
  split
  · exact sameQueues_modCtx ..
  · exact sameQueues_ite (sameQueues_modCtx ..) ⟨⟨rfl, rfl⟩, fun _ => rfl⟩

theorem sameQueues_takeWatches (s : State) (r : Run) (p : WatchArgs → Bool) : SameQueues s (s.takeWatches r p) :=
  sameQueues_ite (sameQueues_foldl (fun st x => sameQueues_takeWatch ..) _ s) (.refl s)

theorem sameQueues_reportRecomputed (s : State) (r : Run) : SameQueues s (s.reportRecomputed r) := by
  refine sameQueues_foldl (fun st sl => ?_) _ s
  split
  · have hq (x : Seq) : SameQueues st (if x.state == .opened then st.queueRecompute x.index else st) :=
      sameQueues_ite (sameQueues_queueRecompute ..) (.refl st)
    exact sameQueues_ite ((hq _).trans (sameQueues_loseIfGone ..)) ((hq _).trans (sameQueues_event ..))
  · exact .refl st

theorem sameQueues_guaranteeEvent (s : State) (p code a0 slot late : Nat) : SameQueues s (s.guaranteeEvent p code a0 slot late) := by
  unfold State.guaranteeEvent
  split
  · exact .refl s
  · exact sameQueues_ite ((sameQueues_event ..).trans (sameQueues_event ..)) (sameQueues_event ..)

theorem sameQueues_breach (s : State) (p reason late : Nat) (slot : Option Nat) : SameQueues s (s.breach p reason late slot) := by
  unfold State.breach
  split
  · exact .refl s
  · refine sameQueues_ite (.refl s) ((sameQueues_modPtn _ _ ?_).trans (sameQueues_guaranteeEvent ..))
    exact fun _ => rfl

theorem sameQueues_checkReserved (s : State) (p : Nat) (r : Run) : SameQueues s (s.checkReserved p r) := by
  unfold State.checkReserved
  split
  · exact sameQueues_ite (sameQueues_breach ..) (.refl s)
  · exact .refl s

/-! ### The end of a run -/

section
variable {s : State} {p : Nat} {x : Partition} {r : Run}

/-- The device with a run's work stamped, watched and verified, and the run out of its partition. -/
def runVerified (s : State) (p : Nat) (r : Run) : State :=
  (((s.stampRun p r).takeWatches r fun a => !a.tileTarget).verifyRun r).modPtn p fun y => { y with run := none }

/-- What follows the end of a run: its recomputed sequences are reported, excess ends, poison is acted on, and a late
reservation is a breach. -/
def runSettled (s : State) (p : Nat) (r : Run) : State :=
  ((((runVerified s p r).reportRecomputed r).quotaClear p).dropHeld p).checkReserved p r

theorem sameQueues_verified (s : State) (p : Nat) (r : Run) :
    SameQueues s (((s.stampRun p r).takeWatches r fun a => !a.tileTarget).verifyRun r) :=
  ((sameQueues_stampRun ..).trans (sameQueues_takeWatches ..)).trans (sameQueues_verifyRun ..)

theorem sameQueues_settled (s : State) (p : Nat) (r : Run) : SameQueues (runVerified s p r) (runSettled s p r) :=
  (((sameQueues_reportRecomputed ..).trans (sameQueues_quotaClear ..)).trans (sameQueues_dropHeld ..)).trans (sameQueues_checkReserved ..)

/-- The partition has no run afterwards, and its queue as it was. -/
theorem runSettled_ptn (hx : s.ptn? p = some x) : ∃ y, (runSettled s p r).ptn? p = some y ∧ y.run = none ∧ y.queue = x.queue := by
  obtain ⟨y, hy, -, hq⟩ := (sameQueues_verified s p r).ptn hx
  have hv : (runVerified s p r).ptn? p = some { y with run := none } := by
    rw [runVerified, ptn?_modPtn, if_pos rfl, hy]
    rfl
  obtain ⟨z, hz, hrun, hzq⟩ := (sameQueues_settled s p r).ptn hv
  exact ⟨z, hz, Option.isSome_eq_false_iff.mp hrun |> Option.isNone_iff_eq_none.mp, hzq.trans hq⟩

theorem beatsOf_congr {s t : State} (h : t.images = s.images) (r : Run) : t.beatsOf r = s.beatsOf r := by
  unfold State.beatsOf State.image?
  rw [h]

theorem runSettled_beats (s : State) (p : Nat) (r : Run) : (runSettled s p r).beatsOf r = s.beatsOf r := by
  refine beatsOf_congr ((sameQueues_settled s p r).1.2.trans (Eq.trans ?_ (sameQueues_verified s p r).1.2)) r
  obtain ⟨_, _, _, _, _, e⟩ := told_modPtn ((((s.stampRun p r).takeWatches r fun a => !a.tileTarget).verifyRun r)) p
    fun y : Partition => { y with run := none }
  rw [runVerified, e]

theorem runComplete_stays {p : Fin 8} (h : ∀ r, s.run? p.val = some r → r.ended = false ∨ r.admitted = false ∨ r.stopped = true ∨
    s.leadWorks p.val = false) : runCompleteEffect p s = s := by
  unfold runCompleteEffect
  split
  · rfl
  next r hr => exact if_pos (by rcases h r hr with h | h | h | h <;> simp [h])

theorem runComplete_ends {p : Fin 8} (hr : s.run? p.val = some r) (h1 : r.ended = true) (h2 : r.admitted = true) (h3 : r.stopped = false)
    (h4 : s.leadWorks p.val = true) : runCompleteEffect p s = (runSettled s p.val r).finish r.q stOk
      (if r.isStep then packBits [(r.variant, 0), (r.added, 8)] else s.beatsOf r) 0 := by
  rw [← runSettled_beats s p.val r]
  unfold runCompleteEffect
  rw [hr]
  exact if_neg (by simp [h1, h2, h3, h4])

theorem endEmptyRun_stays (h : ∀ r, s.run? p = some r → r.admitted = true ∨ r.stopped = true ∨ s.beatsOf r ≠ 0) : s.endEmptyRun p = s := by
  unfold State.endEmptyRun
  split
  next r hr => exact if_pos (by rcases h r hr with h | h | h <;> simp [h])
  · rfl

theorem endEmptyRun_ends (hr : s.run? p = some r) (h1 : r.admitted = false) (h2 : r.stopped = false) (h3 : s.beatsOf r = 0) :
    s.endEmptyRun p = (s.modPtn p fun y => { y with run := none }).finish r.q stOkEmpty 0 0 := by
  unfold State.endEmptyRun
  rw [hr]
  exact if_neg (by simp [h1, h2, h3])

/-! ### Dispatch -/

/-- Whether a partition may begin a run: none is in progress, its ring runs, and its sequencer and keeper work (05 R135). -/
def dispatches (s : State) (p : Nat) (x : Partition) : Bool :=
  !(x.run.isSome || !s.ringRuns p || !s.leadWorks p || s.restarting (keeperIsland p))

/-- Whether a run has to wait: for the sequences of another to settle, or for the reset of its context. -/
def runHeld (s : State) (x : Partition) (r : Run) : Bool := x.settles r || ((s.ctx? r.ctx).bind (·.reset)).isSome

theorem dispatches_iff : dispatches s p x = true ↔ x.run = none ∧ s.ringRuns p = true ∧ s.leadWorks p = true ∧
    s.restarting (keeperIsland p) = false := by
  simp [dispatches, and_assoc]

theorem runHeld_iff : runHeld s x r = false ↔ x.settles r = false ∧ (s.ctx? r.ctx).bind (·.reset) = none := by
  simp [runHeld]

/-- What dispatch does with a run that has been taken from the queue (10 R246, R251). -/
def dispatched (s : State) (p : Nat) (r : Run) : State :=
  if s.beatsOf r = 0 then s.modPtn p fun y => { y with run := some { r with ended := true } }
  else if ((s.image? r.ctx r.image).map Image.usesPeers).getD false && (s.group? p).isNone then s.finish r.q stPeerLost 0 0
  else
    match State.admitRun ((r.slots.foldl (fun st sl => match st.seq? sl.seq with
      | some y => st.loseIfGone y.index
      | none => st) s).modPtn p fun y => { y with run := some r }) p r with
    | (s', .ok r') => s'.modPtn p fun y => { y with run := some r' }
    | (s', .error st) => (s'.modPtn p fun y => { y with run := none }).finish r.q st 0 0

theorem runDispatch_idle {p : Fin 8} (h : ∀ x r, s.ptn? p.val = some x → s.nextRun x = some r →
    ¬ (dispatches s p.val x = true ∧ runHeld s x r = false)) : runDispatchEffect p s = s := by
  unfold runDispatchEffect
  split
  · rfl
  next x hx =>
    split
    · rfl
    next hgo =>
      have hd : dispatches s p.val x = true := by
        unfold dispatches
        rw [Bool.eq_false_iff.mpr hgo]
        rfl
      split
      · rfl
      next r hr => exact if_pos (Bool.not_eq_false _ |>.mp fun hf => h x r hx hr ⟨hd, hf⟩)

theorem runDispatch_takes {p : Fin 8} (hx : s.ptn? p.val = some x) (hd : dispatches s p.val x = true) (hr : s.nextRun x = some r)
    (hh : runHeld s x r = false) : runDispatchEffect p s = dispatched (s.unqueue p.val r) p.val r := by
  unfold dispatches at hd
  unfold runHeld at hh
  unfold runDispatchEffect
  rw [hx]
  dsimp only
  rw [if_neg (by simpa using hd), hr]
  exact if_neg (Bool.eq_false_iff.mp hh)

/-- Taking a run from the queue leaves the images and the group. -/
theorem unqueue_leaves (s : State) (p : Nat) (r : Run) : (s.unqueue p r).images = s.images ∧ (s.unqueue p r).group? p = s.group? p := by
  refine ⟨?_, ?_⟩
  · obtain ⟨_, _, _, _, _, e⟩ := told_modPtn s p fun x : Partition => { x with queue := x.queue.filter fun y => y.q != r.q }
    rw [State.unqueue, e]
  · unfold State.group? State.unqueue
    rw [ptn?_modPtn, if_pos rfl]
    cases s.ptn? p <;> rfl

end

/-- Settles O52, from dispatch, the ramp and the end of a run. -/
theorem runLife : Obligations.RunLife := by
  unfold Obligations.RunLife
  refine ⟨fun s p => rfl, fun s p => ⟨fun h => ?_, fun x r hx hd hs => ?_⟩, fun s p => ⟨fun h => exec_effect rfl (runComplete_stays h),
    fun x r hx hr h1 h2 h3 h4 => ?_⟩, fun s p => ⟨endEmptyRun_stays, fun r => endEmptyRun_ends⟩⟩
  · refine exec_effect rfl (runDispatch_idle fun x r hx hr ⟨hd, hh⟩ => h x r hx ⟨dispatches_iff.mp hd, hr, ?_⟩)
    exact runHeld_iff.mp hh
  · obtain ⟨hnext, hsettles, hreset⟩ := hs
    have hrow := runDispatch_takes hx (dispatches_iff.mpr hd) hnext (runHeld_iff.mpr ⟨hsettles, hreset⟩)
    obtain ⟨himages, hgroup⟩ := unqueue_leaves s p.val r
    have hbeats : (s.unqueue p.val r).beatsOf r = s.beatsOf r := beatsOf_congr himages r
    have himage : (s.unqueue p.val r).image? r.ctx r.image = s.image? r.ctx r.image := by
      unfold State.image?
      rw [himages]
    unfold dispatched at hrow
    rw [hbeats, himage, hgroup] at hrow
    refine ⟨fun h => exec_effect rfl (hrow.trans (if_pos h)), fun h hp hg => exec_effect rfl (hrow.trans ((if_neg h).trans (if_pos ?_))),
      fun h hp => exec_effect rfl (hrow.trans ((if_neg h).trans ((if_neg ?_).trans rfl)))⟩
    · rw [hp, hg]
      rfl
    · rcases hp with hp | hp
      · simp [hp]
      · simp [hp]
  · have hrun : s.run? p.val = some r := by
      rw [State.run?, hx]
      exact hr
    obtain ⟨y, hy, hyr, hyq⟩ := runSettled_ptn (r := r) hx
    refine ⟨exec_effect rfl (runComplete_ends hrun h1 h2 h3 h4), ?_, ?_⟩
    · exact (congrArg (fun z : Option Partition => z.bind (·.run)) hy).trans hyr
    · exact (congrArg (fun z : Option Partition => z.map (·.queue)) hy).trans (congrArg some hyq)

end Sys2Proof.Machine
end

section
/-! SUPPORT and the settlement of O53: what a tile does with its next record (03 R78, Table TIL.2, 04 R96, 06 R148, 08 R192). -/

namespace Sys2Proof.Machine

/-! ### The next record of a tile -/

section
variable {s : State} {c t p : Nat} {w : Work} {op : Nat} {act : State → Work → Acted → Acted × List (Nat × Nat)}

theorem pastRecord_leaves (s : State) (p : Nat) (w : Work) : (s.pastRecord p w).stores = s.stores ∧ (s.pastRecord p w).seqs = s.seqs :=
  ⟨State.modPtn_stores .., State.modPtn_seqs ..⟩

theorem boundSeq_pastRecord (s : State) (p : Nat) (w : Work) : (s.pastRecord p w).boundSeq w = s.boundSeq w := by
  obtain ⟨h1, h2⟩ := pastRecord_leaves s p w
  unfold State.boundSeq State.seq?
  rw [h1, h2]

theorem tileOp_none (h : s.nextWork c t = none) : s.tileOp op c t act = s := by
  rw [State.tileOp, h]

theorem tileOp_other (h : s.nextWork c t = some (p, w)) (hop : Op.code w.r ≠ op) : s.tileOp op c t act = s := by
  rw [State.tileOp, h]
  exact if_pos (by simpa using hop)

theorem tileOp_noOp (h : s.nextWork c t = some (p, w)) (hop : Op.code w.r = op) (hn : w.noOp = true) :
    s.tileOp op c t act = s.pastRecord p w := by
  rw [State.tileOp, h]
  exact (if_neg (by simp [hop])).trans (if_pos hn)

theorem tileOp_acts (h : s.nextWork c t = some (p, w)) (hop : Op.code w.r = op) (hn : w.noOp = false) :
    s.tileOp op c t act = (s.pastRecord p w).account p w (act (s.pastRecord p w) w { stores := s.stores }).1
      (act (s.pastRecord p w) w { stores := s.stores }).2 := by
  rw [State.tileOp, h]
  refine (if_neg (by simp [hop])).trans ((if_neg (by simp [hn])).trans ?_)
  rw [(pastRecord_leaves s p w).1]

/-- What a row of a tile's operation does where the tile's next record is none, of another operation, or does nothing. -/
def RecordOnly (i : Instr) (op : Nat) (s : State) (c t : Nat) : Prop :=
  (s.nextWork c t = none → exec i s = .next s) ∧
  (∀ p w, s.nextWork c t = some (p, w) → Op.code w.r ≠ op → exec i s = .next s) ∧
  (∀ p w, s.nextWork c t = some (p, w) → Op.code w.r = op → w.noOp = true → exec i s = .next (s.pastRecord p w))

theorem recordOnly_tileOp {i : Instr} (he : exec i s = .next (s.tileOp op c t act)) : RecordOnly i op s c t :=
  ⟨fun h => exec_effect he (tileOp_none h), fun _ _ h hop => exec_effect he (tileOp_other h hop), fun _ _ h hop hn =>
    exec_effect he (tileOp_noOp h hop hn)⟩

end

/-! ### FILLER and RESCORE -/

section
variable {s : State} {c : Fin 8} {t : Fin 14} {p : Nat} {w : Work}

theorem filler_other (h : ∀ p w, s.nextWork c.val t.val = some (p, w) → (Op.code w.r = 0x08 && !w.noOp) = false) :
    fillerEffect c t s = s.tileOp 0x08 c.val t.val fun _ w a => (a, [(16, fillerMacs t.val (Op.extM w.r))]) := by
  unfold fillerEffect
  dsimp only
  split
  next p w hw => exact if_neg (Bool.eq_false_iff.mp (h p w hw))
  · rfl

theorem filler_acts (h : s.nextWork c.val t.val = some (p, w)) (hop : Op.code w.r = 0x08) (hn : w.noOp = false) : fillerEffect c t s =
    ((s.pastRecord p w).account p w { stores := s.stores } [(16, fillerMacs t.val (Op.extM w.r))]).modGroupCounters c.val fun g =>
      { g with filler := g.filler + BitVec.ofNat 64 (fillerMacs t.val (Op.extM w.r)) } := by
  unfold fillerEffect
  rw [tileOp_acts h hop hn, h]
  exact if_pos (by simp [hop, hn])

/-- What a RESCORE does with its record. -/
def rescoreAct (s : State) (w : Work) (a : Acted) : Acted × List (Nat × Nat) :=
  match s.boundSeq w with
  | some x =>
    ((w.rescore s a x w.link).1, w.attentionMacs (Op.extK w.r) x.shape.dim ++
      [(7, (w.rescore s a x w.link).2), (20, (w.slotList s.stores).length * (x.shape.e 0 + x.shape.e 1))])
  | none => (w.putStates a 128 ((List.range (Op.extM w.r)).map fun i => w.startSoft a.stores 128 i) w.link, [])

theorem rescore_none (h : s.nextWork c.val t.val = none) : rescoreEffect c t s = s := by
  rw [rescoreEffect, h]

theorem rescore_clean (h : s.nextWork c.val t.val = some (p, w)) (hp : Op.code w.r = 0x16 → w.noOp = false → s.rescorePoison w = none) :
    rescoreEffect c t s = s.tileOp 0x16 c.val t.val rescoreAct := by
  have hnone : (if Op.code w.r = 0x16 && !w.noOp then s.rescorePoison w else none) = none := by
    split
    next hc =>
      simp only [Bool.and_eq_true, decide_eq_true_eq, Bool.not_eq_true'] at hc
      exact hp hc.1 hc.2
    · rfl
  rw [rescoreEffect, h]
  dsimp only
  rw [hnone]
  rfl

theorem rescore_poisoned {line : Nat × Nat} (h : s.nextWork c.val t.val = some (p, w)) (hop : Op.code w.r = 0x16) (hn : w.noOp = false)
    (hp : s.rescorePoison w = some line) : rescoreEffect c t s = (s.pastRecord p w).raiseFault (w.poisonFault p line) := by
  rw [rescoreEffect, h]
  dsimp only
  rw [if_pos (by simp [hop, hn]), hp]

end

theorem recordOnly_filler (s : State) (c : Fin 8) (t : Fin 14) : RecordOnly (.filler c t) 0x08 s c.val t.val := by
  refine ⟨fun h => ?_, fun p w h hop => ?_, fun p w h hop hn => ?_⟩
  · exact exec_effect rfl ((filler_other fun p w hw => by rw [h] at hw; exact absurd hw (by simp)).trans (tileOp_none h))
  · refine exec_effect rfl ((filler_other fun p' w' hw => ?_).trans (tileOp_other h hop))
    obtain ⟨-, rfl⟩ := Prod.mk.inj (Option.some.inj (h.symm.trans hw))
    simp [hop]
  · refine exec_effect rfl ((filler_other fun p' w' hw => ?_).trans (tileOp_noOp h hop hn))
    obtain ⟨-, rfl⟩ := Prod.mk.inj (Option.some.inj (h.symm.trans hw))
    simp [hn]

theorem recordOnly_rescore (s : State) (c : Fin 8) (t : Fin 14) : RecordOnly (.rescore c t) 0x16 s c.val t.val :=
  ⟨fun h => exec_effect rfl (rescore_none h),
    fun _ _ h hop => exec_effect rfl ((rescore_clean h fun h' => absurd h' hop).trans (tileOp_other h hop)),
    fun _ _ h hop hn => exec_effect rfl ((rescore_clean h fun _ h' => absurd hn (by simp [h'])).trans (tileOp_noOp h hop hn))⟩

/-! ### What a record's act changes -/

/-- The state t is s with other counters and free values. -/
def Counts (s t : State) : Prop := ∃ cs gs f, t = { s with ctxs := cs, groups := gs, free := f }

theorem Counts.refl (s : State) : Counts s s := ⟨_, _, _, rfl⟩

theorem Counts.trans {s t u : State} (h : Counts s t) (k : Counts t u) : Counts s u := by
  obtain ⟨_, _, _, rfl⟩ := h
  obtain ⟨cs, gs, f, rfl⟩ := k
  exact ⟨cs, gs, f, rfl⟩

theorem counts_count (s : State) (c : CtxNo) (i k : Nat) : Counts s (s.count c i k) := ⟨_, _, _, rfl⟩

theorem counts_foldl {α : Type} {f : State → α → State} (h : ∀ s a, Counts s (f s a)) (as : List α) (s : State) :
    Counts s (as.foldl f s) := by
  induction as generalizing s with
  | nil => exact .refl s
  | cons a as ih => exact (h s a).trans (ih _)

theorem counts_busy (s : State) (c t cycles : Nat) : Counts s (s.busy c t cycles) := by
  unfold State.busy
  split
  · exact ⟨_, _, _, rfl⟩
  · exact .refl s

/-- An act that meets no malformed region changes the stores, the counters and the free values alone. -/
theorem account_counts (s : State) (p : Nat) (w : Work) (a : Acted) (macs : List (Nat × Nat)) (hb : a.bad = none) :
    Counts { s with stores := a.stores } (s.account p w a macs) := by
  have hmacs (t : State) : Counts t (macs.foldl (fun st (x : Nat × Nat) =>
      (st.count w.ctx x.1 x.2).count w.ctx 5 (if w.t < 8 || 4 < x.1 then 0 else x.2)) t) :=
    counts_foldl (fun st x => (counts_count ..).trans (counts_count ..)) macs t
  have hall (t : State) : Counts t (((((t.count w.ctx 8 a.codes).count w.ctx 9 a.coded).count w.ctx 10 a.raw).count w.ctx 11 a.cycles).count
      w.ctx 17 a.exceptions) :=
    ((((counts_count ..).trans (counts_count ..)).trans (counts_count ..)).trans (counts_count ..)).trans (counts_count ..)
  unfold State.account
  dsimp only
  rw [hb]
  dsimp only
  split
  · exact ((hmacs _).trans (hall _)).trans (counts_busy ..)
  · exact (((hmacs _).trans (hall _)).trans (u := State.takeFree _ |>.2) ⟨_, _, _, rfl⟩).trans (counts_busy ..)

/-! ### The coding of results -/

/-- The device with a result coded: other stores and counters. -/
def withCoded (s : State) (st : Stores) (cs : List Context) (gs : Vector GroupCounters 8) : State :=
  { s with stores := st, ctxs := cs, groups := gs }

theorem coded_counts (s : State) (st : Stores) (c : CtxNo) (a b n k : Nat) (f : GroupCounters → GroupCounters) : ∃ cs gs,
    (((({ s with stores := st } : State).count c 12 a).count c 13 b).count c 14 n).modGroupCounters k f = withCoded s st cs gs := ⟨_, _, rfl⟩

section
variable {s : State} {c : Fin 8} {t : Fin 14} {p : Nat} {x : Partition} {r : Run}

theorem resultCoding_idle (h : ∀ p x r, s.ptnOfCluster c.val = some p → s.ptn? p = some x → x.openRun = some r → s.ringRuns p = false ∨
    s.image? r.ctx r.image = none ∨ s.toCode r (c.val - x.low) t.val = []) : resultCodingEffect c t s = s := by
  unfold resultCodingEffect
  split
  · rfl
  next p hp =>
    split
    · rfl
    next x hx =>
      split
      · rfl
      next r hr =>
        dsimp only
        split
        next e i rest img hcode hi =>
          rcases h p x r hp hx hr with h | h | h
          · exact if_pos (by simp [h])
          · rw [hi] at h
            exact absurd h (by simp)
          · rw [hcode] at h
            exact absurd h (by simp)
        · rfl

/-- The next record of a tile whose result waits to be coded. -/
def codedWork (c : Fin 8) (t : Fin 14) (x : Partition) (r : Run) (img : Image) (no : Nat) (o : OpRec) : Work :=
  { c := c.val, k := c.val - x.low, t := t.val, ctx := r.ctx, beat := r.beat, slots := r.slots, img := img, no := no, r := o }

section
variable {img : Image} {e : BitVec 128} {i : Nat} {rest : List (BitVec 128 × Nat)}
  (hp : s.ptnOfCluster c.val = some p) (hx : s.ptn? p = some x) (hr : x.openRun = some r) (hrun : s.ringRuns p = true)
  (hi : s.image? r.ctx r.image = some img) (hc : s.toCode r (c.val - x.low) t.val = (e, i) :: rest)
include hp hx hr hrun hi hc

theorem resultCoding_noRecord (ho : (img.opsOf (c.val - x.low) t.val)[Budget.op e]? = none) :
    resultCodingEffect c t s = s.modRun p fun z => { z with coded := z.coded ++ [i] } := by
  simp only [resultCodingEffect, hp, hx, hr, hc, hi]
  refine (if_neg (by simp [hrun])).trans ?_
  rw [ho]

theorem resultCoding_noOp {o : OpRec} (ho : (img.opsOf (c.val - x.low) t.val)[Budget.op e]? = some o)
    (hn : (codedWork c t x r img (Budget.op e) o).noOp = true) :
    resultCodingEffect c t s = s.modRun p fun z => { z with coded := z.coded ++ [i] } := by
  unfold codedWork at hn
  simp only [resultCodingEffect, hp, hx, hr, hc, hi]
  refine (if_neg (by simp [hrun])).trans ?_
  rw [ho]
  exact if_pos hn

theorem resultCoding_codes {o : OpRec} (ho : (img.opsOf (c.val - x.low) t.val)[Budget.op e]? = some o)
    (hn : (codedWork c t x r img (Budget.op e) o).noOp = false) : ∃ cs gs, resultCodingEffect c t s =
      withCoded (s.modRun p fun z => { z with coded := z.coded ++ [i] })
        (s.stores.write (some r.ctx) c.val t.val (Budget.dstSpace e) (Budget.dstBase e * 4)
          (codeRegion (Budget.width e) (Budget.b e) false ((codedWork c t x r img (Budget.op e) o).readBytes s.stores
            (codedWork c t x r img (Budget.op e) o).output.1 (codedWork c t x r img (Budget.op e) o).output.2.1
            (codedWork c t x r img (Budget.op e) o).output.2.2)).1) cs gs := by
  unfold codedWork at hn ⊢
  simp only [resultCodingEffect, hp, hx, hr, hc, hi]
  rw [if_neg (by simp [hrun]), ho]
  dsimp only
  rw [if_neg (Bool.eq_false_iff.mp hn)]
  exact coded_counts (s.modRun p fun z => { z with coded := z.coded ++ [i] }) _ r.ctx _ _ _ c.val _

end

end

/-- Settles O53, from the row that every operation of the tiles shares, and the three that add to it. -/
theorem tileWork : Obligations.TileWork := by
  unfold Obligations.TileWork
  refine ⟨⟨fun op hop s c t => ?_, fun s p w a macs hb => ?_⟩, fun s c t p w h hn => ?_, fun s c t => ⟨fun h => exec_effect rfl (resultCoding_idle h),
    fun p x r img e i rest hp hx hr hrun hi hc => ⟨fun ho => exec_effect rfl (resultCoding_noRecord hp hx hr hrun hi hc ho), fun o ho =>
      ⟨fun hn => exec_effect rfl (resultCoding_noOp hp hx hr hrun hi hc ho hn), fun hn => ?_⟩⟩⟩⟩
  · have hall : RecordOnly (op.2 c t) op.1 s c.val t.val := by
      simp only [List.mem_cons, List.not_mem_nil, or_false] at hop
      rcases hop with rfl | rfl | rfl | rfl | rfl | rfl | rfl | rfl | rfl | rfl | rfl | rfl | rfl | rfl | rfl | rfl
      case inr.inr.inr.inr.inr.inr.inr.inl => exact recordOnly_filler s c t
      case inr.inr.inr.inr.inr.inr.inr.inr.inr.inr.inr.inr.inr.inl => exact recordOnly_rescore s c t
      all_goals exact recordOnly_tileOp rfl
    exact hall
  · obtain ⟨cs, gs, f, h⟩ := account_counts s p w a macs hb
    exact ⟨cs, gs, f, h⟩
  · refine ⟨fun hop => exec_effect rfl (tileOp_acts h hop hn), fun hop => exec_effect rfl (tileOp_acts h hop hn),
      fun hop => exec_effect rfl (tileOp_acts h hop hn), fun hop => exec_effect rfl (tileOp_acts h hop hn),
      fun hop => exec_effect rfl (tileOp_acts h hop hn), fun hop => exec_effect rfl (tileOp_acts h hop hn),
      fun hop => exec_effect rfl (tileOp_acts h hop hn), fun hop => exec_effect rfl (tileOp_acts h hop hn),
      fun hop => exec_effect rfl (tileOp_acts h hop hn), fun hop => exec_effect rfl (tileOp_acts h hop hn),
      fun hop => exec_effect rfl (tileOp_acts h hop hn), fun hop => exec_effect rfl (tileOp_acts h hop hn),
      fun hop => exec_effect rfl (tileOp_acts h hop hn), fun hop => exec_effect rfl (tileOp_acts h hop hn),
      fun hop => exec_effect rfl (filler_acts h hop hn), fun x hop hx hp => ?_, fun hop hx => ?_,
      fun line hop hp => exec_effect rfl (rescore_poisoned h hop hn hp)⟩
    · refine exec_effect rfl ((rescore_clean h fun _ _ => hp).trans ((tileOp_acts h hop hn).trans ?_))
      unfold rescoreAct
      rw [boundSeq_pastRecord, hx]
      dsimp only
      rw [(pastRecord_leaves s p w).1]
    · have hp : s.rescorePoison w = none := by rw [State.rescorePoison, hx]
      refine exec_effect rfl ((rescore_clean h fun _ _ => hp).trans ((tileOp_acts h hop hn).trans ?_))
      unfold rescoreAct
      rw [boundSeq_pastRecord, hx]
  · obtain ⟨cs, gs, h⟩ := resultCoding_codes hp hx hr hrun hi hc ho hn
    exact ⟨cs, gs, exec_effect rfl h⟩

end Sys2Proof.Machine
end

section
/-! SUPPORT. What leaves the command queue and the time as they were: the whole model's functions but step and tick; and
most of them the power state and the recovery also. -/

namespace Sys2Proof.Machine

/-- The queue and the time of t are those of s. -/
structure Still (s t : State) : Prop where
  pending : t.pending = s.pending
  now : t.now = s.now

/-- The queue, the time, the power state and the recovery of t are those of s. -/
structure Steady (s t : State) : Prop extends Still s t where
  power : t.power = s.power
  recovery : t.recovery = s.recovery

theorem Still.refl (s : State) : Still s s := ⟨rfl, rfl⟩

theorem Steady.refl (s : State) : Steady s s := ⟨.refl s, rfl, rfl⟩

theorem Still.trans {s t u : State} (h : Still s t) (k : Still t u) : Still s u :=
  ⟨k.pending.trans h.pending, k.now.trans h.now⟩

theorem Steady.trans {s t u : State} (h : Steady s t) (k : Steady t u) : Steady s u :=
  ⟨h.toStill.trans k.toStill, k.power.trans h.power, k.recovery.trans h.recovery⟩

/-- An update of other fields. -/
theorem Steady.update {s u : State}
    {free moveNo idleSince fieldCap draws : Nat} {hosts : Vector HostSide 2} {primary : Option (Fin 2)} {ptns : Vector
    (Option Partition) 8} {ctxs : List Context} {accepted : List Accepted} {objs : List Obj} {images : List Image}
    {migrations : List Migration} {moves : List Move} {caches : Vector PageCache 8} {tier1 layer : Mem} {undef : Table
    Nat} {poison poisonReports : List Nat} {memc : MemCtl} {groups : Vector GroupCounters 8} {seqs : List Seq} {gens :
    Table (BitVec 12)} {handles : List Handle} {stores : Stores} {staged live : DevRegs} {devCommit : CommitStat}
    {interrupts : List (Fin 2 × BitVec 16)} {lastRead : BitVec 64} {heldWork : List HeldWork} {flt : FaultState} {pwr
    : Power} {field : Field} {fieldEmerg tier1Ready : Bool} {sessions : Vector Session 3} {authFail : BitVec 16} {felt
    : Felt} {weights : List WeightObj} {awaited : List Awaited} {library : List LibraryEntry} {serving : List Serving}
    {flash : Flash} {fw : Firmware} {supplies : Supplies} {rng : Rng} {tap : Tap}
    (h : Steady s u) : Steady s {
      pending := u.pending, now := u.now, free := free, hosts := hosts, primary := primary, ptns := ptns, ctxs :=
      ctxs, accepted := accepted, objs := objs, images := images, migrations := migrations, moves := moves, moveNo
      := moveNo, caches := caches, tier1 := tier1, undef := undef, poison := poison, poisonReports := poisonReports,
      memc := memc, groups := groups, seqs := seqs, gens := gens, handles := handles, layer := layer, stores :=
      stores, staged := staged, live := live, devCommit := devCommit, interrupts := interrupts, lastRead :=
      lastRead, heldWork := heldWork, flt := flt, power := u.power, idleSince := idleSince, pwr := pwr, field :=
      field, fieldCap := fieldCap, fieldEmerg := fieldEmerg, tier1Ready := tier1Ready, sessions := sessions,
      authFail := authFail, draws := draws, felt := felt, weights := weights, awaited := awaited, library :=
      library, serving := serving, flash := flash, fw := fw, recovery := u.recovery, supplies := supplies, rng :=
      rng, tap := tap } :=
  ⟨⟨h.pending, h.now⟩, h.power, h.recovery⟩

/-- An update of other fields. -/
theorem Still.update {s u : State}
    {free moveNo idleSince fieldCap draws : Nat} {hosts : Vector HostSide 2} {primary : Option (Fin 2)} {ptns : Vector
    (Option Partition) 8} {ctxs : List Context} {accepted : List Accepted} {objs : List Obj} {images : List Image}
    {migrations : List Migration} {moves : List Move} {caches : Vector PageCache 8} {tier1 layer : Mem} {undef : Table
    Nat} {poison poisonReports : List Nat} {memc : MemCtl} {groups : Vector GroupCounters 8} {seqs : List Seq} {gens :
    Table (BitVec 12)} {handles : List Handle} {stores : Stores} {staged live : DevRegs} {devCommit : CommitStat}
    {interrupts : List (Fin 2 × BitVec 16)} {lastRead : BitVec 64} {heldWork : List HeldWork} {flt : FaultState}
    {power : PowerState} {pwr : Power} {field : Field} {fieldEmerg tier1Ready : Bool} {sessions : Vector Session 3}
    {authFail : BitVec 16} {felt : Felt} {weights : List WeightObj} {awaited : List Awaited} {library : List
    LibraryEntry} {serving : List Serving} {flash : Flash} {fw : Firmware} {recovery : Option Recovery} {supplies :
    Supplies} {rng : Rng} {tap : Tap}
    (h : Still s u) : Still s {
      pending := u.pending, now := u.now, free := free, hosts := hosts, primary := primary, ptns := ptns, ctxs :=
      ctxs, accepted := accepted, objs := objs, images := images, migrations := migrations, moves := moves, moveNo
      := moveNo, caches := caches, tier1 := tier1, undef := undef, poison := poison, poisonReports := poisonReports,
      memc := memc, groups := groups, seqs := seqs, gens := gens, handles := handles, layer := layer, stores :=
      stores, staged := staged, live := live, devCommit := devCommit, interrupts := interrupts, lastRead :=
      lastRead, heldWork := heldWork, flt := flt, power := power, idleSince := idleSince, pwr := pwr, field :=
      field, fieldCap := fieldCap, fieldEmerg := fieldEmerg, tier1Ready := tier1Ready, sessions := sessions,
      authFail := authFail, draws := draws, felt := felt, weights := weights, awaited := awaited, library :=
      library, serving := serving, flash := flash, fw := fw, recovery := recovery, supplies := supplies, rng := rng,
      tap := tap } :=
  ⟨h.pending, h.now⟩

theorem Steady.fst {α : Type} {s t : State} {p : State × α} {a : α} (h : Steady s p.1) (e : p = (t, a)) : Steady s t := by
  rw [e] at h
  exact h

theorem Steady.snd {α : Type} {s t : State} {p : α × State} {a : α} (h : Steady s p.2) (e : p = (a, t)) : Steady s t := by
  rw [e] at h
  exact h

theorem Still.fst {α : Type} {s t : State} {p : State × α} {a : α} (h : Still s p.1) (e : p = (t, a)) : Still s t := by
  rw [e] at h
  exact h

theorem Steady.pair {α : Type} {s t : State} {a : α} (h : Steady s t) : Steady s (t, a).1 := h

theorem Still.pair {α : Type} {s t : State} {a : α} (h : Still s t) : Still s (t, a).1 := h

theorem still_foldl {α : Type} {f : State → α → State} (h : ∀ s a, Still s (f s a)) (as : List α) (s : State) :
    Still s (as.foldl f s) := by
  induction as generalizing s with
  | nil => exact .refl s
  | cons a as ih => exact (h s a).trans (ih _)

theorem steady_foldl {α : Type} {f : State → α → State} (h : ∀ s a, Steady s (f s a)) (as : List α) (s : State) :
    Steady s (as.foldl f s) := by
  induction as generalizing s with
  | nil => exact .refl s
  | cons a as ih => exact (h s a).trans (ih _)

theorem steady_ite_fst {α : Type} {s : State} {a b : State × α} {c : Prop} [Decidable c] (ha : Steady s a.1) (hb : Steady s b.1) :
    Steady s (if c then a else b).1 := by
  split
  · exact ha
  · exact hb

theorem still_ite_fst {α : Type} {s : State} {a b : State × α} {c : Prop} [Decidable c] (ha : Still s a.1) (hb : Still s b.1) :
    Still s (if c then a else b).1 := by
  split
  · exact ha
  · exact hb

theorem still_ite {s t u : State} {c : Prop} [Decidable c] (ht : Still s t) (hu : Still s u) : Still s (if c then t else u) := by
  split
  · exact ht
  · exact hu

theorem steady_ite {s t u : State} {c : Prop} [Decidable c] (ht : Steady s t) (hu : Steady s u) :
    Steady s (if c then t else u) := by
  split
  · exact ht
  · exact hu

/-- What a command's body leaves has the queue and the time of s. -/
inductive RanStill (s : State) : Ran → Prop
  | done {t : State} {st r0 r1 : Nat} (h : Still s t) : RanStill s (.done t st r0 r1)
  | waits : RanStill s .waits
  | goesOn {t : State} (h : Still s t) : RanStill s (.goesOn t)
  | again {t : State} (h : Still s t) : RanStill s (.again t)

theorem RanStill.trans {s t : State} {r : Ran} (h : Still s t) (k : RanStill t r) : RanStill s r := by
  cases k with
  | done k => exact .done (h.trans k)
  | waits => exact .waits
  | goesOn k => exact .goesOn (h.trans k)
  | again k => exact .again (h.trans k)

theorem ranStill_ite {s : State} {r r' : Ran} {c : Prop} [Decidable c] (h : RanStill s r) (k : RanStill s r') :
    RanStill s (if c then r else r') := by
  split
  · exact h
  · exact k

/-! ### The relations known already -/

theorem Told.steady {s t : State} (h : Told s t) : Steady s t := by
  obtain ⟨_, _, _, _, _, rfl⟩ := h
  exact .update (.refl s)

theorem Kept.steady {s t : State} (h : Kept s t) : Steady s t := by
  obtain ⟨_, _, _, _, _, _, _, _, _, _, _, _, _, _, _, _, _, _, _, _, _, rfl⟩ := h
  exact .update (.refl s)

theorem Sends.steady {s t : State} (h : Sends s t) : Steady s t := by
  obtain ⟨⟨_, _, _, _, _, rfl⟩, -⟩ := h
  exact .update (.refl s)

theorem Around.steady {s t : State} (h : Around s t) : Steady s t := by
  obtain ⟨_, _, _, _, _, _, _, rfl⟩ := h
  exact .update (.refl s)

theorem Becalms.steady {s t : State} (h : Becalms s t) : Steady s t := by
  obtain ⟨_, _, _, _, _, _, h⟩ := h
  exact Steady.trans (.update (.refl s)) h.steady

theorem FlashOnly.steady {s t : State} (h : FlashOnly s t) : Steady s t := by
  obtain ⟨_, rfl⟩ := h
  exact .update (.refl s)

theorem FabricOnly.steady {s t : State} (h : FabricOnly s t) : Steady s t := by
  obtain ⟨_, _, rfl, -⟩ := h
  exact .update (.refl s)

theorem Counts.steady {s t : State} (h : Counts s t) : Steady s t := by
  obtain ⟨_, _, _, rfl⟩ := h
  exact .update (.refl s)

end Sys2Proof.Machine
end

section
/-! SUPPORT. The queue and the time, function by function: shared operations, capacity, faults, rings and staging. -/

namespace Sys2Proof.Machine

/-! ### Memories -/

theorem steady_copyPoison (s : State) (from_ to_ k : Nat) : Steady s (s.copyPoison from_ to_ k) := .update (.refl _)

theorem steady_movePoison (s : State) (from_ to_ k : Nat) : Steady s (s.movePoison from_ to_ k) := .update (.refl _)

/-! ### Shared operations -/

theorem steady_takeDraw (s : State) : Steady s s.takeDraw.2 := .update (.refl _)

theorem steady_modHost (s : State) (h : Fin 2) (f : HostSide → HostSide) : Steady s (s.modHost h f) := .update (.refl _)

theorem steady_modRing (s : State) (r : Ring) (f : RingPair → RingPair) : Steady s (s.modRing r f) := by
  unfold State.modRing
  split
  · exact steady_modHost ..
  · exact (kept_modCtx ..).steady

theorem steady_modEvents (s : State) (r : Ring) (f : EventBuf → EventBuf) : Steady s (s.modEvents r f) := by
  unfold State.modEvents
  split
  · exact steady_modHost ..
  · exact (kept_modCtx ..).steady

theorem steady_writeHost (s : State) (h : Fin 2) (a : Nat) (bs : List Byte) : Steady s (s.writeHost h a bs) :=
  steady_ite (steady_modHost ..) (.refl _)

theorem steady_writeHostOf (s : State) (q : Req) (a : BitVec 64) (bs : List Byte) : Steady s (s.writeHostOf q a bs) := by
  unfold State.writeHostOf
  split
  · exact .refl _
  · exact steady_writeHost ..

theorem steady_writeRing (s : State) (r : Ring) (off : Nat) (bs : List Byte) : Steady s (s.writeRing r off bs) := by
  unfold State.writeRing
  split
  · exact steady_modHost ..
  · split
    · exact .refl _
    · split
      · exact .refl _
      · exact steady_ite (.refl _) (kept_writeObj ..).steady

theorem steady_interrupt (s : State) (h : Fin 2) (v : BitVec 16) : Steady s (s.interrupt h v) :=
  steady_ite (.refl _) (steady_ite (steady_modHost ..) (.update (.refl _)))

theorem steady_mirrorEntry (s : State) (r : Ring) (rp : RingPair) (bs : List Byte) : Steady s (s.mirrorEntry r rp bs) := by
  unfold State.mirrorEntry
  split
  · exact steady_writeHost ..
  · exact .refl _

theorem steady_ringInterrupt (s : State) (r : Ring) (v : BitVec 16) : Steady s (s.ringInterrupt r v) := by
  unfold State.ringInterrupt
  split
  · exact steady_interrupt ..
  · exact .refl _

theorem steady_writeEntry (s : State) (r : Ring) (body : Nat) (raise : Bool) : Steady s (s.writeEntry r body raise) := by
  unfold State.writeEntry
  split
  · exact .refl _
  · refine steady_ite ?_ (((steady_writeRing ..).trans (steady_mirrorEntry ..)).trans (steady_modRing ..))
    refine .trans ?_ (steady_ringInterrupt ..)
    exact ((steady_writeRing ..).trans (steady_mirrorEntry ..)).trans (steady_modRing ..)

theorem steady_counterRecord (s : State) (q : Req) (latch : List (BitVec 64)) : Steady s (s.counterRecord q latch) := by
  unfold State.counterRecord
  split
  · exact steady_writeRing ..
  · exact .refl _

theorem steady_complete (s : State) (q : Req) (opcode since : Nat) (latch : List (BitVec 64)) (status res0 res1 : Nat) :
    Steady s (s.complete q opcode since latch status res0 res1) :=
  .update ((steady_counterRecord ..).trans (steady_writeEntry ..))

theorem steady_start (s : State) (q : Req) : Steady s (s.start q) := .update (.refl _)

theorem steady_resume (s : State) (q : Req) : Steady s (s.resume q) := .update (.refl _)

theorem still_runCommand {i : Instr} {s : State} {body : State → Req → Ran} (h : ∀ t q, RanStill t (body t q)) :
    Still s (runCommand i s body) := by
  unfold runCommand
  split
  · exact .refl _
  next a _ =>
    refine still_ite ?_ (.refl _)
    have hs : Still s (s.start a.q) := (steady_start ..).toStill
    have hb := h (s.start a.q) a.q
    split
    next t st r0 r1 e =>
      rw [e] at hb
      cases hb with
      | done k => exact (hs.trans k).trans (kept_finish ..).steady.toStill
    · exact .refl _
    next t e =>
      rw [e] at hb
      cases hb with
      | goesOn k => exact hs.trans k
    next t e =>
      rw [e] at hb
      cases hb with
      | again k => exact (hs.trans k).trans (steady_resume ..).toStill

/-! ### The store dies -/

theorem steady_modDie (s : State) (d : Nat) (f : DieStat → DieStat) : Steady s (s.modDie d f) := (flashOnly_modFlash ..).steady

theorem steady_programPage (s : State) (key : Nat) (x : FlashPage) : Steady s (s.programPage key x) :=
  (flashOnly_modFlash ..).steady

theorem steady_blankBlock (s : State) (b : Nat) : Steady s (s.blankBlock b) := (flashOnly_modFlash ..).steady

theorem steady_recordLibrary (s : State) : Steady s s.recordLibrary := (flashOnly_record ..).steady

theorem steady_addJob (s : State) (j : FlashJob) : Steady s (s.addJob j) := (flashOnly_modFlash ..).steady

theorem steady_modJob (s : State) (no : Nat) (f : FlashJob → FlashJob) : Steady s (s.modJob no f) :=
  (flashOnly_modFlash ..).steady

theorem steady_dropJob (s : State) (no : Nat) : Steady s (s.dropJob no) := (flashOnly_modFlash ..).steady

theorem steady_tryJob (s : State) (no : Nat) : Steady s (s.tryJob no) := by
  unfold State.tryJob
  split
  · exact .refl _
  · refine steady_ite (.refl _) ?_
    refine steady_ite ?_ ?_
    · refine steady_ite (.refl _) ?_
      split
      · exact steady_modJob ..
      · exact .refl _
    · split
      · exact steady_ite (.refl _) (steady_modJob ..)
      · exact steady_ite (.refl _) (steady_ite (.update (steady_modJob ..)) (steady_modJob ..))
      · exact .refl _

theorem steady_writeJournal (s : State) (d : Nat) (x : Journal) (j : FlashJob) (page : Nat) :
    Steady s (s.writeJournal d x j page) := (flashOnly_modFlash ..).steady.trans (steady_modJob ..)

theorem steady_journalTurn (s : State) (d : Nat) : Steady s (s.journalTurn d) := by
  unfold State.journalTurn
  split
  · exact .refl _
  · refine steady_ite (.refl _) ?_
    dsimp only
    split
    · exact steady_writeJournal ..
    · split
      · exact .refl _
      · refine steady_ite ?_ ?_
        · exact steady_writeJournal ..
        · exact steady_ite (.refl _) ((steady_addJob ..).trans (steady_writeJournal ..))

theorem steady_logAdvance (s : State) (d : Nat) (x : LogDie) : Steady s (s.logAdvance d x) :=
  (flashOnly_modFlash ..).steady.trans (steady_addJob ..)

theorem steady_logTurn (s : State) (d : Nat) : Steady s (s.logTurn d) := by
  unfold State.logTurn
  split
  · exact .refl _
  · refine steady_ite (.refl _) ?_
    refine steady_ite (.refl _) ?_
    dsimp only
    split
    · exact steady_ite (steady_logAdvance ..) (.refl _)
    · split
      · exact steady_ite (steady_logAdvance ..) (.refl _)
      · refine steady_ite (steady_ite (steady_logAdvance ..) (.refl _)) ?_
        refine .trans ?_ (flashOnly_modFlash ..).steady
        exact steady_ite (steady_logAdvance ..) (.refl _)

theorem steady_issueFlash (s : State) : Steady s s.issueFlash := by
  unfold State.issueFlash
  refine steady_ite (.refl _) ?_
  refine .trans ?_ (steady_foldl (fun _ _ => steady_logTurn ..) ..)
  refine .trans ?_ (steady_foldl (fun _ _ => steady_journalTurn ..) ..)
  exact steady_foldl (fun _ _ => steady_tryJob ..) ..

theorem steady_writeCopy (s : State) (src dst : Nat) : Steady s (s.writeCopy src dst) := by
  unfold State.writeCopy
  refine .trans ?_ (flashOnly_addJobs ..).steady
  exact steady_ite (flashOnly_addJobs ..).steady (.refl _)

theorem steady_startCopy (s : State) (i : Nat) : Steady s (s.startCopy i) := by
  unfold State.startCopy
  refine steady_ite (.refl _) ?_
  split
  · exact .refl _
  · exact ((flashOnly_modFlash ..).steady.trans (steady_writeCopy ..)).trans (steady_issueFlash ..)

theorem steady_copyWorn (s : State) (errors : List (Nat × Nat)) : Steady s (s.copyWorn errors) :=
  steady_foldl (fun _ _ => steady_startCopy ..) ..

/-! ### Capacity -/

theorem steady_writePage (s : State) (g : Page) (off : Nat) (bs : List Byte) : Steady s (s.writePage g off bs) :=
  (kept_writeTier ..).steady

theorem steady_copyPage (s : State) (g h : Page) : Steady s (s.copyPage g h) :=
  (steady_writePage ..).trans (steady_copyPoison ..)

theorem steady_settleHandles (s : State) : Steady s s.settleHandles := .update (.refl _)

theorem steady_startMigration (s : State) (c : CtxNo) (base : BitVec 42) (i : Nat) (dest : Place) :
    Steady s (s.startMigration c base i dest) := .update (.refl _)

theorem steady_moveTile (s : State) (c : CtxNo) (base : BitVec 42) (i : Nat) (dest : Place) :
    Steady s (s.moveTile c base i dest) := by
  unfold State.moveTile
  split
  · exact .refl _
  · split
    · exact .refl _
    · refine steady_ite ?_ ?_
      · refine .trans ?_ (kept_zeroTier ..).steady
        refine .trans ?_ (kept_count ..).steady
        refine .trans ?_ (kept_invalidate ..).steady
        exact ((kept_writeTier ..).steady.trans (steady_movePoison ..)).trans (kept_modObj ..).steady
      · refine .trans ?_ (kept_count ..).steady
        refine .trans ?_ (kept_invalidate ..).steady
        exact ((kept_writeTier ..).steady.trans (steady_movePoison ..)).trans (kept_modObj ..).steady

theorem steady_evictTile (s : State) (p : Nat) (xs : List (Obj × ResTile × Nat)) : Steady s (s.evictTile p xs).1 := by
  induction xs generalizing s with
  | nil =>
    exact .refl _
  | cons x rest ih =>
    unfold State.evictTile
    obtain ⟨o, t, i⟩ := x
    dsimp only
    split
    next t _ e =>
      have h := Steady.fst (kept_poolRoom ..).steady e
      exact h.trans (steady_startMigration ..)
    next t e =>
      have h := Steady.fst (kept_poolRoom ..).steady e
      exact h.trans (ih ..)

theorem steady_evictFor (s : State) (p cluster k n n' : Nat) : Steady s (s.evictFor p cluster k n n') := by
  induction n' generalizing s with
  | zero =>
    exact .refl _
  | succ fuel ih =>
    unfold State.evictFor
    refine steady_ite (.refl _) ?_
    split
    next t e =>
      have h := Steady.fst (steady_evictTile ..) e
      exact h
    next t e =>
      have h := Steady.fst (steady_evictTile ..) e
      exact h.trans (ih ..)

theorem steady_makeRoom (s : State) (p cluster k n : Nat) : Steady s (s.makeRoom p cluster k n) :=
  steady_ite (steady_evictFor ..) (.refl _)

/-! ### Faults -/

theorem steady_modRecord (s : State) (p : Nat) (number : BitVec 16) (f : FaultRecord → FaultRecord) :
    Steady s (s.modRecord p number f) := (kept_modPtn ..).steady

theorem steady_sampleUnits (s : State) (p cluster : Nat) (number : BitVec 16) (n : Nat) :
    Steady s (s.sampleUnits p cluster number n).1 := by
  induction n generalizing s with
  | zero =>
    exact .refl _
  | succ n ih =>
    unfold State.sampleUnits
    split
    next t e =>
      have h := Steady.fst (kept_alloc ..).steady e
      exact h.trans (steady_modRecord ..)
    next t _ e =>
      have h := Steady.fst (kept_alloc ..).steady e
      exact (h.trans (steady_modRecord ..)).trans (ih ..)

theorem steady_writeUnits (s : State) (bs : List Byte) (xs : List (Nat × Nat)) : Steady s (s.writeUnits bs xs) := by
  induction xs generalizing s bs with
  | nil =>
    exact .refl _
  | cons x rest ih =>
    unfold State.writeUnits
    obtain ⟨c, u⟩ := x
    exact (kept_writeTier ..).steady.trans (ih ..)

theorem steady_storeSample (s : State) (p : Nat) (number : BitVec 16) (body : List Byte) :
    Steady s (s.storeSample p number body) := by
  unfold State.storeSample
  split
  · exact .refl s
  · split
    · exact .refl s
    · refine steady_ite (.refl s) ?_
      extract_lets bs
      split
      next t e => exact Steady.fst (steady_sampleUnits ..) e
      next t e =>
        have h := Steady.fst (steady_sampleUnits ..) e
        extract_lets u
        split
        · exact (h.trans (steady_modRecord ..)).trans (steady_writeUnits ..)
        · exact h.trans (steady_modRecord ..)

theorem steady_abortWhere (s : State) (p : Accepted → Bool) : Steady s (s.abortWhere p).1 :=
  steady_foldl (fun _ _ => (kept_finish ..).steady) ..

theorem steady_setWatchResult (s : State) (c : CtxNo) (i v : Nat) : Steady s (s.setWatchResult c i v) := (kept_modCtx ..).steady

theorem steady_removeRuns (s : State) (c : CtxNo) : Steady s (s.removeRuns c) := by
  unfold State.removeRuns
  refine .trans ?_ (kept_dropHeld ..).steady
  refine .update ?_
  refine .trans ?_ (kept_modPtn ..).steady
  split
  · exact steady_ite ((kept_stampRun ..).steady.trans (kept_abortWatches ..).steady) (.refl _)
  · exact .refl _

theorem steady_nodeFault (s : State) (o : Obj) : Steady s (s.nodeFault o) := by
  unfold State.nodeFault
  split
  · exact (around_raiseFault ..).steady
  · exact .refl _

/-! ### Doorbells, packets and events -/

theorem steady_raiseLinks (s : State) : Steady s s.raiseLinks := steady_ite (.refl _) (.update (.refl _))

theorem still_enterState (s : State) (x : PowerState) : Still s (s.enterState x) := .update (.refl _)

theorem still_wake (s : State) : Still s s.wake := by
  unfold State.wake
  split
  · exact .update (still_enterState ..)
  · exact (Still.update (still_enterState ..)).trans (steady_raiseLinks ..).toStill
  · exact .refl _

theorem steady_storeUnits (s : State) (r : Ring) (k : Nat) (us : List (BitVec 512)) : Steady s (s.storeUnits r k us) := by
  induction us generalizing s k with
  | nil => exact .refl s
  | cons u us ih =>
    unfold State.storeUnits
    split
    · exact .refl s
    · exact (steady_writeRing ..).trans (ih ..)

theorem steady_takeTail (s : State) (r : Ring) (v : BitVec 32) (units : List (BitVec 512)) :
    Steady s (s.takeTail r v units) := by
  unfold State.takeTail
  split
  · exact .refl _
  · refine steady_ite ?_ ?_
    · exact (steady_storeUnits ..).trans (steady_modRing ..)
    · exact (steady_storeUnits ..).trans (kept_event ..).steady

theorem still_sqTailEffect (h : Fin 2) (r : Ring) (v : BitVec 32) (units : List (BitVec 512)) (host : HostBytes) (s : State) :
    Still s (sqTailEffect h r v units host s) := by
  unfold sqTailEffect
  refine still_ite ?_ ?_
  · exact (still_wake ..).trans (steady_modHost ..).toStill
  · exact ((still_wake ..).trans (steady_modHost ..).toStill).trans (steady_takeTail ..).toStill

theorem steady_takeHead (s : State) (r : Ring) (v : BitVec 32) : Steady s (s.takeHead r v) := by
  unfold State.takeHead
  split
  · exact .refl _
  · exact steady_ite (steady_modRing ..) (kept_event ..).steady

theorem still_cqHeadEffect (h : Fin 2) (r : Ring) (v : BitVec 32) (s : State) : Still s (cqHeadEffect h r v s) :=
  still_ite (still_wake ..) ((still_wake ..).trans (steady_takeHead ..).toStill)

theorem steady_refuse (s : State) (r : Ring) (idx : BitVec 32) (w status : Nat) : Steady s (s.refuse r idx w status) :=
  steady_complete ..

theorem steady_serve (s : State) (r : Ring) : Steady s (s.serve r) := by
  unfold State.serve
  split
  · exact (kept_modPtn ..).steady
  · exact (steady_modHost ..).trans (steady_modHost ..)

theorem steady_packetAcceptEffect (r : Ring) (s : State) : Steady s (packetAcceptEffect r s) := by
  unfold packetAcceptEffect
  split
  · exact .refl _
  · refine steady_ite (.refl _) ?_
    split
    · exact (steady_serve ..).trans (steady_nodeFault ..)
    · dsimp only
      split
      · exact ((steady_serve ..).trans (steady_modRing ..)).trans (steady_refuse ..)
      · split
        · exact ((steady_serve ..).trans (steady_modRing ..)).trans (steady_refuse ..)
        · exact .update ((steady_serve ..).trans (steady_modRing ..))

theorem steady_eventDeliverEffect (r : Ring) (s : State) : Steady s (eventDeliverEffect r s) := by
  unfold eventDeliverEffect
  split
  · split
    · exact .refl _
    · refine steady_ite (.refl _) ?_
      refine .trans ?_ (steady_writeEntry ..)
      refine steady_ite ?_ ?_
      · exact steady_modEvents ..
      · exact ((steady_modEvents ..).trans (steady_modEvents ..)).trans (kept_event ..).steady
  · exact .refl _

/-! ### Staged configuration -/

theorem steady_stagePtn (s : State) (p : Nat) (r : PReg) (value mask : BitVec 64) : Steady s (s.stagePtn p r value mask) :=
  (kept_modPtn ..).steady

theorem steady_stageDev (s : State) (r : DReg) (value mask : BitVec 64) : Steady s (s.stageDev r value mask) :=
  .update (.refl _)

theorem steady_commitPtn (s : State) (p sel : Nat) (cmd : Option Req) : Steady s (s.commitPtn p sel cmd).1 := by
  unfold State.commitPtn
  dsimp only
  split
  · exact .refl _
  · refine steady_ite_fst (kept_modPtn ..).steady ?_
    split
    · exact (kept_modPtn ..).steady
    · exact (kept_modPtn ..).steady

theorem steady_commitDev (s : State) (regs : List DReg) : Steady s (s.commitDev regs).1 := by
  unfold State.commitDev
  refine steady_ite_fst (.update (.refl _)) ?_
  dsimp only
  split
  · exact .update (.refl _)
  · exact .update (.refl _)

end Sys2Proof.Machine
end

section
/-! SUPPORT. The queue and the time, function by function: stacks, objects, SYNC objects and the fabric. -/

namespace Sys2Proof.Machine

/-! ### The stacks -/

theorem steady_modRanks (s : State) (stack : Nat) (f : RankState → RankState) : Steady s (s.modRanks stack f) :=
  steady_ite (.update (.refl _)) ((Steady.update (.refl _)).trans (flashOnly_record ..).steady)

theorem steady_rankFails (s : State) (stack r : Nat) : Steady s (s.rankFails stack r) := by
  unfold State.rankFails
  dsimp only
  split
  · refine steady_ite ?_ ?_
    · exact (steady_modRanks ..).trans (told_rankEvent ..).steady
    · exact ((steady_modRanks ..).trans (told_rankEvent ..).steady).trans (around_regionsFell ..).steady
  · refine steady_ite ?_ ?_
    · exact ((steady_modRanks ..).trans (told_rankEvent ..).steady).trans (around_regionsFell ..).steady
    · exact steady_modRanks ..
  · exact .refl _

theorem steady_poisonLine (s : State) (line : Nat) : Steady s (s.poisonLine line) := .update (.refl _)

theorem steady_countCorrected (s : State) (channel : Nat) : Steady s (s.countCorrected channel) := .update (.refl _)

theorem steady_countRetry (s : State) (channel : Nat) : Steady s (s.countRetry channel) := .update (.refl _)

theorem steady_meets (s : State) (cluster off : Nat) (read : Bool) (o : ReadOutcome) :
    Steady s (s.meets cluster off read o) := by
  unfold State.meets
  dsimp only
  split
  · exact .refl _
  · exact steady_ite (.refl _) (steady_countCorrected ..)
  · exact steady_countRetry ..
  · exact steady_ite (.refl _) ((steady_poisonLine ..).trans (steady_rankFails ..))
  · exact (around_raiseFault ..).steady

theorem steady_meetsLines (s : State) (lines : List (Nat × Nat)) (read : Bool) (o : ReadOutcome) :
    Steady s (s.meetsLines lines read o) := by
  unfold State.meetsLines
  refine steady_ite ?_ ?_
  · exact .refl _
  · exact (kept_takeFree ..).steady.trans (steady_foldl (fun _ _ => steady_meets ..) ..)

theorem steady_hostMeets (s : State) (o : Obj) (off n : Nat) (read : Bool) : Steady s (s.hostMeets o off n read) := by
  unfold State.hostMeets
  refine .trans ?_ (steady_foldl (fun _ _ => ?_) _ _)
  · exact (kept_takeFree ..).steady
  · dsimp only
    split
    · exact steady_foldl (fun _ _ => steady_meets ..) ..
    · exact .refl _

/-! ### Objects and their bytes -/

theorem steady_placeTiles (s : State) (p : Nat) (c : CtxNo) (base : BitVec 42) (d : ObjDesc) (pin : Bool) (cluster n : Nat) :
    Steady s (s.placeTiles p c base d pin cluster n).1 := by
  induction n generalizing s with
  | zero =>
    exact .refl _
  | succ k ih =>
    unfold State.placeTiles
    dsimp only
    split
    next t _ e =>
      have h := Steady.fst (kept_alloc ..).steady e
      exact ((h.trans (kept_modObj ..).steady).trans (kept_undefineUnits ..).steady).trans (ih ..)
    next t e =>
      have h := Steady.fst (kept_alloc ..).steady e
      refine steady_ite_fst ?_ (h)
      split
      next t _ e =>
        have h := (h).trans (Steady.fst (kept_alloc ..).steady e)
        exact ((h.trans (kept_modObj ..).steady).trans (kept_undefineUnits ..).steady).trans (ih ..)
      next t e =>
        have h := (h).trans (Steady.fst (kept_alloc ..).steady e)
        exact h

theorem steady_createObj (s : State) (p : Nat) (c : CtxNo) (d : ObjDesc) (tiles cluster : Nat) :
    Steady s (s.createObj p c d tiles cluster).1 := by
  unfold State.createObj
  refine steady_ite_fst (.refl _) ?_
  dsimp only
  split
  next t e =>
    have h := Steady.fst (kept_chooseBase ..).steady e
    exact h
  next t _ e =>
    have h := Steady.fst (kept_chooseBase ..).steady e
    split
    next t e =>
      have h := (Steady.update (h)).trans (Steady.fst (steady_placeTiles ..) e)
      exact .update (h)
    next t e =>
      have h := (Steady.update (h)).trans (Steady.fst (steady_placeTiles ..) e)
      exact steady_ite_fst (h.trans (kept_layNodes ..).steady) (.update (h))

theorem steady_newRingPair (s : State) (p : Nat) (c : CtxNo) (n : Nat) : Steady s (s.newRingPair p c n).1 := by
  unfold State.newRingPair
  split
  · exact .refl _
  · exact steady_createObj ..

theorem ranStill_withCtx {q : Req} {s : State} {f : CtxNo → Ran} (h : ∀ c, RanStill s (f c)) : RanStill s (withCtx q s f) := by
  unfold withCtx
  split
  · exact h _
  · exact .done (.refl _)

theorem ranStill_withNamed {q : Req} {base : BitVec 42} {s : State} {f : Obj → Ran} (h : ∀ o, RanStill s (f o)) :
    RanStill s (withNamed q base s f) := by
  refine ranStill_withCtx fun c => ?_
  split
  · exact h _
  · exact .done (.refl _)

theorem ranStill_withObj {q : Req} {base : BitVec 42} {s : State} {f : Obj → Ran} (h : ∀ o, RanStill s (f o)) :
    RanStill s (withObj q base s f) :=
  ranStill_withNamed fun o => ranStill_ite (.done (.refl _)) (h o)

theorem steady_createRoom (s : State) (p : Nat) (d : ObjDesc) (cluster : Nat) : Steady s (s.createRoom p d cluster) :=
  steady_ite (steady_makeRoom ..) (.refl _)

theorem ranStill_objCreateBody (d : ObjDesc) (s : State) (q : Req) : RanStill s (objCreateBody d s q) := by
  unfold objCreateBody
  refine ranStill_withCtx fun _ => ?_
  dsimp only
  split
  · exact .done (.refl _)
  · refine ranStill_ite (.done (.refl _)) ?_
    refine ranStill_ite (.done (.refl _)) ?_
    refine ranStill_ite (.done (.refl _)) ?_
    refine ranStill_ite (.again (Steady.toStill (steady_createRoom ..))) ?_
    split
    next t _ e =>
      have h := (steady_createRoom ..).trans (Steady.fst (steady_createObj ..) e)
      exact .done (Steady.toStill (h))
    next t _ e =>
      have h := (steady_createRoom ..).trans (Steady.fst (steady_createObj ..) e)
      exact .done (Steady.toStill (h))

theorem ranStill_objFreeBody (base : BitVec 42) (s : State) (q : Req) : RanStill s (objFreeBody base s q) := by
  unfold objFreeBody
  refine ranStill_withNamed fun _ => ?_
  refine ranStill_ite (.done (.refl _)) ?_
  refine ranStill_ite (.done (.refl _)) ?_
  refine .done ?_
  refine Steady.toStill ?_
  refine .trans ?_ (steady_foldl (fun _ _ => (kept_loseIfGone ..).steady) ..)
  exact (kept_dropObj ..).steady.trans (kept_quotaClear ..).steady

theorem steady_homeTiles (s : State) (p : Nat) (c : CtxNo) (base : BitVec 42) (xs : List Nat) :
    Steady s (s.homeTiles p c base xs).1 := by
  induction xs generalizing s with
  | nil =>
    exact .refl _
  | cons i is ih =>
    unfold State.homeTiles
    split
    · exact .refl _
    · refine steady_ite_fst (ih ..) ?_
      split
      next t _ e =>
        have h := Steady.fst (kept_alloc ..).steady e
        exact (h.trans (steady_startMigration ..)).trans (ih ..)
      next t e =>
        have h := Steady.fst (kept_alloc ..).steady e
        exact h

theorem steady_setPin (s : State) (c : CtxNo) (base : BitVec 42) (on : Bool) : Steady s (s.setPin c base on) :=
  (kept_modObj ..).steady

theorem steady_roomForPin (s : State) (p : Nat) (o : Obj) : Steady s (s.roomForPin p o) :=
  steady_ite (.refl _) (steady_foldl (fun _ _ => steady_makeRoom ..) ..)

theorem steady_pinAway (s : State) (p : Nat) (o : Obj) : Steady s (s.pinAway p o).1 := by
  unfold State.pinAway
  refine steady_ite_fst ?_ ?_
  · exact ((steady_setPin ..).trans (kept_cancelMigrations ..).steady).trans (steady_roomForPin ..)
  · split
    next t e =>
      have h := (((steady_setPin ..).trans (kept_cancelMigrations ..).steady).trans (steady_roomForPin ..)).trans (Steady.fst (steady_homeTiles ..) e)
      exact h
    next t e =>
      have h := (((steady_setPin ..).trans (kept_cancelMigrations ..).steady).trans (steady_roomForPin ..)).trans (Steady.fst (steady_homeTiles ..) e)
      refine steady_ite_fst ?_ ?_
      · exact (h.trans (steady_setPin ..)).trans (kept_cancelMigrations ..).steady
      · exact steady_setPin ..

theorem ranStill_objPinBody (base : BitVec 42) (s : State) (q : Req) : RanStill s (objPinBody base s q) := by
  unfold objPinBody
  refine ranStill_withObj fun _ => ?_
  refine ranStill_ite (.done (.refl _)) ?_
  refine ranStill_ite (.done (Steady.toStill (steady_setPin ..))) ?_
  refine ranStill_ite (.done (Steady.toStill ((steady_setPin ..).trans (kept_cancelMigrations ..).steady))) ?_
  refine ranStill_ite (.waits) ?_
  split
  next t _ e =>
    have h := Steady.fst (steady_pinAway ..) e
    exact .done (Steady.toStill (h))
  next t e =>
    have h := Steady.fst (steady_pinAway ..) e
    exact .again (Steady.toStill (h))

theorem steady_reopenReclaim (s : State) (c : CtxNo) : Steady s (s.reopenReclaim c) :=
  (kept_modPtn ..).steady.trans (kept_modCtx ..).steady

theorem ranStill_objUnpinBody (base : BitVec 42) (s : State) (q : Req) : RanStill s (objUnpinBody base s q) := by
  unfold objUnpinBody
  refine ranStill_withObj fun _ => ?_
  refine ranStill_ite (.done (.refl _)) ?_
  refine ranStill_ite ?_ ?_
  · exact .done (.refl _)
  · exact .done (Steady.toStill ((steady_setPin ..).trans (steady_reopenReclaim ..)))

theorem steady_placeHome (s : State) (p : Nat) (c : CtxNo) (base : BitVec 42) (xs : List Nat) :
    Steady s (s.placeHome p c base xs) := by
  induction xs generalizing s with
  | nil =>
    exact .refl _
  | cons i is ih =>
    unfold State.placeHome
    split
    · exact .refl _
    · refine steady_ite (ih ..) ?_
      split
      · exact (steady_startMigration ..).trans (ih ..)
      · exact ih ..

theorem steady_giveHome (s : State) (o : Obj) (home : BitVec 2) : Steady s (s.giveHome o home) :=
  ((kept_modObj ..).steady.trans (kept_cancelMigrations ..).steady).trans (steady_placeHome ..)

theorem ranStill_objPlaceBody (base : BitVec 42) (home : BitVec 2) (s : State) (q : Req) :
    RanStill s (objPlaceBody base home s q) := by
  unfold objPlaceBody
  refine ranStill_withObj fun _ => ?_
  refine ranStill_ite (.done (.refl _)) ?_
  refine ranStill_ite (.done (.refl _)) ?_
  refine ranStill_ite (.waits) ?_
  refine ranStill_ite ?_ ?_
  · exact .again (Steady.toStill (steady_giveHome ..))
  · exact .done (Steady.toStill ((steady_giveHome ..).trans (kept_quotaClear ..).steady))

theorem ranStill_objQueryBody (base : BitVec 42) (s : State) (q : Req) : RanStill s (objQueryBody base s q) :=
  ranStill_withObj (fun _ => .done (.refl _))

theorem ranStill_memWriteBody (base off : BitVec 42) (host : BitVec 64) (n : BitVec 32) (s : State) (q : Req) :
    RanStill s (memWriteBody base off host n s q) := by
  unfold memWriteBody
  refine ranStill_ite (.done (.refl _)) ?_
  refine ranStill_withObj fun _ => ?_
  refine ranStill_ite (.done (.refl _)) ?_
  refine ranStill_ite (.done (.refl _)) ?_
  refine ranStill_ite (.waits) ?_
  refine ranStill_ite (.done (.refl _)) ?_
  refine .done ?_
  refine Steady.toStill ?_
  refine .trans ?_ (kept_count ..).steady
  exact ((kept_writeObj ..).steady.trans (steady_hostMeets ..)).trans (kept_countTiers ..).steady

theorem ranStill_memReadBody (base off : BitVec 42) (host : BitVec 64) (n : BitVec 32) (s : State) (q : Req) :
    RanStill s (memReadBody base off host n s q) := by
  unfold memReadBody
  refine ranStill_ite (.done (.refl _)) ?_
  refine ranStill_withObj fun _ => ?_
  refine ranStill_ite (.done (.refl _)) ?_
  refine ranStill_ite (.waits) ?_
  refine .done ?_
  refine Steady.toStill ?_
  refine .trans ?_ (kept_count ..).steady
  exact ((steady_hostMeets ..).trans (steady_writeHostOf ..)).trans (kept_countTiers ..).steady

theorem ranStill_memCopyBody (src srcOff dst dstOff : BitVec 42) (n : BitVec 32) (s : State) (q : Req) :
    RanStill s (memCopyBody src srcOff dst dstOff n s q) := by
  unfold memCopyBody
  refine ranStill_ite (.done (.refl _)) ?_
  refine ranStill_withObj fun _ => ?_
  refine ranStill_withObj fun _ => ?_
  refine ranStill_ite (.done (.refl _)) ?_
  refine ranStill_ite (.done (.refl _)) ?_
  refine ranStill_ite (.waits) ?_
  refine .done ?_
  refine Steady.toStill ?_
  refine .trans ?_ (kept_countTiers ..).steady
  refine .trans ?_ (kept_countTiers ..).steady
  exact ((steady_hostMeets ..).trans (kept_writeObj ..).steady).trans (steady_hostMeets ..)

theorem ranStill_memFillBody (base off : BitVec 42) (pattern n : BitVec 32) (s : State) (q : Req) :
    RanStill s (memFillBody base off pattern n s q) := by
  unfold memFillBody
  refine ranStill_ite (.done (.refl _)) ?_
  refine ranStill_withObj fun _ => ?_
  refine ranStill_ite (.done (.refl _)) ?_
  refine ranStill_ite (.done (.refl _)) ?_
  refine ranStill_ite ?_ ?_
  · exact .waits
  · exact .done (Steady.toStill (((kept_writeObj ..).steady.trans (steady_hostMeets ..)).trans (kept_countTiers ..).steady))

/-! ### SYNC, fences and the DEV commands -/

theorem ranStill_withSync {q : Req} {n : BitVec 12} {s : State} {f : Nat → Sync → Ran} (h : ∀ p y, RanStill s (f p y)) :
    RanStill s (withSync q n s f) := by
  refine ranStill_withCtx fun c => ?_
  split
  · exact h ..
  · exact .done (.refl _)

theorem ranStill_syncCreateBody (value : BitVec 64) (s : State) (q : Req) : RanStill s (syncCreateBody value s q) := by
  unfold syncCreateBody
  refine ranStill_withCtx fun _ => ?_
  split
  · exact .done (.refl _)
  · dsimp only
    split
    · exact .done (.refl _)
    · exact .done (Steady.toStill ((kept_takeFree ..).steady.trans (kept_modPtn ..).steady))

theorem ranStill_syncSignalBody (n : BitVec 12) (inc : BitVec 64) (s : State) (q : Req) :
    RanStill s (syncSignalBody n inc s q) := by
  unfold syncSignalBody
  refine ranStill_ite ?_ ?_
  · exact .done (.refl _)
  · exact ranStill_withSync (fun _ _ => .done (Steady.toStill ((kept_modPtn ..).steady.trans (steady_foldl (fun _ _ => (kept_finish ..).steady) ..))))

theorem ranStill_syncWaitBody (n : BitVec 12) (target : BitVec 64) (s : State) (q : Req) :
    RanStill s (syncWaitBody n target s q) := ranStill_withSync (fun _ _ => ranStill_ite (.done (.refl _)) (.goesOn (.refl _)))

theorem ranStill_syncFreeBody (n : BitVec 12) (s : State) (q : Req) : RanStill s (syncFreeBody n s q) :=
  ranStill_withSync (fun _ _ => .done (Steady.toStill ((steady_foldl (fun _ _ => (kept_finish ..).steady) ..).trans (kept_modPtn ..).steady)))

theorem ranStill_syncQueryBody (n : BitVec 12) (s : State) (q : Req) : RanStill s (syncQueryBody n s q) :=
  ranStill_withSync (fun _ _ => .done (.refl _))

theorem ranStill_fenceBarrierBody (s : State) (q : Req) : RanStill s (fenceBarrierBody s q) :=
  ranStill_ite (.done (.refl _)) (.done (.refl _))

theorem ranStill_devNopBody (s : State) (q : Req) : RanStill s (devNopBody s q) := .done (.refl _)

theorem ranStill_devHelloBody (version : BitVec 32) (s : State) (q : Req) : RanStill s (devHelloBody version s q) := by
  unfold devHelloBody
  split
  · exact .done (Steady.toStill (steady_modHost ..))
  · exact .done (.refl _)

theorem ranStill_devQueryBody (s : State) (q : Req) : RanStill s (devQueryBody s q) := .done (.refl _)

/-! ### The fabric -/

theorem steady_modFelt (s : State) (f : Felt → Felt) : Steady s (s.modFelt f) := .update (.refl _)

theorem steady_modPort (s : State) (k : Fin 8) (f : Port → Port) : Steady s (s.modPort k f) := steady_modFelt ..

theorem steady_linkDown (s : State) (k : Fin 8) (phase : LinkPhase) : Steady s (s.linkDown k phase) := by
  unfold State.linkDown
  refine steady_ite ?_ (steady_modPort ..)
  refine .trans ?_ (sends_flush ..).steady
  exact ((steady_modPort ..).trans (sends_flood ..).steady).trans (sends_resendFrom ..).steady

theorem steady_dropFrame (s : State) (k : Fin 8) : Steady s (s.dropFrame k) := by
  unfold State.dropFrame
  refine steady_ite ?_ ?_
  · exact (steady_modPort ..).trans (steady_linkDown ..)
  · exact steady_ite ((steady_modPort ..).trans (sends_flush ..).steady) (steady_modPort ..)

theorem steady_receive (s : State) (k : Fin 8) (f : Frame) : Steady s (s.receive k f).1 := by
  unfold State.receive
  dsimp only
  split
  · exact steady_dropFrame ..
  · exact .pair (steady_modPort ..)

theorem still_onFrame {k : Fin 8} {f : Frame} {s : State} {body : Frame → State → State} (h : ∀ f t, Still t (body f t)) :
    Still s (onFrame k f s body) := by
  have hr := (steady_receive s k f).toStill
  unfold onFrame
  split
  next t e =>
    exact hr.fst e
  next t e =>
    exact (hr.fst e).trans (h ..)

theorem steady_refuseLink (s : State) (k : Fin 8) : Steady s (s.refuseLink k) := steady_modPort ..

theorem still_forLinker {s : State} {w : HeldWork} {act : State → State} (h : ∀ t, Still t (act t)) : Still s (s.forLinker w act) :=
  still_ite (.update (.refl _)) (h s)

theorem steady_startTraining (s : State) (k : Fin 8) : Steady s (s.startTraining k) := by
  unfold State.startTraining
  refine steady_ite (.refl _) ?_
  split
  · exact steady_modPort ..
  · exact steady_modPort ..
  · exact .refl _

theorem still_linkSignalEffect (k : Fin 8) (s : State) : Still s (linkSignalEffect k s) :=
  (steady_modPort ..).toStill.trans (still_forLinker (fun _ => (steady_startTraining ..).toStill))

theorem steady_sendHello (s : State) (k : Fin 8) : Steady s (s.sendHello k) := by
  unfold State.sendHello
  refine steady_ite ?_ ?_
  · exact .refl _
  · exact ((steady_takeDraw ..).trans (steady_modPort ..)).trans (sends_sendLink ..).steady

theorem still_linkTrainingCompleteEffect (k : Fin 8) (s : State) : Still s (linkTrainingCompleteEffect k s) :=
  still_forLinker fun _ => (steady_sendHello ..).toStill

theorem steady_trainingTimeoutEffect (k : Fin 8) (s : State) : Steady s (trainingTimeoutEffect k s) :=
  steady_ite (steady_refuseLink ..) (.refl _)

theorem steady_refusedRetryEffect (k : Fin 8) (s : State) : Steady s (refusedRetryEffect k s) :=
  steady_ite (steady_modPort ..) (.refl _)

theorem steady_takeHello (s : State) (k : Fin 8) (serial : BitVec 64) (nonce iface : BitVec 32) (addr : Option (BitVec 16)) :
    Steady s (s.takeHello k serial nonce iface addr) := by
  unfold State.takeHello
  refine steady_ite ?_ ?_
  · exact .refl _
  · exact steady_ite (steady_refuseLink ..) ((steady_modPort ..).trans (sends_sendLink ..).steady)

theorem still_helloFrameEffect (k : Fin 8) (f : Frame) (serial : BitVec 64) (nonce iface : BitVec 32) (addr : Option (BitVec
    16)) (s : State) :
    Still s (helloFrameEffect k f serial nonce iface addr s) := by
  unfold helloFrameEffect
  refine still_ite ?_ ?_
  · exact .refl _
  · exact still_onFrame (fun _ _ => still_forLinker (fun _ => (steady_takeHello ..).toStill))

theorem steady_elect (s : State) : Steady s s.elect := by
  unfold State.elect
  dsimp only
  split
  · exact steady_modFelt ..
  · exact steady_modFelt ..

theorem steady_keepAddress (s : State) : Steady s s.keepAddress := steady_ite (.refl _) (steady_modFelt ..)

theorem steady_modGroup (s : State) (p : Nat) (f : Group → Group) : Steady s (s.modGroup p f) := (kept_modPtn ..).steady

theorem steady_dropJoins (s : State) (p : Nat) : Steady s (s.dropJoins p) := steady_modFelt ..

theorem steady_endPuts (s : State) (p : Nat) (addr : BitVec 16) : Steady s (s.endPuts p addr) := by
  unfold State.endPuts
  refine .trans ?_ (steady_foldl (fun _ _ => ?_) _ _)
  · exact steady_modFelt ..
  · split
    · split
      · exact (kept_finish ..).steady
      · exact .refl _
    · exact .refl _

theorem steady_dissolve (s : State) (p : Nat) (addr : BitVec 16) (reason : Nat) : Steady s (s.dissolve p addr reason) := by
  unfold State.dissolve
  split
  · exact .refl _
  · exact ((steady_modGroup ..).trans (steady_dropJoins ..)).trans (kept_event ..).steady

theorem steady_addressMoved (s : State) : Steady s s.addressMoved := by
  unfold State.addressMoved
  refine steady_foldl (fun _ _ => ?_) _ _
  refine steady_ite ?_ ?_
  · exact ((sends_sendLeave ..).steady.trans (around_endGroupRun ..).steady).trans (steady_dissolve ..)
  · exact .refl _

theorem steady_takeProof (s : State) (k : Fin 8) (proof : BitVec 256) : Steady s (s.takeProof k proof) := by
  unfold State.takeProof
  refine steady_ite (.refl _) ?_
  refine steady_ite (steady_refuseLink ..) ?_
  refine .trans ?_ (steady_foldl (fun _ _ => steady_ite (.refl _) (sends_sendLink ..).steady) ..)
  refine .trans ?_ (steady_modFelt ..)
  exact ((steady_modPort ..).trans (steady_elect ..)).trans (sends_announce ..).steady

theorem still_proofFrameEffect (k : Fin 8) (f : Frame) (proof : BitVec 256) (s : State) :
    Still s (proofFrameEffect k f proof s) := by
  unfold proofFrameEffect
  refine still_ite ?_ ?_
  · exact .refl _
  · exact still_onFrame (fun _ _ => still_forLinker (fun _ => (steady_takeProof ..).toStill))

theorem steady_rotate (s : State) (k : Fin 8) : Steady s (s.rotate k) :=
  steady_ite (.refl _) ((steady_modPort ..).trans (sends_sendLink ..).steady)

theorem steady_switchKey (s : State) (k : Fin 8) (e : BitVec 64) : Steady s (s.switchKey k e) := steady_modPort ..

theorem steady_takeRotate (s : State) (k : Fin 8) (epoch : BitVec 64) : Steady s (s.takeRotate k epoch) := by
  unfold State.takeRotate
  refine steady_ite ?_ ?_
  · exact .refl _
  · exact ((steady_modPort ..).trans (sends_sendLink ..).steady).trans (steady_switchKey ..)

theorem still_rotateFrameEffect (k : Fin 8) (f : Frame) (epoch : BitVec 64) (s : State) :
    Still s (rotateFrameEffect k f epoch s) := by
  unfold rotateFrameEffect
  refine still_ite ?_ ?_
  · exact .refl _
  · exact still_onFrame (fun _ _ => still_forLinker (fun _ => (steady_takeRotate ..).toStill))

theorem steady_takeRotateAck (s : State) (k : Fin 8) : Steady s (s.takeRotateAck k) :=
  steady_ite (steady_switchKey ..) (.refl _)

theorem still_rotateAcknowledgementEffect (k : Fin 8) (f : Frame) (s : State) :
    Still s (rotateAcknowledgementEffect k f s) := by
  unfold rotateAcknowledgementEffect
  refine still_ite ?_ ?_
  · exact .refl _
  · exact still_onFrame (fun _ _ => still_forLinker (fun _ => (steady_takeRotateAck ..).toStill))

theorem steady_keyRotationDueEffect (k : Fin 8) (s : State) : Steady s (keyRotationDueEffect k s) :=
  steady_ite (steady_rotate ..) (.refl _)

theorem steady_rotationAckTimeoutEffect (k : Fin 8) (s : State) : Steady s (rotationAckTimeoutEffect k s) := by
  unfold rotationAckTimeoutEffect
  split
  · exact steady_ite (steady_linkDown ..) (.refl _)
  · exact .refl _

theorem steady_idleFrameEffect (k : Fin 8) (s : State) : Steady s (idleFrameEffect k s) :=
  steady_ite (sends_sendLink ..).steady (.refl _)

theorem steady_portSilenceTimeoutEffect (k : Fin 8) (s : State) : Steady s (portSilenceTimeoutEffect k s) :=
  steady_ite (steady_linkDown ..) (.refl _)

theorem steady_fecLockLossEffect (k : Fin 8) (s : State) : Steady s (fecLockLossEffect k s) := by
  unfold fecLockLossEffect
  split
  · exact .refl _
  · exact .refl _
  · exact .refl _
  · exact steady_linkDown ..

theorem steady_uncorrectableFecCodewordEffect (k : Fin 8) (s : State) : Steady s (uncorrectableFecCodewordEffect k s) :=
  (steady_modPort ..).trans (sends_flush ..).steady

theorem steady_portHealthRestoredEffect (k : Fin 8) (s : State) : Steady s (portHealthRestoredEffect k s) :=
  steady_ite ((steady_modPort ..).trans (sends_flush ..).steady) (.refl _)

theorem steady_linkCreditEffect (k : Fin 8) (hopClass channel : BitVec 4) (n : BitVec 8) (s : State) :
    Steady s (linkCreditEffect k hopClass channel n s) :=
  steady_ite (.refl _) ((steady_modPort ..).trans (sends_flush ..).steady)

theorem steady_settleAddress (s : State) : Steady s s.settleAddress := by
  unfold State.settleAddress
  refine steady_ite ?_ ?_
  · exact ((steady_addressMoved ..).trans (steady_modFelt ..)).trans (sends_announce ..).steady
  · exact .refl _

theorem still_linkStateFrameEffect (k : Fin 8) (f : Frame) (ls : LinkState) (s : State) :
    Still s (linkStateFrameEffect k f ls s) := by
  unfold linkStateFrameEffect
  refine still_ite (.refl _) ?_
  refine still_onFrame fun _ _ => ?_
  refine still_ite (.refl _) ?_
  refine .trans ?_ (steady_settleAddress ..).toStill
  refine .trans ?_ ((sends_flood ..).steady.toStill)
  refine .trans ?_ (steady_keepAddress ..).toStill
  refine .trans ?_ ((fabricOnly_settleAnchor ..).steady.toStill)
  exact (steady_modFelt ..).toStill.trans (steady_modFelt ..).toStill

theorem steady_addressAssignEffect (serial : BitVec 64) (addr : BitVec 16) (s : State) :
    Steady s (addressAssignEffect serial addr s) := by
  unfold addressAssignEffect
  refine steady_ite (.refl _) ?_
  refine steady_ite ?_ ?_
  · refine .trans ?_ (sends_flush ..).steady
    refine .trans ?_ (sends_announce ..).steady
    refine .trans ?_ (sends_flood ..).steady
    refine .trans ?_ (steady_modFelt ..)
    exact steady_ite (steady_addressMoved ..) (.refl _)
  · refine .trans ?_ (sends_flood ..).steady
    refine .trans ?_ (steady_modFelt ..)
    exact steady_ite (steady_addressMoved ..) (.refl _)

theorem steady_endFences (s : State) (owed : List Req) : Steady s (s.endFences owed) :=
  steady_foldl (fun _ _ => (kept_finish ..).steady) ..

theorem steady_loseMember (s : State) (p : Nat) (addr : BitVec 16) : Steady s (s.loseMember p addr) := by
  unfold State.loseMember
  refine .trans ?_ (around_raiseFault ..).steady
  exact ((steady_endPuts ..).trans (steady_dissolve ..)).trans (steady_endFences ..)

theorem steady_routeInstallEffect (s : State) : Steady s (routeInstallEffect s) := by
  unfold routeInstallEffect
  refine steady_ite (.refl _) ?_
  refine .trans ?_ (sends_flush ..).steady
  refine .trans ?_ (steady_foldl (fun _ _ => steady_ite (.refl _) (sends_send ..).steady) ..)
  refine .trans ?_ (steady_modFelt ..)
  refine .trans ?_ (steady_foldl (fun _ _ => ?_) _ _)
  · refine .trans ?_ (steady_modFelt ..)
    refine .trans ?_ (steady_settleAddress ..)
    exact (fabricOnly_settleAnchor ..).steady.trans (fabricOnly_installRoutes ..).steady
  · split
    · exact .refl _
    · split
      · exact steady_loseMember ..
      · exact .refl _

theorem steady_sendData (s : State) (spart : Nat) (dst : BitVec 16) (dpart : BitVec 3) (off : Nat) (bs : List Byte) (q : Option
    Req) (move : Option Nat) :
    Steady s (s.sendData spart dst dpart off bs q move) := (steady_modFelt ..).trans (sends_send ..).steady

theorem steady_writeReceived (s : State) (p off : Nat) (bs : List Byte) : Steady s (s.writeReceived p off bs).1 := by
  unfold State.writeReceived
  split
  · exact .refl _
  · refine steady_ite_fst (steady_nodeFault ..) ?_
    refine steady_ite_fst (.refl _) ?_
    refine steady_ite_fst ?_ ?_
    · exact .pair (steady_modFelt ..)
    · exact (kept_writeObj ..).steady.trans (kept_count ..).steady

theorem steady_deliver (s : State) (f : Frame) : Steady s (s.deliver f) := by
  unfold State.deliver
  refine .trans ?_ (sends_sendControl ..).steady
  refine .trans ?_ (steady_modFelt ..)
  exact steady_ite_fst (steady_writeReceived ..) (.refl _)

theorem steady_deliverHeld (s : State) (key n : Nat) : Steady s (s.deliverHeld key n) := by
  induction n generalizing s with
  | zero =>
    exact .refl _
  | succ fuel ih =>
    unfold State.deliverHeld
    dsimp only
    split
    · exact .refl _
    · exact ((steady_modFelt ..).trans (steady_deliver ..)).trans (ih ..)

theorem steady_forward (s : State) (f : Frame) (body : FeltBody) (owes : Option (Fin 8 × Nat)) :
    Steady s (s.forward f body owes) :=
  steady_ite ((steady_modFelt ..).trans (sends_giveCredit ..).steady) (sends_send ..).steady

theorem still_feltWake (s : State) : Still s s.feltWake := still_ite (still_wake ..) (.refl _)

theorem still_takeData (s : State) (f : Frame) : Still s (s.takeData f) := by
  unfold State.takeData
  refine still_ite ((still_feltWake ..).trans (steady_modFelt ..).toStill) ?_
  refine still_ite ?_ ?_
  · exact ((still_feltWake ..).trans (steady_deliver ..).toStill).trans (steady_deliverHeld ..).toStill
  · refine still_ite ?_ ?_
    · exact still_ite (still_feltWake ..) ((still_feltWake ..).trans (steady_modFelt ..).toStill)
    · exact (still_feltWake ..).trans ((sends_sendControl ..).steady.toStill)

theorem still_dataFrameEffect (k : Fin 8) (f : Frame) (s : State) : Still s (dataFrameEffect k f s) := by
  unfold dataFrameEffect
  refine still_ite (.refl _) ?_
  refine still_onFrame fun _ _ => ?_
  refine still_ite (.refl _) ?_
  refine still_ite ?_ ?_
  · exact (steady_forward ..).toStill
  · exact (still_takeData ..).trans ((sends_giveCredit ..).steady.toStill)

theorem steady_frameResendTimerEffect (part : Fin 8) (dst : BitVec 16) (dpart : BitVec 3) (seq : BitVec 32) (s : State) :
    Steady s (frameResendTimerEffect part dst dpart seq s) := by
  unfold frameResendTimerEffect
  split
  · exact .refl _
  · exact steady_ite (sends_resend ..).steady (.refl _)

theorem steady_takeAck (s : State) (beyond : Bool) (u : Unacked) : Steady s (s.takeAck beyond u) := by
  unfold State.takeAck
  dsimp only
  split
  · split
    · refine steady_ite ?_ (steady_ite (steady_modFelt ..) (.update (steady_modFelt ..)))
      refine .trans ?_ (around_raiseFault ..).steady
      exact steady_ite (steady_modFelt ..) (.update (steady_modFelt ..))
    · exact steady_ite (steady_modFelt ..) (.update (steady_modFelt ..))
  · refine steady_ite ?_ ?_
    · exact ((steady_modFelt ..).trans (steady_modFelt ..)).trans (kept_finish ..).steady
    · exact steady_ite (steady_modFelt ..) ((steady_modFelt ..).trans (kept_finish ..).steady)
  · exact steady_modFelt ..

theorem still_takeAcks (s : State) (f : Frame) (first n : BitVec 32) (beyond : Bool) : Still s (s.takeAcks f first n beyond) :=
  (still_feltWake ..).trans (still_foldl (fun _ _ => (steady_takeAck ..).toStill) ..)

theorem still_ackFrameEffect (k : Fin 8) (f : Frame) (first n : BitVec 32) (beyond : Bool) (s : State) :
    Still s (ackFrameEffect k f first n beyond s) := by
  unfold ackFrameEffect
  refine still_ite ?_ ?_
  · exact .refl _
  · exact still_onFrame (fun _ _ => still_ite (steady_forward ..).toStill (still_takeAcks ..))

theorem steady_addBranch (s : State) (reader group : BitVec 16) (k : Fin 8) : Steady s (s.addBranch reader group k).1 := by
  unfold State.addBranch
  dsimp only
  split
  · exact .pair (steady_modFelt ..)
  · exact steady_ite_fst (.refl _) (.pair (steady_modFelt ..))

theorem still_treeJoinEffect (k : Fin 8) (f : Frame) (reader group : BitVec 16) (s : State) :
    Still s (treeJoinEffect k f reader group s) := by
  unfold treeJoinEffect
  refine still_ite (.refl _) ?_
  refine still_onFrame fun _ _ => ?_
  split
  next t e =>
    have h := Steady.fst (steady_addBranch ..) e
    exact Steady.toStill (h)
  next t e =>
    have h := Steady.fst (steady_addBranch ..) e
    refine still_ite ?_ ?_
    · exact (Steady.toStill (h)).trans (still_feltWake ..)
    · exact (Steady.toStill (h)).trans (steady_forward ..).toStill

theorem steady_branchPruneEffect (reader group : BitVec 16) (k : Fin 8) (s : State) :
    Steady s (branchPruneEffect reader group k s) := by
  unfold branchPruneEffect
  exact steady_modFelt ..

theorem ranStill_fabAnchorBody (claim : Bool) (host : BitVec 64) (n : BitVec 17) (s : State) (q : Req) :
    RanStill s (fabAnchorBody claim host n s q) := by
  unfold fabAnchorBody
  refine ranStill_ite ?_ ?_
  · refine ranStill_ite (.done (.refl _)) ?_
    split
    · exact .done (.refl _)
    · exact .done (Steady.toStill (((steady_modFelt ..).trans (steady_keepAddress ..)).trans (sends_announce ..).steady))
  · refine ranStill_ite ?_ (.done (.refl _))
    refine .done ?_
    refine Steady.toStill ?_
    refine .trans ?_ (sends_announce ..).steady
    exact ((steady_modFelt ..).trans (steady_elect ..)).trans (steady_keepAddress ..)

theorem ranStill_fabQueryBody (kind : BitVec 2) (port : BitVec 3) (s : State) (q : Req) :
    RanStill s (fabQueryBody kind port s q) := by
  unfold fabQueryBody
  refine ranStill_ite (.done (.refl _)) ?_
  refine ranStill_ite (.done (.refl _)) ?_
  split
  · exact .done (.refl _)
  · exact .done (.refl _)

theorem ranStill_fabRotateBody (port : BitVec 4) (s : State) (q : Req) : RanStill s (fabRotateBody port s q) := by
  unfold fabRotateBody
  refine ranStill_ite (.waits) ?_
  refine ranStill_ite ?_ ?_
  · exact .done (.refl _)
  · exact .done (Steady.toStill (steady_foldl (fun _ _ => steady_rotate ..) ..))

theorem ranStill_fabPutBody (src srcOff : BitVec 42) (member : BitVec 8) (off : BitVec 48) (n : BitVec 32) (s : State) (q : Req)
    :
    RanStill s (fabPutBody src srcOff member off n s q) := by
  unfold fabPutBody
  refine ranStill_ite (.done (.refl _)) ?_
  refine ranStill_withObj fun _ => ?_
  dsimp only
  split
  · exact .done (.refl _)
  · split
    · exact .done (.refl _)
    · refine ranStill_ite (.done (.refl _)) ?_
      refine ranStill_ite (.done (.refl _)) ?_
      refine ranStill_ite ?_ ?_
      · exact .done (Steady.toStill (((kept_countTiers ..).steady.trans (kept_count ..).steady).trans (steady_modFelt ..)))
      · refine ranStill_ite ?_ ?_
        · split
          next t e =>
            have h := ((kept_countTiers ..).steady.trans (kept_count ..).steady).trans (Steady.fst (steady_writeReceived ..) e)
            exact .done (Steady.toStill (h))
          next t e =>
            have h := ((kept_countTiers ..).steady.trans (kept_count ..).steady).trans (Steady.fst (steady_writeReceived ..) e)
            exact .done (Steady.toStill (h))
        · refine .goesOn ?_
          refine Steady.toStill ?_
          refine .trans ?_ (steady_foldl (fun _ _ => steady_sendData ..) ..)
          exact (kept_countTiers ..).steady.trans (kept_count ..).steady

end Sys2Proof.Machine
end

section
/-! SUPPORT. The queue and the time, function by function: runs to be served, sequences, observation, admission, power and weights. -/

namespace Sys2Proof.Machine

/-! ### Step sets and the start of runs -/

theorem steady_enqueue (s : State) (p : Nat) (r : Run) : Steady s (s.enqueue p r) := (kept_modPtn ..).steady

theorem ranStill_schedRunBody (a : RunArgs) (s : State) (q : Req) : RanStill s (schedRunBody a s q) := by
  unfold schedRunBody
  refine ranStill_withCtx fun _ => ?_
  split
  · refine ranStill_ite (.waits) ?_
    split
    · exact .done (.refl _)
    · exact ranStill_ite (.done (.refl _)) (.goesOn (Steady.toStill (steady_enqueue ..)))
  · exact .done (.refl _)

theorem ranStill_schedStepBody (a : RunArgs) (s : State) (q : Req) : RanStill s (schedStepBody a s q) := by
  unfold schedStepBody
  refine ranStill_ite (.done (.refl _)) ?_
  refine ranStill_withCtx fun _ => ?_
  split
  · exact .done (.refl _)
  · refine ranStill_ite (.done (.refl _)) ?_
    refine ranStill_ite (.waits) ?_
    split
    · exact .done (.refl _)
    · refine ranStill_ite (.done (.refl _)) ?_
      refine ranStill_ite (.done (.refl _)) ?_
      refine ranStill_ite (.done (.refl _)) ?_
      split
      · exact .done (.refl _)
      · exact ranStill_ite (.done (.refl _)) (.goesOn (Steady.toStill (steady_enqueue ..)))

theorem ranStill_schedUnloadBody (base : BitVec 42) (s : State) (q : Req) : RanStill s (schedUnloadBody base s q) := by
  unfold schedUnloadBody
  refine ranStill_withCtx fun _ => ?_
  refine ranStill_ite (.done (.refl _)) ?_
  refine ranStill_ite ?_ ?_
  · exact .done (.refl _)
  · exact ranStill_ite (.done (.refl _)) (.done (Steady.toStill (.update (.refl _))))

theorem ranStill_schedStepsetBody (base off : BitVec 42) (n : BitVec 4) (s : State) (q : Req) :
    RanStill s (schedStepsetBody base off n s q) := by
  unfold schedStepsetBody
  refine ranStill_ite (.done (.refl _)) ?_
  refine ranStill_withObj fun _ => ?_
  refine ranStill_ite (.done (.refl _)) ?_
  refine ranStill_ite (.waits) ?_
  refine ranStill_ite (.done (.refl _)) ?_
  split
  · refine ranStill_ite (.done (.refl _)) ?_
    refine ranStill_ite (.done (.refl _)) ?_
    dsimp only
    split
    · exact .done (Steady.toStill (kept_takeFree ..).steady)
    · exact .done (Steady.toStill ((kept_takeFree ..).steady.trans (kept_modPtn ..).steady))
  · exact .done (.refl _)

theorem ranStill_schedStepfreeBody (no : BitVec 4) (s : State) (q : Req) : RanStill s (schedStepfreeBody no s q) := by
  unfold schedStepfreeBody
  refine ranStill_withCtx fun _ => ?_
  refine ranStill_ite ?_ ?_
  · exact .done (.refl _)
  · exact ranStill_ite (.done (.refl _)) (.done (Steady.toStill (kept_modPtn ..).steady))

/-! ### Sequences and handles -/

theorem steady_putGlob (s : State) (index : Nat) : Steady s (s.putGlob index) := by
  unfold State.putGlob
  split
  · exact .refl _
  · split
    · exact steady_ite (.refl _) (steady_writePage ..)
    · exact .refl _

theorem ranStill_withSeq {q : Req} {no : BitVec 32} {s : State} {f : CtxNo → Seq → Ran} (h : ∀ c x, RanStill s (f c x)) :
    RanStill s (withSeq q no s f) := by
  refine ranStill_withCtx fun c => ?_
  split
  · exact .done (.refl _)
  · exact h ..
  · exact .done (.refl _)

theorem ranStill_withIdleSeq {q : Req} {no : BitVec 32} {s : State} {f : CtxNo → Seq → Ran} (h : ∀ c x, RanStill s (f c x)) :
    RanStill s (withIdleSeq q no s f) :=
  ranStill_withSeq fun c x => ranStill_ite .waits (h c x)

theorem steady_chooseIndex (s : State) (p : Nat) (x : Partition) : Steady s (s.chooseIndex p x).1 := by
  unfold State.chooseIndex
  refine steady_ite_fst ?_ ?_
  · exact (kept_takeFree ..).steady
  · exact steady_ite_fst (kept_takeFree ..).steady (kept_takeFree ..).steady

theorem ranStill_seqOpenBody (a : SeqOpenArgs) (s : State) (q : Req) : RanStill s (seqOpenBody a s q) := by
  unfold seqOpenBody
  refine ranStill_withCtx fun _ => ?_
  dsimp only
  split
  · exact .done (.refl _)
  · refine ranStill_ite (.done (.refl _)) ?_
    refine ranStill_ite (.done (.refl _)) ?_
    refine ranStill_ite (.done (.refl _)) ?_
    refine ranStill_ite (.done (.refl _)) ?_
    split
    next t e =>
      have h := Steady.fst (steady_chooseIndex ..) e
      exact .done (Steady.toStill (h))
    next t _ e =>
      have h := Steady.fst (steady_chooseIndex ..) e
      refine ranStill_ite ?_ (.done (Steady.toStill (h)))
      refine .done ?_
      refine Steady.toStill ?_
      refine steady_ite ?_ ?_
      · exact ((Steady.update (h)).trans (kept_layNodes ..).steady).trans (kept_queueRecompute ..).steady
      · exact (Steady.update (h)).trans (kept_layNodes ..).steady

theorem steady_closeSeq (s : State) (x : Seq) : Steady s (s.closeSeq x) := by
  unfold State.closeSeq
  refine .trans ?_ (steady_settleHandles ..)
  exact ((Steady.update (.refl _)).trans (kept_invalidate ..).steady).trans (kept_modPtn ..).steady

theorem ranStill_seqCloseBody (no : BitVec 32) (s : State) (q : Req) : RanStill s (seqCloseBody no s q) := by
  unfold seqCloseBody
  refine ranStill_withCtx fun _ => ?_
  split
  · exact .done (.refl _)
  · refine ranStill_ite (.done (.refl _)) ?_
    refine ranStill_ite ?_ ?_
    · exact .waits
    · exact .done (Steady.toStill ((steady_closeSeq ..).trans (kept_quotaClear ..).steady))

theorem ranStill_seqQueryBody (no : BitVec 32) (host : BitVec 64) (s : State) (q : Req) :
    RanStill s (seqQueryBody no host s q) := by
  unfold seqQueryBody
  refine ranStill_withCtx fun _ => ?_
  split
  · exact .done (.refl _)
  · exact ranStill_ite (.done (.refl _)) (.done (Steady.toStill (steady_writeHostOf ..)))

theorem ranStill_kvGlobalBody (no : BitVec 32) (n : BitVec 7) (clear : Bool) (base off : BitVec 42) (s : State) (q : Req) :
    RanStill s (kvGlobalBody no n clear base off s q) := by
  unfold kvGlobalBody
  refine ranStill_ite (.done (.refl _)) ?_
  refine ranStill_withIdleSeq fun _ _ => ?_
  refine ranStill_ite (.done (Steady.toStill ((kept_modSeq ..).steady.trans (steady_putGlob ..)))) ?_
  refine ranStill_withObj fun _ => ?_
  refine ranStill_ite (.done (.refl _)) ?_
  refine ranStill_ite (.waits) ?_
  refine ranStill_ite (.done (.refl _)) ?_
  refine ranStill_ite ?_ ?_
  · exact .done (Steady.toStill ((kept_modSeq ..).steady.trans (steady_putGlob ..)))
  · exact .done (.refl _)

theorem steady_commitDrafts (s : State) (x : Seq) (a : Nat) : Steady s (s.commitDrafts x a) := by
  unfold State.commitDrafts
  refine steady_ite ?_ ?_
  · exact (kept_modSeq ..).steady.trans (kept_queueRecompute ..).steady
  · exact (kept_modSeq ..).steady

theorem ranStill_kvCommitBody (no : BitVec 32) (a : BitVec 5) (s : State) (q : Req) : RanStill s (kvCommitBody no a s q) := by
  unfold kvCommitBody
  refine ranStill_ite ?_ ?_
  · exact .done (.refl _)
  · exact ranStill_withIdleSeq (fun _ _ => ranStill_ite (.done (.refl _)) (.done (Steady.toStill (steady_commitDrafts ..))))

theorem steady_rollback (s : State) (x : Seq) : Steady s (s.rollback x) :=
  ((kept_putLogs ..).steady.trans (kept_invalidate ..).steady).trans (kept_modSeq ..).steady

theorem ranStill_kvRollbackBody (no : BitVec 32) (s : State) (q : Req) : RanStill s (kvRollbackBody no s q) := by
  unfold kvRollbackBody
  refine ranStill_withIdleSeq fun _ _ => ?_
  refine ranStill_ite ?_ ?_
  · exact .done (.refl _)
  · exact .done (Steady.toStill ((steady_rollback ..).trans (kept_quotaClear ..).steady))

theorem ranStill_kvDropBody (no : BitVec 32) (n : BitVec 24) (s : State) (q : Req) : RanStill s (kvDropBody no n s q) := by
  unfold kvDropBody
  refine ranStill_ite ?_ ?_
  · exact .done (.refl _)
  · exact ranStill_withIdleSeq (fun _ _ => .done (Steady.toStill ((kept_dropPages ..).steady.trans (kept_quotaClear ..).steady)))

theorem ranStill_pfxRegisterBody (no : BitVec 32) (p : BitVec 23) (s : State) (q : Req) :
    RanStill s (pfxRegisterBody no p s q) := by
  unfold pfxRegisterBody
  refine ranStill_ite (.done (.refl _)) ?_
  refine ranStill_withIdleSeq fun _ _ => ?_
  refine ranStill_ite (.done (.refl _)) ?_
  refine ranStill_ite (.done (.refl _)) ?_
  refine ranStill_ite (.done (.refl _)) ?_
  refine ranStill_ite (.waits) ?_
  dsimp only
  split
  · exact .done (Steady.toStill (kept_takeFree ..).steady)
  · refine .done ?_
    refine Steady.toStill ?_
    refine .trans ?_ (kept_modSeq ..).steady
    exact Steady.update ((kept_takeFree ..).steady.trans (steady_takeDraw ..))

theorem ranStill_pfxReleaseBody (v : BitVec 64) (s : State) (q : Req) : RanStill s (pfxReleaseBody v s q) := by
  unfold pfxReleaseBody
  refine ranStill_withCtx fun _ => ?_
  split
  · exact .done (.refl _)
  · refine ranStill_ite ?_ ?_
    · exact .done (Steady.toStill (((Steady.update (.refl _)).trans (steady_settleHandles ..)).trans (kept_quotaClear ..).steady))
    · exact .done (.refl _)

/-! ### Observation -/

theorem steady_takeWatch (s : State) (c : CtxNo) (i : Nat) (a : WatchArgs) (tag : Nat) : Steady s (s.takeWatch c i a tag) := by
  unfold State.takeWatch
  dsimp only
  split
  · exact steady_setWatchResult ..
  · exact steady_ite (steady_setWatchResult ..) (.update (steady_setWatchResult ..))

theorem steady_takeWatches (s : State) (r : Run) (p : WatchArgs → Bool) : Steady s (s.takeWatches r p) :=
  steady_ite (steady_foldl (fun _ _ => steady_takeWatch ..) ..) (.refl _)

theorem steady_tileWatches (s : State) (r : Run) : Steady s (s.tileWatches r) := steady_takeWatches ..

theorem steady_writeTrace (s : State) (r : Run) (ns fMin phase : Nat) : Steady s (s.writeTrace r ns fMin phase) := by
  unfold State.writeTrace
  split
  · split
    · exact .refl _
    · refine .trans ?_ (kept_modCtx ..).steady
      refine steady_ite ?_ ?_
      · exact steady_nodeFault ..
      · exact steady_ite (.refl _) ((kept_writeObj ..).steady.trans (kept_writeObj ..).steady)
  · exact .refl _

theorem ranStill_watchSetBody (a : WatchArgs) (s : State) (q : Req) : RanStill s (watchSetBody a s q) := by
  unfold watchSetBody
  refine ranStill_withCtx fun _ => ?_
  refine ranStill_ite ?_ ?_
  · exact .done (.refl _)
  · exact ranStill_ite (.waits) (.done (Steady.toStill (kept_modCtx ..).steady))

theorem ranStill_watchClearBody (mask : BitVec 16) (s : State) (q : Req) : RanStill s (watchClearBody mask s q) := by
  unfold watchClearBody
  refine ranStill_ite ?_ ?_
  · exact .done (.refl _)
  · exact ranStill_withCtx (fun _ => ranStill_ite (.waits) (.done (Steady.toStill (kept_modCtx ..).steady)))

theorem ranStill_watchReadBody (i : BitVec 4) (host : BitVec 64) (s : State) (q : Req) :
    RanStill s (watchReadBody i host s q) := ranStill_withCtx (fun _ => .done (Steady.toStill (steady_writeHostOf ..)))

theorem ranStill_watchTraceBody (base off : BitVec 42) (n : BitVec 32) (s : State) (q : Req) :
    RanStill s (watchTraceBody base off n s q) := by
  unfold watchTraceBody
  refine ranStill_withCtx fun _ => ?_
  refine ranStill_ite (.done (Steady.toStill (kept_modCtx ..).steady)) ?_
  refine ranStill_ite (.done (.refl _)) ?_
  split
  · exact .done (.refl _)
  · exact ranStill_ite (.done (.refl _)) (.done (Steady.toStill (kept_modCtx ..).steady))

theorem ranStill_ctrReadBody (kind : BitVec 2) (host : BitVec 64) (s : State) (q : Req) :
    RanStill s (ctrReadBody kind host s q) := by
  unfold ctrReadBody
  refine ranStill_withCtx fun _ => ?_
  refine ranStill_ite (.done (Steady.toStill (steady_writeHostOf ..))) ?_
  refine ranStill_ite (.done (.refl _)) ?_
  split
  · exact .done (.refl _)
  · exact .done (Steady.toStill (steady_writeHostOf ..))

theorem ranStill_ctrClearBody (s : State) (q : Req) : RanStill s (ctrClearBody s q) :=
  ranStill_withCtx (fun _ => ranStill_ite (.waits) (.done (Steady.toStill (kept_modCtx ..).steady)))

/-! ### Admission -/

theorem steady_describe (s : State) (p : Nat) (ctx : CtxNo) (img : Image) (slots : List Slot) :
    Steady s (s.describe p ctx img slots) := by
  unfold State.describe
  split
  · exact .refl _
  · exact steady_foldl (fun _ _ => .update (.refl _)) ..

theorem steady_admitPage (s : State) (p low n : Nat) (sl : Slot) (index page : Nat) :
    Steady s (s.admitPage p low n sl index page).1 := by
  unfold State.admitPage
  dsimp only
  split
  · exact .refl _
  · refine steady_ite_fst (.refl _) ?_
    split
    next t e =>
      have h := Steady.fst (kept_alloc ..).steady e
      exact h
    next t _ e =>
      have h := Steady.fst (kept_alloc ..).steady e
      refine steady_ite_fst ?_ ?_
      · refine .trans ?_ (kept_count ..).steady
        refine .trans ?_ (kept_layNodes ..).steady
        refine .trans ?_ (kept_modSeq ..).steady
        split
        · exact steady_ite (h.trans (steady_copyPage ..)) (h.trans (kept_undefineUnits ..).steady)
        · exact h.trans (kept_undefineUnits ..).steady
      · refine .trans ?_ (kept_modSeq ..).steady
        refine .trans ?_ (kept_modSeq ..).steady
        split
        · exact steady_ite (h.trans (steady_copyPage ..)) (h.trans (kept_undefineUnits ..).steady)
        · exact h.trans (kept_undefineUnits ..).steady

theorem steady_admitPages (s : State) (p low n index : Nat) (sl : Slot) (xs : List Nat) :
    Steady s (s.admitPages p low n index sl xs).1 := by
  induction xs generalizing s sl with
  | nil =>
    exact .refl _
  | cons g gs ih =>
    unfold State.admitPages
    split
    next t _ e =>
      have h := Steady.fst (steady_admitPage ..) e
      exact h.trans (ih ..)
    next t e =>
      have h := Steady.fst (steady_admitPage ..) e
      exact h.trans (kept_restoreSlot ..).steady

theorem steady_admitSlot (s : State) (p : Nat) (r : Run) (img : Image) (sl : Slot) : Steady s (s.admitSlot p r img sl).1 := by
  unfold State.admitSlot
  dsimp only
  split
  · split
    · exact .refl _
    · split
      next t e =>
        have h := Steady.fst (steady_admitPages ..) e
        exact h
      next t _ e =>
        have h := Steady.fst (steady_admitPages ..) e
        split
        · exact h
        · refine steady_ite_fst ?_ ?_
          · refine .trans ?_ (kept_modPtn ..).steady
            exact ((h.trans (kept_putLogs ..).steady).trans (steady_putGlob ..)).trans (kept_modSeq ..).steady
          · exact ((h.trans (kept_putLogs ..).steady).trans (steady_putGlob ..)).trans (kept_modSeq ..).steady
  · exact .refl _

theorem steady_admitSlots (s : State) (p : Nat) (r : Run) (img : Image) (ok xs : List Slot) :
    Steady s (s.admitSlots p r img ok xs).1 := by
  induction xs generalizing s ok with
  | nil =>
    exact .refl _
  | cons sl rest ih =>
    unfold State.admitSlots
    split
    next t _ e =>
      have h := Steady.fst (steady_admitSlot ..) e
      exact h.trans (ih ..)
    next t _ e =>
      have h := Steady.fst (steady_admitSlot ..) e
      exact steady_ite_fst (h.trans (ih ..)) (h.trans (kept_restoreSlots ..).steady)

theorem steady_admitRun (s : State) (p : Nat) (r : Run) : Steady s (s.admitRun p r).1 := by
  unfold State.admitRun
  dsimp only
  split
  · exact .refl _
  · split
    next t _ e =>
      have h := Steady.fst (steady_admitSlots ..) e
      exact h
    next t _ e =>
      have h := Steady.fst (steady_admitSlots ..) e
      exact (h.trans (steady_settleHandles ..)).trans (steady_describe ..)

/-! ### Power and ageing -/

theorem steady_setIslands (s : State) (is : List Nat) : Steady s (s.setIslands is) := .update (.refl _)

theorem steady_setClocks (s : State) : Steady s s.setClocks :=
  (steady_setIslands ..).trans (steady_foldl (fun _ _ => (kept_modPtn ..).steady) ..)

theorem steady_setDegraded (s : State) (p : Nat) (x : Partition) : Steady s (s.setDegraded p x) := by
  unfold State.setDegraded
  refine steady_ite ?_ ?_
  · exact (kept_modPtn ..).steady.trans (told_breach ..).steady
  · exact steady_ite ((kept_modPtn ..).steady.trans (told_restored ..).steady) (.refl _)

theorem steady_checkEnded (s : State) (c : CtxNo) : Steady s (s.checkEnded c) := by
  unfold State.checkEnded
  split
  · exact .refl _
  · exact steady_foldl (fun _ _ => (kept_checkReserved ..).steady) ..

theorem steady_divideAt (s : State) (p : Nat) (next : Option (Run × Nat)) : Steady s (s.divideAt p next) := by
  unfold State.divideAt
  split
  · exact .refl _
  · exact (kept_modPtn ..).steady.trans (steady_setDegraded ..)

theorem steady_updatePhase (s : State) (p : Nat) (r : Run) : Steady s (s.updatePhase p r) := by
  unfold State.updatePhase
  split
  · exact (Steady.update (.refl _)).trans (kept_modPtn ..).steady
  · exact .refl _

theorem steady_powerEstimateEffect (p : Fin 8) (mw : Nat) (s : State) : Steady s (powerEstimateEffect p mw s) :=
  steady_ite (.refl _) (kept_modPtn ..).steady

theorem steady_setLimits (s : State) (acting : BitVec 5) (ceiling : Nat) : Steady s (s.setLimits acting ceiling) := by
  unfold State.setLimits
  refine steady_ite (.refl _) ?_
  refine .trans ?_ (told_guardLimits ..).steady
  refine steady_ite ?_ ?_
  · refine .trans ?_ (told_report ..).steady
    refine .trans ?_ (told_eventMgmts ..).steady
    refine .trans ?_ (told_eventHosts ..).steady
    exact ((Steady.update (.refl _)).trans (steady_setClocks ..)).trans (told_refreshHolds ..).steady
  · exact ((Steady.update (.refl _)).trans (steady_setClocks ..)).trans (told_refreshHolds ..).steady

theorem steady_tempReadoutEffect (die : BitVec 8) (temps : Vector (BitVec 8) 6) (s : State) :
    Steady s (tempReadoutEffect die temps s) := by
  unfold tempReadoutEffect
  refine steady_ite ?_ ?_
  · exact .update (.update (.refl _))
  · exact (Steady.update (.update (.refl _))).trans (steady_setLimits ..)

theorem steady_ceilingStepEffect (s : State) : Steady s (ceilingStepEffect s) := by
  unfold ceilingStepEffect
  refine steady_ite (.refl _) ?_
  refine steady_ite ?_ (steady_ite (steady_setLimits ..) (steady_ite (steady_setLimits ..) (.refl _)))
  refine steady_ite ?_ ?_
  · exact (kept_takeFree ..).steady.trans (steady_setLimits ..)
  · exact (kept_takeFree ..).steady.trans (steady_setLimits ..)

theorem steady_inputUndervoltageEffect (s : State) : Steady s (inputUndervoltageEffect s) := steady_setLimits ..

theorem steady_inputVoltageRestoredEffect (s : State) : Steady s (inputVoltageRestoredEffect s) := steady_setLimits ..

theorem steady_railOvercurrentEffect (s : State) : Steady s (railOvercurrentEffect s) :=
  steady_ite (.refl _) (steady_setLimits ..)

theorem steady_ageingReplanEffect (i : Fin 152) (margins : Vector (BitVec 16) 4) (s : State) :
    Steady s (ageingReplanEffect i margins s) := by
  unfold ageingReplanEffect
  refine steady_ite (.refl _) ?_
  refine .trans ?_ (told_guardLimits ..).steady
  refine steady_ite ?_ ?_
  · refine .trans ?_ (told_ageingEvent ..).steady
    refine steady_ite ?_ ?_
    · refine .trans ?_ (told_ageingEvent ..).steady
      refine steady_ite ?_ ?_
      · refine .trans ?_ (told_ageingEvent ..).steady
        refine steady_ite ?_ ?_
        · refine .trans ?_ (told_ageingEvent ..).steady
          refine steady_ite ?_ ((Steady.update (.update (.refl _))).trans (steady_setClocks ..))
          refine .trans ?_ (flashOnly_record ..).steady
          exact (Steady.update (.update (.refl _))).trans (steady_setClocks ..)
        · refine steady_ite ?_ ((Steady.update (.update (.refl _))).trans (steady_setClocks ..))
          refine .trans ?_ (flashOnly_record ..).steady
          exact (Steady.update (.update (.refl _))).trans (steady_setClocks ..)
      · refine steady_ite ?_ ?_
        · refine .trans ?_ (told_ageingEvent ..).steady
          refine steady_ite ?_ ((Steady.update (.update (.refl _))).trans (steady_setClocks ..))
          refine .trans ?_ (flashOnly_record ..).steady
          exact (Steady.update (.update (.refl _))).trans (steady_setClocks ..)
        · refine steady_ite ?_ ((Steady.update (.update (.refl _))).trans (steady_setClocks ..))
          refine .trans ?_ (flashOnly_record ..).steady
          exact (Steady.update (.update (.refl _))).trans (steady_setClocks ..)
    · refine steady_ite ?_ ?_
      · refine .trans ?_ (told_ageingEvent ..).steady
        refine steady_ite ?_ ?_
        · refine .trans ?_ (told_ageingEvent ..).steady
          refine steady_ite ?_ ((Steady.update (.update (.refl _))).trans (steady_setClocks ..))
          refine .trans ?_ (flashOnly_record ..).steady
          exact (Steady.update (.update (.refl _))).trans (steady_setClocks ..)
        · refine steady_ite ?_ ((Steady.update (.update (.refl _))).trans (steady_setClocks ..))
          refine .trans ?_ (flashOnly_record ..).steady
          exact (Steady.update (.update (.refl _))).trans (steady_setClocks ..)
      · refine steady_ite ?_ ?_
        · refine .trans ?_ (told_ageingEvent ..).steady
          refine steady_ite ?_ ((Steady.update (.update (.refl _))).trans (steady_setClocks ..))
          refine .trans ?_ (flashOnly_record ..).steady
          exact (Steady.update (.update (.refl _))).trans (steady_setClocks ..)
        · refine steady_ite ?_ ((Steady.update (.update (.refl _))).trans (steady_setClocks ..))
          refine .trans ?_ (flashOnly_record ..).steady
          exact (Steady.update (.update (.refl _))).trans (steady_setClocks ..)
  · refine steady_ite ?_ ?_
    · refine .trans ?_ (told_ageingEvent ..).steady
      refine steady_ite ?_ ?_
      · refine .trans ?_ (told_ageingEvent ..).steady
        refine steady_ite ?_ ?_
        · refine .trans ?_ (told_ageingEvent ..).steady
          refine steady_ite ?_ ((Steady.update (.update (.refl _))).trans (steady_setClocks ..))
          refine .trans ?_ (flashOnly_record ..).steady
          exact (Steady.update (.update (.refl _))).trans (steady_setClocks ..)
        · refine steady_ite ?_ ((Steady.update (.update (.refl _))).trans (steady_setClocks ..))
          refine .trans ?_ (flashOnly_record ..).steady
          exact (Steady.update (.update (.refl _))).trans (steady_setClocks ..)
      · refine steady_ite ?_ ?_
        · refine .trans ?_ (told_ageingEvent ..).steady
          refine steady_ite ?_ ((Steady.update (.update (.refl _))).trans (steady_setClocks ..))
          refine .trans ?_ (flashOnly_record ..).steady
          exact (Steady.update (.update (.refl _))).trans (steady_setClocks ..)
        · refine steady_ite ?_ ((Steady.update (.update (.refl _))).trans (steady_setClocks ..))
          refine .trans ?_ (flashOnly_record ..).steady
          exact (Steady.update (.update (.refl _))).trans (steady_setClocks ..)
    · refine steady_ite ?_ ?_
      · refine .trans ?_ (told_ageingEvent ..).steady
        refine steady_ite ?_ ?_
        · refine .trans ?_ (told_ageingEvent ..).steady
          refine steady_ite ?_ ((Steady.update (.update (.refl _))).trans (steady_setClocks ..))
          refine .trans ?_ (flashOnly_record ..).steady
          exact (Steady.update (.update (.refl _))).trans (steady_setClocks ..)
        · refine steady_ite ?_ ((Steady.update (.update (.refl _))).trans (steady_setClocks ..))
          refine .trans ?_ (flashOnly_record ..).steady
          exact (Steady.update (.update (.refl _))).trans (steady_setClocks ..)
      · refine steady_ite ?_ ?_
        · refine .trans ?_ (told_ageingEvent ..).steady
          refine steady_ite ?_ ((Steady.update (.update (.refl _))).trans (steady_setClocks ..))
          refine .trans ?_ (flashOnly_record ..).steady
          exact (Steady.update (.update (.refl _))).trans (steady_setClocks ..)
        · refine steady_ite ?_ ((Steady.update (.update (.refl _))).trans (steady_setClocks ..))
          refine .trans ?_ (flashOnly_record ..).steady
          exact (Steady.update (.update (.refl _))).trans (steady_setClocks ..)

theorem steady_capChanged (old who : Nat) (s : State) : Steady s (State.capChanged old who s) :=
  steady_ite (.refl _) ((told_eventHosts ..).steady.trans (told_eventMgmts ..).steady)

theorem steady_commitDevice (s : State) (regs : List DReg) : Steady s (s.commitDevice regs).1 :=
  (steady_commitDev ..).trans (steady_capChanged ..)

theorem ranStill_pwrCapBody (host floor : BitVec 10) (s : State) (q : Req) : RanStill s (pwrCapBody host floor s q) := by
  unfold pwrCapBody
  dsimp only
  refine .done ?_
  refine Steady.toStill ?_
  refine .trans ?_ (steady_commitDevice ..)
  exact steady_ite (steady_stageDev ..) ((steady_stageDev ..).trans (steady_stageDev ..))

theorem steady_clearPhases (s : State) (p : Nat) : Steady s (s.clearPhases p) := (kept_modPtn ..).steady

theorem ranStill_pwrModeBody (mode drizzle clear : Bool) (p : BitVec 3) (s : State) (q : Req) :
    RanStill s (pwrModeBody mode drizzle clear p s q) := by
  unfold pwrModeBody
  dsimp only
  refine ranStill_ite (.done (.refl _)) ?_
  refine .done ?_
  refine Steady.toStill ?_
  refine steady_ite ?_ ?_
  · exact ((steady_stageDev ..).trans (steady_commitDevice ..)).trans (steady_clearPhases ..)
  · exact (steady_stageDev ..).trans (steady_commitDevice ..)

theorem ranStill_pwrQueryBody (kind : BitVec 2) (p : BitVec 3) (island : BitVec 8) (point : BitVec 4) (s : State) (q : Req) :
    RanStill s (pwrQueryBody kind p island point s q) := by
  unfold pwrQueryBody
  dsimp only
  split
  · exact .done (.refl _)
  · split
    · exact .done (.refl _)
    · exact .done (.refl _)
  · exact ranStill_ite (.done (.refl _)) (ranStill_ite (.done (.refl _)) (.done (.refl _)))
  · exact ranStill_ite (.done (.refl _)) (ranStill_ite (.done (.refl _)) (.done (.refl _)))

/-! ### Weights and sessions -/

theorem steady_modWeight (s : State) (c : CtxNo) (base : BitVec 42) (f : WeightObj → WeightObj) :
    Steady s (s.modWeight c base f) := .update (.refl _)

theorem steady_readyShards (s : State) (w : WeightObj) : Steady s (s.readyShards w) :=
  steady_ite (.refl _) (steady_modWeight ..)

theorem steady_settleWeights (s : State) (w : WeightObj) : Steady s (s.settleWeights w) := by
  unfold State.settleWeights
  refine steady_ite (.refl _) ?_
  dsimp only
  split
  · split
    · exact (steady_modWeight ..).trans (kept_finish ..).steady
    · exact steady_modWeight ..
  · split
    · refine .trans ?_ (kept_finish ..).steady
      exact ((steady_modWeight ..).trans (kept_forgetOld ..).steady).trans (kept_event ..).steady
    · exact ((steady_modWeight ..).trans (kept_forgetOld ..).steady).trans (kept_event ..).steady
  · split
    · refine .trans ?_ (kept_finish ..).steady
      exact ((steady_modWeight ..).trans (kept_forgetOld ..).steady).trans (kept_event ..).steady
    · exact ((steady_modWeight ..).trans (kept_forgetOld ..).steady).trans (kept_event ..).steady
  · exact .refl _

theorem steady_endRefetches (s : State) (w : WeightObj) (p : Refetch → Bool) : Steady s (s.endRefetches w p) := by
  unfold State.endRefetches
  refine .trans ?_ (steady_modWeight ..)
  split
  · exact steady_ite (steady_foldl (fun _ _ => (kept_zeroTier ..).steady) ..) (.refl _)
  · exact .refl _

theorem steady_shardArrives (s : State) (fromLibrary : Bool) (w : WeightObj) (tile : Nat) (bs : List Byte) :
    Steady s (s.shardArrives fromLibrary w tile bs) := by
  unfold State.shardArrives
  dsimp only
  split
  · split
    · refine steady_ite (.refl _) ?_
      refine steady_ite ?_ ?_
      · split
        · refine .trans ?_ (steady_settleWeights ..)
          refine .trans ?_ (steady_modWeight ..)
          refine .trans ?_ (steady_modWeight ..)
          refine .trans ?_ (steady_endRefetches ..)
          refine steady_ite ?_ ?_
          · exact ((kept_writeObj ..).steady.trans (kept_countTiers ..).steady).trans (kept_count ..).steady
          · refine .trans ?_ (kept_count ..).steady
            exact ((kept_writeObj ..).steady.trans (kept_countTiers ..).steady).trans (kept_count ..).steady
        · refine .trans ?_ (steady_modWeight ..)
          refine .trans ?_ (steady_modWeight ..)
          refine .trans ?_ (steady_endRefetches ..)
          refine steady_ite ?_ ?_
          · exact ((kept_writeObj ..).steady.trans (kept_countTiers ..).steady).trans (kept_count ..).steady
          · refine .trans ?_ (kept_count ..).steady
            exact ((kept_writeObj ..).steady.trans (kept_countTiers ..).steady).trans (kept_count ..).steady
      · refine steady_ite ?_ ?_
        · refine .trans ?_ (kept_event ..).steady
          refine .trans ?_ (steady_modWeight ..)
          refine .trans ?_ (steady_modWeight ..)
          refine .trans ?_ (steady_endRefetches ..)
          refine steady_ite ?_ ?_
          · exact ((kept_writeObj ..).steady.trans (kept_countTiers ..).steady).trans (kept_count ..).steady
          · refine .trans ?_ (kept_count ..).steady
            exact ((kept_writeObj ..).steady.trans (kept_countTiers ..).steady).trans (kept_count ..).steady
        · refine .trans ?_ (sends_request ..).steady
          refine .trans ?_ (steady_modWeight ..)
          refine .trans ?_ (steady_modWeight ..)
          refine .trans ?_ (steady_endRefetches ..)
          refine steady_ite ?_ ?_
          · exact ((kept_writeObj ..).steady.trans (kept_countTiers ..).steady).trans (kept_count ..).steady
          · refine .trans ?_ (kept_count ..).steady
            exact ((kept_writeObj ..).steady.trans (kept_countTiers ..).steady).trans (kept_count ..).steady
    · split
      · refine steady_ite (.refl _) ?_
        refine steady_ite ?_ (sends_request ..).steady
        refine steady_ite (((kept_writeTier ..).steady.trans (steady_modWeight ..)).trans (kept_count ..).steady) ?_
        refine .trans ?_ (kept_count ..).steady
        exact ((kept_writeTier ..).steady.trans (steady_modWeight ..)).trans (kept_count ..).steady
      · exact .refl _
  · exact .refl _

theorem steady_shardReceiveEffect (c : CtxNo) (base : BitVec 42) (tile : Nat) (bs : List Byte) (s : State) :
    Steady s (shardReceiveEffect c base tile bs s) := by
  unfold shardReceiveEffect
  split
  · exact steady_shardArrives ..
  · exact .refl _

theorem steady_shardMissingEffect (c : CtxNo) (base : BitVec 42) (tile : Nat) (s : State) :
    Steady s (shardMissingEffect c base tile s) := by
  unfold shardMissingEffect
  split
  · exact .refl _
  · split
    · exact .refl _
    · refine steady_ite (.refl _) ?_
      refine steady_ite ?_ ?_
      · exact ((steady_modWeight ..).trans (sends_request ..).steady).trans (kept_event ..).steady
      · exact (steady_modWeight ..).trans (sends_request ..).steady

theorem steady_reloadEffect (s : State) (c : CtxNo) (base : BitVec 42) : Steady s (s.reloadEffect c base) := by
  unfold State.reloadEffect
  split
  · exact .refl _
  · exact steady_ite (.refl _) ((steady_modWeight ..).trans (steady_settleWeights ..))

theorem steady_rollBackSwap (s : State) (w : WeightObj) (layer tile : Nat) : Steady s (s.rollBackSwap w layer tile) := by
  unfold State.rollBackSwap
  refine steady_ite ?_ ?_
  · dsimp only
    split
    · exact ((kept_event ..).steady.trans (steady_modWeight ..)).trans (kept_finish ..).steady
    · exact (kept_event ..).steady.trans (steady_modWeight ..)
  · dsimp only
    split
    · refine .trans ?_ (steady_reloadEffect ..)
      exact ((kept_event ..).steady.trans (steady_endRefetches ..)).trans (steady_modWeight ..)
    · refine steady_ite ?_ ?_
      · refine .trans ?_ (steady_reloadEffect ..)
        exact ((kept_event ..).steady.trans (steady_endRefetches ..)).trans (steady_modWeight ..)
      · refine steady_ite ?_ ?_
        · refine .trans ?_ (steady_reloadEffect ..)
          refine .trans ?_ (kept_discardRun ..).steady
          exact ((kept_event ..).steady.trans (steady_endRefetches ..)).trans (steady_modWeight ..)
        · refine .trans ?_ (kept_modPtn ..).steady
          exact ((kept_event ..).steady.trans (steady_endRefetches ..)).trans (steady_modWeight ..)

theorem steady_loseWeights (s : State) (w : WeightObj) : Steady s (s.loseWeights w) := by
  unfold State.loseWeights
  dsimp only
  split
  · refine steady_ite ?_ ?_
    · refine .trans ?_ (kept_endRun ..).steady
      split
      · exact ((steady_modWeight ..).trans (kept_event ..).steady).trans (kept_finish ..).steady
      · exact (steady_modWeight ..).trans (kept_event ..).steady
    · split
      · exact ((steady_modWeight ..).trans (kept_event ..).steady).trans (kept_finish ..).steady
      · exact (steady_modWeight ..).trans (kept_event ..).steady
  · split
    · exact ((steady_modWeight ..).trans (kept_event ..).steady).trans (kept_finish ..).steady
    · exact (steady_modWeight ..).trans (kept_event ..).steady

theorem steady_shardOverdueEffect (c : CtxNo) (base : BitVec 42) (tile : Nat) (s : State) :
    Steady s (shardOverdueEffect c base tile s) := by
  unfold shardOverdueEffect
  split
  · exact .refl _
  · split
    · exact .refl _
    · refine steady_ite (.refl _) ?_
      split
      · exact steady_rollBackSwap ..
      · exact steady_loseWeights ..
      · exact .refl _

theorem steady_waveReleaseEffect (p : Fin 8) (s : State) : Steady s (waveReleaseEffect p s) := by
  unfold waveReleaseEffect
  split
  · exact steady_ite (kept_modPtn ..).steady (.refl _)
  · exact .refl _

theorem steady_switchRefetch (s : State) (w : WeightObj) (x : Refetch) : Steady s (s.switchRefetch w x) := by
  unfold State.switchRefetch
  split
  · exact .refl _
  · refine steady_ite ?_ ?_
    · refine .trans ?_ (kept_zeroTier ..).steady
      exact ((kept_modObj ..).steady.trans (steady_modWeight ..)).trans (kept_invalidate ..).steady
    · exact ((kept_modObj ..).steady.trans (steady_modWeight ..)).trans (kept_invalidate ..).steady

theorem steady_weightsBoundary (s : State) (p : Nat) : Steady s (s.weightsBoundary p) := by
  unfold State.weightsBoundary
  refine .trans ?_ (sends_flush ..).steady
  refine steady_foldl (fun _ _ => ?_) _ _
  dsimp only
  split
  · split
    · refine .trans ?_ (steady_modWeight ..)
      refine .trans ?_ (steady_readyShards ..)
      refine steady_ite (steady_foldl (fun _ _ => steady_switchRefetch ..) ..) ?_
      refine .trans ?_ (kept_modPtn ..).steady
      exact (steady_foldl (fun _ _ => steady_switchRefetch ..) ..).trans (steady_modWeight ..)
    · refine steady_ite (steady_foldl (fun _ _ => steady_switchRefetch ..) ..) ?_
      refine .trans ?_ (kept_modPtn ..).steady
      exact (steady_foldl (fun _ _ => steady_switchRefetch ..) ..).trans (steady_modWeight ..)
  · exact (steady_foldl (fun _ _ => steady_switchRefetch ..) ..).trans (steady_reloadEffect ..)
  · exact steady_foldl (fun _ _ => steady_switchRefetch ..) ..

theorem steady_weightsReset (s : State) (p : Nat) : Steady s (s.weightsReset p) :=
  steady_foldl (fun _ _ => steady_rollBackSwap ..) ..

theorem steady_load (s : State) (q : Req) (c : CtxNo) (m : Option Manifest) (src : ShardSource) (prot : Bool) :
    Steady s (s.load q c m src prot).1 := by
  unfold State.load
  dsimp only
  split
  · exact .refl _
  · exact .refl _
  · refine steady_ite_fst (.refl _) ?_
    split
    next t _ e =>
      have h := Steady.fst (kept_createWeights ..).steady e
      exact h
    next t _ e =>
      have h := Steady.fst (kept_createWeights ..).steady e
      exact .update (h)

theorem steady_swap (s : State) (q : Req) (w : WeightObj) (m : Option Manifest) (src : ShardSource) (deadline : Nat) :
    Steady s (s.swap q w m src deadline).1 := by
  unfold State.swap
  split
  · exact .refl _
  · exact steady_ite_fst (.refl _) (steady_ite_fst (.refl _) (.pair (steady_modWeight ..)))

theorem steady_joinTree (s : State) (c : CtxNo) (no : BitVec 32) (reader : BitVec 16) : Steady s (s.joinTree c no reader) := by
  unfold State.joinTree
  dsimp only
  split
  · exact (steady_modFelt ..).trans (sends_sendControl ..).steady
  · exact steady_ite (.refl _) ((steady_modFelt ..).trans (sends_sendControl ..).steady)

theorem steady_manifestCame (s : State) (a : Awaited) (m : Option Manifest) : Steady s (s.manifestCame a m) := by
  unfold State.manifestCame
  dsimp only
  split
  · split
    next t e =>
      have h := (Steady.update (.refl _)).trans (Steady.fst (steady_load ..) e)
      exact h
    next t _ e =>
      have h := (Steady.update (.refl _)).trans (Steady.fst (steady_load ..) e)
      exact h.trans (kept_finish ..).steady
  · split
    · split
      next t e =>
        have h := (Steady.update (.refl _)).trans (Steady.fst (steady_swap ..) e)
        exact h
      next t _ e =>
        have h := (Steady.update (.refl _)).trans (Steady.fst (steady_swap ..) e)
        exact h.trans (kept_finish ..).steady
    · exact (Steady.update (.refl _)).trans (kept_finish ..).steady
  · exact .update (.refl _)

theorem steady_manifestPart (s : State) (a : Awaited) (off : Nat) (bs : List Byte) : Steady s (s.manifestPart a off bs) :=
  steady_ite ((Steady.update (.refl _)).trans (steady_manifestCame ..)) (.update (.refl _))

theorem steady_shardPart (s : State) (w : WeightObj) (off : Nat) (bs : List Byte) : Steady s (s.shardPart w off bs) := by
  unfold State.shardPart
  dsimp only
  split
  · exact steady_ite (.refl _) ((kept_writeObj ..).steady.trans (steady_modWeight ..))
  · exact .refl _

theorem steady_takeMulticast (s : State) (reader group : BitVec 16) (off : Nat) (bs : List Byte) :
    Steady s (s.takeMulticast reader group off bs) := by
  unfold State.takeMulticast
  refine .trans ?_ (steady_foldl (fun _ _ => steady_manifestPart ..) ..)
  exact steady_foldl (fun _ _ => steady_shardPart ..) ..

theorem steady_takeTrees (s : State) : Steady s s.takeTrees := by
  unfold State.takeTrees
  refine .trans ?_ (steady_foldl (fun _ _ => ?_) _ _)
  · exact steady_modFelt ..
  · split
    · exact steady_takeMulticast ..
    · exact .refl _

theorem still_multicastFrameEffect (k : Fin 8) (f : Frame) (s : State) : Still s (multicastFrameEffect k f s) := by
  unfold multicastFrameEffect
  refine still_ite (.refl _) ?_
  refine still_onFrame fun _ _ => ?_
  refine still_ite ?_ ?_
  · exact .refl _
  · exact ((still_feltWake ..).trans (steady_forward ..).toStill).trans (steady_takeTrees ..).toStill

theorem steady_sendGroup (s : State) (x : Serving) (bs : List Byte) : Steady s (s.sendGroup x bs) :=
  steady_foldl (fun _ _ => (steady_modFelt ..).trans (sends_send ..).steady) ..

theorem steady_modServing (s : State) (q : Req) (f : Serving → Serving) : Steady s (s.modServing q f) := .update (.refl _)

theorem steady_endSession (s : State) (x : Serving) (status : Nat) : Steady s (s.endSession x status) :=
  (Steady.update (.refl _)).trans (kept_finish ..).steady

theorem steady_resendRequestEffect (no : BitVec 32) (receiver : BitVec 16) (tile : Nat) (s : State) :
    Steady s (resendRequestEffect no receiver tile s) := .update (.refl _)

theorem steady_sessionLingerExpiryEffect (no : BitVec 32) (s : State) : Steady s (sessionLingerExpiryEffect no s) := by
  unfold sessionLingerExpiryEffect
  dsimp only
  split
  · exact .refl _
  · exact steady_endSession ..

theorem steady_serveShard (s : State) (x : Serving) (m : Manifest) (tile : Nat) (bs : List Byte) :
    Steady s (s.serveShard x m tile bs) := by
  unfold State.serveShard
  refine steady_ite (.refl _) ?_
  refine steady_ite ?_ (steady_ite (steady_endSession ..) (steady_modServing ..))
  refine steady_ite (((steady_modServing ..).trans (steady_sendGroup ..)).trans (steady_modServing ..)) ?_
  refine .trans ?_ (steady_modServing ..)
  refine .trans ?_ (steady_foldl (fun _ _ => steady_foldl (fun _ _ => steady_sendData ..) ..) ..)
  exact (steady_modServing ..).trans (kept_takeFree ..).steady

theorem steady_flashReadCompleteEffect (model : BitVec 64) (version : BitVec 32) (tile : Nat) (r : FlashRead) (s : State) :
    Steady s (flashReadCompleteEffect model version tile r s) := by
  unfold flashReadCompleteEffect
  split
  · exact .refl _
  · refine steady_ite (.refl _) ?_
    refine .trans ?_ (steady_copyWorn ..)
    refine .trans ?_ (steady_foldl (fun _ _ => ?_) _ _)
    · refine .trans ?_ (steady_foldl (fun _ _ => steady_ite (steady_serveShard ..) (.refl _)) ..)
      exact (flashOnly_countPages ..).steady
    · refine steady_ite ?_ (.refl _)
      split
      · exact steady_shardArrives ..
      · exact .refl _

theorem ranStill_wgtServeBody (model : BitVec 64) (version session : BitVec 32) (group linger : BitVec 16) (s : State) (q : Req)
    :
    RanStill s (wgtServeBody model version session group linger s q) := by
  unfold wgtServeBody
  split
  · exact .done (.refl _)
  · refine ranStill_ite ?_ ?_
    · exact .done (.refl _)
    · exact .goesOn (Steady.toStill ((Steady.update (.refl _)).trans (steady_sendGroup ..)))

theorem ranStill_wgtLoadBody (i : Instr) (src : WgtSource) (prot : Bool) (s : State) (q : Req) :
    RanStill s (wgtLoadBody i src prot s q) := by
  unfold wgtLoadBody
  refine ranStill_withCtx fun _ => ?_
  refine ranStill_ite (.done (.refl _)) ?_
  refine ranStill_ite ?_ (.goesOn (Steady.toStill ((Steady.update (.refl _)).trans (steady_joinTree ..))))
  split
  · exact .done (.refl _)
  · split
    next t e =>
      have h := Steady.fst (steady_load ..) e
      exact .goesOn (Steady.toStill (h))
    next t _ e =>
      have h := Steady.fst (steady_load ..) e
      exact .done (Steady.toStill (h))

theorem ranStill_wgtSwapBody (i : Instr) (base : BitVec 42) (deadline : BitVec 14) (src : WgtSource) (s : State) (q : Req) :
    RanStill s (wgtSwapBody i base deadline src s q) := by
  unfold wgtSwapBody
  refine ranStill_withCtx fun _ => ?_
  split
  · exact .done (.refl _)
  · refine ranStill_ite (.done (.refl _)) ?_
    refine ranStill_ite ?_ (.goesOn (Steady.toStill ((Steady.update (.refl _)).trans (steady_joinTree ..))))
    split
    · exact .done (.refl _)
    · split
      next t e =>
        have h := Steady.fst (steady_swap ..) e
        exact .goesOn (Steady.toStill (h))
      next t _ e =>
        have h := Steady.fst (steady_swap ..) e
        exact .done (Steady.toStill (h))

theorem ranStill_wgtReaderBody (base : BitVec 42) (session : BitVec 32) (reader : BitVec 16) (s : State) (q : Req) :
    RanStill s (wgtReaderBody base session reader s q) := by
  unfold wgtReaderBody
  refine ranStill_withCtx fun _ => ?_
  dsimp only
  split
  · exact .done (.refl _)
  · refine ranStill_ite ?_ ?_
    · exact .done (Steady.toStill ((steady_modWeight ..).trans (steady_foldl (fun _ _ => (sends_request ..).steady) ..)))
    · refine ranStill_ite ?_ ?_
      · exact .done (Steady.toStill ((Steady.update (.refl _)).trans (steady_joinTree ..)))
      · exact .done (.refl _)

theorem ranStill_wgtQueryBody (base : BitVec 42) (s : State) (q : Req) : RanStill s (wgtQueryBody base s q) := by
  unfold wgtQueryBody
  refine ranStill_withCtx fun _ => ?_
  split
  · exact .done (.refl _)
  · exact .done (.refl _)

theorem steady_dropWeights (s : State) (c : CtxNo) (base : BitVec 42) (status : Nat) :
    Steady s (s.dropWeights c base status) := by
  unfold State.dropWeights
  split
  · exact .refl _
  · dsimp only
    split
    · refine .trans ?_ (kept_finish ..).steady
      exact (Steady.update (steady_endRefetches ..)).trans (kept_dropObj ..).steady
    · exact (Steady.update (steady_endRefetches ..)).trans (kept_dropObj ..).steady

theorem ranStill_wgtFreeBody (base : BitVec 42) (s : State) (q : Req) : RanStill s (wgtFreeBody base s q) := by
  unfold wgtFreeBody
  refine ranStill_withNamed fun _ => ?_
  split
  · exact .done (.refl _)
  · refine ranStill_ite (.done (.refl _)) ?_
    refine ranStill_ite ?_ ?_
    · exact .waits
    · exact .done (Steady.toStill ((steady_dropWeights ..).trans (kept_quotaClear ..).steady))

end Sys2Proof.Machine
end

section
/-! SUPPORT. The queue and the time, function by function: the tiles, the controller, the beat ring and groups. -/

namespace Sys2Proof.Machine

/-! ### The narrow port -/

theorem steady_writeBack (s : State) (x : Coalesced) : Steady s (s.writeBack x) := .update (.refl _)

theorem steady_flushTile (s : State) (c t : Nat) : Steady s (s.flushTile c t) :=
  steady_foldl (fun _ _ => steady_writeBack ..) ..

theorem steady_narrowStoreEffect (c : Fin 8) (t : Fin 14) (space : BitVec 4) (byte : BitVec 24) (size : BitVec 2) (value :
    BitVec 32) (tag : Option CtxNo) (s : State) :
    Steady s (narrowStoreEffect c t space byte size value tag s) := by
  unfold narrowStoreEffect
  refine steady_ite (.refl _) ?_
  refine steady_ite (.update (.refl _)) ?_
  refine .update ?_
  split
  · exact steady_ite (steady_writeBack ..) (.refl _)
  · exact .refl _

theorem steady_narrowLoadEffect (c : Fin 8) (t : Fin 14) (space : BitVec 4) (byte : BitVec 24) (size : BitVec 2) (s : State) :
    Steady s (narrowLoadEffect c t space byte size s) := by
  unfold narrowLoadEffect
  refine steady_ite (.refl _) ?_
  dsimp only
  split
  · exact steady_ite (.update (.refl _)) (.update (steady_writeBack ..))
  · exact .update (.refl _)

theorem steady_coalesceWritebackEffect (c : Fin 8) (t : Fin 14) (space : BitVec 4) (line : BitVec 16) (s : State) :
    Steady s (coalesceWritebackEffect c t space line s) := by
  unfold coalesceWritebackEffect
  split
  · exact steady_writeBack ..
  · exact .refl _

theorem steady_applyLoads (s : State) (low n : Nat) : Steady s (s.applyLoads low n) := .update (.refl _)

/-! ### The stacked-memory controller -/

theorem steady_patrolScrubEffect (c : Fin 8) (line : Nat) (o : ReadOutcome) (s : State) :
    Steady s (patrolScrubEffect c line o s) := steady_ite (.refl _) (steady_meets ..)

theorem steady_copyTo (s : State) (stack rank bytes : Nat) : Steady s (s.copyTo stack rank bytes) := by
  unfold State.copyTo
  refine .trans ?_ (steady_modRanks ..)
  exact (kept_takeFree ..).steady.trans (steady_foldl (fun _ _ => steady_poisonLine ..) ..)

theorem steady_copyTick (s : State) (stack : Nat) : Steady s (s.copyTick stack) := by
  unfold State.copyTick
  split
  · exact .refl _
  · refine steady_ite ?_ ?_
    · exact .refl _
    · exact steady_ite ((kept_takeFree ..).steady.trans (steady_copyTo ..)) (kept_takeFree ..).steady

theorem steady_rankCopyDoneEffect (stack : Fin 6) (s : State) : Steady s (rankCopyDoneEffect stack s) := by
  unfold rankCopyDoneEffect
  split
  · exact .refl _
  · refine steady_ite (.refl _) ?_
    refine .trans ?_ (told_report ..).steady
    exact ((steady_copyTo ..).trans (steady_modRanks ..)).trans (told_eventMgmts ..).steady

theorem steady_refreshEffect (stack : Fin 6) (reading : BitVec 8) (s : State) : Steady s (refreshEffect stack reading s) :=
  .update (.refl _)

theorem steady_writeSpareCfg (s : State) (value : BitVec 32) : Steady s (s.writeSpareCfg value) := by
  unfold State.writeSpareCfg
  refine steady_ite (steady_ite (.update (.refl _)) (.refl _)) ?_
  refine steady_ite ?_ ?_
  · exact .update (.refl _)
  · exact (Steady.update (.refl _)).trans (steady_foldl (fun _ _ => steady_modRanks ..) ..)

theorem steady_unretire (s : State) (stack rank : Nat) : Steady s (s.unretire stack rank) := steady_modRanks ..

theorem steady_copyUnits (s : State) (cluster u v k : Nat) : Steady s (s.copyUnits cluster u v k) :=
  (kept_writeTier ..).steady.trans (steady_movePoison ..)

theorem steady_rehome (s : State) (cluster u v : Nat) : Steady s (s.rehome cluster u v) := by
  unfold State.rehome
  refine .trans ?_ (steady_foldl (fun _ _ => (kept_modPtn ..).steady) ..)
  exact Steady.update (steady_foldl (fun _ _ => steady_ite (.refl _) (kept_invalidate ..).steady) ..)

theorem steady_evacuateUnit (s : State) (cluster u : Nat) : Steady s (s.evacuateUnit cluster u) := by
  unfold State.evacuateUnit
  split
  · exact .refl _
  · exact (steady_copyUnits ..).trans (steady_rehome ..)

theorem steady_evacuateSamples (s : State) (p : Nat) (x : Partition) : Steady s (s.evacuateSamples p x) := by
  unfold State.evacuateSamples
  refine steady_foldl (fun _ _ => ?_) _ _
  dsimp only
  split
  · exact .refl _
  · exact (steady_copyUnits ..).trans (kept_modPtn ..).steady

theorem steady_evacuateOne (s : State) (x : Evacuee) : Steady s (s.evacuateOne x) := by
  unfold State.evacuateOne
  split
  · split
    · exact steady_startMigration ..
    · exact .refl _
  · exact steady_evacuateUnit ..

theorem steady_evacuate (s : State) (p : Nat) : Steady s (s.evacuate p) := by
  unfold State.evacuate
  split
  · exact .refl _
  · refine steady_ite ?_ ?_
    · refine .trans ?_ (steady_foldl (fun _ _ => steady_evacuateOne ..) ..)
      refine .trans ?_ (steady_evacuateSamples ..)
      split
      · exact (steady_copyUnits ..).trans (kept_modPtn ..).steady
      · exact .refl _
    · refine .trans ?_ (kept_modPtn ..).steady
      refine .trans ?_ (steady_foldl (fun _ _ => steady_evacuateOne ..) ..)
      refine .trans ?_ (steady_evacuateSamples ..)
      split
      · exact (steady_copyUnits ..).trans (kept_modPtn ..).steady
      · exact .refl _

/-! ### The beat ring and runs -/

theorem steady_modRun (s : State) (p : Nat) (f : Run → Run) : Steady s (s.modRun p f) := (kept_modPtn ..).steady

theorem steady_unqueue (s : State) (p : Nat) (r : Run) : Steady s (s.unqueue p r) := (kept_modPtn ..).steady

theorem steady_runDispatchEffect (p : Fin 8) (s : State) : Steady s (runDispatchEffect p s) := by
  unfold runDispatchEffect
  split
  · exact .refl _
  · refine steady_ite (.refl _) ?_
    split
    · exact .refl _
    · refine steady_ite (.refl _) ?_
      refine steady_ite ((steady_unqueue ..).trans (kept_modPtn ..).steady) ?_
      refine steady_ite ((steady_unqueue ..).trans (kept_finish ..).steady) ?_
      dsimp only
      split
      next t _ e =>
        have h : Steady s t := by
          refine .trans ?_ (Steady.fst (steady_admitRun ..) e)
          refine .trans ?_ (kept_modPtn ..).steady
          refine .trans ?_ (steady_foldl (fun _ _ => ?_) _ _)
          · exact steady_unqueue ..
          · split
            · exact (kept_loseIfGone ..).steady
            · exact .refl _
        exact h.trans (kept_modPtn ..).steady
      next t _ e =>
        have h : Steady s t := by
          refine .trans ?_ (Steady.fst (steady_admitRun ..) e)
          refine .trans ?_ (kept_modPtn ..).steady
          refine .trans ?_ (steady_foldl (fun _ _ => ?_) _ _)
          · exact steady_unqueue ..
          · split
            · exact (kept_loseIfGone ..).steady
            · exact .refl _
        exact (h.trans (kept_modPtn ..).steady).trans (kept_finish ..).steady

theorem steady_drizzleRampDoneEffect (p : Fin 8) (s : State) : Steady s (drizzleRampDoneEffect p s) := steady_modRun ..

theorem steady_memberCollectEffect (c : Fin 8) (member : Fin 15) (s : State) : Steady s (memberCollectEffect c member s) := by
  unfold memberCollectEffect
  split
  · exact .refl _
  · split
    · exact .refl _
    · exact steady_ite (.refl _) (steady_ite ((steady_flushTile ..).trans (kept_modPtn ..).steady) (.refl _))

theorem steady_cutContext (s : State) (c : CtxNo) : Steady s (s.cutContext c) :=
  steady_ite (.refl _) ((kept_modCtx ..).steady.trans (kept_event ..).steady)

theorem steady_clearContext (s : State) (c : Context) : Steady s (s.clearContext c) := by
  unfold State.clearContext
  refine steady_ite ?_ ?_
  · refine .trans ?_ (kept_event ..).steady
    exact steady_ite ((kept_modCtx ..).steady.trans (kept_event ..).steady) (kept_modCtx ..).steady
  · exact steady_ite ((kept_modCtx ..).steady.trans (kept_event ..).steady) (kept_modCtx ..).steady

theorem steady_joinReclaim (s : State) (p : Nat) : Steady s (s.joinReclaim p) :=
  steady_foldl (fun _ _ => steady_ite (.refl _) (kept_modCtx ..).steady) ..

theorem steady_applyQuota (s : State) (p : Nat) (wasPooled : Bool) : Steady s (s.applyQuota p wasPooled) := by
  unfold State.applyQuota
  split
  · exact .refl _
  · refine steady_ite ?_ ?_
    · refine .trans ?_ (steady_foldl (fun _ _ => steady_cutContext ..) ..)
      refine steady_ite (((kept_modPtn ..).steady.trans (kept_event ..).steady).trans (steady_joinReclaim ..)) ?_
      refine steady_ite ?_ (.refl _)
      refine .trans ?_ (kept_event ..).steady
      exact steady_ite ((kept_modPtn ..).steady.trans (kept_event ..).steady) (kept_modPtn ..).steady
    · refine steady_ite ?_ ?_
      · refine .trans ?_ (steady_foldl (fun _ _ => steady_clearContext ..) ..)
        refine steady_ite (((kept_modPtn ..).steady.trans (kept_event ..).steady).trans (steady_joinReclaim ..)) ?_
        refine steady_ite ?_ (.refl _)
        refine .trans ?_ (kept_event ..).steady
        exact steady_ite ((kept_modPtn ..).steady.trans (kept_event ..).steady) (kept_modPtn ..).steady
      · refine steady_ite (((kept_modPtn ..).steady.trans (kept_event ..).steady).trans (steady_joinReclaim ..)) ?_
        refine steady_ite ?_ (.refl _)
        refine .trans ?_ (kept_event ..).steady
        exact steady_ite ((kept_modPtn ..).steady.trans (kept_event ..).steady) (kept_modPtn ..).steady

theorem steady_applyCommit (s : State) (p : Nat) (c : PendingCommit) : Steady s (s.applyCommit p c) := by
  unfold State.applyCommit
  split
  · exact .refl _
  · dsimp only
    split
    · refine .trans ?_ (kept_finish ..).steady
      exact steady_ite ((kept_modPtn ..).steady.trans (steady_applyQuota ..)) (kept_modPtn ..).steady
    · exact steady_ite ((kept_modPtn ..).steady.trans (steady_applyQuota ..)) (kept_modPtn ..).steady

theorem steady_applyCommits (s : State) (p : Nat) : Steady s (s.applyCommits p) := by
  unfold State.applyCommits
  split
  · exact .refl _
  · exact (kept_modPtn ..).steady.trans (steady_foldl (fun _ _ => steady_applyCommit ..) ..)

theorem steady_switchMigrations (s : State) (p : Nat) : Steady s (s.switchMigrations p) := by
  unfold State.switchMigrations
  refine steady_ite (.refl _) ?_
  refine steady_ite ?_ ?_
  · exact steady_foldl (fun _ _ => .update (steady_moveTile ..)) ..
  · exact (steady_foldl (fun _ _ => .update (steady_moveTile ..)) ..).trans (kept_quotaClear ..).steady

theorem steady_keeperBoundary (s : State) (p : Nat) : Steady s (s.keeperBoundary p) :=
  steady_ite (.refl _) ((steady_switchMigrations ..).trans (steady_evacuate ..))

theorem steady_drizzleFiller (s : State) (x : Partition) (r : Option Run) : Steady s (s.drizzleFiller x r) := by
  unfold State.drizzleFiller
  refine steady_ite (.refl _) ?_
  refine steady_foldl (fun _ _ => ?_) _ _
  dsimp only
  split
  · exact (Steady.update (kept_takeFree ..).steady).trans (kept_count ..).steady
  · exact .update (kept_takeFree ..).steady

theorem steady_testDeadline (s : State) (p : Nat) : Steady s (s.testDeadline p) := by
  unfold State.testDeadline
  split
  · exact .refl _
  · split
    · exact .refl _
    · refine steady_ite (.refl _) ?_
      refine .trans ?_ (around_raiseFault ..).steady
      exact (kept_checkReserved ..).steady.trans (kept_finish ..).steady

theorem steady_closeRunBeat (s : State) (p : Nat) (x : Partition) (r : Run) (ns fMin phase : Nat) :
    Steady s (s.closeRunBeat p x r ns fMin phase) := by
  unfold State.closeRunBeat
  refine .trans ?_ (steady_modRun ..)
  refine steady_ite ?_ ?_
  · refine .trans ?_ (kept_modPtn ..).steady
    refine .trans ?_ (kept_event ..).steady
    refine .trans ?_ (kept_count ..).steady
    refine .trans ?_ (steady_updatePhase ..)
    refine .trans ?_ (kept_count ..).steady
    exact ((steady_tileWatches ..).trans (steady_drizzleFiller ..)).trans (steady_writeTrace ..)
  · refine .trans ?_ (steady_updatePhase ..)
    refine .trans ?_ (kept_count ..).steady
    exact ((steady_tileWatches ..).trans (steady_drizzleFiller ..)).trans (steady_writeTrace ..)

theorem steady_endEmptyRun (s : State) (p : Nat) : Steady s (s.endEmptyRun p) := by
  unfold State.endEmptyRun
  split
  · exact steady_ite (.refl _) ((kept_modPtn ..).steady.trans (kept_finish ..).steady)
  · exact .refl _

theorem steady_closeBeat (s : State) (p ns : Nat) : Steady s (s.closeBeat p ns) := by
  unfold State.closeBeat
  split
  · exact .refl _
  · refine .trans ?_ (steady_takeTrees ..)
    refine .trans ?_ (steady_weightsBoundary ..)
    refine .trans ?_ (kept_modPtn ..).steady
    refine .update ?_
    split
    · exact steady_closeRunBeat ..
    · exact steady_drizzleFiller ..

theorem steady_applyBoundary (s : State) (p : Nat) : Steady s (s.applyBoundary p) := by
  unfold State.applyBoundary
  split
  · exact .refl _
  · refine steady_ite (.refl _) ?_
    dsimp only
    split
    · refine steady_ite ?_ ?_
      · refine .trans ?_ (kept_discardRun ..).steady
        refine .trans ?_ (steady_endEmptyRun ..)
        refine steady_ite ?_ (((kept_modPtn ..).steady.trans (steady_applyLoads ..)).trans (steady_keeperBoundary ..))
        refine .trans ?_ (steady_applyCommits ..)
        exact ((kept_modPtn ..).steady.trans (steady_applyLoads ..)).trans (steady_keeperBoundary ..)
      · refine steady_ite ?_ ?_
        · refine .trans ?_ (steady_testDeadline ..)
          refine .trans ?_ (steady_endEmptyRun ..)
          refine steady_ite ?_ (((kept_modPtn ..).steady.trans (steady_applyLoads ..)).trans (steady_keeperBoundary ..))
          refine .trans ?_ (steady_applyCommits ..)
          exact ((kept_modPtn ..).steady.trans (steady_applyLoads ..)).trans (steady_keeperBoundary ..)
        · refine .trans ?_ (steady_endEmptyRun ..)
          refine steady_ite ?_ (((kept_modPtn ..).steady.trans (steady_applyLoads ..)).trans (steady_keeperBoundary ..))
          refine .trans ?_ (steady_applyCommits ..)
          exact ((kept_modPtn ..).steady.trans (steady_applyLoads ..)).trans (steady_keeperBoundary ..)
    · refine .trans ?_ (steady_endEmptyRun ..)
      refine steady_ite ?_ (((kept_modPtn ..).steady.trans (steady_applyLoads ..)).trans (steady_keeperBoundary ..))
      refine .trans ?_ (steady_applyCommits ..)
      exact ((kept_modPtn ..).steady.trans (steady_applyLoads ..)).trans (steady_keeperBoundary ..)

theorem steady_endStranded (s : State) (p : Nat) : Steady s (s.endStranded p) := by
  unfold State.endStranded
  split
  · exact .refl _
  · exact steady_ite (kept_endRun ..).steady (steady_ite (kept_endRun ..).steady (.refl _))

theorem steady_planBoundary (s : State) (p : Nat) : Steady s (s.planBoundary p) := by
  unfold State.planBoundary
  dsimp only
  split
  · exact (steady_endStranded ..).trans (told_refreshHolds ..).steady
  · refine .trans ?_ (kept_modPtn ..).steady
    refine steady_ite ?_ ?_
    · exact ((steady_endStranded ..).trans (told_refreshHolds ..).steady).trans (kept_modPtn ..).steady
    · refine .trans ?_ (steady_divideAt ..)
      exact ((steady_endStranded ..).trans (told_refreshHolds ..).steady).trans (kept_modPtn ..).steady

theorem steady_openBeat (s : State) (p : Nat) (idle : Bool) : Steady s (s.openBeat p idle) := by
  unfold State.openBeat
  dsimp only
  split
  · exact steady_switchMigrations ..
  · refine .trans ?_ (kept_modPtn ..).steady
    refine .trans ?_ (steady_setIslands ..)
    exact ((steady_switchMigrations ..).trans (kept_modPtn ..).steady).trans (steady_setClocks ..)

theorem steady_markHeld (s : State) (p : Nat) : Steady s (s.markHeld p) := steady_modRun ..

theorem steady_setHelds (s : State) (p : Nat) (f : List Nat → List Nat) : Steady s (s.setHelds p f) := (kept_modPtn ..).steady

theorem steady_clearDones (s : State) (p : Nat) : Steady s (s.clearDones p) := (steady_setHelds ..).trans (steady_modGroup ..)

theorem steady_takeRelease (s : State) (p : Nat) (beat : BitVec 64) : Steady s (s.takeRelease p beat) := by
  unfold State.takeRelease
  refine steady_ite ?_ ?_
  · refine .trans ?_ (steady_openBeat ..)
    split
    · refine steady_ite ?_ ?_
      · exact (steady_clearDones ..).trans (steady_applyBoundary ..)
      · exact ((steady_clearDones ..).trans (steady_applyBoundary ..)).trans (kept_endRun ..).steady
    · exact (steady_clearDones ..).trans (steady_applyBoundary ..)
  · refine steady_ite ?_ ?_
    · exact ((steady_clearDones ..).trans (steady_applyBoundary ..)).trans (steady_openBeat ..)
    · exact ((steady_clearDones ..).trans (steady_applyBoundary ..)).trans (steady_openBeat ..)

theorem steady_conduct (s : State) (p : Nat) : Steady s (s.conduct p) := by
  unfold State.conduct
  split
  · exact .refl _
  · refine steady_ite ?_ ?_
    · exact .refl _
    · exact (steady_foldl (fun _ _ => (sends_sendControl ..).steady) ..).trans (steady_takeRelease ..)

theorem steady_reportDone (s : State) (p : Nat) (g : Group) : Steady s (s.reportDone p g) := by
  unfold State.reportDone
  refine steady_ite ?_ ?_
  · refine .trans ?_ (steady_conduct ..)
    exact ((steady_modGroup ..).trans (steady_modGroup ..)).trans (steady_setHelds ..)
  · split
    · exact (steady_modGroup ..).trans (sends_sendControl ..).steady
    · exact steady_modGroup ..

theorem steady_reportHeld (s : State) (p : Nat) (g : Group) : Steady s (s.reportHeld p g) := by
  unfold State.reportHeld
  refine steady_ite ?_ ?_
  · refine steady_ite ?_ ?_
    · exact .refl _
    · exact (steady_setHelds ..).trans (steady_foldl (fun _ _ => (sends_sendControl ..).steady) ..)
  · refine steady_ite (.refl _) ?_
    split
    · exact (steady_setHelds ..).trans (sends_sendControl ..).steady
    · exact .refl _

theorem steady_beatReleaseEffect (p : Fin 8) (ns : BitVec 32) (s : State) : Steady s (beatReleaseEffect p ns s) := by
  unfold beatReleaseEffect
  split
  · exact .refl _
  · refine steady_ite (.refl _) ?_
    dsimp only
    split
    · refine steady_ite ?_ ?_
      · refine .trans ?_ (steady_reportHeld ..)
        refine .trans ?_ (steady_markHeld ..)
        refine .trans ?_ (steady_planBoundary ..)
        refine steady_ite (steady_ite (.refl _) (steady_closeBeat ..)) ?_
        refine .trans ?_ (steady_applyBoundary ..)
        exact steady_ite (.refl _) (steady_closeBeat ..)
      · refine .trans ?_ (steady_reportDone ..)
        refine .trans ?_ (steady_planBoundary ..)
        refine steady_ite (steady_ite (.refl _) (steady_closeBeat ..)) ?_
        refine .trans ?_ (steady_applyBoundary ..)
        exact steady_ite (.refl _) (steady_closeBeat ..)
    · refine steady_ite ?_ ?_
      · refine .trans ?_ (steady_markHeld ..)
        refine .trans ?_ (steady_planBoundary ..)
        refine steady_ite (steady_ite (.refl _) (steady_closeBeat ..)) ?_
        refine .trans ?_ (steady_applyBoundary ..)
        exact steady_ite (.refl _) (steady_closeBeat ..)
      · refine .trans ?_ (steady_openBeat ..)
        refine .trans ?_ (steady_planBoundary ..)
        refine steady_ite (steady_ite (.refl _) (steady_closeBeat ..)) ?_
        refine .trans ?_ (steady_applyBoundary ..)
        exact steady_ite (.refl _) (steady_closeBeat ..)

theorem steady_slipEffect (p : Fin 8) (s : State) : Steady s (slipEffect p s) := by
  unfold slipEffect
  split
  · exact .refl _
  · split
    · exact steady_ite (.refl _) ((steady_modRun ..).trans (kept_modPtn ..).steady)
    · exact .refl _

theorem steady_abandon (s : State) (p : Nat) (x : Partition) (r : Run) (aborted : Option Nat) :
    Steady s (s.abandon p x r aborted) :=
  ((kept_event ..).steady.trans (kept_modPtn ..).steady).trans (around_raiseFault ..).steady

theorem steady_slipAbandonEffect (p : Fin 8) (s : State) : Steady s (slipAbandonEffect p s) := by
  unfold slipAbandonEffect
  split
  · exact .refl _
  · dsimp only
    split
    · exact .refl _
    · refine steady_ite (.refl _) ?_
      split
      · refine .trans ?_ (steady_abandon ..)
        exact (steady_foldl (fun _ _ => (sends_sendControl ..).steady) ..).trans (steady_clearDones ..)
      · exact steady_abandon ..

theorem steady_slotDueEffect (p : Fin 8) (s : State) : Steady s (slotDueEffect p s) := by
  unfold slotDueEffect
  split
  · exact .refl _
  · refine steady_ite (.refl _) ?_
    refine steady_ite ?_ ?_
    · exact (kept_modPtn ..).steady.trans (told_breach ..).steady
    · exact steady_ite ((kept_modPtn ..).steady.trans (told_breach ..).steady) (kept_modPtn ..).steady

theorem steady_verifySlot (s : State) (o : Obj) (sl : Slot) : Steady s (s.verifySlot o sl) := by
  unfold State.verifySlot
  split
  · exact .refl _
  · refine steady_ite ?_ ?_
    · refine .trans ?_ (steady_nodeFault ..)
      split
      · exact (steady_commitDrafts ..).trans (steady_rollback ..)
      · exact steady_commitDrafts ..
    · refine steady_ite ?_ ?_
      · split
        · exact (steady_commitDrafts ..).trans (steady_rollback ..)
        · exact steady_commitDrafts ..
      · refine .trans ?_ (kept_writeObj ..).steady
        split
        · exact (steady_commitDrafts ..).trans (steady_rollback ..)
        · exact steady_commitDrafts ..

theorem steady_verifyRun (s : State) (r : Run) : Steady s (s.verifyRun r) := by
  unfold State.verifyRun
  refine steady_ite (.refl _) ?_
  split
  · exact .refl _
  · exact steady_foldl (fun _ _ => steady_verifySlot ..) ..

theorem steady_reportRecomputed (s : State) (r : Run) : Steady s (s.reportRecomputed r) := by
  unfold State.reportRecomputed
  refine steady_foldl (fun _ _ => ?_) _ _
  split
  · refine steady_ite ?_ ?_
    · refine .trans ?_ (kept_loseIfGone ..).steady
      exact steady_ite (kept_queueRecompute ..).steady (.refl _)
    · refine .trans ?_ (kept_event ..).steady
      exact steady_ite (kept_queueRecompute ..).steady (.refl _)
  · exact .refl _

theorem steady_runCompleteEffect (p : Fin 8) (s : State) : Steady s (runCompleteEffect p s) := by
  unfold runCompleteEffect
  split
  · exact .refl _
  · refine steady_ite (.refl _) ?_
    refine .trans ?_ (kept_finish ..).steady
    refine .trans ?_ (kept_checkReserved ..).steady
    refine .trans ?_ (kept_dropHeld ..).steady
    refine .trans ?_ (kept_quotaClear ..).steady
    refine .trans ?_ (steady_reportRecomputed ..)
    refine .trans ?_ (kept_modPtn ..).steady
    exact ((kept_stampRun ..).steady.trans (steady_takeWatches ..)).trans (steady_verifyRun ..)

/-! ### Groups -/

theorem steady_checkJoins (s : State) (p : Nat) : Steady s (s.checkJoins p) := by
  unfold State.checkJoins
  split
  · exact .refl _
  · exact steady_ite (steady_dissolve ..) (steady_ite (steady_modGroup ..) (.refl _))

theorem still_takeJoin (s : State) (f : Frame) (j : JoinInfo) : Still s (s.takeJoin f j) :=
  ((still_feltWake ..).trans (steady_modFelt ..).toStill).trans (steady_checkJoins ..).toStill

theorem still_joinFrameEffect (k : Fin 8) (f : Frame) (j : JoinInfo) (s : State) : Still s (joinFrameEffect k f j s) := by
  unfold joinFrameEffect
  refine still_ite ?_ ?_
  · exact .refl _
  · exact still_onFrame (fun _ _ => still_ite (steady_forward ..).toStill (still_forLinker (fun _ => still_takeJoin ..)))

theorem steady_groupFormTimeoutEffect (p : Fin 8) (s : State) : Steady s (groupFormTimeoutEffect p s) := by
  unfold groupFormTimeoutEffect
  split
  · exact .refl _
  · exact steady_ite (steady_dissolve ..) (.refl _)

theorem ranStill_fabGroupBody (a : GroupArgs) (s : State) (q : Req) : RanStill s (fabGroupBody a s q) := by
  unfold fabGroupBody
  refine ranStill_withObj fun _ => ?_
  refine ranStill_ite (.waits) ?_
  refine ranStill_ite (.done (.refl _)) ?_
  refine ranStill_ite (.done (.refl _)) ?_
  refine ranStill_ite (.done (.refl _)) ?_
  refine ranStill_ite (.done (.refl _)) ?_
  refine ranStill_ite (.done (.refl _)) ?_
  dsimp only
  split
  · exact .done (.refl _)
  · refine ranStill_ite (.done (.refl _)) ?_
    refine .done ?_
    refine Steady.toStill ?_
    refine .trans ?_ (steady_checkJoins ..)
    exact (kept_modPtn ..).steady.trans (steady_foldl (fun _ _ => (sends_sendControl ..).steady) ..)

theorem steady_leaveGroup (s : State) (p : Nat) : Steady s (s.leaveGroup p) := by
  unfold State.leaveGroup
  split
  · exact .refl _
  · refine .trans ?_ (kept_modPtn ..).steady
    exact ((sends_sendLeave ..).steady.trans (around_endGroupRun ..).steady).trans (steady_dropJoins ..)

theorem ranStill_fabLeaveBody (s : State) (q : Req) : RanStill s (fabLeaveBody s q) :=
  ranStill_withCtx (fun _ => ranStill_ite (.done (.refl _)) (.done (Steady.toStill (steady_leaveGroup ..))))

theorem still_takeMember {s : State} {f : Frame} {act : MemberAct} (h : ∀ t p g i, Still t (act t p g i)) :
    Still s (s.takeMember f act) := by
  have hw := still_feltWake s
  unfold State.takeMember
  dsimp only
  split
  · exact hw
  · split
    · exact hw.trans (h ..)
    · exact hw

theorem still_onMember {k : Fin 8} {f : Frame} {b : FeltBody} {s : State} {act : MemberAct} (h : ∀ t p g i, Still t (act t p g i)) :
    Still s (onMember k f b s act) :=
  still_ite (.refl _) (still_onFrame fun _ _ => still_ite (steady_forward ..).toStill (still_takeMember h))

theorem still_onLeave (src : BitVec 16) (moved : Bool) (s : State) (p : Nat) (g : Group) (i : Nat) :
    Still s (onLeave src moved s p g i) :=
  Steady.toStill (.trans (around_endGroupRun ..).steady (steady_dissolve ..))

theorem still_leaveFrameEffect (k : Fin 8) (f : Frame) (moved : Bool) (s : State) : Still s (leaveFrameEffect k f moved s) :=
  still_onMember fun _ _ _ _ => still_onLeave ..

theorem still_onDone (admitted : Option (BitVec 64 × BitVec 32)) (s : State) (p : Nat) (g : Group) (i : Nat) :
    Still s (onDone admitted s p g i) := by
  refine Steady.toStill (steady_ite (.refl s) ?_)
  refine .trans ?_ (steady_conduct ..)
  exact .trans (steady_modGroup ..) (steady_setHelds ..)

theorem still_doneFrameEffect (k : Fin 8) (f : Frame) (beat : BitVec 64) (admitted : Option (BitVec 64 × BitVec 32)) (s : State)
    :
    Still s (doneFrameEffect k f beat admitted s) := still_onMember fun _ _ _ _ => still_onDone ..

theorem still_onRelease (beat : BitVec 64) (s : State) (p : Nat) (g : Group) (i : Nat) : Still s (onRelease beat s p g i) := 
  Steady.toStill (steady_ite (steady_takeRelease ..) (.refl s))

theorem still_releaseFrameEffect (k : Fin 8) (f : Frame) (beat : BitVec 64) (s : State) :
    Still s (releaseFrameEffect k f beat s) := still_onMember fun _ _ _ _ => still_onRelease ..

theorem still_onHeld (s : State) (p : Nat) (g : Group) (i : Nat) : Still s (onHeld s p g i) := by
  refine Steady.toStill (steady_ite (.refl s) ?_)
  refine steady_ite (.trans (steady_setHelds ..) (steady_foldl (fun _ _ => ?_) _ _)) (steady_setHelds ..)
  split
  · exact (sends_sendControl ..).steady
  · exact .refl _

theorem still_heldFrameEffect (k : Fin 8) (f : Frame) (s : State) : Still s (heldFrameEffect k f s) :=
  still_onMember fun _ _ _ _ => still_onHeld ..

theorem still_onAbort (s : State) (p : Nat) (g : Group) (i : Nat) : Still s (onAbort s p g i) := by
  have hc : Steady s (s.clearDones p) := steady_clearDones ..
  unfold onAbort
  dsimp only
  split
  · exact (hc.trans (around_raiseFault ..).steady).toStill
  · exact hc.toStill

theorem still_abortFrameEffect (k : Fin 8) (f : Frame) (s : State) : Still s (abortFrameEffect k f s) :=
  still_onMember fun _ _ _ _ => still_onAbort ..

theorem still_takeOwn (s : State) (o : Outgoing) : Still s (s.takeOwn o) := by
  unfold State.takeOwn
  cases o.body with
  | data seq off bs => exact still_takeData ..
  | multicast reader group seq off bs => exact (steady_takeMulticast ..).toStill
  | ack first n beyond => exact still_takeAcks ..
  | join j => exact still_takeJoin ..
  | leave moved => exact still_takeMember fun _ _ _ _ => still_onLeave ..
  | done beat admitted => exact still_takeMember fun _ _ _ _ => still_onDone ..
  | release beat => exact still_takeMember fun _ _ _ _ => still_onRelease ..
  | held => exact still_takeMember fun _ _ _ _ => still_onHeld ..
  | abort => exact still_takeMember fun _ _ _ _ => still_onAbort ..
  | request session tile => exact (steady_resendRequestEffect ..).toStill
  | _ => exact .refl s

theorem still_takeOwns (s : State) : Still s s.takeOwns :=
  (steady_modFelt ..).toStill.trans (still_foldl (fun _ _ => still_takeOwn ..) ..)

theorem still_tick (s : State) : Still { s with now := s.now + 1 } s.tick :=
  .trans (Steady.toStill (steady_foldl (fun _ _ => steady_copyTick ..) _ _)) (still_takeOwns ..)

theorem still_linkerWork (s : State) (w : HeldWork) : Still s (s.linkerWork w) := by
  cases w with
  | frame k f body =>
    cases body with
    | hello serial nonce iface addr => exact (steady_takeHello ..).toStill
    | proof proof => exact (steady_takeProof ..).toStill
    | rotate epoch => exact (steady_takeRotate ..).toStill
    | rotateAck => exact (steady_takeRotateAck ..).toStill
    | join j => exact still_takeJoin ..
    | _ => exact .refl s
  | signal k => exact (steady_startTraining ..).toStill
  | trained k => exact (steady_sendHello ..).toStill
  | _ => exact .refl s

theorem still_takeLinkerWork (s : State) : Still s s.takeLinkerWork :=
  (Still.update (.refl _)).trans (still_foldl (fun _ _ => still_linkerWork ..) ..)

/-! ### Tiles -/

theorem steady_modGroupCounters (s : State) (c : Nat) (f : GroupCounters → GroupCounters) : Steady s (s.modGroupCounters c f) :=
  .update (.refl _)

theorem steady_pastRecord (s : State) (p : Nat) (w : Work) : Steady s (s.pastRecord p w) := steady_modRun ..

theorem steady_account (s : State) (p : Nat) (w : Work) (a : Acted) (macs : List (Nat × Nat)) :
    Steady s (s.account p w a macs) := by
  unfold State.account
  dsimp only
  split
  · refine .trans ?_ (counts_busy ..).steady
    split
    · refine .trans ?_ (kept_count ..).steady
      refine .trans ?_ (kept_count ..).steady
      refine .trans ?_ (kept_count ..).steady
      refine .trans ?_ (kept_count ..).steady
      refine .trans ?_ (kept_count ..).steady
      refine .trans ?_ (steady_foldl (fun _ _ => (kept_count ..).steady.trans (kept_count ..).steady) ..)
      exact Steady.update (.refl _)
    · refine .trans ?_ (kept_takeFree ..).steady
      refine .trans ?_ (kept_count ..).steady
      refine .trans ?_ (kept_count ..).steady
      refine .trans ?_ (kept_count ..).steady
      refine .trans ?_ (kept_count ..).steady
      refine .trans ?_ (kept_count ..).steady
      refine .trans ?_ (steady_foldl (fun _ _ => (kept_count ..).steady.trans (kept_count ..).steady) ..)
      exact Steady.update (.refl _)
  · refine .trans ?_ (around_raiseFault ..).steady
    refine .trans ?_ (counts_busy ..).steady
    split
    · refine .trans ?_ (kept_count ..).steady
      refine .trans ?_ (kept_count ..).steady
      refine .trans ?_ (kept_count ..).steady
      refine .trans ?_ (kept_count ..).steady
      refine .trans ?_ (kept_count ..).steady
      refine .trans ?_ (steady_foldl (fun _ _ => (kept_count ..).steady.trans (kept_count ..).steady) ..)
      exact Steady.update (.refl _)
    · refine .trans ?_ (kept_takeFree ..).steady
      refine .trans ?_ (kept_count ..).steady
      refine .trans ?_ (kept_count ..).steady
      refine .trans ?_ (kept_count ..).steady
      refine .trans ?_ (kept_count ..).steady
      refine .trans ?_ (kept_count ..).steady
      refine .trans ?_ (steady_foldl (fun _ _ => (kept_count ..).steady.trans (kept_count ..).steady) ..)
      exact Steady.update (.refl _)

theorem steady_tileOp (s : State) (op c t : Nat) (act : State → Work → Acted → Acted × List (Nat × Nat)) :
    Steady s (s.tileOp op c t act) := by
  unfold State.tileOp
  split
  · exact .refl _
  · refine steady_ite ?_ ?_
    · exact .refl _
    · exact steady_ite (steady_pastRecord ..) ((steady_pastRecord ..).trans (steady_account ..))

theorem steady_mmEffect (c : Cluster) (t : Tile) (s : State) : Steady s (mmEffect c t s) := steady_tileOp ..

theorem steady_mmbEffect (c : Cluster) (t : Tile) (s : State) : Steady s (mmbEffect c t s) := steady_tileOp ..

theorem steady_mmsEffect (c : Cluster) (t : Tile) (s : State) : Steady s (mmsEffect c t s) := steady_tileOp ..

theorem steady_ptbuildEffect (c : Cluster) (t : Tile) (s : State) : Steady s (ptbuildEffect c t s) := steady_tileOp ..

theorem steady_scloadEffect (c : Cluster) (t : Tile) (s : State) : Steady s (scloadEffect c t s) := steady_tileOp ..

theorem steady_cbloadEffect (c : Cluster) (t : Tile) (s : State) : Steady s (cbloadEffect c t s) := steady_tileOp ..

theorem steady_moveEffect (c : Cluster) (t : Tile) (s : State) : Steady s (moveEffect c t s) := steady_tileOp ..

theorem steady_fillEffect (c : Cluster) (t : Tile) (s : State) : Steady s (fillEffect c t s) := steady_tileOp ..

theorem steady_fillerEffect (c : Cluster) (t : Tile) (s : State) : Steady s (fillerEffect c t s) := by
  unfold fillerEffect
  dsimp only
  split
  · exact steady_ite ((steady_tileOp ..).trans (steady_modGroupCounters ..)) (steady_tileOp ..)
  · exact steady_tileOp ..

theorem steady_attdEffect (c : Cluster) (t : Tile) (s : State) : Steady s (attdEffect c t s) := steady_tileOp ..

theorem steady_lsbuildEffect (c : Cluster) (t : Tile) (s : State) : Steady s (lsbuildEffect c t s) := steady_tileOp ..

theorem steady_lscanEffect (c : Cluster) (t : Tile) (s : State) : Steady s (lscanEffect c t s) := steady_tileOp ..

theorem steady_lselectEffect (c : Cluster) (t : Tile) (s : State) : Steady s (lselectEffect c t s) := steady_tileOp ..

theorem steady_rescoreEffect (c : Cluster) (t : Tile) (s : State) : Steady s (rescoreEffect c t s) := by
  unfold rescoreEffect
  split
  · exact .refl _
  · split
    · exact (steady_pastRecord ..).trans (around_raiseFault ..).steady
    · exact steady_tileOp ..

theorem steady_smergeEffect (c : Cluster) (t : Tile) (s : State) : Steady s (smergeEffect c t s) := steady_tileOp ..

theorem steady_rowsumEffect (c : Cluster) (t : Tile) (s : State) : Steady s (rowsumEffect c t s) := steady_tileOp ..

theorem steady_resultCodingEffect (c : Cluster) (t : Tile) (s : State) : Steady s (resultCodingEffect c t s) := by
  unfold resultCodingEffect
  split
  · exact .refl _
  · split
    · exact .refl _
    · split
      · exact .refl _
      · dsimp only
        split
        · refine steady_ite (.refl _) ?_
          split
          · exact steady_modRun ..
          · refine steady_ite (steady_modRun ..) ?_
            refine .trans ?_ (steady_modGroupCounters ..)
            refine .trans ?_ (kept_count ..).steady
            exact ((Steady.update (steady_modRun ..)).trans (kept_count ..).steady).trans (kept_count ..).steady
        · exact .refl _

end Sys2Proof.Machine
end

section
/-! SUPPORT. The queue and the time, function by function: the headbox, the keepers, the flash store, partitions and resets. -/

namespace Sys2Proof.Machine

/-! ### The headbox -/

theorem steady_writeSpot (s : State) (ctx : CtxNo) (p : Spot) (bs : List Byte) : Steady s (s.writeSpot ctx p bs) := by
  unfold State.writeSpot
  split
  · exact .update (.refl _)
  · exact (kept_writeTier ..).steady
  · exact .refl _
  · exact .refl _

theorem steady_writeSpots (s : State) (ctx : CtxNo) (xs : List (Spot × Byte)) : Steady s (s.writeSpots ctx xs) :=
  steady_foldl (fun _ _ => steady_writeSpot ..) ..

theorem steady_translate (s : State) (cluster : Nat) (ctx : CtxNo) (e : Translation) :
    Steady s (s.translate cluster ctx e) := by
  unfold State.translate
  split
  · exact .refl _
  · exact steady_ite (.update (.refl _)) (.update (kept_count ..).steady)

theorem steady_translateSpots (s : State) (cluster : Nat) (ctx : CtxNo) (ps : List Spot) :
    Steady s (s.translateSpots cluster ctx ps) := steady_foldl (fun _ _ => steady_translate ..) ..

theorem steady_countMove (s : State) (mv : Move) (n : Nat) : Steady s (s.countMove mv n) :=
  (steady_modGroupCounters ..).trans (kept_count ..).steady

theorem steady_countSpots (s : State) (ctx : CtxNo) (ps : List Spot) (write : Bool) : Steady s (s.countSpots ctx ps write) :=
  (kept_count ..).steady.trans (kept_count ..).steady

theorem steady_queued (u : State) (kind : MoveKind) (x : Partition) (r : Run) (src : Endpoint) (mv : Move) :
    Steady u (queued u kind x r src mv) :=
  have hn : Steady u (numbered u) := .update (.refl u)
  steady_ite (.update hn) (steady_ite hn (.update hn))

theorem steady_issueMove (s : State) (kind : MoveKind) (c : Nat) : Steady s (s.issueMove kind c) := by
  rcases h : s.nextMove c with _ | ⟨p, x, r, m, i⟩
  · rw [issueMove_none h]
    exact .refl s
  rcases Decidable.em (moveKind m = kind) with hk | hk
  on_goal 2 =>
    rw [issueMove_other h hk]
    exact .refl s
  have hu : Steady s (issuedRec s c p x i) := steady_modRun ..
  rcases hs : Mv.source m with _ | src
  · rw [issueMove_endless h hk (.inl hs)]
    exact hu
  rcases hd : Mv.dest m with _ | dst
  · rw [issueMove_endless h hk (.inr hd)]
    exact hu
  rcases Decidable.em (Mv.bytes m = 0) with hb | hb
  · rw [issueMove_empty h hk hs hd hb]
    exact hu
  rcases hn : brokenNodes (issuedRec s c p x i) r src dst with _ | ⟨a, l⟩
  on_goal 2 =>
    rw [issueMove_broken h hk hs hd hb hn]
    exact hu.trans (around_raiseFault ..).steady
  rcases hh : (if isCodedCopy m = true then ((issuedRec s c p x i).codedLength x.low r src).2 else none) with _ | a
  on_goal 2 =>
    have hc : isCodedCopy m = true := by
      by_contra hc
      rw [if_neg hc] at hh
      cases hh
    rw [if_pos hc] at hh
    rw [issueMove_header h hk hs hd hb hn hc hh]
    exact hu.trans (around_raiseFault ..).steady
  have hw := issueMove_whole h hk hs hd hb hn fun hc => by rwa [if_pos hc] at hh
  rcases hf : (issuedRec s c p x i).forbids p x.low r m src dst with _ | a
  · rw [hw.2 hf]
    exact hu.trans (steady_queued ..)
  · rw [hw.1 a hf]
    exact hu.trans (around_raiseFault ..).steady

theorem steady_headboxMoveEffect (c : Fin 8) (s : State) : Steady s (headboxMoveEffect c s) := steady_issueMove ..

theorem steady_compressingMoveEffect (c : Fin 8) (s : State) : Steady s (compressingMoveEffect c s) := steady_issueMove ..

theorem steady_codedCopyEffect (c : Fin 8) (s : State) : Steady s (codedCopyEffect c s) := steady_issueMove ..

theorem steady_pageRunMoveEffect (c : Fin 8) (s : State) : Steady s (pageRunMoveEffect c s) := steady_issueMove ..

theorem steady_couchRunEffect (c : Fin 8) (s : State) : Steady s (couchRunEffect c s) := steady_issueMove ..

theorem steady_peerMoveEffect (c : Fin 8) (s : State) : Steady s (peerMoveEffect c s) := steady_issueMove ..

theorem steady_modMove (s : State) (id : Nat) (f : Move → Move) : Steady s (s.modMove id f) := .update (.refl _)

theorem steady_hbTxnIssueEffect (c : Fin 8) (id : Nat) (s : State) : Steady s (hbTxnIssueEffect c id s) := by
  unfold hbTxnIssueEffect
  split
  · exact .refl _
  · exact steady_ite (.refl _) ((steady_translateSpots ..).trans (steady_modMove ..))

theorem steady_writeMoved (s : State) (mv : Move) (xs : List (Spot × Byte)) : Steady s (s.writeMoved mv xs) := by
  unfold State.writeMoved
  split
  · exact .refl _
  · exact .update (steady_writeSpots ..)

theorem steady_sendPeer (s : State) (mv : Move) (r : Run) (member off : Nat) (bs : List Byte) :
    Steady s (s.sendPeer mv r member off bs) := by
  unfold State.sendPeer
  split
  · exact .refl _
  · refine steady_ite ?_ ((kept_count ..).steady.trans (steady_foldl (fun _ _ => steady_sendData ..) ..))
    split
    next t e =>
      have h := (kept_count ..).steady.trans (Steady.fst (steady_writeReceived ..) e)
      exact h
    next t e =>
      have h := (kept_count ..).steady.trans (Steady.fst (steady_writeReceived ..) e)
      exact h.trans (around_raiseFault ..).steady

theorem steady_writeCoded (s : State) (mv : Move) (o : ReadOutcome) : Steady s (s.writeCoded mv o) := by
  unfold State.writeCoded
  split
  · exact .refl _
  · split
    · exact .refl _
    · split
      · exact .refl _
      · refine .trans ?_ (kept_count ..).steady
        refine .trans ?_ (kept_count ..).steady
        refine .trans ?_ (kept_count ..).steady
        refine .trans ?_ (steady_modGroupCounters ..)
        split
        · exact steady_sendPeer ..
        · exact ((steady_writeMoved ..).trans (steady_meetsLines ..)).trans (steady_countSpots ..)

theorem steady_settleMove (s : State) (mv : Move) (o : ReadOutcome) : Steady s (s.settleMove mv o) := by
  unfold State.settleMove
  refine steady_ite ?_ (.refl _)
  refine steady_ite ?_ ?_
  · exact steady_ite (steady_writeCoded ..) (.refl _)
  · exact .update (steady_ite (steady_writeCoded ..) (.refl _))

theorem steady_sendChunk (s : State) (mv : Move) (chunk : Nat) : Steady s (s.sendChunk mv chunk) := by
  unfold State.sendChunk
  split
  · exact steady_ite (.refl _) (steady_sendPeer ..)
  · exact .refl _

theorem steady_deliverChunk (s : State) (mv : Move) (chunk : Nat) (from_ to_ : List Spot) :
    Steady s (s.deliverChunk mv chunk from_ to_) := by
  unfold State.deliverChunk
  refine .trans ?_ (steady_sendChunk ..)
  refine .trans ?_ (steady_countMove ..)
  refine .trans ?_ (steady_countSpots ..)
  exact ((kept_takeFree ..).steady.trans (steady_writeMoved ..)).trans (steady_countSpots ..)

theorem steady_hbTxnRetireEffect (c : Fin 8) (id chunk : Nat) (o w : ReadOutcome) (s : State) :
    Steady s (hbTxnRetireEffect c id chunk o w s) := by
  unfold hbTxnRetireEffect
  split
  · exact .refl _
  · refine steady_ite (.refl _) ?_
    refine steady_ite (steady_modMove ..) ?_
    dsimp only
    split
    · exact ((steady_modMove ..).trans (steady_meetsLines ..)).trans (around_raiseFault ..).steady
    · refine .trans ?_ (steady_settleMove ..)
      refine .trans ?_ (steady_meetsLines ..)
      exact ((steady_modMove ..).trans (steady_meetsLines ..)).trans (steady_deliverChunk ..)

/-! ### The keepers -/

theorem steady_tileMigrateEffect (c : CtxNo) (base : BitVec 42) (tile : Nat) (s : State) :
    Steady s (tileMigrateEffect c base tile s) := by
  unfold tileMigrateEffect
  split
  · exact .refl _
  · split
    · exact .refl _
    · refine steady_ite (.refl _) ?_
      split
      · exact steady_startMigration ..
      · exact .refl _

theorem steady_tilePromoteEffect (p : Fin 8) (s : State) : Steady s (tilePromoteEffect p s) := by
  unfold tilePromoteEffect
  refine steady_ite (.refl _) ?_
  split
  · exact steady_startMigration ..
  · exact .refl _

theorem steady_dropForRoom (s : State) (x : Reclaim) (cluster k n : Nat) : Steady s (s.dropForRoom x cluster k n).1 := by
  induction n generalizing s with
  | zero =>
    exact .refl _
  | succ fuel ih =>
    unfold State.dropForRoom
    split
    · exact .refl _
    · split
      · exact .refl _
      · exact (kept_dropPages ..).steady.trans (ih ..)

theorem steady_reclaimTier0 (s : State) (x : Reclaim) (xs : List (Obj × ResTile × Nat)) : Steady s (s.reclaimTier0 x xs) := by
  induction xs generalizing s with
  | nil =>
    exact .refl _
  | cons x rest ih =>
    unfold State.reclaimTier0
    obtain ⟨o, t, i⟩ := x
    refine steady_ite (.refl _) ?_
    split
    next t _ e =>
      have h := Steady.fst (steady_dropForRoom ..) e
      exact (h.trans (steady_startMigration ..)).trans (ih ..)
    next t e =>
      have h := Steady.fst (steady_dropForRoom ..) e
      exact h.trans (ih ..)

theorem steady_reclaimTier1 (s : State) (x : Reclaim) (xs : List (Nat × Page)) : Steady s (s.reclaimTier1 x xs) := by
  induction xs generalizing s with
  | nil =>
    exact .refl _
  | cons x rest ih =>
    unfold State.reclaimTier1
    obtain ⟨i, g⟩ := x
    exact steady_ite (.refl _) ((kept_dropPages ..).steady.trans (ih ..))

theorem steady_reclaim (s : State) (x : Reclaim) : Steady s (s.reclaim x) := by
  unfold State.reclaim
  refine steady_ite ((steady_reclaimTier0 ..).trans (steady_reclaimTier1 ..)) ?_
  refine steady_ite ?_ ?_
  · refine .trans ?_ (kept_event ..).steady
    split
    · exact ((steady_reclaimTier0 ..).trans (steady_reclaimTier1 ..)).trans (kept_modCtx ..).steady
    · refine .trans ?_ (kept_modPtn ..).steady
      exact ((steady_reclaimTier0 ..).trans (steady_reclaimTier1 ..)).trans (steady_joinReclaim ..)
  · split
    · refine .trans ?_ (kept_event ..).steady
      refine .trans ?_ (kept_modCtx ..).steady
      refine .trans ?_ (kept_event ..).steady
      split
      · exact ((steady_reclaimTier0 ..).trans (steady_reclaimTier1 ..)).trans (kept_modCtx ..).steady
      · refine .trans ?_ (kept_modPtn ..).steady
        exact ((steady_reclaimTier0 ..).trans (steady_reclaimTier1 ..)).trans (steady_joinReclaim ..)
    · refine .trans ?_ (kept_event ..).steady
      refine .trans ?_ (kept_event ..).steady
      split
      · exact ((steady_reclaimTier0 ..).trans (steady_reclaimTier1 ..)).trans (kept_modCtx ..).steady
      · refine .trans ?_ (kept_modPtn ..).steady
        exact ((steady_reclaimTier0 ..).trans (steady_reclaimTier1 ..)).trans (steady_joinReclaim ..)

theorem steady_quotaReclaimEffect (p : Fin 8) (s : State) : Steady s (quotaReclaimEffect p s) := by
  unfold quotaReclaimEffect
  split
  · exact .refl _
  · refine steady_ite (.refl _) ?_
    refine .trans ?_ (steady_foldl (fun _ _ => steady_ite (steady_reclaim ..) (.refl _)) ..)
    exact steady_ite (steady_reclaim ..) (.refl _)

theorem steady_loseSeq (s : State) (x : Seq) : Steady s (s.loseSeq x) := by
  unfold State.loseSeq
  refine steady_ite ?_ ?_
  · exact .refl _
  · exact ((kept_modSeq ..).steady.trans (kept_modPtn ..).steady).trans (kept_event ..).steady

theorem steady_nodeLost (s : State) (x : Partition) (a : Nat) : Steady s (s.nodeLost x a) := by
  unfold State.nodeLost
  split
  · exact .refl _
  · split
    · exact steady_loseSeq ..
    · exact .update (.refl _)

theorem steady_reservePoisoned (s : State) (p : Nat) (x : Partition) (a : Nat) : Steady s (s.reservePoisoned p x a) := by
  unfold State.reservePoisoned
  refine .trans ?_ (around_raiseFault ..).steady
  exact steady_ite (steady_nodeLost ..) (steady_foldl (fun _ _ => steady_loseSeq ..) ..)

theorem steady_sampleLoses (s : State) (cluster a : Nat) : Steady s (s.sampleLoses cluster a) :=
  (Steady.update (.refl _)).trans (kept_takeFree ..).steady

theorem steady_refetchRoom (s : State) (p cluster n : Nat) : Steady s (s.refetchRoom p cluster n).1 := by
  induction n generalizing s with
  | zero =>
    exact .refl _
  | succ fuel ih =>
    unfold State.refetchRoom
    split
    · exact .refl _
    · split
      · exact .refl _
      · exact (kept_dropPages ..).steady.trans (ih ..)

theorem steady_startRefetch (s : State) (o : Obj) (tile : Nat) (t : ResTile) : Steady s (s.startRefetch o tile t) := by
  unfold State.startRefetch
  split
  · exact .refl _
  · refine steady_ite (.refl _) ?_
    split
    next t e =>
      have h := Steady.fst (steady_refetchRoom ..) e
      exact h
    next t _ e =>
      have h := Steady.fst (steady_refetchRoom ..) e
      exact (h.trans (steady_modWeight ..)).trans (sends_request ..).steady

theorem steady_keeperPoisonActionEffect (c : Fin 8) (line : Nat) (s : State) :
    Steady s (keeperPoisonActionEffect c line s) := by
  unfold keeperPoisonActionEffect
  dsimp only
  split
  · exact .update (.refl _)
  · refine steady_ite (.refl _) ?_
    refine steady_ite (.update (.refl _)) ?_
    split
    · exact .update (.refl _)
    · refine steady_ite ((Steady.update (.refl _)).trans (steady_reservePoisoned ..)) ?_
      refine steady_ite ((Steady.update (.refl _)).trans (steady_sampleLoses ..)) ?_
      split
      · refine steady_ite ?_ ?_
        · exact .update (.refl _)
        · exact steady_ite (.refl _) ((Steady.update (.refl _)).trans (steady_startRefetch ..))
      · exact steady_ite (.refl _) ((Steady.update (.refl _)).trans (kept_pagePoisoned ..).steady)

/-! ### The flash store and firmware -/

theorem steady_modStoring (s : State) (q : Req) (f : Storing → Storing) : Steady s (s.modStoring q f) :=
  (flashOnly_modFlash ..).steady

theorem steady_endStore (s : State) (x : Storing) (status : Nat) : Steady s (s.endStore x status) := by
  unfold State.endStore
  refine .trans ?_ (kept_finish ..).steady
  exact (flashOnly_modFlash ..).steady.trans (flashOnly_leaveDirty ..).steady

theorem steady_loseStripe (s : State) (i : Nat) : Steady s (s.loseStripe i) := by
  unfold State.loseStripe
  dsimp only
  split
  · split
    · refine .trans ?_ (steady_startCopy ..)
      refine .trans ?_ (flashOnly_modFlash ..).steady
      exact (flashOnly_modFlash ..).steady.trans (flashOnly_dropJobs ..).steady
    · exact (flashOnly_modFlash ..).steady.trans (flashOnly_dropJobs ..).steady
  · split
    · refine .trans ?_ (steady_endStore ..)
      split
      · refine .trans ?_ (steady_startCopy ..)
        refine .trans ?_ (flashOnly_modFlash ..).steady
        exact (flashOnly_modFlash ..).steady.trans (flashOnly_dropJobs ..).steady
      · exact (flashOnly_modFlash ..).steady.trans (flashOnly_dropJobs ..).steady
    · refine .trans ?_ (flashOnly_writeStripe ..).steady
      refine .trans ?_ (flashOnly_modFlash ..).steady
      refine .trans ?_ (steady_modStoring ..)
      split
      · refine .trans ?_ (steady_startCopy ..)
        refine .trans ?_ (flashOnly_modFlash ..).steady
        exact (flashOnly_modFlash ..).steady.trans (flashOnly_dropJobs ..).steady
      · exact (flashOnly_modFlash ..).steady.trans (flashOnly_dropJobs ..).steady

theorem steady_readBack (s : State) (x : Storing) : Steady s (s.readBack x) := by
  unfold State.readBack
  dsimp only
  split
  · exact ((kept_takeFree ..).steady.trans (flashOnly_countPages ..).steady).trans (steady_loseStripe ..)
  · refine .trans ?_ (steady_modStoring ..)
    refine .trans ?_ (steady_recordLibrary ..)
    exact Steady.update ((kept_takeFree ..).steady.trans (flashOnly_countPages ..).steady)

theorem steady_settleStore (s : State) (x : Storing) : Steady s (s.settleStore x) := by
  unfold State.settleStore
  dsimp only
  split
  · exact steady_ite (.refl _) ((flashOnly_modFlash ..).steady.trans (kept_finish ..).steady)
  · refine steady_ite (steady_readBack ..) ?_
    split
    · exact steady_endStore ..
    · exact steady_ite (steady_endStore ..) (.refl _)

theorem steady_settleCopy (s : State) (c : Copying) : Steady s (s.settleCopy c) := by
  unfold State.settleCopy
  refine steady_ite (.refl _) ?_
  refine .trans ?_ (steady_recordLibrary ..)
  exact (Steady.update (flashOnly_modFlash ..).steady).trans (flashOnly_leaveDirty ..).steady

theorem steady_settleStores (s : State) : Steady s s.settleStores := by
  unfold State.settleStores
  refine .trans ?_ (steady_foldl (fun _ _ => steady_settleCopy ..) ..)
  exact steady_foldl (fun _ _ => steady_settleStore ..) ..

theorem ranStill_wgtStoreBody (base : BitVec 42) (s : State) (q : Req) : RanStill s (wgtStoreBody base s q) := by
  unfold wgtStoreBody
  refine ranStill_withObj fun _ => ?_
  refine ranStill_ite (.done (.refl _)) ?_
  refine ranStill_ite (.done (.refl _)) ?_
  split
  · exact .done (.refl _)
  · refine ranStill_ite (.done (.refl _)) ?_
    refine ranStill_ite (.done (.refl _)) ?_
    refine ranStill_ite (.done (.refl _)) ?_
    refine ranStill_ite (.done (.refl _)) ?_
    refine ranStill_ite (.done (.refl _)) ?_
    refine .goesOn ?_
    refine Steady.toStill ?_
    refine .trans ?_ (steady_issueFlash ..)
    refine .trans ?_ (steady_foldl (fun _ _ => (flashOnly_writeStripe ..).steady) ..)
    exact (flashOnly_modFlash ..).steady

theorem steady_deleteEntry (s : State) (e : LibraryEntry) : Steady s (s.deleteEntry e) := by
  unfold State.deleteEntry
  refine .trans ?_ (steady_recordLibrary ..)
  exact (Steady.update (flashOnly_modFlash ..).steady).trans (flashOnly_leaveDirty ..).steady

theorem ranStill_wgtDeleteBody (model : BitVec 64) (version : BitVec 32) (s : State) (q : Req) :
    RanStill s (wgtDeleteBody model version s q) := by
  unfold wgtDeleteBody
  split
  · exact .done (.refl _)
  · exact ranStill_ite (.done (.refl _)) (.done (Steady.toStill (steady_deleteEntry ..)))

theorem steady_modFw (s : State) (f : Firmware → Firmware) : Steady s (s.modFw f) := .update (.refl _)

theorem ranStill_fwStageBody (host : BitVec 64) (off : BitVec 22) (n : BitVec 23) (s : State) (q : Req) :
    RanStill s (fwStageBody host off n s q) := by
  unfold fwStageBody
  refine ranStill_ite (.done (.refl _)) ?_
  refine ranStill_ite ?_ ?_
  · exact .done (.refl _)
  · exact ranStill_ite (.done (.refl _)) (.done (Steady.toStill (steady_modFw ..)))

theorem ranStill_fwVerifyBody (s : State) (q : Req) : RanStill s (fwVerifyBody s q) := by
  unfold fwVerifyBody
  refine ranStill_ite (.done (.refl _)) ?_
  split
  · exact .done (.refl _)
  · refine ranStill_ite ?_ ?_
    · exact .done (.refl _)
    · exact ranStill_ite (.done (.refl _)) (.done (Steady.toStill (steady_modFw ..)))

theorem steady_reloadSection (s : State) (core : Nat) : Steady s (s.reloadSection core) := by
  unfold State.reloadSection
  refine steady_ite (.refl _) ?_
  refine steady_ite (steady_modFw ..) ?_
  split
  · exact steady_modFw ..
  · exact .refl _

theorem steady_activateCore (s : State) (island : Nat) : Steady s (s.activateCore island) :=
  (steady_modFw ..).trans (around_startRestart ..).steady

theorem ranStill_fwActivateBody (s : State) (q : Req) : RanStill s (fwActivateBody s q) := by
  unfold fwActivateBody
  refine ranStill_ite (.done (.refl _)) ?_
  split
  · exact .done (.refl _)
  · exact .goesOn (Steady.toStill ((steady_modFw ..).trans (steady_activateCore ..)))

theorem ranStill_fwQueryBody (s : State) (q : Req) : RanStill s (fwQueryBody s q) := .done (.refl _)

theorem steady_endActivation (s : State) (a : Activation) (written : Bool) : Steady s (s.endActivation a written) := by
  unfold State.endActivation
  dsimp only
  split
  · refine .trans ?_ (kept_finish ..).steady
    refine steady_ite ?_ ?_
    · exact ((told_eventHosts ..).steady.trans (steady_modFw ..)).trans (flashOnly_dropJobs ..).steady
    · refine .trans ?_ (flashOnly_record ..).steady
      exact ((told_eventHosts ..).steady.trans (steady_modFw ..)).trans (flashOnly_dropJobs ..).steady
  · refine steady_ite ?_ ?_
    · exact ((told_eventHosts ..).steady.trans (steady_modFw ..)).trans (flashOnly_dropJobs ..).steady
    · refine .trans ?_ (flashOnly_record ..).steady
      exact ((told_eventHosts ..).steady.trans (steady_modFw ..)).trans (flashOnly_dropJobs ..).steady

theorem steady_writeBoot (s : State) : Steady s s.writeBoot := by
  unfold State.writeBoot
  split
  · exact steady_endActivation ..
  · exact .refl _
  · exact ((flashOnly_addJobs ..).steady.trans (flashOnly_addJobs ..).steady).trans (steady_issueFlash ..)

theorem steady_nextSlot (s : State) (a : Activation) (d : Nat) : Steady s (s.nextSlot a d) := by
  unfold State.nextSlot
  dsimp only
  split
  · exact (flashOnly_dropJobs ..).steady.trans (steady_endActivation ..)
  · refine .trans ?_ (steady_issueFlash ..)
    exact (flashOnly_dropJobs ..).steady.trans (flashOnly_addJobs ..).steady

theorem steady_bootGoesOn (s : State) : Steady s s.bootGoesOn := by
  unfold State.bootGoesOn
  split
  · exact .refl _
  · split
    · exact steady_ite (.refl _) (steady_endActivation ..)
    · refine steady_ite (.refl _) ?_
      refine steady_ite ?_ ?_
      · refine .trans ?_ (steady_issueFlash ..)
        refine .trans ?_ (steady_modFw ..)
        refine .trans ?_ (flashOnly_record ..).steady
        exact Steady.update ((kept_takeFree ..).steady.trans (flashOnly_countPages ..).steady)
      · refine steady_ite ?_ ?_
        · refine .trans ?_ (steady_endActivation ..)
          exact (kept_takeFree ..).steady.trans (flashOnly_countPages ..).steady
        · refine .trans ?_ (steady_writeBoot ..)
          exact ((kept_takeFree ..).steady.trans (flashOnly_countPages ..).steady).trans (steady_modFw ..)

theorem steady_activationRestarted (s : State) (island : Nat) : Steady s (s.activationRestarted island) := by
  unfold State.activationRestarted
  split
  · exact .refl _
  · refine steady_ite (.refl _) ?_
    dsimp only
    split
    · exact (steady_modFw ..).trans (steady_activateCore ..)
    · refine .trans ?_ (steady_writeBoot ..)
      exact ((steady_modFw ..).trans (steady_modFw ..)).trans (told_eventHosts ..).steady

theorem steady_setFlags (s : State) (d block : Nat) (op : FlashOp) (failed : Bool) : Steady s (s.setFlags d block op failed) :=
  (flashOnly_modFlash ..).steady

theorem steady_retireBlock (s : State) (d block : Nat) (op : FlashOp) : Steady s (s.retireBlock d block op) := by
  unfold State.retireBlock
  refine steady_ite ?_ ?_
  · exact ((steady_modDie ..).trans (flashOnly_modFlash ..).steady).trans (steady_loseStripe ..)
  · exact (steady_modDie ..).trans (flashOnly_modFlash ..).steady

theorem steady_modJournal (s : State) (d : Nat) (f : Journal → Journal) : Steady s (s.modJournal d f) :=
  (flashOnly_modFlash ..).steady

theorem steady_modLog (s : State) (d : Nat) (f : LogDie → LogDie) : Steady s (s.modLog d f) := (flashOnly_modFlash ..).steady

theorem steady_journalFails (s : State) (d : Nat) (x : Journal) : Steady s (s.journalFails d x) := by
  unfold State.journalFails
  dsimp only
  split
  · exact ((steady_modJournal ..).trans (steady_retireBlock ..)).trans (steady_modJournal ..)
  · exact (steady_modJournal ..).trans (steady_retireBlock ..)

theorem steady_eraseDone (s : State) (j : FlashJob) : Steady s (s.eraseDone j) := by
  unfold State.eraseDone
  dsimp only
  split
  · exact (steady_dropJob ..).trans (steady_modJournal ..)
  · exact steady_ite (steady_dropJob ..) ((steady_dropJob ..).trans (flashOnly_modFlash ..).steady)
  · exact steady_dropJob ..

theorem steady_journalDone (s : State) (d : Nat) (x : Journal) (w : JournalWrite) : Steady s (s.journalDone d x w) := by
  unfold State.journalDone
  dsimp only
  split
  · exact (steady_programPage ..).trans (steady_modJournal ..)
  · refine steady_ite ?_ ?_
    · exact ((steady_programPage ..).trans (steady_modJournal ..)).trans (steady_modJob ..)
    · exact ((steady_programPage ..).trans (steady_modJournal ..)).trans (steady_eraseDone ..)

theorem steady_logDone (s : State) (d : Nat) (x : LogDie) (r : BitVec 64 × LogRecord) : Steady s (s.logDone d x r) :=
  (steady_programPage ..).trans (steady_modLog ..)

theorem steady_logFails (s : State) (d block : Nat) (op : FlashOp) : Steady s (s.logFails d block op) := by
  unfold State.logFails
  dsimp only
  split
  · exact ((steady_modLog ..).trans (steady_retireBlock ..)).trans (steady_modLog ..)
  · exact ((steady_modLog ..).trans (steady_retireBlock ..)).trans (steady_modLog ..)

theorem steady_jobDone (s : State) (j : FlashJob) : Steady s (s.jobDone j) := by
  unfold State.jobDone
  dsimp only
  split
  · exact (steady_programPage ..).trans (steady_dropJob ..)
  · refine steady_ite ?_ (((steady_blankBlock ..).trans (flashOnly_modFlash ..).steady).trans (steady_modJob ..))
    refine .trans ?_ (steady_loseStripe ..)
    exact ((steady_blankBlock ..).trans (flashOnly_modFlash ..).steady).trans (steady_modJob ..)

theorem steady_jobFails (s : State) (j : FlashJob) : Steady s (s.jobFails j) := by
  unfold State.jobFails
  dsimp only
  split
  · split
    · exact ((steady_dropJob ..).trans (steady_retireBlock ..)).trans (steady_modJournal ..)
    · exact (steady_dropJob ..).trans (steady_retireBlock ..)
  · exact (steady_dropJob ..).trans (steady_logFails ..)
  · split
    · exact ((steady_dropJob ..).trans (steady_retireBlock ..)).trans (steady_nextSlot ..)
    · exact (steady_dropJob ..).trans (steady_retireBlock ..)

theorem steady_opEnds (s : State) (d block : Nat) (op : FlashOp) (failed : Bool) : Steady s (s.opEnds d block op failed) := by
  unfold State.opEnds
  split
  · refine steady_ite ?_ ?_
    · exact (steady_setFlags ..).trans (steady_jobFails ..)
    · exact (steady_setFlags ..).trans (steady_jobDone ..)
  · split
    · refine steady_ite ?_ ?_
      · exact (steady_setFlags ..).trans (steady_journalFails ..)
      · exact (steady_setFlags ..).trans (steady_journalDone ..)
    · refine steady_ite ?_ ?_
      · exact (steady_setFlags ..).trans (steady_logFails ..)
      · exact (steady_setFlags ..).trans (steady_logDone ..)
    · exact .refl _

theorem steady_flashGoesOn (s : State) : Steady s s.flashGoesOn :=
  ((steady_settleStores ..).trans (steady_bootGoesOn ..)).trans (steady_issueFlash ..)

theorem steady_flashOpCompleteEffect (d : Fin 8) (block : BitVec 14) (op : FlashOp) (failed : Bool) (s : State) :
    Steady s (flashOpCompleteEffect d block op failed s) := by
  unfold flashOpCompleteEffect
  refine steady_ite (.refl _) ?_
  refine steady_ite ?_ ?_
  · exact (flashOnly_modFlash ..).steady
  · exact ((steady_issueFlash ..).trans (steady_opEnds ..)).trans (steady_flashGoesOn ..)

theorem steady_storeRestarted (s : State) : Steady s s.storeRestarted := by
  unfold State.storeRestarted
  refine .trans ?_ (steady_flashGoesOn ..)
  exact (flashOnly_modFlash ..).steady.trans (steady_foldl (fun _ _ => steady_opEnds ..) ..)

theorem steady_flashPatrolEffect (stripe : BitVec 12) (pages : List (Nat × Nat)) (s : State) :
    Steady s (flashPatrolEffect stripe pages s) :=
  steady_ite (.refl _) ((flashOnly_countPages ..).steady.trans (steady_copyWorn ..))

/-! ### Partitions and contexts -/

theorem ranStill_withPtn {q : Req} {p : BitVec 3} {s : State} {f : Nat → Partition → Ran} (h : ∀ n x, RanStill s (f n x)) :
    RanStill s (withPtn q p s f) := by
  unfold withPtn
  split
  · exact .done (.refl _)
  · split
    · exact h ..
    · exact .done (.refl _)

theorem steady_addCtx (s : State) (x : Context) : Steady s (s.addCtx x) := .update (.refl _)

theorem steady_createCtx (s : State) (p : Nat) (c : CtxNo) (n : Nat) (mirror : Option (BitVec 64)) (vector : BitVec 16) :
    Steady s (s.createCtx p c n mirror vector).1 := by
  unfold State.createCtx
  dsimp only
  split
  next t _ e =>
    have h := (steady_addCtx ..).trans (Steady.fst (steady_newRingPair ..) e)
    exact h.trans (kept_modCtx ..).steady
  next t _ e =>
    have h := (steady_addCtx ..).trans (Steady.fst (steady_newRingPair ..) e)
    exact .update (h)

theorem steady_freshPtn (s : State) (p low n : Nat) : Steady s (s.freshPtn p low n) := .update (.refl _)

theorem ranStill_ptnCreateBody (mask : BitVec 8) (share : BitVec 21) (n : BitVec 17) (want : BitVec 3) (useWant : Bool) (vector
    : BitVec 16) (s : State) (q : Req) :
    RanStill s (ptnCreateBody mask share n want useWant vector s q) := by
  unfold ptnCreateBody
  split
  · exact .done (.refl _)
  · exact .done (.refl _)
  · refine ranStill_ite (.done (.refl _)) ?_
    split
    · exact .done (.refl _)
    · refine ranStill_ite (.done (.refl _)) ?_
      split
      · refine ranStill_ite (.waits) ?_
        dsimp only
        split
        next t _ e =>
          have h := (((steady_takeDraw ..).trans (steady_freshPtn ..)).trans (told_setPtn ..).steady).trans (Steady.fst (steady_createCtx ..) e)
          exact .done (Steady.toStill (h))
        next t _ e =>
          have h := (((steady_takeDraw ..).trans (steady_freshPtn ..)).trans (told_setPtn ..).steady).trans (Steady.fst (steady_createCtx ..) e)
          exact .done (.refl _)
      · exact .done (.refl _)

theorem steady_dropStores (s : State) (mine : Req → Bool) : Steady s (s.dropStores mine) :=
  (flashOnly_modFlash ..).steady.trans (flashOnly_leaveDirty ..).steady

theorem steady_dropWork (s : State) (mine : Req → Bool) : Steady s (s.dropWork mine) := by
  unfold State.dropWork
  exact (Steady.update (steady_dropStores ..)).trans (steady_modFelt ..)

theorem steady_destroyCtx (s : State) (c : CtxNo) : Steady s (s.destroyCtx c) := by
  unfold State.destroyCtx
  refine .trans ?_ (kept_quotaClear ..).steady
  refine .update ?_
  split
  · refine .update ?_
    refine .trans ?_ (steady_foldl (fun _ _ => (kept_dropObj ..).steady) ..)
    refine .trans ?_ (steady_foldl (fun _ _ => steady_dropWeights ..) ..)
    refine .update ?_
    refine .trans ?_ (steady_foldl (fun _ _ => steady_closeSeq ..) ..)
    refine .trans ?_ (steady_abortWhere ..)
    refine .trans ?_ (steady_dropWork ..)
    refine .trans ?_ (kept_modPtn ..).steady
    exact ((kept_modCtx ..).steady.trans (steady_checkEnded ..)).trans (steady_removeRuns ..)
  · refine .trans ?_ (steady_foldl (fun _ _ => (kept_dropObj ..).steady) ..)
    refine .trans ?_ (steady_foldl (fun _ _ => steady_dropWeights ..) ..)
    refine .update ?_
    refine .trans ?_ (steady_foldl (fun _ _ => steady_closeSeq ..) ..)
    refine .trans ?_ (steady_abortWhere ..)
    refine .trans ?_ (steady_dropWork ..)
    refine .trans ?_ (kept_modPtn ..).steady
    exact ((kept_modCtx ..).steady.trans (steady_checkEnded ..)).trans (steady_removeRuns ..)

theorem steady_emptyPtn (s : State) (p : Nat) : Steady s (s.emptyPtn p) := by
  unfold State.emptyPtn
  split
  · exact .refl _
  · refine .trans ?_ (kept_modPtn ..).steady
    refine .update ?_
    refine .trans ?_ (steady_destroyCtx ..)
    refine .trans ?_ (steady_foldl (fun _ _ => steady_destroyCtx ..) ..)
    refine .trans ?_ (kept_modPtn ..).steady
    refine .trans ?_ (steady_foldl (fun _ _ => (kept_finish ..).steady) ..)
    refine .trans ?_ (steady_leaveGroup ..)
    exact (steady_foldl (fun _ _ => (kept_zeroTier ..).steady) ..).trans (kept_modPtn ..).steady

theorem steady_freePtn (s : State) (p : Nat) : Steady s (s.freePtn p) := by
  unfold State.freePtn
  split
  · exact .refl _
  · refine .trans ?_ (told_setPtn ..).steady
    refine .update ?_
    refine .trans ?_ (steady_foldl (fun _ _ => ?_) _ _)
    · exact .update (.refl _)
    · refine .trans ?_ (steady_foldl (fun _ _ => steady_ite (.refl _) (kept_zeroTier ..).steady) ..)
      exact (kept_zeroTier ..).steady

theorem steady_destroyPtn (s : State) (p : Nat) : Steady s (s.destroyPtn p) := (steady_emptyPtn ..).trans (steady_freePtn ..)

theorem ranStill_ptnDestroyBody (p : BitVec 3) (s : State) (q : Req) : RanStill s (ptnDestroyBody p s q) :=
  ranStill_withPtn (fun _ _ => ranStill_ite (.done (.refl _)) (.goesOn (Steady.toStill (steady_emptyPtn ..))))

theorem still_ptnDestroyEffect (q : Req) (p : BitVec 3) (s : State) : Still s (ptnDestroyEffect q p s) := 
  still_ite (.trans (steady_freePtn ..).toStill (kept_finish ..).steady.toStill) (still_runCommand fun _ _ => ranStill_ptnDestroyBody ..)

theorem steady_mirrorAll (s : State) (c : Context) : Steady s (s.mirrorAll c) := by
  unfold State.mirrorAll
  split
  · exact steady_foldl (fun _ _ => steady_writeHost ..) ..
  · exact .refl _

theorem ranStill_ptnBindBody (token : BitVec 64) (s : State) (q : Req) : RanStill s (ptnBindBody token s q) := by
  unfold ptnBindBody
  split
  · exact .done (.refl _)
  · refine ranStill_ite (.done (.refl _)) ?_
    dsimp only
    split
    · exact .done (Steady.toStill (steady_modHost ..))
    · refine ranStill_ite (.waits) ?_
      refine .done ?_
      refine Steady.toStill ?_
      refine .trans ?_ (kept_event ..).steady
      refine .trans ?_ (steady_foldl (fun _ _ => steady_mirrorAll ..) ..)
      exact (steady_takeDraw ..).trans (kept_modPtn ..).steady

theorem ranStill_ptnQueryBody (p : BitVec 3) (s : State) (q : Req) : RanStill s (ptnQueryBody p s q) :=
  ranStill_withPtn (fun _ _ => .done (.refl _))

theorem ranStill_ptnStageBody (off : BitVec 20) (region : BitVec 4) (p : BitVec 3) (value mask : BitVec 64) (s : State) (q :
    Req) :
    RanStill s (ptnStageBody off region p value mask s q) := by
  unfold ptnStageBody
  refine ranStill_ite (.done (.refl _)) ?_
  refine ranStill_withPtn fun _ _ => ?_
  refine ranStill_ite (.done (.refl _)) ?_
  split
  · exact .done (Steady.toStill (steady_stagePtn ..))
  · exact ranStill_ite (.done (Steady.toStill (steady_stageDev ..))) (.done (.refl _))

theorem ranStill_ptnCommitBody (sel : BitVec 8) (p : BitVec 3) (s : State) (q : Req) :
    RanStill s (ptnCommitBody sel p s q) := by
  unfold ptnCommitBody
  refine ranStill_withPtn fun _ _ => ?_
  refine ranStill_ite (.done (.refl _)) ?_
  split
  next t _ _ e =>
    have h := Steady.fst (steady_commitPtn ..) e
    exact .done (Steady.toStill (h))
  next t e =>
    have h := Steady.fst (steady_commitPtn ..) e
    exact .goesOn (Steady.toStill (h))

theorem ranStill_devCommitBody (sel : BitVec 8) (s : State) (q : Req) : RanStill s (devCommitBody sel s q) :=
  .done (Steady.toStill (steady_commitDevice ..))

theorem ranStill_withContext {q : Req} {c : CtxNo} {s : State} {f : Context → Ran} (h : ∀ x, RanStill s (f x)) :
    RanStill s (withContext q c s f) := by
  refine ranStill_withCtx fun own => ranStill_ite (.done (.refl _)) ?_
  split
  · exact h _
  · exact .done (.refl _)

theorem ranStill_ctxCreateBody (n : BitVec 17) (mirror : Bool) (at_ : BitVec 64) (vector : BitVec 16) (s : State) (q : Req) :
    RanStill s (ctxCreateBody n mirror at_ vector s q) := by
  unfold ctxCreateBody
  refine ranStill_withCtx fun _ => ?_
  dsimp only
  split
  · exact .done (.refl _)
  · split
    next t _ e =>
      have h := Steady.fst (steady_createCtx ..) e
      exact .done (Steady.toStill (h))
    next t _ e =>
      have h := Steady.fst (steady_createCtx ..) e
      exact .done (Steady.toStill (h))

theorem ranStill_ctxDestroyBody (c : CtxNo) (s : State) (q : Req) : RanStill s (ctxDestroyBody c s q) :=
  ranStill_withContext (fun _ => ranStill_ite (.done (.refl _)) (.done (Steady.toStill (steady_destroyCtx ..))))

theorem ranStill_ctxLimitBody (c : CtxNo) (t0 : BitVec 12) (t1 : BitVec 23) (s : State) (q : Req) :
    RanStill s (ctxLimitBody c t0 t1 s q) := by
  unfold ctxLimitBody
  refine ranStill_withContext fun _ => ?_
  refine .done ?_
  refine Steady.toStill ?_
  refine .trans ?_ (kept_quotaClear ..).steady
  refine steady_ite ((kept_modCtx ..).steady.trans (steady_cutContext ..)) ?_
  split
  · exact (kept_modCtx ..).steady.trans (steady_clearContext ..)
  · exact (kept_modCtx ..).steady

theorem ranStill_ctxQueryBody (c : CtxNo) (s : State) (q : Req) : RanStill s (ctxQueryBody c s q) :=
  ranStill_withCtx (fun _ => ranStill_ite (.done (.refl _)) (ranStill_withContext (fun _ => .done (.refl _))))

theorem ranStill_ctxSampleBody (c : CtxNo) (record : BitVec 16) (base off : BitVec 42) (n : BitVec 32) (s : State) (q : Req) :
    RanStill s (ctxSampleBody c record base off n s q) := by
  unfold ctxSampleBody
  refine ranStill_ite (.done (.refl _)) ?_
  refine ranStill_withObj fun _ => ?_
  split
  · exact .done (.refl _)
  · refine ranStill_ite (.done (.refl _)) ?_
    refine ranStill_ite (.done (.refl _)) ?_
    refine ranStill_ite ?_ ?_
    · exact .waits
    · exact .done (Steady.toStill ((kept_writeObj ..).steady.trans (kept_countTiers ..).steady))

/-! ### Resets -/

theorem steady_faultWord (s : State) (x : Partition) (number : BitVec 16) : Steady s (s.faultWord x number).1 := by
  unfold State.faultWord
  dsimp only
  split
  · exact .refl _
  · exact steady_ite_fst (.refl _) (kept_takeFree ..).steady

theorem steady_dropPeerFrames (s : State) (c : CtxNo) : Steady s (s.dropPeerFrames c) := steady_modFelt ..

theorem steady_abortRuns (s : State) (mine : CtxNo → Bool) : Steady s (s.abortRuns mine).1 := steady_abortWhere ..

theorem steady_contextResetEffect (c : CtxNo) (s : State) : Steady s (contextResetEffect c s) := by
  unfold contextResetEffect
  dsimp only
  split
  · refine steady_ite (.refl _) ?_
    refine steady_ite ?_ ?_
    · refine .trans ?_ (kept_event ..).steady
      refine .trans ?_ (kept_modCtx ..).steady
      refine .trans ?_ (steady_abortRuns ..)
      refine .update ?_
      refine .trans ?_ (steady_storeSample ..)
      refine .trans ?_ (steady_faultWord ..)
      exact ((steady_checkEnded ..).trans (steady_removeRuns ..)).trans (steady_dropPeerFrames ..)
    · refine .trans ?_ (kept_event ..).steady
      refine .trans ?_ (kept_event ..).steady
      refine .trans ?_ (kept_modCtx ..).steady
      refine .trans ?_ (steady_abortRuns ..)
      refine .update ?_
      refine .trans ?_ (steady_storeSample ..)
      refine .trans ?_ (steady_faultWord ..)
      exact ((steady_checkEnded ..).trans (steady_removeRuns ..)).trans (steady_dropPeerFrames ..)
  · exact .refl _

theorem steady_chunkFirst (s : State) (p : Nat) (sl : Slot) : Steady s (s.chunkFirst p sl) := (kept_modPtn ..).steady

theorem steady_settleSlot (s : State) (p : Nat) (sl : Slot) : Steady s (s.settleSlot p sl) := by
  unfold State.settleSlot
  split
  · exact .refl _
  · refine steady_ite ?_ ?_
    · exact ((kept_dropPages ..).steady.trans (kept_queueRecompute ..).steady).trans (steady_chunkFirst ..)
    · exact (kept_dropPages ..).steady.trans (kept_queueRecompute ..).steady

theorem steady_slotSettleEffect (p : Fin 8) (s : State) : Steady s (slotSettleEffect p s) := by
  unfold slotSettleEffect
  split
  · exact .refl _
  · refine steady_ite (.refl _) ?_
    refine .trans ?_ (kept_dropHeld ..).steady
    exact (kept_modPtn ..).steady.trans (steady_foldl (fun _ _ => steady_settleSlot ..) ..)

theorem steady_stopPtn (s : State) (p : Nat) (x : Partition) (r : ResetInProgress) : Steady s (s.stopPtn p x r) := by
  unfold State.stopPtn
  refine .trans ?_ (steady_foldl (fun _ _ => (kept_modCtx ..).steady) ..)
  refine .trans ?_ (steady_abortRuns ..)
  refine .update ?_
  refine .trans ?_ (steady_foldl (fun _ _ => ((steady_checkEnded ..).trans (steady_removeRuns ..)).trans (steady_dropPeerFrames ..)) ..)
  exact (steady_faultWord ..).trans (steady_storeSample ..)

theorem steady_abandonSwaps (s : State) (p : Nat) : Steady s (s.abandonSwaps p) := by
  unfold State.abandonSwaps
  refine steady_foldl (fun _ _ => ?_) _ _
  dsimp only
  split
  · exact (steady_modWeight ..).trans (kept_finish ..).steady
  · exact steady_modWeight ..

theorem steady_groupOut (s : State) (p : Nat) : Steady s (s.groupOut p) := by
  unfold State.groupOut
  split
  · exact .refl _
  · refine .trans ?_ (steady_modGroup ..)
    refine .trans ?_ (steady_clearDones ..)
    refine .trans ?_ (steady_dropJoins ..)
    exact steady_ite (.refl _) (sends_sendLeave ..).steady

theorem steady_abortGroupRun (s : State) (p : Nat) (x : Partition) : Steady s (s.abortGroupRun p x) := by
  unfold State.abortGroupRun
  split
  · exact .refl _
  · refine steady_ite ?_ ?_
    · exact (steady_foldl (fun _ _ => (sends_sendControl ..).steady) ..).trans (steady_clearDones ..)
    · exact .refl _

theorem steady_eventOwner (s : State) (p code a0 a1 a2 : Nat) : Steady s (s.eventOwner p code a0 a1 a2) := by
  unfold State.eventOwner
  dsimp only
  split
  · exact (kept_event ..).steady.trans (kept_event ..).steady
  · exact (kept_event ..).steady

theorem steady_partitionResetEffect (p : Fin 8) (s : State) : Steady s (partitionResetEffect p s) := by
  unfold partitionResetEffect
  split
  · exact .refl _
  · split
    · exact .refl _
    · refine steady_ite ?_ ?_
      · refine .trans ?_ (told_report ..).steady
        refine .trans ?_ (steady_eventOwner ..)
        refine .trans ?_ (kept_modPtn ..).steady
        exact ((steady_stopPtn ..).trans (steady_groupOut ..)).trans (steady_abandonSwaps ..)
      · refine .trans ?_ (steady_eventOwner ..)
        refine .trans ?_ (steady_weightsReset ..)
        exact ((steady_abortGroupRun ..).trans (steady_stopPtn ..)).trans (kept_modPtn ..).steady

theorem steady_coreFault (s : State) (island : Nat) : Steady s (s.coreFault island) :=
  steady_ite (around_raiseFault ..).steady (.refl _)

theorem steady_coreExceptionEffect (i : Fin 152) (s : State) : Steady s (coreExceptionEffect i s) := steady_coreFault ..

theorem steady_coreHeartbeatWatchdogEffect (i : Fin 152) (s : State) : Steady s (coreHeartbeatWatchdogEffect i s) :=
  steady_coreFault ..

theorem steady_coreProgressWatchdogEffect (i : Fin 152) (s : State) : Steady s (coreProgressWatchdogEffect i s) :=
  steady_ite (.refl _) (steady_coreFault ..)

theorem steady_txnWatchdogEffect (c : Fin 8) (move chunk : Nat) (s : State) : Steady s (txnWatchdogEffect c move chunk s) := by
  unfold txnWatchdogEffect
  split
  · exact .refl _
  · split
    · exact .refl _
    · refine steady_ite (.refl _) ?_
      dsimp only
      split
      · exact (steady_modMove ..).trans (around_raiseFault ..).steady
      · exact (steady_modMove ..).trans (around_raiseFault ..).steady

theorem steady_ctxResetWatchdogEffect (c : CtxNo) (s : State) : Steady s (ctxResetWatchdogEffect c s) := by
  unfold ctxResetWatchdogEffect
  split
  · exact .refl _
  · exact steady_ite (.refl _) (around_raiseFault ..).steady

theorem steady_ptnResetWatchdogEffect (p : Fin 8) (s : State) : Steady s (ptnResetWatchdogEffect p s) := by
  unfold ptnResetWatchdogEffect
  split
  · exact .refl _
  · exact steady_ite (.refl _) (around_raiseFault ..).steady

theorem steady_coreRestartWatchdogEffect (i : Fin 152) (s : State) : Steady s (coreRestartWatchdogEffect i s) := by
  unfold coreRestartWatchdogEffect
  split
  · exact .refl _
  · exact steady_ite (.refl _) (around_raiseFault ..).steady

theorem steady_withdrawRun (s : State) (p : Nat) (r : Run) : Steady s (s.withdrawRun p r) := by
  unfold State.withdrawRun
  refine .trans ?_ (kept_finish ..).steady
  refine .trans ?_ (kept_checkReserved ..).steady
  refine .trans ?_ (kept_dropHeld ..).steady
  refine .trans ?_ (kept_quotaClear ..).steady
  refine .trans ?_ (kept_modPtn ..).steady
  exact steady_ite (kept_restoreSlots ..).steady (.refl _)

theorem steady_deadlineRun (s : State) (p : Nat) (q : Req) : Steady s (s.deadlineRun p q) := by
  unfold State.deadlineRun
  split
  · exact .refl _
  · split
    · exact .refl _
    · exact steady_ite (steady_withdrawRun ..) (steady_ite (steady_testDeadline ..) (.refl _))

theorem steady_commandDeadlineEffect (ring : Ring) (idx : BitVec 32) (s : State) :
    Steady s (commandDeadlineEffect ring idx s) := by
  unfold commandDeadlineEffect
  split
  · exact .refl _
  · refine steady_ite (.refl _) ?_
    refine steady_ite (kept_finish ..).steady ?_
    split
    · exact steady_deadlineRun ..
    · exact steady_deadlineRun ..
    · exact (kept_finish ..).steady

end Sys2Proof.Machine
end

section
/-! SUPPORT. The queue and the time, function by function: power states, ports, registers, debug and the loader. -/

namespace Sys2Proof.Machine

/-! ### Power states, supplies and the boot -/

theorem ranStill_pwrEnterBody (t : BitVec 3) (s : State) (q : Req) : RanStill s (pwrEnterBody t s q) := by
  unfold pwrEnterBody
  split
  · exact .done (.refl _)
  · exact ranStill_ite (.waits) (ranStill_ite (.done (.refl _)) (.done (Steady.toStill (.update (.refl _)))))

theorem still_enterLull (s : State) : Still s s.enterLull := by
  unfold State.enterLull
  refine .trans ?_ (still_foldl (fun _ _ => ?_) _ _)
  · exact still_enterState ..
  · split
    · exact (steady_reportHeld ..).toStill
    · exact .refl _

theorem still_enterCalm (s : State) : Still s s.enterCalm :=
  (still_enterState ..).trans ((becalms_portsDown ..).steady.toStill)

theorem steady_loseMemory (s : State) : Steady s s.loseMemory := .update (steady_foldl (fun _ _ => steady_modRanks ..) ..)

theorem still_enterStill (s : State) : Still s s.enterStill := by
  unfold State.enterStill
  refine .trans ?_ (steady_modFelt ..).toStill
  refine .trans ?_ ((becalms_portsDown ..).steady.toStill)
  exact (still_enterState ..).trans (steady_loseMemory ..).toStill

theorem steady_cutProgram (s : State) (key : Nat) (x : FlashPage) : Steady s (s.cutProgram key x) :=
  (kept_takeFree ..).steady.trans (steady_programPage ..)

theorem steady_cutFlash (s : State) : Steady s s.cutFlash := by
  unfold State.cutFlash
  refine .trans ?_ (flashOnly_modFlash ..).steady
  refine .trans ?_ (steady_foldl (fun _ _ => ?_) _ _)
  · refine .trans ?_ (steady_foldl (fun _ _ => ?_) _ _)
    · exact steady_foldl (fun _ _ => steady_ite (steady_cutProgram ..) (steady_blankBlock ..)) ..
    · dsimp only
      split
      · exact steady_cutProgram ..
      · exact .refl _
  · dsimp only
    split
    · exact steady_cutProgram ..
    · exact .refl _

theorem still_darken (s : State) (x : PowerState) : Still s (s.darken x) :=
  .update (((still_enterState ..).trans (steady_cutFlash ..).toStill).trans (steady_loseMemory ..).toStill)

theorem steady_flushLog (s : State) (n : Nat) : Steady s (s.flushLog n) := by
  induction n generalizing s with
  | zero =>
    exact .refl _
  | succ n ih =>
    unfold State.flushLog
    refine .trans ?_ (ih ..)
    refine .trans ?_ (steady_foldl (fun _ _ => ?_) _ _)
    · exact steady_foldl (fun _ _ => steady_logTurn ..) ..
    · split
      · split
        · exact steady_logDone ..
        · exact .refl _
      · exact .refl _

theorem still_enterFrost (s : State) : Still s s.enterFrost := by
  unfold State.enterFrost
  refine .update ?_
  refine .trans ?_ (still_darken ..)
  refine .trans ?_ (steady_flushLog ..).toStill
  refine .trans ?_ ((flashOnly_record ..).steady.toStill)
  exact (steady_cutFlash ..).toStill.trans ((flashOnly_modFlash ..).steady.toStill)

theorem still_powerStateEntryEffect (s : State) : Still s (powerStateEntryEffect s) := by
  unfold powerStateEntryEffect
  refine still_ite (.refl _) ?_
  dsimp only
  split
  · exact (Still.update (.refl _)).trans (still_enterLull ..)
  · exact (Still.update (.refl _)).trans (still_enterCalm ..)
  · exact (Still.update (.refl _)).trans (still_enterStill ..)
  · exact (Still.update (.refl _)).trans (still_enterFrost ..)
  · exact .refl _

theorem still_autoLullEffect (s : State) : Still s (autoLullEffect s) := still_ite (still_enterLull ..) (.refl _)

theorem steady_startWaking (s : State) : Steady s s.startWaking := steady_ite (.update (.refl _)) (.refl _)

theorem still_wakeAny (s : State) : Still s s.wakeAny := (still_wake ..).trans (steady_startWaking ..).toStill

theorem still_wakeLineEffect (s : State) : Still s (wakeLineEffect s) := still_wakeAny ..

theorem steady_hostLinkConnectEffect (h : Fin 2) (gen4 : Bool) (s : State) : Steady s (hostLinkConnectEffect h gen4 s) :=
  steady_ite ((steady_modHost ..).trans (steady_startWaking ..)) (.refl _)

theorem steady_startJournal (s : State) (d : Nat) : Steady s (s.startJournal d) := by
  unfold State.startJournal
  split
  · exact .refl _
  · exact steady_modJournal ..

theorem steady_findHalf (s : State) (d : Nat) : Steady s (s.findHalf d) := by
  unfold State.findHalf
  refine .trans ?_ (steady_foldl (fun _ _ => ?_) _ _)
  · exact steady_modDie ..
  · refine steady_ite ?_ ?_
    · refine .trans ?_ (steady_loseStripe ..)
      exact ((kept_takeFree ..).steady.trans (steady_modDie ..)).trans (flashOnly_modFlash ..).steady
    · exact ((kept_takeFree ..).steady.trans (steady_modDie ..)).trans (flashOnly_modFlash ..).steady

theorem steady_startLog (s : State) (half : List Nat) (d : Nat) : Steady s (s.startLog half d) := by
  unfold State.startLog
  split
  · exact .refl _
  · exact (steady_modLog ..).trans (flashOnly_addJobs ..).steady

theorem steady_applyRecords (s : State) : Steady s s.applyRecords :=
  .update ((Steady.update (.refl _)).trans (steady_foldl (fun _ _ => steady_modRanks ..) ..))

theorem steady_startStore (s : State) : Steady s s.startStore := by
  unfold State.startStore
  refine .trans ?_ (steady_issueFlash ..)
  refine .trans ?_ (flashOnly_leaveDirty ..).steady
  refine .trans ?_ (steady_foldl (fun _ _ => steady_startLog ..) ..)
  exact steady_foldl (fun _ _ => (steady_startJournal ..).trans (steady_findHalf ..)) ..

theorem steady_startRegisters (s : State) (thaw : Bool) : Steady s (s.startRegisters thaw) := by
  unfold State.startRegisters
  split
  · exact .update (.refl _)
  · refine steady_ite ?_ ?_
    · exact .update (.refl _)
    · exact (Steady.update (.update (.refl _))).trans (steady_foldl (fun _ _ => steady_modRanks ..) ..)

theorem steady_sendSection (s : State) : Steady s s.sendSection := steady_ite (.update (.refl _)) (.update (.refl _))

theorem still_startCores (s : State) (image : FwInfo) (m : Mem) : Still s (s.startCores image m) := by
  unfold State.startCores
  refine still_ite ?_ ?_
  · refine .trans ?_ ((becalms_becalm ..).steady.toStill)
    refine .trans ?_ (steady_raiseLinks ..).toStill
    refine .trans ?_ (steady_sendSection ..).toStill
    refine .trans ?_ (steady_startStore ..).toStill
    refine .trans ?_ (steady_startRegisters ..).toStill
    refine .trans ?_ (steady_applyRecords ..).toStill
    exact Still.update ((steady_modFw ..).toStill.trans (still_enterState ..))
  · refine .trans ?_ (steady_raiseLinks ..).toStill
    refine .trans ?_ (steady_sendSection ..).toStill
    refine .trans ?_ (steady_startStore ..).toStill
    refine .trans ?_ (steady_startRegisters ..).toStill
    refine .trans ?_ (steady_applyRecords ..).toStill
    exact Still.update ((steady_modFw ..).toStill.trans (still_enterState ..))

theorem still_enterRecovery (s : State) (step : Nat) : Still s (s.enterRecovery step) := .update (.refl _)

theorem still_bootRom (s : State) : Still s s.bootRom := by
  unfold State.bootRom
  dsimp only
  split
  · exact ((kept_takeFree ..).steady.toStill).trans (still_enterRecovery ..)
  · refine .trans ?_ (still_startCores ..)
    exact ((kept_takeFree ..).steady.toStill).trans (steady_modFw ..).toStill

theorem still_thawEffect (s : State) : Still s (thawEffect s) := by
  unfold thawEffect
  refine still_ite (.refl _) ?_
  split
  · refine .trans ?_ (steady_issueFlash ..).toStill
    exact (Still.update (still_enterState ..)).trans (steady_raiseLinks ..).toStill
  · exact still_bootRom ..
  · exact .refl _

theorem still_recoveryStep (s : State) (r : Recovery) : Still s (s.recoveryStep r) := by
  unfold State.recoveryStep
  dsimp only
  split
  · exact still_ite (.update (.refl _)) (.update (.refl _))
  · split
    · exact .update (.refl _)
    · exact .update (.refl _)
  · split
    · exact .update (.refl _)
    · exact ((still_startCores ..).trans (steady_modFw ..).toStill).trans (steady_writeBoot ..).toStill
  · exact .refl _

theorem still_bootRomStartEffect (s : State) : Still s (bootRomStartEffect s) := by
  unfold bootRomStartEffect
  split
  · exact still_recoveryStep ..
  · exact still_ite (still_bootRom ..) (still_ite (still_bootRom ..) (.refl _))

theorem steady_tier1ReadyEffect (s : State) : Steady s (tier1ReadyEffect s) := steady_ite (.update (.refl _)) (.refl _)

theorem steady_powerOnEffect (s : State) : Steady s (powerOnEffect s) := steady_ite (.refl _) (.update (.refl _))

theorem still_powerRemoveEffect (s : State) : Still s (powerRemoveEffect s) := still_ite (.refl _) (.update (still_darken ..))

theorem steady_fieldPowerOnEffect (s : State) : Steady s (fieldPowerOnEffect s) := steady_ite (.refl _) (.update (.refl _))

theorem steady_fieldVddLossEffect (s : State) : Steady s (fieldVddLossEffect s) := .update (.refl _)

theorem steady_refclkPresentEffect (s : State) : Steady s (refclkPresentEffect s) := by
  unfold refclkPresentEffect
  split
  · exact .refl _
  · exact .update (.refl _)

theorem still_abortToFrost (s : State) : Still s s.abortToFrost :=
  .update ((steady_abortWhere ..).toStill.trans (still_enterFrost ..))

theorem still_refclkLossEffect (s : State) : Still s (refclkLossEffect s) :=
  still_ite ((Still.update (.refl _)).trans (still_abortToFrost ..)) (.update (.refl _))

theorem still_thermalTripEffect (die stack : BitVec 8) (s : State) : Still s (thermalTripEffect die stack s) := by
  unfold thermalTripEffect
  refine still_ite (.refl _) ?_
  refine .update ?_
  refine .trans ?_ (still_abortToFrost ..)
  refine .trans ?_ ((told_report ..).steady.toStill)
  exact (Still.update (.refl _)).trans (steady_setLimits ..).toStill

theorem still_recoveryGoEffect (port : Fin 2) (value : BitVec 32) (host : HostBytes) (s : State) :
    Still s (recoveryGoEffect port value host s) := by
  unfold recoveryGoEffect
  dsimp only
  split
  · exact (steady_modHost ..).toStill
  · exact still_ite (steady_modHost ..).toStill (.update (steady_modHost ..).toStill)

/-! ### Host ports -/

theorem steady_eventOther (s : State) (h : Fin 2) (code a0 a1 a2 : Nat) : Steady s (s.eventOther h code a0 a1 a2) :=
  steady_ite (kept_event ..).steady (.refl _)

theorem steady_portAttachEffect (h : Fin 2) (gen4 : Bool) (s : State) : Steady s (portAttachEffect h gen4 s) := by
  unfold portAttachEffect
  refine steady_ite (.refl _) ?_
  refine .trans ?_ (steady_eventOther ..)
  exact steady_ite (.update (steady_modHost ..)) (steady_modHost ..)

theorem steady_expire (s : State) (p : Nat) (h : Fin 2) : Steady s (s.expire p h) :=
  ((steady_destroyPtn ..).trans (told_eventHosts ..).steady).trans (told_report ..).steady

theorem steady_detach (s : State) (h : Fin 2) : Steady s (s.detach h) := by
  unfold State.detach
  refine steady_ite (.refl _) ?_
  refine .trans ?_ (steady_foldl (fun _ _ => ?_) _ _)
  · refine .trans ?_ (told_report ..).steady
    refine .trans ?_ (steady_eventOther ..)
    refine .trans ?_ (steady_foldl (fun _ _ => (kept_modPtn ..).steady) ..)
    exact Steady.update (.update (steady_modHost ..))
  · split
    · exact steady_ite (steady_expire ..) (.refl _)
    · exact .refl _

theorem steady_portDetachEffect (h : Fin 2) (linkUp : Bool) (s : State) : Steady s (portDetachEffect h linkUp s) :=
  (steady_detach ..).trans (steady_modHost ..)

theorem steady_functionLevelResetEffect (h : Fin 2) (s : State) : Steady s (functionLevelResetEffect h s) :=
  (steady_detach ..).trans (steady_modHost ..)

theorem steady_orphanExpiryEffect (p : Fin 8) (s : State) : Steady s (orphanExpiryEffect p s) := by
  unfold orphanExpiryEffect
  split
  · exact .refl _
  · exact steady_ite (.refl _) (steady_expire ..)

/-! ### The field port -/

theorem steady_makeQuote (s : State) (nonce : BitVec 64) : Steady s (s.makeQuote nonce).1 := steady_takeDraw ..

theorem ranStill_devAttestBody (nonce host : BitVec 64) (n : BitVec 32) (s : State) (q : Req) :
    RanStill s (devAttestBody nonce host n s q) := by
  unfold devAttestBody
  dsimp only
  refine ranStill_ite (.done (.refl _)) ?_
  refine ranStill_ite (.done (.refl _)) ?_
  refine ranStill_ite ?_ ?_
  · exact .waits
  · exact .done (Steady.toStill ((steady_makeQuote ..).trans (steady_writeHostOf ..)))

theorem steady_modField (s : State) (f : Field → Field) : Steady s (s.modField f) := .update (.refl _)

theorem steady_gate (s : State) (f : CanFrame) : Steady s (s.gate f).1 := by
  unfold State.gate
  refine steady_ite_fst (.refl _) ?_
  refine steady_ite_fst (.pair (steady_modField ..)) ?_
  refine steady_ite_fst (.pair (steady_modField ..)) ?_
  refine steady_ite_fst (.pair (steady_modField ..)) ?_
  refine steady_ite_fst ?_ ?_
  · exact .pair (steady_modField ..)
  · exact steady_ite_fst (.pair (steady_modField ..)) (.pair (steady_modField ..))

theorem still_onMessage {off : Nat} {f : CanFrame} {s : State} {body : State → State} (h : ∀ t, Still t (body t)) :
    Still s (onMessage off f s body) := by
  have hg := (steady_gate s f).toStill
  unfold onMessage
  refine still_ite (.refl _) ?_
  split
  next t e =>
    exact (hg.fst e).trans (h t)
  next t e =>
    exact hg.fst e

theorem still_shedDirectiveEffect (f : CanFrame) (s : State) : Still s (shedDirectiveEffect f s) :=
  still_onMessage (fun _ => (steady_modField ..).toStill.trans ((told_refreshHolds ..).steady.toStill))

theorem steady_shedPinEffect (level : Bool) (s : State) : Steady s (shedPinEffect level s) :=
  (steady_modField ..).trans (told_refreshHolds ..).steady

theorem steady_applyCapRequest (s : State) (w : Nat) (emerg : Bool) : Steady s (s.applyCapRequest w emerg) :=
  ((Steady.update (.refl _)).trans (steady_capChanged ..)).trans (told_report ..).steady

theorem still_capRequestEffect (f : CanFrame) (s : State) : Still s (capRequestEffect f s) :=
  still_onMessage (fun _ => still_ite (.update (.refl _)) (steady_applyCapRequest ..).toStill)

theorem still_fieldWakeEffect (f : CanFrame) (s : State) : Still s (fieldWakeEffect f s) :=
  still_onMessage fun _ => still_wakeAny ..

theorem still_attestationRequestEffect (f : CanFrame) (s : State) : Still s (attestationRequestEffect f s) :=
  still_onMessage fun _ => (steady_modField ..).toStill

theorem steady_fieldUnknownFrameEffect (f : CanFrame) (s : State) : Steady s (fieldUnknownFrameEffect f s) :=
  steady_ite (.refl _) (steady_gate ..)

theorem steady_sendCan (s : State) (off len : Nat) (payload : List Byte) : Steady s (s.sendCan off len payload) := by
  unfold State.sendCan
  exact steady_modField ..

theorem steady_quoteFragmentEffect (s : State) : Steady s (quoteFragmentEffect s) := by
  unfold quoteFragmentEffect
  split
  · exact .refl _
  · refine steady_ite (.refl _) ?_
    refine .trans ?_ (steady_modField ..)
    refine .trans ?_ (steady_sendCan ..)
    exact steady_ite_fst (steady_makeQuote ..) (.refl _)

theorem steady_beaconEffect (s : State) : Steady s (beaconEffect s) :=
  steady_ite (.refl _) ((steady_sendCan ..).trans (steady_modField ..))

theorem steady_faultSummaryEffect (s : State) : Steady s (faultSummaryEffect s) := by
  unfold faultSummaryEffect
  refine steady_ite (.refl _) ?_
  dsimp only
  split
  · exact steady_ite (.refl _) ((steady_sendCan ..).trans (steady_modField ..))
  · exact ((steady_modField ..).trans (steady_sendCan ..)).trans (steady_modField ..)
  · exact ((steady_modField ..).trans (steady_sendCan ..)).trans (steady_modField ..)

theorem steady_busOffEffect (s : State) : Steady s (busOffEffect s) := steady_ite (steady_modField ..) (.refl _)

theorem steady_wardenHeartbeatLossEffect (s : State) : Steady s (wardenHeartbeatLossEffect s) := steady_modField ..

/-! ### Register writes -/

theorem steady_unsupportedAccessEffect (h : Fin 2) (off : BitVec 24) (wr : Bool) (s : State) :
    Steady s (unsupportedAccessEffect h off wr s) :=
  steady_ite (.refl _) (steady_ite (steady_modHost ..) (.update (steady_modHost ..)))

theorem steady_wideRegisterReadEffect (h : Fin 2) (off : BitVec 24) (s : State) :
    Steady s (wideRegisterReadEffect h off s) := by
  unfold wideRegisterReadEffect
  refine steady_ite (steady_unsupportedAccessEffect ..) ?_
  refine steady_ite (.refl _) ?_
  split
  · exact steady_ite (.update (.refl _)) (steady_ite (.update (steady_modHost ..)) (.update (.refl _)))
  · exact .update (.refl _)

theorem steady_writeFieldCfg (s : State) (v : View) (value : Nat) : Steady s (s.writeFieldCfg v value) := by
  unfold State.writeFieldCfg
  refine steady_ite ?_ ?_
  · exact steady_ite (steady_modField ..) (.refl _)
  · exact steady_ite ((steady_modField ..).trans (flashOnly_record ..).steady) (steady_modField ..)

theorem steady_unmasked (s : State) (h : Fin 2) (k : Nat) : Steady s (s.unmasked h k) :=
  steady_ite (.update (steady_modHost ..)) (.refl _)

theorem steady_writeMsix (s : State) (h : Fin 2) (off value : Nat) : Steady s (s.writeMsix h off value) :=
  (steady_modHost ..).trans (steady_unmasked ..)

theorem steady_writeStagedPtn {s t : State} {v : View} {off value : Nat} (h : s.writeStagedPtn v off value = some t) : Steady s t := by
  unfold State.writeStagedPtn at h
  obtain ⟨x, -, e⟩ := Option.map_eq_some_iff.mp h
  rw [← e]
  exact steady_ite (steady_stagePtn ..) (.refl s)

theorem steady_writeStagedDev {s t : State} {v : View} {off value : Nat} (h : s.writeStagedDev v off value = some t) : Steady s t := by
  unfold State.writeStagedDev at h
  obtain ⟨r, -, e⟩ := Option.map_eq_some_iff.mp h
  rw [← e]
  exact steady_ite (steady_stageDev ..) (.refl s)

theorem steady_writeBlock (s : State) (v : View) (p off value : Nat) : Steady s (s.writeBlock v p off value) := by
  unfold State.writeBlock
  refine steady_ite (.refl _) ?_
  split
  · exact steady_commitPtn ..
  · exact (kept_modPtn ..).steady
  · exact (kept_modPtn ..).steady
  · exact (kept_modPtn ..).steady
  · exact .refl _

theorem steady_writeDev (s : State) (v : View) (off value : Nat) : Steady s (s.writeDev v off value) := by
  unfold State.writeDev
  split
  · exact steady_commitDevice ..
  · exact steady_ite (steady_modHost ..) (.refl _)
  · exact steady_writeFieldCfg ..
  · exact steady_ite (steady_writeSpareCfg ..) (.refl _)
  · exact steady_ite (steady_writeMsix ..) (.refl _)

theorem still_writeDoorbell (s : State) (v : View) (off value : Nat) : Still s (s.writeDoorbell v off value) := by
  unfold State.writeDoorbell
  dsimp only
  split
  · exact still_ite (steady_takeTail ..).toStill (still_sqTailEffect ..)
  · exact still_ite (steady_takeHead ..).toStill (still_cqHeadEffect ..)
  · exact .refl _

theorem still_writeRecovery (s : State) (v : View) (r : Recovery) (off value : Nat) :
    Still s (s.writeRecovery v r off value) := by
  unfold State.writeRecovery
  dsimp only
  split
  · exact still_recoveryGoEffect ..
  · exact .update (.refl _)
  · exact .update (.refl _)
  · exact .update (.refl _)
  · exact .refl _

theorem still_write32 (s : State) (v : View) (off value : Nat) : Still s (s.write32 v off value) := by
  unfold State.write32
  split
  · exact still_writeRecovery ..
  · refine still_ite (still_writeDoorbell ..) ?_
    cases hp : s.writeStagedPtn v off value with
    | some t => exact (steady_writeStagedPtn hp).toStill
    | none =>
      cases hd : s.writeStagedDev v off value with
      | some t => exact (steady_writeStagedDev hd).toStill
      | none => exact still_ite (steady_writeBlock ..).toStill (steady_writeDev ..).toStill

theorem still_arrive32 (s : State) (h : Fin 2) (off value : Nat) : Still s (s.arrive32 h off value) :=
  still_ite (.update (.refl _)) (still_write32 ..)

theorem still_takeHeldWork (s : State) : Still s s.takeHeldWork := by
  unfold State.takeHeldWork
  refine .trans ?_ (still_foldl (fun _ _ => ?_) _ _)
  · exact .update (.refl _)
  · split
    · exact still_write32 ..
    · exact (steady_applyCapRequest ..).toStill
    · exact .refl _

theorem still_arrive (s : State) (h : Fin 2) (off : Nat) (wide : Bool) (value : Nat) : Still s (s.arrive h off wide value) :=
  still_ite ((still_arrive32 ..).trans (still_arrive32 ..)) (still_arrive32 ..)

theorem still_hostWrite (h : Fin 2) (off : Nat) (wide : Bool) (value : Nat) (s : State) :
    Still s (hostWrite h off wide value s) := by
  unfold hostWrite
  refine still_ite ?_ ?_
  · exact (steady_unsupportedAccessEffect ..).toStill
  · exact still_ite (.refl _) ((still_wake ..).trans (still_arrive ..))

theorem still_ptnCommitWriteEffect (h : Fin 2) (p : Fin 8) (value : BitVec 32) (s : State) :
    Still s (ptnCommitWriteEffect h p value s) := still_hostWrite ..

theorem still_devCommitWriteEffect (h : Fin 2) (value : BitVec 32) (s : State) : Still s (devCommitWriteEffect h value s) :=
  still_hostWrite ..

theorem still_stagedRegisterWriteEffect (h : Fin 2) (off : BitVec 24) (wide : Bool) (value : BitVec 64) (s : State) :
    Still s (stagedRegisterWriteEffect h off wide value s) := still_hostWrite ..

theorem still_memcSpareCfgWriteEffect (h : Fin 2) (value : BitVec 32) (s : State) :
    Still s (memcSpareCfgWriteEffect h value s) := still_hostWrite ..

theorem still_devFldCfgWriteEffect (h : Fin 2) (value : BitVec 32) (s : State) : Still s (devFldCfgWriteEffect h value s) :=
  still_hostWrite ..

theorem still_devBarStatClearEffect (h : Fin 2) (value : BitVec 64) (s : State) : Still s (devBarStatClearEffect h value s) :=
  still_hostWrite ..

theorem still_registerWriteEffect (h : Fin 2) (off : BitVec 24) (wide : Bool) (value : BitVec 64) (s : State) :
    Still s (registerWriteEffect h off wide value s) := still_hostWrite ..

theorem still_coreRestartEffect (i : Fin 152) (s : State) : Still s (coreRestartEffect i s) := by
  unfold coreRestartEffect
  refine still_ite (.refl _) ?_
  refine still_ite (steady_reloadSection ..).toStill ?_
  refine .trans ?_ (steady_activationRestarted ..).toStill
  refine still_ite ?_ ?_
  · refine .trans ?_ (still_takeLinkerWork ..)
    refine still_ite ?_ ?_
    · refine .trans ?_ (still_takeHeldWork ..)
      refine .update ?_
      refine still_ite ?_ ?_
      · refine .trans ?_ (steady_storeRestarted ..).toStill
        refine still_ite ?_ ?_
        · exact .update (.update (steady_reloadSection ..).toStill)
        · exact .update (steady_reloadSection ..).toStill
      · refine still_ite ?_ ?_
        · exact .update (.update (steady_reloadSection ..).toStill)
        · exact .update (steady_reloadSection ..).toStill
    · refine still_ite ?_ ?_
      · refine .trans ?_ (steady_storeRestarted ..).toStill
        refine still_ite ?_ ?_
        · exact .update (.update (steady_reloadSection ..).toStill)
        · exact .update (steady_reloadSection ..).toStill
      · refine still_ite ?_ ?_
        · exact .update (.update (steady_reloadSection ..).toStill)
        · exact .update (steady_reloadSection ..).toStill
  · refine still_ite ?_ ?_
    · refine .trans ?_ (still_takeHeldWork ..)
      refine .update ?_
      refine still_ite ?_ ?_
      · refine .trans ?_ (steady_storeRestarted ..).toStill
        refine still_ite ?_ ?_
        · exact .update (.update (steady_reloadSection ..).toStill)
        · exact .update (steady_reloadSection ..).toStill
      · refine still_ite ?_ ?_
        · exact .update (.update (steady_reloadSection ..).toStill)
        · exact .update (steady_reloadSection ..).toStill
    · refine still_ite ?_ ?_
      · refine .trans ?_ (steady_storeRestarted ..).toStill
        refine still_ite ?_ ?_
        · exact .update (.update (steady_reloadSection ..).toStill)
        · exact .update (steady_reloadSection ..).toStill
      · refine still_ite ?_ ?_
        · exact .update (.update (steady_reloadSection ..).toStill)
        · exact .update (steady_reloadSection ..).toStill

/-! ### Debug -/

theorem steady_modChannel (s : State) (ch : Nat) (f : Session → Session) : Steady s (s.modChannel ch f) := .update (.refl _)

theorem steady_challenge (s : State) (ch : Nat) : Steady s (s.challenge ch).1 := by
  unfold State.challenge
  dsimp only
  exact .trans (steady_takeDraw ..) (steady_modChannel ..)

theorem steady_respond (s : State) (ch : Nat) (response : List Byte) : Steady s (s.respond ch response).1 :=
  steady_ite_fst (.pair (steady_modChannel ..)) (.update (steady_modChannel ..))

theorem ranStill_dbgChallengeBody (host : BitVec 64) (s : State) (q : Req) : RanStill s (dbgChallengeBody host s q) := by
  unfold dbgChallengeBody
  split
  · exact .done (.refl _)
  · refine ranStill_ite (.done (.refl _)) ?_
    refine ranStill_ite ?_ ?_
    · exact .waits
    · exact .done (Steady.toStill ((steady_challenge ..).trans (steady_writeHostOf ..)))

theorem ranStill_dbgRespondBody (host : BitVec 64) (s : State) (q : Req) : RanStill s (dbgRespondBody host s q) := by
  unfold dbgRespondBody
  split
  · exact .done (.refl _)
  · exact .done (Steady.toStill (steady_respond ..))

theorem steady_debugSessionExpiryEffect (ch : DbgPort) (s : State) : Steady s (debugSessionExpiryEffect ch s) := by
  unfold debugSessionExpiryEffect
  dsimp only
  split
  · exact steady_ite (steady_modChannel ..) (.refl _)
  · exact .refl _

theorem steady_undefine (s : State) (p : Option Nat) : Steady s (s.undefine p) := by
  unfold State.undefine
  split
  · exact .refl _
  · exact .update (.refl _)

theorem still_writeRegs (s : State) (v : View) (off : Nat) (bs : List Byte) : Still s (s.writeRegs v off bs) :=
  still_foldl (fun _ _ => still_write32 ..) ..

theorem still_writeTarget (s : State) (v : View) (t : DbgTarget) (bs : List Byte) : Still s (s.writeTarget v t bs) := by
  unfold State.writeTarget
  split
  · exact (still_writeRegs ..).trans (still_foldl (fun _ _ => (steady_undefine ..).toStill) ..)
  · refine .trans ?_ (steady_undefine ..).toStill
    refine .update ?_
    split
    · exact (steady_writeBack ..).toStill
    · exact .refl _
  · exact ((kept_writeTier ..).steady.toStill).trans (steady_undefine ..).toStill

theorem still_hostIo (q : Req) (s : State) (a : Nat) (bs : List Byte) : Still s ((hostIo q).put s a bs) := 
  (steady_writeHostOf ..).toStill

theorem still_windowIo (s : State) (a : Nat) (bs : List Byte) : Still s (windowIo.put s a bs) := .update (.refl s)

theorem still_dbgReadRun {io : DbgIo} (h : ∀ s a bs, Still s (io.put s a bs)) (t : DbgTarget) (s : State) :
    Still s (dbgReadRun io t s).1 :=
  still_ite_fst (.refl s) (still_ite_fst (.refl s) (h ..))

theorem still_dbgWriteRun (io : DbgIo) (t : DbgTarget) (s : State) : Still s (dbgWriteRun io t s).1 :=
  still_ite_fst (.refl _) (still_ite_fst (.refl _) (still_writeTarget ..))

theorem still_dbgSampleRun {io : DbgIo} (h : ∀ s a bs, Still s (io.put s a bs)) (p : BitVec 3) (record : BitVec 16) (host : BitVec 64)
    (n : BitVec 32) (s : State) : Still s (dbgSampleRun io p record host n s).1 := by
  unfold dbgSampleRun
  split
  · exact .refl s
  · split
    · exact .refl s
    · exact h ..

theorem steady_dbgUnretireRun (stack : BitVec 3) (rank : BitVec 2) (s : State) : Steady s (dbgUnretireRun stack rank s).1 :=
  steady_ite_fst (.refl _) (steady_ite_fst (.refl _) (steady_unretire ..))

theorem ranStill_dbgReadBody (t : DbgTarget) (s : State) (q : Req) : RanStill s (dbgReadBody t s q) := 
  .done (still_dbgReadRun (still_hostIo q) t s)

theorem ranStill_dbgWriteBody (t : DbgTarget) (s : State) (q : Req) : RanStill s (dbgWriteBody t s q) :=
  .done (still_dbgWriteRun ..)

theorem ranStill_dbgSampleBody (p : BitVec 3) (record : BitVec 16) (host : BitVec 64) (n : BitVec 32) (s : State) (q : Req) :
    RanStill s (dbgSampleBody p record host n s q) :=
  .done (still_dbgSampleRun (still_hostIo q) p record host n s)

theorem ranStill_dbgUnretireBody (stack : BitVec 3) (rank : BitVec 2) (s : State) (q : Req) :
    RanStill s (dbgUnretireBody stack rank s q) := .done (Steady.toStill (steady_dbgUnretireRun ..))

theorem steady_modTap (s : State) (f : Tap → Tap) : Steady s (s.modTap f) := .update (.refl _)

theorem steady_jtagDbgChalEffect (s : State) : Steady s (jtagDbgChalEffect s) := by
  unfold jtagDbgChalEffect
  refine steady_ite (steady_modTap ..) ?_
  refine steady_ite ?_ ?_
  · exact (steady_modTap ..).trans (steady_modTap ..)
  · exact (steady_modTap ..).trans (steady_challenge ..)

theorem steady_jtagDbgRespEffect (response : BitVec 29856) (s : State) : Steady s (jtagDbgRespEffect response s) :=
  steady_ite (steady_modTap ..) ((steady_modTap ..).trans (steady_respond ..))

theorem still_runTap (i : Instr) (s : State) : Still s (runTap i s).1 := by
  unfold runTap
  cases i with
  | dbgChallenge q h =>
    exact still_ite_fst (.refl s) (still_ite_fst (.refl s) ((steady_challenge ..).toStill.trans (still_windowIo ..)))
  | dbgRespond q h => exact still_ite_fst (.refl s) (steady_respond ..).toStill
  | dbgRead q t => exact still_ite_fst (.refl s) (still_dbgReadRun still_windowIo t s)
  | dbgWrite q t => exact still_ite_fst (.refl s) (still_dbgWriteRun ..)
  | dbgSample q p r h n => exact still_dbgSampleRun still_windowIo ..
  | dbgUnretire q k r => exact (steady_dbgUnretireRun ..).toStill
  | _ => exact .refl s

theorem still_tapPacket (s : State) (packet : BitVec 512) : Still s (s.tapPacket packet) := by
  unfold State.tapPacket
  refine .trans ?_ (steady_modTap ..).toStill
  split
  · exact .refl _
  · exact still_ite_fst (still_runTap ..) (.refl _)

theorem still_jtagDbgCmdEffect (packet : BitVec 512) (s : State) : Still s (jtagDbgCmdEffect packet s) := by
  unfold jtagDbgCmdEffect
  refine still_ite ((steady_modTap ..).toStill.trans (steady_modTap ..).toStill) ?_
  refine still_ite ?_ ?_
  · exact (steady_modTap ..).toStill.trans (steady_modTap ..).toStill
  · exact (steady_modTap ..).toStill.trans (still_tapPacket ..)

theorem steady_jtagDbgDataEffect (bits : BitVec 32768) (s : State) : Steady s (jtagDbgDataEffect bits s) := by
  unfold jtagDbgDataEffect
  refine steady_ite ?_ ?_
  · exact (steady_modTap ..).trans (steady_modTap ..)
  · exact (steady_modTap ..).trans (steady_modTap ..)

theorem steady_jtagExtestEffect (s : State) : Steady s (jtagExtestEffect s) := steady_modTap ..

theorem steady_jtagSamplePreloadEffect (s : State) : Steady s (jtagSamplePreloadEffect s) := steady_modTap ..

theorem steady_jtagBypassEffect (code : BitVec 8) (s : State) : Steady s (jtagBypassEffect code s) :=
  steady_ite (.refl _) (steady_modTap ..)

theorem steady_rngHealthFailEffect (s : State) : Steady s (rngHealthFailEffect s) :=
  steady_ite (.refl _) ((Steady.update (.refl _)).trans (told_report ..).steady)

theorem still_tapGoesOn (s : State) : Still s s.tapGoesOn := by
  unfold State.tapGoesOn
  refine still_ite ?_ ?_
  · refine .trans ?_ (still_foldl (fun _ _ => still_tapPacket ..) ..)
    refine still_ite ?_ ?_
    · exact (steady_modTap ..).toStill.trans (steady_challenge ..).toStill
    · exact (steady_modTap ..).toStill
  · refine still_ite ?_ ?_
    · exact (steady_modTap ..).toStill.trans (steady_challenge ..).toStill
    · exact (steady_modTap ..).toStill

theorem still_rngReseedEffect (s : State) : Still s (rngReseedEffect s) :=
  still_ite (.refl _) ((Still.update (.refl _)).trans (still_tapGoesOn ..))

/-! ### The loader -/

theorem steady_pinImage (s : State) (c : CtxNo) (base : BitVec 42) (xs : List Nat) : Steady s (s.pinImage c base xs).1 := by
  induction xs generalizing s with
  | nil =>
    exact .refl _
  | cons i is ih =>
    unfold State.pinImage
    split
    · exact ih ..
    · refine steady_ite_fst (ih ..) ?_
      split
      next t e =>
        have h := Steady.fst (kept_alloc ..).steady e
        exact h
      next t _ e =>
        have h := Steady.fst (kept_alloc ..).steady e
        exact (h.trans (steady_startMigration ..)).trans (ih ..)

theorem ranStill_schedLoadBody (base : BitVec 42) (s : State) (q : Req) : RanStill s (schedLoadBody base s q) := by
  unfold schedLoadBody
  refine ranStill_withObj fun _ => ?_
  refine ranStill_ite (.done (.refl _)) ?_
  refine ranStill_ite (.done (.refl _)) ?_
  refine ranStill_ite (.done (.refl _)) ?_
  split
  · refine ranStill_ite (.done (.refl _)) ?_
    refine ranStill_ite (.waits) ?_
    refine ranStill_ite (.again (Steady.toStill (kept_cancelMigrations ..).steady)) ?_
    split
    next t e =>
      have h := (kept_cancelMigrations ..).steady.trans (Steady.fst (steady_pinImage ..) e)
      exact .done (Steady.toStill (h))
    next t e =>
      have h := (kept_cancelMigrations ..).steady.trans (Steady.fst (steady_pinImage ..) e)
      exact ranStill_ite (.again (Steady.toStill (h))) (.done (Steady.toStill (.update (h))))
  · exact .done (.refl _)

end Sys2Proof.Machine
end

section
/-! SUPPORT. What every step leaves of the queue and the time (98 RD2, 12 R311). -/

namespace Sys2Proof.Machine

/-- Every command has an effect, which leaves the queue and the time as they were. -/
theorem exec_still (i : Instr) (s : State) : ∃ t, exec i s = .next t ∧ Still s t := by
  cases i with
  | devNop q => exact ⟨_, rfl, still_runCommand fun _ _ => ranStill_devNopBody ..⟩
  | devHello q version => exact ⟨_, rfl, still_runCommand fun _ _ => ranStill_devHelloBody ..⟩
  | devQuery q => exact ⟨_, rfl, still_runCommand fun _ _ => ranStill_devQueryBody ..⟩
  | devAttest q nonce host bytes => exact ⟨_, rfl, still_runCommand fun _ _ => ranStill_devAttestBody ..⟩
  | devCommit q sel => exact ⟨_, rfl, still_runCommand fun _ _ => ranStill_devCommitBody ..⟩
  | ptnCreate q mask share n want useWant vector => exact ⟨_, rfl, still_runCommand fun _ _ => ranStill_ptnCreateBody ..⟩
  | ptnDestroy q p => exact ⟨_, rfl, still_ptnDestroyEffect ..⟩
  | ptnBind q token => exact ⟨_, rfl, still_runCommand fun _ _ => ranStill_ptnBindBody ..⟩
  | ptnQuery q p => exact ⟨_, rfl, still_runCommand fun _ _ => ranStill_ptnQueryBody ..⟩
  | ptnStage q offset region p value mask => exact ⟨_, rfl, still_runCommand fun _ _ => ranStill_ptnStageBody ..⟩
  | ptnCommit q sel p => exact ⟨_, rfl, still_runCommand fun _ _ => ranStill_ptnCommitBody ..⟩
  | ctxCreate q n mirror mirrorAt vector => exact ⟨_, rfl, still_runCommand fun _ _ => ranStill_ctxCreateBody ..⟩
  | ctxDestroy q c => exact ⟨_, rfl, still_runCommand fun _ _ => ranStill_ctxDestroyBody ..⟩
  | ctxLimit q c t0 t1 => exact ⟨_, rfl, still_runCommand fun _ _ => ranStill_ctxLimitBody ..⟩
  | ctxQuery q c => exact ⟨_, rfl, still_runCommand fun _ _ => ranStill_ctxQueryBody ..⟩
  | ctxSample q c record base offset bytes => exact ⟨_, rfl, still_runCommand fun _ _ => ranStill_ctxSampleBody ..⟩
  | memWrite q base offset host bytes => exact ⟨_, rfl, still_runCommand fun _ _ => ranStill_memWriteBody ..⟩
  | memRead q base offset host bytes => exact ⟨_, rfl, still_runCommand fun _ _ => ranStill_memReadBody ..⟩
  | memCopy q src srcOff dst dstOff bytes => exact ⟨_, rfl, still_runCommand fun _ _ => ranStill_memCopyBody ..⟩
  | memFill q base offset pattern bytes => exact ⟨_, rfl, still_runCommand fun _ _ => ranStill_memFillBody ..⟩
  | objCreate q desc => exact ⟨_, rfl, still_runCommand fun _ _ => ranStill_objCreateBody ..⟩
  | objFree q base => exact ⟨_, rfl, still_runCommand fun _ _ => ranStill_objFreeBody ..⟩
  | objPin q base => exact ⟨_, rfl, still_runCommand fun _ _ => ranStill_objPinBody ..⟩
  | objUnpin q base => exact ⟨_, rfl, still_runCommand fun _ _ => ranStill_objUnpinBody ..⟩
  | objPlace q base home => exact ⟨_, rfl, still_runCommand fun _ _ => ranStill_objPlaceBody ..⟩
  | objQuery q base => exact ⟨_, rfl, still_runCommand fun _ _ => ranStill_objQueryBody ..⟩
  | seqOpen q a => exact ⟨_, rfl, still_runCommand fun _ _ => ranStill_seqOpenBody ..⟩
  | seqClose q seq => exact ⟨_, rfl, still_runCommand fun _ _ => ranStill_seqCloseBody ..⟩
  | seqQuery q seq host => exact ⟨_, rfl, still_runCommand fun _ _ => ranStill_seqQueryBody ..⟩
  | kvGlobal q seq n clear base offset => exact ⟨_, rfl, still_runCommand fun _ _ => ranStill_kvGlobalBody ..⟩
  | kvCommit q seq a => exact ⟨_, rfl, still_runCommand fun _ _ => ranStill_kvCommitBody ..⟩
  | kvRollback q seq => exact ⟨_, rfl, still_runCommand fun _ _ => ranStill_kvRollbackBody ..⟩
  | kvDrop q seq n => exact ⟨_, rfl, still_runCommand fun _ _ => ranStill_kvDropBody ..⟩
  | pfxRegister q seq p => exact ⟨_, rfl, still_runCommand fun _ _ => ranStill_pfxRegisterBody ..⟩
  | pfxRelease q handle => exact ⟨_, rfl, still_runCommand fun _ _ => ranStill_pfxReleaseBody ..⟩
  | schedLoad q image => exact ⟨_, rfl, still_runCommand fun _ _ => ranStill_schedLoadBody ..⟩
  | schedUnload q image => exact ⟨_, rfl, still_runCommand fun _ _ => ranStill_schedUnloadBody ..⟩
  | schedRun q a => exact ⟨_, rfl, still_runCommand fun _ _ => ranStill_schedRunBody ..⟩
  | schedStepset q base offset count => exact ⟨_, rfl, still_runCommand fun _ _ => ranStill_schedStepsetBody ..⟩
  | schedStepfree q set => exact ⟨_, rfl, still_runCommand fun _ _ => ranStill_schedStepfreeBody ..⟩
  | schedStep q a => exact ⟨_, rfl, still_runCommand fun _ _ => ranStill_schedStepBody ..⟩
  | wgtStore q base => exact ⟨_, rfl, still_runCommand fun _ _ => ranStill_wgtStoreBody ..⟩
  | wgtDelete q modelId version => exact ⟨_, rfl, still_runCommand fun _ _ => ranStill_wgtDeleteBody ..⟩
  | wgtServe q modelId version session group linger => exact ⟨_, rfl, still_runCommand fun _ _ => ranStill_wgtServeBody ..⟩
  | wgtLoad q src protect => exact ⟨_, rfl, still_runCommand fun _ _ => ranStill_wgtLoadBody ..⟩
  | wgtReader q base session reader => exact ⟨_, rfl, still_runCommand fun _ _ => ranStill_wgtReaderBody ..⟩
  | wgtSwap q base deadline src => exact ⟨_, rfl, still_runCommand fun _ _ => ranStill_wgtSwapBody ..⟩
  | wgtQuery q base => exact ⟨_, rfl, still_runCommand fun _ _ => ranStill_wgtQueryBody ..⟩
  | wgtFree q base => exact ⟨_, rfl, still_runCommand fun _ _ => ranStill_wgtFreeBody ..⟩
  | fenceBarrier q => exact ⟨_, rfl, still_runCommand fun _ _ => ranStill_fenceBarrierBody ..⟩
  | syncCreate q value => exact ⟨_, rfl, still_runCommand fun _ _ => ranStill_syncCreateBody ..⟩
  | syncSignal q n increment => exact ⟨_, rfl, still_runCommand fun _ _ => ranStill_syncSignalBody ..⟩
  | syncWait q n target => exact ⟨_, rfl, still_runCommand fun _ _ => ranStill_syncWaitBody ..⟩
  | syncFree q n => exact ⟨_, rfl, still_runCommand fun _ _ => ranStill_syncFreeBody ..⟩
  | syncQuery q n => exact ⟨_, rfl, still_runCommand fun _ _ => ranStill_syncQueryBody ..⟩
  | watchSet q a => exact ⟨_, rfl, still_runCommand fun _ _ => ranStill_watchSetBody ..⟩
  | watchClear q mask => exact ⟨_, rfl, still_runCommand fun _ _ => ranStill_watchClearBody ..⟩
  | watchRead q index host => exact ⟨_, rfl, still_runCommand fun _ _ => ranStill_watchReadBody ..⟩
  | watchTrace q base offset bytes => exact ⟨_, rfl, still_runCommand fun _ _ => ranStill_watchTraceBody ..⟩
  | ctrRead q kind host => exact ⟨_, rfl, still_runCommand fun _ _ => ranStill_ctrReadBody ..⟩
  | ctrClear q => exact ⟨_, rfl, still_runCommand fun _ _ => ranStill_ctrClearBody ..⟩
  | pwrCap q hostCap floor => exact ⟨_, rfl, still_runCommand fun _ _ => ranStill_pwrCapBody ..⟩
  | pwrEnter q target => exact ⟨_, rfl, still_runCommand fun _ _ => ranStill_pwrEnterBody ..⟩
  | pwrMode q mode drizzle clear p => exact ⟨_, rfl, still_runCommand fun _ _ => ranStill_pwrModeBody ..⟩
  | pwrQuery q kind p island point => exact ⟨_, rfl, still_runCommand fun _ _ => ranStill_pwrQueryBody ..⟩
  | fabAnchor q claim host entries => exact ⟨_, rfl, still_runCommand fun _ _ => ranStill_fabAnchorBody ..⟩
  | fabQuery q kind port => exact ⟨_, rfl, still_runCommand fun _ _ => ranStill_fabQueryBody ..⟩
  | fabGroup q a => exact ⟨_, rfl, still_runCommand fun _ _ => ranStill_fabGroupBody ..⟩
  | fabLeave q => exact ⟨_, rfl, still_runCommand fun _ _ => ranStill_fabLeaveBody ..⟩
  | fabPut q src srcOff member offset bytes => exact ⟨_, rfl, still_runCommand fun _ _ => ranStill_fabPutBody ..⟩
  | fabRotate q port => exact ⟨_, rfl, still_runCommand fun _ _ => ranStill_fabRotateBody ..⟩
  | fwStage q host offset bytes => exact ⟨_, rfl, still_runCommand fun _ _ => ranStill_fwStageBody ..⟩
  | fwVerify q => exact ⟨_, rfl, still_runCommand fun _ _ => ranStill_fwVerifyBody ..⟩
  | fwActivate q => exact ⟨_, rfl, still_runCommand fun _ _ => ranStill_fwActivateBody ..⟩
  | fwQuery q => exact ⟨_, rfl, still_runCommand fun _ _ => ranStill_fwQueryBody ..⟩
  | dbgChallenge q host => exact ⟨_, rfl, still_runCommand fun _ _ => ranStill_dbgChallengeBody ..⟩
  | dbgRespond q host => exact ⟨_, rfl, still_runCommand fun _ _ => ranStill_dbgRespondBody ..⟩
  | dbgRead q t => exact ⟨_, rfl, still_runCommand fun _ _ => ranStill_dbgReadBody ..⟩
  | dbgWrite q t => exact ⟨_, rfl, still_runCommand fun _ _ => ranStill_dbgWriteBody ..⟩
  | dbgSample q p record host bytes => exact ⟨_, rfl, still_runCommand fun _ _ => ranStill_dbgSampleBody ..⟩
  | dbgUnretire q stack rank => exact ⟨_, rfl, still_runCommand fun _ _ => ranStill_dbgUnretireBody ..⟩
  | jtagDbgChal  => exact ⟨_, rfl, Steady.toStill (steady_jtagDbgChalEffect ..)⟩
  | jtagDbgResp response => exact ⟨_, rfl, Steady.toStill (steady_jtagDbgRespEffect ..)⟩
  | jtagDbgCmd packet => exact ⟨_, rfl, still_jtagDbgCmdEffect ..⟩
  | jtagDbgData shiftIn => exact ⟨_, rfl, Steady.toStill (steady_jtagDbgDataEffect ..)⟩
  | jtagExtest  => exact ⟨_, rfl, Steady.toStill (steady_jtagExtestEffect ..)⟩
  | jtagSamplePreload  => exact ⟨_, rfl, Steady.toStill (steady_jtagSamplePreloadEffect ..)⟩
  | jtagBypass code => exact ⟨_, rfl, Steady.toStill (steady_jtagBypassEffect ..)⟩
  | sqTailWrite port ring value units host => exact ⟨_, rfl, still_sqTailEffect ..⟩
  | cqHeadWrite port ring value => exact ⟨_, rfl, still_cqHeadEffect ..⟩
  | packetAccept ring => exact ⟨_, rfl, Steady.toStill (steady_packetAcceptEffect ..)⟩
  | eventDeliver ring => exact ⟨_, rfl, Steady.toStill (steady_eventDeliverEffect ..)⟩
  | commandDeadline ring idx => exact ⟨_, rfl, Steady.toStill (steady_commandDeadlineEffect ..)⟩
  | ptnCommitWrite port p value => exact ⟨_, rfl, still_ptnCommitWriteEffect ..⟩
  | devCommitWrite port value => exact ⟨_, rfl, still_devCommitWriteEffect ..⟩
  | stagedRegisterWrite port offset wide value => exact ⟨_, rfl, still_stagedRegisterWriteEffect ..⟩
  | memcSpareCfgWrite port value => exact ⟨_, rfl, still_memcSpareCfgWriteEffect ..⟩
  | devFldCfgWrite port value => exact ⟨_, rfl, still_devFldCfgWriteEffect ..⟩
  | devBarStatClear port value => exact ⟨_, rfl, still_devBarStatClearEffect ..⟩
  | recoveryGo port value host => exact ⟨_, rfl, still_recoveryGoEffect ..⟩
  | registerWrite port offset wide value => exact ⟨_, rfl, still_registerWriteEffect ..⟩
  | wideRegisterRead port offset => exact ⟨_, rfl, Steady.toStill (steady_wideRegisterReadEffect ..)⟩
  | unsupportedAccess port offset write => exact ⟨_, rfl, Steady.toStill (steady_unsupportedAccessEffect ..)⟩
  | runDispatch p => exact ⟨_, rfl, Steady.toStill (steady_runDispatchEffect ..)⟩
  | drizzleRampDone p => exact ⟨_, rfl, Steady.toStill (steady_drizzleRampDoneEffect ..)⟩
  | memberCollect c member => exact ⟨_, rfl, Steady.toStill (steady_memberCollectEffect ..)⟩
  | beatRelease p ns => exact ⟨_, rfl, Steady.toStill (steady_beatReleaseEffect ..)⟩
  | runComplete p => exact ⟨_, rfl, Steady.toStill (steady_runCompleteEffect ..)⟩
  | slip p => exact ⟨_, rfl, Steady.toStill (steady_slipEffect ..)⟩
  | slipAbandon p => exact ⟨_, rfl, Steady.toStill (steady_slipAbandonEffect ..)⟩
  | mm c t => exact ⟨_, rfl, Steady.toStill (steady_mmEffect ..)⟩
  | mmb c t => exact ⟨_, rfl, Steady.toStill (steady_mmbEffect ..)⟩
  | ptbuild c t => exact ⟨_, rfl, Steady.toStill (steady_ptbuildEffect ..)⟩
  | scload c t => exact ⟨_, rfl, Steady.toStill (steady_scloadEffect ..)⟩
  | cbload c t => exact ⟨_, rfl, Steady.toStill (steady_cbloadEffect ..)⟩
  | move c t => exact ⟨_, rfl, Steady.toStill (steady_moveEffect ..)⟩
  | fill c t => exact ⟨_, rfl, Steady.toStill (steady_fillEffect ..)⟩
  | filler c t => exact ⟨_, rfl, Steady.toStill (steady_fillerEffect ..)⟩
  | mms c t => exact ⟨_, rfl, Steady.toStill (steady_mmsEffect ..)⟩
  | attd c t => exact ⟨_, rfl, Steady.toStill (steady_attdEffect ..)⟩
  | lsbuild c t => exact ⟨_, rfl, Steady.toStill (steady_lsbuildEffect ..)⟩
  | lscan c t => exact ⟨_, rfl, Steady.toStill (steady_lscanEffect ..)⟩
  | lselect c t => exact ⟨_, rfl, Steady.toStill (steady_lselectEffect ..)⟩
  | rescore c t => exact ⟨_, rfl, Steady.toStill (steady_rescoreEffect ..)⟩
  | smerge c t => exact ⟨_, rfl, Steady.toStill (steady_smergeEffect ..)⟩
  | rowsum c t => exact ⟨_, rfl, Steady.toStill (steady_rowsumEffect ..)⟩
  | resultCoding c t => exact ⟨_, rfl, Steady.toStill (steady_resultCodingEffect ..)⟩
  | narrowStore c t space byte size value tag => exact ⟨_, rfl, Steady.toStill (steady_narrowStoreEffect ..)⟩
  | narrowLoad c t space byte size => exact ⟨_, rfl, Steady.toStill (steady_narrowLoadEffect ..)⟩
  | coalesceWriteback c t space line => exact ⟨_, rfl, Steady.toStill (steady_coalesceWritebackEffect ..)⟩
  | headboxMove c => exact ⟨_, rfl, Steady.toStill (steady_headboxMoveEffect ..)⟩
  | compressingMove c => exact ⟨_, rfl, Steady.toStill (steady_compressingMoveEffect ..)⟩
  | codedCopy c => exact ⟨_, rfl, Steady.toStill (steady_codedCopyEffect ..)⟩
  | pageRunMove c => exact ⟨_, rfl, Steady.toStill (steady_pageRunMoveEffect ..)⟩
  | couchRun c => exact ⟨_, rfl, Steady.toStill (steady_couchRunEffect ..)⟩
  | peerMove c => exact ⟨_, rfl, Steady.toStill (steady_peerMoveEffect ..)⟩
  | hbTxnIssue c move => exact ⟨_, rfl, Steady.toStill (steady_hbTxnIssueEffect ..)⟩
  | hbTxnRetire c move chunk outcome => exact ⟨_, rfl, Steady.toStill (steady_hbTxnRetireEffect ..)⟩
  | rankCopyDone s => exact ⟨_, rfl, Steady.toStill (steady_rankCopyDoneEffect ..)⟩
  | keeperPoisonAction c line => exact ⟨_, rfl, Steady.toStill (steady_keeperPoisonActionEffect ..)⟩
  | patrolScrub c line outcome => exact ⟨_, rfl, Steady.toStill (steady_patrolScrubEffect ..)⟩
  | refresh s celsius => exact ⟨_, rfl, Steady.toStill (steady_refreshEffect ..)⟩
  | tempReadout die temps => exact ⟨_, rfl, Steady.toStill (steady_tempReadoutEffect ..)⟩
  | ceilingStep  => exact ⟨_, rfl, Steady.toStill (steady_ceilingStepEffect ..)⟩
  | inputUndervoltage  => exact ⟨_, rfl, Steady.toStill (steady_inputUndervoltageEffect ..)⟩
  | railOvercurrent  => exact ⟨_, rfl, Steady.toStill (steady_railOvercurrentEffect ..)⟩
  | thermalTrip die stack => exact ⟨_, rfl, still_thermalTripEffect ..⟩
  | refclkLoss  => exact ⟨_, rfl, still_refclkLossEffect ..⟩
  | powerEstimate p milliwatts => exact ⟨_, rfl, Steady.toStill (steady_powerEstimateEffect ..)⟩
  | ageingReplan i margins => exact ⟨_, rfl, Steady.toStill (steady_ageingReplanEffect ..)⟩
  | tileMigrate c base tile => exact ⟨_, rfl, Steady.toStill (steady_tileMigrateEffect ..)⟩
  | tilePromote p => exact ⟨_, rfl, Steady.toStill (steady_tilePromoteEffect ..)⟩
  | quotaReclaim p => exact ⟨_, rfl, Steady.toStill (steady_quotaReclaimEffect ..)⟩
  | contextReset c => exact ⟨_, rfl, Steady.toStill (steady_contextResetEffect ..)⟩
  | slotSettle p => exact ⟨_, rfl, Steady.toStill (steady_slotSettleEffect ..)⟩
  | partitionReset p => exact ⟨_, rfl, Steady.toStill (steady_partitionResetEffect ..)⟩
  | coreRestart i => exact ⟨_, rfl, still_coreRestartEffect ..⟩
  | coreException i => exact ⟨_, rfl, Steady.toStill (steady_coreExceptionEffect ..)⟩
  | txnWatchdog c move chunk => exact ⟨_, rfl, Steady.toStill (steady_txnWatchdogEffect ..)⟩
  | coreHeartbeatWatchdog i => exact ⟨_, rfl, Steady.toStill (steady_coreHeartbeatWatchdogEffect ..)⟩
  | coreProgressWatchdog i => exact ⟨_, rfl, Steady.toStill (steady_coreProgressWatchdogEffect ..)⟩
  | ctxResetWatchdog c => exact ⟨_, rfl, Steady.toStill (steady_ctxResetWatchdogEffect ..)⟩
  | ptnResetWatchdog p => exact ⟨_, rfl, Steady.toStill (steady_ptnResetWatchdogEffect ..)⟩
  | coreRestartWatchdog i => exact ⟨_, rfl, Steady.toStill (steady_coreRestartWatchdogEffect ..)⟩
  | shardReceive c base tile bytes => exact ⟨_, rfl, Steady.toStill (steady_shardReceiveEffect ..)⟩
  | waveRelease p => exact ⟨_, rfl, Steady.toStill (steady_waveReleaseEffect ..)⟩
  | shardMissing c base tile => exact ⟨_, rfl, Steady.toStill (steady_shardMissingEffect ..)⟩
  | shardOverdue c base tile => exact ⟨_, rfl, Steady.toStill (steady_shardOverdueEffect ..)⟩
  | resendRequest session receiver tile => exact ⟨_, rfl, Steady.toStill (steady_resendRequestEffect ..)⟩
  | sessionLingerExpiry session => exact ⟨_, rfl, Steady.toStill (steady_sessionLingerExpiryEffect ..)⟩
  | linkSignal k => exact ⟨_, rfl, still_linkSignalEffect ..⟩
  | trainingTimeout k => exact ⟨_, rfl, Steady.toStill (steady_trainingTimeoutEffect ..)⟩
  | refusedRetry k => exact ⟨_, rfl, Steady.toStill (steady_refusedRetryEffect ..)⟩
  | helloFrame k f serial nonce iface addr => exact ⟨_, rfl, still_helloFrameEffect ..⟩
  | proofFrame k f proof => exact ⟨_, rfl, still_proofFrameEffect ..⟩
  | rotateFrame k f epoch => exact ⟨_, rfl, still_rotateFrameEffect ..⟩
  | keyRotationDue k => exact ⟨_, rfl, Steady.toStill (steady_keyRotationDueEffect ..)⟩
  | rotationAckTimeout k => exact ⟨_, rfl, Steady.toStill (steady_rotationAckTimeoutEffect ..)⟩
  | dataFrame k f => exact ⟨_, rfl, still_dataFrameEffect ..⟩
  | multicastFrame k f => exact ⟨_, rfl, still_multicastFrameEffect ..⟩
  | ackFrame k f first count beyond => exact ⟨_, rfl, still_ackFrameEffect ..⟩
  | idleFrame k => exact ⟨_, rfl, Steady.toStill (steady_idleFrameEffect ..)⟩
  | linkStateFrame k f ls => exact ⟨_, rfl, still_linkStateFrameEffect ..⟩
  | addressAssign serial addr => exact ⟨_, rfl, Steady.toStill (steady_addressAssignEffect ..)⟩
  | frameResendTimer part dst dpart seq => exact ⟨_, rfl, Steady.toStill (steady_frameResendTimerEffect ..)⟩
  | portSilenceTimeout k => exact ⟨_, rfl, Steady.toStill (steady_portSilenceTimeoutEffect ..)⟩
  | fecLockLoss k => exact ⟨_, rfl, Steady.toStill (steady_fecLockLossEffect ..)⟩
  | routeInstall  => exact ⟨_, rfl, Steady.toStill (steady_routeInstallEffect ..)⟩
  | joinFrame k f j => exact ⟨_, rfl, still_joinFrameEffect ..⟩
  | groupFormTimeout p => exact ⟨_, rfl, Steady.toStill (steady_groupFormTimeoutEffect ..)⟩
  | leaveFrame k f moved => exact ⟨_, rfl, still_leaveFrameEffect ..⟩
  | doneFrame k f beat admitted => exact ⟨_, rfl, still_doneFrameEffect ..⟩
  | releaseFrame k f beat => exact ⟨_, rfl, still_releaseFrameEffect ..⟩
  | heldFrame k f => exact ⟨_, rfl, still_heldFrameEffect ..⟩
  | abortFrame k f => exact ⟨_, rfl, still_abortFrameEffect ..⟩
  | treeJoin k f reader group => exact ⟨_, rfl, still_treeJoinEffect ..⟩
  | branchPrune reader group k => exact ⟨_, rfl, Steady.toStill (steady_branchPruneEffect ..)⟩
  | autoLull  => exact ⟨_, rfl, still_autoLullEffect ..⟩
  | powerStateEntry  => exact ⟨_, rfl, still_powerStateEntryEffect ..⟩
  | wakeLine  => exact ⟨_, rfl, still_wakeLineEffect ..⟩
  | hostLinkConnect link => exact ⟨_, rfl, Steady.toStill (steady_hostLinkConnectEffect ..)⟩
  | thaw  => exact ⟨_, rfl, still_thawEffect ..⟩
  | tier1Ready  => exact ⟨_, rfl, Steady.toStill (steady_tier1ReadyEffect ..)⟩
  | powerOn  => exact ⟨_, rfl, Steady.toStill (steady_powerOnEffect ..)⟩
  | powerRemove  => exact ⟨_, rfl, still_powerRemoveEffect ..⟩
  | fieldPowerOn  => exact ⟨_, rfl, Steady.toStill (steady_fieldPowerOnEffect ..)⟩
  | bootRomStart  => exact ⟨_, rfl, still_bootRomStartEffect ..⟩
  | flashOpComplete d block op failed => exact ⟨_, rfl, Steady.toStill (steady_flashOpCompleteEffect ..)⟩
  | flashPatrol stripe pages => exact ⟨_, rfl, Steady.toStill (steady_flashPatrolEffect ..)⟩
  | portAttach port gen4 => exact ⟨_, rfl, Steady.toStill (steady_portAttachEffect ..)⟩
  | portDetach loss => exact ⟨_, rfl, Steady.toStill (steady_portDetachEffect ..)⟩
  | functionLevelReset port => exact ⟨_, rfl, Steady.toStill (steady_functionLevelResetEffect ..)⟩
  | orphanExpiry p => exact ⟨_, rfl, Steady.toStill (steady_orphanExpiryEffect ..)⟩
  | shedDirective f => exact ⟨_, rfl, still_shedDirectiveEffect ..⟩
  | shedPin level => exact ⟨_, rfl, Steady.toStill (steady_shedPinEffect ..)⟩
  | capRequest f => exact ⟨_, rfl, still_capRequestEffect ..⟩
  | fieldWake f => exact ⟨_, rfl, still_fieldWakeEffect ..⟩
  | attestationRequest f => exact ⟨_, rfl, still_attestationRequestEffect ..⟩
  | quoteFragment  => exact ⟨_, rfl, Steady.toStill (steady_quoteFragmentEffect ..)⟩
  | fieldUnknownFrame f => exact ⟨_, rfl, Steady.toStill (steady_fieldUnknownFrameEffect ..)⟩
  | beacon  => exact ⟨_, rfl, Steady.toStill (steady_beaconEffect ..)⟩
  | faultSummary  => exact ⟨_, rfl, Steady.toStill (steady_faultSummaryEffect ..)⟩
  | busOff  => exact ⟨_, rfl, Steady.toStill (steady_busOffEffect ..)⟩
  | wardenHeartbeatLoss  => exact ⟨_, rfl, Steady.toStill (steady_wardenHeartbeatLossEffect ..)⟩
  | slotDue p => exact ⟨_, rfl, Steady.toStill (steady_slotDueEffect ..)⟩
  | rngHealthFail  => exact ⟨_, rfl, Steady.toStill (steady_rngHealthFailEffect ..)⟩
  | rngReseed  => exact ⟨_, rfl, still_rngReseedEffect ..⟩
  | debugSessionExpiry ch => exact ⟨_, rfl, Steady.toStill (steady_debugSessionExpiryEffect ..)⟩
  | refclkPresent  => exact ⟨_, rfl, Steady.toStill (steady_refclkPresentEffect ..)⟩
  | fieldVddLoss  => exact ⟨_, rfl, Steady.toStill (steady_fieldVddLossEffect ..)⟩
  | inputVoltageRestored  => exact ⟨_, rfl, Steady.toStill (steady_inputVoltageRestoredEffect ..)⟩
  | linkTrainingComplete k => exact ⟨_, rfl, still_linkTrainingCompleteEffect ..⟩
  | rotateAcknowledgement k f => exact ⟨_, rfl, still_rotateAcknowledgementEffect ..⟩
  | uncorrectableFecCodeword k => exact ⟨_, rfl, Steady.toStill (steady_uncorrectableFecCodewordEffect ..)⟩
  | portHealthRestored k => exact ⟨_, rfl, Steady.toStill (steady_portHealthRestoredEffect ..)⟩
  | linkCredit k hopClass channel count => exact ⟨_, rfl, Steady.toStill (steady_linkCreditEffect ..)⟩
  | flashReadComplete model version tile r => exact ⟨_, rfl, Steady.toStill (steady_flashReadCompleteEffect ..)⟩

theorem step_idle {s : State} (h : s.pending = []) : step s = .next s.tick := by
  rw [step, h]

/-- Settles O5: every effect leaves the queue that it is given, which is the tail. -/
theorem queueKept : Obligations.QueueKept := by
  intro s t h
  cases hp : s.pending with
  | nil =>
    rw [step_idle hp] at h
    cases h
    exact (still_tick s).pending.trans hp
  | cons c rest =>
    rw [stepRunsFront _ _ _ hp] at h
    obtain ⟨u, hu, hs⟩ := exec_still c { s with pending := rest }
    cases hu.symm.trans h
    exact hs.pending

/-- A microsecond in which no rank's copy goes on. -/
theorem copyTick_none {s : State} {k : Nat} (h : (s.stackRanks k).retiring = none) : s.copyTick k = s := by
  rw [State.copyTick, h]

/-- With no frame that the device sent to itself, none arrives. -/
theorem takeOwns_nil {s : State} (h : s.felt.own = []) : s.takeOwns = s := by
  rw [State.takeOwns, h, List.foldl_nil, State.modFelt, ← h]

/-- A fold whose every step leaves the state where it starts. -/
theorem foldl_stays {α : Type} {f : State → α → State} {s : State} {as : List α} (h : ∀ a ∈ as, f s a = s) : as.foldl f s = s := by
  induction as with
  | nil => rfl
  | cons a as ih =>
    rw [List.foldl_cons, h a List.mem_cons_self]
    exact ih fun b hb => h b (List.mem_cons_of_mem a hb)

theorem tick_quiet {s : State} (hr : ∀ i < 6, (s.stackRanks i).retiring = none) (ho : s.felt.own = []) :
    s.tick = { s with now := s.now + 1 } := by
  rw [State.tick, foldl_stays (s := { s with now := s.now + 1 }) fun k hk => copyTick_none (hr k (List.mem_range.mp hk))]
  exact takeOwns_nil ho

/-- Settles O2. -/
theorem idlesAnswers : Obligations.IdlesAnswers := by
  refine ⟨fun s hp => ⟨step_idle hp, (still_tick s).now, tick_quiet⟩, fun s => ?_⟩
  cases hp : s.pending with
  | nil => exact ⟨_, step_idle hp⟩
  | cons c rest =>
    obtain ⟨u, hu, -⟩ := exec_still c { s with pending := rest }
    exact ⟨u, (stepRunsFront _ _ _ hp).trans hu⟩

end Sys2Proof.Machine
end

section
/-! SUPPORT. Entry to a power state, wakes and the boot (15 R373 to R376, 17 R435). -/

namespace Sys2Proof.Machine

/-! ### PWR.ENTER -/

theorem pwrEnterBody_run {t : BitVec 3} (h : targetOf t = none) (s : State) (q : Req) :
    pwrEnterBody t s q = .status s stOkEmpty := by
  simp only [pwrEnterBody, h]

theorem pwrEnterBody_some {t : BitVec 3} {x : PowerState} (h : targetOf t = some x) (s : State) (q : Req) :
    pwrEnterBody t s q =
      if x != .lull && s.accepted.any fun a => isDestroy a.cmd then .waits
      else if s.enterBarred q x then .status s stInUse
      else .status { s with pwr := { s.pwr with target := some x } } stOk := by
  simp only [pwrEnterBody, h]

/-- Without a destruction in its way PWR.ENTER is barred, or records its target. -/
theorem pwrEnterBody_judged {t : BitVec 3} {x : PowerState} (h : targetOf t = some x) {s : State} (q : Req)
    (hd : x = .lull ∨ s.accepted.any (fun a => isDestroy a.cmd) = false) :
    pwrEnterBody t s q = if s.enterBarred q x then .status s stInUse
      else .status { s with pwr := { s.pwr with target := some x } } stOk := by
  refine (pwrEnterBody_some h s q).trans (if_neg ?_)
  rcases hd with rfl | hd
  · simp
  · simp [hd]

/-! ### What the store dies and the controller's ranks do while the device darkens -/

/-- The state t is s with the flash store, the free values drawn and the controller changed. -/
def Dims (s t : State) : Prop := ∃ fl n mc, t = { s with flash := fl, free := n, memc := mc }

theorem Dims.refl (s : State) : Dims s s := ⟨s.flash, s.free, s.memc, rfl⟩

theorem Dims.trans {s t u : State} (h : Dims s t) (k : Dims t u) : Dims s u := by
  obtain ⟨_, _, _, rfl⟩ := h
  obtain ⟨fl, n, mc, rfl⟩ := k
  exact ⟨fl, n, mc, rfl⟩

theorem dims_foldl {α : Type} {f : State → α → State} (h : ∀ s a, Dims s (f s a)) (as : List α) (s : State) : Dims s (as.foldl f s) := by
  induction as generalizing s with
  | nil => exact .refl s
  | cons a as ih => exact (h s a).trans (ih _)

theorem dims_ite {s t u : State} {c : Prop} [Decidable c] (ht : Dims s t) (hu : Dims s u) : Dims s (if c then t else u) := by
  split
  · exact ht
  · exact hu

theorem FlashOnly.dims {s t : State} (h : FlashOnly s t) : Dims s t := by
  obtain ⟨fl, rfl⟩ := h
  exact ⟨fl, s.free, s.memc, rfl⟩

theorem dims_modFlash (s : State) (f : Flash → Flash) : Dims s (s.modFlash f) := (flashOnly_modFlash s f).dims

theorem dims_programPage (s : State) (key : Nat) (x : FlashPage) : Dims s (s.programPage key x) := dims_modFlash ..

theorem dims_modLog (s : State) (d : Nat) (f : LogDie → LogDie) : Dims s (s.modLog d f) := dims_modFlash ..

theorem dims_addJob (s : State) (j : FlashJob) : Dims s (s.addJob j) := dims_modFlash ..

theorem dims_cutProgram (s : State) (key : Nat) (x : FlashPage) : Dims s (s.cutProgram key x) :=
  Dims.trans ⟨s.flash, s.free + 1, s.memc, rfl⟩ (dims_programPage ..)

theorem dims_cutFlash (s : State) : Dims s s.cutFlash := by
  unfold State.cutFlash
  refine .trans ?_ (dims_modFlash ..)
  refine .trans ?_ (dims_foldl (fun _ _ => ?_) _ _)
  · refine .trans ?_ (dims_foldl (fun _ _ => ?_) _ _)
    · exact dims_foldl (fun _ _ => dims_ite (dims_cutProgram ..) (dims_modFlash ..)) _ _
    · dsimp only
      split
      · exact dims_cutProgram ..
      · exact .refl _
  · dsimp only
    split
    · exact dims_cutProgram ..
    · exact .refl _

theorem dims_modRanks (s : State) (k : Nat) (f : RankState → RankState) : Dims s (s.modRanks k f) :=
  have hm (mc : MemCtl) : Dims s { s with memc := mc } := ⟨s.flash, s.free, mc, rfl⟩
  dims_ite (hm _) ((hm _).trans (flashOnly_record ..).dims)

theorem dims_logTurn (s : State) (d : Nat) : Dims s (s.logTurn d) := by
  have hadvance (x : LogDie) : Dims s (s.logAdvance d x) := (dims_modFlash ..).trans (dims_addJob ..)
  unfold State.logTurn
  split
  · exact .refl s
  · refine dims_ite (.refl s) (dims_ite (.refl s) ?_)
    dsimp only
    have hu (x : LogDie) {c : Prop} [Decidable c] : Dims s (if c then s.logAdvance d x else s) := dims_ite (hadvance x) (.refl s)
    split
    · exact hu _
    · split
      · exact hu _
      · exact dims_ite (hu _) ((hu _).trans (dims_modFlash ..))

theorem dims_logDone (s : State) (d : Nat) (x : LogDie) (r : BitVec 64 × LogRecord) : Dims s (s.logDone d x r) :=
  (dims_programPage ..).trans (dims_modLog ..)

theorem dims_flushLog (s : State) (n : Nat) : Dims s (s.flushLog n) := by
  induction n generalizing s with
  | zero => exact .refl s
  | succ n ih =>
    refine .trans ?_ (ih _)
    refine .trans (dims_foldl dims_logTurn _ _) (dims_foldl (fun _ _ => ?_) _ _)
    split
    · split
      · exact dims_logDone ..
      · exact .refl _
    · exact .refl _

/-! ### Memories lost and the device darkened -/

/-- The ranks settled as the stacks lose their contents (08 R185). -/
def ranksSettled (s : State) : State := (List.range 6).foldl (fun st k => st.modRanks k RankState.settle) s

theorem dims_ranksSettled (s : State) : Dims s (ranksSettled s) := dims_foldl (fun _ _ => dims_modRanks ..) _ _

/-- What a device darkened keeps of the state before. -/
theorem darken_leaves (s : State) (x : PowerState) : (s.darken x).power = x ∧ (s.darken x).field = s.field ∧
    (s.darken x).fw.rollback = s.fw.rollback ∧ (s.darken x).hosts = s.hosts.map fun h => { mem := h.mem } := by
  have h : Dims (s.enterState x) (ranksSettled (s.enterState x).cutFlash) := (dims_cutFlash _).trans (dims_ranksSettled _)
  obtain ⟨fl, n, mc, e⟩ := h
  refine ⟨(congrArg State.power e :), (congrArg State.field e :), (congrArg (·.fw.rollback) e :),
    (congrArg (fun t : State => t.hosts.map fun h => ({ mem := h.mem } : HostSide)) e :)⟩

theorem loseMemory_live (s : State) : s.loseMemory.live = s.live := by
  obtain ⟨fl, n, mc, e⟩ := dims_ranksSettled s
  exact (congrArg State.live e :)

theorem ptn?_none {s : State} (h : s.ptns = Vector.replicate 8 none) (p : Nat) : s.ptn? p = none := by
  rw [State.ptn?, h]
  by_cases hp : p < 8 <;> simp [hp]

/-- What Frost has of the state that enters it (15 R375, 17 R433). -/
theorem enterFrost_leaves (s : State) : s.enterFrost.power = .frost ∧ s.enterFrost.fw.rollback = s.fw.rollback ∧
    s.enterFrost.field = s.field := by
  obtain ⟨u, n, hu, e⟩ : ∃ u n, Dims s u ∧ s.enterFrost =
      { (u.flushLog n).darken .frost with hosts := s.hosts.map HostSide.frozen, primary := s.primary } :=
    ⟨_, _, ((dims_cutFlash s).trans (dims_modFlash ..)).trans (dims_modFlash ..), rfl⟩
  obtain ⟨fl, k, mc, ef⟩ := hu.trans (dims_flushLog u n)
  obtain ⟨hp, hf, hr, -⟩ := darken_leaves (u.flushLog n) .frost
  rw [e]
  refine ⟨hp, hr.trans ?_, hf.trans ?_⟩
  · rw [ef]
  · rw [ef]

/-! ### Entry to a state -/

/-- With no command in progress in Run, the state to enter is entered. -/
theorem powerStateEntry_idle {s : State} (hr : s.power = .run) (ha : s.accepted = []) :
    powerStateEntryEffect s = match s.pwr.target with
      | some .lull => ({ s with pwr := { s.pwr with target := none } } : State).enterLull
      | some .calm => ({ s with pwr := { s.pwr with target := none } } : State).enterCalm
      | some .still => ({ s with pwr := { s.pwr with target := none } } : State).enterStill
      | some .frost => ({ s with pwr := { s.pwr with target := none } } : State).enterFrost
      | _ => s :=
  if_neg (by simp [hr, ha])

theorem powerStateEntry_none {s : State} (h : s.power ≠ .run ∨ s.accepted ≠ [] ∨ s.pwr.target = none) :
    powerStateEntryEffect s = s := by
  by_cases hc : s.power = .run ∧ s.accepted = []
  · rw [powerStateEntry_idle hc.1 hc.2, (h.resolve_left (not_not.mpr hc.1)).resolve_left (not_not.mpr hc.2)]
  · refine if_pos ?_
    rcases not_and_or.mp hc with hp | ha
    · simp [hp]
    · simp [ha]

theorem autoLull_due {s : State} (hp : s.power = .run) (hl : s.live.autoLull = true) (ha : s.accepted = [])
    (ht : s.pwr.target = none) (hg : (s.ptnNos.any fun p => ((s.ptn? p).map (·.live.guarded)).getD false) = false) :
    autoLullEffect s = if s.idleSince + s.live.lullIdle ≤ s.now then s.enterLull else s := by
  unfold autoLullEffect
  rw [hg]
  simp [hp, hl, ha, ht]

theorem autoLull_none {s : State} (h : s.power ≠ .run ∨ s.live.autoLull = false ∨ s.accepted ≠ [] ∨ s.pwr.target ≠ none ∨
    (s.ptnNos.any fun p => ((s.ptn? p).map (·.live.guarded)).getD false) = true) : autoLullEffect s = s := by
  unfold autoLullEffect
  refine if_neg fun hc => ?_
  simp only [Bool.and_eq_true, beq_iff_eq, Bool.not_eq_true', List.isEmpty_iff, Option.isNone_iff_eq_none] at hc
  obtain ⟨⟨⟨⟨⟨hp, hl⟩, hg⟩, ha⟩, ht⟩, -⟩ := hc
  rcases h with h | h | h | h | h
  · exact h hp
  · simp [h] at hl
  · exact h ha
  · exact h ht
  · simp [h] at hg

/-! ### Wakes -/

theorem wake_lower {s : State} (h : s.power = .lull ∨ s.power = .calm) : s.wake.power = .run := by
  rcases h with h | h
  · rw [State.wake, h]
    rfl
  · rw [State.wake, h]
    exact (steady_raiseLinks _).power

theorem wake_other {s : State} (hl : s.power ≠ .lull) (hc : s.power ≠ .calm) : s.wake = s := by
  unfold State.wake
  split
  next h => exact absurd h hl
  next h => exact absurd h hc
  · rfl

theorem hostLinkConnect_vin {s : State} (h : s.supplies.vin = true) (port : Fin 2) (gen4 : Bool) :
    hostLinkConnectEffect port gen4 s = (s.modHost port fun x => { x with rate := linkRate gen4 }).startWaking :=
  if_pos h

theorem startWaking_deep {s : State} (h : s.power = .still ∨ s.power = .frost) (ht : s.field.tripped = false) :
    s.startWaking = { s with supplies := { s.supplies with waking := true } } := by
  refine if_pos ?_
  rcases h with h | h <;> simp [h, ht]

theorem startWaking_none {s : State} (h : s.field.tripped = true ∨ (s.power ≠ .still ∧ s.power ≠ .frost)) : s.startWaking = s := by
  refine if_neg ?_
  rcases h with h | ⟨hs, hf⟩
  · simp [h]
  · simp [hs, hf]

/-! ### Thaw and the boot -/

theorem thaw_none {s : State} (h : s.mayThaw = false) : thawEffect s = s := if_pos (by simp [h])

theorem thaw_may {s : State} (h : s.mayThaw = true) : thawEffect s = match s.power with
    | .still => { s.enterState .run with
        idleSince := s.now, supplies := { s.supplies with waking := false, stateSince := s.now }
        field := { s.field with heartbeat := true } }.raiseLinks.issueFlash
    | .frost => s.bootRom
    | _ => s :=
  if_neg (by simp [h])

theorem thaw_other {s : State} (h : s.mayThaw = true) (hs : s.power ≠ .still) (hf : s.power ≠ .frost) : thawEffect s = s := by
  rw [thaw_may h]
  split
  next e => exact absurd e hs
  next e => exact absurd e hf
  · rfl

theorem mayThaw_recovery {s : State} (h : s.mayThaw = true) : s.recovery = none := by
  simp only [State.mayThaw, Bool.and_eq_true, Option.isNone_iff_eq_none] at h
  exact h.2

theorem bootRomStart_whole {s : State} (h : s.recovery = none) : bootRomStartEffect s =
    if s.power == .off && s.supplies.booting && s.clockFor 0 then s.bootRom
    else if s.power == .frost && s.mayThaw then s.bootRom
    else s := by
  rw [bootRomStartEffect, h]

/-- The cores started run, without a recovery. -/
theorem startCores_runs (s : State) (image : FwInfo) (m : Mem) :
    (s.startCores image m).power = .run ∧ (s.startCores image m).recovery = none := by
  obtain ⟨u, hp, hr, e⟩ : ∃ u : State, u.power = .run ∧ u.recovery = none ∧ s.startCores image m =
      (let w := (((u.applyRecords).startRegisters (s.power == .frost)).startStore).sendSection.raiseLinks
       if w.usableRegions = 0 then w.becalm 3 else w) := by
    refine ⟨_, ?_, ?_, rfl⟩
    · rfl
    · rfl
  have hw : Steady u (((u.applyRecords).startRegisters (s.power == .frost)).startStore).sendSection.raiseLinks :=
    ((((steady_applyRecords u).trans (steady_startRegisters ..)).trans (steady_startStore _)).trans (steady_sendSection _)).trans
      (steady_raiseLinks _)
  have hu : Steady u (s.startCores image m) := by
    rw [e]
    exact steady_ite (hw.trans (becalms_becalm ..).steady) hw
  exact ⟨hu.power.trans hp, hu.recovery.trans hr⟩

theorem bootRom_fails {s : State} {n : Nat} (h : (s.bootCheck fun k => Config.pageErrors s.free k ≤ 72) = .error n) :
    s.bootRom = s.takeFree.2.enterRecovery n := by
  rw [State.bootRom, h]

theorem bootRom_starts {s : State} {m : Mem} {x : FwHead} (h : (s.bootCheck fun k => Config.pageErrors s.free k ≤ 72) = .ok (m, x)) :
    s.bootRom = (s.takeFree.2.modFw fun f => { f with boot := some x.info }).startCores x.info m := by
  rw [State.bootRom, h]

end Sys2Proof.Machine
end

section
/-! The settlement of O30: entry to a power state and wakes from it. -/

namespace Sys2Proof.Machine

/-- Settles O30: the entries by `powerStateEntry_idle`, what Frost keeps by `enterFrost_leaves`, the boot by
`startCores_runs`. -/
theorem powerAndWakes : Obligations.PowerAndWakes := by
  unfold Obligations.PowerAndWakes
  refine ⟨⟨fun s q t hr => ⟨fun ht => ?_, fun x ht hx hd => ?_, fun x ht hd => ⟨fun hb => ?_, fun hb => ?_⟩⟩,
    fun s hp ha => ⟨fun ht => ?_, fun ht => ?_, fun ht => ⟨?_, rfl, rfl, rfl, rfl, loseMemory_live _⟩,
      fun ht => ⟨?_, (enterFrost_leaves _).1, rfl, rfl, ptn?_none rfl, rfl, rfl, (enterFrost_leaves _).2.1⟩⟩,
    fun s h => congrArg _ (powerStateEntry_none h), fun s hp hl ha ht hg => ⟨fun hi => ?_, fun hi => ?_⟩,
    fun s h => congrArg _ (autoLull_none h)⟩,
    fun s ht h => ?_, fun s ht h => ?_, fun s h => ⟨?_, wake_lower h⟩, fun s h => ?_,
    fun s h gen4 => ⟨fun hv => ?_, fun hv ht hp => ?_, fun hv hp => ?_⟩,
    fun s hm => ⟨fun hp => ?_, fun hp => ⟨?_, ?_⟩, fun hs hf => congrArg _ (thaw_other hm hs hf)⟩,
    fun s hm => congrArg _ (thaw_none hm), fun s hr => ⟨fun hp hb hc => ?_, fun hp hb => ?_, fun hp hf => ?_⟩,
    fun s => ⟨fun n h => ⟨bootRom_fails h, ?_⟩, fun m x h => ⟨bootRom_starts h, ?_⟩⟩, fun s h => ?_, fun s h => ?_⟩
  -- PWR.ENTER
  · exact exec_status rfl hr (pwrEnterBody_run ht _ q)
  · exact exec_waits rfl hr ((pwrEnterBody_some ht _ q).trans (if_pos (by simp [hx, hd])))
  · exact exec_status rfl hr ((pwrEnterBody_judged ht q hd).trans (if_pos hb))
  · exact exec_status rfl hr ((pwrEnterBody_judged ht q hd).trans (if_neg (Bool.eq_false_iff.mp hb)))
  -- entry to a state
  · exact congrArg _ ((powerStateEntry_idle hp ha).trans (by rw [ht]))
  · exact congrArg _ ((powerStateEntry_idle hp ha).trans (by rw [ht]; rfl))
  · exact congrArg _ ((powerStateEntry_idle hp ha).trans (by rw [ht]))
  · exact congrArg _ ((powerStateEntry_idle hp ha).trans (by rw [ht]))
  · exact congrArg _ ((autoLull_due hp hl ha ht hg).trans (if_pos hi))
  · exact congrArg _ ((autoLull_due hp hl ha ht hg).trans (if_neg (Nat.not_le.mpr hi)))
  -- wakes
  · refine congrArg _ (?_ : s.wake.startWaking = _)
    rw [wake_other (by rcases h with h | h <;> simp [h]) (by rcases h with h | h <;> simp [h]), startWaking_deep h ht]
  · refine congrArg _ (?_ : s.wake.startWaking = _)
    rw [wake_other (by rcases h with h | h <;> simp [h]) (by rcases h with h | h <;> simp [h]), startWaking_none (.inl ht)]
  · refine congrArg _ (startWaking_none (.inr ?_))
    simp [wake_lower h]
  · refine congrArg _ (?_ : s.wake.startWaking = _)
    rw [wake_other (by rcases h with h | h <;> simp [h]) (by rcases h with h | h <;> simp [h]),
      startWaking_none (.inr (by rcases h with h | h <;> simp [h]))]
  · exact congrArg _ (if_neg (by simp [hv]))
  · exact congrArg _ ((hostLinkConnect_vin hv h gen4).trans (startWaking_deep hp ht))
  · exact congrArg _ ((hostLinkConnect_vin hv h gen4).trans (startWaking_none hp))
  -- thaw and the boot
  · exact congrArg _ ((thaw_may hm).trans (by rw [hp]))
  · exact congrArg _ ((thaw_may hm).trans (by rw [hp]))
  · refine congrArg _ ((bootRomStart_whole (mayThaw_recovery hm)).trans ?_)
    rw [if_neg (by simp [hp]), if_pos (by simp [hp, hm])]
  · exact congrArg _ ((bootRomStart_whole hr).trans (if_pos (by simp [hp, hb, hc])))
  · refine congrArg _ ((bootRomStart_whole hr).trans ?_)
    rw [if_neg (by rcases hb with h | h <;> simp [h]), if_neg (by simp [hp])]
  · refine congrArg _ ((bootRomStart_whole hr).trans ?_)
    rw [if_neg (by simp [hp]), if_neg (by rcases hf with h | h <;> simp [h])]
  · rw [bootRom_fails h]
    exact ⟨rfl, rfl⟩
  · rw [bootRom_starts h]
    exact startCores_runs ..
  · exact congrArg _ (if_pos h)
  · exact congrArg _ (if_neg (Bool.eq_false_iff.mp h))

end Sys2Proof.Machine
end

section
/-! SUPPORT. The supplies, the clock, the thermal trip and the recovery of firmware (19 R472 to R477, 17 R437, R441). -/

namespace Sys2Proof.Machine

/-! ### A device whose power goes -/

/-- The pages that the flash store holds are those of s. -/
def SamePages (s t : State) : Prop := t.flash.pages = s.flash.pages

theorem samePages_foldl {α : Type} {f : State → α → State} (h : ∀ s a, SamePages s (f s a)) (as : List α) (s : State) :
    SamePages s (as.foldl f s) := by
  induction as generalizing s with
  | nil => exact rfl
  | cons a as ih => exact (ih _).trans (h s a)

theorem samePages_modRanks (s : State) (k : Nat) (f : RankState → RankState) : SamePages s (s.modRanks k f) := by
  unfold State.modRanks
  dsimp only
  split
  · exact rfl
  · exact rfl

theorem samePages_ranksSettled (s : State) : SamePages s (ranksSettled s) := samePages_foldl (fun _ _ => samePages_modRanks ..) _ _

/-- Where no operation of the dies, no journal entry and no record is being written, the cut leaves the pages. -/
theorem cutFlash_idle {s : State} (hj : s.flash.jobs = []) (hw : ∀ d : Fin 8, s.flash.journals[d].writing = none)
    (hl : ∀ d : Fin 2, s.flash.logs[d].writing = none) : SamePages s s.cutFlash := by
  have hjournal (e : Journal × Nat) (he : e ∈ s.flash.journals.toList.zipIdx) : e.1.writing = none := by
    obtain ⟨d, hd, e⟩ := Vector.getElem_of_mem (Vector.mem_toList_iff.mp (List.fst_mem_of_mem_zipIdx he))
    rw [← e]
    exact hw ⟨d, hd⟩
  have hlog (e : LogDie × Nat) (he : e ∈ s.flash.logs.toList.zipIdx) : e.1.writing = none := by
    obtain ⟨d, hd, e⟩ := Vector.getElem_of_mem (Vector.mem_toList_iff.mp (List.fst_mem_of_mem_zipIdx he))
    rw [← e]
    exact hl ⟨d, hd⟩
  unfold State.cutFlash
  dsimp only
  rw [hj, List.filter_nil, List.foldl_nil, foldl_stays (s := s) fun e he => ?_, foldl_stays (s := s) fun e he => ?_]
  · exact rfl
  · rw [hlog e he]
  · rw [hjournal e he]

theorem darken_pages {s : State} (x : PowerState) (hj : s.flash.jobs = []) (hw : ∀ d : Fin 8, s.flash.journals[d].writing = none)
    (hl : ∀ d : Fin 2, s.flash.logs[d].writing = none) : SamePages s (s.darken x) :=
  (samePages_ranksSettled (s.enterState x).cutFlash).trans (cutFlash_idle (s := s.enterState x) hj hw hl)

theorem host_map (s : State) (f : HostSide → HostSide) (h : Fin 2) : ({ s with hosts := s.hosts.map f } : State).host h = f (s.host h) := by
  rw [State.host, State.host, Fin.getElem_fin, Fin.getElem_fin, Vector.getElem_map]

theorem host_of_hosts {s t : State} (e : t.hosts = s.hosts) (h : Fin 2) : t.host h = s.host h := by
  rw [State.host, State.host, e]

theorem powerRemove_vin {s : State} (hv : s.supplies.vin = true) : powerRemoveEffect s = { s.darken .off with
    fieldCap := 600, fieldEmerg := false
    supplies := { s.supplies with vin := false, waking := false, booting := false, stateSince := s.now }
    field := { s.field with shedMsg := false, heartbeat := false, quote := none } } :=
  if_neg (by simp [hv])

/-- What the removal of VIN48 leaves (19 R473). -/
theorem powerRemove_leaves {s : State} (hv : s.supplies.vin = true) :
    (powerRemoveEffect s).power = .off ∧ (powerRemoveEffect s).fw.rollback = s.fw.rollback ∧
    (∀ h, (powerRemoveEffect s).host h = { mem := (s.host h).mem }) ∧
    (powerRemoveEffect s).pending = s.pending := by
  obtain ⟨hp, -, hr, hh⟩ := darken_leaves s .off
  rw [powerRemove_vin hv]
  exact ⟨hp, hr, fun h => (host_of_hosts (s := { s with hosts := s.hosts.map fun h => { mem := h.mem } }) hh h).trans (host_map ..),
    (still_darken s .off).pending⟩

/-- What the abort of every command and the entry to Frost leave (19 R474, R477). -/
theorem abortToFrost_leaves (s : State) : s.abortToFrost.power = .frost ∧ s.abortToFrost.accepted = [] ∧
    ∀ h, (s.abortToFrost.host h).ring = {} :=
  ⟨(enterFrost_leaves _).1, rfl, fun _ => congrArg HostSide.ring (host_map ..)⟩

theorem thermalTrip_cool {s : State} {die stack : BitVec 8}
    (h : (s.wardenRuns = false ∧ s.power ≠ .still) ∨ (celsius die < 120 ∧ celsius stack < 105)) : thermalTripEffect die stack s = s := by
  refine if_pos ?_
  rcases h with ⟨hw, hp⟩ | ⟨hd, hs⟩
  · simp [hw, hp]
  · simp [hd, hs]

/-- A thermal trip ends in Frost, by the abort of every command. -/
theorem thermalTrip_hot {s : State} {die stack : BitVec 8} (hw : s.wardenRuns = true ∨ s.power = .still)
    (ht : 120 ≤ celsius die ∨ 105 ≤ celsius stack) :
    ∃ u : State, thermalTripEffect die stack s = { u.abortToFrost with field := { u.abortToFrost.field with tripped := true } } := by
  refine ⟨_, (if_neg ?_).trans rfl⟩
  rcases hw with hw | hw <;> rcases ht with ht | ht <;> simp [hw, ht]

/-! ### Recovery -/

/-- A write of go that starts no load. -/
def goRefused (s : State) (port : Fin 2) (value : BitVec 32) (r : Recovery) : Bool :=
  !(s.host port).attached || !value.getLsbD 0 || r.len = 0 || r.state != 1

theorem goRefused_iff {s : State} {port : Fin 2} {value : BitVec 32} {r : Recovery} : goRefused s port value r = true ↔
    (s.host port).attached = false ∨ value.getLsbD 0 = false ∨ r.len = 0 ∨ r.state ≠ 1 := by
  simp only [goRefused, Bool.or_eq_true, Bool.not_eq_true', decide_eq_true_eq, bne_iff_ne, or_assoc]

theorem recoveryGo_shown (port : Fin 2) (value : BitVec 32) (host : HostBytes) (s : State) :
    recoveryGoEffect port value host s =
      let u := s.modHost port fun x => { x with mem := host.foldl (fun m (a, b) => Mem.put m a b) x.mem }
      match s.recovery with
      | none => u
      | some r => if goRefused s port value r then u
        else { u with recovery := some { r with fail := 0, port := port, state := 2 } } := by
  unfold recoveryGoEffect
  dsimp only
  rw [host_modHost, if_pos rfl]
  rfl

/-- A step of the ROM that fails. -/
def recoveryFails (s : State) (r : Recovery) (n : BitVec 8) : State := { s with recovery := some { r with fail := n, state := 1 } }

theorem bootRomStart_recovery {s : State} {r : Recovery} (h : s.recovery = some r) : bootRomStartEffect s = s.recoveryStep r := by
  rw [bootRomStartEffect, h]

theorem recoveryStep_waits {s : State} {r : Recovery} (h2 : r.state ≠ 2) (h3 : r.state ≠ 3) (h4 : r.state ≠ 4) : s.recoveryStep r = s := by
  have hne {n : Nat} (hn : n < 8) (h : r.state ≠ BitVec.ofNat 3 n) : r.state.toNat ≠ n := fun e =>
    h (BitVec.eq_of_toNat_eq (by rw [e, BitVec.toNat_ofNat, Nat.mod_eq_of_lt hn]))
  unfold State.recoveryStep
  dsimp only
  split
  next e => exact absurd e (hne (by decide) h2)
  next e => exact absurd e (hne (by decide) h3)
  next e => exact absurd e (hne (by decide) h4)
  · rfl

theorem recoveryStep_reads {s : State} {r : Recovery} (h : r.state = 2) : s.recoveryStep r =
    if 4194304 < r.len.toNat || !(s.host r.port).attached then recoveryFails s r 3
    else { s with recovery := some { r with state := 3 }
                  fw := { s.fw with staged := Mem.write [] 0 (s.readHost r.port r.addr.toNat r.len.toNat) } } := by
  have e : r.state.toNat = 2 := congrArg BitVec.toNat h
  simp only [State.recoveryStep, e]
  rfl

theorem recoveryStep_badImage {s : State} {r : Recovery} {n : Nat} (h : r.state = 3) (hx : s.checkImage s.fw.staged = .error n) :
    s.recoveryStep r = recoveryFails s r (BitVec.ofNat 8 n) := by
  have e : r.state.toNat = 3 := congrArg BitVec.toNat h
  simp only [State.recoveryStep, e, hx]
  rfl

theorem recoveryStep_goodImage {s : State} {r : Recovery} {x : FwHead} (h : r.state = 3) (hx : s.checkImage s.fw.staged = .ok x) :
    s.recoveryStep r = { s with recovery := some { r with state := 4 } } := by
  have e : r.state.toNat = 3 := congrArg BitVec.toNat h
  simp only [State.recoveryStep, e, hx]

theorem recoveryStep_noImage {s : State} {r : Recovery} (h : r.state = 4) (hx : readFw s.fw.staged = none) :
    s.recoveryStep r = recoveryFails s r 4 := by
  have e : r.state.toNat = 4 := congrArg BitVec.toNat h
  simp only [State.recoveryStep, e, hx]
  rfl

theorem recoveryStep_starts {s : State} {r : Recovery} {x : FwHead} (h : r.state = 4) (hx : readFw s.fw.staged = some x) :
    s.recoveryStep r = ((s.startCores x.info s.fw.staged).modFw fun f =>
      { f with staged := s.fw.staged, activation := some { q := none, image := x.info, cores := activationOrder.length } }).writeBoot := by
  have e : r.state.toNat = 4 := congrArg BitVec.toNat h
  simp only [State.recoveryStep, e, hx]

theorem checkImage_none {s : State} {m : Mem} (h : readFw m = none) : s.checkImage m = .error 4 := by
  unfold State.checkImage
  simp only [h]

theorem checkImage_some {s : State} {m : Mem} {x : FwHead} (h : readFw m = some x) :
    s.checkImage m = if x.authentic m s.fw.steps then .ok x else .error 4 := by
  unfold State.checkImage
  simp only [h]

/-! ### The reference clock -/

theorem refclkPresent_first {s : State} (h : s.supplies.refSince = none) :
    refclkPresentEffect s = { s with supplies := { s.supplies with refSince := some s.now } } := by
  simp only [refclkPresentEffect, h]

theorem refclkPresent_again {s : State} (h : s.supplies.refSince ≠ none) : refclkPresentEffect s = s := by
  obtain ⟨n, hn⟩ := Option.ne_none_iff_exists'.mp h
  simp only [refclkPresentEffect, hn]

end Sys2Proof.Machine
end

section
/-! The settlement of O31: supplies, clock, thermal trip and firmware recovery. -/

namespace Sys2Proof.Machine

/-- Settles O31: the losses by `powerRemove_leaves` and `abortToFrost_leaves`, the recovery by the ROM's steps. -/
theorem suppliesRecovery : Obligations.SuppliesRecovery := by
  unfold Obligations.SuppliesRecovery
  refine ⟨⟨fun s hv => ⟨congrArg _ (if_neg (by simp [hv])), congrArg _ (if_pos (by simp [hv]))⟩,
    fun s hv => ⟨congrArg _ (if_pos hv), ?_⟩, fun s hv => ⟨_, congrArg _ (if_neg (by simp [hv])), rfl, rfl, rfl, rfl, rfl, rfl, rfl, rfl, rfl, rfl⟩,
    fun s hv => congrArg _ (if_pos hv), fun s => rfl, fun s => ⟨fun h => ?_, fun h => ?_⟩, fun s => ⟨fun hw => ?_, fun hw => ⟨?_, abortToFrost_leaves _⟩⟩,
    fun s die stack h => congrArg _ (thermalTrip_cool h), fun s die stack hw ht => ?_⟩,
    fun s port value host => ⟨fun h => ?_, fun r hr h => ?_, fun r hr ha hg hl hs => ?_⟩,
    fun s r hr => ⟨fun h2 h3 h4 => ?_, fun h hbad => ?_, fun h hl ha => ?_, fun h hx => ?_,
      fun x hx => ⟨fun h ha => ?_, fun h ha => ?_, fun h => ?_⟩⟩⟩
  -- the supplies
  · obtain ⟨hp, hr, hh, hq⟩ := powerRemove_leaves hv
    refine ⟨powerRemoveEffect s, rfl, hp, ?_, fun h => ?_, ?_⟩
    · rw [powerRemove_vin hv]
    · rw [hh h]
      exact ⟨rfl, rfl⟩
    · rw [← hq, ← hr, powerRemove_vin hv]
      exact ⟨ptn?_none rfl, rfl, rfl, rfl, rfl, rfl, rfl, rfl, rfl, rfl, rfl, rfl, rfl, fun hj hw hl => darken_pages .off hj hw hl⟩
  · exact congrArg _ (refclkPresent_first h)
  · exact congrArg _ (refclkPresent_again h)
  · exact congrArg _ (if_neg (Bool.eq_false_iff.mp hw))
  · exact congrArg _ (if_pos hw)
  · obtain ⟨u, e⟩ := thermalTrip_hot hw ht
    obtain ⟨hp, ha, hr⟩ := abortToFrost_leaves u
    exact ⟨_, congrArg Host.Outcome.next e, hp, rfl, ha, hr⟩
  -- recovery
  · refine congrArg _ ((recoveryGo_shown ..).trans ?_)
    dsimp only
    split
    · rfl
    next r hr =>
      refine if_pos (goRefused_iff.mpr ?_)
      rcases h with h | h | h
      · cases hr.symm.trans h
      · exact .inl h
      · exact .inr (.inl h)
  · refine congrArg _ ((recoveryGo_shown ..).trans ?_)
    dsimp only
    rw [hr]
    exact if_pos (goRefused_iff.mpr (.inr (.inr h)))
  · refine congrArg _ ((recoveryGo_shown ..).trans ?_)
    dsimp only
    rw [hr]
    refine if_neg fun h => ?_
    rcases goRefused_iff.mp h with h | h | h | h
    · cases h.symm.trans ha
    · cases h.symm.trans hg
    · exact hl h
    · exact h hs
  · exact congrArg _ ((bootRomStart_recovery hr).trans (recoveryStep_waits h2 h3 h4))
  · refine congrArg _ (((bootRomStart_recovery hr).trans (recoveryStep_reads h)).trans (if_pos ?_))
    rcases hbad with h | h <;> simp [h]
  · exact congrArg _ (((bootRomStart_recovery hr).trans (recoveryStep_reads h)).trans (if_neg (by simp [ha, hl])))
  · refine congrArg _ ((bootRomStart_recovery hr).trans ?_)
    rcases h with h | h
    · exact recoveryStep_badImage h (checkImage_none hx)
    · exact recoveryStep_noImage h hx
  · exact congrArg _ ((bootRomStart_recovery hr).trans
      (recoveryStep_badImage h ((checkImage_some hx).trans (if_neg (Bool.eq_false_iff.mp ha)))))
  · exact congrArg _ ((bootRomStart_recovery hr).trans (recoveryStep_goodImage h ((checkImage_some hx).trans (if_pos ha))))
  · exact congrArg _ ((bootRomStart_recovery hr).trans (recoveryStep_starts h hx))

end Sys2Proof.Machine
end

section
/-! SUPPORT. What leaves every partition's orphan limit and whether it is being destroyed as they were. -/

namespace Sys2Proof.Machine

/-- What decides whether a partition without its host is destroyed at once (18 R452). -/
def Partition.ends (x : Partition) : BitVec 32 × Bool := (x.hostCfg, x.destroying)

/-- Every partition of s stands in t with its orphan limit, and is being destroyed if it was; no other stands. -/
structure SameEnds (s t : State) : Prop where
  ends : ∀ p, (t.ptn? p).map Partition.ends = (s.ptn? p).map Partition.ends

theorem SameEnds.refl (s : State) : SameEnds s s := ⟨fun _ => rfl⟩

theorem SameEnds.trans {s t u : State} (h : SameEnds s t) (k : SameEnds t u) : SameEnds s u :=
  ⟨fun p => (k.ends p).trans (h.ends p)⟩

/-- An update of other fields. -/
theorem SameEnds.update {s u : State}
    {pending : List Instr} {now free moveNo idleSince fieldCap draws : Nat} {hosts : Vector HostSide 2} {primary :
    Option (Fin 2)} {ctxs : List Context} {accepted : List Accepted} {objs : List Obj} {images : List Image}
    {migrations : List Migration} {moves : List Move} {caches : Vector PageCache 8} {tier1 layer : Mem} {undef : Table
    Nat} {poison poisonReports : List Nat} {memc : MemCtl} {groups : Vector GroupCounters 8} {seqs : List Seq} {gens :
    Table (BitVec 12)} {handles : List Handle} {stores : Stores} {staged live : DevRegs} {devCommit : CommitStat}
    {interrupts : List (Fin 2 × BitVec 16)} {lastRead : BitVec 64} {heldWork : List HeldWork} {flt : FaultState}
    {power : PowerState} {pwr : Power} {field : Field} {fieldEmerg tier1Ready : Bool} {sessions : Vector Session 3}
    {authFail : BitVec 16} {felt : Felt} {weights : List WeightObj} {awaited : List Awaited} {library : List
    LibraryEntry} {serving : List Serving} {flash : Flash} {fw : Firmware} {recovery : Option Recovery} {supplies :
    Supplies} {rng : Rng} {tap : Tap}
    (h : SameEnds s u) : SameEnds s {
      pending := pending, now := now, free := free, hosts := hosts, primary := primary, ptns := u.ptns, ctxs :=
      ctxs, accepted := accepted, objs := objs, images := images, migrations := migrations, moves := moves, moveNo
      := moveNo, caches := caches, tier1 := tier1, undef := undef, poison := poison, poisonReports := poisonReports,
      memc := memc, groups := groups, seqs := seqs, gens := gens, handles := handles, layer := layer, stores :=
      stores, staged := staged, live := live, devCommit := devCommit, interrupts := interrupts, lastRead :=
      lastRead, heldWork := heldWork, flt := flt, power := power, idleSince := idleSince, pwr := pwr, field :=
      field, fieldCap := fieldCap, fieldEmerg := fieldEmerg, tier1Ready := tier1Ready, sessions := sessions,
      authFail := authFail, draws := draws, felt := felt, weights := weights, awaited := awaited, library :=
      library, serving := serving, flash := flash, fw := fw, recovery := recovery, supplies := supplies, rng := rng,
      tap := tap } :=
  ⟨h.ends⟩

theorem sameEnds_foldl {α : Type} {f : State → α → State} (h : ∀ s a, SameEnds s (f s a)) (as : List α) (s : State) :
    SameEnds s (as.foldl f s) := by
  induction as generalizing s with
  | nil => exact .refl s
  | cons a as ih => exact (h s a).trans (ih _)

theorem sameEnds_ite {s t u : State} {c : Prop} [Decidable c] (ht : SameEnds s t) (hu : SameEnds s u) :
    SameEnds s (if c then t else u) := by
  split
  · exact ht
  · exact hu

theorem FlashOnly.sameEnds {s t : State} (h : FlashOnly s t) : SameEnds s t := by
  obtain ⟨_, rfl⟩ := h
  exact .update (.refl s)

theorem Sends.sameEnds {s t : State} (h : Sends s t) : SameEnds s t := by
  obtain ⟨⟨_, _, _, _, _, rfl⟩, -⟩ := h
  exact .update (.refl s)

theorem sameEnds_modPtn {s : State} {p : Nat} {f : Partition → Partition} (h : ∀ x, (f x).ends = x.ends) : SameEnds s (s.modPtn p f) := by
  refine ⟨fun r => ?_⟩
  rw [ptn?_modPtn]
  split
  next hr =>
    rw [hr]
    cases s.ptn? p with
    | none => rfl
    | some x => exact congrArg some (h x)
  · rfl

end Sys2Proof.Machine
end

section
/-! SUPPORT. Orphan limits and destructions, function by function: what the end of a partition reaches. -/

namespace Sys2Proof.Machine

theorem sameEnds_cleanLines (s : State) (tier cluster off n : Nat) : SameEnds s (s.cleanLines tier cluster off n) :=
  .update (.refl _)

theorem sameEnds_writeTier (s : State) (tier cluster off : Nat) (bs : List Byte) : SameEnds s (s.writeTier tier cluster off bs) :=
  sameEnds_ite (.update (sameEnds_cleanLines ..)) (.update (sameEnds_cleanLines ..))

theorem sameEnds_zeroTier (s : State) (tier cluster off n : Nat) : SameEnds s (s.zeroTier tier cluster off n) := by
  unfold State.zeroTier
  refine sameEnds_ite ?_ ?_
  · exact .update (.update (sameEnds_cleanLines ..))
  · exact .update (.update (sameEnds_cleanLines ..))

theorem sameEnds_modCtx (s : State) (c : CtxNo) (f : Context → Context) : SameEnds s (s.modCtx c f) := .update (.refl _)

theorem sameEnds_modHost (s : State) (h : Fin 2) (f : HostSide → HostSide) : SameEnds s (s.modHost h f) := .update (.refl _)

theorem sameEnds_modRing (s : State) (r : Ring) (f : RingPair → RingPair) : SameEnds s (s.modRing r f) := by
  unfold State.modRing
  split
  · exact sameEnds_modHost ..
  · exact sameEnds_modCtx ..

theorem sameEnds_modEvents (s : State) (r : Ring) (f : EventBuf → EventBuf) : SameEnds s (s.modEvents r f) := by
  unfold State.modEvents
  split
  · exact sameEnds_modHost ..
  · exact sameEnds_modCtx ..

theorem sameEnds_count (s : State) (c : CtxNo) (i k : Nat) : SameEnds s (s.count c i k) := sameEnds_modCtx ..

theorem sameEnds_modObj (s : State) (c : CtxNo) (base : BitVec 42) (f : Obj → Obj) : SameEnds s (s.modObj c base f) :=
  .update (.refl _)

theorem sameEnds_writeObj (s : State) (o : Obj) (off : Nat) (bs : List Byte) : SameEnds s (s.writeObj o off bs) := by
  unfold State.writeObj
  refine sameEnds_foldl (fun _ _ => ?_) _ _
  dsimp only
  split
  · exact .refl _
  · exact sameEnds_writeTier ..

theorem sameEnds_writeHost (s : State) (h : Fin 2) (a : Nat) (bs : List Byte) : SameEnds s (s.writeHost h a bs) :=
  sameEnds_ite (sameEnds_modHost ..) (.refl _)

theorem sameEnds_writeRing (s : State) (r : Ring) (off : Nat) (bs : List Byte) : SameEnds s (s.writeRing r off bs) := by
  unfold State.writeRing
  split
  · exact sameEnds_modHost ..
  · split
    · exact .refl _
    · split
      · exact .refl _
      · exact sameEnds_ite (.refl _) (sameEnds_writeObj ..)

theorem sameEnds_interrupt (s : State) (h : Fin 2) (v : BitVec 16) : SameEnds s (s.interrupt h v) :=
  sameEnds_ite (.refl _) (sameEnds_ite (sameEnds_modHost ..) (.update (.refl _)))

theorem sameEnds_mirrorEntry (s : State) (r : Ring) (rp : RingPair) (bs : List Byte) : SameEnds s (s.mirrorEntry r rp bs) := by
  unfold State.mirrorEntry
  split
  · exact sameEnds_writeHost ..
  · exact .refl _

theorem sameEnds_ringInterrupt (s : State) (r : Ring) (v : BitVec 16) : SameEnds s (s.ringInterrupt r v) := by
  unfold State.ringInterrupt
  split
  · exact sameEnds_interrupt ..
  · exact .refl _

theorem sameEnds_writeEntry (s : State) (r : Ring) (body : Nat) (raise : Bool) : SameEnds s (s.writeEntry r body raise) := by
  unfold State.writeEntry
  split
  · exact .refl _
  · refine sameEnds_ite ?_ (((sameEnds_writeRing ..).trans (sameEnds_mirrorEntry ..)).trans (sameEnds_modRing ..))
    refine .trans ?_ (sameEnds_ringInterrupt ..)
    exact ((sameEnds_writeRing ..).trans (sameEnds_mirrorEntry ..)).trans (sameEnds_modRing ..)

theorem sameEnds_event (s : State) (r : Ring) (code a0 a1 a2 : Nat) : SameEnds s (s.event r code a0 a1 a2) :=
  sameEnds_modEvents ..

theorem sameEnds_eventHosts (s : State) (code a0 a1 a2 : Nat) : SameEnds s (s.eventHosts code a0 a1 a2) :=
  sameEnds_foldl (fun _ _ => sameEnds_ite (sameEnds_event ..) (.refl _)) ..

theorem sameEnds_report (s : State) (code a0 a1 a2 : Nat) : SameEnds s (s.report code a0 a1 a2) :=
  sameEnds_ite (.refl _) (sameEnds_ite (.update (.refl _)) (.update (.refl _)))

theorem sameEnds_counterRecord (s : State) (q : Req) (latch : List (BitVec 64)) : SameEnds s (s.counterRecord q latch) := by
  unfold State.counterRecord
  split
  · exact sameEnds_writeRing ..
  · exact .refl _

theorem sameEnds_complete (s : State) (q : Req) (opcode since : Nat) (latch : List (BitVec 64)) (status res0 res1 : Nat) :
    SameEnds s (s.complete q opcode since latch status res0 res1) :=
  .update ((sameEnds_counterRecord ..).trans (sameEnds_writeEntry ..))

theorem sameEnds_finish (s : State) (q : Req) (status res0 res1 : Nat) : SameEnds s (s.finish q status res0 res1) := by
  unfold State.finish
  split
  · exact .refl _
  · exact sameEnds_ite (.update (.refl _)) ((SameEnds.update (.refl _)).trans (sameEnds_complete ..))

theorem sameEnds_modSeq (s : State) (index : Nat) (f : Seq → Seq) : SameEnds s (s.modSeq index f) := .update (.refl _)

theorem sameEnds_quotaClear (s : State) (p : Nat) : SameEnds s (s.quotaClear p) := by
  unfold State.quotaClear
  split
  · exact .refl _
  · refine .trans ?_ (sameEnds_foldl (fun _ _ => sameEnds_ite ((sameEnds_modCtx ..).trans (sameEnds_event ..)) (.refl _)) ..)
    refine sameEnds_ite ?_ (sameEnds_modPtn fun _ => rfl)
    refine .trans ?_ (sameEnds_event ..)
    refine .trans ?_ (sameEnds_modPtn fun _ => rfl)
    exact sameEnds_modPtn fun _ => rfl

theorem sameEnds_invalidate (s : State) (p space : Nat) (hit : Nat → Bool) : SameEnds s (s.invalidate p space hit) := by
  unfold State.invalidate
  split
  · exact .refl _
  · exact .update (.refl _)

theorem sameEnds_queueRecompute (s : State) (index : Nat) : SameEnds s (s.queueRecompute index) := by
  unfold State.queueRecompute
  split
  · exact .refl _
  · refine .trans ?_ (sameEnds_foldl (fun _ _ => ?_) _ _)
    · exact sameEnds_modPtn fun _ => rfl
    · exact sameEnds_ite (sameEnds_modPtn fun _ => rfl) (.refl _)

theorem sameEnds_loseIfGone (s : State) (index : Nat) : SameEnds s (s.loseIfGone index) := by
  unfold State.loseIfGone
  split
  · exact .refl _
  · refine sameEnds_ite ?_ (.refl _)
    refine .trans ?_ (sameEnds_event ..)
    exact (sameEnds_modSeq ..).trans (sameEnds_modPtn fun _ => rfl)

theorem sameEnds_dropOwn (s : State) (index : Nat) (nos : List Nat) : SameEnds s (s.dropOwn index nos) := by
  unfold State.dropOwn
  split
  · exact .refl _
  · refine sameEnds_ite (.refl _) ?_
    refine .trans ?_ (sameEnds_loseIfGone ..)
    refine .trans ?_ (sameEnds_queueRecompute ..)
    refine .trans ?_ (sameEnds_event ..)
    exact ((sameEnds_modSeq ..).trans (sameEnds_invalidate ..)).trans (sameEnds_count ..)

theorem sameEnds_dropPages (s : State) (index : Nat) (nos : List Nat) : SameEnds s (s.dropPages index nos) := by
  unfold State.dropPages
  split
  · exact .refl _
  · refine .trans ?_ (sameEnds_quotaClear ..)
    refine sameEnds_ite ?_ ?_
    · exact (sameEnds_dropOwn ..).trans (sameEnds_foldl (fun _ _ => sameEnds_dropOwn ..) ..)
    · exact .update ((sameEnds_dropOwn ..).trans (sameEnds_foldl (fun _ _ => sameEnds_dropOwn ..) ..))

theorem sameEnds_settleHandles (s : State) : SameEnds s s.settleHandles := .update (.refl _)

theorem sameEnds_pagePoisoned (s : State) (cluster unit : Nat) : SameEnds s (s.pagePoisoned cluster unit) := by
  unfold State.pagePoisoned
  refine .trans ?_ (sameEnds_foldl (fun _ _ => sameEnds_quotaClear ..) ..)
  refine .trans ?_ (sameEnds_foldl (fun _ _ => sameEnds_loseIfGone ..) ..)
  exact SameEnds.update (sameEnds_foldl (fun _ _ => sameEnds_dropPages ..) ..)

theorem sameEnds_dropHeld (s : State) (p : Nat) : SameEnds s (s.dropHeld p) := by
  unfold State.dropHeld
  split
  · exact .refl _
  · exact sameEnds_foldl (fun _ _ => (SameEnds.update (.refl _)).trans (sameEnds_pagePoisoned ..)) ..

theorem sameEnds_stampRun (s : State) (p : Nat) (r : Run) : SameEnds s (s.stampRun p r) := by
  unfold State.stampRun
  refine sameEnds_ite (.refl _) ?_
  refine .trans ?_ (sameEnds_foldl (fun _ _ => sameEnds_modObj ..) ..)
  refine sameEnds_foldl (fun _ _ => ?_) _ _
  split
  · exact sameEnds_modSeq ..
  · exact .refl _

theorem sameEnds_cancelMigrations (s : State) (c : CtxNo) (base : BitVec 42) (p : Migration → Bool) :
    SameEnds s (s.cancelMigrations c base p) := .update (.refl _)

theorem sameEnds_abortWhere (s : State) (p : Accepted → Bool) : SameEnds s (s.abortWhere p).1 :=
  sameEnds_foldl (fun _ _ => sameEnds_finish ..) ..

theorem sameEnds_setWatchResult (s : State) (c : CtxNo) (i v : Nat) : SameEnds s (s.setWatchResult c i v) := sameEnds_modCtx ..

theorem sameEnds_abortWatches (s : State) (r : Run) : SameEnds s (s.abortWatches r) :=
  sameEnds_ite (sameEnds_foldl (fun _ _ => sameEnds_setWatchResult ..) ..) (.refl _)

theorem sameEnds_removeRuns (s : State) (c : CtxNo) : SameEnds s (s.removeRuns c) := by
  unfold State.removeRuns
  refine .trans ?_ (sameEnds_dropHeld ..)
  refine .update (.trans ?_ (sameEnds_modPtn fun x => ?_))
  · split
    · exact sameEnds_ite (.trans (sameEnds_stampRun ..) (sameEnds_abortWatches ..)) (.refl _)
    · exact .refl _
  · dsimp only
    split
    · split
      · rfl
      · rfl
    · rfl

theorem sameEnds_stopRun (s : State) (p : Nat) : SameEnds s (s.stopRun p) := sameEnds_modPtn (fun _ => rfl)

theorem sameEnds_portsDown (s : State) : SameEnds s s.portsDown := .update (.refl _)

theorem sameEnds_copyRecord (s : State) (p : Nat) : SameEnds s (s.copyRecord p) := by
  unfold State.copyRecord
  split
  · exact sameEnds_modPtn fun _ => rfl
  · exact .refl _

theorem sameEnds_becalm (s : State) (cause : Nat) : SameEnds s (s.becalm cause) := by
  unfold State.becalm
  refine sameEnds_ite (.refl _) ?_
  refine .trans ?_ (sameEnds_report ..)
  refine .trans ?_ (sameEnds_eventHosts ..)
  refine .trans ?_ (sameEnds_portsDown ..)
  refine .trans ?_ (sameEnds_foldl (fun _ _ => ?_) _ _)
  · exact (SameEnds.update (.refl _)).trans (flashOnly_record ..).sameEnds
  · split
    · exact .refl _
    · refine sameEnds_ite ?_ ?_
      · exact .refl _
      · exact ((sameEnds_stopRun ..).trans (sameEnds_copyRecord ..)).trans (sameEnds_modPtn fun _ => rfl)

theorem sameEnds_goOut (s : State) (p : Nat) (number : BitVec 16) (c : Option CtxNo) : SameEnds s (s.goOut p number c) := by
  unfold State.goOut
  refine sameEnds_ite ?_ ?_
  · refine .trans ?_ (sameEnds_becalm ..)
    exact ((SameEnds.update (.refl _)).trans (sameEnds_stopRun ..)).trans (sameEnds_modPtn fun _ => rfl)
  · exact ((SameEnds.update (.refl _)).trans (sameEnds_stopRun ..)).trans (sameEnds_modPtn fun _ => rfl)

theorem sameEnds_startPtnReset (s : State) (p : Nat) (number : BitVec 16) (c : Option CtxNo) :
    SameEnds s (s.startPtnReset p number c) := by
  unfold State.startPtnReset
  split
  · exact .refl _
  · refine sameEnds_ite ?_ ?_
    · exact .refl _
    · exact sameEnds_ite (sameEnds_goOut ..) ((sameEnds_stopRun ..).trans (sameEnds_modPtn fun _ => rfl))

theorem sameEnds_startCtxReset (s : State) (c : CtxNo) (number : BitVec 16) : SameEnds s (s.startCtxReset c number) := by
  unfold State.startCtxReset
  dsimp only
  split
  · refine sameEnds_ite (.refl _) ?_
    refine sameEnds_ite (sameEnds_startPtnReset ..) ?_
    refine sameEnds_ite (sameEnds_startPtnReset ..) ?_
    refine .trans ?_ (sameEnds_modPtn fun _ => rfl)
    refine .trans ?_ (sameEnds_modCtx ..)
    split
    · exact sameEnds_ite (sameEnds_stopRun ..) (.refl _)
    · exact .refl _
  · exact .refl _

theorem sameEnds_dropObj (s : State) (c : CtxNo) (base : BitVec 42) : SameEnds s (s.dropObj c base) := by
  unfold State.dropObj
  split
  · exact .refl _
  · refine sameEnds_ite ?_ (.update ((sameEnds_cancelMigrations ..).trans (sameEnds_invalidate ..)))
    refine .trans ?_ (sameEnds_foldl (fun _ _ => sameEnds_zeroTier ..) ..)
    exact SameEnds.update ((sameEnds_cancelMigrations ..).trans (sameEnds_invalidate ..))

theorem sameEnds_modFelt (s : State) (f : Felt → Felt) : SameEnds s (s.modFelt f) := .update (.refl _)

theorem sameEnds_dropJoins (s : State) (p : Nat) : SameEnds s (s.dropJoins p) := sameEnds_modFelt ..

theorem sameEnds_endGroupRun (s : State) (p : Nat) : SameEnds s (s.endGroupRun p) := by
  unfold State.endGroupRun
  split
  · exact sameEnds_ite (sameEnds_startCtxReset ..) (.refl _)
  · exact .refl _

theorem sameEnds_closeSeq (s : State) (x : Seq) : SameEnds s (s.closeSeq x) := by
  unfold State.closeSeq
  refine .trans ?_ (sameEnds_settleHandles ..)
  exact ((SameEnds.update (.refl _)).trans (sameEnds_invalidate ..)).trans (sameEnds_modPtn fun _ => rfl)

theorem sameEnds_guaranteeEvent (s : State) (p code a0 slot late : Nat) : SameEnds s (s.guaranteeEvent p code a0 slot late) := by
  unfold State.guaranteeEvent
  split
  · exact .refl _
  · exact sameEnds_ite ((sameEnds_event ..).trans (sameEnds_event ..)) (sameEnds_event ..)

theorem sameEnds_breach (s : State) (p reason late : Nat) (slot : Option Nat) : SameEnds s (s.breach p reason late slot) := by
  unfold State.breach
  split
  · exact .refl _
  · refine sameEnds_ite (.refl _) ?_
    refine .trans ?_ (sameEnds_guaranteeEvent ..)
    exact sameEnds_modPtn fun _ => rfl

theorem sameEnds_checkReserved (s : State) (p : Nat) (r : Run) : SameEnds s (s.checkReserved p r) := by
  unfold State.checkReserved
  split
  · exact sameEnds_ite (sameEnds_breach ..) (.refl _)
  · exact .refl _

theorem sameEnds_checkEnded (s : State) (c : CtxNo) : SameEnds s (s.checkEnded c) := by
  unfold State.checkEnded
  split
  · exact .refl _
  · exact sameEnds_foldl (fun _ _ => sameEnds_checkReserved ..) ..

theorem sameEnds_modWeight (s : State) (c : CtxNo) (base : BitVec 42) (f : WeightObj → WeightObj) :
    SameEnds s (s.modWeight c base f) := .update (.refl _)

theorem sameEnds_endRefetches (s : State) (w : WeightObj) (p : Refetch → Bool) : SameEnds s (s.endRefetches w p) := by
  unfold State.endRefetches
  refine .trans ?_ (sameEnds_modWeight ..)
  split
  · exact sameEnds_ite (sameEnds_foldl (fun _ _ => sameEnds_zeroTier ..) ..) (.refl _)
  · exact .refl _

theorem sameEnds_dropWeights (s : State) (c : CtxNo) (base : BitVec 42) (status : Nat) :
    SameEnds s (s.dropWeights c base status) := by
  unfold State.dropWeights
  split
  · exact .refl _
  · dsimp only
    split
    · refine .trans ?_ (sameEnds_finish ..)
      exact (SameEnds.update (sameEnds_endRefetches ..)).trans (sameEnds_dropObj ..)
    · exact (SameEnds.update (sameEnds_endRefetches ..)).trans (sameEnds_dropObj ..)

theorem sameEnds_leaveGroup (s : State) (p : Nat) : SameEnds s (s.leaveGroup p) := by
  unfold State.leaveGroup
  split
  · exact .refl _
  · refine .trans ?_ (sameEnds_modPtn fun _ => rfl)
    exact ((sends_sendLeave ..).sameEnds.trans (sameEnds_endGroupRun ..)).trans (sameEnds_dropJoins ..)

theorem sameEnds_dropStores (s : State) (mine : Req → Bool) : SameEnds s (s.dropStores mine) :=
  (flashOnly_modFlash ..).sameEnds.trans (flashOnly_leaveDirty ..).sameEnds

theorem sameEnds_dropWork (s : State) (mine : Req → Bool) : SameEnds s (s.dropWork mine) := by
  unfold State.dropWork
  exact (SameEnds.update (sameEnds_dropStores ..)).trans (sameEnds_modFelt ..)

theorem sameEnds_destroyCtx (s : State) (c : CtxNo) : SameEnds s (s.destroyCtx c) := by
  unfold State.destroyCtx
  refine .trans ?_ (sameEnds_quotaClear ..)
  refine .update ?_
  split
  · refine .update ?_
    refine .trans ?_ (sameEnds_foldl (fun _ _ => sameEnds_dropObj ..) ..)
    refine .trans ?_ (sameEnds_foldl (fun _ _ => sameEnds_dropWeights ..) ..)
    refine .update ?_
    refine .trans ?_ (sameEnds_foldl (fun _ _ => sameEnds_closeSeq ..) ..)
    refine .trans ?_ (sameEnds_abortWhere ..)
    refine .trans ?_ (sameEnds_dropWork ..)
    refine .trans ?_ (sameEnds_modPtn fun _ => rfl)
    exact ((sameEnds_modCtx ..).trans (sameEnds_checkEnded ..)).trans (sameEnds_removeRuns ..)
  · refine .trans ?_ (sameEnds_foldl (fun _ _ => sameEnds_dropObj ..) ..)
    refine .trans ?_ (sameEnds_foldl (fun _ _ => sameEnds_dropWeights ..) ..)
    refine .update ?_
    refine .trans ?_ (sameEnds_foldl (fun _ _ => sameEnds_closeSeq ..) ..)
    refine .trans ?_ (sameEnds_abortWhere ..)
    refine .trans ?_ (sameEnds_dropWork ..)
    refine .trans ?_ (sameEnds_modPtn fun _ => rfl)
    exact ((sameEnds_modCtx ..).trans (sameEnds_checkEnded ..)).trans (sameEnds_removeRuns ..)

end Sys2Proof.Machine
end

section
/-! SUPPORT. A port attaches and detaches; partitions without their host (18 R448 to R452). -/

namespace Sys2Proof.Machine

/-! ### The end of one partition -/

/-- Every partition but r stands in t with its orphan limit, and is being destroyed if it was. -/
structure EndsBut (r : Nat) (s t : State) : Prop where
  ends : ∀ p, p ≠ r → (t.ptn? p).map Partition.ends = (s.ptn? p).map Partition.ends

theorem EndsBut.trans {r : Nat} {s t u : State} (h : EndsBut r s t) (k : EndsBut r t u) : EndsBut r s u :=
  ⟨fun p hp => (k.ends p hp).trans (h.ends p hp)⟩

theorem SameEnds.but {s t : State} (h : SameEnds s t) (r : Nat) : EndsBut r s t := ⟨fun p _ => h.ends p⟩

theorem endsBut_modPtn (s : State) (r : Nat) (f : Partition → Partition) : EndsBut r s (s.modPtn r f) := by
  refine ⟨fun p hp => ?_⟩
  rw [ptn?_modPtn, if_neg hp]

theorem endsBut_emptyPtn (s : State) (r : Nat) : EndsBut r s (s.emptyPtn r) := by
  unfold State.emptyPtn
  split
  · exact (SameEnds.refl s).but r
  · refine .trans ?_ (endsBut_modPtn ..)
    refine .trans ?_ (SameEnds.but (.update (sameEnds_destroyCtx ..)) r)
    refine .trans ?_ ((sameEnds_foldl (fun _ _ => sameEnds_destroyCtx ..) _ _).but r)
    refine .trans ?_ (endsBut_modPtn ..)
    refine .trans ?_ ((sameEnds_foldl (fun _ _ => sameEnds_finish ..) _ _).but r)
    refine .trans ?_ ((sameEnds_leaveGroup ..).but r)
    exact .trans ((sameEnds_foldl (fun _ _ => sameEnds_zeroTier ..) _ _).but r) (endsBut_modPtn ..)

theorem freePtn_gone (s : State) (r : Nat) : (s.freePtn r).ptn? r = none ∧ EndsBut r s (s.freePtn r) := by
  cases h : s.ptn? r with
  | none =>
    have e : s.freePtn r = s := by rw [State.freePtn, h]
    rw [e]
    exact ⟨h, (SameEnds.refl s).but r⟩
  | some x =>
    obtain ⟨hgone, hother, -⟩ := freePtn_leaves h
    exact ⟨hgone, ⟨fun p hp => by rw [hother p hp]⟩⟩

/-- A partition that has expired is gone, and no other ends. -/
theorem expire_gone (s : State) (r : Nat) (h : Fin 2) : (s.expire r h).ptn? r = none ∧ EndsBut r s (s.expire r h) := by
  obtain ⟨hgone, hfree⟩ := freePtn_gone (s.emptyPtn r) r
  have htold : SameEnds (s.destroyPtn r) (s.expire r h) := .trans (sameEnds_eventHosts ..) (sameEnds_report ..)
  refine ⟨Option.map_eq_none_iff.mp ((htold.ends r).trans ?_), ((endsBut_emptyPtn s r).trans hfree).trans (htold.but r)⟩
  exact Option.map_eq_none_iff.mpr hgone

/-! ### Partitions that do not outlive their host -/

/-- A partition of the port whose orphan time is 0 is destroyed as the port detaches (18 R452). -/
def dropOrphan (h : Fin 2) (s : State) (p : Nat) : State :=
  match s.ptn? p with
  | some x => if x.hostCfg.toNat % 2 ^ 27 = 0 && !x.destroying then s.expire p h else s
  | none => s

theorem dropOrphan_but (h : Fin 2) (s : State) (r : Nat) : EndsBut r s (dropOrphan h s r) := by
  unfold dropOrphan
  split
  · split
    · exact (expire_gone ..).2
    · exact (SameEnds.refl s).but r
  · exact (SameEnds.refl s).but r

theorem dropOrphan_none (h : Fin 2) {s : State} {p : Nat} (hp : s.ptn? p = none) (r : Nat) : (dropOrphan h s r).ptn? p = none := by
  by_cases hr : p = r
  · rw [← hr, dropOrphan, hp]
    exact hp
  · exact Option.map_eq_none_iff.mp (((dropOrphan_but h s r).ends p hr).trans (Option.map_eq_none_iff.mpr hp))

theorem dropOrphans_none (h : Fin 2) (rs : List Nat) {s : State} {p : Nat} (hp : s.ptn? p = none) :
    (rs.foldl (dropOrphan h) s).ptn? p = none := by
  induction rs generalizing s with
  | nil => exact hp
  | cons r rs ih => exact ih (dropOrphan_none h hp r)

/-- A partition with an orphan time of 0 among those of the port is gone at the end. -/
theorem dropOrphans_gone (h : Fin 2) {rs : List Nat} {s : State} {p : Nat} (hp : p ∈ rs) {x : Partition} (hx : s.ptn? p = some x)
    (hc : x.hostCfg.toNat % 2 ^ 27 = 0) (hd : x.destroying = false) : (rs.foldl (dropOrphan h) s).ptn? p = none := by
  induction rs generalizing s x with
  | nil => cases hp
  | cons r rs ih =>
    by_cases hr : p = r
    · refine dropOrphans_none h rs ?_
      rw [← hr, dropOrphan, hx]
      dsimp only
      rw [if_pos (by rw [hc, hd]; rfl)]
      exact (expire_gone ..).1
    · have he := (dropOrphan_but h s r).ends p hr
      rw [hx] at he
      obtain ⟨y, hy, e⟩ := Option.map_eq_some_iff.mp he
      rw [Partition.ends, Partition.ends, Prod.mk.injEq] at e
      obtain ⟨ec, ed⟩ := e
      exact ih (List.mem_of_ne_of_mem hr hp) hy (by rw [ec]; exact hc) (ed.trans hd)

/-- With no orphan time of 0 no partition ends. -/
theorem dropOrphans_kept (h : Fin 2) {rs : List Nat} {s : State} (hc : ∀ p x, s.ptn? p = some x → x.hostCfg.toNat % 2 ^ 27 ≠ 0) :
    rs.foldl (dropOrphan h) s = s := by
  refine foldl_stays fun p _ => ?_
  unfold dropOrphan
  split
  next x hx => exact if_neg fun hb => hc p x hx (of_decide_eq_true (Bool.and_eq_true_iff.mp hb).1)
  · rfl

/-! ### Partitions made orphans -/

/-- A partition made an orphan. -/
def orphaned (now : Nat) (x : Partition) : Partition := { x with orphanedAt := some now }

theorem orphaned_ptn? (now : Nat) (rs : List Nat) (s : State) (p : Nat) :
    (rs.foldl (fun st r => st.modPtn r (orphaned now)) s).ptn? p = if p ∈ rs then (s.ptn? p).map (orphaned now) else s.ptn? p := by
  induction rs generalizing s with
  | nil => rfl
  | cons r rs ih =>
    rw [List.foldl_cons, ih, ptn?_modPtn]
    by_cases hr : p = r
    · subst hr
      cases s.ptn? p <;> simp [orphaned]
    · simp [hr]

/-! ### A port detached -/

/-- The fences of host scope of the port's partitions. -/
def fences (s : State) (h : Fin 2) (a : Accepted) : Bool :=
  a.cmd.opcode == 0x90 && a.q.fbScope == 3 && (ctxOf a.q.ring).any fun c => (s.ownedBy h).contains (ptnOf c)

/-- The state as the port leaves it, before its partitions are orphans (18 R449). -/
def portLeft (s : State) (h : Fin 2) : State :=
  { s.modHost h fun x => { x with attached := false, ring := {}, events := {}, wardenMem := [], msixPending := [] } with
    accepted := Lists.modifyIf (fences s h) (fun a => { a with cutOff := true })
      (Lists.modifyIf (fun (a : Accepted) => a.q.ring == Ring.host h) (fun a => { a with void := true }) s.accepted)
    sessions := s.sessions.mapFinIdx fun i x _ => if i = h.val then { x with openedAt := none, challenge := none } else x
    primary := if s.primary != some h then s.primary
      else if (s.host (otherPort h)).attached then some (otherPort h) else none }

/-- The state once the port's partitions are orphans and the detachment has been told. -/
def portGone (s : State) (h : Fin 2) : State :=
  let mask := packBits ((s.ownedBy h).map fun p => (1, p))
  (((s.ownedBy h).foldl (fun st p => st.modPtn p (orphaned s.now)) (portLeft s h)).eventOther h 0x0090 2 h.val mask).report 0x0A h.val mask 0

theorem otherPort_ne (h : Fin 2) : otherPort h ≠ h := by
  revert h
  decide

theorem detach_none {s : State} {h : Fin 2} (ha : (s.host h).attached = false) : s.detach h = s := if_pos (by simp [ha])

theorem detach_attached {s : State} {h : Fin 2} (ha : (s.host h).attached = true) :
    s.detach h = (s.ownedBy h).foldl (dropOrphan h) (portGone s h) := by
  have hother : ∀ f, ((s.modHost h f).host (otherPort h)).attached = (s.host (otherPort h)).attached := fun f => by
    rw [host_modHost, if_neg (otherPort_ne h).symm]
  unfold State.detach portGone portLeft
  rw [if_neg (by simp [ha])]
  dsimp only
  rw [hother]
  rfl

theorem modPtns_hosts (f : Partition → Partition) (rs : List Nat) (s : State) :
    (rs.foldl (fun st r => st.modPtn r f) s).hosts = s.hosts := by
  induction rs generalizing s with
  | nil => rfl
  | cons r rs ih =>
    rw [List.foldl_cons, ih, State.modPtn_hosts]

theorem report_keeps (s : State) (code a0 a1 a2 : Nat) :
    (s.report code a0 a1 a2).ptns = s.ptns ∧ (s.report code a0 a1 a2).hosts = s.hosts := by
  unfold State.report
  split
  · exact ⟨rfl, rfl⟩
  · split <;> exact ⟨rfl, rfl⟩

theorem eventOther_keeps (s : State) (h : Fin 2) (code a0 a1 a2 : Nat) :
    (s.eventOther h code a0 a1 a2).ptns = s.ptns ∧ (s.eventOther h code a0 a1 a2).host h = s.host h := by
  unfold State.eventOther
  split
  · refine ⟨event_ptns .., (host_modHost ..).trans (if_neg (otherPort_ne h))⟩
  · exact ⟨rfl, rfl⟩

theorem told_eventOther (s : State) (h : Fin 2) (code a0 a1 a2 : Nat) : Told s (s.eventOther h code a0 a1 a2) :=
  told_ite _ (told_event ..)

/-- Beside what is told only the partitions' records change after the port has left. -/
theorem told_portGone (s : State) (h : Fin 2) : Told (portLeft s h) (portGone s h) :=
  ((told_foldl (fun _ _ => told_modPtn ..) _ _).trans (told_eventOther ..)).trans (told_report ..)

theorem portGone_ptn? (s : State) (h : Fin 2) (p : Nat) :
    (portGone s h).ptn? p = if p ∈ s.ownedBy h then (s.ptn? p).map (orphaned s.now) else s.ptn? p := by
  have hkeep : (portGone s h).ptns = ((s.ownedBy h).foldl (fun st p => st.modPtn p (orphaned s.now)) (portLeft s h)).ptns :=
    (report_keeps ..).1.trans (eventOther_keeps ..).1
  have hptn : (portGone s h).ptn? p = ((s.ownedBy h).foldl (fun st p => st.modPtn p (orphaned s.now)) (portLeft s h)).ptn? p := by
    rw [State.ptn?, State.ptn?, hkeep]
  exact hptn.trans (orphaned_ptn? ..)

theorem portGone_host (s : State) (h : Fin 2) : (portGone s h).host h = (portLeft s h).host h := by
  have hreport : ∀ (t : State) (code a0 a1 a2 : Nat), (t.report code a0 a1 a2).host h = t.host h := fun t code a0 a1 a2 => by
    rw [State.host, State.host, (report_keeps ..).2]
  have hmod : ((s.ownedBy h).foldl (fun st p => st.modPtn p (orphaned s.now)) (portLeft s h)).host h = (portLeft s h).host h := by
    rw [State.host, State.host, modPtns_hosts]
  exact ((hreport ..).trans (eventOther_keeps ..).2).trans hmod

theorem portLeft_host (s : State) (h : Fin 2) : (portLeft s h).host h =
    { s.host h with attached := false, ring := {}, events := {}, wardenMem := [], msixPending := [] } :=
  (host_modHost s h h fun x =>
    { x with attached := false, ring := {}, events := {}, wardenMem := [], msixPending := [] }).trans (if_pos rfl)

/-- The operator session of the port and its challenge end (14 R360). -/
theorem portLeft_channel (s : State) (h : Fin 2) :
    ((portLeft s h).channel h.val).openedAt = none ∧ ((portLeft s h).channel h.val).challenge = none := by
  have hlt : h.val < 3 := by omega
  simp [State.channel, portLeft, hlt]

/-- The commands of the port's ring are void. -/
theorem portLeft_void (s : State) (h : Fin 2) (a : Accepted) (ha : a ∈ (portLeft s h).accepted) (hr : a.q.ring = .host h) :
    a.void = true := by
  obtain ⟨b, hb, rfl⟩ := List.mem_map.mp ha
  obtain ⟨c, -, rfl⟩ := List.mem_map.mp hb
  dsimp only at hr ⊢
  by_cases hc : c.q.ring = .host h
  · rw [if_pos (beq_iff_eq.mpr hc)]
    split <;> rfl
  · rw [if_neg (mt beq_iff_eq.mp hc)] at hr
    refine absurd ?_ hc
    split at hr <;> exact hr

theorem mem_ownedBy {s : State} {p : Nat} {x : Partition} (hx : s.ptn? p = some x) (h : Fin 2) :
    p ∈ s.ownedBy h ↔ x.orphanedAt = none ∧ x.owner = some h := by
  have howner : s.owner p = if x.orphanedAt.isSome then none else x.owner := by rw [State.owner, hx]
  rw [State.ownedBy, List.mem_filter, howner]
  cases ho : x.orphanedAt <;> simp [ptnNos_mem hx]

theorem portGone_mine {s : State} {h : Fin 2} {p : Nat} {x : Partition} (hx : s.ptn? p = some x) (hm : p ∈ s.ownedBy h) :
    (portGone s h).ptn? p = some (orphaned s.now x) := by
  rw [portGone_ptn?, if_pos hm, hx]
  rfl

theorem portGone_hostCfg {s : State} {h : Fin 2} {p : Nat} {y : Partition} (hy : (portGone s h).ptn? p = some y) :
    ∃ x, s.ptn? p = some x ∧ y.hostCfg = x.hostCfg := by
  rw [portGone_ptn?] at hy
  split at hy
  · obtain ⟨x, hx, rfl⟩ := Option.map_eq_some_iff.mp hy
    exact ⟨x, hx, rfl⟩
  · exact ⟨y, hy, rfl⟩

/-- A detachment that ends no partition. -/
theorem detach_keeping {s : State} {h : Fin 2} (ha : (s.host h).attached = true)
    (hc : ∀ p x, s.ptn? p = some x → x.hostCfg.toNat % 2 ^ 27 ≠ 0) : s.detach h = portGone s h := by
  rw [detach_attached ha]
  refine dropOrphans_kept h fun p y hy => ?_
  obtain ⟨x, hx, e⟩ := portGone_hostCfg hy
  rw [e]
  exact hc p x hx

theorem detach_ends {s : State} {h : Fin 2} {p : Nat} {x : Partition} (ha : (s.host h).attached = true) (hx : s.ptn? p = some x)
    (hown : x.owner = some h) (horph : x.orphanedAt = none) (hc : x.hostCfg.toNat % 2 ^ 27 = 0) (hd : x.destroying = false) :
    (s.detach h).ptn? p = none := by
  have hm : p ∈ s.ownedBy h := (mem_ownedBy hx h).mpr ⟨horph, hown⟩
  rw [detach_attached ha]
  exact dropOrphans_gone h hm (portGone_mine hx hm) hc hd

/-- What a detachment that ends no partition leaves. -/
theorem portGone_leaves (s : State) (h : Fin 2) :
    (portGone s h).primary = (portLeft s h).primary ∧ (portGone s h).sessions = (portLeft s h).sessions ∧
      (portGone s h).accepted = (portLeft s h).accepted ∧ (portGone s h).objs = s.objs ∧ (portGone s h).tier1 = s.tier1 ∧
      (portGone s h).live = s.live := by
  obtain ⟨_, _, _, _, _, e⟩ := told_portGone s h
  rw [e]
  exact ⟨rfl, rfl, rfl, rfl, rfl, rfl⟩

/-! ### The orphan time -/

/-- Nothing happens to the partition: Calm, not an orphan, being destroyed, or an orphan time that never ends. -/
def NeverExpires (s : State) (x : Partition) : Prop :=
  s.power = .calm ∨ x.orphanedAt = none ∨ x.destroying = true ∨ x.hostCfg.toNat % 2 ^ 27 = 0x7FFFFFF

theorem orphanExpiry_eq {s : State} {p : Fin 8} {x : Partition} (hx : s.ptn? p.val = some x) :
    orphanExpiryEffect p s = if s.power = .calm || x.orphanedAt.isNone || x.destroying || x.hostCfg.toNat % 2 ^ 27 = 0x7FFFFFF ||
      s.orphanTime x < x.hostCfg.toNat % 2 ^ 27 * 1000 then s else s.expire p.val (x.owner.getD 0) := by
  rw [orphanExpiryEffect, hx]

theorem expires_iff (s : State) (x : Partition) :
    ((s.power = .calm || x.orphanedAt.isNone || x.destroying || x.hostCfg.toNat % 2 ^ 27 = 0x7FFFFFF ||
      s.orphanTime x < x.hostCfg.toNat % 2 ^ 27 * 1000) = true) ↔
      NeverExpires s x ∨ s.orphanTime x < x.hostCfg.toNat % 2 ^ 27 * 1000 := by
  simp only [Bool.or_eq_true, decide_eq_true_eq, Option.isNone_iff_eq_none, NeverExpires, or_assoc]

theorem orphanExpiry_never {s : State} {p : Fin 8} (h : ∀ x, s.ptn? p.val = some x → NeverExpires s x) :
    orphanExpiryEffect p s = s := by
  cases hx : s.ptn? p.val with
  | none => rw [orphanExpiryEffect, hx]
  | some x =>
    rw [orphanExpiry_eq hx]
    exact if_pos ((expires_iff s x).mpr (.inl (h x hx)))

/-! ### The ports -/

theorem portAttach_up {s : State} {h : Fin 2} (gen4 : Bool) (hu : s.endpointUp = true) (ha : (s.host h).attached = false) :
    let t := s.modHost h fun x => { x with attached := true, rate := if gen4 then 2 else 1, ring := {}, events := {},
                                           wardenMem := [], msix := [], msixPending := [], hello := false }
    let u := if s.primary.isNone then { t with primary := some h } else t
    portAttachEffect h gen4 s = u.eventOther h 0x0090 1 h.val (if gen4 then 2 else 1) := by
  have hn : ¬(!s.endpointUp || (s.host h).attached) = true := by simp [hu, ha]
  unfold portAttachEffect
  rw [if_neg hn]
  cases gen4 <;> rfl

theorem portAttach_not {s : State} {h : Fin 2} (gen4 : Bool) (hn : s.endpointUp = false ∨ (s.host h).attached = true) :
    portAttachEffect h gen4 s = s := by
  refine if_pos ?_
  rcases hn with e | e <;> simp [e]

/-- Where a detachment ends no partition: the port, its partitions and the primary port (18 R449, R451). -/
theorem portDetach_keeping {s : State} {h : Fin 2} (up : Bool) (ha : (s.host h).attached = true)
    (hc : ∀ p x, s.ptn? p = some x → x.hostCfg.toNat % 2 ^ 27 ≠ 0) :
    ∃ t, exec (.portDetach ⟨h, up⟩) s = .next t ∧ (t.host h).attached = false ∧ (t.host h).ring = {} ∧
       (t.host h).rate = (if up then (s.host h).rate else 0) ∧
       (∀ p x, s.ptn? p = some x → x.owner = some h → x.orphanedAt = none →
         t.owner p = none ∧ ∃ y, t.ptn? p = some y ∧ y.orphanedAt = some s.now ∧ y.owner = some h) ∧
       (∀ p x, s.ptn? p = some x → x.owner ≠ some h → t.ptn? p = some x) ∧
       (s.primary = some h → (s.host (otherPort h)).attached = true → t.primary = some (otherPort h)) ∧
       (s.primary = some h → (s.host (otherPort h)).attached = false → t.primary = none) ∧
       (s.primary ≠ some h → t.primary = s.primary) ∧
       (t.channel h.val).openedAt = none ∧ (t.channel h.val).challenge = none ∧
       (∀ a ∈ t.accepted, a.q.ring = .host h → a.void = true) ∧
       t.objs = s.objs ∧ t.tier1 = s.tier1 ∧ t.live = s.live := by
  obtain ⟨hprimary, hsessions, haccepted, hobjs, htier1, hlive⟩ := portGone_leaves s h
  obtain ⟨hopened, hchallenge⟩ := portLeft_channel s h
  have hhost : ((portGone s h).modHost h fun x => { x with rate := if up then x.rate else 0 }).host h =
      { s.host h with attached := false, ring := {}, events := {}, wardenMem := [], msixPending := [],
                      rate := if up then (s.host h).rate else 0 } := by
    rw [host_modHost, if_pos rfl, portGone_host, portLeft_host]
  have hchannel : ∀ f, ((portGone s h).modHost h f).channel h.val = (portLeft s h).channel h.val := fun f => by
    rw [State.channel, State.channel, ← hsessions]
    rfl
  refine ⟨(portGone s h).modHost h fun x => { x with rate := if up then x.rate else 0 }, ?_, by rw [hhost], by rw [hhost],
    by rw [hhost], fun p x hx hown horph => ?_, fun p x hx hown => ?_, fun hp ho => ?_, fun hp ho => ?_, fun hp => ?_,
    by rw [hchannel, hopened], by rw [hchannel, hchallenge], fun a hm => ?_, hobjs, htier1, hlive⟩
  · exact congrArg (fun t : State => Host.Outcome.next (t.modHost h _)) (detach_keeping ha hc)
  · have hgone := portGone_mine hx ((mem_ownedBy hx h).mpr ⟨horph, hown⟩)
    have howner : (portGone s h).owner p = none := by
      rw [State.owner, hgone]
      rfl
    exact ⟨howner, _, hgone, rfl, hown⟩
  · have hm : p ∉ s.ownedBy h := fun hm => hown ((mem_ownedBy hx h).mp hm).2
    exact ((portGone_ptn? s h p).trans (if_neg hm)).trans hx
  · exact hprimary.trans (by simp [portLeft, hp, ho])
  · exact hprimary.trans (by simp [portLeft, hp, ho])
  · exact hprimary.trans (by simp [portLeft, hp])
  · rw [State.modHost, haccepted] at hm
    exact portLeft_void s h a hm

/-- Settles O27: each row's effect, with the detached state cut into what the port leaves, its orphans and the
partitions that end with it. -/
theorem hostPorts : Obligations.HostPorts := by
  refine ⟨⟨fun s h gen4 hu ha => congrArg _ (portAttach_up gen4 hu ha), fun s h gen4 hn => congrArg _ (portAttach_not gen4 hn)⟩,
    ⟨fun _ _ _ => rfl, fun _ _ ha => detach_none ha, fun _ _ _ _ ha hx hown horph hc hd => detach_ends ha hx hown horph hc hd,
      fun _ _ up ha hc => portDetach_keeping up ha hc, fun _ _ => rfl⟩,
    fun s p h => congrArg _ (orphanExpiry_never h), fun s p x hx hcalm horph hd hlimit => ⟨fun hle => ?_, fun hlt => ?_⟩⟩
  · have hnot : ¬(NeverExpires s x ∨ s.orphanTime x < x.hostCfg.toNat % 2 ^ 27 * 1000) := by
      rintro ((h | h | h | h) | h)
      · exact hcalm h
      · rw [h] at horph
        cases horph
      · rw [h] at hd
        cases hd
      · exact hlimit h
      · exact absurd hle (Nat.not_le_of_lt h)
    exact congrArg Host.Outcome.next ((orphanExpiry_eq hx).trans (if_neg (hnot ∘ (expires_iff s x).mp)))
  · exact congrArg Host.Outcome.next ((orphanExpiry_eq hx).trans (if_pos ((expires_iff s x).mpr (.inr hlt))))

end Sys2Proof.Machine
end
